-- ==== Sys2Proof/Word.lean ====
section
/-! DEFINITION. The word types of the Criux CX2 and their plainest arithmetic (00_scope R3, 02_encoding R16, R28). -/

namespace Sys2Proof

/-- A 32-bit register or instruction word. -/
abbrev Word := BitVec 32

/-- A 64-bit operand: a register pair, an address or a mask with one bit per lane slot. -/
abbrev DWord := BitVec 64

/-- One byte of a memory space. -/
abbrev Byte := BitVec 8

/-- A 7-bit field that names a vector register or a queue port (R28). -/
abbrev VReg := BitVec 7

/-- A 7-bit field that names a uniform register (R28). -/
abbrev SReg := BitVec 7

/-- A 3-bit field that names a predicate (R28). -/
abbrev PReg := BitVec 3

/-- A sparse table: key and value pairs, keys rising, defaults unlisted. -/
abbrev Map (α : Type) := List (Nat × α)

/-- Bits `[hi:lo]` of a number (R3). -/
def bits (x hi lo : Nat) : Nat := x / 2 ^ lo % 2 ^ (hi + 1 - lo)

/-- One bit of a number as a truth value. -/
def bitAt (x i : Nat) : Bool := x / 2 ^ i % 2 == 1

end Sys2Proof
end

