-- ==== Sys2Proof/Config.lean ====
section
/-! DEFINITION. What one implementation fixes and what the manual leaves open: constants without a body, so that
no proof can rest on a value of one of them (log entries 3, 8, 18, 80, 85 to 87). -/

namespace Sys2Proof.Config

/-- A free 32-bit value, fresh for each tick and position (log 18). -/
opaque freeWord : Nat → Nat → BitVec 32

/-- A free choice among `n` things at one tick, taken modulo `n` (log 18). -/
opaque choose : Nat → Nat

/-- A free byte, fresh for each tick and position (log 18). -/
opaque freeByte : Nat → Nat → BitVec 8

/-- The fused serial number (18_host_peers R409). -/
opaque serial : BitVec 64

/-- The public seed of the fused identity key, 16 bytes (18_host_peers R409, R420). -/
opaque identitySeed : List (BitVec 8)

/-- The secret seed of the fused identity key, which never leaves the management controller (18_host_peers R420). -/
opaque identitySecret : List (BitVec 8)

/-- The fused identity key's secret for randomising signatures (18_host_peers R420). -/
opaque identityPrf : List (BitVec 8)

/-- The SHA-256 hash of the firmware public key that the boot ROM holds (18_host_peers R418). -/
opaque romKeyHash : List (BitVec 8)

/-- The randomness that the management controller adds to the signature of a message, which FIPS 205 leaves to it (18_host_peers R420). -/
opaque signRandom : List (BitVec 8) → List (BitVec 8)

/-- A pixel of an encrypted surface as its port shows it under another key than the one it was written under: the two keys (data key, then
tweak key, each), the entry, the pixel's place, the pixel as written. The manual names no cipher for pixels (R279). -/
opaque pixelUnder : (BitVec 256 × BitVec 256) → (BitVec 256 × BitVec 256) → Nat → Nat × Nat → Nat → Nat

/-- The hash of a key into a backing table, which is not architectural (R260, R318). -/
opaque backingHash : Nat → Nat

/-- The share of a cell of its die's isotherm grid that a core covers, in thousandths; the weights are not architectural (R379). -/
opaque coverWeight : Nat → Nat → Nat

/-- The measured floor of a cell's heat flux, in thousandths of 1 W/cm²: stack, tick, cell (R379). -/
opaque floorFlux : Nat → Nat → Nat → Nat

/-- The temperature in °C that the calibrated thermal model predicts for a cell, from the predicted fluxes of the die: stack, tick, fluxes,
cell (R379). -/
opaque cellTemp : Nat → Nat → List Nat → Nat → Nat

/-- The order in which equal work may reach a place: a free permutation index (R265, R289). -/
opaque arrival : Nat → Nat → Nat

/-- A bundle of the vertical buses serves a bank of its stack; the manual gives no wiring (20_errors R441). -/
opaque bundleServes : Nat → Nat → Bool

/-- A bundle of the vertical buses serves a block of the block store, from the block's key; the manual gives no wiring (20_errors R441). -/
opaque bundleHolds : Nat → Nat → Bool

/-- A byte of CXL.io configuration space apart from the MSI-X capability, which an implementation fixes (R407). -/
opaque configByte : Nat → BitVec 8

/-- The offset of the MSI-X capability in configuration space (R408). -/
opaque msixCap : Nat

/-- A byte of a flit's header of 16 bytes, whose inner layout the manual leaves open: source, target, command id, sequence, byte (R411). -/
opaque flitHeader : BitVec 8 → BitVec 8 → BitVec 32 → BitVec 32 → Nat → BitVec 8

/-- A byte of the 16 bytes that hold a flit's CRC-64, whose polynomial the manual does not name: the bytes before it, byte (R411). -/
opaque flitCheck : List (BitVec 8) → Nat → BitVec 8

end Sys2Proof.Config
end

