-- ==== Sys2Proof/Syntax.lean ====
section
/-! DEFINITION. The syntax of Kwexel instructions and of the device's own steps: one constructor of `Instr` for each row
of spec/opcode_table.json. Codes are constructors, register numbers and immediates are bit fields (02_encoding,
03_opcode_map). The chain bit C belongs to the packet, not to the instruction (R16, R19). -/

namespace Sys2Proof

/-- Integer compare codes (05_vector_scalar R91). -/
inductive ICc | eq | ne | lt | le | gt | ge | ltu | leu | gtu | geu
deriving DecidableEq, Repr

/-- Floating compare codes (05_vector_scalar R105). -/
inductive FCc | eq | ne | lt | le | gt | ge | unord | ord | ult | ule | ugt | uge
deriving DecidableEq, Repr

/-- Rounding modes (04_number_formats R68). -/
inductive Rnd | rne | rz | ru | rd
deriving DecidableEq, Repr

/-- The two packed 16-bit formats (05_vector_scalar R106). -/
inductive Half | f16 | bf16
deriving DecidableEq, Repr

/-- The CVT type codes 0 to 13 (03_opcode_map R52). -/
inductive NumTy | f32 | f16 | bf16 | e4m3 | e5m2 | e2m1 | i32 | n32 | i16 | n16 | i8 | n8 | sp8 | e8m0
deriving DecidableEq, Repr

/-- Source types of UNPKLO and UNPKHI (04_number_formats R81). -/
inductive UnpkTy | f16 | bf16 | e4m3 | e5m2 | e2m1
deriving DecidableEq, Repr

/-- Access widths (10_memory_instructions R199). -/
inductive Width | w8 | w16 | w32 | w64
deriving DecidableEq, Repr

/-- Atomic widths (10_memory_instructions R207). -/
inductive AWidth | w32 | w64
deriving DecidableEq, Repr

/-- Scopes of LD and ST (09_consistency R188). -/
inductive Scope | blk | grp | dev | sys
deriving DecidableEq, Repr

/-- Scopes of FENCE (09_consistency R188). -/
inductive FScope | blk | grp | stk | dev | sys
deriving DecidableEq, Repr

/-- Kinds of FENCE (09_consistency R188). -/
inductive FKind | acq | rel | acqrel | full
deriving DecidableEq, Repr

/-- Atomic operations (10_memory_instructions R205). -/
inductive AtomOp
  | add | sub | min | max | minu | maxu | iand | ior | ixor | xchg | cas | fadd | hadd2 | badd2 | incw | decw
deriving DecidableEq, Repr

/-- Levels of PREF (10_memory_instructions R224). -/
inductive PLevel | l1 | llc
deriving DecidableEq, Repr

/-- Element formats of MMA (03_opcode_map R54). -/
inductive MmaFmt | f16 | bf16 | e4m3 | e5m2 | e2m1 | i8 | sp8
deriving DecidableEq, Repr

/-- Element formats of MMAC (03_opcode_map R54). -/
inductive MmacFmt | f16 | bf16 | e4m3
deriving DecidableEq, Repr

/-- Slab counts of a ZOP word (06_matrix R139). -/
inductive SlabCnt | one | two | four
deriving DecidableEq, Repr

/-- Destinations of ZDRAIN (06_matrix R141). -/
inductive Dst | spm | mem | srf
deriving DecidableEq, Repr

/-- The four counted classes (02_encoding R34). -/
inductive OpCls | ld | st | cp | tl
deriving DecidableEq, Repr

/-- A transaction barrier object (11_async_copies R247): in a block's scratchpad; in a context's memory, at an address that the device itself
translates; or in memory at the place that a word's own translation of the address `va` gave: this device (0) or 1 + another, a physical
address, and its key slot. -/
inductive BarObj
  | spm (blk off : Nat)
  | dev (ctx va : Nat)
  | line (place pa : Nat) (key : Option Nat) (va : Nat)
deriving DecidableEq, Repr

/-- An update of a barrier object (11_async_copies R245, R251). -/
inductive BarUpd
  | init (e : Nat)
  | arrive
  | credit (k : Nat)
  | expect (k : Int)
deriving DecidableEq, Repr

/-- What a remote message does at its target (10_memory_instructions R212, 11_async_copies R237, R247), with the operation of its
wave, or the copy, that it belongs to; an arrival carries the address that an overrun is reported with. -/
inductive RemoteOp
  | load (op sub : Nat)
  | store (data : Word) (op sub : Nat)
  | arrive (op addr : Nat)
  | expect (k : Nat)
  | sector (copy k : Nat)
deriving DecidableEq, Repr

/-- A remote message: sending wave and its issue number, target block and generation, offset, and what it does
(10_memory_instructions R211). -/
structure RemoteMsg where
  wave : Nat
  seq : Nat
  core : Nat
  blk : Nat
  gen : Nat
  off : Nat
  op : RemoteOp
deriving DecidableEq, Repr

/-- The four requests to a waypoint entry (12_ordered_sections R264). -/
inductive WpKind | oent | oleave | oskip | oqry
deriving DecidableEq, Repr

/-- A request to a waypoint entry: kind, context, key, sequence number, requesting fibre (R262), and, for a release, the wave and the
operation number before which its accesses are performed first (R266). -/
structure WpReq where
  kind : WpKind
  ctx : Nat
  key : Word
  seq : Word
  uid : Nat
  after : Option (Nat × Nat)
deriving DecidableEq, Repr

/-- The answers of a waypoint entry: granted, stale, the number n, or table full (R264, R274). -/
inductive WpAns | granted (seq : Word) | stale (seq : Word) | value (n : Word) | full (seq : Option Word)
deriving DecidableEq, Repr

/-- A block-store request (14_plot_units R320). -/
structure BsReq where
  kind : Nat
  wave : Nat
  lane : Nat
  op : Nat
  seq : Word
  layer : Word
  handle : Word
  quiet : Bool
deriving DecidableEq, Repr

/-- What a peer command does at its target (18_host_peers R415). -/
inductive PeerOp
  | read (n : Nat)
  | write (n : Nat) (data : DWord)
  | atomic (o : AtomOp) (w : AWidth) (d e : DWord)
deriving DecidableEq, Repr

/-- What a flit carries beside its devices: command id, sequence, and 224 bytes of payload (18_host_peers R411). -/
structure FlitBody where
  cmd : BitVec 32
  seq : BitVec 32
  payload : BitVec 1792
deriving DecidableEq, Repr

/-- A flit of the peer protocol, with its source and target device (18_host_peers R411). -/
structure Flit where
  src : BitVec 8
  dst : BitVec 8
  body : FlitBody
deriving DecidableEq, Repr

/-- Whose frame holds a line: hardware's own frames of a context, the firmware's state, or any other (20_errors R438). -/
inductive FrameOf | other | ctx (c : Nat) | firmware
deriving DecidableEq, Repr

/-- Where a fault lies (20_errors R437): a surface word, given by its row and the thing that holds it; the on-core arrays of a core, with the
block that uses them; a line in an L1, an LLC row or an LLC way; an LLC tag; a table; a line of GDDR7, with the page that maps it; a lane of a
vertical bus; UCIe; a peer link; an entry of the remap table, with those of its three copies that fail; the firmware itself. -/
inductive FaultPlace
  | surface (row pos line : Nat)
  | onCore (core blk : Nat)
  | l1 (core line : Nat) (frame : FrameOf)
  | llcRow (row line : Nat) (frame : FrameOf)
  | llcWay (slice way line : Nat) (frame : FrameOf)
  | llcTag (slice way : Nat)
  | table (unit : Nat)
  | gddr (line : Nat) (frame : FrameOf) (ctx va : Nat)
  | vertical (bundle lane : Nat)
  | ucie
  | link (port : Nat)
  | remap (entry : Nat) (copies : List Nat)
  | firmware
deriving DecidableEq, Repr

/-- A fault that the device's codes detect (20_errors R439): its stack and place, and whether the retry succeeded, else whether the error is
uncorrectable. -/
structure FaultReport where
  stack : Nat
  place : FaultPlace
  ok : Bool
  bad : Bool
deriving DecidableEq, Repr

/-- The steps of the device that have no encoding, with their arguments: the rows of spec/opcode_table.json without bits.
`Instr` has the same constructors; this type is what the state holds of steps that are under way. -/
inductive Ev
  /-- RESET (R418). -/
  | reset
  /-- FRSTRB_EDGE (R382). -/
  | frstrbEdge
  /-- CREATE (R387). -/
  | create (slot : Nat)
  /-- UPDATE (R387). -/
  | update (slot : Nat)
  /-- KILL (R389). -/
  | kill (slot : Nat)
  /-- ATTEST (R420). -/
  | attest (slot : Nat)
  /-- ROUTE (R412). -/
  | route (slot : Nat)
  /-- LOG (R444). -/
  | log (slot : Nat)
  /-- STACKRESET (R444). -/
  | stackreset (slot : Nat)
  /-- THERMAL (R410). -/
  | thermal (slot : Nat)
  /-- UNKNOWN_OPCODE (R410). -/
  | unknownOpcode (slot : Nat)
  /-- LAUNCH_DOORBELL (R388). -/
  | launchDoorbell (ctx q : Nat)
  /-- LAUNCH_QUEUE_ENTRY (R361). -/
  | launchQueueEntry (ctx q : Nat)
  /-- MSI_X_TABLE_ENTRY (R408). -/
  | msiXTableEntry (v part : Nat) (value : Word)
  /-- REGISTER_WRITE (R409). -/
  | registerWrite (off n : Nat) (value : DWord)
  /-- CXL_MEM_ACCESS (R407). -/
  | cxlMemAccess (write : Bool) (pa n : Nat) (value : DWord)
  /-- PEER_COMMAND (R415). -/
  | peerCommand (src origin id ctx pa : Nat) (op : PeerOp)
  /-- FLIT_FORWARD (R412). -/
  | flitForward (src dst : BitVec 8) (payload : FlitBody)
  /-- REPLAY (R416). -/
  | replay (port : Nat)
  /-- LINK_DOWN (R416). -/
  | linkDown (port : Nat)
  /-- LINK_RECOVERY (R416). -/
  | linkRecovery (port : Nat)
  /-- TEMPERATURE_ABOVE_LIMIT (R446). -/
  | temperatureAboveLimit (stack : Nat)
  /-- THROTTLE_STEP (R446). -/
  | throttleStep (stack : Nat)
  /-- THERMAL_TRIP (R446). -/
  | thermalTrip (stack : Nat)
  /-- REGULATOR_FAULT (R446). -/
  | regulatorFault
  /-- REGULATOR_FAULT_CLEARED (R446). -/
  | regulatorFaultCleared
  /-- POWER_ARBITER_STEP (R380). -/
  | powerArbiterStep (stack k : Nat)
  /-- FAULT_RETRY (R439). -/
  | faultRetry (f : FaultReport)
  /-- SURVEYOR_PASS (R440). -/
  | surveyorPass (stack : Nat) (corrected : List (Nat × Nat × Bool)) (bad : List (Nat × Nat))
  /-- VERTICAL_BUS_REPAIR (R441). -/
  | verticalBusRepair (stack bundle lane : Nat)
  /-- REPAIR_REMAP (R441). -/
  | repairRemap (stack bundle lane : Nat)
  /-- BLOCK_ADMIT (R365). -/
  | blockAdmit (stack : Nat)
  /-- ADMISSION_WAIT_EXPIRY (R365). -/
  | admissionWaitExpiry (stack launch : Nat)
  /-- BLOCK_RETIRE (R350). -/
  | blockRetire (blk : Nat)
  /-- COMPLETION_ARRIVAL (R364). -/
  | completionArrival (ctx va record source : Nat)
  /-- WAVE_TO_PENDING (R370). -/
  | waveToPending (wave : Nat)
  /-- PENDING_WAVE_READY (R370). -/
  | pendingWaveReady (wave : Nat)
  /-- FORCED_EXCHANGE (R371). -/
  | forcedExchange (core : Nat)
  /-- SAVE_ON_WAIT (R373). -/
  | saveOnWait (blk : Nat)
  /-- SAVE_COMPLETE (R374). -/
  | saveComplete (blk : Nat)
  /-- RELAUNCH (R376). -/
  | relaunch (blk : Nat)
  /-- MIGRATION (R377). -/
  | migration (blk : Nat)
  /-- MIGRATION_COMPLETE (R377). -/
  | migrationComplete (blk core : Nat)
  /-- FORWARDING_ENTRY_RELEASE (R378). -/
  | forwardingEntryRelease (blk : Nat)
  /-- PREEMPTION_REQUEST (R432). -/
  | preemptionRequest (blk : Nat)
  /-- TRAP_ENTRY (R425). -/
  | trapEntry (wave : Nat)
  /-- BARRIER_OVERRUN_REPORT (R249). -/
  | barrierOverrunReport (wave : Nat) (taddr : Nat)
  /-- DROPPED_BARRIER_REQUEST (R247). -/
  | droppedBarrierRequest (wave : Nat) (lanes taddr packet slot : Nat) (dst : Option PReg)
  /-- TABLE_FULL_REPORT (R274). -/
  | tableFullReport (wave lanes : Nat) (key : Word) (skip : Bool)
  /-- BLOCK_STORE_FAILURE (R321). -/
  | blockStoreFailure (wave lanes reason : Nat)
  /-- PEER_REFUSAL (R414). -/
  | peerRefusal (wave va : Nat) (write : Bool)
  /-- POOL_WAVE_START (R348). -/
  | poolWaveStart (blk : Nat)
  /-- COUNTED_OP_COMPLETE (R34). -/
  | countedOpComplete (wave : Nat) (cls : OpCls)
  /-- HOME_SLICE_REQUEST (R168). -/
  | homeSliceRequest (wave op sub : Nat)
  /-- L1_EVICTION (R175). -/
  | l1Eviction (core line : Nat)
  /-- EVICTION_NOTICE (R175). -/
  | evictionNotice (core line : Nat) (data : Option (List Byte))
  /-- REGION_NOTICE (R175). -/
  | regionNotice (cluster region : Nat)
  /-- NOTICE_ACK (R175). -/
  | noticeAck (cluster region : Nat)
  /-- PROBE (R176). -/
  | probe (cluster line : Nat) (inval : Bool)
  /-- PROBE_ACK (R176). -/
  | probeAck (cluster line : Nat) (regionEmpty : Bool) (data : Option (List Byte))
  /-- QUEUE_STREAM_FETCH (R180). -/
  | queueStreamFetch (wave q : Nat)
  /-- QUEUE_STREAM_DRAIN (R182). -/
  | queueStreamDrain (wave op : Nat)
  /-- PAGE_WALK (R399). -/
  | pageWalk (core ctx va : Nat)
  /-- PAGE_MIGRATION (R402). -/
  | pageMigration (ctx va : Nat) (retire : Bool)
  /-- PAGE_MIGRATION_COMPLETE (R402). -/
  | pageMigrationComplete (ctx va frame : Nat)
  /-- COLLAPSE_REQUEST (R403). -/
  | collapseRequest (ctx va writer frame : Nat)
  /-- GROUP_REWRITE (R403). -/
  | groupRewrite (ctx va writer frame lead : Nat)
  /-- COLLAPSE_GRANT (R403). -/
  | collapseGrant (ctx va : Nat)
  /-- COPY_START (R231). -/
  | copyStart (id : Nat)
  /-- SECTOR_LAND (R229). -/
  | sectorLand (id k : Nat)
  /-- BARRIER_UPDATE (R244). -/
  | barrierUpdate (wave : Option Nat) (obj : BarObj) (upd : BarUpd)
  /-- REMOTE_BARRIER_REQUEST (R250). -/
  | remoteBarrierRequest (wave lanes gen addr : Nat) (obj : BarObj) (phase : Nat) (test : Option PReg)
  /-- BWAIT_RELEASE (R252). -/
  | bwaitRelease (wave : Nat) (obj : BarObj)
  /-- REMOTE_MESSAGE (R212). -/
  | remoteMessage (m : RemoteMsg)
  /-- TILE_OP_FIRE (R142). -/
  | tileOpFire (blk : Nat)
  /-- OPERANDS_CONSUMED (R132). -/
  | operandsConsumed (blk id : Nat)
  /-- TILE_OP_COMPLETE (R142). -/
  | tileOpComplete (blk id : Nat)
  /-- WAYPOINT_REQUEST (R264). -/
  | waypointRequest (r : WpReq)
  /-- WAYPOINT_MULTICAST (R265). -/
  | waypointMulticast (core ctx : Nat) (key n : Word)
  /-- WAYPOINT_CLAIM (R265). -/
  | waypointClaim (r : WpReq)
  /-- WAYPOINT_ANSWER (R265). -/
  | waypointAnswer (uid : Nat) (key : Word) (ans : WpAns)
  /-- DEADLOCK_WALK (R268). -/
  | deadlockWalk (uid : Nat)
  /-- WAYPOINT_GAP (R269). -/
  | waypointGap (uid : Nat)
  /-- MCAS_LOCK_REQUEST (R275). -/
  | mcasLockRequest (id : Nat)
  /-- MCAS_LOCK_ACK (R275). -/
  | mcasLockAck (id : Nat)
  /-- BATCH_ACCEPT (R290). -/
  | batchAccept (id : Nat)
  /-- RASTERISE (R295). -/
  | rasterise (stack : Nat)
  /-- FRAGMENT_WAVE_LAUNCH (R296). -/
  | fragmentWaveLaunch (stack : Nat)
  /-- EXPORT_ENTRY (R299). -/
  | exportEntry (id : Nat)
  /-- ROP_APPLY (R300). -/
  | ropApply (stack bank : Nat)
  /-- DEPTH_VERDICT (R301). -/
  | depthVerdict (id : Nat) (pass : Bool)
  /-- CELL_EVICTION (R285). -/
  | cellEviction (stack : Nat)
  /-- CELL_FETCH_BACK (R286). -/
  | cellFetchBack (ctx ste cx cy : Nat)
  /-- SURFACE_POOL_WAIT (R286). -/
  | surfacePoolWait (ctx ste cx cy : Nat)
  /-- SRFSET_PERFORM (R282). -/
  | srfsetPerform (id : Nat)
  /-- PLOT_ACCEPT (R315). -/
  | plotAccept (id stack : Nat)
  /-- PLOT_UNIT_START (R315). -/
  | plotUnitStart (stack unit : Nat)
  /-- PLOT_THREAD_ISSUE (R311). -/
  | plotThreadIssue (stack unit thread : Nat)
  /-- PLOT_WORD_LIMIT (R316). -/
  | plotWordLimit (stack unit thread : Nat)
  /-- PLOT_COMPLETE (R316). -/
  | plotComplete (id : Nat)
  /-- BLOCK_STORE_REQUEST (R320). -/
  | blockStoreRequest (r : BsReq)
  /-- BLOCK_EVICTION (R323). -/
  | blockEviction (ctx stack : Nat)
  /-- MAILBOX_DOORBELL (R409). -/
  | mailboxDoorbell (index : Nat)
  /-- LINK_RETRAIN_COMPLETE (R416). -/
  | linkRetrainComplete (port : Nat)
  /-- IDE_KEY_MANAGEMENT (R407). -/
  | ideKeyManagement (proto : Nat) (key : BitVec 256)
  /-- COLLAPSE_ANSWER (R403). -/
  | collapseAnswer (ctx va device : Nat)
deriving DecidableEq, Repr

/-- One constructor for each row of spec/opcode_table.json: first the instructions, then the steps of the device that have
no encoding; a step names its arguments. -/
inductive Instr
  /-- NOP (R24). -/
  | nop
  /-- HALT (R331). -/
  | halt
  /-- EXIT (R329). -/
  | exit
  /-- YIELD (R330). -/
  | yield
  /-- CONV (R332). -/
  | conv
  /-- TRET (R429). -/
  | tret
  /-- BRK (R429). -/
  | brk
  /-- BRA (R333). -/
  | bra (d : BitVec 8)
  /-- BR (R333). -/
  | br (p : PReg) (n : Bool) (d : BitVec 8)
  /-- BRALL (R333). -/
  | brall (p : PReg) (n : Bool) (d : BitVec 8)
  /-- BRANY (R333). -/
  | brany (p : PReg) (n : Bool) (d : BitVec 8)
  /-- JMPS (R334). -/
  | jmps (a : SReg)
  /-- JMPV (R334). -/
  | jmpv (a : VReg)
  /-- CALL (R335). -/
  | call (d : VReg) (k : BitVec 3) (i : BitVec 8)
  /-- CALLV (R335). -/
  | callv (d a : VReg) (k : BitVec 3)
  /-- RET (R335). -/
  | ret (a : VReg)
  /-- LOOPI (R337). -/
  | loopi (n e : BitVec 8)
  /-- LOOPS (R337). -/
  | loops (s : SReg) (e : BitVec 8)
  /-- LBRK (R339). -/
  | lbrk
  /-- REP (R341). -/
  | rep (n : BitVec 6) (x y z : Bool) (s : BitVec 2)
  /-- WAIT (R343). -/
  | wait (l s p t : BitVec 6)
  /-- TRAP (R429). -/
  | trap (k : BitVec 8)
  /-- SPAWN (R345). -/
  | spawn (d a : VReg) (i : BitVec 8)
  /-- SPAWNP (R345). -/
  | spawnp (d a : VReg) (i : BitVec 8)
  /-- REGROUP (R347). -/
  | regroup (a : VReg) (i : BitVec 8)
  /-- FLUSHRG (R348). -/
  | flushrg
  /-- FIBRD (R431). -/
  | fibrd (d : VReg) (i : BitVec 8)
  /-- FIBWR (R431). -/
  | fibwr (a : VReg) (i : BitVec 8)
  /-- SADD (R90). -/
  | sadd (d a b : SReg)
  /-- SSUB (R90). -/
  | ssub (d a b : SReg)
  /-- SMUL (R90). -/
  | smul (d a b : SReg)
  /-- SMULH (R90). -/
  | smulh (d a b : SReg)
  /-- SAND (R90). -/
  | sand (d a b : SReg)
  /-- SOR (R90). -/
  | sor (d a b : SReg)
  /-- SXOR (R90). -/
  | sxor (d a b : SReg)
  /-- SSHL (R90). -/
  | sshl (d a b : SReg)
  /-- SSHR (R90). -/
  | sshr (d a b : SReg)
  /-- SSRA (R90). -/
  | ssra (d a b : SReg)
  /-- SMIN (R90). -/
  | smin (d a b : SReg)
  /-- SMAX (R90). -/
  | smax (d a b : SReg)
  /-- SMINU (R90). -/
  | sminu (d a b : SReg)
  /-- SMAXU (R90). -/
  | smaxu (d a b : SReg)
  /-- SMOV (R90). -/
  | smov (d a : SReg)
  /-- SADDI (R90). -/
  | saddi (d a : SReg) (i : BitVec 8)
  /-- SANDI (R90). -/
  | sandi (d a : SReg) (i : BitVec 8)
  /-- SORI (R90). -/
  | sori (d a : SReg) (i : BitVec 8)
  /-- SXORI (R90). -/
  | sxori (d a : SReg) (i : BitVec 8)
  /-- SSHLI (R90). -/
  | sshli (d a : SReg) (i : BitVec 5)
  /-- SSHRI (R90). -/
  | sshri (d a : SReg) (i : BitVec 5)
  /-- SSRAI (R90). -/
  | ssrai (d a : SReg) (i : BitVec 5)
  /-- SBYTE (R40). -/
  | sbyte (d : SReg) (a : BitVec 2) (i : BitVec 8)
  /-- SCMP (R91). -/
  | scmp (p : PReg) (a b : SReg) (k : ICc)
  /-- CSRR (R92). -/
  | csrr (d : SReg) (i : BitVec 8)
  /-- CSRW (R92). -/
  | csrw (a : SReg) (i : BitVec 8)
  /-- SPR (R94). -/
  | spr (d : VReg) (i : BitVec 8)
  /-- RDLANE (R95). -/
  | rdlane (d : SReg) (a : VReg) (i : BitVec 8)
  /-- MOVS (R92). -/
  | movs (d : VReg) (a : SReg)
  /-- IADD (R96). -/
  | iadd (d a b : VReg)
  /-- ISUB (R96). -/
  | isub (d a b : VReg)
  /-- IMUL (R96). -/
  | imul (d a b : VReg)
  /-- IMULH (R96). -/
  | imulh (d a b : VReg)
  /-- IMULHU (R96). -/
  | imulhu (d a b : VReg)
  /-- AND (R96). -/
  | iand (d a b : VReg)
  /-- OR (R96). -/
  | ior (d a b : VReg)
  /-- XOR (R96). -/
  | ixor (d a b : VReg)
  /-- ANDN (R96). -/
  | andn (d a b : VReg)
  /-- SHL (R96). -/
  | shl (d a b : VReg)
  /-- SHR (R96). -/
  | shr (d a b : VReg)
  /-- SRA (R96). -/
  | sra (d a b : VReg)
  /-- IMIN (R96). -/
  | imin (d a b : VReg)
  /-- IMAX (R96). -/
  | imax (d a b : VReg)
  /-- IMINU (R96). -/
  | iminu (d a b : VReg)
  /-- IMAXU (R96). -/
  | imaxu (d a b : VReg)
  /-- IADDI (R96). -/
  | iaddi (d a : VReg) (i : BitVec 8)
  /-- ANDI (R96). -/
  | andi (d a : VReg) (i : BitVec 8)
  /-- ORI (R96). -/
  | ori (d a : VReg) (i : BitVec 8)
  /-- XORI (R96). -/
  | xori (d a : VReg) (i : BitVec 8)
  /-- SHLI (R96). -/
  | shli (d a : VReg) (i : BitVec 5)
  /-- SHRI (R96). -/
  | shri (d a : VReg) (i : BitVec 5)
  /-- SRAI (R96). -/
  | srai (d a : VReg) (i : BitVec 5)
  /-- MOVI (R96). -/
  | movi (d : VReg) (i : BitVec 8)
  /-- IABS (R97). -/
  | iabs (d a : VReg)
  /-- INEG (R97). -/
  | ineg (d a : VReg)
  /-- NOT (R97). -/
  | inot (d a : VReg)
  /-- POPC (R97). -/
  | popc (d a : VReg)
  /-- CLZ (R97). -/
  | clz (d a : VReg)
  /-- BREV (R97). -/
  | brev (d a : VReg)
  /-- BFE (R98). -/
  | bfe (d a b : VReg)
  /-- BFEU (R98). -/
  | bfeu (d a b : VReg)
  /-- BFI (R98). -/
  | bfi (d a b : VReg)
  /-- IMAD (R97). -/
  | imad (d a b : VReg)
  /-- IDIV (R83). -/
  | idiv (d a b : VReg)
  /-- IDIVU (R83). -/
  | idivu (d a b : VReg)
  /-- IREM (R83). -/
  | irem (d a b : VReg)
  /-- IREMU (R83). -/
  | iremu (d a b : VReg)
  /-- IADDS (R97). -/
  | iadds (d a b : VReg)
  /-- ISUBS (R97). -/
  | isubs (d a b : VReg)
  /-- ICMP (R99). -/
  | icmp (p : PReg) (a b : VReg) (k : ICc)
  /-- FADD (R100). -/
  | fadd (d a b : VReg) (r : Rnd)
  /-- FSUB (R100). -/
  | fsub (d a b : VReg) (r : Rnd)
  /-- FMUL (R100). -/
  | fmul (d a b : VReg) (r : Rnd)
  /-- FFMA (R100). -/
  | ffma (d a b : VReg) (r : Rnd)
  /-- FMIN (R101). -/
  | fmin (d a b : VReg)
  /-- FMAX (R101). -/
  | fmax (d a b : VReg)
  /-- FMINM (R101). -/
  | fminm (d a b : VReg)
  /-- FMAXM (R101). -/
  | fmaxm (d a b : VReg)
  /-- FCPYS (R101). -/
  | fcpys (d a b : VReg)
  /-- FSCALE (R101). -/
  | fscale (d a b : VReg)
  /-- FABS (R102). -/
  | fabs (d a : VReg)
  /-- FNEG (R102). -/
  | fneg (d a : VReg)
  /-- FCLASS (R104). -/
  | fclass (d a : VReg)
  /-- FRND (R102). -/
  | frnd (d a : VReg) (x : Bool) (r : Rnd)
  /-- FSAT (R102). -/
  | fsat (d a : VReg)
  /-- FGETE (R103). -/
  | fgete (d a : VReg)
  /-- FGETM (R103). -/
  | fgetm (d a : VReg)
  /-- FCMP (R105). -/
  | fcmp (p : PReg) (a b : VReg) (k : FCc)
  /-- HADD2 (R106). -/
  | hadd2 (d a b : VReg) (t : Half)
  /-- HSUB2 (R106). -/
  | hsub2 (d a b : VReg) (t : Half)
  /-- HMUL2 (R106). -/
  | hmul2 (d a b : VReg) (t : Half)
  /-- HFMA2 (R106). -/
  | hfma2 (d a b : VReg) (t : Half)
  /-- HMIN2 (R106). -/
  | hmin2 (d a b : VReg) (t : Half)
  /-- HMAX2 (R106). -/
  | hmax2 (d a b : VReg) (t : Half)
  /-- DOT2H (R108). -/
  | dot2h (d a b : VReg)
  /-- DOT2B (R108). -/
  | dot2b (d a b : VReg)
  /-- DOT4E4 (R108). -/
  | dot4e4 (d a b : VReg)
  /-- DOT4E5 (R108). -/
  | dot4e5 (d a b : VReg)
  /-- DOT4I (R109). -/
  | dot4i (d a b : VReg)
  /-- DOT4IN (R109). -/
  | dot4in (d a b : VReg)
  /-- DOT8F (R108). -/
  | dot8f (d a b : VReg)
  /-- DOT4S (R108). -/
  | dot4s (d a b : VReg)
  /-- CVT (R76). -/
  | cvt (d a : VReg) (e f : NumTy) (r : Rnd) (s : Bool)
  /-- RCP (R110). -/
  | rcp (d a : VReg)
  /-- RSQ (R110). -/
  | rsq (d a : VReg)
  /-- SQRT (R110). -/
  | sqrt (d a : VReg)
  /-- EXP2 (R110). -/
  | exp2 (d a : VReg)
  /-- LOG2 (R110). -/
  | log2 (d a : VReg)
  /-- SIN (R111). -/
  | sin (d a : VReg)
  /-- COS (R111). -/
  | cos (d a : VReg)
  /-- TANH (R110). -/
  | tanh (d a : VReg)
  /-- SHFLI (R114). -/
  | shfli (d a b : VReg)
  /-- SHFLU (R114). -/
  | shflu (d a : VReg) (i : BitVec 7)
  /-- SHFLD (R114). -/
  | shfld (d a : VReg) (i : BitVec 7)
  /-- SHFLX (R114). -/
  | shflx (d a : VReg) (i : BitVec 7)
  /-- BCAST (R114). -/
  | bcast (d a : VReg) (i : BitVec 7)
  /-- VOTEANY (R114). -/
  | voteany (d a : PReg)
  /-- VOTEALL (R114). -/
  | voteall (d a : PReg)
  /-- BALLOT (R114). -/
  | ballot (d : VReg) (a : PReg)
  /-- MATCH (R114). -/
  | matchv (d a : VReg)
  /-- WREDADD (R114). -/
  | wredadd (d a : VReg)
  /-- WREDFADD (R115). -/
  | wredfadd (d a : VReg)
  /-- WREDMIN (R114). -/
  | wredmin (d a : VReg)
  /-- WREDMAX (R114). -/
  | wredmax (d a : VReg)
  /-- WREDFMAX (R114). -/
  | wredfmax (d a : VReg)
  /-- WSCAN (R114). -/
  | wscan (d a : VReg)
  /-- PAND (R117). -/
  | pand (d a b : PReg)
  /-- POR (R117). -/
  | por (d a b : PReg)
  /-- PXOR (R117). -/
  | pxor (d a b : PReg)
  /-- PANDN (R117). -/
  | pandn (d a b : PReg)
  /-- PNOT (R117). -/
  | pnot (d a : PReg)
  /-- PRDW (R117). -/
  | prdw (d : VReg)
  /-- PWRW (R117). -/
  | pwrw (a : VReg)
  /-- PK2H (R80). -/
  | pk2h (d a b : VReg) (s : Bool)
  /-- PK2B (R80). -/
  | pk2b (d a b : VReg) (s : Bool)
  /-- PK4E4 (R80). -/
  | pk4e4 (d a b : VReg) (s : Bool)
  /-- PK4E5 (R80). -/
  | pk4e5 (d a b : VReg) (s : Bool)
  /-- PK8F (R80). -/
  | pk8f (d a b : VReg) (s : Bool)
  /-- UNPKLO (R81). -/
  | unpklo (d a : VReg) (t : UnpkTy)
  /-- UNPKHI (R81). -/
  | unpkhi (d a : VReg) (t : UnpkTy)
  /-- SEL (R118). -/
  | sel (d a b : VReg) (p : PReg)
  /-- LD (R200). -/
  | ld (d a : VReg) (s : BitVec 4) (w : Width) (q : Bool) (g : Scope) (x m : Bool)
  /-- ST (R200). -/
  | st (d a : VReg) (s : BitVec 4) (w : Width) (q : Bool) (g : Scope) (m : Bool)
  /-- LDS (R202). -/
  | lds (d a : VReg) (s : BitVec 4) (w : Width) (x : Bool)
  /-- STS (R202). -/
  | sts (d a : VReg) (s : BitVec 4) (w : Width)
  /-- LDP (R204). -/
  | ldp (d a : VReg) (s : BitVec 4) (w : Width) (x : Bool)
  /-- STP (R204). -/
  | stp (d a : VReg) (s : BitVec 4) (w : Width)
  /-- RLD (R211). -/
  | rld (d a k : VReg) (g : BitVec 2)
  /-- RST (R211). -/
  | rst (d a k : VReg) (g : BitVec 2)
  /-- MCST (R211). -/
  | mcst (d a : VReg) (g : BitVec 2)
  /-- ATOM (R205). -/
  | atom (d a : VReg) (s : BitVec 4) (w : AWidth) (o : AtomOp) (r : Bool)
  /-- ATOMS (R209). -/
  | atoms (d a : VReg) (s : BitVec 4) (w : AWidth) (o : AtomOp) (r : Bool)
  /-- MCAS (R218). -/
  | mcas (d a : VReg) (s : BitVec 4)
  /-- FENCE (R222). -/
  | fence (s : FScope) (k : FKind)
  /-- PREF (R224). -/
  | pref (a : VReg) (s : BitVec 4) (l : PLevel)
  /-- CLEAN (R225). -/
  | clean (a : VReg) (s : BitVec 4)
  /-- INVS (R225). -/
  | invs (a : VReg) (s : BitVec 4)
  /-- QLD (R226). -/
  | qld (a : SReg) (q : BitVec 2)
  /-- QST (R226). -/
  | qst (a : SReg) (q : BitVec 2)
  /-- QSTOP (R227). -/
  | qstop (q : BitVec 2)
  /-- QSTAT (R226). -/
  | qstat (d : SReg) (q : BitVec 2)
  /-- CPY (R236). -/
  | cpy (a : SReg) (x : Bool)
  /-- CPYT (R239). -/
  | cpyt (a : SReg) (x : Bool)
  /-- CPYG (R236). -/
  | cpyg (a : SReg) (v : VReg) (x : Bool)
  /-- CPYP (R236). -/
  | cpyp (a : SReg) (x : Bool)
  /-- CPYM (R237). -/
  | cpym (a : SReg) (x : Bool)
  /-- CPYS (R236). -/
  | cpys (a : SReg) (x : Bool)
  /-- CPYB (R236). -/
  | cpyb (a : SReg) (x : Bool)
  /-- CBCFG (R255). -/
  | cbcfg (a : SReg) (n : BitVec 4)
  /-- CBCOM (R256). -/
  | cbcom (n : BitVec 4)
  /-- CBREL (R256). -/
  | cbrel (n : BitVec 4)
  /-- CBQRY (R254). -/
  | cbqry (d : SReg) (n : BitVec 4)
  /-- BINIT (R251). -/
  | binit (g : Bool) (a b : SReg)
  /-- BARV (R249). -/
  | barv (g : Bool) (a : SReg)
  /-- BEXP (R248). -/
  | bexp (g : Bool) (a b : SReg)
  /-- BWAIT (R250). -/
  | bwait (g : Bool) (a b : SReg)
  /-- BTEST (R248). -/
  | btest (g : Bool) (p : PReg) (a b : SReg)
  /-- OENT (R264). -/
  | oent (d a b : VReg)
  /-- OLEAVE (R264). -/
  | oleave (a : VReg)
  /-- OSKIP (R264). -/
  | oskip (a b : VReg)
  /-- OQRY (R266). -/
  | oqry (d a : VReg)
  /-- MMA (R126). -/
  | mma (z : BitVec 5) (a : VReg) (b : BitVec 4) (f : MmaFmt) (t m u n : Bool)
  /-- MMAC (R130). -/
  | mmac (z s : BitVec 5) (q : BitVec 2) (b : BitVec 4) (f : MmacFmt) (x t u n : Bool)
  /-- ZCLR (R139). -/
  | zclr (z : BitVec 5) (s : SlabCnt)
  /-- ZLD (R140). -/
  | zld (z : BitVec 5) (s : SlabCnt) (a : SReg)
  /-- ZST (R140). -/
  | zst (z : BitVec 5) (s : SlabCnt) (a : SReg)
  /-- ZDRAIN (R141). -/
  | zdrain (z : BitVec 5) (s : SlabCnt) (a : SReg) (t : Dst) (l : Bool)
  /-- OPFENCE (R135). -/
  | opfence
  /-- EPISEL (R148). -/
  | episel (a : SReg)
  /-- PRIM (R288). -/
  | prim (a : SReg)
  /-- FEXP (R305). -/
  | fexp (a b : VReg)
  /-- ATTR (R306). -/
  | attr (d a : VReg) (p : Bool) (j : BitVec 3)
  /-- FDISC (R305). -/
  | fdisc
  /-- SRFSET (R308). -/
  | srfset (a b : SReg)
  /-- SRFQRY (R308). -/
  | srfqry (d a : SReg)
  /-- SRFLD (R307). -/
  | srfld (d a : VReg) (b : SReg)
  /-- SRFST (R307). -/
  | srfst (d a : VReg) (b : SReg)
  /-- TEX2 (R310). -/
  | tex2 (d a : VReg) (b : SReg)
  /-- PLOT (R315). -/
  | plot (a : SReg)
  /-- BKA (R320). -/
  | bka (d a : VReg)
  /-- BKT (R320). -/
  | bkt (d a : VReg) (q : Bool)
  /-- BKS (R320). -/
  | bks (d a : VReg)
  /-- BKF (R320). -/
  | bkf (a : VReg)
  /-- LAUNCH (R363). -/
  | launch (d a : SReg)
  /-- TLBINV (R405). -/
  | tlbinv (a b : SReg)
  /-- KEYLD (R406). -/
  | keyld (a b : SReg)
  /-- RESET (R418). -/
  | reset
  /-- FRSTRB_EDGE (R382). -/
  | frstrbEdge
  /-- CREATE (R387). -/
  | create (slot : Nat)
  /-- UPDATE (R387). -/
  | update (slot : Nat)
  /-- KILL (R389). -/
  | kill (slot : Nat)
  /-- ATTEST (R420). -/
  | attest (slot : Nat)
  /-- ROUTE (R412). -/
  | route (slot : Nat)
  /-- LOG (R444). -/
  | log (slot : Nat)
  /-- STACKRESET (R444). -/
  | stackreset (slot : Nat)
  /-- THERMAL (R410). -/
  | thermal (slot : Nat)
  /-- UNKNOWN_OPCODE (R410). -/
  | unknownOpcode (slot : Nat)
  /-- LAUNCH_DOORBELL (R388). -/
  | launchDoorbell (ctx q : Nat)
  /-- LAUNCH_QUEUE_ENTRY (R361). -/
  | launchQueueEntry (ctx q : Nat)
  /-- MSI_X_TABLE_ENTRY (R408). -/
  | msiXTableEntry (v part : Nat) (value : Word)
  /-- REGISTER_WRITE (R409). -/
  | registerWrite (off n : Nat) (value : DWord)
  /-- CXL_MEM_ACCESS (R407). -/
  | cxlMemAccess (write : Bool) (pa n : Nat) (value : DWord)
  /-- PEER_COMMAND (R415). -/
  | peerCommand (src origin id ctx pa : Nat) (op : PeerOp)
  /-- FLIT_FORWARD (R412). -/
  | flitForward (src dst : BitVec 8) (payload : FlitBody)
  /-- REPLAY (R416). -/
  | replay (port : Nat)
  /-- LINK_DOWN (R416). -/
  | linkDown (port : Nat)
  /-- LINK_RECOVERY (R416). -/
  | linkRecovery (port : Nat)
  /-- TEMPERATURE_ABOVE_LIMIT (R446). -/
  | temperatureAboveLimit (stack : Nat)
  /-- THROTTLE_STEP (R446). -/
  | throttleStep (stack : Nat)
  /-- THERMAL_TRIP (R446). -/
  | thermalTrip (stack : Nat)
  /-- REGULATOR_FAULT (R446). -/
  | regulatorFault
  /-- REGULATOR_FAULT_CLEARED (R446). -/
  | regulatorFaultCleared
  /-- POWER_ARBITER_STEP (R380). -/
  | powerArbiterStep (stack k : Nat)
  /-- FAULT_RETRY (R439). -/
  | faultRetry (f : FaultReport)
  /-- SURVEYOR_PASS (R440). -/
  | surveyorPass (stack : Nat) (corrected : List (Nat × Nat × Bool)) (bad : List (Nat × Nat))
  /-- VERTICAL_BUS_REPAIR (R441). -/
  | verticalBusRepair (stack bundle lane : Nat)
  /-- REPAIR_REMAP (R441). -/
  | repairRemap (stack bundle lane : Nat)
  /-- BLOCK_ADMIT (R365). -/
  | blockAdmit (stack : Nat)
  /-- ADMISSION_WAIT_EXPIRY (R365). -/
  | admissionWaitExpiry (stack launch : Nat)
  /-- BLOCK_RETIRE (R350). -/
  | blockRetire (blk : Nat)
  /-- COMPLETION_ARRIVAL (R364). -/
  | completionArrival (ctx va record source : Nat)
  /-- WAVE_TO_PENDING (R370). -/
  | waveToPending (wave : Nat)
  /-- PENDING_WAVE_READY (R370). -/
  | pendingWaveReady (wave : Nat)
  /-- FORCED_EXCHANGE (R371). -/
  | forcedExchange (core : Nat)
  /-- SAVE_ON_WAIT (R373). -/
  | saveOnWait (blk : Nat)
  /-- SAVE_COMPLETE (R374). -/
  | saveComplete (blk : Nat)
  /-- RELAUNCH (R376). -/
  | relaunch (blk : Nat)
  /-- MIGRATION (R377). -/
  | migration (blk : Nat)
  /-- MIGRATION_COMPLETE (R377). -/
  | migrationComplete (blk core : Nat)
  /-- FORWARDING_ENTRY_RELEASE (R378). -/
  | forwardingEntryRelease (blk : Nat)
  /-- PREEMPTION_REQUEST (R432). -/
  | preemptionRequest (blk : Nat)
  /-- TRAP_ENTRY (R425). -/
  | trapEntry (wave : Nat)
  /-- BARRIER_OVERRUN_REPORT (R249). -/
  | barrierOverrunReport (wave : Nat) (taddr : Nat)
  /-- DROPPED_BARRIER_REQUEST (R247). -/
  | droppedBarrierRequest (wave : Nat) (lanes taddr packet slot : Nat) (dst : Option PReg)
  /-- TABLE_FULL_REPORT (R274). -/
  | tableFullReport (wave lanes : Nat) (key : Word) (skip : Bool)
  /-- BLOCK_STORE_FAILURE (R321). -/
  | blockStoreFailure (wave lanes reason : Nat)
  /-- PEER_REFUSAL (R414). -/
  | peerRefusal (wave va : Nat) (write : Bool)
  /-- POOL_WAVE_START (R348). -/
  | poolWaveStart (blk : Nat)
  /-- COUNTED_OP_COMPLETE (R34). -/
  | countedOpComplete (wave : Nat) (cls : OpCls)
  /-- HOME_SLICE_REQUEST (R168). -/
  | homeSliceRequest (wave op sub : Nat)
  /-- L1_EVICTION (R175). -/
  | l1Eviction (core line : Nat)
  /-- EVICTION_NOTICE (R175). -/
  | evictionNotice (core line : Nat) (data : Option (List Byte))
  /-- REGION_NOTICE (R175). -/
  | regionNotice (cluster region : Nat)
  /-- NOTICE_ACK (R175). -/
  | noticeAck (cluster region : Nat)
  /-- PROBE (R176). -/
  | probe (cluster line : Nat) (inval : Bool)
  /-- PROBE_ACK (R176). -/
  | probeAck (cluster line : Nat) (regionEmpty : Bool) (data : Option (List Byte))
  /-- QUEUE_STREAM_FETCH (R180). -/
  | queueStreamFetch (wave q : Nat)
  /-- QUEUE_STREAM_DRAIN (R182). -/
  | queueStreamDrain (wave op : Nat)
  /-- PAGE_WALK (R399). -/
  | pageWalk (core ctx va : Nat)
  /-- PAGE_MIGRATION (R402). -/
  | pageMigration (ctx va : Nat) (retire : Bool)
  /-- PAGE_MIGRATION_COMPLETE (R402). -/
  | pageMigrationComplete (ctx va frame : Nat)
  /-- COLLAPSE_REQUEST (R403). -/
  | collapseRequest (ctx va writer frame : Nat)
  /-- GROUP_REWRITE (R403). -/
  | groupRewrite (ctx va writer frame lead : Nat)
  /-- COLLAPSE_GRANT (R403). -/
  | collapseGrant (ctx va : Nat)
  /-- COPY_START (R231). -/
  | copyStart (id : Nat)
  /-- SECTOR_LAND (R229). -/
  | sectorLand (id k : Nat)
  /-- BARRIER_UPDATE (R244). -/
  | barrierUpdate (wave : Option Nat) (obj : BarObj) (upd : BarUpd)
  /-- REMOTE_BARRIER_REQUEST (R250). -/
  | remoteBarrierRequest (wave lanes gen addr : Nat) (obj : BarObj) (phase : Nat) (test : Option PReg)
  /-- BWAIT_RELEASE (R252). -/
  | bwaitRelease (wave : Nat) (obj : BarObj)
  /-- REMOTE_MESSAGE (R212). -/
  | remoteMessage (m : RemoteMsg)
  /-- TILE_OP_FIRE (R142). -/
  | tileOpFire (blk : Nat)
  /-- OPERANDS_CONSUMED (R132). -/
  | operandsConsumed (blk id : Nat)
  /-- TILE_OP_COMPLETE (R142). -/
  | tileOpComplete (blk id : Nat)
  /-- WAYPOINT_REQUEST (R264). -/
  | waypointRequest (r : WpReq)
  /-- WAYPOINT_MULTICAST (R265). -/
  | waypointMulticast (core ctx : Nat) (key n : Word)
  /-- WAYPOINT_CLAIM (R265). -/
  | waypointClaim (r : WpReq)
  /-- WAYPOINT_ANSWER (R265). -/
  | waypointAnswer (uid : Nat) (key : Word) (ans : WpAns)
  /-- DEADLOCK_WALK (R268). -/
  | deadlockWalk (uid : Nat)
  /-- WAYPOINT_GAP (R269). -/
  | waypointGap (uid : Nat)
  /-- MCAS_LOCK_REQUEST (R275). -/
  | mcasLockRequest (id : Nat)
  /-- MCAS_LOCK_ACK (R275). -/
  | mcasLockAck (id : Nat)
  /-- BATCH_ACCEPT (R290). -/
  | batchAccept (id : Nat)
  /-- RASTERISE (R295). -/
  | rasterise (stack : Nat)
  /-- FRAGMENT_WAVE_LAUNCH (R296). -/
  | fragmentWaveLaunch (stack : Nat)
  /-- EXPORT_ENTRY (R299). -/
  | exportEntry (id : Nat)
  /-- ROP_APPLY (R300). -/
  | ropApply (stack bank : Nat)
  /-- DEPTH_VERDICT (R301). -/
  | depthVerdict (id : Nat) (pass : Bool)
  /-- CELL_EVICTION (R285). -/
  | cellEviction (stack : Nat)
  /-- CELL_FETCH_BACK (R286). -/
  | cellFetchBack (ctx ste cx cy : Nat)
  /-- SURFACE_POOL_WAIT (R286). -/
  | surfacePoolWait (ctx ste cx cy : Nat)
  /-- SRFSET_PERFORM (R282). -/
  | srfsetPerform (id : Nat)
  /-- PLOT_ACCEPT (R315). -/
  | plotAccept (id stack : Nat)
  /-- PLOT_UNIT_START (R315). -/
  | plotUnitStart (stack unit : Nat)
  /-- PLOT_THREAD_ISSUE (R311). -/
  | plotThreadIssue (stack unit thread : Nat)
  /-- PLOT_WORD_LIMIT (R316). -/
  | plotWordLimit (stack unit thread : Nat)
  /-- PLOT_COMPLETE (R316). -/
  | plotComplete (id : Nat)
  /-- BLOCK_STORE_REQUEST (R320). -/
  | blockStoreRequest (r : BsReq)
  /-- BLOCK_EVICTION (R323). -/
  | blockEviction (ctx stack : Nat)
  /-- FSTAT (R93). -/
  | fstat (value : Word)
  /-- FTRAP (R93). -/
  | ftrap (value : Word)
  /-- QBASEHI (R178). -/
  | qbasehi (q : BitVec 2) (value : Word)
  /-- QSTRIDE (R179). -/
  | qstride (q : BitVec 2) (value : Word)
  /-- QSTATE (R178). -/
  | qstate (q : BitVec 2) (value : Word)
  /-- HSTATUS (R428). -/
  | hstatus (value : Word)
  /-- SHBASE (R428). -/
  | shbase (high : Bool) (value : Word)
  /-- MAILBOX_DOORBELL (R409). -/
  | mailboxDoorbell (index : Nat)
  /-- LINK_RETRAIN_COMPLETE (R416). -/
  | linkRetrainComplete (port : Nat)
  /-- IDE_KEY_MANAGEMENT (R407). -/
  | ideKeyManagement (proto : Nat) (key : BitVec 256)
  /-- COLLAPSE_ANSWER (R403). -/
  | collapseAnswer (ctx va device : Nat)
deriving DecidableEq, Repr

end Sys2Proof
end

