-- ==== Sys2Proof/Machine/State.lean ====
section
/-! DEFINITION. The state of the machine: every piece of state the manual names, as plain data, and the state right
after reset. Sparse tables (`Map`) list only what differs from their default. INVENTORY.md names the rule of each field. -/

namespace Sys2Proof.Machine

/-! ## Fibres and waves -/

/-- Privilege levels (17_translation R386). -/
inductive Level | user | supervisor | machine
deriving DecidableEq, Repr

/-- Coherence modes of a page (08_memory_spaces R169). -/
inductive Mode | d | s | u
deriving DecidableEq, Repr

/-- A program counter: packet index and slot (02_encoding R17). -/
structure Pc where
  packet : Nat
  slot : Nat
deriving DecidableEq, Repr

/-- A trap condition with its frame (02_encoding R42, 19_traps R425). `next`: tpc is the next chain to issue. `pops` holds the load queues
whose fault markers raised it (08_memory_spaces R181). `addrTold` says whether the spec states the address of the condition, and `infoTold`
has a one in each bit of the detail that it states; the rest is free (DESIGN CHOICE, log 89). `conds` are the floating-point conditions that the
word met beside it, with their lane slots (04_number_formats R70). -/
structure Trap where
  cause : Nat
  tmask : DWord
  taddr : DWord
  tinfo : Word
  next : Bool
  pops : List Nat
  addrTold : Bool
  infoTold : Word
  conds : List (Nat × BitVec 7) := []
deriving DecidableEq, Repr

/-- The parking point a fibre waits at (15_execution_model R328). The phase of a BWAIT is below 16 while the fibre is subscribed,
16 once a flip has answered it, and 32 more than the operand while its request is under way (11_async_copies R250). -/
inductive Park
  | bwait (obj : BarObj) (phase : Nat)
  | btest (obj : BarObj)
  | oent (key seq : Word) (dst : Nat)
  | oqry (key : Word) (dst : Nat)
  | conv
  | regroup (target : Nat) (key : Word)
deriving DecidableEq, Repr

/-- Where the batch goes when its chain completes: it stays (between repeats), to a slot of its packet, or off the end
of the packet (02_encoding R19, R24). -/
inductive NextPc | stay | slot (k : Nat) | off
deriving DecidableEq, Repr

/-- The parked state of a fibre: its parking point, and where its chain leads when it is released (R328). -/
structure Parked where
  kind : Park
  next : NextPc
deriving DecidableEq, Repr

/-- State of a section slot (12_ordered_sections R263, 19_traps R431). -/
inductive SectState | free | held | deferred | awaiting
deriving DecidableEq, Repr

/-- A section slot (12_ordered_sections R263). -/
structure Sect where
  key : Word
  seq : Word
  st : SectState
deriving DecidableEq, Repr

/-- The free section slot. -/
def Sect.none : Sect := { key := 0, seq := 0, st := .free }

/-- Shadow state of a fibre while its wave is in a handler (19_traps R425). `redo`: the fibre issues its parking chain
again (R426). -/
structure Shadow where
  pc : Pc
  preds : BitVec 7
  base : Nat
  park : Option Parked
  trapBatch : Bool
  answered : Bool
  redo : Bool
deriving DecidableEq, Repr

/-- The pixel of a fragment fibre: batch, stack, triangle, sequence number, coordinates (13_raster R296, R297). -/
structure Frag where
  batch : Nat
  stack : Nat
  tri : Nat
  seq : Word
  px : Nat
  py : Nat
deriving DecidableEq, Repr

/-- A fibre (15_execution_model R325). `uid` is the fibre's identity, which moves with it. -/
structure Fibre where
  uid : Nat
  pc : Pc
  preds : BitVec 7
  base : Nat
  padding : Bool
  spawned : Bool
  fragment : Bool
  frag : Option Frag
  window : Map Byte
  slots : List Sect
  park : Option Parked
  shadow : Option Shadow
deriving DecidableEq, Repr

/-- A loop stack entry; count 0 marks an empty entry (15_execution_model R336). -/
structure LoopEntry where
  start : Word
  fin : Word
  count : BitVec 9
deriving DecidableEq, Repr

/-- REP progress, the repstate CSR (02_encoding R32, 15_execution_model R342). -/
structure RepState where
  remaining : BitVec 7
  active : Bool
  steps : BitVec 3
  stride : BitVec 2
deriving DecidableEq, Repr

/-- One fibre's failure of a memory access: lane slot, cause, address, detail. -/
structure LaneFail where
  lane : Nat
  cause : Nat
  addr : Nat
  info : Nat
deriving DecidableEq, Repr

/-- An element held by a load stream (08_memory_spaces R180, R181): its words, or the failures of its fetch. `taken`: a pop has taken its
fault, so each later attempt to pop it fetches it again. -/
structure StreamElem where
  addr : BitVec 64
  step : BitVec 16
  lane : BitVec 16
  landed : Bool
  taken : Bool
  values : Map Word
  faults : List LaneFail
deriving DecidableEq, Repr

/-- A queue stream (08_memory_spaces R178): base, strides, count, flags, elements held, undrained pushes. The base is the address of lane
slot 0's next element, kept modulo 2^64 (R178, R227); its CSRs show bits [47:0]. `since` is the wave's next operation at its QLD or QST:
the stream's fetches follow the stores before it (R180). -/
structure Stream where
  base : BitVec 64
  lanestride : BitVec 16
  step : BitVec 16
  count : BitVec 24
  active : Bool
  underrun : Bool
  overrun : Bool
  zero : Bool
  held : List StreamElem
  pushes : Nat
  since : Nat
deriving DecidableEq, Repr

/-- The stream at a wave's start. -/
def Stream.idle : Stream :=
  { base := 0, lanestride := 0, step := 0, count := 0, active := false, underrun := false, overrun := false,
    zero := false, held := [], pushes := 0, since := 0 }

/-- What one access of a memory operation does at its place. -/
inductive Acc
  | load (sx : Bool)
  | store (data : DWord)
  | atomic (o : AtomOp) (d e : DWord) (ret : Bool)
  | clean
  | inval
deriving DecidableEq, Repr

/-- The space an access reaches (08_memory_spaces R159). `far` is host memory (device 256) or a peer's memory. -/
inductive Space
  | dev (mode : Mode)
  | far (device : Nat)
  | spm
  | lane
  | surf (ste : Nat)
  | remote
deriving DecidableEq, Repr

/-- Where a 4 KiB page of a virtual address leads: its space, first physical byte and key slot. -/
structure PageAt where
  space : Space
  pa : Nat
  key : Option Nat
deriving DecidableEq, Repr

/-- One fibre's access of a memory operation: the byte address in its space, the width in bytes, the key slot of an
encrypted page, the first destination register (physical), the tick of its issue, and the value taken. -/
structure Sub where
  lane : Nat
  space : Space
  va : Nat
  pa : Nat
  n : Nat
  key : Option Nat
  acc : Acc
  dst : Nat
  dstN : Nat
  stamp : Nat
  busy : Bool
  done : Bool
  value : DWord
  extra : DWord
deriving DecidableEq, Repr

/-- The kinds of outstanding operations of a wave, for the kept-order table (09_consistency R185). -/
inductive OpKind | load | store | atomic | mcas | fence (k : FKind) (s : FScope) | fexp | copy | cpym | tile | cache | pref
  | push (q : Nat) | bar (obj : BarObj) (upd : BarUpd)
deriving DecidableEq, Repr

/-- An operation of a wave, in program order, until it has been performed and, when it writes registers, a WAIT has covered it
(02_encoding R34, R36, 09_consistency R185). `counted`: its counter has fallen. -/
structure MemOp where
  id : Nat
  cls : Option OpCls
  kind : OpKind
  acq : Option Scope
  rel : Option Scope
  subs : List Sub
  dests : List (Nat × Nat)
  clobbered : List (Nat × Nat)
  done : Bool
  counted : Bool
deriving DecidableEq, Repr

/-- A dependence that holds a wave's next chain, and may move it to the pending set: every fibre is parked, a counted operation is under
way, or a fetch of a queue stream is (16_scheduling R370). -/
inductive Dep
  | parked
  | op (id : Nat)
  | fetch (q : Nat)
deriving DecidableEq, Repr

/-- A wave (15_execution_model R325 to R330, 02_encoding R32, 19_traps R425, R428). Physical register r of lane slot l
is entry `4096 * l + r` of `vregs`. `cfg` is the wavecfg CSR. -/
structure Wave where
  blk : Nat
  num : Nat
  cfg : Word
  level : Level
  codeBase : DWord
  fibres : Map Fibre
  vregs : Map Word
  sregs : Map Word
  fstat : BitVec 7
  ftrap : BitVec 7
  tcause : BitVec 8
  tpc : Word
  tmask : DWord
  taddr : DWord
  tinfo : Word
  loops : List LoopEntry
  rep : RepState
  repAt : Option Pc
  inHandler : Bool
  superHandler : Bool
  savedBit : Bool
  preemptPending : Bool
  step : Bool
  intLevel : Level
  intBase : DWord
  handlerCause : Nat
  ubank : List Word
  streams : List Stream
  ops : List MemOp
  nextOp : Nat
  nextMsg : Nat
  due : List Trap
  collNext : Nat
  issued : Bool
  firstPacket : Bool
  holds : List Dep := []
  moved : List Dep := []
deriving DecidableEq, Repr

/-! ## Blocks and launches -/

/-- State of a circular-buffer slot (11_async_copies R253). -/
inductive CbState | free | claimed | committed | released
deriving DecidableEq, Repr

/-- A slot of a circular buffer (11_async_copies R253 to R257, 06_matrix R132, R133). The fills that copies and CBCOMs give a slot
follow one another: `fill` is the number of the one in the slot, or of the next one while the slot is free, `rel` that of the
first fill that no CBREL has released, which is the one that a tile operation names, and `refs` holds the fill of each tile
operation that names the slot and has not yet read its operand, so that its length is the slot's reference count. -/
structure CbSlot where
  st : CbState
  fill : Nat
  rel : Nat
  refs : List Nat
deriving DecidableEq, Repr

/-- A circular buffer (11_async_copies R253); count 0 is unconfigured. -/
structure Cbuf where
  base : Nat
  size : Nat
  count : Nat
  p : Nat
  c : Nat
  slots : List CbSlot
  copies : Nat
deriving DecidableEq, Repr

/-- The unconfigured buffer (11_async_copies R253). -/
def Cbuf.empty : Cbuf := { base := 0, size := 0, count := 0, p := 0, c := 0, slots := [], copies := 0 }

/-- A cartouche selection and the EPISEL that made it (07_cartouche R148, R149). -/
structure Sel where
  o : Nat
  n : Nat
  kc : Nat
  b : Nat
  id : Nat
deriving DecidableEq, Repr

/-- A tensor view (06_matrix R125). -/
structure View where
  ste : Nat
  col : Nat
  row : Nat
deriving DecidableEq, Repr

/-- What a queued tile operation does (06_matrix R129, R139). -/
inductive TileKind
  | mma (a : List (Nat × Nat)) (fmt : MmaFmt) (tv mx acc n32 : Bool) (cb slot fill : Nat) (view : View)
  | mmac (src q : Nat) (fmt : MmacFmt) (sat tv acc n32 : Bool) (cb slot fill : Nat) (view : View)
  | zclr
  | zld (off : Nat)
  | zst (off : Nat)
  | zdrain (dst : Dst) (clr : Bool) (origin : Nat) (view : View) (stride : Nat) (t : Word) (sel : Sel)
      (pages : Map PageAt)
  | opfence (ops : List (Nat × Nat))
  | episel (sel : Sel)
deriving DecidableEq, Repr

/-- A tile operation in a block's tile queue (06_matrix R134): issuing wave and its operation, first slab and count,
the bytes that it reads and writes outside its slabs (place, first byte, count), the tick of its issue, whether it runs, whether an operand was
written while it was queued (R137), the results and conditions it will deliver. -/
structure TileOp where
  id : Nat
  wave : Nat
  op : Nat
  z : Nat
  cnt : Nat
  m : Nat
  kind : TileKind
  reads : List (Space × Nat × Nat)
  writes : List (Space × Nat × Nat)
  stamp : Nat
  running : Bool
  consumed : Bool
  tainted : Bool
  conds : BitVec 7
  out : Map Word
  bytes : List (Nat × Byte)
  poison : Bool := false
deriving DecidableEq, Repr

/-- A fibre carried in a regroup pool (15_execution_model R347): the fibre, its window registers, the wave that it left with that wave's next
operation, and the keys of its skips that found the waypoint table full, whose traps its next wave takes (12_ordered_sections R274). -/
structure PoolFibre where
  fibre : Fibre
  regs : List Word
  after : Nat × Nat
  owed : List Word
deriving DecidableEq, Repr

/-- A regroup pool of a block (15_execution_model R347, R348). -/
structure Pool where
  target : Nat
  key : Word
  members : List PoolFibre
  flush : Bool
  filled : Nat
deriving DecidableEq, Repr

/-- Where a block is in its life (15_execution_model R350, 16_scheduling R373 to R377, 19_traps R432). -/
inductive BlkStatus | running | saving | migrating | saved | contained
deriving DecidableEq, Repr

/-- Where a block stands on its core: the wave slot of each of its waves by number, the first byte of its scratchpad and regroup
area in the array, and its first slab (16_scheduling R366, 08_memory_spaces R163, R165). -/
structure Place where
  slots : List Nat
  spm : Nat
  slab : Nat
deriving DecidableEq, Repr

/-- What queues a saved block for relaunch (16_scheduling R376, 12_ordered_sections R271): the phase of an object that differs from an
operand, the number of a key, or nothing more. -/
inductive Wake
  | flip (obj : BarObj) (phase : Nat)
  | turn (key seq : Word)
  | now
deriving DecidableEq, Repr

/-- A block (15_execution_model R350). Word (m, row, col) of its slabs is entry `1024 m + 64 row + col` of `slabs`. The entry
`64 n + l` of `savedUids` is the identity and the pixel of the saved fibre in lane slot l of wave n; `tris` are the triangles whose attributes a fragment wave finds in its
core (13_raster R306). -/
structure Block where
  launch : Nat
  idx : Nat
  ctx : Nat
  stack : Nat
  core : Nat
  gen : BitVec 16
  quality : Nat
  status : BlkStatus
  size : Nat
  spm : Map Byte
  slabs : Map Word
  cbufs : List Cbuf
  tiles : List TileOp
  nextTile : Nat
  sel : Option Sel
  pools : List Pool
  filled : Nat
  parkStart : Option Nat
  preempt : Bool
  liveAtPreempt : List Nat
  savedWaves : List Nat
  heldMsgs : List RemoteMsg
  holdsSections : Bool
  place : Place
  wakes : List Wake
  savedUids : Map (Nat × Option Frag)
  queuedAt : Nat
  stopper : Bool
  tris : List Nat
  poisonSlabs : List Nat := []
deriving DecidableEq, Repr

/-- A group of a launch (15_execution_model R351, 16_scheduling R360). -/
structure Group where
  co : Bool
  home0 : Bool
  members : List Nat
deriving DecidableEq, Repr

/-- A launch (16_scheduling R358 to R364, R383). `record` holds the 64 words of its record, with the priority capped. `next` is the
lowest block not yet dispatched, `early` the blocks after it that have been dispatched with a co-resident set; `level0` is the current
quality level. -/
structure Launch where
  ctx : Nat
  level : Level
  queue : Option Nat
  tag : Word
  recVa : Nat
  record : List Word
  groups : List Group
  consts : List Word
  next : Nat
  early : List Nat
  done : Nat
  level0 : Nat
  frame0 : Nat
  accepted : Nat
  batch : Option Nat
  waiting : Option Nat
  stopper : Bool
deriving DecidableEq, Repr

/-- A forwarding entry (16_scheduling R378): old core, block and generation. -/
structure Forward where
  core : Nat
  blk : Nat
  gen : BitVec 16
deriving DecidableEq, Repr

/-- A 192-byte line kept in a core's fetch buffers: its words that could be read (02_encoding R18). -/
structure FetchLine where
  core : Nat
  launch : Nat
  addr : Nat
  words : Map Word
deriving DecidableEq, Repr

/-- The issue order of one core (16_scheduling R369 to R371): active places in issue order with the cycle since which each is held and
the cycle of its last issue, pending waves oldest first with the cycle since which they are ready, and the cycle of the last forced
exchange. -/
structure CoreSched where
  active : List (Nat × Nat × Nat)
  pending : List (Nat × Option Nat)
  lastForced : Nat
deriving DecidableEq, Repr

/-- A copy that holds a place of a traverse unit (11_async_copies R231). `spans` are its range-scoreboard spans:
block, first byte, last byte, whether it writes. `left` holds the sectors not yet landed, `idxs` the lane slots of a CPYG with their
indices, `pages` the translation of each virtual page number, made at issue, `reads` a virtual byte of each page that the source lies in,
`targets` the blocks of a CPYM with their generations and cores, `since` the tick of its issue. -/
structure Copy where
  core : Nat
  blk : Nat
  wave : Nat
  op : Nat
  form : Nat
  x : Bool
  desc : List Word
  idxs : List (Nat × Word)
  total : Nat
  left : List Nat
  started : Bool
  bar : Option BarObj
  cb : Option (Nat × Nat)
  coll : Option Nat
  spans : List (Nat × Nat × Nat × Bool)
  pages : Map PageAt
  reads : List Nat
  targets : List (Nat × Nat × Nat)
  since : Nat := 0
deriving DecidableEq, Repr

/-- Launches, blocks, waves and the scheduler (Progress chapters). What blocks that have left a core c left behind in its arrays, with
the context that left it: byte b of the scratchpad is entry `2 ^ 20 * c + b` of `left`, word i of the accumulator store entry
`2 ^ 16 * c + i` of `leftSlabs`; zeros are not listed. -/
structure Work where
  launches : Map Launch
  blocks : Map Block
  waves : Map Wave
  queue : List Nat
  relaunch : List Nat
  gens : Map (BitVec 16)
  left : Map (Nat × Byte)
  leftSlabs : Map (Nat × Word)
  forwards : List Forward
  cores : Map CoreSched
  fetch : List FetchLine
  copies : Map Copy
  images : Map (Nat × Nat)
  imageBytes : Map (List Byte)
  nextLaunch : Nat
  nextBlock : Nat
  nextCopy : Nat
  nextUid : Nat
deriving DecidableEq, Repr

/-! ## Memory -/

/-- An L1 line (08_memory_spaces R169, R170, R172): core, line number, mode, whether it is MO, the bytes held, which
bytes are valid, which S bytes are dirty, and the key slot under which it was filled. -/
structure L1Line where
  core : Nat
  line : Nat
  mode : Mode
  owned : Bool
  bytes : List Byte
  valid : BitVec 64
  dirty : BitVec 64
  key : Option Nat
  leaving : Bool := false
deriving DecidableEq, Repr

/-- A line whose request, by a core, waits for probe acknowledgements (08_memory_spaces R168). -/
structure BusyLine where
  line : Nat
  core : Nat
  wave : Nat
  op : Nat
  sub : Nat
  acks : List Nat
deriving DecidableEq, Repr

/-- A TLB entry (17_translation R398): core, context, first page, pages covered, the leaf. -/
structure TlbEntry where
  core : Nat
  ctx : Nat
  page : Nat
  pages : Nat
  leaf : DWord
  level : Nat
deriving DecidableEq, Repr

/-- A multi-word commit (12_ordered_sections R275): the operation and lane slot, the parameter block with its bytes at issue and its pages,
and for each entry the physical address, the expected and the new value, and the key slot. `obs` holds the values observed once the event
is over and its lines are unlocked, while the write-back is still to be performed. -/
structure Commit where
  wave : Nat
  op : Nat
  lane : Nat
  pb : Nat
  image : List Byte
  obs : Option (List Nat)
  pages : Map PageAt
  w64 : Bool
  nowb : Bool
  entries : List (Nat × DWord × DWord × Option Nat)
  lines : List Nat
  locked : List Nat
deriving DecidableEq, Repr

/-- A page that the page service is moving: its leaf entries, and whether its old frame is retired (17_translation R402, 20_errors R439). -/
structure Migrating where
  ctx : Nat
  va : Nat
  entryPa : Nat
  entries : Nat
  oldPage : Nat
  pages : Nat
  retire : Bool
deriving DecidableEq, Repr

/-- A 64 KiB group under collapse (17_translation R403): the writer's device and its first frame, and the answers, or at a writer whose
coordinator is another device the grant, still awaited. -/
structure Collapse where
  ctx : Nat
  va : Nat
  writer : Nat
  frame : Nat
  awaiting : List Nat
deriving DecidableEq, Repr

/-- The memory system (Ordering chapters). `mem` is local device memory at the home slices; `far` is host memory
(device 256) and peers' memory, byte a of device d at `2 ^ 52 * d + a`. A 512-byte region's entry of `dir` is its
cluster vector; entry `2 ^ 40 * cluster + line` of `filter` is a core vector. `cipher` records the key slot under
which a line of memory was last written. -/
structure MemSys where
  mem : List Host.Cell
  far : List Host.Cell
  l1 : List L1Line
  dir : Map (BitVec 64)
  filter : Map (BitVec 8)
  leaving : List (Nat × Nat)
  busy : List BusyLine
  locked : List (Nat × Nat)
  commits : Map Commit
  nextCommit : Nat
  tlb : List TlbEntry
  keys : Map (BitVec 256 × BitVec 256)
  cipher : Map Nat
  migrating : List Migrating
  collapses : List Collapse
  poison : List Nat
  retired : List Nat := []
deriving DecidableEq, Repr

/-! ## Contexts, host, links, errors -/

/-- The fields of a context record (17_translation R387). -/
structure CtxRec where
  root : Nat
  steFrame : Nat
  wpBase : Nat
  wpK : Nat
  bkK : Nat
  bkQuota : Nat
  bkBase : Nat
  bkSpill : Nat
  evBase : Nat
  evK : Nat
  notifyCollapse : Bool
  notifyMigration : Bool
  coreQuota : Nat
  prioCap : Nat
  lqTable : Nat
  peerTable : Nat
  poolBase : Nat
  poolFrames : Nat
deriving DecidableEq, Repr

/-- A surface table entry: words 0x00, 0x04, the clear value, the spill base, the stream counter, word 0x1C
(13_raster R279). -/
structure Ste where
  w0 : Word
  w1 : Word
  clear : DWord
  spill : DWord
  stream : Word
  w7 : Word
deriving DecidableEq, Repr

/-- The entry at context creation (13_raster R279). -/
def Ste.zero : Ste := { w0 := 0, w1 := 0, clear := 0, spill := 0, stream := 0, w7 := 0 }

/-- A context (17_translation R387 to R390, 19_traps R428). `superQs`: the launch queues that its record marks as supervisor. -/
structure Ctx where
  cfg : CtxRec
  stopped : Bool
  shbase : DWord
  shpacket : Word
  stes : Map Ste
  devQueue : List Nat
  producers : Map Nat
  superQs : List Nat
  poolUsed : Nat
  ending : Bool := false
deriving DecidableEq, Repr

/-- A device log record (20_errors R444). -/
structure LogRec where
  event : Nat
  stack : Nat
  memory : Nat
  lasting : Nat
  action : Nat
  addr : Nat
  cycle : Nat
deriving DecidableEq, Repr

/-- The surveyor of a stack: its pass interval with its bounds, and its thresholds (20_errors R440). -/
structure Survey where
  i : Nat
  imin : Nat
  imax : Nat
  hi : Nat
  lo : Nat
deriving DecidableEq, Repr

/-- A surveyor at reset (20_errors R440). -/
def Survey.reset : Survey := { i := 2 ^ 30, imin := 2 ^ 24, imax := 2 ^ 34, hi := 64, lo := 4 }

/-- State of a peer link (18_host_peers R416). -/
inductive LinkState | up | retraining | down
deriving DecidableEq, Repr

/-- A peer port (18_host_peers R411, R416): state, replay cycles in the window, the cycle at which the retrain began, flits sent. A port that
has not trained yet has no entry. -/
structure Link where
  st : LinkState
  replays : List Nat
  since : Nat
  out : List Flit
deriving DecidableEq, Repr

/-- A message of the page service to another device (17_translation R403): a writer's request for a group to its coordinator, and the
coordinator's orders and grant, each with the context there, the group, the writer and its first frame; and a device's answer. -/
inductive PeerMsg
  | request (ctx va writer frame : Nat)
  | rewrite (ctx va writer frame : Nat)
  | answer (ctx va : Nat)
  | grant (ctx va : Nat)
deriving DecidableEq, Repr

/-- What a command to a peer carries: an access for a context there, at an address, or a message of the page service (18_host_peers R411 to
R415). -/
inductive PeerBody
  | access (ctx pa : Nat) (op : PeerOp)
  | page (m : PeerMsg)
deriving DecidableEq, Repr

/-- A command sent to a peer: its target, this device's id, the command id and its body (18_host_peers R415). -/
structure PeerCmd where
  target : Nat
  source : Nat
  id : Nat
  body : PeerBody
deriving DecidableEq, Repr

/-- An MSI-X message sent to the host: the vector, and the address and data of its table entry (18_host_peers R408). -/
structure MsixMsg where
  vector : Nat
  addr : DWord
  data : Word
deriving DecidableEq, Repr

/-- A peer copy that ended with status 3 (18_host_peers R416): its port and target, its context, itself, whether a command of it was executed,
and the sectors whose commands were not, each with the bytes that they carried. -/
structure Unresolved where
  port : Nat
  device : Nat
  ctx : Nat
  copy : Copy
  executed : Bool
  missing : List (Nat × List Byte)
deriving DecidableEq, Repr

/-- A write of the hardware to a context's event queue that waits for the home slice of a line: an event with its stack, kind and payload
words, or a count of the header by its offset (17_translation R390, 12_ordered_sections R276). -/
inductive Posting
  | event (ctx stack kind : Nat) (payload : List (Nat × Nat))
  | count (ctx off : Nat)
deriving DecidableEq, Repr

/-- The host attachment, the management controller, clocks, sensors and repair. `mboxLeft` counts the slots still to be performed from
`mboxNext` on; `edgeAge` is the time since the last counted edge of the frame strobe, none before the first, in units of 16 ns divided by the least common
multiple of 1 to 32, so that a cycle of a clock of 62.5 k MHz is a whole number of them; `peerSent` holds the commands sent to peers and `nextOut` the next command id for each; `firmware` holds the payload that each base die runs;
`cxlReads` holds the answers to host reads, none for an error; `throttling` holds the cycle of a stack's next throttle step; a
remap table has row r at key 2r, and lane l of bundle b at 128 b + 2 l + 1, with the spare that stands in for it. -/
structure Dev where
  bootStage : Nat
  deviceId : Nat
  flash : List Host.Cell
  mboxBase : DWord
  mboxNext : Nat
  mboxLeft : Nat
  msix : Map Word
  msixMasked : BitVec 64
  msixPending : BitVec 64
  msixSent : List MsixMsg
  routes : Map Nat
  ide : Map (BitVec 256)
  cxlReads : List (Option DWord)
  tempLimit : Nat
  clockK : Map Nat
  targetK : Map Nat
  frame0 : Nat
  frame1 : Nat
  edgeAge : Option Nat
  cycles : Nat
  throttling : Map Nat
  emergency : Bool
  contained : List Nat
  log : List LogRec
  surveys : Map Survey
  remap : Map (Map Nat × Map Nat × Map Nat)
  repairing : List (Nat × Nat × Nat)
  fencedCores : List Nat
  fencedWays : List (Nat × Nat)
  links : Map Link
  executed : Map (List (Nat × DWord × Bool))
  nextCmd : Map Nat
  peerAnswers : List (Nat × Nat × DWord × Bool)
  peerSent : List PeerCmd
  nextOut : Map Nat
  firmware : Map (List Byte)
  postings : List Posting
  unresolved : List Unresolved
deriving DecidableEq, Repr

/-! ## Waypoints, graphics, plot units, block store -/

/-- A waypoint entry (12_ordered_sections R259). Bit d − 1 of `skip` is the manual's skip bit d. -/
structure WpEntry where
  ctx : Nat
  key : Word
  n : Word
  holder : Option Nat
  skip : BitVec 255
  subs : List Nat
deriving DecidableEq, Repr

/-- Where a wait stands to its 2^24th cycle: before it, or past it (12_ordered_sections R269). -/
inductive Gap | before | over
deriving DecidableEq, Repr

/-- A gap found at the 2^24th cycle of a wait, whose event is still to be posted: the fibre, the key, its n and the number waited for
(12_ordered_sections R269). -/
structure GapNote where
  uid : Nat
  ctx : Nat
  key : Word
  n : Word
  seq : Word
deriving DecidableEq, Repr

/-- A waiting request of a fibre, or a deferred skip, at its core, with the cycle since which it waits and the deadlock walks made for
it (12_ordered_sections R264, R265, R268, R269). -/
structure WpWait where
  req : WpReq
  core : Nat
  stamp : Nat
  walks : Nat
  gap : Gap
  claiming : Bool
deriving DecidableEq, Repr

/-- A cell of a surface (13_raster R283 to R286): its 16 pixels, pixel i at bits [8p·i + 8p − 1 : 8p·i]. -/
structure Cell where
  ctx : Nat
  ste : Nat
  cx : Nat
  cy : Nat
  data : BitVec 1024
  spilled : Bool
  poisoned : List Nat
  used : Nat
  keys : Map (BitVec 256 × BitVec 256)
deriving DecidableEq, Repr

/-- A batch (13_raster R287 to R291). `verts` are the vertex words read by the rasterisers and ATTR; `accepted` is the tick of its
acceptance; `tri0`, `tri1` are the next triangle of each rasteriser and `cell0`, `cell1` its next cell; `stoppers` are the stacks on which a
waiting fragment wave of the batch lets no other candidate pass (16_scheduling R365). -/
structure Batch where
  ctx : Nat
  wave : Nat
  level : Level
  colour : Option Nat
  depth : Option Nat
  tris : Nat
  attrs : Nat
  cull : Nat
  verts : List Word
  launch : Nat
  recVa : Nat
  base : Word
  accepted : Option Nat
  tri0 : Nat
  tri1 : Nat
  cell0 : Nat
  cell1 : Nat
  sent : Bool
  stoppers : List Nat := []
deriving DecidableEq, Repr

/-- A coverage ticket in a bank's reorder buffer (13_raster R295, R299): `mask` holds the pixels not yet retired. -/
structure Ticket where
  stack : Nat
  bank : Nat
  ctx : Nat
  ste : Nat
  cx : Nat
  cy : Nat
  batch : Nat
  seq : Word
  mask : BitVec 16
  depth : Bool
deriving DecidableEq, Repr

/-- An export or a discard on its way to, or waiting in, its banks (13_raster R299 to R305). -/
structure Export where
  wave : Nat
  op : Option Nat
  frag : Frag
  discard : Bool
  colour : List Word
  z : Word
  entered : Bool
  depthDone : Bool
  colourDone : Bool
  verdict : Option Bool
deriving DecidableEq, Repr

/-- A fragment waiting to be launched in a wave, and the cycle in which it was made (13_raster R296, 16_scheduling R365). -/
structure FragStart where
  frag : Frag
  b1 : Word
  b2 : Word
  z : Word
  made : Nat := 0
deriving DecidableEq, Repr

/-- An SRFSET that waits until the old entry is quiet (13_raster R282). -/
structure PendSet where
  wave : Nat
  ctx : Nat
  ste : Nat
  image : List Word
deriving DecidableEq, Repr

/-- An allocation that waits for room in its stack's surface pool (13_raster R286, 14_plot_units R323): entry (2^32 − 1 for the block
store), cell or key sequence, the cycle since which it waits, and whether its event has been posted. -/
structure PoolWait where
  ctx : Nat
  ste : Nat
  cx : Nat
  cy : Nat
  since : Nat
  posted : Bool
deriving DecidableEq, Repr

/-- A plot thread (14_plot_units R311, R316): its PLOT, registers, predicates, PC, words issued, whether it has halted, and the registers
that hold poison (20_errors R438). -/
structure Thread where
  plot : Nat
  v : Map Word
  p : BitVec 7
  pc : Pc
  issued : Nat
  halted : Bool
  taint : List Nat
deriving DecidableEq, Repr

/-- A PLOT (14_plot_units R314 to R316): its issuing wave, the stacks that have accepted it with the tick of each, the units that own
a bank of a region cell and those started, the conditions and faults of its threads, and the status words of the first fault. -/
structure Plot where
  ctx : Nat
  wave : Nat
  level : Level
  va : Nat
  words : List Word
  threads : Nat
  onStacks : List Nat
  ste : Nat
  cx0 : Nat
  cy0 : Nat
  w : Nat
  h : Nat
  desc : List Word
  barrier : Nat
  accepted : Map Nat
  units : List (Nat × Nat)
  started : List (Nat × Nat)
  conds : BitVec 7
  faults : Nat
  fault : Option (Word × DWord)
deriving DecidableEq, Repr

/-- A block of the block store (14_plot_units R319): 16 KiB of a stack's surface pool. -/
structure BsBlock where
  ctx : Nat
  count : Nat
  gen : BitVec 13
  pins : Nat
  live : Bool
  spilled : Bool
  poisoned : List Nat
  used : Nat
  data : Map Byte
deriving DecidableEq, Repr

/-- A key of the block table (14_plot_units R318). -/
structure BsKey where
  ctx : Nat
  seq : Word
  layer : Word
  handle : Word
deriving DecidableEq, Repr

/-- Waypoints, graphics, plot units and the block store. Block slot i of stack t is entry `2 ^ 20 * t + i` of `blocks`; entry
`128 * s + u` of `units` is the PLOT that unit u of stack s runs; thread t of unit u of stack s is entry `2048 * s + 16 * u + t` of `threads`. -/
structure Base where
  wps : List WpEntry
  waits : List WpWait
  gaps : List GapNote
  cells : List Cell
  poolWaits : List PoolWait
  batches : Map Batch
  nextBatch : Nat
  tickets : List Ticket
  exports : Map Export
  nextExport : Nat
  frags : List (Nat × FragStart)
  sets : Map PendSet
  nextSet : Nat
  plots : Map Plot
  nextPlot : Nat
  threads : Map Thread
  units : Map Nat
  keys : List BsKey
  blocks : Map BsBlock
deriving DecidableEq, Repr

/-! ## The machine -/

/-- The latch of the issue stage: the issuing wave, the snapshot that the words of a chain of several words read
(02_encoding R20), where the batch goes next, and what the words of the chain raised. -/
structure Issue where
  wave : Option Nat
  pre : Option Wave
  next : NextPc
  moved : Bool
  held : Bool
  posts : List Ev
  traps : List Trap
  conds : List (Nat × BitVec 7)
deriving DecidableEq, Repr

/-- Who moves: a wave that issues its next chain, or a step of the device. -/
inductive Mover
  | wave (w : Nat)
  | event (e : Ev)
deriving DecidableEq, Repr

/-- The state of the machine. -/
structure State where
  dev : Dev
  ctxs : Map Ctx
  mem : MemSys
  work : Work
  base : Base
  issue : Issue
  pending : List Ev
  turn : Option Mover
  tick : Nat
deriving DecidableEq, Repr

/-- Why the machine stops with a fault. -/
inductive Fault
  /-- Raised by a meaning of an instruction when no wave issues: the manual gives an instruction an effect only in the
  batch of a wave that issues it (R85, R86). Safe. -/
  | noIssuingWave
deriving DecidableEq, Repr

/-- Why the machine has no meaning for a step. -/
inductive Refusal
  /-- Raised by an arm of `exec` for an instruction that has no meaning in this model yet. Safe. -/
  | notModelled (mnemonic : String)
deriving DecidableEq, Repr

/-- The issue stage with nothing in it. -/
def Issue.idle : Issue :=
  { wave := none, pre := none, next := .off, moved := false, held := false, posts := [], traps := [], conds := [] }

/-- The machine right after reset (18_host_peers R409, R418, R421): boot stage 0, no context, no work. The values with
no statement in the manual are those of INVENTORY.md's State section (log entries 1 to 22). -/
def State.reset : State where
  dev :=
    { bootStage := 0, deviceId := 0, flash := [], mboxBase := 0, mboxNext := 0, mboxLeft := 0, msix := [],
      msixMasked := BitVec.allOnes 64, msixPending := 0, msixSent := [], routes := [], ide := [], cxlReads := [],
      tempLimit := 95, clockK := [], targetK := [], frame0 := 0, frame1 := 0, edgeAge := none, cycles := 0,
      throttling := [], emergency := false, contained := [], log := [], surveys := [], remap := [],
      repairing := [], fencedCores := [], fencedWays := [], links := [], executed := [], nextCmd := [],
      peerAnswers := [], peerSent := [], nextOut := [], firmware := [], postings := [], unresolved := [] }
  ctxs := []
  mem :=
    { mem := [], far := [], l1 := [], dir := [], filter := [], leaving := [], busy := [], locked := [],
      commits := [], nextCommit := 0, tlb := [], keys := [], cipher := [], migrating := [], collapses := [],
      poison := [] }
  work :=
    { launches := [], blocks := [], waves := [], queue := [], relaunch := [], gens := [], left := [], leftSlabs := [],
      forwards := [], cores := [], fetch := [], copies := [], images := [], imageBytes := [], nextLaunch := 0,
      nextBlock := 0, nextCopy := 0, nextUid := 0 }
  base :=
    { wps := [], waits := [], gaps := [], cells := [], poolWaits := [], batches := [], nextBatch := 0, tickets := [],
      exports := [], nextExport := 0, frags := [], sets := [], nextSet := 0, plots := [], nextPlot := 0,
      threads := [], units := [], keys := [], blocks := [] }
  issue := Issue.idle
  pending := []
  turn := none
  tick := 0

end Sys2Proof.Machine
end

