-- ==== Sys2Proof/Machine/Map.lean ====
section
/-! DEFINITION. Operations on sparse tables, on bytes and on numbers. -/

namespace Sys2Proof

/-- The value of a key, if it is listed. -/
def Map.look {α : Type} : Map α → Nat → Option α
  | [], _ => none
  | (a, x) :: t, k => if a = k then some x else Map.look t k

/-- The value of a key, or the default. -/
def Map.get {α : Type} (m : Map α) (k : Nat) (d : α) : α := (m.look k).getD d

/-- The table with one key set; keys stay in rising order. -/
def Map.put {α : Type} : Map α → Nat → α → Map α
  | [], k, x => [(k, x)]
  | (a, y) :: t, k, x => if k < a then (k, x) :: (a, y) :: t else if a = k then (k, x) :: t else (a, y) :: Map.put t k x

/-- The table with one key removed. -/
def Map.del {α : Type} (m : Map α) (k : Nat) : Map α := m.filter fun p => p.1 != k

/-- The table with one key set, where the default is never listed. -/
def Map.store {α : Type} [DecidableEq α] (m : Map α) (k : Nat) (x d : α) : Map α :=
  if x = d then m.del k else m.put k x

/-- The table with one listed value changed. -/
def Map.modify {α : Type} (m : Map α) (k : Nat) (f : α → α) : Map α :=
  match m.look k with
  | some x => m.put k (f x)
  | none => m

namespace Machine

/-- Keys strictly rising and no zero byte listed: the canonical form of a memory. -/
def Memory.wf : List Host.Cell → Bool
  | [] => true
  | [(_, b)] => b != 0
  | (a, b) :: (a', b') :: t => b != 0 && decide (a < a') && Memory.wf ((a', b') :: t)

/-- One byte of a memory; an unlisted byte reads as zero (log 1). -/
def Memory.read (m : List Host.Cell) (a : Nat) : Byte := Map.get m a 0

/-- One byte written to a memory. -/
def Memory.write (m : List Host.Cell) (a : Nat) (b : Byte) : List Host.Cell := Map.store m a b 0

/-- Bytes written to rising addresses. -/
def Memory.writes (m : List Host.Cell) (a : Nat) : List Byte → List Host.Cell
  | [] => m
  | b :: bs => Memory.writes (Memory.write m a b) (a + 1) bs

/-- Little-endian bytes as a number (00_scope R3). -/
def leNat : List Byte → Nat
  | [] => 0
  | b :: bs => b.toNat + 256 * leNat bs

/-- A number as little-endian bytes. -/
def leBytes (x : Nat) : Nat → List Byte
  | 0 => []
  | n + 1 => BitVec.ofNat 8 x :: leBytes (x / 256) n

/-- A number as a signed value of `w` bits. -/
def signed (w x : Nat) : Int := if x % 2 ^ w < 2 ^ (w - 1) then (x % 2 ^ w : Nat) else (x % 2 ^ w : Nat) - (2 ^ w : Nat)

/-- An integer modulo 2^32 as a word. -/
def wordOfInt (x : Int) : Word := BitVec.ofInt 32 x

/-- The exclusive or of the bits of a number below 2^64. -/
def parity (x : Nat) : Nat := ((List.range 64).filter (bitAt x)).length % 2

/-- A 64-bit mask with one bit for each lane slot of a list (R32). -/
def maskOf (lanes : List Nat) : DWord := lanes.foldl (fun m l => m ||| (1 <<< l)) 0

/-- The least element of a list under a key. -/
def least {α : Type} (key : α → Nat) : List α → Option α
  | [] => none
  | x :: t =>
    match least key t with
    | none => some x
    | some y => if key y < key x then some y else some x

/-- The first failure of a list of checks, or nothing. -/
def firstErr {α β ε : Type} (f : α → Except ε β) : List α → Except ε (List β)
  | [] => .ok []
  | x :: t =>
    match f x with
    | .error e => .error e
    | .ok y =>
      match firstErr f t with
      | .error e => .error e
      | .ok ys => .ok (y :: ys)

/-- The default value of a list position. -/
def nth (l : List Word) (i : Nat) : Word := l.getD i 0

end Machine

end Sys2Proof
end

