-- ==== Sys2Proof/Machine/Aes.lean ====
section
/-! DEFINITION. AES-256-XTS on a line of 64 bytes, as the base die encrypts memory (17_translation R401; FIPS 197 and IEEE 1619, which the manual
names). -/

namespace Sys2Proof.Machine

/-! ## The field of 256 elements -/

/-- A product by x. -/
def xtime (b : Byte) : Byte := if b.getLsbD 7 then (b <<< 1) ^^^ 0x1B else b <<< 1

/-- A product of two elements. -/
def gfMul (a b : Byte) : Byte :=
  ((List.range 8).foldl (fun (q : Byte × Byte) i => (if b.getLsbD i then q.1 ^^^ q.2 else q.1, xtime q.2)) ((0 : Byte), a)).1

/-- The inverse of an element, its 254th power; 0 for 0. -/
def gfInv (a : Byte) : Byte :=
  let a2 := gfMul a a
  let a4 := gfMul a2 a2
  let a8 := gfMul a4 a4
  let a16 := gfMul a8 a8
  let a32 := gfMul a16 a16
  let a64 := gfMul a32 a32
  gfMul (gfMul (gfMul a2 a4) (gfMul a8 a16)) (gfMul (gfMul a32 a64) (gfMul a64 a64))

/-- The S-box. -/
def subByte (a : Byte) : Byte :=
  let x := gfInv a
  x ^^^ x.rotateLeft 1 ^^^ x.rotateLeft 2 ^^^ x.rotateLeft 3 ^^^ x.rotateLeft 4 ^^^ 0x63

/-- The inverse of the S-box. -/
def invSubByte (a : Byte) : Byte := gfInv (a.rotateLeft 1 ^^^ a.rotateLeft 3 ^^^ a.rotateLeft 6 ^^^ 0x05)

/-! ## AES-256 -/

/-- Two byte strings added bit by bit. -/
def xorBytes (a b : List Byte) : List Byte := List.zipWith (· ^^^ ·) a b

/-- One word more of the key schedule, whose newest word stands first; `i` is its number. -/
def keyNext (w : List (List Byte)) (i : Nat) : List (List Byte) :=
  let t := w.getD 0 []
  let u :=
    if i % 8 = 0 then xorBytes ((t.drop 1 ++ t.take 1).map subByte) [(List.range (i / 8 - 1)).foldl (fun c _ => xtime c) 1, 0, 0, 0]
    else if i % 8 = 4 then t.map subByte
    else t
  xorBytes (w.getD 7 []) u :: w

/-- The fifteen round keys of 16 bytes of a key. -/
def roundKeys (key : BitVec 256) : List (List Byte) :=
  let k := leBytes key.toNat 32
  let first := ((List.range 8).map fun i => (k.drop (4 * i)).take 4).reverse
  let w := ((List.range 52).foldl (fun w i => keyNext w (8 + i)) first).reverse
  (List.range 15).map fun r => ((w.drop (4 * r)).take 4).flatten

/-- The bytes of a block with row `r` of each column turned by `f r` columns. -/
def shiftRows (f : Nat → Nat) (s : List Byte) : List Byte := (List.range 16).map fun i => s.getD (4 * ((i / 4 + f (i % 4)) % 4) + i % 4) 0

/-- Each column multiplied by the matrix whose first row is given. -/
def mixColumns (c : List Byte) (s : List Byte) : List Byte :=
  (List.range 16).map fun i =>
    (List.range 4).foldl (fun x j => x ^^^ gfMul (c.getD ((j + 4 - i % 4) % 4) 0) (s.getD (4 * (i / 4) + j) 0)) 0

/-- AES-256 of a block of 16 bytes. -/
def aesBlock (ks : List (List Byte)) (b : List Byte) : List Byte :=
  let round (last : Bool) (s k : List Byte) : List Byte :=
    let t := shiftRows id (s.map subByte)
    xorBytes (if last then t else mixColumns [2, 3, 1, 1] t) k
  round true (((ks.drop 1).take 13).foldl (round false) (xorBytes b (ks.getD 0 []))) (ks.getD 14 [])

/-- The inverse of `aesBlock`. -/
def aesBlockInv (ks : List (List Byte)) (b : List Byte) : List Byte :=
  let undo (s : List Byte) : List Byte := (shiftRows (fun r => 4 - r) s).map invSubByte
  let round (s k : List Byte) : List Byte := undo (mixColumns [14, 11, 13, 9] (xorBytes s k))
  xorBytes (((ks.drop 1).take 13).reverse.foldl round (undo (xorBytes b (ks.getD 14 [])))) (ks.getD 0 [])

/-! ## XTS -/

/-- The tweak of a block times x. -/
def tweakNext (t : BitVec 128) : BitVec 128 := if t.getLsbD 127 then (t <<< 1) ^^^ 0x87 else t <<< 1

/-- A line of 64 bytes with each block of 16 bytes put through `f` under its tweak; the data unit is the line, and its number the tweak. -/
def xtsLine (f : List (List Byte) → List Byte → List Byte) (data tweak : BitVec 256) (unit : Nat) (bs : List Byte) : List Byte :=
  let ks := roundKeys data
  let t0 := BitVec.ofNat 128 (leNat (aesBlock (roundKeys tweak) (leBytes unit 16)))
  let out := (List.range 4).flatMap fun j =>
    let t := leBytes ((List.range j).foldl (fun t _ => tweakNext t) t0).toNat 16
    xorBytes (f ks (xorBytes ((bs.drop (16 * j)).take 16) t)) t
  (List.range 64).map fun i => out.getD i 0

/-- AES-256-XTS of a line: data key, tweak key, line number, plain text (R401). -/
def aesXts (data tweak : BitVec 256) (unit : Nat) (bs : List Byte) : List Byte := xtsLine aesBlock data tweak unit bs

/-- The inverse of `aesXts` (R401). -/
def aesXtsInv (data tweak : BitVec 256) (unit : Nat) (bs : List Byte) : List Byte := xtsLine aesBlockInv data tweak unit bs

end Sys2Proof.Machine
end

