-- ==== Sys2Proof/Machine/Device.lean ====
section
/-! DEFINITION. Device memory at its home slices, encryption records, translation, and the event queues
(08_memory_spaces R166 to R173, 17_translation R390 to R403). -/

namespace Sys2Proof.Machine

/-! ## Device memory at the home slice -/

/-- The line of an address (08_memory_spaces R166). -/
def lineOf (a : Nat) : Nat := a / 64

/-- The home stack of a local physical address (01_machine R11). -/
def homeStack (a : Nat) : Nat := (bits a 12 12 + bits a 21 21 + bits a 30 30) % 2

/-- The LLC slice of a local physical address within its home stack (08_memory_spaces R167). -/
def sliceOf (a : Nat) : Nat :=
  (bits a 11 6) ^^^ (bits a 17 12) ^^^ (bits a 23 18) ^^^ (bits a 29 24) ^^^ (bits a 35 30) ^^^ (bits a 37 36)

/-- The L1 that owns a D line, if one does (08_memory_spaces R170). -/
def ownerOf (m : MemSys) (line : Nat) : Option L1Line :=
  m.l1.find? fun l => l.line == line && l.mode == .d && l.owned

/-- The bytes of a line in GDDR7 and the LLC. -/
def rawLine (m : MemSys) (line : Nat) : List Byte := (List.range 64).map fun i => Memory.read m.mem (64 * line + i)

/-- The coherent bytes of a line: those of its owner, or those of the home slice (08_memory_spaces R170). -/
def cohLine (m : MemSys) (line : Nat) : List Byte :=
  match ownerOf m line with
  | some l => l.bytes
  | none => rawLine m line

/-- The bytes of a line written back from plain text under a key slot (17_translation R401). -/
def encLine (m : MemSys) (line : Nat) (key : Option Nat) (bs : List Byte) : List Byte :=
  match key.bind m.keys.look with
  | some (d, t) => aesXts d t line bs
  | none => bs

/-- The plain text of a line's stored bytes under a key slot (17_translation R401). -/
def decLine (m : MemSys) (line : Nat) (key : Option Nat) (bs : List Byte) : List Byte :=
  match key.bind m.keys.look with
  | some (d, t) => aesXtsInv d t line bs
  | none => bs

/-- The bytes of a line as an access under a key slot sees them (17_translation R401). -/
def seenLine (m : MemSys) (line : Nat) (key : Option Nat) : List Byte :=
  if m.cipher.look line = key then cohLine m line
  else decLine m line key (encLine m line (m.cipher.look line) (cohLine m line))

/-- One coherent byte under a key slot. -/
def seenByte (m : MemSys) (key : Option Nat) (a : Nat) : Byte :=
  if m.cipher.look (lineOf a) = key then
    match ownerOf m (lineOf a) with
    | some l => l.bytes.getD (a % 64) 0
    | none => Memory.read m.mem a
  else (seenLine m (lineOf a) key).getD (a % 64) 0

/-- Coherent bytes at rising addresses under a key slot. -/
def seenBytes (m : MemSys) (key : Option Nat) (a n : Nat) : List Byte := (List.range n).map fun i => seenByte m key (a + i)

/-- A number read coherently from local device memory. -/
def devRead (m : MemSys) (a n : Nat) : Nat := leNat (seenBytes m none a n)

/-- The cluster of a core (01_machine R6). -/
def clusterOf (core : Nat) : Nat := core / 8

/-- The 512-byte region of a line (R174). -/
def regionOf (line : Nat) : Nat := line / 8

/-- The core vector of a line in a cluster's filter (R174). -/
def filterOf (m : MemSys) (cluster line : Nat) : BitVec 8 := m.filter.get (2 ^ 40 * cluster + line) 0

/-- The cluster vector of a region (R174). -/
def dirOf (m : MemSys) (region : Nat) : BitVec 64 := m.dir.get region 0

/-- The clusters of a region's vector. -/
def holders (m : MemSys) (region : Nat) : List Nat := (List.range 64).filter fun c => (dirOf m region).getLsbD c

/-- The filter's bit of a core cleared (R174, R176). -/
def untrack (m : MemSys) (core line : Nat) : MemSys :=
  let x := filterOf m (clusterOf core) line &&& ~~~((1 : BitVec 8) <<< (core % 8))
  { m with filter := m.filter.store (2 ^ 40 * clusterOf core + line) x 0 }

/-- The directory's bit of a cluster cleared (R176, R177). -/
def dirClear (m : MemSys) (cluster region : Nat) : MemSys :=
  { m with dir := m.dir.store region (dirOf m region &&& ~~~((1 : BitVec 64) <<< cluster)) 0 }

/-- A cluster's filter holds no line of a region (R175). -/
def regionEmpty (m : MemSys) (cluster region : Nat) : Bool :=
  (List.range 8).all fun i => filterOf m cluster (8 * region + i) == 0

/-- A request of a cluster for a line of a region is at the home slice (08_memory_spaces R168). -/
def requested (m : MemSys) (cluster region : Nat) : Bool :=
  m.busy.any fun b => regionOf b.line == region && clusterOf b.core == cluster

/-- Every record of a line at the filters and the directory after a probe round that left no copy: no filter holds the line, and each
cluster whose answer said "region empty" has its bit cleared (08_memory_spaces R176, R177). -/
def forgetLine (m : MemSys) (line : Nat) : MemSys :=
  if dirOf m (regionOf line) = 0 then m
  else
    let m1 := { m with filter := m.filter.filter fun p => p.1 % 2 ^ 40 != line }
    ((holders m (regionOf line)).filter fun c => regionEmpty m1 c (regionOf line) && !requested m c (regionOf line)).foldl
      (fun m c => dirClear m c (regionOf line)) m1

/-- A line recalled: a whole probe round, taken as one step with what it makes way for (log 66). The owner's bytes are written back,
every D copy of the line is gone, and so is its record at the filters and the directory: what the home slice does before it performs a
write-through of S bytes, a lock of an MCAS, a copy, or a write of the hardware (08_memory_spaces R170, R172, R176). -/
def recallLine (m : MemSys) (line : Nat) : MemSys :=
  forgetLine { m with
    mem := match ownerOf m line with
      | some l => Memory.writes m.mem (64 * line) l.bytes
      | none => m.mem
    l1 := m.l1.filter fun l => !(l.line == line && l.mode == .d) } line

/-- The stored form of a line changed to another key slot: written back under its record, refilled under the new one
(17_translation R401). -/
def rekey (m : MemSys) (line : Nat) (key : Option Nat) : MemSys :=
  if m.cipher.look line = key then m
  else
    let m1 := recallLine m line
    { m1 with
      mem := Memory.writes m1.mem (64 * line) (seenLine m line key)
      cipher := match key with
        | some k => m1.cipher.put line k
        | none => m1.cipher.del line }

/-- The lines of a run of bytes. -/
def linesOf (a n : Nat) : List Nat :=
  if n = 0 then [] else (List.range (lineOf (a + n - 1) + 1 - lineOf a)).map (lineOf a + ·)

/-- A poison mark goes when one write covers its whole line (20_errors R438). -/
def clearPoison (m : MemSys) (a n : Nat) : MemSys :=
  { m with poison := m.poison.filter fun l => !(decide (a ≤ 64 * l) && decide (64 * l + 64 ≤ a + n)) }

/-- A page is on the move (09_consistency R195, 17_translation R402). -/
def isMigrating (m : MemSys) (a : Nat) : Bool :=
  m.migrating.any fun g => decide (g.oldPage ≤ a / 4096) && decide (a / 4096 < g.oldPage + g.pages)

/-- The home slice can take a request for a line: no request for it is unfinished, no commit holds it, and its page is not on the
move (08_memory_spaces R168, 09_consistency R195, 12_ordered_sections R276). -/
def lineFree (m : MemSys) (line : Nat) : Bool :=
  m.busy.all (fun b => b.line != line) && m.locked.all (fun p => p.1 != line) && !isMigrating m (64 * line)

/-- The first byte of each page of a run of virtual bytes, and the bytes from there in that page. -/
def pageRuns (va n : Nat) : List (Nat × Nat) :=
  if n = 0 then []
  else
    (List.range ((va + n - 1) / 4096 + 1 - va / 4096)).map fun i =>
      let a := max va (4096 * (va / 4096 + i))
      (a, min (va + n) (4096 * (va / 4096 + i + 1)) - a)

/-- Bytes written at the home slices of their lines, under a key slot. -/
def devWrite (m : MemSys) (key : Option Nat) (a : Nat) (bs : List Byte) : MemSys :=
  let m1 := (linesOf a bs.length).foldl (fun m l => rekey (recallLine m l) l key) m
  clearPoison { m1 with mem := Memory.writes m1.mem a bs } a bs.length

/-! ## Lines of an L1 -/

/-- A line of a core's L1 in a mode. -/
def lineIn (m : MemSys) (core line : Nat) (mode : Mode) : Option L1Line :=
  m.l1.find? fun l => l.core == core && l.line == line && l.mode == mode

/-- The same place of an L1. -/
def sameLine (x l : L1Line) : Bool := l.core == x.core && l.line == x.line && l.mode == x.mode

/-- A line put in its L1 in place of what it held there. -/
def putLine (m : MemSys) (x : L1Line) : MemSys := { m with l1 := x :: m.l1.filter fun l => !sameLine x l }

/-- A line gone from its L1. -/
def dropLine (m : MemSys) (x : L1Line) : MemSys := { m with l1 := m.l1.filter fun l => !sameLine x l }

/-- A D line whose dirty notice or probe data is on its way to the home slice: the core no longer holds it, and the home slice
has not taken its bytes (R176). -/
def L1Line.inFlight (l : L1Line) : Bool := l.mode == .d && l.owned && l.valid == 0

/-- The bytes of an S line that are dirty, with their addresses (R172). -/
def dirtyBytes (l : L1Line) : List (Nat × Byte) :=
  (List.range 64).filterMap fun i => if l.dirty.getLsbD i then some (64 * l.line + i, l.bytes.getD i 0) else none

/-- The dirty bytes of an S line at its home slice: a store of exactly those bytes (R172). -/
def storeDirty (m : MemSys) (l : L1Line) : MemSys :=
  if l.dirty == BitVec.allOnes 64 then devWrite m l.key (64 * l.line) l.bytes
  else (dirtyBytes l).foldl (fun m p => devWrite m l.key p.1 [p.2]) m

/-- The S copy of a line at its core: dirty bytes written through, every byte dropped (R208, R225). -/
def flushS (m : MemSys) (core line : Nat) : MemSys :=
  match lineIn m core line .s with
  | some l => dropLine (storeDirty m l) l
  | none => m

/-! ## Host and peer memory -/

/-- A byte of another device's memory or of host memory (device 256): where it stands in `far` (log 13). -/
def farAddr (device a : Nat) : Nat := 2 ^ 52 * device + a

/-- Bytes of host or peer memory. -/
def farBytes (m : MemSys) (device a n : Nat) : List Byte :=
  (List.range n).map fun i => Memory.read m.far (farAddr device (a + i))

/-- Bytes written to host or peer memory. -/
def farWrite (m : MemSys) (device a : Nat) (bs : List Byte) : MemSys :=
  { m with far := Memory.writes m.far (farAddr device a) bs }

/-- The link that leads to a device is up: host memory always answers, a peer only over its port (18_host_peers R412, R416). -/
def peerUp (s : State) (device : Nat) : Bool :=
  device == 256 ||
    (match (s.dev.routes.look device).bind s.dev.links.look with
      | some l => l.st == .up
      | none => false)

/-! ## Translation -/

/-- What an access needs of a page (17_translation R397, 18_host_peers R413). -/
structure Access where
  r : Bool
  w : Bool
  x : Bool
  atomic : Bool
deriving DecidableEq, Repr

/-- A load. -/
def Access.load : Access := { r := true, w := false, x := false, atomic := false }

/-- A store. -/
def Access.store : Access := { r := false, w := true, x := false, atomic := false }

/-- An atomic, or a word of a multi-word commit. -/
def Access.atom : Access := { r := true, w := true, x := false, atomic := true }

/-- A code fetch. -/
def Access.fetch : Access := { r := false, w := false, x := true, atomic := false }

/-- Where an address leads: its space, the physical address, the key slot of an encrypted page, the device and page of a
read-duplicate mapping, and the bytes its page has from here on. -/
structure Target where
  space : Space
  pa : Nat
  key : Option Nat
  dup : Option Nat
  page : Nat
deriving DecidableEq, Repr

/-- A translation fault: trap code and tinfo (17_translation R397). -/
structure XFault where
  cause : Nat
  tinfo : Nat
deriving DecidableEq, Repr

/-- A virtual address is canonical (08_memory_spaces R162). -/
def canonical (va : Nat) : Bool := bits va 63 47 == 0 || bits va 63 47 == 2 ^ 17 - 1

/-- The index that a walk level takes (17_translation R394). -/
def walkIndex (va level : Nat) : Nat := bits va (47 - 9 * level) (39 - 9 * level)

/-- The page size of a leaf at a level (17_translation R394). -/
def pageSize (level : Nat) : Nat := 2 ^ (39 - 9 * level)

/-- The fields of an entry apart from the frame and the software bits. -/
def leafFields (e : Nat) : Nat := e % 2 ^ 21 + 2 ^ 53 * bits e 54 53

/-- The frame of an entry, as a physical address (17_translation R395). -/
def leafFrame (e : Nat) : Nat := 2 ^ 12 * bits e 52 21

/-- A contiguity group is well formed: no entry has the bit, or all sixteen do, alike and with rising frames (R396). -/
def groupOk (m : MemSys) (table idx : Nat) : Bool :=
  let es := (List.range 16).map fun i => devRead m (table + 8 * (16 * (idx / 16) + i)) 8
  let e0 := es.headD 0
  es.all (fun e => !bitAt e 10 || !bitAt e 0) ||
    (leafFrame e0 % 2 ^ 16 == 0 &&
      (es.zip (List.range 16)).all fun (e, i) =>
        bitAt e 10 && leafFields e == leafFields e0 && leafFrame e == leafFrame e0 + 2 ^ 12 * i)

/-- What a walk ends with: a leaf with its address, or the level at which it stopped and the reason. -/
inductive Walk
  | leaf (e addr level : Nat) (ok : Bool)
  | stop (reason level : Nat)
deriving DecidableEq, Repr

/-- A leaf is well formed apart from its group (17_translation R396). -/
def leafOk (m : MemSys) (table idx e level : Nat) : Bool :=
  !(bitAt e 10 && level != 3) && (bitAt e 1 || !bitAt e 2) && !(bitAt e 12 && (bits e 20 13 != 0 || bitAt e 8)) &&
    (!bitAt e 9 || m.migrating.any fun g => decide (g.entryPa ≤ table + 8 * idx) && decide (table + 8 * idx < g.entryPa + 8 * g.entries)) &&
    leafFrame e % pageSize level == 0 && (level != 3 || groupOk m table idx)

/-- A walk from a table at a level down (17_translation R394 to R396, R399). -/
def walkFrom (m : MemSys) (va : Nat) : Nat → Nat → Nat → Walk
  | 0, _, level => .stop 3 level
  | fuel + 1, table, level =>
    let idx := walkIndex va level
    let e := devRead m (table + 8 * idx) 8
    if !bitAt e 0 then .stop 0 level
    else if level == 3 || ((level == 1 || level == 2) && bitAt e 11) then
      .leaf e (table + 8 * idx) level (leafOk m table idx e level)
    else if bits e 20 1 != 0 || bits e 54 53 != 0 || decide (2 ^ 38 ≤ leafFrame e) then .stop 3 level
    else walkFrom m va fuel (leafFrame e) (level + 1)

/-- The addresses of the entries that a walk reads, from a table at a level down (17_translation R394, R396). -/
def walkReads (m : MemSys) (va : Nat) : Nat → Nat → Nat → List Nat
  | 0, _, _ => []
  | fuel + 1, table, level =>
    let a := table + 8 * walkIndex va level
    let e := devRead m a 8
    if !bitAt e 0 || level == 3 || ((level == 1 || level == 2) && bitAt e 11) || decide (2 ^ 38 ≤ leafFrame e) then
      (if level = 3 then (List.range 16).map fun i => a / 128 * 128 + 8 * i else [a])
    else a :: walkReads m va fuel (leafFrame e) (level + 1)

/-- The walk of a virtual address in a context. -/
def walk (s : State) (ctx va : Nat) : Walk :=
  match s.ctxs.look ctx with
  | some c => walkFrom s.mem va 4 c.cfg.root 0
  | none => .stop 0 0

/-- Where a leaf leads, before permissions are checked. -/
def leafTarget (s : State) (ctx va e level : Nat) : Target :=
  let pa := leafFrame e + va % pageSize level
  let page := pageSize level - va % pageSize level
  let mode : Mode := match bits e 6 5 with
    | 0 => .d
    | 1 => .s
    | _ => .u
  let key := if bitAt e 7 then some (4 * ctx + bits e 54 53) else none
  let own := bits e 20 13 == s.dev.deviceId || bitAt e 8
  { space := if bitAt e 12 then .far 256 else if own then .dev mode else .far (bits e 20 13)
    pa := pa, key := key, dup := if bitAt e 8 then some (bits e 20 13) else none, page := page }

/-- Bytes of hardware's own structures in a context's virtual space: local or host memory, through a valid, well-formed
leaf. -/
def hwTarget (s : State) (ctx va : Nat) : Option Target :=
  if canonical va then
    match walk s ctx va with
    | .leaf e _ level true =>
      let t := leafTarget s ctx va e level
      match t.space with
      | .dev _ => if t.pa < 2 ^ 38 then some t else none
      | .far 256 => some t
      | _ => none
    | _ => none
  else none

/-- The level of the leaf of an address, or at which its walk stops. -/
def leafLevel (s : State) (ctx va : Nat) : Nat :=
  match walk s ctx va with
  | .leaf _ _ level _ => level
  | .stop _ level => level

/-- The table frames that a split of a read-duplicate leaf takes from its context's pool (17_translation R403). -/
def framesNeeded (level : Nat) : Nat := 3 - level

/-- The pool of a context has too few frames for the split of the leaf of an address (17_translation R403). -/
def poolShort (s : State) (ctx va : Nat) : Bool :=
  ((s.ctxs.look ctx).map fun c => decide (c.cfg.poolFrames < c.poolUsed + framesNeeded (leafLevel s ctx va))).getD false

/-- The leaf of an address is a writable read-duplicate mapping that the page service can collapse: a write waits for that
(17_translation R403). -/
def collapsible (s : State) (ctx va : Nat) : Bool :=
  match walk s ctx va with
  | .leaf e _ _ true => bitAt e 8 && bitAt e 2 && !poolShort s ctx va
  | _ => false

/-- A number read by hardware at a virtual address. -/
def hwRead (s : State) (ctx va n : Nat) : Option Nat :=
  (hwTarget s ctx va).map fun t =>
    match t.space with
    | .far d => leNat (farBytes s.mem d t.pa n)
    | _ => leNat (seenBytes s.mem t.key t.pa n)

/-- A number written by hardware at a virtual address; a read-duplicate mapping is no place to write (17_translation R403). -/
def hwWrite (s : State) (ctx va n x : Nat) : Option State :=
  ((hwTarget s ctx va).filter fun t => t.dup.isNone).map fun t =>
    match t.space with
    | .far d => { s with mem := farWrite s.mem d t.pa (leBytes x n) }
    | _ => { s with mem := devWrite s.mem t.key t.pa (leBytes x n) }

/-- The home slices of a run of virtual bytes take requests of the hardware now, and no page of it is still to collapse (08_memory_spaces
R168, 12_ordered_sections R276, 17_translation R403). -/
def hwFree (s : State) (ctx va n : Nat) : Bool :=
  (pageRuns va n).all fun q =>
    !collapsible s ctx q.1 && match hwTarget s ctx q.1 with
    | some { space := .dev _, pa := pa, .. } => (linesOf pa q.2).all (lineFree s.mem)
    | _ => true

/-- A walk of an address in a context reads its entries at their home slices, which take its requests now (17_translation R399,
12_ordered_sections R276). -/
def walkFree (s : State) (ctx va : Nat) : Bool :=
  ((s.ctxs.look ctx).map fun c => (walkReads s.mem va 4 c.cfg.root 0).all fun a => lineFree s.mem (lineOf a)).getD true

/-- A run of bytes can be read where a translation leads: its home slices take requests, or its link is up (12_ordered_sections R276, 18_host_peers
R416). -/
def Target.open (s : State) (t : Target) (n : Nat) : Bool :=
  match t.space with
  | .dev _ => (linesOf t.pa n).all (lineFree s.mem)
  | .far d => peerUp s d
  | _ => true

/-- A run of virtual bytes of the hardware's own structures can be read now (12_ordered_sections R276, 18_host_peers R416). -/
def hwOpen (s : State) (ctx va n : Nat) : Bool :=
  (pageRuns va n).all fun q => walkFree s ctx q.1 && ((hwTarget s ctx q.1).map fun t => t.open s q.2).getD true

/-- The first poisoned line that a walk of an address reads (20_errors R438). -/
def walkPoison (s : State) (ctx va : Nat) : Option Nat :=
  match s.ctxs.look ctx with
  | some c => ((walkReads s.mem va 4 c.cfg.root 0).map lineOf).find? s.mem.poison.contains
  | none => none

/-- The lines of local device memory that a run of bytes at a translated address lies in. -/
def Target.lines (t : Target) (n : Nat) : List Nat :=
  match t.space with
  | .dev _ => linesOf t.pa n
  | _ => []

/-- The first poisoned line that hardware reads as it reads a run of a context's virtual addresses: of the page tables, then of local device
memory (20_errors R438). -/
def areaPoison (s : State) (ctx va n : Nat) : Option Nat :=
  if s.mem.poison.isEmpty then none
  else (pageRuns va n).findSome? fun q =>
    walkPoison s ctx q.1 <|> (hwTarget s ctx q.1).bind fun t => (t.lines q.2).find? s.mem.poison.contains

/-- A context is stopped: it accepts only KILL (20_errors R443). -/
def ctxStopped (s : State) (ctx : Nat) : Bool := ((s.ctxs.look ctx).map Ctx.stopped).getD false

/-- The entry of a context's peer permission table for a device (18_host_peers R413). -/
def peerEntry (s : State) (ctx device : Nat) : Nat :=
  match s.ctxs.look ctx with
  | some c => if c.cfg.peerTable = 0 then 0 else (hwRead s ctx (c.cfg.peerTable + 8 * device) 8).getD 0
  | none => 0

/-- The source allows an access to a peer, and a route leads there (18_host_peers R412 to R414). An ATOM, and a page of a
CPYP, is held to bit [2] alone, in place of bits [0] and [1] (R413: "this context may run ATOM and CPYP there"; DEDUCED,
log 84). -/
def peerAllowed (s : State) (ctx device : Nat) (a : Access) : Bool :=
  let e := peerEntry s ctx device
  bits e 63 16 == 0 && (!a.atomic || bitAt e 2) && (a.atomic || ((!a.r || bitAt e 0) && (!a.w || bitAt e 1))) &&
    (s.dev.routes.look device).isSome

/-- The reasons why a leaf refuses an access, as (trap, reason) (17_translation R397). -/
def leafReasons (s : State) (ctx : Nat) (level : Level) (a : Access) (e : Nat) (t : Target) (ok : Bool) : List (Nat × Nat) :=
  (if ok then [] else [(0x10, 3)]) ++
    (if a.r && !bitAt e 1 then [(0x10, 1)] else []) ++
    (if level == .user && !bitAt e 4 then [(0x10, 2)] else []) ++
    (match t.space with
      | .dev _ => if 2 ^ 38 ≤ t.pa then [(0x10, 5)] else []
      | .far d => (if t.key.isSome then [(0x14, 10)] else []) ++
        (if d != 256 && !peerAllowed s ctx d a then [(0x15, 12)] else [])
      | _ => []) ++
    (match t.key with
      | some k => if (s.mem.keys.look k).isNone then [(0x14, 9)] else []
      | none => []) ++
    (if a.w && !bitAt e 2 then [(0x11, 6)] else []) ++
    (if a.x && !bitAt e 3 then [(0x12, 7)] else []) ++
    (if bits e 6 5 == 3 then [(0x13, 11)] else [])

/-- The tinfo of a translation fault (17_translation R397). -/
def xinfo (reason level : Nat) (a : Access) : Nat :=
  reason + 16 * level + (if a.w then 64 else 0) + (if a.x then 128 else 0)

/-- The leaf that a TLB of the core holds for a page, if any (17_translation R398). -/
def tlbLook (s : State) (core ctx va : Nat) : Option TlbEntry :=
  s.mem.tlb.find? fun t => t.core == core && t.ctx == ctx && decide (t.page ≤ va / 4096) && decide (va / 4096 < t.page + t.pages)

/-- The leaf that a TLB entry gives for an address: that of a 64 KiB page holds the frame of its first 4 KiB (17_translation R396, R398). -/
def TlbEntry.leafOf (t : TlbEntry) (va : Nat) : Nat := t.leaf.toNat + (if t.pages = 16 then 2 ^ 21 * (va / 4096 - t.page) else 0)

/-- The translation of an address needs no walk, or the walk can be made now. -/
def pageOpen (s : State) (core ctx : Nat) (level : Level) (va : Nat) : Bool :=
  level == .machine || !canonical va || (tlbLook s core ctx va).isSome || walkFree s ctx va

/-- The leaf an access uses: the one a TLB holds or the one a walk finds, either of the two (17_translation R400). -/
def leafFor (s : State) (core ctx va : Nat) : Walk :=
  match tlbLook s core ctx va with
  | some t => if Config.choose s.tick % 2 = 0 then .leaf (t.leafOf va) 0 t.level true else walk s ctx va
  | none => walk s ctx va

/-! ## Surface table entries -/

/-- The entry names a surface (13_raster R279). -/
def Ste.valid (e : Ste) : Bool := e.w0.getLsbD 0

/-- The format code of an entry (13_raster R279). -/
def Ste.fmt (e : Ste) : Nat := bits e.w0.toNat 7 4

/-- The width of an entry in pixels. -/
def Ste.width (e : Ste) : Nat := e.w1.toNat % 2 ^ 16

/-- The height of an entry in pixels. -/
def Ste.height (e : Ste) : Nat := e.w1.toNat / 2 ^ 16

/-- The pixel size of a format in bytes (13_raster R279). -/
def fmtBytes (fmt : Nat) : Nat := match fmt with
  | 0 => 8
  | 1 => 4
  | 2 => 4
  | 3 => 2
  | 4 => 1
  | _ => 4

/-- The pixel size of an entry in bytes. -/
def Ste.p (e : Ste) : Nat := fmtBytes e.fmt

/-- The largest span of a surface's spill area in bytes (13_raster R285). -/
def Ste.spillBytes (e : Ste) : Nat := (e.width + 3) / 4 * ((e.height + 3) / 4) * 16 * e.p

/-- A page of the spill area of a valid entry, which is hardware's own (13_raster R285). -/
def spillPage (s : State) (ctx va : Nat) : Bool :=
  match s.ctxs.look ctx with
  | some c => c.stes.any fun e => e.2.valid && e.2.spill != 0 &&
      decide (e.2.spill.toNat / 4096 ≤ va / 4096) && decide (va / 4096 ≤ (e.2.spill.toNat + e.2.spillBytes - 1) / 4096)
  | none => false

/-- The fault of an access to a spill area; its reason is free, since the manual gives it none (13_raster R285, log 34). -/
def spillFault (s : State) (lv : Nat) (a : Access) : XFault := { cause := 0x10, tinfo := xinfo (Config.choose s.tick % 16) lv a }

/-- What a translation finds: its lowest fault, and where the address leads when the walk ends in a leaf, even one that refuses the
access. -/
structure Found where
  fault : Option XFault
  target : Option Target

/-- A translation that finds a fault and no leaf. -/
def Found.bad (reason level : Nat) (a : Access) : Found :=
  { fault := some { cause := 0x10, tinfo := xinfo reason level a }, target := none }

/-- The lowest fault of a leaf, the lowest trap code first (17_translation R397, 13_raster R285). -/
def leafFault (s : State) (ctx va lv : Nat) (a : Access) (reasons : List (Nat × Nat)) : Option XFault :=
  match least (fun p => 16 * p.1 + p.2) reasons with
  | some (c, reason) => some (if spillPage s ctx va && c != 0x10 then spillFault s lv a else { cause := c, tinfo := xinfo reason lv a })
  | none => if spillPage s ctx va then some (spillFault s lv a) else none

/-- The translation of one access (17_translation R386, R394 to R397). Machine level reaches local physical memory without
translation. -/
def findPage (s : State) (core ctx : Nat) (level : Level) (a : Access) (va : Nat) : Found :=
  match level with
  | .machine =>
    if va < 2 ^ 38 then { fault := none, target := some { space := .dev .u, pa := va, key := none, dup := none, page := 2 ^ 38 - va } }
    else .bad 5 0 a
  | _ =>
    if !canonical va then .bad 4 0 a
    else
      match leafFor s core ctx va with
      | .stop reason lv => .bad reason lv a
      | .leaf e _ lv ok =>
        let t := leafTarget s ctx va e lv
        { fault := leafFault s ctx va lv a (leafReasons s ctx level a e t ok), target := some t }

/-- The translation of one access, or its fault (17_translation R397). -/
def translate (s : State) (core ctx : Nat) (level : Level) (a : Access) (va : Nat) : Except XFault Target :=
  match findPage s core ctx level a va with
  | { fault := none, target := some t } => .ok t
  | { fault := some f, .. } => .error f
  | { fault := none, target := none } => .error { cause := 0x10, tinfo := xinfo 0 0 a }

/-- The pages of 4 KiB that a leaf maps: a contiguity group is one page of 64 KiB (17_translation R394, R396). -/
def leafPages (e level : Nat) : Nat := if level = 3 ∧ bitAt e 10 then 16 else pageSize level / 4096

/-- A TLB entry for the page, of whichever size, that a walk found; the oldest of a full TLB gives way (17_translation R398, R399). -/
def tlbFill (s : State) (core ctx va : Nat) : State :=
  match tlbLook s core ctx va, walk s ctx va with
  | none, .leaf e _ level true =>
    if bitAt e 9 then s
    else
      let n := leafPages e level
      let t : TlbEntry :=
        { core := core, ctx := ctx, page := va / 4096 / n * n, pages := n,
          leaf := BitVec.ofNat 64 (if n = 16 then e - 2 ^ 21 * (va / 4096 % 16) else e), level := level }
      let mine := s.mem.tlb.filter fun t => t.core == core
      let kept := if 512 ≤ mine.length then s.mem.tlb.erase (mine.headD t) else s.mem.tlb
      { s with mem := { s.mem with tlb := kept ++ [t] } }
  | _, _ => s

/-! ## Commands to peers -/

/-- A route leads to a device; host memory needs none (18_host_peers R412). -/
def routed (s : State) (device : Nat) : Bool := device == 256 || (s.dev.routes.look device).isSome

/-- The context of a device in which a context's commands act there (18_host_peers R413). -/
def remoteCtx (s : State) (ctx device : Nat) : Nat := bits (peerEntry s ctx device) 9 4

/-- A read of a peer's memory is denied there: the peer's own entries decide it, so it is a free choice for each page and moment (18_host_peers
R414, log 33). -/
def peerDenies (s : State) (device pa : Nat) : Bool := (Config.freeByte s.tick (farAddr device (pa / 4096))).getLsbD 0

/-- The bytes that a read of host or peer memory returns: all ones where the peer denies it (18_host_peers R414). -/
def farSeen (s : State) (device pa n : Nat) : List Byte :=
  if device != 256 && peerDenies s device pa then List.replicate n 0xFF else farBytes s.mem device pa n

/-- A command on its way to a peer, under this device's id and the next command id for that target (18_host_peers R412, R415; that the first is
0 is a DESIGN CHOICE, log 83). -/
def sendCmd (s : State) (device : Nat) (body : PeerBody) : State :=
  let id := s.dev.nextOut.get device 0
  { s with dev := { s.dev with
      peerSent := s.dev.peerSent ++ [{ target := device, source := s.dev.deviceId, id := id, body := body }]
      nextOut := s.dev.nextOut.put device ((id + 1) % 2 ^ 32) } }

/-! ## Event queues -/

/-- The message of an MSI-X vector, as its table entry gives it (18_host_peers R408). -/
def msixMsg (s : State) (v : Nat) : MsixMsg :=
  let part (i : Nat) : Word := s.dev.msix.get (4 * v + i) 0
  { vector := v, addr := (part 1).zeroExtend 64 <<< 32 ||| (part 0).zeroExtend 64, data := part 2 }

/-- The MSI-X message of a vector, or its pending bit when it is masked (18_host_peers R408). -/
def sendMsix (s : State) (v : Nat) : State :=
  if s.dev.msixMasked.getLsbD v then { s with dev := { s.dev with msixPending := s.dev.msixPending ||| (1 <<< v) } }
  else { s with dev := { s.dev with msixSent := s.dev.msixSent ++ [msixMsg s v] } }

/-- Words written by hardware at offsets of a virtual address, or nothing when one cannot be reached. -/
def hwWords (s : State) (ctx va : Nat) : List (Nat × Nat) → Option State
  | [] => some s
  | (off, x) :: t =>
    match hwWrite s ctx (va + off) 4 x with
    | some s' => hwWords s' ctx va t
    | none => none

/-- A saturating count of the event queue header, raised by one (17_translation R390). -/
def countNow (s : State) (ctx off : Nat) : State :=
  match s.ctxs.look ctx with
  | some c =>
    match hwRead s ctx (c.cfg.evBase + off) 4 with
    | some n => (hwWrite s ctx (c.cfg.evBase + off) 4 (min (n + 1) (2 ^ 32 - 1))).getD s
    | none => s
  | none => s

/-- An event written to a context's queue (17_translation R390, R391): the payload words at their offsets, then the
producer index, then the MSI-X message when the queue was empty; dropped and counted when the queue is full. -/
def eventNow (s : State) (ctx stack kind : Nat) (payload : List (Nat × Nat)) : State :=
  match s.ctxs.look ctx with
  | none => s
  | some c =>
    match hwRead s ctx c.cfg.evBase 4, hwRead s ctx (c.cfg.evBase + 4) 4 with
    | some prod, some cons =>
      let used := (prod + 2 ^ 32 - cons) % 2 ^ 32
      if used = 2 ^ c.cfg.evK then countNow s ctx 8
      else
        let base := c.cfg.evBase + 64 + 32 * (prod % 2 ^ c.cfg.evK)
        let zeros := (List.range 8).map fun i => (4 * i, 0)
        match hwWords s ctx base (zeros ++ [(0, kind + 256 * stack)] ++ payload) with
        | some s1 =>
          match hwWrite s1 ctx c.cfg.evBase 4 ((prod + 1) % 2 ^ 32) with
          | some s2 => if used = 0 then sendMsix s2 ctx else s2
          | none => s
        | none => s
    | _, _ => s

/-- The context of a posting. -/
def Posting.ctx : Posting → Nat
  | .event c _ _ _ => c
  | .count c _ => c

/-- A posting performed at its queue. -/
def Posting.run (s : State) : Posting → State
  | .event c stack kind payload => eventNow s c stack kind payload
  | .count c off => countNow s c off

/-- The header of a context's queue and its next entry take a write now (12_ordered_sections R276). -/
def queueFree (s : State) (ctx : Nat) : Bool :=
  match s.ctxs.look ctx with
  | some c => hwFree s ctx c.cfg.evBase 16 &&
    ((hwRead s ctx c.cfg.evBase 4).map fun prod => hwFree s ctx (c.cfg.evBase + 64 + 32 * (prod % 2 ^ c.cfg.evK)) 32).getD true
  | none => true

/-- A posting performed, or made to wait while a home slice that it writes takes no request: it follows the postings of its context that wait
already (12_ordered_sections R276). -/
def postTo (s : State) (p : Posting) : State :=
  if s.dev.postings.all (fun q => q.ctx != p.ctx) && queueFree s p.ctx then p.run s
  else { s with dev := { s.dev with postings := s.dev.postings ++ [p] } }

/-- The postings that wait tried again, in order. -/
def drainPostings (s : State) : State := s.dev.postings.foldl postTo { s with dev := { s.dev with postings := [] } }

/-- A saturating count of the event queue header is to rise by one (17_translation R390). -/
def bumpCount (s : State) (ctx off : Nat) : State := postTo s (.count ctx off)

/-- An event posted to a context's queue (17_translation R390, R391). -/
def postEvent (s : State) (ctx stack kind : Nat) (payload : List (Nat × Nat)) : State := postTo s (.event ctx stack kind payload)

/-- The event that says that poison was passed on, with an address or an entry (20_errors R438, R445). -/
def postPoison (s : State) (ctx stack addr : Nat) : State := postEvent s ctx stack 10 [(8, addr % 2 ^ 32), (12, addr / 2 ^ 32)]

/-- An event of the device put in flight. -/
def State.post (s : State) (e : Ev) : State := { s with pending := s.pending ++ [e] }

/-- Several events put in flight, in order. -/
def State.posts (s : State) (es : List Ev) : State := { s with pending := s.pending ++ es }

end Sys2Proof.Machine
end

