-- ==== Sys2Proof/Machine/Ops.lean ====
section
/-! DEFINITION. The named operations that the meanings share: waves and fibres, minimum-PC issue, the loop stack, the end
of fibres, waves and blocks, taking a trap and returning from one, and the end of a chain
(15_execution_model, 19_traps, 02_encoding R20 to R24). -/

namespace Sys2Proof.Machine

/-! ## Records of the state -/

/-- The state with one wave replaced. -/
def State.setWave (s : State) (k : Nat) (w : Wave) : State :=
  { s with work := { s.work with waves := s.work.waves.put k w } }

/-- The state with one block replaced. -/
def State.setBlock (s : State) (b : Nat) (x : Block) : State :=
  { s with work := { s.work with blocks := s.work.blocks.put b x } }

/-- The state with one launch replaced. -/
def State.setLaunch (s : State) (l : Nat) (x : Launch) : State :=
  { s with work := { s.work with launches := s.work.launches.put l x } }

/-- The state with one context replaced. -/
def State.setCtx (s : State) (c : Nat) (x : Ctx) : State := { s with ctxs := s.ctxs.put c x }

/-- A wave changed, if it exists. -/
def State.mapWave (s : State) (k : Nat) (f : Wave → Wave) : State := { s with work := { s.work with waves := s.work.waves.modify k f } }

/-- A block changed, if it exists. -/
def State.mapBlock (s : State) (b : Nat) (f : Block → Block) : State := { s with work := { s.work with blocks := s.work.blocks.modify b f } }

/-- A block, when it exists. -/
def State.block (s : State) (b : Nat) : Option Block := s.work.blocks.look b

/-- A wave, when it exists. -/
def State.wave (s : State) (k : Nat) : Option Wave := s.work.waves.look k

/-- The launch of a block, when both exist. -/
def State.launchOf (s : State) (b : Nat) : Option Launch := (s.block b).bind fun x => s.work.launches.look x.launch

/-- Word `i` (offset `4 i`) of the launch record of a block (16_scheduling R358). -/
def recWord (s : State) (b i : Nat) : Nat :=
  match s.launchOf b with
  | some l => (nth l.record i).toNat
  | none => 0

/-- A 64-bit field of the launch record of a block, by the index of its low word. -/
def recDword (s : State) (b i : Nat) : Nat := recWord s b i + 2 ^ 32 * recWord s b (i + 1)

/-- The core of a wave's block. -/
def coreOf (s : State) (w : Wave) : Nat := ((s.block w.blk).map Block.core).getD 0

/-- The stack of a core (02_encoding R32, 01_machine R6). -/
def stackOf (core : Nat) : Nat := core / 256

/-- The context of a wave's block. -/
def ctxOf (s : State) (w : Wave) : Nat := ((s.block w.blk).map Block.ctx).getD 0

/-- The bytes of the scratchpad allocation of a wave's block (08_memory_spaces R159). -/
def spmSize (s : State) (w : Wave) : Nat := ((s.block w.blk).map Block.size).getD 0

/-- The bytes of a fibre's lane-private window (08_memory_spaces R159). -/
def lpSize (s : State) (w : Wave) : Nat := recWord s w.blk 8 % 2 ^ 12

/-- The wave width, from wavecfg (02_encoding R32). -/
def Wave.width (w : Wave) : Nat := 16 * 2 ^ (w.cfg.toNat % 4)

/-- The architectural registers N, from wavecfg. -/
def Wave.n (w : Wave) : Nat := bits w.cfg.toNat 8 2

/-- The physical registers P of a lane slot, from wavecfg. -/
def Wave.p (w : Wave) : Nat := bits w.cfg.toNat 21 9

/-- The key of a wave. -/
def waveKey (blk num : Nat) : Nat := 16 * blk + num

/-- The keys of a block's waves. -/
def wavesOf (s : State) (blk : Nat) : List Nat := (s.work.waves.filter fun p => p.2.blk == blk).map Prod.fst

/-- A fibre of a wave changed, if it is live. -/
def Wave.mapFibre (w : Wave) (lane : Nat) (f : Fibre → Fibre) : Wave := { w with fibres := w.fibres.modify lane f }

/-! ## Minimum-PC issue -/

/-- A program counter as the tpc CSR holds it (02_encoding R32). -/
def toTpc (p : Pc) : Word := BitVec.ofNat 32 (4 * p.packet + p.slot)

/-- The program counter that a word in tpc format names. -/
def ofTpc (x : Word) : Pc := { packet := x.toNat / 4, slot := x.toNat % 4 }

/-- The order of program counters: packet, then slot (R327). -/
def Pc.key (p : Pc) : Nat := 4 * p.packet + p.slot

/-- A fibre may issue: it is not parked, and while a REP runs it stands at the REP (R327, R341). -/
def canIssue (w : Wave) (f : Fibre) : Bool :=
  f.park.isNone && (match w.repAt with
    | some p => f.pc == p
    | none => true)

/-- The lowest PC among the live fibres that are not parked (R327). -/
def minPc (w : Wave) : Option Pc :=
  (least (fun p => p.2.pc.key) (w.fibres.filter fun p => canIssue w p.2)).map fun p => p.2.pc

/-- The lane slots of the batch: every live, unparked fibre that holds the lowest PC (R327). -/
def batch (w : Wave) : List Nat :=
  match minPc w with
  | some p => (w.fibres.filter fun q => canIssue w q.2 && q.2.pc == p).map Prod.fst
  | none => []

/-! ## The loop stack and the next program counter -/

/-- The empty loop entry (R338). -/
def LoopEntry.none : LoopEntry := { start := 0, fin := 0, count := 0 }

/-- EndOfPacket over entries from the top down: the target packet and the entries (R338). -/
def unwind (pkt : Nat) : List LoopEntry → Nat × List LoopEntry
  | [] => (pkt + 1, [])
  | e :: t =>
    if e.count = 0 then ((unwind pkt t).1, e :: (unwind pkt t).2)
    else if e.fin.toNat != pkt then (pkt + 1, e :: t)
    else if e.count = 1 then ((unwind pkt t).1, e :: (unwind pkt t).2)
    else (e.start.toNat, { e with count := e.count - 1 } :: t)

/-- A live fibre stands in the body of a loop entry (R338). -/
def inBody (w : Wave) (e : LoopEntry) : Bool :=
  w.fibres.any fun p => decide (e.start.toNat ≤ p.2.pc.packet) && decide (p.2.pc.packet ≤ e.fin.toNat)

/-- Entries from the top down with those popped that no live fibre stands in (R338). -/
def popFrom (w : Wave) : List LoopEntry → List LoopEntry
  | [] => []
  | e :: t =>
    if e.count = 0 then e :: popFrom w t
    else if inBody w e then e :: t
    else LoopEntry.none :: popFrom w t

/-- PopEmpty, after every issue outside a handler (R338, R427). -/
def popEmpty (w : Wave) : Wave :=
  if w.inHandler then w else { w with loops := (popFrom w w.loops.reverse).reverse }

/-- Fibres sent to a program counter. -/
def Wave.sendTo (w : Wave) (lanes : List Nat) (p : Pc) : Wave :=
  lanes.foldl (fun w l => w.mapFibre l fun f => { f with pc := p }) w

/-- Fibres of one batch moved to their next chain: within the packet, or off its end under the loop rule (R19, R338). -/
def advance (w : Wave) (lanes : List Nat) (next : NextPc) : Wave :=
  match lanes.head?.bind w.fibres.look with
  | none => w
  | some f =>
    match next with
    | .stay => w
    | .slot k => w.sendTo lanes { packet := f.pc.packet, slot := k }
    | .off =>
      if w.inHandler then w.sendTo lanes { packet := f.pc.packet + 1, slot := 0 }
      else
        let u := unwind f.pc.packet w.loops.reverse
        { w with loops := u.2.reverse }.sendTo lanes { packet := u.1, slot := 0 }

/-- One parked fibre released: it goes on to the chain after its parking word (R328). -/
def releaseOne (w : Wave) (lane : Nat) : Wave :=
  match (w.fibres.look lane).bind Fibre.park with
  | some p => advance (w.mapFibre lane fun f => { f with park := none }) [lane] p.next
  | none => w

/-- A request that a fibre made before its wave entered a handler is answered: the fibre goes on at TRET (19_traps R426). -/
def answerBehind (w : Wave) (lane : Nat) : Wave :=
  w.mapFibre lane fun f => { f with shadow := f.shadow.map fun sh => { sh with answered := true } }

/-- The parked state that a fibre keeps behind a handler, unless it has been answered or will issue its chain again (19_traps R426). -/
def Fibre.behind (f : Fibre) : Option Parked :=
  match f.shadow with
  | some sh => if sh.redo || sh.answered then none else sh.park
  | none => none

/-- Parked fibres released together as one batch at their next chain (R328, R332). -/
def releaseAll (w : Wave) (lanes : List Nat) : Wave :=
  match lanes.head?.bind fun l => (w.fibres.look l).bind Fibre.park with
  | some p => advance (lanes.foldl (fun w l => w.mapFibre l fun f => { f with park := none }) w) lanes p.next
  | none => w

/-- The distinct chains at which lanes stand. -/
def chainsOf (w : Wave) (lanes : List Nat) : List Pc := ((w.fibres.filter fun p => lanes.contains p.1).map fun p => p.2.pc).eraseDups

/-- Parked fibres released; those of one chain go on as one batch (R328). -/
def releaseLanes (w : Wave) (lanes : List Nat) : Wave :=
  (chainsOf w lanes).foldl (fun v pc =>
    releaseAll v (lanes.filter fun l => ((w.fibres.look l).map fun f => f.pc == pc).getD false)) w

/-- A parked state at a BTEST. It is no parking point: the fibre waits in its word for the answer (11_async_copies R248). -/
def atBtest (q : Parked) : Bool :=
  match q.kind with
  | .btest _ => true
  | _ => false

/-- A fibre is parked at a parking point (R328). -/
def Fibre.parked (f : Fibre) : Bool := f.park.any fun q => !atBtest q

/-- A wave stands at a BTEST whose answer is still to come: it issues nothing, and no fibre of it is parked for that
(11_async_copies R248). -/
def testing (w : Wave) : Bool := w.fibres.any fun p => p.2.park.any atBtest

/-- Every live fibre stands parked at one CONV chain (R332). -/
def convReady (w : Wave) : Bool :=
  match w.fibres with
  | [] => false
  | (_, f0) :: _ => w.fibres.all fun p =>
      p.2.pc == f0.pc && (match p.2.park with
        | some q => q.kind == .conv
        | none => false)

/-- CONV released when every live fibre is parked at it (R332). -/
def releaseConv (w : Wave) : Wave := if convReady w then releaseAll w (w.fibres.map Prod.fst) else w

/-! ## The end of fibres, waves and blocks -/

/-- An export slot for the discard of a fragment's ticket pixel (13_raster R297, R305). -/
def discardFrag (s : State) (k : Nat) (f : Frag) : State :=
  let x : Export :=
    { wave := k, op := none, frag := f, discard := true, colour := [], z := 0, entered := false, depthDone := false,
      colourDone := false, verdict := none }
  { s with base := { s.base with exports := s.base.exports.put s.base.nextExport x, nextExport := s.base.nextExport + 1 } }.post
    (.exportEntry s.base.nextExport)

/-- The ticket pixel of a fibre that ends with its fragment bit set retires as a discard (13_raster R297). -/
def discardPixel (s : State) (k : Nat) (f : Fibre) : State :=
  match f.fragment, f.frag with
  | true, some g => discardFrag s k g
  | _, _ => s

/-- An active entry of a key. -/
def wpActive (s : State) (ctx : Nat) (key : Word) : Option WpEntry := s.base.wps.find? fun e => e.ctx == ctx && e.key == key

/-- An entry is idle (12_ordered_sections R260). -/
def WpEntry.idle (e : WpEntry) : Bool := e.holder.isNone && e.subs.isEmpty && e.skip == 0

/-- The entries of a key removed from the active table. -/
def wpDrop (s : State) (ctx : Nat) (key : Word) : State :=
  { s with base := { s.base with wps := s.base.wps.filter fun e => !(e.ctx == ctx && e.key == key) } }

/-- An entry put in the active table; one that equals that of an absent key is dropped (12_ordered_sections R259). -/
def wpPut (s : State) (e : WpEntry) : State :=
  let s1 := wpDrop s e.ctx e.key
  if e.idle && e.n == 0 then s1 else { s1 with base := { s1.base with wps := e :: s1.base.wps } }

/-- A core without a waiting fibre or a deferred skip drops its subscription (12_ordered_sections R265). -/
def dropSubs (s : State) (core ctx : Nat) (key : Word) : State :=
  if s.base.waits.any fun q => q.core == core && q.req.ctx == ctx && q.req.key == key then s
  else
    match wpActive s ctx key with
    | some e => wpPut s { e with subs := e.subs.erase core }
    | none => s

/-- Some waits gone, and with them the subscriptions that their cores have no further wait for (12_ordered_sections R265). -/
def dropWaits (s : State) (p : WpWait → Bool) : State :=
  (s.base.waits.filter p).foldl (fun s q => dropSubs s q.core q.req.ctx q.req.key)
    { s with base := { s.base with waits := s.base.waits.filter fun q => !p q } }

/-- A step under way that carries a request of a fibre to a waypoint entry, or the answer to it; its skips and leaves are none. -/
def asksFor (uid : Nat) : Ev → Bool
  | .waypointRequest r => r.uid == uid && (r.kind == .oent || r.kind == .oqry)
  | .waypointClaim r => r.uid == uid
  | .waypointAnswer u _ _ => u == uid
  | _ => false

/-- A fibre holds a section slot at its entry: the slot says so, or the grant is still on its way to the fibre. -/
def holdsAt (s : State) (ctx uid : Nat) (x : Sect) : Bool :=
  x.st == .held || (x.st == .awaiting && s.base.wps.any fun e => e.ctx == ctx && e.key == x.key && e.holder == some uid)

/-- The sections of an ending fibre left as by OLEAVE, its requests withdrawn, its deferred skips discarded, and one
section-abandoned event (12_ordered_sections R272, 15_execution_model R329). -/
def abandon (s : State) (ctx stack : Nat) (after : Option (Nat × Nat)) (f : Fibre) : State :=
  let held := f.slots.filter (holdsAt s ctx f.uid)
  let s1 := dropWaits { s with pending := s.pending.filter fun e => !asksFor f.uid e } fun q => q.req.uid == f.uid
  let s2 := s1.posts (held.map fun x =>
    .waypointRequest { kind := .oleave, ctx := ctx, key := x.key, seq := x.seq, uid := f.uid, after := after })
  if held.isEmpty then s2
  else postEvent s2 ctx stack 3
    (((List.range 4).zip (held.map fun x => x.key.toNat)).map (fun p => (8 + 4 * p.1, p.2)) ++ [(0x18, held.length)])

/-- A fibre ends: its sections are abandoned, a fragment's pixel is retired as a discard, and its lane slot becomes empty
(R331). The registers of the slot that a tile operation reads are still those that it reads (06_matrix R137). -/
def endFibre (s : State) (k lane : Nat) : State :=
  match s.wave k with
  | none => s
  | some w =>
    match w.fibres.look lane with
    | none => s
    | some f =>
      let s1 := s.setWave k
        { w with
          fibres := w.fibres.del lane
          ops := w.ops.map fun o => if o.kind = .tile then o else { o with dests := o.dests.filter fun d => d.1 != lane } }
      let s2 := abandon s1 (ctxOf s w) (stackOf (coreOf s w)) (some (k, w.nextOp)) f
      discardPixel s2 k f

/-- A table-full report on its way to a wave. -/
def reportsTo (k : Nat) : Ev → Bool
  | .tableFullReport q _ _ _ => q == k
  | _ => false

/-- A wave with no live fibre and no outstanding operation gives up its slot (R329). -/
def reapWave (s : State) (k : Nat) : State :=
  match s.wave k with
  | some w =>
    if w.fibres.isEmpty && w.ops.all MemOp.counted then
      { s with
        pending := s.pending.filter fun e => !reportsTo k e
        work := { s.work with
          waves := s.work.waves.del k
          cores := s.work.cores.map fun p => (p.1, { p.2 with
            active := p.2.active.filter fun a => a.1 != k
            pending := p.2.pending.filter fun a => a.1 != k }) } }
    else s
  | none => s

/-- No wave of a block holds a live fibre. -/
def blockIdle (s : State) (blk : Nat) : Bool := (s.work.waves.filter fun p => p.2.blk == blk).all fun p => p.2.fibres.isEmpty

/-- A wave ends: its remaining fibres end, and its block may retire once its last wave has ended (R329, R350). -/
def endWave (s : State) (k : Nat) : State :=
  match s.wave k with
  | none => s
  | some w =>
    let s1 := w.fibres.foldl (fun s p => endFibre s k p.1) s
    let s2 := match s1.wave k with
      | some w1 => s1.setWave k { w1 with due := [], repAt := none }
      | none => s1
    let s3 := if blockIdle s2 w.blk then s2.post (.blockRetire w.blk) else s2
    reapWave s3 k

/-- A wave that holds no live fibre other than padding ends (R329). -/
def settle (s : State) (k : Nat) : State :=
  match s.wave k with
  | some w => if w.fibres.all fun p => p.2.padding then endWave s k else s
  | none => s

/-- Event 7 of a block: its launch record, its index and the cause (20_errors R445). -/
def tellContained (s : State) (b : Block) (cause : Nat) : State :=
  let va := ((s.work.launches.look b.launch).map Launch.recVa).getD 0
  postEvent s b.ctx (stackOf b.core) 7 [(8, va % 2 ^ 32), (12, va / 2 ^ 32), (0x10, b.idx), (0x14, cause)]

/-- A block is contained: its waves stop, its operations drain, it is removed without a save, and event 7 is posted
(20_errors R443, R445). It then retires under R350. The messages that its core held for it find no allocation any more, and are dropped as they
are (10_memory_instructions R212, 19_traps R433). -/
def containBlock (s : State) (blk cause : Nat) : State :=
  match s.block blk with
  | none => s
  | some b =>
    let s1 := (wavesOf s blk).foldl endWave s
    let s2 := b.pools.foldl (fun s p => p.members.foldl (fun s m => abandon (discardPixel s 0 m.fibre) b.ctx (stackOf b.core) (some m.after) m.fibre) s) s1
    let s3 := match s2.block blk with
      | some b2 => s2.setBlock blk { b2 with pools := [], status := .contained, preempt := false, heldMsgs := [], parkStart := none }
      | none => s2
    ((tellContained s3 b cause).post (.blockRetire blk)).posts (b.heldMsgs.map Ev.remoteMessage)

/-! ## Taking a trap and returning from one -/

/-- A trap that a wave takes at its next packet boundary (19_traps R425). -/
def report (s : State) (k : Nat) (t : Trap) : State := (s.mapWave k fun w => { w with due := w.due ++ [t] }).post (.trapEntry k)

/-- The causes for which the spec states taddr: the word of a decode cause (R48), the address of an access (R160, R161, R218, R397), an object
(R249), poison (20_errors R438). A PLOT of an encrypted region states a detail alone (14_plot_units R315), and so does 0x01 of a LAUNCH (R362). -/
def tellsAddr (cause info : Nat) : Bool :=
  [0x02, 0x03, 0x08, 0x10, 0x11, 0x12, 0x13, 0x14, 0x15, 0x18, 0x19, 0x20, 0x40, 0x41].contains cause && !(cause == 0x14 && info == 0x100)

/-- The bits of tinfo that the spec states for a cause: of 0x18 and 0x19 the width in bytes where eight bits hold it (R161), of 0x20 bit 0
(R249), of 0x40 the memory (R438), of a 0x13 that has no reason of R397 its zeros; of 0x01 outside decode, 0x04, 0x05, 0x07, 0x08, 0x1A, 0x1B,
0x23, 0x30 and 0x41 none. -/
def tellsInfo (cause info : Nat) : Word :=
  if [0x02, 0x03, 0x06, 0x10, 0x11, 0x12, 0x14, 0x15, 0x1C, 0x21, 0x22, 0x24, 0x28, 0x31, 0x3F].contains cause then BitVec.allOnes 32
  else if cause = 0x13 then (if info = 0 then ~~~0xFF#32 else BitVec.allOnes 32)
  else if (cause = 0x18 ∨ cause = 0x19) ∧ info < 256 then 0xFF
  else if cause = 0x20 then 1
  else if cause = 0x40 then 0xF
  else 0

/-- A trap of some lane slots with a cause, an address and a detail, as far as the spec states them for the cause. -/
def mkTrap (cause : Nat) (lanes : List Nat) (addr info : Nat) : Trap :=
  { cause := cause, tmask := maskOf lanes, taddr := BitVec.ofNat 64 addr, tinfo := BitVec.ofNat 32 info, next := false,
    pops := [], addrTold := tellsAddr cause info, infoTold := tellsInfo cause info }

/-- A trap whose address and detail are both stated, whatever its cause. -/
def Trap.told (t : Trap) : Trap := { t with addrTold := true, infoTold := BitVec.allOnes 32 }

/-- The frame that a handler sees: what the spec states of the address and of the detail, and free values in the rest (DESIGN CHOICE, log 89). -/
def Trap.shown (tick k : Nat) (t : Trap) : Trap :=
  let free (i : Nat) : Word := Config.freeWord tick (2 ^ 40 + 4 * k + i)
  { t with
    taddr := if t.addrTold then t.taddr else (free 1).zeroExtend 64 <<< 32 ||| (free 0).zeroExtend 64
    tinfo := (t.tinfo &&& t.infoTold) ||| (free 2 &&& ~~~t.infoTold) }

/-- The user handler packet of a block's launch, if it names one (16_scheduling R358, 19_traps R423). -/
def userHandler (s : State) (blk : Nat) : Option Nat :=
  if recWord s blk 18 = 2 ^ 32 - 1 then none else some (recWord s blk 18)

/-- A trap goes to the supervisor handler (19_traps R423, the trap routing table). -/
def toSupervisor (s : State) (blk : Nat) (t : Trap) : Bool :=
  t.cause == 0x30 || t.cause == 0x40 || (decide (0x10 ≤ t.cause) && decide (t.cause ≤ 0x15) && decide (t.tinfo.toNat < 2 ^ 8)) ||
    (t.cause == 0x31 && t.tinfo == 1) || (userHandler s blk).isNone

/-- The save-image address of a block: 0 without a save area (19_traps R428, R435). -/
def saveSize (s : State) (blk : Nat) : Nat :=
  let w := 16 * 2 ^ (recWord s blk 3 % 4)
  let p := bits (recWord s blk 3) 21 9
  let v := bits (recWord s blk 3) 25 22 + 1
  let l := recWord s blk 8 % 2 ^ 12
  let n := bits (recWord s blk 3) 8 2
  let cap := recWord s blk 9 % 2 ^ 16
  let g := (cap * (4 * n + 16 + l) + 255) / 256 * 256
  let rec1 := (1024 + 64 * w + 4 * p * w + l * w + 255) / 256 * 256
  512 + recWord s blk 7 + 4096 * bits (recWord s blk 8) 17 12 + g + v * rec1

/-- The address of a block's save image (19_traps R428). -/
def saveImg (s : State) (blk : Nat) : Nat :=
  if recDword s blk 28 = 0 then 0
  else recDword s blk 28 + ((s.block blk).map Block.idx).getD 0 * saveSize s blk

/-- The parked state of a fibre at entry to a handler (19_traps R426). Pre-emption withdraws the requests of OENT and OQRY
and drops the subscriptions of BWAIT; those fibres issue their parking chains again. -/
def redoes (cause : Nat) (p : Option Parked) : Bool :=
  cause == 0x30 && (match p with
    | some { kind := .bwait _ _, .. } => true
    | some { kind := .btest _, .. } => true
    | some { kind := .oent _ _ _, .. } => true
    | some { kind := .oqry _ _, .. } => true
    | _ => false)

/-- A fibre as it enters a handler: shadow state kept, PC at the handler (19_traps R425 steps 3 and 6). -/
def shadowed (cause : Nat) (tb : List Nat) (handler : Nat) (lane : Nat) (f : Fibre) : Fibre :=
  { f with
    pc := { packet := handler, slot := 0 }
    park := none
    slots := if cause == 0x30 then f.slots.map fun x => if x.st == .awaiting then Sect.none else x else f.slots
    shadow := some
      { pc := f.pc, preds := f.preds, base := f.base, park := f.park, trapBatch := tb.contains lane, answered := false,
        redo := redoes cause f.park } }

/-- The program counter that tpc receives: that of the trap batch, else the REP between two of whose repeats the wave stands, else the lowest
of the fibres that are not parked, else the lowest of all (19_traps R425, 15_execution_model R342). -/
def trapPc (w : Wave) (tb : List Nat) : Pc :=
  match tb.head?.bind w.fibres.look, w.repAt with
  | some f, _ => f.pc
  | none, some p => p
  | none, none =>
    match least (fun p => p.2.pc.key) (w.fibres.filter fun p => p.2.park.isNone) with
    | some p => p.2.pc
    | none => ((least (fun p => p.2.pc.key) w.fibres).map fun p => p.2.pc).getD { packet := 0, slot := 0 }

/-- The uniform registers after banking and the entry values of the handler entry table (19_traps R425 step 5). -/
def entryRegs (w : Wave) (img : Nat) (tpc : Word) (t : Trap) : Map Word :=
  [(120, BitVec.ofNat 32 t.cause), (121, tpc), (122, t.taddr.truncate 32), (123, (t.taddr >>> 32).truncate 32), (124, t.tinfo),
    (125, BitVec.ofNat 32 w.num), (126, BitVec.ofNat 32 img), (127, BitVec.ofNat 32 (img / 2 ^ 32))].foldl
    (fun m p => Map.store m p.1 p.2 0) w.sregs

/-- The wave inside the handler of a trap (19_traps R425 steps 3 to 6). -/
def Wave.trapped (w : Wave) (tb : List Nat) (t : Trap) (img handler : Nat) (level : Level) (base : DWord) (sup : Bool) : Wave :=
  let tpc := toTpc (trapPc w tb)
  { w with
    fibres := w.fibres.map fun p => (p.1, shadowed t.cause tb handler p.1 p.2)
    sregs := entryRegs w img tpc t
    tcause := BitVec.ofNat 8 t.cause
    tpc := tpc
    tmask := t.tmask
    taddr := t.taddr
    tinfo := t.tinfo
    ubank := (List.range 8).map fun i => w.sregs.get (120 + i) 0
    inHandler := true
    superHandler := sup
    intLevel := w.level
    intBase := w.codeBase
    handlerCause := t.cause
    preemptPending := if t.cause = 0x30 then false else w.preemptPending
    repAt := none
    level := level
    codeBase := base }

/-- A request of OENT or OQRY. -/
def reqParks (r : WpReq) : Bool := r.kind == .oent || r.kind == .oqry

/-- Requests of a wave's fibres for waypoints withdrawn, without effect at the entries, and the traps that parked fibres were about to
take dropped: those fibres issue their chains again (19_traps R426). -/
def withdraw (s : State) (k : Nat) (w : Wave) : State :=
  let s1 := dropWaits { s with pending := s.pending.filter fun e => w.fibres.all fun p => !asksFor p.2.uid e } fun q =>
    reqParks q.req && w.fibres.any fun p => p.2.uid == q.req.uid
  s1.setWave k { w with due := w.due.filter fun t => t.next }

/-- Taking a trap (19_traps R423 to R426): delivered to the user or the supervisor handler, or, when no handler is installed
or the wave is in a handler, the block is contained. `tb` is the trap batch. -/
def enterTrap (s : State) (k : Nat) (tb : List Nat) (t : Trap) : State :=
  match s.wave k with
  | none => s
  | some w =>
    let sup := toSupervisor s w.blk t
    let s1 := if t.cause = 0x30 then withdraw s k w else s
    match s.ctxs.look (ctxOf s w) with
    | none => containBlock s w.blk t.cause
    | some c =>
      if w.inHandler || (sup && c.shpacket == BitVec.allOnes 32) then containBlock s w.blk t.cause
      else if sup then
        s1.mapWave k fun w => w.trapped tb (t.shown s.tick k) (saveImg s w.blk) c.shpacket.toNat .supervisor c.shbase true
      else
        s1.mapWave k fun w => w.trapped tb (t.shown s.tick k) (saveImg s w.blk) ((userHandler s w.blk).getD 0) w.level w.codeBase false

/-- A fibre as it leaves a handler: the state that the handler left in its shadow, or, for one started there, the PC in tpc
(19_traps R429). -/
def unshadowed (tpc : Pc) (f : Fibre) : Fibre :=
  match f.shadow with
  | none => { f with pc := tpc, park := none }
  | some sh =>
    { f with
      pc := if sh.trapBatch then tpc else sh.pc
      preds := sh.preds
      base := sh.base
      park := if sh.redo then none else sh.park
      shadow := none }

/-- A fibre behind a handler goes on at TRET: its request was answered. One for which a regroup area has kept room enters its pool instead
(19_traps R426). -/
def Shadow.goesOn (sh : Shadow) : Bool :=
  sh.answered && !sh.redo && !(sh.park.any fun q => match q.kind with
    | .regroup _ _ => true
    | _ => false)

/-- The wave after TRET: every live fibre resumes, s120 to s127 and the level are restored, and fibres answered during the
handler go on past their parking words, those of one chain as one batch (R328, 19_traps R426, R429). -/
def Wave.returned (w : Wave) : Wave :=
  let ans := (w.fibres.filter fun p => p.2.shadow.any Shadow.goesOn).map Prod.fst
  let w1 : Wave :=
    { w with
      fibres := w.fibres.map fun p => (p.1, unshadowed (ofTpc w.tpc) p.2)
      sregs := ((List.range 8).zip w.ubank).foldl (fun m p => Map.store m (120 + p.1) p.2 0) w.sregs
      inHandler := false
      superHandler := false
      level := w.intLevel
      codeBase := w.intBase }
  releaseConv (releaseLanes w1 ans)

/-! ## Running a word of a chain and ending a chain -/

/-- What a word of a chain does: its effect, a trap, or nothing yet because the chain cannot issue (R19, R23, R30), in which
case it may put steps of the device in flight that it waits for. -/
inductive Res
  | ok (s : State)
  | trap (t : Trap)
  | stall (es : List Ev)

/-- The chain cannot issue yet. -/
def Res.hold : Res := .stall []

/-- What a word does, and something more where it has an effect. -/
def Res.after (f : State → State) : Res → Res
  | .ok s => .ok (f s)
  | x => x

/-- The result of a chain. A trap leaves no effect (R23); a chain that cannot issue leaves the state as it is. -/
def Issue.clear (i : Issue) : Issue := { i with pre := none, moved := false, held := false, posts := [], traps := [], conds := [] }

/-- Every condition that a chain raised, over its fibres (04_number_formats R69). -/
def allConds (cs : List (Nat × BitVec 7)) : BitVec 7 := cs.foldl (fun a c => a ||| c.2) 0

/-- The lane slots that raised a condition enabled in ftrap (R70). -/
def hitLanes (ft : BitVec 7) (cs : List (Nat × BitVec 7)) : List Nat :=
  (cs.filter fun c => c.2 &&& ft != 0).map Prod.fst

/-- The trap of the conditions of a chain that are enabled in ftrap (04_number_formats R70). -/
def condTrap (w : Wave) (cs : List (Nat × BitVec 7)) : Option Trap :=
  if allConds cs &&& w.ftrap != 0 then some (mkTrap 0x28 (hitLanes w.ftrap cs) 0 (allConds cs &&& w.ftrap).toNat) else none

/-- The lowest lane slot of a mask. -/
def lowLane (m : DWord) : Nat := ((List.range 64).find? fun i => m.getLsbD i).getD 64

/-- The trap that several words of one chain raise together: the privilege cause when it holds, else the lowest code, for the fibres that
raised that code, with the address and detail of the lowest of them, and of the first word in slot order where two words meet it in the same
lane slot, which the manual leaves open (02_encoding R43, 08_memory_spaces R160; DESIGN CHOICE, log 98). -/
def pickTrap (ts : List Trap) : Option Trap :=
  let rank (t : Trap) : Nat := if t.cause = 0x07 then 0 else t.cause
  let best := least (fun t : Trap => 128 * rank t + lowLane t.tmask) ts
  best.map fun b =>
    let mine := ts.filter fun t => t.cause == b.cause
    { b with tmask := mine.foldl (fun m t => m ||| t.tmask) 0, pops := mine.flatMap Trap.pops }

/-- The lowest lane slots' program counters decide the trap batch of a single-step trap (R425). -/
def stepTrap (s : State) (k : Nat) : State :=
  match s.wave k with
  | some w => enterTrap s k (batch w) { mkTrap 0x31 [] 0 1 with tmask := maskOf (batch w), next := true }
  | none => s

/-- Bookkeeping of a wave after a chain: PopEmpty, CONV, and whether its first packet is over (R332, R338, R432). -/
def afterChain (w : Wave) : Wave :=
  let w1 := popEmpty (releaseConv w)
  { w1 with
    issued := true
    firstPacket := w1.firstPacket && (match minPc w1 with
      | some p => p.slot != 0
      | none => w1.fibres.any fun p => p.2.park.any fun q => q.next != .off) }

/-- One repeat of a REP counted; repstate falls to zero with the last one (R342). -/
def countRepeat (w : Wave) : Wave :=
  match w.repAt with
  | none => w
  | some _ =>
    if w.rep.remaining.toNat ≤ 1 then { w with rep := { remaining := 0, active := false, steps := 0, stride := 0 }, repAt := none }
    else { w with rep := { w.rep with remaining := w.rep.remaining - 1 } }

/-- The single-step trap follows each chain issued outside a handler (R428). The REP word itself is not one: its repeats are
the chains that issue (R340, R341). -/
def stepsNow (w0 w : Wave) : Bool := w.step && !w0.inHandler && !w.inHandler && (w0.repAt.isSome || w.repAt.isNone)

/-- The effect of a chain without a trap put in force: conditions into fstat, the batch to its next chain, a repeat counted,
PopEmpty, the end of the wave when no fibre is left, and the single-step trap (R69, R70, R338, R342, R428, R329). `s0` is the
state before it. -/
def commit (s0 s1 : State) (k : Nat) (lanes : List Nat) : State :=
  match s0.wave k, s1.wave k with
  | some w0, some w1 =>
    let cs := s1.issue.conds
    let w2 := { w1 with fstat := w1.fstat ||| allConds cs }
    let w3 := if s1.issue.moved then w2 else advance w2 lanes s1.issue.next
    let w4 := if w0.repAt.isSome then countRepeat w3 else w3
    let s2 := settle (s1.setWave k (afterChain w4)) k
    match s2.wave k with
    | some w5 => if stepsNow w0 w5 then stepTrap s2 k else s2
    | none => s2
  | _, _ => s1

/-- Stream `q` of a wave (08_memory_spaces R178). -/
def streamOf (w : Wave) (q : Nat) : Stream := w.streams.getD q Stream.idle

/-- The wave with a stream replaced. -/
def setStream (w : Wave) (q : Nat) (x : Stream) : Wave := { w with streams := w.streams.set q x }

/-- The wave with a stream changed. -/
def mapStream (w : Wave) (q : Nat) (f : Stream → Stream) : Wave := setStream w q (f (streamOf w q))

/-- The fault of the marker at the head of a load stream has been taken: it is fetched again at each later attempt to pop it
(08_memory_spaces R181). -/
def Stream.taken (x : Stream) : Stream := { x with held := x.held.modifyHead fun e => { e with taken := true } }

/-- The streams of a wave after a trap: those whose markers raised it. -/
def markTaken (w : Wave) (t : Trap) : Wave := t.pops.foldl (fun w q => mapStream w q Stream.taken) w

/-- The one effect that a trapping chain leaves: a BARV whose arrival found A = 0 has set the overrun bit of its object
(11_async_copies R249). -/
def markOverrun (s : State) (blk : Nat) (t : Trap) : State :=
  match s.block blk with
  | some b =>
    if t.cause == 0x20 && t.tinfo == 0 && !t.next then
      s.setBlock blk { b with spm := b.spm.store t.taddr.toNat (b.spm.get t.taddr.toNat 0 ||| 0x10) 0 }
    else s
  | none => s

/-- A trap of a chain taken. TRAP and BRK resume at the next chain (R425); with 0x28, fstat receives every condition of the chain, which
stand in the latch (04_number_formats R70). -/
def takeTrap (s : State) (k : Nat) (lanes : List Nat) (t : Trap) : State :=
  match s.wave k with
  | none => s
  | some w =>
    let s0 := markOverrun s w.blk t
    if t.next then enterTrap (s0.setWave k (afterChain (advance w lanes s0.issue.next))) k lanes t
    else if t.cause = 0x28 then enterTrap (s0.setWave k { w with fstat := w.fstat ||| allConds s.issue.conds }) k lanes t
    else enterTrap (s0.setWave k (markTaken w t)) k lanes t

/-- The latch of a state with the conditions of a chain. -/
def State.withConds (s : State) (cs : List (Nat × BitVec 7)) : State := { s with issue := { s.issue with conds := cs } }

/-- The end of a chain: its traps, a wait, or its effect, unless a condition of it is enabled in ftrap (R23, R43, R70). -/
def endChain (s0 : State) (k : Nat) (lanes : List Nat) : Res → State
  | .ok s1 =>
    let s2 := match (s0.wave k).bind fun w => condTrap w s1.issue.conds with
      | some t => takeTrap (s0.withConds s1.issue.conds) k lanes t
      | none => commit s0 s1 k lanes
    { s2 with issue := s2.issue.clear }
  | .trap t =>
    let u := match (s0.wave k).bind fun w => condTrap w t.conds with
      | some c => (pickTrap [t, c]).getD t
      | none => t
    let s2 := takeTrap (s0.withConds (s0.issue.conds ++ t.conds)) k lanes u
    { s2 with issue := s2.issue.clear }
  | .stall es =>
    match es.filter fun e => !s0.pending.contains e with
    | [] => { s0 with issue := { s0.issue.clear with held := true } }
    | new => { s0.posts new with issue := s0.issue.clear }

/-- What a word of a chain of several words leaves in the latch of the issue stage. -/
def noteWord (s0 : State) : Res → State
  | .ok s1 => s1
  | .trap t => { s0 with issue := { s0.issue with traps := s0.issue.traps ++ [t], conds := s0.issue.conds ++ t.conds } }
  | .stall es => { s0 with issue := { s0.issue with held := true, posts := s0.issue.posts ++ es } }

/-- The issuing wave: its key, the wave whose state its words read, and the wave they write (R20). -/
def issuing (s : State) : Option (Nat × Wave × Wave) :=
  match s.issue.wave with
  | none => none
  | some k =>
    match s.wave k with
    | none => none
    | some w => some (k, s.issue.pre.getD w, w)

/-- One word run in the chain that issues: a chain of one word ends with it. -/
def runWord (s : State) (f : Nat → Wave → Wave → Res) : Host.Outcome State Fault Refusal :=
  match issuing s with
  | none => .fault .noIssuingWave
  | some (k, r, w) =>
    match s.issue.pre with
    | none => .next (endChain s k (batch r) (f k r w))
    | some _ => .next (noteWord s (f k r w))

/-- The privilege check of a word: below the level required it gives trap 0x07 (03_opcode_map R50). -/
def needLevel (r : Wave) (ok : Bool) (x : Res) : Res := if ok then x else .trap (mkTrap 0x07 (batch r) 0 0)

/-- A device step: its effect when it is due, else nothing; either way it is no longer in flight when it was due. -/
def runEvent (s : State) (e : Ev) (due : Bool) (eff : State → State) : Host.Outcome State Fault Refusal :=
  if due then .next (eff { s with pending := s.pending.erase e }) else .next s

end Sys2Proof.Machine
end

