-- ==== Sys2Proof/Machine/Checks.lean ====
section
/-! DEFINITION. The checks that one fibre's access passes before it is performed, the trap of the fibres that fail, and the
operation that a word leaves outstanding (08_memory_spaces R160 to R162, 10_memory_instructions R197, 02_encoding R34, R43,
17_translation R403, 20_errors R438). -/

namespace Sys2Proof.Machine

/-- An access of an outstanding operation, before it is performed. -/
def mkSub (lane : Nat) (t : Target) (va n : Nat) (acc : Acc) : Sub :=
  { lane := lane, space := t.space, va := va, pa := t.pa, n := n, key := t.key, acc := acc, dst := 0, dstN := 0,
    stamp := 0, busy := false, done := false, value := 0, extra := 0 }

/-- An operation that a later write of some registers meets: those of its own registers are marked (02_encoding R36, 06_matrix R137). -/
def MemOp.clobber (o : MemOp) (dests : List (Nat × Nat)) : MemOp :=
  { o with clobbered := (dests.filter fun d => o.dests.contains d && !o.clobbered.contains d) ++ o.clobbered }

/-- An operation entered at the end of the wave's outstanding operations, issued at a tick. One that writes registers meets the tile
operations before it that read them (06_matrix R137). -/
def addOp (w : Wave) (tick : Nat) (cls : Option OpCls) (kind : OpKind) (acq rel : Option Scope) (subs : List Sub)
    (dests : List (Nat × Nat)) : Wave :=
  let new : MemOp :=
    { id := w.nextOp, cls := cls, kind := kind, acq := acq, rel := rel, subs := subs.map fun x => { x with stamp := tick }, dests := dests,
      clobbered := [], done := false, counted := false }
  { w with
    ops := (w.ops.map fun o => if o.kind == .tile && kind != .tile then o.clobber dests else o) ++ [new]
    nextOp := w.nextOp + 1 }

/-! ## What an operation is in the order of its wave -/

/-- An operation has been performed at its place. -/
def MemOp.performed (o : MemOp) : Bool := o.done || (!o.subs.isEmpty && o.subs.all Sub.done)

/-- An operation counts as a load (09_consistency R185). -/
def MemOp.loads (o : MemOp) : Bool := o.kind == .load || o.kind == .atomic || o.kind == .mcas

/-- An operation counts as a store (09_consistency R185). -/
def MemOp.stores (o : MemOp) : Bool :=
  match o.kind with
  | .store => true
  | .atomic => true
  | .mcas => true
  | .push _ => true
  | .bar _ (.init _) => true
  | .bar _ .arrive => true
  | _ => false

/-- An operation takes part in the order of 09_consistency R185; copies, tile operations, cache words and prefetches do not (09_consistency R193, 10_memory_instructions R223 to R225). -/
def MemOp.ordered (o : MemOp) : Bool := o.kind != .copy && o.kind != .tile && o.kind != .cache && o.kind != .pref

/-- An operation is a release, or a fence that orders all earlier accesses (09_consistency R189, R190). -/
def MemOp.releases (o : MemOp) : Bool :=
  o.rel.isSome ||
    (match o.kind with
      | .mcas => true
      | .fence .rel _ => true
      | .fence .full _ => true
      | _ => false)

/-- An operation is an acquire, or a fence that orders all later accesses (09_consistency R189, R190). -/
def MemOp.acquires (o : MemOp) : Bool :=
  o.acq.isSome ||
    (match o.kind with
      | .mcas => true
      | .fence .acq _ => true
      | .fence .full _ => true
      | _ => false)

/-! ## The checks of an access -/

/-- What the checks of one fibre's access give: a failure, a write that must wait for the page service, or the access. -/
inductive Try
  | fail (f : LaneFail)
  | wait (e : Ev)
  | fine (x : Sub)

/-- The failure, if it is one. -/
def Try.failure : Try → Option LaneFail
  | .fail f => some f
  | _ => none

/-- The step of the page service waited for, if any. -/
def Try.waiting : Try → Option Ev
  | .wait e => some e
  | _ => none

/-- The access, if the checks passed. -/
def Try.access : Try → Option Sub
  | .fine x => some x
  | _ => none

/-- The trap of the failures of a word: the lowest code, the fibres with that code, and the address and detail of the lowest of
them (R43, R160, R161). -/
def mergeFails (fs : List LaneFail) : Option Trap :=
  match least LaneFail.cause fs with
  | none => none
  | some f =>
    let mine := fs.filter fun g => g.cause == f.cause
    match least LaneFail.lane mine with
    | some g => some (mkTrap g.cause (mine.map LaneFail.lane) g.addr g.info)
    | none => none

/-- A line is poisoned, as the memory that holds it for the core reports it: the core's L1, the LLC or GDDR7; which of the last two
is free (20_errors R438). -/
def poisonOf (s : State) (core : Nat) (t : Target) : Option Nat :=
  match t.space with
  | .dev _ =>
    if s.mem.poison.contains (lineOf t.pa) then
      some (if s.mem.l1.any fun l => l.core == core && l.line == lineOf t.pa && l.valid != 0 then 0 else 1 + Config.choose s.tick % 2)
    else none
  | _ => none

/-- The bytes that collapse together at an address: a 64 KiB group, or a page of 4 KiB without the contiguity bit (17_translation R403,
log 44). -/
def collapseBytes (s : State) (ctx va : Nat) : Nat :=
  match walk s ctx va with
  | .leaf e _ 3 _ => if bitAt e 10 then 2 ^ 16 else 2 ^ 12
  | _ => 2 ^ 16

/-- The request of this device for the group of an address, with its first frame here (17_translation R403). -/
def collapseEv (s : State) (ctx va : Nat) : Ev :=
  let g := collapseBytes s ctx va
  let pa := match walk s ctx va with
    | .leaf e _ level _ => leafFrame e + va % pageSize level - va % g
    | .stop _ _ => 0
  .collapseRequest ctx (va / g * g) s.dev.deviceId pa

/-- A write that must split and collapse a read-duplicate page first. -/
def splits (a : Access) (t : Target) : Bool := a.w && t.dup.isSome

/-- Reason 8 of a write to a writable read-duplicate page: the pool has too few frames for its split (17_translation R403). -/
def splitFault (s : State) (ctx va : Nat) (a : Access) (t : Target) : Option (Nat × Nat) :=
  if splits a t && poolShort s ctx va then some (0x11, xinfo 8 (leafLevel s ctx va) a) else none

/-- The faults of an access beyond its translation, as (cause, detail): those of its word and the pool of the page service. -/
def pageFaults (s : State) (ctx va : Nat) (a : Access) (more : Target → List (Nat × Nat)) (f : Found) : List (Nat × Nat) :=
  (f.fault.map fun e => (e.cause, e.tinfo)).toList ++
    (match f.target with
      | some t => (splitFault s ctx va a t).toList ++ more t
      | none => [])

/-- One fibre's access through a page: a walk that must wait for an entry's line, the lowest code of its faults, a write to a writable
read-duplicate page, which stalls until its 64 KiB group has been granted, or the access (R43, R197, 12_ordered_sections R276, 17_translation R399, R403). -/
def reach (s : State) (w : Wave) (lane va : Nat) (a : Access) (more : Target → List (Nat × Nat)) (done : Target → Sub) : Try :=
  let f := findPage s (coreOf s w) (ctxOf s w) w.level a va
  if !pageOpen s (coreOf s w) (ctxOf s w) w.level va then .wait (.pageWalk (coreOf s w) (ctxOf s w) (va / 4096 * 4096))
  else
  match least Prod.fst (pageFaults s (ctxOf s w) va a more f), f.target with
  | some (c, i), _ => .fail { lane := lane, cause := c, addr := va, info := i }
  | none, some t => if splits a t then .wait (collapseEv s (ctxOf s w) va) else .fine (done t)
  | none, none => .fail { lane := lane, cause := 0x10, addr := va, info := xinfo 0 0 a }

/-- An access takes the data of its bytes: a load or an atomic, not a cache word (20_errors R438, 10_memory_instructions R225). -/
def Acc.takesData : Acc → Bool
  | .load _ => true
  | .atomic .. => true
  | _ => false

/-- One fibre's access of device, host or peer memory: alignment, translation, the checks of the word, poison, and the page
service for a read-duplicate page (R197). -/
def devTry (s : State) (w : Wave) (lane va n : Nat) (a : Access) (acc : Acc) (extra : Target → Option (Nat × Nat)) : Try :=
  if va % n != 0 then .fail { lane := lane, cause := 0x08, addr := va, info := 0 }
  else
    reach s w lane va a
      (fun t => (extra t).toList ++ (if acc.takesData then (poisonOf s (coreOf s w) t).map fun m => (0x40, m) else none).toList)
      (fun t => mkSub lane t va n acc)

/-- One fibre's access of an on-core space of `size` bytes: alignment, then the bound (R160, R161). -/
def coreTry (space : Space) (size cause lane off n : Nat) (acc : Acc) : Try :=
  if off % n != 0 then .fail { lane := lane, cause := 0x08, addr := off, info := 0 }
  else if size < off + n then .fail { lane := lane, cause := cause, addr := off, info := n }
  else .fine (mkSub lane { space := space, pa := off, key := none, dup := none, page := 0 } off n acc)

/-- The requests of an operation's accesses. -/
def requestsFor (k id n : Nat) : List Ev := (List.range n).map fun j => .homeSliceRequest k id j

end Sys2Proof.Machine
end

