-- ==== Sys2Proof/Machine/Flags.lean ====
section
/-! DEFINITION. The conditions of fstat and the flag computations of integer arithmetic (04_number_formats R69, R83,
05_vector_scalar R97). -/

namespace Sys2Proof.Machine

/-- A set of conditions, in the bit positions of fstat (R69). -/
abbrev Conds := BitVec 7

/-- No condition. -/
def Conds.none : Conds := 0

/-- fstat [0]: the delivered result differs from the exact result. -/
def inexact : Conds := 1

/-- fstat [1]: the result is tiny and inexact. -/
def underflow : Conds := 2

/-- fstat [2]: the rounded magnitude lies above the largest finite value. -/
def overflow : Conds := 4

/-- fstat [3]: a finite operand gives an exact infinite result. -/
def divZero : Conds := 8

/-- fstat [4]: a signalling NaN operand, or a result with no defined value. -/
def invalid : Conds := 16

/-- fstat [5]: integer division or remainder by zero. -/
def intDivZero : Conds := 32

/-- fstat [6]: an integer result clamped or without a representation. -/
def intOverflow : Conds := 64

/-- A condition raised when a test holds. -/
def raise (c : Conds) (b : Bool) : Conds := if b then c else 0

/-- An exact integer clamped to int32, with int-overflow when it was outside (R97). -/
def clampInt (x : Int) : Word × Conds :=
  if x < -(2 ^ 31) then (0x80000000, intOverflow)
  else if 2 ^ 31 ≤ x then (0x7FFFFFFF, intOverflow)
  else (BitVec.ofInt 32 x, 0)

/-- Signed division: quotient and condition, with the division boundary table (R83). -/
def sdivFlag (x y : Word) : Word × Conds :=
  if y = 0 then (if x.toInt < 0 then (0x80000000, intDivZero) else (0x7FFFFFFF, intDivZero))
  else if x = 0x80000000 ∧ y = 0xFFFFFFFF then (0x80000000, intOverflow)
  else (BitVec.ofInt 32 (x.toInt.tdiv y.toInt), 0)

/-- Unsigned division: quotient and condition (R83). -/
def udivFlag (x y : Word) : Word × Conds :=
  if y = 0 then (0xFFFFFFFF, intDivZero) else (BitVec.ofNat 32 (x.toNat / y.toNat), 0)

/-- Signed remainder and condition (R83). -/
def sremFlag (x y : Word) : Word × Conds :=
  if y = 0 then (x, intDivZero)
  else if x = 0x80000000 ∧ y = 0xFFFFFFFF then (0, intOverflow)
  else (BitVec.ofInt 32 (x.toInt.tmod y.toInt), 0)

/-- Unsigned remainder and condition (R83). -/
def uremFlag (x y : Word) : Word × Conds :=
  if y = 0 then (x, intDivZero) else (BitVec.ofNat 32 (x.toNat % y.toNat), 0)

end Sys2Proof.Machine
end

