-- ==== Sys2Proof/Machine/Operands.lean ====
section
/-! DEFINITION. The operand forms of Kwexel words: vector registers through the fibre's window, queue ports, register
pairs, uniform registers and predicates (02_encoding R28 to R31, R36, 08_memory_spaces R180 to R182). -/

namespace Sys2Proof.Machine

/-! ## Uniform registers and predicates -/

/-- A uniform register (R28). -/
def sreg (r : Wave) (n : Nat) : Word := r.sregs.get n 0

/-- A uniform pair `n:n+1`, low word first (R31). -/
def spair (r : Wave) (n : Nat) : DWord := (sreg r (n + 1)).zeroExtend 64 <<< 32 ||| (sreg r n).zeroExtend 64

/-- The wave with a uniform register written. -/
def setSreg (w : Wave) (n : Nat) (x : Word) : Wave := { w with sregs := w.sregs.store n x 0 }

/-- A predicate of a fibre: p7 reads true (R28). -/
def pred (f : Fibre) (p : PReg) : Bool := if p = 7 then true else f.preds.getLsbD p.toNat

/-- The predicates after a write: a write to p7 is ignored (R28). -/
def setPred (x : BitVec 7) (p : PReg) (b : Bool) : BitVec 7 :=
  if p = 7 then x else if b then x ||| ((1 : BitVec 7) <<< p.toNat) else x &&& ~~~((1 : BitVec 7) <<< p.toNat)

/-- The predicate word: bits 0 to 6 are p0 to p6 and bit 7 is 1 (05_vector_scalar R94). -/
def predWord (x : BitVec 7) : Word := x.zeroExtend 32 ||| 0x80

/-! ## Vector registers -/

/-- The entry of `vregs` that holds a physical register of a lane slot. -/
def physKey (lane r : Nat) : Nat := 4096 * lane + r

/-- A fibre's window holds register `v` (R29). -/
def inWindow (r : Wave) (f : Fibre) (v : Nat) : Bool := decide (v < r.n) && decide (f.base + v < r.p)

/-- An operation that no WAIT has covered yet writes this physical register (R36). The registers that a tile operation lists are those
that it reads (06_matrix R137). -/
def awaited (r : Wave) (key : Nat) : Bool := r.ops.any fun o => o.kind != .tile && o.dests.any fun d => physKey d.1 d.2 == key

/-- A physical register read: unpredictable before the WAIT that covers an operation which writes it (R36). A word in the same chain as
that WAIT reads the register as it was before the chain (R20), so its value is unpredictable too (DEDUCED, log 60). -/
def readPhys (s : State) (r : Wave) (lane reg : Nat) : Word :=
  if awaited r (physKey lane reg) then Config.freeWord s.tick (physKey lane reg) else r.vregs.get (physKey lane reg) 0

/-- Register `v` of a fibre (R29). -/
def vreg (s : State) (r : Wave) (lane : Nat) (f : Fibre) (v : Nat) : Word := readPhys s r lane (f.base + v)

/-- A 64-bit operand in `v:v+1` (R31). -/
def vpair (s : State) (r : Wave) (lane : Nat) (f : Fibre) (v : Nat) : DWord :=
  (vreg s r lane f (v + 1)).zeroExtend 64 <<< 32 ||| (vreg s r lane f v).zeroExtend 64

/-- A physical register written; an operation that writes it and that no WAIT has covered then leaves either value (R36). -/
def writePhys (w : Wave) (lane reg : Nat) (x : Word) : Wave :=
  { w with
    vregs := w.vregs.store (physKey lane reg) x 0
    ops := w.ops.map fun o => o.clobber [(lane, reg)] }

/-- Register `v` of a fibre written. -/
def setVreg (w : Wave) (lane : Nat) (f : Fibre) (v : Nat) (x : Word) : Wave := writePhys w lane (f.base + v) x

/-- Consecutive registers of a fibre written. -/
def setVregs (w : Wave) (lane : Nat) (f : Fibre) (v : Nat) : List Word → Wave
  | [] => w
  | x :: xs => setVregs (setVreg w lane f v x) lane f (v + 1) xs

/-- The fibres of a batch with their lane slots, in increasing lane slot. -/
def fibresOf (r : Wave) (lanes : List Nat) : List (Nat × Fibre) := r.fibres.filter fun p => lanes.contains p.1

/-! ## Tile operations meet the bytes of an access -/

/-- The place of a byte for the tile operations of 06_matrix R137; the mode of a page does not matter. -/
def samePlace : Space → Space → Bool
  | .dev _, .dev _ => true
  | a, b => a == b

/-- Two byte ranges of one place overlap. -/
def rangeMeets (sp : Space) (a n : Nat) (q : Space × Nat × Nat) : Bool :=
  samePlace sp q.1 && decide (a < q.2.1 + q.2.2) && decide (q.2.1 < a + n)

/-- A tile operation reads or writes bytes of an access that was issued after it (06_matrix R137). -/
def TileOp.touches (t : TileOp) (x : Sub) : Bool :=
  decide (t.stamp < x.stamp) && (t.reads.any (rangeMeets x.space x.pa x.n) || t.writes.any (rangeMeets x.space x.pa x.n))

/-- The blocks whose tile operations an access of a block's wave can meet: scratchpad offsets are those of its own block. -/
def inReach (blk : Nat) (x : Sub) (b : Nat) : Bool := b == blk || x.space != .spm

/-- A queued tile operation writes a byte that is loaded (06_matrix R137). -/
def tileWrites (s : State) (blk : Nat) (x : Sub) : Bool :=
  s.work.blocks.any fun b => inReach blk x b.1 && b.2.tiles.any fun t =>
    decide (t.stamp < x.stamp) && t.writes.any (rangeMeets x.space x.pa x.n)

/-- A store of bytes that a tile operation reads or writes makes its results unpredictable (06_matrix R137). -/
def TileOp.taint (x : Sub) (t : TileOp) : TileOp := if t.touches x then { t with tainted := true } else t

/-- The tile operations that read or write a byte that is stored to (06_matrix R137). -/
def taintTiles (s : State) (blk : Nat) (x : Sub) : State :=
  let f (p : Nat × Block) : Nat × Block :=
    if inReach blk x p.1 then (p.1, { p.2 with tiles := p.2.tiles.map (TileOp.taint x) }) else p
  { s with work := { s.work with blocks := s.work.blocks.map f } }

/-- The value that a load returns: free while a queued tile operation writes one of its bytes (06_matrix R137). -/
def loadedValue (s : State) (blk : Nat) (x : Sub) (v : Nat) : Nat :=
  if tileWrites s blk x then
    ((Config.freeWord s.tick x.lane).toNat + 2 ^ 32 * (Config.freeWord s.tick (64 + x.lane)).toNat) % 2 ^ (8 * x.n)
  else v

/-- The data of a store: bytes that a queued tile operation reads or writes become unpredictable (06_matrix R137). -/
def storedData (s : State) (blk : Nat) (x : Sub) (bs : List Byte) : List Byte :=
  if s.work.blocks.any fun b => inReach blk x b.1 && b.2.tiles.any fun t => t.touches x then
    (List.range bs.length).map fun i => Config.freeByte s.tick (256 * x.lane + i)
  else bs

/-- An access of local memory that is no word of a wave: by the host, a peer, a copy, or the commit sequencer. -/
def agentSub (s : State) (pa n : Nat) : Sub :=
  { mkSub 0 { space := .dev .u, pa := pa, key := none, dup := none, page := 0 } 0 n .clean with stamp := s.tick }

/-! ## Queue ports -/

/-- A source field names a load-queue port. -/
def isPort (v : Nat) : Bool := v == 124 || v == 125

/-- What naming the registers of a word does before anything is read: 0x04 outside the window, 0x05 for a port in the
wrong direction, the lower code first (R29, R30, R43). -/
def portCheck (r : Wave) (srcs dsts : List Nat) : Option Trap :=
  let lanes := batch r
  let fails := ((fibresOf r lanes).filter fun p => (srcs ++ dsts).any fun v => decide (v < 124) && !inWindow r p.2 v).map Prod.fst
  if !fails.isEmpty then some (mkTrap 0x04 fails 0 0)
  else if srcs.any (fun v => v == 126 || v == 127) || dsts.any isPort then some (mkTrap 0x05 lanes 0 0)
  else none

/-- The address of a stream's element for a lane slot (08_memory_spaces R178). -/
def elemAddr (base : BitVec 64) (lanestride : BitVec 16) (lane : Nat) : Nat :=
  (base + BitVec.ofNat 64 lane * lanestride.signExtend 64).toNat

/-- A core's S bytes of a line under the key of a translation. -/
def ownS (s : State) (core : Nat) (t : Target) (a : Nat) : Option L1Line :=
  (lineIn s.mem core (lineOf a) .s).filter fun l => l.key == t.key

/-- The value that the wave's core would read now at a translated address, in one event: of an S page its own line where that holds every
byte, else the home slice's bytes under its own dirty ones; of a D or U page the coherent bytes, after its own S copies of the lines have been
written through; of host or peer memory what stands there (08_memory_spaces R169 to R172, R208, 09_consistency R183). -/
def settledBytes (s : State) (core : Nat) (t : Target) (n : Nat) : List Byte :=
  let place := List.range n
  match t.space with
  | .dev .s =>
    let held (f : L1Line → BitVec 64) (i : Nat) : Option Byte :=
      ((ownS s core t (t.pa + i)).filter fun l => (f l).getLsbD ((t.pa + i) % 64)).map fun l => l.bytes.getD ((t.pa + i) % 64) 0
    let whole := place.all fun i => (held L1Line.valid i).isSome
    place.map fun i => (held (if whole then L1Line.valid else L1Line.dirty) i).getD (seenByte s.mem t.key (t.pa + i))
  | .dev _ => seenBytes ((linesOf t.pa n).foldl (fun m l => flushS m core l) s.mem) t.key t.pa n
  | .far d => farSeen s d t.pa n
  | _ => []

/-- That value; a read of a byte that a queued tile operation writes is unpredictable (06_matrix R137). -/
def coreBytes (s : State) (core : Nat) (t : Target) (n : Nat) : List Byte :=
  if tileWrites s 0 { mkSub 0 t 0 n (.load false) with stamp := s.tick } then (List.range n).map fun i => Config.freeByte s.tick (t.pa + i)
  else settledBytes s core t n

/-- Trap 0x15 of a peer access that was refused with reason 12 or 13 after its word had issued: it is taken at the wave's next packet boundary
(18_host_peers R412, R414). Which lanes tmask names is not stated (log 33). -/
def peerTrap (s : State) (ctx va : Nat) (write : Bool) (reason : Nat) : Trap :=
  { cause := 0x15, tmask := (Config.freeWord s.tick 1).zeroExtend 64 <<< 32 ||| (Config.freeWord s.tick 0).zeroExtend 64
    taddr := BitVec.ofNat 64 va
    tinfo := BitVec.ofNat 32 (xinfo reason (leafLevel s ctx va) (if write then Access.store else Access.load)), next := true, pops := [], addrTold := true, infoTold := BitVec.allOnes 32 }

/-- The command of a read of a peer that goes there at once, and trap 0x15 when the peer denies it (18_host_peers R414, R415). -/
def notePeerRead (s : State) (k : Nat) (w : Wave) (device pa va n : Nat) : State :=
  if device = 256 then s
  else
    let s1 := sendCmd s device (.access (remoteCtx s (ctxOf s w) device) pa (.read n))
    if peerDenies s device pa then report s1 k (peerTrap s (ctxOf s w) va false 13) else s1

/-- What a read by `coreBytes` leaves: its core's S copies of a D or U page are written through and dropped, the D copies of a U page are recalled,
and a read of a peer goes there as a command (08_memory_spaces R170, R208, 18_host_peers R415). -/
def noteRead (s : State) (k : Nat) (w : Wave) (t : Target) (va n : Nat) : State :=
  let flushed := (linesOf t.pa n).foldl (fun m l => flushS m (coreOf s w) l) s.mem
  match t.space with
  | .dev .s => s
  | .dev .d => { s with mem := flushed }
  | .dev .u => { s with mem := (linesOf t.pa n).foldl recallLine flushed }
  | .far d => notePeerRead s k w d t.pa va n
  | _ => s

/-- The wave with the level that it started at, which is its streams' own: a handler's level is not (08_memory_spaces R179, 17_translation
R386, log 57). -/
def atOwnLevel (w : Wave) : Wave := if w.inHandler then { w with level := w.intLevel } else w

/-- The word of an element that a lane slot would load now, or its failure (08_memory_spaces R178 to R180). -/
def fetchLane (s : State) (w : Wave) (base : BitVec 64) (lanestride : BitVec 16) (l : Nat) : Except LaneFail (Nat × Word) :=
  let va := elemAddr base lanestride l
  if va % 4 != 0 then .error { lane := l, cause := 0x08, addr := va, info := 0 }
  else
    match translate s (coreOf s w) (ctxOf s w) (atOwnLevel w).level Access.load va with
    | .error e => .error { lane := l, cause := e.cause, addr := va, info := e.tinfo }
    | .ok t =>
      match poisonOf s (coreOf s w) t with
      | some m => .error { lane := l, cause := 0x40, addr := va, info := m }
      | none => .ok (l, BitVec.ofNat 32 (leNat (coreBytes s (coreOf s w) t 4)))

/-- An element fetched for lane slots: the words that can be read, and the failures (R181). -/
def fetchElem (s : State) (w : Wave) (base : BitVec 64) (lanestride : BitVec 16) (lanes : List Nat) : Map Word × List LaneFail :=
  let rs := lanes.map (fetchLane s w base lanestride)
  (rs.filterMap fun r => match r with
      | .ok v => some v
      | .error _ => none,
    rs.filterMap fun r => match r with
      | .error f => some f
      | .ok _ => none)

/-- The stores issued before the stream's QLD have been performed, with the cache words before it, and no acquire of the wave is still to be
performed (R180, 10_memory_instructions R223, R225). -/
def fetchOrdered (w : Wave) (x : Stream) : Bool :=
  w.ops.all fun o => o.performed || !(((o.stores || o.kind == .cache) && decide (o.id < x.since)) || o.acquires)

/-- The lane slots of an element lie where they can be read now (R180, 12_ordered_sections R276, 18_host_peers R416). -/
def elemOpen (s : State) (w : Wave) (e : StreamElem) (lanes : List Nat) : Bool :=
  lanes.all fun l =>
    let va := elemAddr e.addr e.lane l
    pageOpen s (coreOf s w) (ctxOf s w) (atOwnLevel w).level va &&
      match translate s (coreOf s w) (ctxOf s w) (atOwnLevel w).level Access.load va with
      | .ok t => t.open s 4
      | .error _ => true

/-- What the fetch of an element leaves (R180, 18_host_peers R414, R415). -/
def noteElem (s : State) (k : Nat) (w : Wave) (e : StreamElem) (lanes : List Nat) : State :=
  lanes.foldl (fun s l =>
    let va := elemAddr e.addr e.lane l
    match translate s (coreOf s w) (ctxOf s w) (atOwnLevel w).level Access.load va with
    | .ok t => if va % 4 = 0 then noteRead s k w t va 4 else s
    | .error _ => s) s

/-- What a pop of a load queue gives: the value of each lane slot and the stream after it, the failures of a fault marker with the values
of the other lane slots, or nothing yet. -/
inductive Pop
  | value (x : Map Word) (st : Stream)
  | fault (fs : List LaneFail) (x : Map Word)
  | wait

/-- A pop of load queue `q` by a batch of a wave (08_memory_spaces R180, R181). A fetch under way is no element held yet: the pop waits for it
only while the stream is active with a count above zero. A fault marker whose fault has been taken before is fetched again at this attempt, in
the order of a fetch. A pop of a held element leaves a count of 0, which a CSRW can set, at 0 (the manual says only that a pop decrements it;
DESIGN CHOICE, log 95). -/
def popQueue (s : State) (r : Wave) (q : Nat) : Pop :=
  let x := streamOf r q
  let empty : Pop := if x.active && x.count != 0 then .wait else .value [] { x with underrun := true }
  match x.held with
  | [] => empty
  | e :: es =>
    let got := if e.taken then fetchElem s r e.addr e.lane (batch r) else (e.values, e.faults.filter fun f => (batch r).contains f.lane)
    if !e.landed then empty
    else if e.taken && !(fetchOrdered r x && elemOpen s r e (batch r)) then .wait
    else if got.2.isEmpty then .value got.1 { x with held := es, count := if x.count = 0 then 0 else x.count - 1 }
    else .fault got.2 got.1

/-- The wave after a pop: the stream as the pop leaves it, unless an earlier word of the chain has written the stream, whose write then
stands (R20; the order of the two is DESIGN CHOICE, log 58). -/
def afterPop (r w : Wave) (q : Nat) (x : Stream) : Wave := if streamOf w q = streamOf r q then setStream w q x else w

/-- The trap of the fault markers that a word would pop: the lowest code, with the queues that hold it (R43, 08_memory_spaces R181). -/
def popTrap (s : State) (r : Wave) (qs : List Nat) : Option Trap :=
  let failed (q : Nat) : List LaneFail := match popQueue s r q with
    | .fault fs _ => fs
    | _ => []
  (mergeFails (qs.flatMap failed)).map fun t => { t with pops := qs.filter fun q => (failed q).any fun f => f.cause == t.cause }

/-- The pops of the load-queue ports that a word names, each port once, from the streams as they stood before its chain (R20, R30). -/
def popPorts (s : State) (r w : Wave) : List Nat → Except (Option Trap) (Map (Map Word) × Wave)
  | [] => .ok ([], w)
  | q :: qs =>
    match popQueue s r q with
    | .wait => .error none
    | .fault _ _ => .error (popTrap s r (q :: qs))
    | .value v x =>
      match popPorts s r (afterPop r w q x) qs with
      | .ok (vs, w2) => .ok ((q, v) :: vs, w2)
      | .error e => .error e

/-- The values that lane slots would pop of the ports of a word, and for each port the lane slots whose element is a fault marker. -/
def portsSeen (s : State) (r : Wave) (qs : List Nat) : Map (Map Word) × Map (List Nat) :=
  (qs.map fun q => (q, match popQueue s r q with
      | .value v _ => v
      | .fault _ v => v
      | .wait => []),
    qs.map fun q => (q, match popQueue s r q with
      | .fault fs _ => fs.map LaneFail.lane
      | _ => []))

/-- The load queues named by the source fields of a word. -/
def portsOf (srcs : List Nat) : List Nat :=
  (if srcs.contains 124 then [0] else []) ++ (if srcs.contains 125 then [1] else [])

/-- The value of a source field: a register of the window, or the element popped for the fibre's lane slot. -/
def srcVal (s : State) (r : Wave) (vals : Map (Map Word)) (lane : Nat) (f : Fibre) (v : Nat) : Word :=
  if isPort v then (vals.get (v - 124) []).get lane 0 else vreg s r lane f v

/-- A push of one element for every fibre of a batch to store queue `q` (2 or 3) of the stream that the word reads: discarded with overrun
when the stream has ended, held back behind 8 undrained pushes, checked, then entered in the store queue (R20, 08_memory_spaces R179,
R182). -/
def pushQueue (s : State) (k : Nat) (r w : Wave) (q : Nat) (vals : List (Nat × Word)) : Res :=
  let x := streamOf r q
  if !x.active || x.count = 0 then .ok (s.setWave k (afterPop r w q { x with overrun := true }))
  else if 8 ≤ x.pushes then .hold
  else
    let ts := vals.map fun p =>
      devTry s (atOwnLevel r) p.1 (elemAddr x.base x.lanestride p.1) 4 Access.store (.store (p.2.zeroExtend 64)) fun _ => none
    match mergeFails (ts.filterMap Try.failure), (ts.filterMap Try.waiting).eraseDups with
    | some t, _ => .trap t
    | none, [] =>
      let w1 := mapStream (afterPop r w q { x with base := x.base + x.step.signExtend 64, count := x.count - 1 }) q fun y =>
        { y with pushes := y.pushes + 1 }
      .ok ((s.setWave k (addOp w1 s.tick none (.push q) none none (ts.filterMap Try.access) [])).posts
        (requestsFor k w.nextOp ts.length ++ [.queueStreamDrain k w.nextOp]))
    | none, es => .stall es

/-! ## Words that compute in each fibre of the batch -/

/-- A fibre of the batch with its source values, in the order of the source fields. -/
structure LaneIn where
  lane : Nat
  fibre : Fibre
  vals : List Word

/-- What a word gives a fibre: destination registers from vD upward, its predicates, and the conditions it raises. -/
structure LaneOut where
  regs : List Word
  preds : List (PReg × Bool)
  conds : Conds

/-- A result of one register without a condition. -/
def LaneIn.reg (_ : LaneIn) (x : Word) : LaneOut := { regs := [x], preds := [], conds := 0 }

/-- A result of one register with conditions. -/
def LaneIn.flag (_ : LaneIn) (x : Word × Conds) : LaneOut := { regs := [x.1], preds := [], conds := x.2 }

/-- A predicate result with conditions. -/
def LaneIn.pred (_ : LaneIn) (p : PReg) (b : Bool) (c : Conds) : LaneOut :=
  { regs := [], preds := [(p, b)], conds := c }

/-- Source value `j` of a fibre. -/
def LaneIn.arg (i : LaneIn) (j : Nat) : Word := nth i.vals j

/-- The results of a word written in the fibres of the batch: registers of the window and predicates. A result whose
destination is a store-queue port is pushed instead. -/
def writeLanes (w : Wave) (d : Nat) (outs : List (LaneIn × LaneOut)) : Wave :=
  outs.foldl (fun w o =>
    let w1 := if d < 124 then setVregs w o.1.lane o.1.fibre d o.2.regs else w
    if o.2.preds.isEmpty then w1
    else w1.mapFibre o.1.lane fun f => { f with preds := o.2.preds.foldl (fun x p => setPred x p.1 p.2) f.preds }) w

/-- The fibres of the batch with the values of the source fields. -/
def laneIns (s : State) (r : Wave) (vals : Map (Map Word)) (srcs : List Nat) : List LaneIn :=
  (fibresOf r (batch r)).map fun p => { lane := p.1, fibre := p.2, vals := srcs.map fun v => srcVal s r vals p.1 p.2 v }

/-- A word whose pop meets a fault marker also meets the trap conditions and the floating-point conditions of the word itself: those of the fibres
for which its first `n` source fields have a value. So a condition enabled in ftrap gives 0x28 before a marker's higher code, which the manual
leaves open (R43, 04_number_formats R70, 08_memory_spaces R181; DESIGN CHOICE, log 99). -/
def markerTrap (s : State) (k : Nat) (r w : Wave) (srcs : List Nat) (n : Nat) (t : Trap) (f : Nat → Wave → Wave → List LaneIn → Res) : Trap :=
  let seen := portsSeen s r (portsOf srcs)
  let known := (laneIns s r seen.1 srcs).filter fun x => (srcs.take n).all fun v => !(isPort v && (seen.2.get (v - 124) []).contains x.lane)
  match f k r w known with
  | .trap u => { (pickTrap [t, u]).getD t with conds := u.conds }
  | .ok s1 => { t with conds := s1.issue.conds.drop s.issue.conds.length }
  | .stall _ => t

/-- A word that reads vector register fields in each fibre of its batch, after `chk` has passed: its load-queue ports are popped
once each, and `f` gets the issuing wave, the wave read, the wave written and the fibres with their values (R30, R85). The first `n`
source fields are those that the word's own checks need. -/
def readWordFrom (s : State) (chk : Wave → Option Trap) (srcs : List Nat) (n : Nat) (f : Nat → Wave → Wave → List LaneIn → Res) :
    Host.Outcome State Fault Refusal :=
  runWord s fun k r w =>
    match chk r with
    | some t => .trap t
    | none =>
      match popPorts s r w (portsOf srcs) with
      | .error none => .hold
      | .error (some t) => .trap (markerTrap s k r w srcs n t f)
      | .ok (vals, w1) => f k r w1 (laneIns s r vals srcs)

/-- A word that reads vector register fields, all of which its checks need. -/
def readWord (s : State) (chk : Wave → Option Trap) (srcs : List Nat) (f : Nat → Wave → Wave → List LaneIn → Res) :
    Host.Outcome State Fault Refusal := readWordFrom s chk srcs srcs.length f

/-- A word of the V pipe, the special-function unit or the cross-lane network, after its register fields have passed `chk`: it
computes in each fibre of the batch (for a cross-lane word, from all fibres of the batch) and writes its destination only in
those fibres (R85). `d` is the first destination, 124 or above for a port and `none` for no register. `g` also sees the wave
that the word reads. -/
def vecRun (s : State) (chk : Wave → Option Trap) (srcs : List Nat) (d : Option Nat)
    (g : Wave → List LaneIn → LaneIn → LaneOut) : Host.Outcome State Fault Refusal :=
  readWord s chk srcs fun k r w1 ins =>
    let outs := ins.map fun i => (i, g r ins i)
    let conds := (outs.filter fun o => o.2.conds != 0).map fun o => (o.1.lane, o.2.conds)
    let w2 := writeLanes w1 (d.getD 0) (if d = none then outs.map fun o => (o.1, { o.2 with regs := [] }) else outs)
    let s1 := { s with issue := { s.issue with conds := s.issue.conds ++ conds } }
    match d with
    | some 126 => pushQueue s1 k r w2 2 (outs.map fun o => (o.1.lane, nth o.2.regs 0))
    | some 127 => pushQueue s1 k r w2 3 (outs.map fun o => (o.1.lane, nth o.2.regs 0))
    | _ => .ok (s1.setWave k w2)

/-- A word with source fields `srcs` and destination fields `dsts`, each a register or a queue port. -/
def vecWord (s : State) (srcs dsts : List Nat) (d : Option Nat) (g : Wave → List LaneIn → LaneIn → LaneOut) :
    Host.Outcome State Fault Refusal :=
  vecRun s (fun r => portCheck r srcs dsts) srcs d g

/-- The register checks of a word that writes `n` registers from `d` on: a run that reaches v124 gives 0x04 (R31). -/
def wideCheck (r : Wave) (srcs : List Nat) (d n : Nat) : Option Trap :=
  if 124 < d + n then some (mkTrap 0x04 (batch r) 0 0) else portCheck r srcs ((List.range n).map (d + ·))

/-- A word that writes a run of `n` registers from `d` on. -/
def wideWord (s : State) (srcs : List Nat) (d n : Nat) (g : Wave → List LaneIn → LaneIn → LaneOut) :
    Host.Outcome State Fault Refusal :=
  vecRun s (fun r => wideCheck r srcs d n) srcs (some d) g

/-- A word with register sources and one register destination, computed fibre by fibre. -/
def laneWord (s : State) (srcs : List VReg) (d : VReg) (g : LaneIn → LaneOut) : Host.Outcome State Fault Refusal :=
  vecWord s (srcs.map BitVec.toNat) [d.toNat] (some d.toNat) fun _ _ i => g i

/-- A word that reads its destination too: vD is the last source, and must be a register of the window (R30). -/
def laneAcc (s : State) (srcs : List VReg) (d : VReg) (g : LaneIn → LaneOut) : Host.Outcome State Fault Refusal :=
  vecWord s (srcs.map BitVec.toNat ++ [d.toNat]) [d.toNat] (some d.toNat) fun _ _ i => g i

/-- A word that packs into its destination: it reads vD too. One whose D is a store-queue port pushes its value, as 04_number_formats R82 says of
every PK form; what it takes as the old vD there is not stated, and is a free value (DESIGN CHOICE, log 59). -/
def lanePack (s : State) (srcs : List VReg) (d : VReg) (g : LaneIn → Word → LaneOut) : Host.Outcome State Fault Refusal :=
  if d.toNat = 126 ∨ d.toNat = 127 then laneWord s srcs d fun i => g i (Config.freeWord s.tick (2 ^ 41 + i.lane))
  else laneAcc s srcs d fun i => g i (i.arg srcs.length)

/-- A word with register sources that writes predicates only. -/
def lanePred (s : State) (srcs : List VReg) (g : LaneIn → LaneOut) : Host.Outcome State Fault Refusal :=
  vecWord s (srcs.map BitVec.toNat) [] none fun _ _ i => g i

/-! ## Words that compute once -/

/-- A word of the S pipe that computes once and changes only its wave (R86). -/
def uniWord (s : State) (f : Wave → Wave → Wave) : Host.Outcome State Fault Refusal :=
  runWord s fun k r w => .ok (s.setWave k (f r w))

end Sys2Proof.Machine
end

