-- ==== Sys2Proof/Machine/Fresh.lean ====
section
/-! DEFINITION. Fibres, waves and blocks at their start, and the wave slots of a core (15_execution_model R325, R326, R350,
16_scheduling R369). -/

namespace Sys2Proof.Machine

/-- A fibre at the entry packet (15_execution_model R325, R326). -/
def freshFibre (uid entry : Nat) : Fibre :=
  { uid := uid, pc := { packet := entry, slot := 0 }, preds := 0, base := 0, padding := false, spawned := false,
    fragment := false, frag := none, window := [], slots := List.replicate 4 Sect.none, park := none, shadow := none }

/-- A wave at its start (02_encoding R32, 15_execution_model R325, 19_traps R428). -/
def freshWave (blk num : Nat) (cfg : Word) (level : Level) (base : DWord) (consts : List Word) (fibres : Map Fibre) : Wave :=
  { blk := blk, num := num, cfg := cfg, level := level, codeBase := base, fibres := fibres, vregs := [],
    sregs := ((List.range consts.length).zip consts).filter fun p => p.2 != 0
    fstat := 0, ftrap := 0, tcause := 0, tpc := 0, tmask := 0, taddr := 0, tinfo := 0,
    loops := List.replicate 4 LoopEntry.none, rep := { remaining := 0, active := false, steps := 0, stride := 0 },
    repAt := none, inHandler := false, superHandler := false, savedBit := false, preemptPending := false, step := false,
    intLevel := level, intBase := base, handlerCause := 0, ubank := List.replicate 8 0,
    streams := List.replicate 4 Stream.idle, ops := [], nextOp := 0, nextMsg := 0, due := [], collNext := 0,
    issued := false, firstPacket := true }

/-- A wave that takes the place of an earlier one of its block numbers its operations and messages on from the tick of its start, so that nothing under
way that names one of the earlier wave's is taken for one of its own. -/
def Wave.numbered (w : Wave) (tick : Nat) : Wave := { w with nextOp := 64 * tick, nextMsg := 64 * tick }

/-- A block as it is placed (15_execution_model R350). -/
def freshBlock (launch idx ctx stack core gen quality size : Nat) (place : Place) : Block :=
  { launch := launch, idx := idx, ctx := ctx, stack := stack, core := core, gen := BitVec.ofNat 16 gen, quality := quality,
    status := .running, size := size, spm := [], slabs := [], cbufs := List.replicate 16 Cbuf.empty, tiles := [],
    nextTile := 0, sel := none, pools := [], filled := 0, parkStart := none, preempt := false, liveAtPreempt := [],
    savedWaves := [], heldMsgs := [], holdsSections := false, place := place, wakes := [], savedUids := [], queuedAt := 0, stopper := false, tris := [] }

/-- The issue order of a core with nothing on it. -/
def CoreSched.empty : CoreSched := { active := [], pending := [], lastForced := 0 }

/-- A wave that starts takes a free active place, or joins the pending set (16_scheduling R369). Places are held with the cycle
since which they are held. -/
def joinCore (s : State) (core k : Nat) : State :=
  let c := s.work.cores.get core CoreSched.empty
  let c1 : CoreSched :=
    if c.active.length < 8 then { c with active := c.active ++ [(k, s.dev.cycles, s.dev.cycles)] }
    else { c with pending := c.pending ++ [(k, none)] }
  { s with work := { s.work with cores := s.work.cores.put core c1 } }

end Sys2Proof.Machine
end

