-- ==== Sys2Proof/Machine/Boot.lean ====
section
/-! DEFINITION. A machine with one launch running, which stands for the load of a program from outside: boot stage 3, context
0 with an identity 1 GiB page, one launch of one block with one wave of sixteen fibres, and code at the code base
(log 23). -/

namespace Sys2Proof.Machine

/-- The code base of the loaded program. -/
def bootCode : Nat := 0x20000

/-- The launch record of the loaded program (16_scheduling R358). -/
def bootRecord : List Word :=
  [0x20000, 0, 0, BitVec.ofNat 32 (124 * 4 + 512 * 512), 1, 1, 1, 0x10000, 2048 + 32 * 4096 + 16 * 262144, 0x40 , 0, 0,
    0x00C00000, 0, 0, 0, 0, 0, 1, 0, 0xFFFFFFFF, 0xFFFFFFFF, 0xFFFFFFFF, 0xFFFFFFFF, 0, 0, 0, 0] ++ List.replicate 36 0

/-- Context 0 of the loaded program. -/
def bootCtx : Ctx :=
  { cfg :=
      { root := 0x10000, steFrame := 0x40000, wpBase := 0x100000, wpK := 16, bkK := 12, bkQuota := 1024, bkBase := 0x300000,
        bkSpill := 0, evBase := 0x80000, evK := 4, notifyCollapse := false, notifyMigration := false, coreQuota := 512,
        prioCap := 3, lqTable := 0x90000, peerTable := 0, poolBase := 0, poolFrames := 0 }
    stopped := false, shbase := 0x20000, shpacket := 2, stes := [], devQueue := [], producers := [], superQs := [], poolUsed := 0 }

/-- The page table of the loaded program: entry 0 of level 0, and an identity leaf of 1 GiB (17_translation R395). -/
def bootTables (m : List Host.Cell) : List Host.Cell :=
  Memory.writes (Memory.writes m 0x10000 (leBytes (1 + 0x11 * 2 ^ 21) 8)) 0x11000 (leBytes 0x81F 8)

/-- The machine with a program of one packet loaded and its wave about to issue. -/
def bootState (s : State) (word : Nat) : State :=
  { s with
    dev := { s.dev with bootStage := 3 }
    ctxs := s.ctxs.put 0 bootCtx
    mem := { s.mem with mem := Memory.writes (bootTables s.mem.mem) bootCode (leBytes word 4 ++ List.replicate 8 0) }
    work := { s.work with
      launches := s.work.launches.put 0
        { ctx := 0, level := .supervisor, queue := none, tag := 0, recVa := 0x50000, record := bootRecord, groups := [],
          consts := [], next := 1, early := [], done := 0, level0 := 0, frame0 := 0, accepted := 0, batch := none, waiting := none,
          stopper := false }
      blocks := s.work.blocks.put 0 (freshBlock 0 0 0 0 0 0 0 0x10000 { slots := [0], spm := 0, slab := 0 })
      waves := s.work.waves.put 0
        (freshWave 0 0 (nth bootRecord 3) .supervisor 0x20000 [] ((List.range 16).map fun l => (l, freshFibre l 0)))
      cores := s.work.cores.put 0 { active := [(0, 0, 0)], pending := [], lastForced := 0 }
      queue := []
      nextLaunch := s.work.nextLaunch + 1, nextBlock := s.work.nextBlock + 1, nextUid := s.work.nextUid + 16 }
    pending := []
    issue := Issue.idle
    turn := some (.wave 0) }

end Sys2Proof.Machine
end

