-- ==== Sys2Proof/WellFormed.lean ====
section
/-! DEFINITION. The limits that the manual puts on the fields of an instruction word, checked from the fields alone
(R27, R31, R43, R46). A word that breaks one is no instruction: it raises trap 0x01. -/

namespace Sys2Proof

/-- Elements that an UNPK word widens, by source type (R81). -/
def UnpkTy.count : UnpkTy → Nat
  | .f16 => 1
  | .bf16 => 1
  | .e4m3 => 2
  | .e5m2 => 2
  | .e2m1 => 4

/-- An integer type of CVT (R64). -/
def NumTy.isInt : NumTy → Bool
  | .i32 => true
  | .n32 => true
  | .i16 => true
  | .n16 => true
  | .i8 => true
  | .n8 => true
  | .f32 => false
  | .f16 => false
  | .bf16 => false
  | .e4m3 => false
  | .e5m2 => false
  | .e2m1 => false
  | .sp8 => false
  | .e8m0 => false

/-- The pairs (source, destination) that CVT converts (R74). -/
def NumTy.pair (st dt : NumTy) : Bool :=
  match st with
  | .f32 => dt != .f32
  | .f16 => dt == .f32 || dt == .e4m3 || dt == .e5m2 || dt == .e2m1 || dt == .sp8
  | .bf16 => dt == .f32 || dt == .e4m3 || dt == .e5m2 || dt == .e2m1 || dt == .sp8
  | .e4m3 => dt == .f32
  | .e5m2 => dt == .f32
  | .e2m1 => dt == .f32
  | .sp8 => dt == .f32
  | .e8m0 => dt == .f32
  | .i32 => dt == .f32 || dt == .i16 || dt == .n16 || dt == .i8 || dt == .n8
  | .n32 => dt == .f32 || dt == .i16 || dt == .n16 || dt == .i8 || dt == .n8
  | .i16 => dt == .f32
  | .n16 => dt == .f32
  | .i8 => dt == .f32
  | .n8 => dt == .f32

/-- The pairs that take no rounding mode: those marked exact, and integer to integer (R74, R75). -/
def NumTy.exact (st dt : NumTy) : Bool :=
  (dt == .f32 && st != .i32 && st != .n32) || (st.isInt && dt.isInt)

/-- Width and register limits of an atomic word (R207). -/
def atomFields (d : VReg) (w : AWidth) (o : AtomOp) : Bool :=
  (w == .w32 || (d.toNat % 2 == 0 && o != .fadd && o != .hadd2 && o != .badd2 && o != .incw && o != .decw)) &&
    (o != .cas || (if w == .w32 then d.toNat % 2 == 0 else d.toNat % 4 == 0))

/-- Every limit of a word's fields holds. A step of the device is no word. -/
def Instr.wf : Instr → Bool
  | .nop => true
  | .halt => true
  | .exit => true
  | .yield => true
  | .conv => true
  | .tret => true
  | .brk => true
  | .bra _ => true
  | .br _ _ _ => true
  | .brall _ _ _ => true
  | .brany _ _ _ => true
  | .jmps _ => true
  | .jmpv _ => true
  | .call _ _ _ => true
  | .callv _ _ _ => true
  | .ret _ => true
  | .loopi _ e => e != 0
  | .loops _ e => e != 0
  | .lbrk => true
  | .rep _ _ _ _ _ => true
  | .wait _ _ _ _ => true
  | .trap _ => true
  | .spawn _ _ _ => true
  | .spawnp _ _ _ => true
  | .regroup _ _ => true
  | .flushrg => true
  | .fibrd _ i => i.toNat ≤ 15
  | .fibwr _ i => i.toNat ≤ 1
  | .sadd _ _ _ => true
  | .ssub _ _ _ => true
  | .smul _ _ _ => true
  | .smulh _ _ _ => true
  | .sand _ _ _ => true
  | .sor _ _ _ => true
  | .sxor _ _ _ => true
  | .sshl _ _ _ => true
  | .sshr _ _ _ => true
  | .ssra _ _ _ => true
  | .smin _ _ _ => true
  | .smax _ _ _ => true
  | .sminu _ _ _ => true
  | .smaxu _ _ _ => true
  | .smov _ _ => true
  | .saddi _ _ _ => true
  | .sandi _ _ _ => true
  | .sori _ _ _ => true
  | .sxori _ _ _ => true
  | .sshli _ _ _ => true
  | .sshri _ _ _ => true
  | .ssrai _ _ _ => true
  | .sbyte _ _ _ => true
  | .scmp _ _ _ _ => true
  | .csrr _ _ => true
  | .csrw _ _ => true
  | .spr _ i => i.toNat ≤ 4
  | .rdlane _ _ _ => true
  | .movs _ _ => true
  | .iadd _ _ _ => true
  | .isub _ _ _ => true
  | .imul _ _ _ => true
  | .imulh _ _ _ => true
  | .imulhu _ _ _ => true
  | .iand _ _ _ => true
  | .ior _ _ _ => true
  | .ixor _ _ _ => true
  | .andn _ _ _ => true
  | .shl _ _ _ => true
  | .shr _ _ _ => true
  | .sra _ _ _ => true
  | .imin _ _ _ => true
  | .imax _ _ _ => true
  | .iminu _ _ _ => true
  | .imaxu _ _ _ => true
  | .iaddi _ _ _ => true
  | .andi _ _ _ => true
  | .ori _ _ _ => true
  | .xori _ _ _ => true
  | .shli _ _ _ => true
  | .shri _ _ _ => true
  | .srai _ _ _ => true
  | .movi _ _ => true
  | .iabs _ _ => true
  | .ineg _ _ => true
  | .inot _ _ => true
  | .popc _ _ => true
  | .clz _ _ => true
  | .brev _ _ => true
  | .bfe _ _ _ => true
  | .bfeu _ _ _ => true
  | .bfi _ _ _ => true
  | .imad _ _ _ => true
  | .idiv _ _ _ => true
  | .idivu _ _ _ => true
  | .irem _ _ _ => true
  | .iremu _ _ _ => true
  | .iadds _ _ _ => true
  | .isubs _ _ _ => true
  | .icmp _ _ _ _ => true
  | .fadd _ _ _ _ => true
  | .fsub _ _ _ _ => true
  | .fmul _ _ _ _ => true
  | .ffma _ _ _ _ => true
  | .fmin _ _ _ => true
  | .fmax _ _ _ => true
  | .fminm _ _ _ => true
  | .fmaxm _ _ _ => true
  | .fcpys _ _ _ => true
  | .fscale _ _ _ => true
  | .fabs _ _ => true
  | .fneg _ _ => true
  | .fclass _ _ => true
  | .frnd _ _ _ _ => true
  | .fsat _ _ => true
  | .fgete _ _ => true
  | .fgetm _ _ => true
  | .fcmp _ _ _ _ => true
  | .hadd2 _ _ _ _ => true
  | .hsub2 _ _ _ _ => true
  | .hmul2 _ _ _ _ => true
  | .hfma2 _ _ _ _ => true
  | .hmin2 _ _ _ _ => true
  | .hmax2 _ _ _ _ => true
  | .dot2h _ _ _ => true
  | .dot2b _ _ _ => true
  | .dot4e4 _ _ _ => true
  | .dot4e5 _ _ _ => true
  | .dot4i _ _ _ => true
  | .dot4in _ _ _ => true
  | .dot8f _ _ _ => true
  | .dot4s _ _ _ => true
  | .cvt _ _ e f r s => NumTy.pair f e && (!(NumTy.exact f e) || r == .rne) && !(s && e == .f32)
  | .rcp _ _ => true
  | .rsq _ _ => true
  | .sqrt _ _ => true
  | .exp2 _ _ => true
  | .log2 _ _ => true
  | .sin _ _ => true
  | .cos _ _ => true
  | .tanh _ _ => true
  | .shfli _ _ _ => true
  | .shflu _ _ _ => true
  | .shfld _ _ _ => true
  | .shflx _ _ _ => true
  | .bcast _ _ _ => true
  | .voteany _ _ => true
  | .voteall _ _ => true
  | .ballot d _ => d.toNat % 2 == 0
  | .matchv d _ => d.toNat % 2 == 0
  | .wredadd _ _ => true
  | .wredfadd _ _ => true
  | .wredmin _ _ => true
  | .wredmax _ _ => true
  | .wredfmax _ _ => true
  | .wscan _ _ => true
  | .pand _ _ _ => true
  | .por _ _ _ => true
  | .pxor _ _ _ => true
  | .pandn _ _ _ => true
  | .pnot _ _ => true
  | .prdw _ => true
  | .pwrw _ => true
  | .pk2h _ _ _ _ => true
  | .pk2b _ _ _ _ => true
  | .pk4e4 _ _ _ _ => true
  | .pk4e5 _ _ _ _ => true
  | .pk8f _ _ _ _ => true
  | .unpklo d _ t => d.toNat % t.count == 0
  | .unpkhi d _ t => d.toNat % t.count == 0
  | .sel _ _ _ _ => true
  | .ld d _ _ w q g x _ => (w != .w64 || d.toNat % 2 == 0) && (q || g == .blk) && (!x || w == .w8 || w == .w16)
  | .st d _ _ w q g _ => (w != .w64 || d.toNat % 2 == 0) && (q || g == .blk)
  | .lds d _ _ w x => (w != .w64 || d.toNat % 2 == 0) && (!x || w == .w8 || w == .w16)
  | .sts d _ _ w => w != .w64 || d.toNat % 2 == 0
  | .ldp d _ _ w x => (w != .w64 || d.toNat % 2 == 0) && (!x || w == .w8 || w == .w16)
  | .stp d _ _ w => w != .w64 || d.toNat % 2 == 0
  | .rld _ _ _ _ => true
  | .rst _ _ _ _ => true
  | .mcst _ _ _ => true
  | .atom d _ _ w o _ => atomFields d w o
  | .atoms d _ _ w o _ => atomFields d w o && o != .incw && o != .decw
  | .mcas _ _ _ => true
  | .fence _ _ => true
  | .pref _ _ _ => true
  | .clean _ _ => true
  | .invs _ _ => true
  | .qld _ q => q.toNat ≤ 1
  | .qst _ q => 2 ≤ q.toNat
  | .qstop _ => true
  | .qstat _ _ => true
  | .cpy a _ => a.toNat % 8 == 0
  | .cpyt a _ => a.toNat % 8 == 0
  | .cpyg a _ _ => a.toNat % 8 == 0
  | .cpyp a _ => a.toNat % 8 == 0
  | .cpym a _ => a.toNat % 8 == 0
  | .cpys a _ => a.toNat % 8 == 0
  | .cpyb a _ => a.toNat % 8 == 0
  | .cbcfg a _ => a.toNat % 2 == 0
  | .cbcom _ => true
  | .cbrel _ => true
  | .cbqry _ _ => true
  | .binit g a _ => !g || a.toNat % 2 == 0
  | .barv g a => !g || a.toNat % 2 == 0
  | .bexp g a _ => !g || a.toNat % 2 == 0
  | .bwait g a _ => !g || a.toNat % 2 == 0
  | .btest g _ a _ => !g || a.toNat % 2 == 0
  | .oent d _ _ => d.toNat < 124
  | .oleave _ => true
  | .oskip _ _ => true
  | .oqry d _ => d.toNat < 124
  | .mma _ _ _ f t m _ _ => !m || (!t && f != .f16 && f != .bf16 && f != .i8)
  | .mmac _ _ q _ f _ _ _ _ => if f == .e4m3 then q.toNat == 0 else q.toNat ≤ 2
  | .zclr _ _ => true
  | .zld _ _ _ => true
  | .zst _ _ _ => true
  | .zdrain _ _ a _ _ => a.toNat % 4 == 0
  | .opfence => true
  | .episel a => a.toNat % 2 == 0
  | .prim a => a.toNat % 2 == 0
  | .fexp _ _ => true
  | .attr _ _ _ _ => true
  | .fdisc => true
  | .srfset a _ => a.toNat % 2 == 0
  | .srfqry _ _ => true
  | .srfld _ _ _ => true
  | .srfst _ _ _ => true
  | .tex2 _ _ b => b.toNat % 2 == 0
  | .plot a => a.toNat % 2 == 0
  | .bka _ a => a.toNat % 2 == 0
  | .bkt _ a _ => a.toNat % 2 == 0
  | .bks _ a => a.toNat % 2 == 0
  | .bkf a => a.toNat % 2 == 0
  | .launch _ a => a.toNat % 2 == 0
  | .tlbinv a _ => a.toNat % 2 == 0
  | .keyld a _ => a.toNat % 2 == 0
  | .reset => false
  | .frstrbEdge => false
  | .create _ => false
  | .update _ => false
  | .kill _ => false
  | .attest _ => false
  | .route _ => false
  | .log _ => false
  | .stackreset _ => false
  | .thermal _ => false
  | .unknownOpcode _ => false
  | .launchDoorbell _ _ => false
  | .launchQueueEntry _ _ => false
  | .msiXTableEntry _ _ _ => false
  | .registerWrite _ _ _ => false
  | .cxlMemAccess _ _ _ _ => false
  | .peerCommand _ _ _ _ _ _ => false
  | .flitForward _ _ _ => false
  | .replay _ => false
  | .linkDown _ => false
  | .linkRecovery _ => false
  | .temperatureAboveLimit _ => false
  | .throttleStep _ => false
  | .thermalTrip _ => false
  | .regulatorFault => false
  | .regulatorFaultCleared => false
  | .powerArbiterStep _ _ => false
  | .faultRetry _ => false
  | .surveyorPass _ _ _ => false
  | .verticalBusRepair _ _ _ => false
  | .repairRemap _ _ _ => false
  | .blockAdmit _ => false
  | .admissionWaitExpiry _ _ => false
  | .blockRetire _ => false
  | .completionArrival _ _ _ _ => false
  | .waveToPending _ => false
  | .pendingWaveReady _ => false
  | .forcedExchange _ => false
  | .saveOnWait _ => false
  | .saveComplete _ => false
  | .relaunch _ => false
  | .migration _ => false
  | .migrationComplete _ _ => false
  | .forwardingEntryRelease _ => false
  | .preemptionRequest _ => false
  | .trapEntry _ => false
  | .barrierOverrunReport _ _ => false
  | .droppedBarrierRequest _ _ _ _ _ _ => false
  | .tableFullReport _ _ _ _ => false
  | .blockStoreFailure _ _ _ => false
  | .peerRefusal _ _ _ => false
  | .poolWaveStart _ => false
  | .countedOpComplete _ _ => false
  | .homeSliceRequest _ _ _ => false
  | .l1Eviction _ _ => false
  | .evictionNotice _ _ _ => false
  | .regionNotice _ _ => false
  | .noticeAck _ _ => false
  | .probe _ _ _ => false
  | .probeAck _ _ _ _ => false
  | .queueStreamFetch _ _ => false
  | .queueStreamDrain _ _ => false
  | .pageWalk _ _ _ => false
  | .pageMigration _ _ _ => false
  | .pageMigrationComplete _ _ _ => false
  | .collapseRequest _ _ _ _ => false
  | .groupRewrite _ _ _ _ _ => false
  | .collapseGrant _ _ => false
  | .copyStart _ => false
  | .sectorLand _ _ => false
  | .barrierUpdate _ _ _ => false
  | .remoteBarrierRequest _ _ _ _ _ _ _ => false
  | .bwaitRelease _ _ => false
  | .remoteMessage _ => false
  | .tileOpFire _ => false
  | .operandsConsumed _ _ => false
  | .tileOpComplete _ _ => false
  | .waypointRequest _ => false
  | .waypointMulticast _ _ _ _ => false
  | .waypointClaim _ => false
  | .waypointAnswer _ _ _ => false
  | .deadlockWalk _ => false
  | .waypointGap _ => false
  | .mcasLockRequest _ => false
  | .mcasLockAck _ => false
  | .batchAccept _ => false
  | .rasterise _ => false
  | .fragmentWaveLaunch _ => false
  | .exportEntry _ => false
  | .ropApply _ _ => false
  | .depthVerdict _ _ => false
  | .cellEviction _ => false
  | .cellFetchBack _ _ _ _ => false
  | .surfacePoolWait _ _ _ _ => false
  | .srfsetPerform _ => false
  | .plotAccept _ _ => false
  | .plotUnitStart _ _ => false
  | .plotThreadIssue _ _ _ => false
  | .plotWordLimit _ _ _ => false
  | .plotComplete _ => false
  | .blockStoreRequest _ => false
  | .blockEviction _ _ => false
  | .fstat _ => false
  | .ftrap _ => false
  | .qbasehi _ _ => false
  | .qstride _ _ => false
  | .qstate _ _ => false
  | .hstatus _ => false
  | .shbase _ _ => false
  | .mailboxDoorbell _ => false
  | .linkRetrainComplete _ => false
  | .ideKeyManagement _ _ => false
  | .collapseAnswer _ _ _ => false

end Sys2Proof
end

