-- ==== Sys2Proof/Decode.lean ====
section
/-! DEFINITION. The decoder of instruction words, total on every word, and the encoder, both from the layouts and maps of
02_encoding (R25 to R31) and 03_opcode_map (R44 to R56). A word that is no instruction is rejected by its decode cause. -/

namespace Sys2Proof

/-- The two decode causes of a word alone: 0x01 illegal encoding and 0x03 reserved opcode (R42, R46). -/
inductive DecodeTrap | illegal | reserved
deriving DecidableEq, Repr

/-- The cause code of a decode trap (R42). -/
def DecodeTrap.code : DecodeTrap → Nat
  | .illegal => 0x01
  | .reserved => 0x03

/-! ## Code fields -/

/-- The ICc code field (R91). -/
def ICc.code : ICc → Nat
  | .eq => 0
  | .ne => 1
  | .lt => 2
  | .le => 3
  | .gt => 4
  | .ge => 5
  | .ltu => 6
  | .leu => 7
  | .gtu => 8
  | .geu => 9

/-- The ICc named by a code, if any (R91). -/
def ICc.ofCode : Nat → Option ICc
  | 0 => some .eq
  | 1 => some .ne
  | 2 => some .lt
  | 3 => some .le
  | 4 => some .gt
  | 5 => some .ge
  | 6 => some .ltu
  | 7 => some .leu
  | 8 => some .gtu
  | 9 => some .geu
  | _ => none

/-- The FCc code field (R105). -/
def FCc.code : FCc → Nat
  | .eq => 0
  | .ne => 1
  | .lt => 2
  | .le => 3
  | .gt => 4
  | .ge => 5
  | .unord => 6
  | .ord => 7
  | .ult => 8
  | .ule => 9
  | .ugt => 10
  | .uge => 11

/-- The FCc named by a code, if any (R105). -/
def FCc.ofCode : Nat → Option FCc
  | 0 => some .eq
  | 1 => some .ne
  | 2 => some .lt
  | 3 => some .le
  | 4 => some .gt
  | 5 => some .ge
  | 6 => some .unord
  | 7 => some .ord
  | 8 => some .ult
  | 9 => some .ule
  | 10 => some .ugt
  | 11 => some .uge
  | _ => none

/-- The Rnd code field (R68). -/
def Rnd.code : Rnd → Nat
  | .rne => 0
  | .rz => 1
  | .ru => 2
  | .rd => 3

/-- The Rnd named by a code, if any (R68). -/
def Rnd.ofCode : Nat → Option Rnd
  | 0 => some .rne
  | 1 => some .rz
  | 2 => some .ru
  | 3 => some .rd
  | _ => none

/-- The Half code field (R106). -/
def Half.code : Half → Nat
  | .f16 => 0
  | .bf16 => 1

/-- The Half named by a code, if any (R106). -/
def Half.ofCode : Nat → Option Half
  | 0 => some .f16
  | 1 => some .bf16
  | _ => none

/-- The NumTy code field (R52). -/
def NumTy.code : NumTy → Nat
  | .f32 => 0
  | .f16 => 1
  | .bf16 => 2
  | .e4m3 => 3
  | .e5m2 => 4
  | .e2m1 => 5
  | .i32 => 6
  | .n32 => 7
  | .i16 => 8
  | .n16 => 9
  | .i8 => 10
  | .n8 => 11
  | .sp8 => 12
  | .e8m0 => 13

/-- The NumTy named by a code, if any (R52). -/
def NumTy.ofCode : Nat → Option NumTy
  | 0 => some .f32
  | 1 => some .f16
  | 2 => some .bf16
  | 3 => some .e4m3
  | 4 => some .e5m2
  | 5 => some .e2m1
  | 6 => some .i32
  | 7 => some .n32
  | 8 => some .i16
  | 9 => some .n16
  | 10 => some .i8
  | 11 => some .n8
  | 12 => some .sp8
  | 13 => some .e8m0
  | _ => none

/-- The UnpkTy code field (R81). -/
def UnpkTy.code : UnpkTy → Nat
  | .f16 => 1
  | .bf16 => 2
  | .e4m3 => 3
  | .e5m2 => 4
  | .e2m1 => 5

/-- The UnpkTy named by a code, if any (R81). -/
def UnpkTy.ofCode : Nat → Option UnpkTy
  | 1 => some .f16
  | 2 => some .bf16
  | 3 => some .e4m3
  | 4 => some .e5m2
  | 5 => some .e2m1
  | _ => none

/-- The Width code field (R199). -/
def Width.code : Width → Nat
  | .w8 => 0
  | .w16 => 1
  | .w32 => 2
  | .w64 => 3

/-- The Width named by a code, if any (R199). -/
def Width.ofCode : Nat → Option Width
  | 0 => some .w8
  | 1 => some .w16
  | 2 => some .w32
  | 3 => some .w64
  | _ => none

/-- The AWidth code field (R207). -/
def AWidth.code : AWidth → Nat
  | .w32 => 2
  | .w64 => 3

/-- The AWidth named by a code, if any (R207). -/
def AWidth.ofCode : Nat → Option AWidth
  | 2 => some .w32
  | 3 => some .w64
  | _ => none

/-- The Scope code field (R188). -/
def Scope.code : Scope → Nat
  | .blk => 0
  | .grp => 1
  | .dev => 2
  | .sys => 3

/-- The Scope named by a code, if any (R188). -/
def Scope.ofCode : Nat → Option Scope
  | 0 => some .blk
  | 1 => some .grp
  | 2 => some .dev
  | 3 => some .sys
  | _ => none

/-- The FScope code field (R188). -/
def FScope.code : FScope → Nat
  | .blk => 0
  | .grp => 1
  | .stk => 2
  | .dev => 3
  | .sys => 4

/-- The FScope named by a code, if any (R188). -/
def FScope.ofCode : Nat → Option FScope
  | 0 => some .blk
  | 1 => some .grp
  | 2 => some .stk
  | 3 => some .dev
  | 4 => some .sys
  | _ => none

/-- The FKind code field (R188). -/
def FKind.code : FKind → Nat
  | .acq => 0
  | .rel => 1
  | .acqrel => 2
  | .full => 3

/-- The FKind named by a code, if any (R188). -/
def FKind.ofCode : Nat → Option FKind
  | 0 => some .acq
  | 1 => some .rel
  | 2 => some .acqrel
  | 3 => some .full
  | _ => none

/-- The AtomOp code field (R205). -/
def AtomOp.code : AtomOp → Nat
  | .add => 0
  | .sub => 1
  | .min => 2
  | .max => 3
  | .minu => 4
  | .maxu => 5
  | .iand => 6
  | .ior => 7
  | .ixor => 8
  | .xchg => 9
  | .cas => 10
  | .fadd => 11
  | .hadd2 => 12
  | .badd2 => 13
  | .incw => 14
  | .decw => 15

/-- The AtomOp named by a code, if any (R205). -/
def AtomOp.ofCode : Nat → Option AtomOp
  | 0 => some .add
  | 1 => some .sub
  | 2 => some .min
  | 3 => some .max
  | 4 => some .minu
  | 5 => some .maxu
  | 6 => some .iand
  | 7 => some .ior
  | 8 => some .ixor
  | 9 => some .xchg
  | 10 => some .cas
  | 11 => some .fadd
  | 12 => some .hadd2
  | 13 => some .badd2
  | 14 => some .incw
  | 15 => some .decw
  | _ => none

/-- The PLevel code field (R224). -/
def PLevel.code : PLevel → Nat
  | .l1 => 0
  | .llc => 1

/-- The PLevel named by a code, if any (R224). -/
def PLevel.ofCode : Nat → Option PLevel
  | 0 => some .l1
  | 1 => some .llc
  | _ => none

/-- The MmaFmt code field (R54). -/
def MmaFmt.code : MmaFmt → Nat
  | .f16 => 1
  | .bf16 => 2
  | .e4m3 => 3
  | .e5m2 => 4
  | .e2m1 => 5
  | .i8 => 10
  | .sp8 => 12

/-- The MmaFmt named by a code, if any (R54). -/
def MmaFmt.ofCode : Nat → Option MmaFmt
  | 1 => some .f16
  | 2 => some .bf16
  | 3 => some .e4m3
  | 4 => some .e5m2
  | 5 => some .e2m1
  | 10 => some .i8
  | 12 => some .sp8
  | _ => none

/-- The MmacFmt code field (R54). -/
def MmacFmt.code : MmacFmt → Nat
  | .f16 => 1
  | .bf16 => 2
  | .e4m3 => 3

/-- The MmacFmt named by a code, if any (R54). -/
def MmacFmt.ofCode : Nat → Option MmacFmt
  | 1 => some .f16
  | 2 => some .bf16
  | 3 => some .e4m3
  | _ => none

/-- The SlabCnt code field (R139). -/
def SlabCnt.code : SlabCnt → Nat
  | .one => 0
  | .two => 1
  | .four => 2

/-- The SlabCnt named by a code, if any (R139). -/
def SlabCnt.ofCode : Nat → Option SlabCnt
  | 0 => some .one
  | 1 => some .two
  | 2 => some .four
  | _ => none

/-- The Dst code field (R141). -/
def Dst.code : Dst → Nat
  | .spm => 0
  | .mem => 1
  | .srf => 2

/-- The Dst named by a code, if any (R141). -/
def Dst.ofCode : Nat → Option Dst
  | 0 => some .spm
  | 1 => some .mem
  | 2 => some .srf
  | _ => none

/-! ## The decoder -/

/-- Must-be-zero fields: trap 0x01 when they are not (R46). -/
def need (c : Bool) (r : Except DecodeTrap Instr) : Except DecodeTrap Instr :=
  if c then r else .error .illegal

/-- Major 0x00 CTL (R330). -/
def decodeCtl (word : Nat) : Except DecodeTrap Instr :=
  match bits word 4 0 with
  | 0 => need (bits word 24 5 == 0) (.ok (.nop))
  | 1 => need (bits word 24 5 == 0) (.ok (.halt))
  | 2 => need (bits word 24 5 == 0) (.ok (.exit))
  | 3 => need (bits word 24 5 == 0) (.ok (.yield))
  | 4 => need (bits word 24 5 == 0) (.ok (.conv))
  | 5 => need (bits word 24 5 == 0) (.ok (.tret))
  | 6 => need (bits word 24 5 == 0) (.ok (.brk))
  | _ => need (bits word 24 5 == 0) (.error .reserved)

/-- Major 0x01 BR (R333). -/
def decodeBr (word : Nat) : Except DecodeTrap Instr :=
  match bits word 24 22 with
  | 0 => need (bits word 21 18 == 0 && bits word 9 0 == 0) (.ok (.bra (BitVec.ofNat 8 (bits word 17 10))))
  | 1 => need (bits word 9 0 == 0) (.ok (.br (BitVec.ofNat 3 (bits word 21 19)) (bitAt word 18) (BitVec.ofNat 8 (bits word 17 10))))
  | 2 => need (bits word 9 0 == 0) (.ok (.brall (BitVec.ofNat 3 (bits word 21 19)) (bitAt word 18) (BitVec.ofNat 8 (bits word 17 10))))
  | 3 => need (bits word 9 0 == 0) (.ok (.brany (BitVec.ofNat 3 (bits word 21 19)) (bitAt word 18) (BitVec.ofNat 8 (bits word 17 10))))
  | _ => need (bits word 9 0 == 0) (.error .reserved)

/-- Major 0x02 JMP (R334). -/
def decodeJmp (word : Nat) : Except DecodeTrap Instr :=
  match bits word 2 0 with
  | 0 => need (bits word 24 18 == 0 && bits word 10 3 == 0) (.ok (.jmps (BitVec.ofNat 7 (bits word 17 11))))
  | 1 => need (bits word 24 18 == 0 && bits word 10 3 == 0) (.ok (.jmpv (BitVec.ofNat 7 (bits word 17 11))))
  | 2 => need (bits word 17 14 == 0) (.ok (.call (BitVec.ofNat 7 (bits word 24 18)) (BitVec.ofNat 3 (bits word 13 11)) (BitVec.ofNat 8 (bits word 10 3))))
  | 3 => need (bits word 10 6 == 0) (.ok (.callv (BitVec.ofNat 7 (bits word 24 18)) (BitVec.ofNat 7 (bits word 17 11)) (BitVec.ofNat 3 (bits word 5 3))))
  | 4 => need (bits word 24 18 == 0 && bits word 10 3 == 0) (.ok (.ret (BitVec.ofNat 7 (bits word 17 11))))
  | _ => .error .reserved

/-- Major 0x03 LOOP (R336). -/
def decodeLoop (word : Nat) : Except DecodeTrap Instr :=
  match bits word 1 0 with
  | 0 => need (bits word 8 2 == 0) (.ok (.loopi (BitVec.ofNat 8 (bits word 24 17)) (BitVec.ofNat 8 (bits word 16 9))))
  | 1 => need (bits word 17 17 == 0 && bits word 8 2 == 0) (.ok (.loops (BitVec.ofNat 7 (bits word 24 18)) (BitVec.ofNat 8 (bits word 16 9))))
  | 2 => need (bits word 24 2 == 0) (.ok (.lbrk))
  | _ => need (bits word 8 2 == 0) (.error .reserved)

/-- Major 0x04 REP (R340). -/
def decodeRep (word : Nat) : Except DecodeTrap Instr :=
  need (bits word 13 0 == 0) (.ok (.rep (BitVec.ofNat 6 (bits word 24 19)) (bitAt word 18) (bitAt word 17) (bitAt word 16) (BitVec.ofNat 2 (bits word 15 14))))

/-- Major 0x05 WAIT (R343). -/
def decodeWait (word : Nat) : Except DecodeTrap Instr :=
  need (bits word 0 0 == 0) (.ok (.wait (BitVec.ofNat 6 (bits word 24 19)) (BitVec.ofNat 6 (bits word 18 13)) (BitVec.ofNat 6 (bits word 12 7)) (BitVec.ofNat 6 (bits word 6 1))))

/-- Major 0x06 TRAP (R429). -/
def decodeTrap (word : Nat) : Except DecodeTrap Instr :=
  need (bits word 16 0 == 0) (.ok (.trap (BitVec.ofNat 8 (bits word 24 17))))

/-- Major 0x07 FIB (R344). -/
def decodeFib (word : Nat) : Except DecodeTrap Instr :=
  match bits word 2 0 with
  | 0 => .ok (.spawn (BitVec.ofNat 7 (bits word 24 18)) (BitVec.ofNat 7 (bits word 17 11)) (BitVec.ofNat 8 (bits word 10 3)))
  | 1 => .ok (.spawnp (BitVec.ofNat 7 (bits word 24 18)) (BitVec.ofNat 7 (bits word 17 11)) (BitVec.ofNat 8 (bits word 10 3)))
  | 2 => need (bits word 24 18 == 0) (.ok (.regroup (BitVec.ofNat 7 (bits word 17 11)) (BitVec.ofNat 8 (bits word 10 3))))
  | 3 => need (bits word 24 3 == 0) (.ok (.flushrg))
  | 4 => need (bits word 17 11 == 0) (.ok (.fibrd (BitVec.ofNat 7 (bits word 24 18)) (BitVec.ofNat 8 (bits word 10 3))))
  | 5 => need (bits word 24 18 == 0) (.ok (.fibwr (BitVec.ofNat 7 (bits word 17 11)) (BitVec.ofNat 8 (bits word 10 3))))
  | _ => .error .reserved

/-- Major 0x08 SALU (R90). -/
def decodeSalu (word : Nat) : Except DecodeTrap Instr :=
  match bits word 3 0 with
  | 0 => .ok (.sadd (BitVec.ofNat 7 (bits word 24 18)) (BitVec.ofNat 7 (bits word 17 11)) (BitVec.ofNat 7 (bits word 10 4)))
  | 1 => .ok (.ssub (BitVec.ofNat 7 (bits word 24 18)) (BitVec.ofNat 7 (bits word 17 11)) (BitVec.ofNat 7 (bits word 10 4)))
  | 2 => .ok (.smul (BitVec.ofNat 7 (bits word 24 18)) (BitVec.ofNat 7 (bits word 17 11)) (BitVec.ofNat 7 (bits word 10 4)))
  | 3 => .ok (.smulh (BitVec.ofNat 7 (bits word 24 18)) (BitVec.ofNat 7 (bits word 17 11)) (BitVec.ofNat 7 (bits word 10 4)))
  | 4 => .ok (.sand (BitVec.ofNat 7 (bits word 24 18)) (BitVec.ofNat 7 (bits word 17 11)) (BitVec.ofNat 7 (bits word 10 4)))
  | 5 => .ok (.sor (BitVec.ofNat 7 (bits word 24 18)) (BitVec.ofNat 7 (bits word 17 11)) (BitVec.ofNat 7 (bits word 10 4)))
  | 6 => .ok (.sxor (BitVec.ofNat 7 (bits word 24 18)) (BitVec.ofNat 7 (bits word 17 11)) (BitVec.ofNat 7 (bits word 10 4)))
  | 7 => .ok (.sshl (BitVec.ofNat 7 (bits word 24 18)) (BitVec.ofNat 7 (bits word 17 11)) (BitVec.ofNat 7 (bits word 10 4)))
  | 8 => .ok (.sshr (BitVec.ofNat 7 (bits word 24 18)) (BitVec.ofNat 7 (bits word 17 11)) (BitVec.ofNat 7 (bits word 10 4)))
  | 9 => .ok (.ssra (BitVec.ofNat 7 (bits word 24 18)) (BitVec.ofNat 7 (bits word 17 11)) (BitVec.ofNat 7 (bits word 10 4)))
  | 10 => .ok (.smin (BitVec.ofNat 7 (bits word 24 18)) (BitVec.ofNat 7 (bits word 17 11)) (BitVec.ofNat 7 (bits word 10 4)))
  | 11 => .ok (.smax (BitVec.ofNat 7 (bits word 24 18)) (BitVec.ofNat 7 (bits word 17 11)) (BitVec.ofNat 7 (bits word 10 4)))
  | 12 => .ok (.sminu (BitVec.ofNat 7 (bits word 24 18)) (BitVec.ofNat 7 (bits word 17 11)) (BitVec.ofNat 7 (bits word 10 4)))
  | 13 => .ok (.smaxu (BitVec.ofNat 7 (bits word 24 18)) (BitVec.ofNat 7 (bits word 17 11)) (BitVec.ofNat 7 (bits word 10 4)))
  | 14 => need (bits word 10 4 == 0) (.ok (.smov (BitVec.ofNat 7 (bits word 24 18)) (BitVec.ofNat 7 (bits word 17 11))))
  | _ => .error .reserved

/-- Major 0x09 SALUI (R90). -/
def decodeSalui (word : Nat) : Except DecodeTrap Instr :=
  match bits word 2 0 with
  | 0 => .ok (.saddi (BitVec.ofNat 7 (bits word 24 18)) (BitVec.ofNat 7 (bits word 17 11)) (BitVec.ofNat 8 (bits word 10 3)))
  | 1 => .ok (.sandi (BitVec.ofNat 7 (bits word 24 18)) (BitVec.ofNat 7 (bits word 17 11)) (BitVec.ofNat 8 (bits word 10 3)))
  | 2 => .ok (.sori (BitVec.ofNat 7 (bits word 24 18)) (BitVec.ofNat 7 (bits word 17 11)) (BitVec.ofNat 8 (bits word 10 3)))
  | 3 => .ok (.sxori (BitVec.ofNat 7 (bits word 24 18)) (BitVec.ofNat 7 (bits word 17 11)) (BitVec.ofNat 8 (bits word 10 3)))
  | 4 => need (bits word 10 8 == 0) (.ok (.sshli (BitVec.ofNat 7 (bits word 24 18)) (BitVec.ofNat 7 (bits word 17 11)) (BitVec.ofNat 5 (bits word 7 3))))
  | 5 => need (bits word 10 8 == 0) (.ok (.sshri (BitVec.ofNat 7 (bits word 24 18)) (BitVec.ofNat 7 (bits word 17 11)) (BitVec.ofNat 5 (bits word 7 3))))
  | 6 => need (bits word 10 8 == 0) (.ok (.ssrai (BitVec.ofNat 7 (bits word 24 18)) (BitVec.ofNat 7 (bits word 17 11)) (BitVec.ofNat 5 (bits word 7 3))))
  | 7 => need (bits word 17 13 == 0) (.ok (.sbyte (BitVec.ofNat 7 (bits word 24 18)) (BitVec.ofNat 2 (bits word 12 11)) (BitVec.ofNat 8 (bits word 10 3))))
  | _ => .error .reserved

/-- Major 0x0A SCMP (R91). -/
def decodeScmp (word : Nat) : Except DecodeTrap Instr :=
  need (bits word 24 21 == 0) ((ICc.ofCode (bits word 3 0)).elim (.error .reserved) fun k => .ok (.scmp (BitVec.ofNat 3 (bits word 20 18)) (BitVec.ofNat 7 (bits word 17 11)) (BitVec.ofNat 7 (bits word 10 4)) k))

/-- Major 0x0B CSR (R92). -/
def decodeCsr (word : Nat) : Except DecodeTrap Instr :=
  match bits word 2 0 with
  | 0 => need (bits word 17 11 == 0) (.ok (.csrr (BitVec.ofNat 7 (bits word 24 18)) (BitVec.ofNat 8 (bits word 10 3))))
  | 1 => need (bits word 24 18 == 0) (.ok (.csrw (BitVec.ofNat 7 (bits word 17 11)) (BitVec.ofNat 8 (bits word 10 3))))
  | 2 => need (bits word 17 11 == 0) (.ok (.spr (BitVec.ofNat 7 (bits word 24 18)) (BitVec.ofNat 8 (bits word 10 3))))
  | 3 => .ok (.rdlane (BitVec.ofNat 7 (bits word 24 18)) (BitVec.ofNat 7 (bits word 17 11)) (BitVec.ofNat 8 (bits word 10 3)))
  | 4 => need (bits word 10 3 == 0) (.ok (.movs (BitVec.ofNat 7 (bits word 24 18)) (BitVec.ofNat 7 (bits word 17 11))))
  | _ => .error .reserved

/-- Major 0x0C IALU (R96). -/
def decodeIalu (word : Nat) : Except DecodeTrap Instr :=
  match bits word 3 0 with
  | 0 => .ok (.iadd (BitVec.ofNat 7 (bits word 24 18)) (BitVec.ofNat 7 (bits word 17 11)) (BitVec.ofNat 7 (bits word 10 4)))
  | 1 => .ok (.isub (BitVec.ofNat 7 (bits word 24 18)) (BitVec.ofNat 7 (bits word 17 11)) (BitVec.ofNat 7 (bits word 10 4)))
  | 2 => .ok (.imul (BitVec.ofNat 7 (bits word 24 18)) (BitVec.ofNat 7 (bits word 17 11)) (BitVec.ofNat 7 (bits word 10 4)))
  | 3 => .ok (.imulh (BitVec.ofNat 7 (bits word 24 18)) (BitVec.ofNat 7 (bits word 17 11)) (BitVec.ofNat 7 (bits word 10 4)))
  | 4 => .ok (.imulhu (BitVec.ofNat 7 (bits word 24 18)) (BitVec.ofNat 7 (bits word 17 11)) (BitVec.ofNat 7 (bits word 10 4)))
  | 5 => .ok (.iand (BitVec.ofNat 7 (bits word 24 18)) (BitVec.ofNat 7 (bits word 17 11)) (BitVec.ofNat 7 (bits word 10 4)))
  | 6 => .ok (.ior (BitVec.ofNat 7 (bits word 24 18)) (BitVec.ofNat 7 (bits word 17 11)) (BitVec.ofNat 7 (bits word 10 4)))
  | 7 => .ok (.ixor (BitVec.ofNat 7 (bits word 24 18)) (BitVec.ofNat 7 (bits word 17 11)) (BitVec.ofNat 7 (bits word 10 4)))
  | 8 => .ok (.andn (BitVec.ofNat 7 (bits word 24 18)) (BitVec.ofNat 7 (bits word 17 11)) (BitVec.ofNat 7 (bits word 10 4)))
  | 9 => .ok (.shl (BitVec.ofNat 7 (bits word 24 18)) (BitVec.ofNat 7 (bits word 17 11)) (BitVec.ofNat 7 (bits word 10 4)))
  | 10 => .ok (.shr (BitVec.ofNat 7 (bits word 24 18)) (BitVec.ofNat 7 (bits word 17 11)) (BitVec.ofNat 7 (bits word 10 4)))
  | 11 => .ok (.sra (BitVec.ofNat 7 (bits word 24 18)) (BitVec.ofNat 7 (bits word 17 11)) (BitVec.ofNat 7 (bits word 10 4)))
  | 12 => .ok (.imin (BitVec.ofNat 7 (bits word 24 18)) (BitVec.ofNat 7 (bits word 17 11)) (BitVec.ofNat 7 (bits word 10 4)))
  | 13 => .ok (.imax (BitVec.ofNat 7 (bits word 24 18)) (BitVec.ofNat 7 (bits word 17 11)) (BitVec.ofNat 7 (bits word 10 4)))
  | 14 => .ok (.iminu (BitVec.ofNat 7 (bits word 24 18)) (BitVec.ofNat 7 (bits word 17 11)) (BitVec.ofNat 7 (bits word 10 4)))
  | 15 => .ok (.imaxu (BitVec.ofNat 7 (bits word 24 18)) (BitVec.ofNat 7 (bits word 17 11)) (BitVec.ofNat 7 (bits word 10 4)))
  | _ => .error .reserved

/-- Major 0x0D IALUI (R96). -/
def decodeIalui (word : Nat) : Except DecodeTrap Instr :=
  match bits word 2 0 with
  | 0 => .ok (.iaddi (BitVec.ofNat 7 (bits word 24 18)) (BitVec.ofNat 7 (bits word 17 11)) (BitVec.ofNat 8 (bits word 10 3)))
  | 1 => .ok (.andi (BitVec.ofNat 7 (bits word 24 18)) (BitVec.ofNat 7 (bits word 17 11)) (BitVec.ofNat 8 (bits word 10 3)))
  | 2 => .ok (.ori (BitVec.ofNat 7 (bits word 24 18)) (BitVec.ofNat 7 (bits word 17 11)) (BitVec.ofNat 8 (bits word 10 3)))
  | 3 => .ok (.xori (BitVec.ofNat 7 (bits word 24 18)) (BitVec.ofNat 7 (bits word 17 11)) (BitVec.ofNat 8 (bits word 10 3)))
  | 4 => need (bits word 10 8 == 0) (.ok (.shli (BitVec.ofNat 7 (bits word 24 18)) (BitVec.ofNat 7 (bits word 17 11)) (BitVec.ofNat 5 (bits word 7 3))))
  | 5 => need (bits word 10 8 == 0) (.ok (.shri (BitVec.ofNat 7 (bits word 24 18)) (BitVec.ofNat 7 (bits word 17 11)) (BitVec.ofNat 5 (bits word 7 3))))
  | 6 => need (bits word 10 8 == 0) (.ok (.srai (BitVec.ofNat 7 (bits word 24 18)) (BitVec.ofNat 7 (bits word 17 11)) (BitVec.ofNat 5 (bits word 7 3))))
  | 7 => need (bits word 17 11 == 0) (.ok (.movi (BitVec.ofNat 7 (bits word 24 18)) (BitVec.ofNat 8 (bits word 10 3))))
  | _ => .error .reserved

/-- Major 0x0E IMISC (R97). -/
def decodeImisc (word : Nat) : Except DecodeTrap Instr :=
  match bits word 3 0 with
  | 0 => need (bits word 10 4 == 0) (.ok (.iabs (BitVec.ofNat 7 (bits word 24 18)) (BitVec.ofNat 7 (bits word 17 11))))
  | 1 => need (bits word 10 4 == 0) (.ok (.ineg (BitVec.ofNat 7 (bits word 24 18)) (BitVec.ofNat 7 (bits word 17 11))))
  | 2 => need (bits word 10 4 == 0) (.ok (.inot (BitVec.ofNat 7 (bits word 24 18)) (BitVec.ofNat 7 (bits word 17 11))))
  | 3 => need (bits word 10 4 == 0) (.ok (.popc (BitVec.ofNat 7 (bits word 24 18)) (BitVec.ofNat 7 (bits word 17 11))))
  | 4 => need (bits word 10 4 == 0) (.ok (.clz (BitVec.ofNat 7 (bits word 24 18)) (BitVec.ofNat 7 (bits word 17 11))))
  | 5 => need (bits word 10 4 == 0) (.ok (.brev (BitVec.ofNat 7 (bits word 24 18)) (BitVec.ofNat 7 (bits word 17 11))))
  | 6 => .ok (.bfe (BitVec.ofNat 7 (bits word 24 18)) (BitVec.ofNat 7 (bits word 17 11)) (BitVec.ofNat 7 (bits word 10 4)))
  | 7 => .ok (.bfeu (BitVec.ofNat 7 (bits word 24 18)) (BitVec.ofNat 7 (bits word 17 11)) (BitVec.ofNat 7 (bits word 10 4)))
  | 8 => .ok (.bfi (BitVec.ofNat 7 (bits word 24 18)) (BitVec.ofNat 7 (bits word 17 11)) (BitVec.ofNat 7 (bits word 10 4)))
  | 9 => .ok (.imad (BitVec.ofNat 7 (bits word 24 18)) (BitVec.ofNat 7 (bits word 17 11)) (BitVec.ofNat 7 (bits word 10 4)))
  | 10 => .ok (.idiv (BitVec.ofNat 7 (bits word 24 18)) (BitVec.ofNat 7 (bits word 17 11)) (BitVec.ofNat 7 (bits word 10 4)))
  | 11 => .ok (.idivu (BitVec.ofNat 7 (bits word 24 18)) (BitVec.ofNat 7 (bits word 17 11)) (BitVec.ofNat 7 (bits word 10 4)))
  | 12 => .ok (.irem (BitVec.ofNat 7 (bits word 24 18)) (BitVec.ofNat 7 (bits word 17 11)) (BitVec.ofNat 7 (bits word 10 4)))
  | 13 => .ok (.iremu (BitVec.ofNat 7 (bits word 24 18)) (BitVec.ofNat 7 (bits word 17 11)) (BitVec.ofNat 7 (bits word 10 4)))
  | 14 => .ok (.iadds (BitVec.ofNat 7 (bits word 24 18)) (BitVec.ofNat 7 (bits word 17 11)) (BitVec.ofNat 7 (bits word 10 4)))
  | 15 => .ok (.isubs (BitVec.ofNat 7 (bits word 24 18)) (BitVec.ofNat 7 (bits word 17 11)) (BitVec.ofNat 7 (bits word 10 4)))
  | _ => .error .reserved

/-- Major 0x0F ICMP (R99). -/
def decodeIcmp (word : Nat) : Except DecodeTrap Instr :=
  need (bits word 24 21 == 0) ((ICc.ofCode (bits word 3 0)).elim (.error .reserved) fun k => .ok (.icmp (BitVec.ofNat 3 (bits word 20 18)) (BitVec.ofNat 7 (bits word 17 11)) (BitVec.ofNat 7 (bits word 10 4)) k))

/-- Major 0x10 FALU (R100). -/
def decodeFalu (word : Nat) : Except DecodeTrap Instr :=
  match bits word 1 0 with
  | 0 => ((Rnd.ofCode (bits word 3 2)).elim (.error .reserved) fun r => .ok (.fadd (BitVec.ofNat 7 (bits word 24 18)) (BitVec.ofNat 7 (bits word 17 11)) (BitVec.ofNat 7 (bits word 10 4)) r))
  | 1 => ((Rnd.ofCode (bits word 3 2)).elim (.error .reserved) fun r => .ok (.fsub (BitVec.ofNat 7 (bits word 24 18)) (BitVec.ofNat 7 (bits word 17 11)) (BitVec.ofNat 7 (bits word 10 4)) r))
  | 2 => ((Rnd.ofCode (bits word 3 2)).elim (.error .reserved) fun r => .ok (.fmul (BitVec.ofNat 7 (bits word 24 18)) (BitVec.ofNat 7 (bits word 17 11)) (BitVec.ofNat 7 (bits word 10 4)) r))
  | 3 => ((Rnd.ofCode (bits word 3 2)).elim (.error .reserved) fun r => .ok (.ffma (BitVec.ofNat 7 (bits word 24 18)) (BitVec.ofNat 7 (bits word 17 11)) (BitVec.ofNat 7 (bits word 10 4)) r))
  | _ => .error .reserved

/-- Major 0x11 FALU2 (R101). -/
def decodeFalu2 (word : Nat) : Except DecodeTrap Instr :=
  match bits word 3 0 with
  | 0 => .ok (.fmin (BitVec.ofNat 7 (bits word 24 18)) (BitVec.ofNat 7 (bits word 17 11)) (BitVec.ofNat 7 (bits word 10 4)))
  | 1 => .ok (.fmax (BitVec.ofNat 7 (bits word 24 18)) (BitVec.ofNat 7 (bits word 17 11)) (BitVec.ofNat 7 (bits word 10 4)))
  | 2 => .ok (.fminm (BitVec.ofNat 7 (bits word 24 18)) (BitVec.ofNat 7 (bits word 17 11)) (BitVec.ofNat 7 (bits word 10 4)))
  | 3 => .ok (.fmaxm (BitVec.ofNat 7 (bits word 24 18)) (BitVec.ofNat 7 (bits word 17 11)) (BitVec.ofNat 7 (bits word 10 4)))
  | 4 => .ok (.fcpys (BitVec.ofNat 7 (bits word 24 18)) (BitVec.ofNat 7 (bits word 17 11)) (BitVec.ofNat 7 (bits word 10 4)))
  | 5 => .ok (.fscale (BitVec.ofNat 7 (bits word 24 18)) (BitVec.ofNat 7 (bits word 17 11)) (BitVec.ofNat 7 (bits word 10 4)))
  | _ => .error .reserved

/-- Major 0x12 FMISC (R102). -/
def decodeFmisc (word : Nat) : Except DecodeTrap Instr :=
  match bits word 7 4 with
  | 0 => need (bits word 3 0 == 0) (if bits word 10 8 == 0 then .ok (.fabs (BitVec.ofNat 7 (bits word 24 18)) (BitVec.ofNat 7 (bits word 17 11))) else .error .reserved)
  | 1 => need (bits word 3 0 == 0) (if bits word 10 8 == 0 then .ok (.fneg (BitVec.ofNat 7 (bits word 24 18)) (BitVec.ofNat 7 (bits word 17 11))) else .error .reserved)
  | 2 => need (bits word 3 0 == 0) (if bits word 10 8 == 0 then .ok (.fclass (BitVec.ofNat 7 (bits word 24 18)) (BitVec.ofNat 7 (bits word 17 11))) else .error .reserved)
  | 3 => need (bits word 3 0 == 0) ((Rnd.ofCode (bits word 9 8)).elim (.error .reserved) fun r => .ok (.frnd (BitVec.ofNat 7 (bits word 24 18)) (BitVec.ofNat 7 (bits word 17 11)) (bitAt word 10) r))
  | 4 => need (bits word 3 0 == 0) (if bits word 10 8 == 0 then .ok (.fsat (BitVec.ofNat 7 (bits word 24 18)) (BitVec.ofNat 7 (bits word 17 11))) else .error .reserved)
  | 5 => need (bits word 3 0 == 0) (if bits word 10 8 == 0 then .ok (.fgete (BitVec.ofNat 7 (bits word 24 18)) (BitVec.ofNat 7 (bits word 17 11))) else .error .reserved)
  | 6 => need (bits word 3 0 == 0) (if bits word 10 8 == 0 then .ok (.fgetm (BitVec.ofNat 7 (bits word 24 18)) (BitVec.ofNat 7 (bits word 17 11))) else .error .reserved)
  | _ => need (bits word 3 0 == 0) (.error .reserved)

/-- Major 0x13 FCMP (R105). -/
def decodeFcmp (word : Nat) : Except DecodeTrap Instr :=
  need (bits word 24 21 == 0) ((FCc.ofCode (bits word 3 0)).elim (.error .reserved) fun k => .ok (.fcmp (BitVec.ofNat 3 (bits word 20 18)) (BitVec.ofNat 7 (bits word 17 11)) (BitVec.ofNat 7 (bits word 10 4)) k))

/-- Major 0x14 PKF (R106). -/
def decodePkf (word : Nat) : Except DecodeTrap Instr :=
  match bits word 2 0 with
  | 0 => ((Half.ofCode (bits word 3 3)).elim (.error .reserved) fun t => .ok (.hadd2 (BitVec.ofNat 7 (bits word 24 18)) (BitVec.ofNat 7 (bits word 17 11)) (BitVec.ofNat 7 (bits word 10 4)) t))
  | 1 => ((Half.ofCode (bits word 3 3)).elim (.error .reserved) fun t => .ok (.hsub2 (BitVec.ofNat 7 (bits word 24 18)) (BitVec.ofNat 7 (bits word 17 11)) (BitVec.ofNat 7 (bits word 10 4)) t))
  | 2 => ((Half.ofCode (bits word 3 3)).elim (.error .reserved) fun t => .ok (.hmul2 (BitVec.ofNat 7 (bits word 24 18)) (BitVec.ofNat 7 (bits word 17 11)) (BitVec.ofNat 7 (bits word 10 4)) t))
  | 3 => ((Half.ofCode (bits word 3 3)).elim (.error .reserved) fun t => .ok (.hfma2 (BitVec.ofNat 7 (bits word 24 18)) (BitVec.ofNat 7 (bits word 17 11)) (BitVec.ofNat 7 (bits word 10 4)) t))
  | 4 => ((Half.ofCode (bits word 3 3)).elim (.error .reserved) fun t => .ok (.hmin2 (BitVec.ofNat 7 (bits word 24 18)) (BitVec.ofNat 7 (bits word 17 11)) (BitVec.ofNat 7 (bits word 10 4)) t))
  | 5 => ((Half.ofCode (bits word 3 3)).elim (.error .reserved) fun t => .ok (.hmax2 (BitVec.ofNat 7 (bits word 24 18)) (BitVec.ofNat 7 (bits word 17 11)) (BitVec.ofNat 7 (bits word 10 4)) t))
  | _ => .error .reserved

/-- Major 0x15 DOT (R107). -/
def decodeDot (word : Nat) : Except DecodeTrap Instr :=
  match bits word 3 0 with
  | 0 => .ok (.dot2h (BitVec.ofNat 7 (bits word 24 18)) (BitVec.ofNat 7 (bits word 17 11)) (BitVec.ofNat 7 (bits word 10 4)))
  | 1 => .ok (.dot2b (BitVec.ofNat 7 (bits word 24 18)) (BitVec.ofNat 7 (bits word 17 11)) (BitVec.ofNat 7 (bits word 10 4)))
  | 2 => .ok (.dot4e4 (BitVec.ofNat 7 (bits word 24 18)) (BitVec.ofNat 7 (bits word 17 11)) (BitVec.ofNat 7 (bits word 10 4)))
  | 3 => .ok (.dot4e5 (BitVec.ofNat 7 (bits word 24 18)) (BitVec.ofNat 7 (bits word 17 11)) (BitVec.ofNat 7 (bits word 10 4)))
  | 4 => .ok (.dot4i (BitVec.ofNat 7 (bits word 24 18)) (BitVec.ofNat 7 (bits word 17 11)) (BitVec.ofNat 7 (bits word 10 4)))
  | 5 => .ok (.dot4in (BitVec.ofNat 7 (bits word 24 18)) (BitVec.ofNat 7 (bits word 17 11)) (BitVec.ofNat 7 (bits word 10 4)))
  | 6 => .ok (.dot8f (BitVec.ofNat 7 (bits word 24 18)) (BitVec.ofNat 7 (bits word 17 11)) (BitVec.ofNat 7 (bits word 10 4)))
  | 7 => .ok (.dot4s (BitVec.ofNat 7 (bits word 24 18)) (BitVec.ofNat 7 (bits word 17 11)) (BitVec.ofNat 7 (bits word 10 4)))
  | _ => .error .reserved

/-- Major 0x16 CVT (R73). -/
def decodeCvt (word : Nat) : Except DecodeTrap Instr :=
  ((NumTy.ofCode (bits word 10 7)).elim (.error .reserved) fun e => ((NumTy.ofCode (bits word 6 3)).elim (.error .reserved) fun f => ((Rnd.ofCode (bits word 2 1)).elim (.error .reserved) fun r => if f.pair e then .ok (.cvt (BitVec.ofNat 7 (bits word 24 18)) (BitVec.ofNat 7 (bits word 17 11)) e f r (bitAt word 0)) else .error .reserved)))

/-- Major 0x17 SFU (R110). -/
def decodeSfu (word : Nat) : Except DecodeTrap Instr :=
  match bits word 3 0 with
  | 0 => need (bits word 10 4 == 0) (.ok (.rcp (BitVec.ofNat 7 (bits word 24 18)) (BitVec.ofNat 7 (bits word 17 11))))
  | 1 => need (bits word 10 4 == 0) (.ok (.rsq (BitVec.ofNat 7 (bits word 24 18)) (BitVec.ofNat 7 (bits word 17 11))))
  | 2 => need (bits word 10 4 == 0) (.ok (.sqrt (BitVec.ofNat 7 (bits word 24 18)) (BitVec.ofNat 7 (bits word 17 11))))
  | 3 => need (bits word 10 4 == 0) (.ok (.exp2 (BitVec.ofNat 7 (bits word 24 18)) (BitVec.ofNat 7 (bits word 17 11))))
  | 4 => need (bits word 10 4 == 0) (.ok (.log2 (BitVec.ofNat 7 (bits word 24 18)) (BitVec.ofNat 7 (bits word 17 11))))
  | 5 => need (bits word 10 4 == 0) (.ok (.sin (BitVec.ofNat 7 (bits word 24 18)) (BitVec.ofNat 7 (bits word 17 11))))
  | 6 => need (bits word 10 4 == 0) (.ok (.cos (BitVec.ofNat 7 (bits word 24 18)) (BitVec.ofNat 7 (bits word 17 11))))
  | 7 => need (bits word 10 4 == 0) (.ok (.tanh (BitVec.ofNat 7 (bits word 24 18)) (BitVec.ofNat 7 (bits word 17 11))))
  | _ => need (bits word 10 4 == 0) (.error .reserved)

/-- Major 0x18 XLANE (R114). -/
def decodeXlane (word : Nat) : Except DecodeTrap Instr :=
  match bits word 3 0 with
  | 0 => .ok (.shfli (BitVec.ofNat 7 (bits word 24 18)) (BitVec.ofNat 7 (bits word 17 11)) (BitVec.ofNat 7 (bits word 10 4)))
  | 1 => .ok (.shflu (BitVec.ofNat 7 (bits word 24 18)) (BitVec.ofNat 7 (bits word 17 11)) (BitVec.ofNat 7 (bits word 10 4)))
  | 2 => .ok (.shfld (BitVec.ofNat 7 (bits word 24 18)) (BitVec.ofNat 7 (bits word 17 11)) (BitVec.ofNat 7 (bits word 10 4)))
  | 3 => .ok (.shflx (BitVec.ofNat 7 (bits word 24 18)) (BitVec.ofNat 7 (bits word 17 11)) (BitVec.ofNat 7 (bits word 10 4)))
  | 4 => .ok (.bcast (BitVec.ofNat 7 (bits word 24 18)) (BitVec.ofNat 7 (bits word 17 11)) (BitVec.ofNat 7 (bits word 10 4)))
  | 5 => need (bits word 24 21 == 0 && bits word 17 14 == 0 && bits word 10 4 == 0) (.ok (.voteany (BitVec.ofNat 3 (bits word 20 18)) (BitVec.ofNat 3 (bits word 13 11))))
  | 6 => need (bits word 24 21 == 0 && bits word 17 14 == 0 && bits word 10 4 == 0) (.ok (.voteall (BitVec.ofNat 3 (bits word 20 18)) (BitVec.ofNat 3 (bits word 13 11))))
  | 7 => need (bits word 17 14 == 0 && bits word 10 4 == 0) (.ok (.ballot (BitVec.ofNat 7 (bits word 24 18)) (BitVec.ofNat 3 (bits word 13 11))))
  | 8 => need (bits word 10 4 == 0) (.ok (.matchv (BitVec.ofNat 7 (bits word 24 18)) (BitVec.ofNat 7 (bits word 17 11))))
  | 9 => need (bits word 10 4 == 0) (.ok (.wredadd (BitVec.ofNat 7 (bits word 24 18)) (BitVec.ofNat 7 (bits word 17 11))))
  | 10 => need (bits word 10 4 == 0) (.ok (.wredfadd (BitVec.ofNat 7 (bits word 24 18)) (BitVec.ofNat 7 (bits word 17 11))))
  | 11 => need (bits word 10 4 == 0) (.ok (.wredmin (BitVec.ofNat 7 (bits word 24 18)) (BitVec.ofNat 7 (bits word 17 11))))
  | 12 => need (bits word 10 4 == 0) (.ok (.wredmax (BitVec.ofNat 7 (bits word 24 18)) (BitVec.ofNat 7 (bits word 17 11))))
  | 13 => need (bits word 10 4 == 0) (.ok (.wredfmax (BitVec.ofNat 7 (bits word 24 18)) (BitVec.ofNat 7 (bits word 17 11))))
  | 14 => need (bits word 10 4 == 0) (.ok (.wscan (BitVec.ofNat 7 (bits word 24 18)) (BitVec.ofNat 7 (bits word 17 11))))
  | _ => .error .reserved

/-- Major 0x19 PRED (R117). Bits [10:7] are zero in every function, and so in a reserved one (R46). -/
def decodePred (word : Nat) : Except DecodeTrap Instr :=
  match bits word 3 0 with
  | 0 => need (bits word 24 21 == 0 && bits word 17 14 == 0 && bits word 10 7 == 0) (.ok (.pand (BitVec.ofNat 3 (bits word 20 18)) (BitVec.ofNat 3 (bits word 13 11)) (BitVec.ofNat 3 (bits word 6 4))))
  | 1 => need (bits word 24 21 == 0 && bits word 17 14 == 0 && bits word 10 7 == 0) (.ok (.por (BitVec.ofNat 3 (bits word 20 18)) (BitVec.ofNat 3 (bits word 13 11)) (BitVec.ofNat 3 (bits word 6 4))))
  | 2 => need (bits word 24 21 == 0 && bits word 17 14 == 0 && bits word 10 7 == 0) (.ok (.pxor (BitVec.ofNat 3 (bits word 20 18)) (BitVec.ofNat 3 (bits word 13 11)) (BitVec.ofNat 3 (bits word 6 4))))
  | 3 => need (bits word 24 21 == 0 && bits word 17 14 == 0 && bits word 10 7 == 0) (.ok (.pandn (BitVec.ofNat 3 (bits word 20 18)) (BitVec.ofNat 3 (bits word 13 11)) (BitVec.ofNat 3 (bits word 6 4))))
  | 4 => need (bits word 24 21 == 0 && bits word 17 14 == 0 && bits word 10 4 == 0) (.ok (.pnot (BitVec.ofNat 3 (bits word 20 18)) (BitVec.ofNat 3 (bits word 13 11))))
  | 5 => need (bits word 17 4 == 0) (.ok (.prdw (BitVec.ofNat 7 (bits word 24 18))))
  | 6 => need (bits word 24 18 == 0 && bits word 10 4 == 0) (.ok (.pwrw (BitVec.ofNat 7 (bits word 17 11))))
  | _ => need (bits word 10 7 == 0) (.error .reserved)

/-- Major 0x1A CVTPK (R80). -/
def decodeCvtpk (word : Nat) : Except DecodeTrap Instr :=
  match bits word 2 0 with
  | 0 => .ok (.pk2h (BitVec.ofNat 7 (bits word 24 18)) (BitVec.ofNat 7 (bits word 17 11)) (BitVec.ofNat 7 (bits word 10 4)) (bitAt word 3))
  | 1 => .ok (.pk2b (BitVec.ofNat 7 (bits word 24 18)) (BitVec.ofNat 7 (bits word 17 11)) (BitVec.ofNat 7 (bits word 10 4)) (bitAt word 3))
  | 2 => .ok (.pk4e4 (BitVec.ofNat 7 (bits word 24 18)) (BitVec.ofNat 7 (bits word 17 11)) (BitVec.ofNat 7 (bits word 10 4)) (bitAt word 3))
  | 3 => .ok (.pk4e5 (BitVec.ofNat 7 (bits word 24 18)) (BitVec.ofNat 7 (bits word 17 11)) (BitVec.ofNat 7 (bits word 10 4)) (bitAt word 3))
  | 4 => .ok (.pk8f (BitVec.ofNat 7 (bits word 24 18)) (BitVec.ofNat 7 (bits word 17 11)) (BitVec.ofNat 7 (bits word 10 4)) (bitAt word 3))
  | 5 => need (bits word 10 8 == 0 && bits word 3 3 == 0) ((UnpkTy.ofCode (bits word 7 4)).elim (.error .reserved) fun t => .ok (.unpklo (BitVec.ofNat 7 (bits word 24 18)) (BitVec.ofNat 7 (bits word 17 11)) t))
  | 6 => need (bits word 10 8 == 0 && bits word 3 3 == 0) ((UnpkTy.ofCode (bits word 7 4)).elim (.error .reserved) fun t => .ok (.unpkhi (BitVec.ofNat 7 (bits word 24 18)) (BitVec.ofNat 7 (bits word 17 11)) t))
  | _ => .error .reserved

/-- Major 0x1B SEL (R118). -/
def decodeSel (word : Nat) : Except DecodeTrap Instr :=
  need (bits word 0 0 == 0) (.ok (.sel (BitVec.ofNat 7 (bits word 24 18)) (BitVec.ofNat 7 (bits word 17 11)) (BitVec.ofNat 7 (bits word 10 4)) (BitVec.ofNat 3 (bits word 3 1))))

/-- Major 0x20 LD (R200). -/
def decodeLd (word : Nat) : Except DecodeTrap Instr :=
  ((Width.ofCode (bits word 6 5)).elim (.error .reserved) fun w => ((Scope.ofCode (bits word 3 2)).elim (.error .reserved) fun g => .ok (.ld (BitVec.ofNat 7 (bits word 24 18)) (BitVec.ofNat 7 (bits word 17 11)) (BitVec.ofNat 4 (bits word 10 7)) w (bitAt word 4) g (bitAt word 1) (bitAt word 0))))

/-- Major 0x21 ST (R200). -/
def decodeSt (word : Nat) : Except DecodeTrap Instr :=
  need (bits word 1 1 == 0) ((Width.ofCode (bits word 6 5)).elim (.error .reserved) fun w => ((Scope.ofCode (bits word 3 2)).elim (.error .reserved) fun g => .ok (.st (BitVec.ofNat 7 (bits word 24 18)) (BitVec.ofNat 7 (bits word 17 11)) (BitVec.ofNat 4 (bits word 10 7)) w (bitAt word 4) g (bitAt word 0))))

/-- Major 0x22 SPM (R202). -/
def decodeSpm (word : Nat) : Except DecodeTrap Instr :=
  match bits word 4 3 with
  | 0 => need (bits word 2 2 == 0 && bits word 0 0 == 0) ((Width.ofCode (bits word 6 5)).elim (.error .reserved) fun w => .ok (.lds (BitVec.ofNat 7 (bits word 24 18)) (BitVec.ofNat 7 (bits word 17 11)) (BitVec.ofNat 4 (bits word 10 7)) w (bitAt word 1)))
  | 1 => need (bits word 2 0 == 0) ((Width.ofCode (bits word 6 5)).elim (.error .reserved) fun w => .ok (.sts (BitVec.ofNat 7 (bits word 24 18)) (BitVec.ofNat 7 (bits word 17 11)) (BitVec.ofNat 4 (bits word 10 7)) w))
  | _ => need (bits word 2 2 == 0 && bits word 0 0 == 0) (.error .reserved)

/-- Major 0x23 LPV (R204). -/
def decodeLpv (word : Nat) : Except DecodeTrap Instr :=
  match bits word 4 3 with
  | 0 => need (bits word 2 2 == 0 && bits word 0 0 == 0) ((Width.ofCode (bits word 6 5)).elim (.error .reserved) fun w => .ok (.ldp (BitVec.ofNat 7 (bits word 24 18)) (BitVec.ofNat 7 (bits word 17 11)) (BitVec.ofNat 4 (bits word 10 7)) w (bitAt word 1)))
  | 1 => need (bits word 2 0 == 0) ((Width.ofCode (bits word 6 5)).elim (.error .reserved) fun w => .ok (.stp (BitVec.ofNat 7 (bits word 24 18)) (BitVec.ofNat 7 (bits word 17 11)) (BitVec.ofNat 4 (bits word 10 7)) w))
  | _ => need (bits word 2 2 == 0 && bits word 0 0 == 0) (.error .reserved)

/-- Major 0x24 RMT (R210). -/
def decodeRmt (word : Nat) : Except DecodeTrap Instr :=
  match bits word 1 0 with
  | 0 => .ok (.rld (BitVec.ofNat 7 (bits word 24 18)) (BitVec.ofNat 7 (bits word 17 11)) (BitVec.ofNat 7 (bits word 10 4)) (BitVec.ofNat 2 (bits word 3 2)))
  | 1 => .ok (.rst (BitVec.ofNat 7 (bits word 24 18)) (BitVec.ofNat 7 (bits word 17 11)) (BitVec.ofNat 7 (bits word 10 4)) (BitVec.ofNat 2 (bits word 3 2)))
  | 2 => need (bits word 10 4 == 0) (.ok (.mcst (BitVec.ofNat 7 (bits word 24 18)) (BitVec.ofNat 7 (bits word 17 11)) (BitVec.ofNat 2 (bits word 3 2))))
  | _ => .error .reserved

/-- Major 0x25 ATOM (R205). -/
def decodeAtom (word : Nat) : Except DecodeTrap Instr :=
  ((AWidth.ofCode (bits word 6 5)).elim (.error .illegal) fun w => ((AtomOp.ofCode (bits word 4 1)).elim (.error .reserved) fun o => .ok (.atom (BitVec.ofNat 7 (bits word 24 18)) (BitVec.ofNat 7 (bits word 17 11)) (BitVec.ofNat 4 (bits word 10 7)) w o (bitAt word 0))))

/-- Major 0x26 ATOMS (R209). -/
def decodeAtoms (word : Nat) : Except DecodeTrap Instr :=
  if 14 ≤ bits word 4 1 then .error .reserved
  else ((AWidth.ofCode (bits word 6 5)).elim (.error .illegal) fun w => ((AtomOp.ofCode (bits word 4 1)).elim (.error .reserved) fun o => .ok (.atoms (BitVec.ofNat 7 (bits word 24 18)) (BitVec.ofNat 7 (bits word 17 11)) (BitVec.ofNat 4 (bits word 10 7)) w o (bitAt word 0))))

/-- Major 0x27 MEMX (R216). Bit [4] is zero in every function, and so in a reserved one (R46). -/
def decodeMemx (word : Nat) : Except DecodeTrap Instr :=
  match bits word 3 0 with
  | 0 => need (bits word 6 4 == 0) (.ok (.mcas (BitVec.ofNat 7 (bits word 24 18)) (BitVec.ofNat 7 (bits word 17 11)) (BitVec.ofNat 4 (bits word 10 7))))
  | 1 => need (bits word 19 4 == 0) ((FScope.ofCode (bits word 24 22)).elim (.error .reserved) fun s => ((FKind.ofCode (bits word 21 20)).elim (.error .reserved) fun k => .ok (.fence s k)))
  | 2 => need (bits word 24 18 == 0 && bits word 4 4 == 0) ((PLevel.ofCode (bits word 6 5)).elim (.error .reserved) fun l => .ok (.pref (BitVec.ofNat 7 (bits word 17 11)) (BitVec.ofNat 4 (bits word 10 7)) l))
  | 3 => need (bits word 24 18 == 0 && bits word 6 4 == 0) (.ok (.clean (BitVec.ofNat 7 (bits word 17 11)) (BitVec.ofNat 4 (bits word 10 7))))
  | 4 => need (bits word 24 18 == 0 && bits word 6 4 == 0) (.ok (.invs (BitVec.ofNat 7 (bits word 17 11)) (BitVec.ofNat 4 (bits word 10 7))))
  | _ => need (bits word 4 4 == 0) (.error .reserved)

/-- Major 0x28 QSTR (R226). -/
def decodeQstr (word : Nat) : Except DecodeTrap Instr :=
  match bits word 3 0 with
  | 0 => need (bits word 24 18 == 0 && bits word 8 4 == 0) (.ok (.qld (BitVec.ofNat 7 (bits word 17 11)) (BitVec.ofNat 2 (bits word 10 9))))
  | 1 => need (bits word 24 18 == 0 && bits word 8 4 == 0) (.ok (.qst (BitVec.ofNat 7 (bits word 17 11)) (BitVec.ofNat 2 (bits word 10 9))))
  | 2 => need (bits word 24 11 == 0 && bits word 8 4 == 0) (.ok (.qstop (BitVec.ofNat 2 (bits word 10 9))))
  | 3 => need (bits word 17 11 == 0 && bits word 8 4 == 0) (.ok (.qstat (BitVec.ofNat 7 (bits word 24 18)) (BitVec.ofNat 2 (bits word 10 9))))
  | _ => need (bits word 8 4 == 0) (.error .reserved)

/-- Major 0x29 CPY (R233). -/
def decodeCpy (word : Nat) : Except DecodeTrap Instr :=
  match bits word 3 0 with
  | 0 => need (bits word 17 5 == 0) (.ok (.cpy (BitVec.ofNat 7 (bits word 24 18)) (bitAt word 4)))
  | 1 => need (bits word 17 5 == 0) (.ok (.cpyt (BitVec.ofNat 7 (bits word 24 18)) (bitAt word 4)))
  | 2 => need (bits word 10 5 == 0) (.ok (.cpyg (BitVec.ofNat 7 (bits word 24 18)) (BitVec.ofNat 7 (bits word 17 11)) (bitAt word 4)))
  | 3 => need (bits word 17 5 == 0) (.ok (.cpyp (BitVec.ofNat 7 (bits word 24 18)) (bitAt word 4)))
  | 4 => need (bits word 17 5 == 0) (.ok (.cpym (BitVec.ofNat 7 (bits word 24 18)) (bitAt word 4)))
  | 5 => need (bits word 17 5 == 0) (.ok (.cpys (BitVec.ofNat 7 (bits word 24 18)) (bitAt word 4)))
  | 6 => need (bits word 17 5 == 0) (.ok (.cpyb (BitVec.ofNat 7 (bits word 24 18)) (bitAt word 4)))
  | _ => need (bits word 10 5 == 0) (.error .reserved)

/-- Major 0x2A CB (R254). -/
def decodeCb (word : Nat) : Except DecodeTrap Instr :=
  match bits word 2 0 with
  | 0 => need (bits word 24 18 == 0 && bits word 10 7 == 0) (.ok (.cbcfg (BitVec.ofNat 7 (bits word 17 11)) (BitVec.ofNat 4 (bits word 6 3))))
  | 1 => need (bits word 24 7 == 0) (.ok (.cbcom (BitVec.ofNat 4 (bits word 6 3))))
  | 2 => need (bits word 24 7 == 0) (.ok (.cbrel (BitVec.ofNat 4 (bits word 6 3))))
  | 3 => need (bits word 17 7 == 0) (.ok (.cbqry (BitVec.ofNat 7 (bits word 24 18)) (BitVec.ofNat 4 (bits word 6 3))))
  | _ => need (bits word 10 7 == 0) (.error .reserved)

/-- Major 0x2B BAR (R246). -/
def decodeBar (word : Nat) : Except DecodeTrap Instr :=
  match bits word 3 0 with
  | 0 => need (bits word 23 18 == 0) (.ok (.binit (bitAt word 24) (BitVec.ofNat 7 (bits word 17 11)) (BitVec.ofNat 7 (bits word 10 4))))
  | 1 => need (bits word 23 18 == 0 && bits word 10 4 == 0) (.ok (.barv (bitAt word 24) (BitVec.ofNat 7 (bits word 17 11))))
  | 2 => need (bits word 23 18 == 0) (.ok (.bexp (bitAt word 24) (BitVec.ofNat 7 (bits word 17 11)) (BitVec.ofNat 7 (bits word 10 4))))
  | 3 => need (bits word 23 18 == 0) (.ok (.bwait (bitAt word 24) (BitVec.ofNat 7 (bits word 17 11)) (BitVec.ofNat 7 (bits word 10 4))))
  | 4 => need (bits word 23 21 == 0) (.ok (.btest (bitAt word 24) (BitVec.ofNat 3 (bits word 20 18)) (BitVec.ofNat 7 (bits word 17 11)) (BitVec.ofNat 7 (bits word 10 4))))
  | _ => need (bits word 23 21 == 0) (.error .reserved)

/-- Major 0x2C ORD (R262). -/
def decodeOrd (word : Nat) : Except DecodeTrap Instr :=
  match bits word 3 0 with
  | 0 => .ok (.oent (BitVec.ofNat 7 (bits word 24 18)) (BitVec.ofNat 7 (bits word 17 11)) (BitVec.ofNat 7 (bits word 10 4)))
  | 1 => need (bits word 24 18 == 0 && bits word 10 4 == 0) (.ok (.oleave (BitVec.ofNat 7 (bits word 17 11))))
  | 2 => need (bits word 24 18 == 0) (.ok (.oskip (BitVec.ofNat 7 (bits word 17 11)) (BitVec.ofNat 7 (bits word 10 4))))
  | 3 => need (bits word 10 4 == 0) (.ok (.oqry (BitVec.ofNat 7 (bits word 24 18)) (BitVec.ofNat 7 (bits word 17 11))))
  | _ => .error .reserved

/-- Major 0x30 MMA (R129). A word with a reserved FMT reports 0x03, unless it sets both MX and TV, which R131 gives the lower 0x01; R46 names
only must-be-zero fields beside a reserved code (DESIGN CHOICE, log 54). -/
def decodeMma (word : Nat) : Except DecodeTrap Instr :=
  need (bits word 4 4 == 0) ((MmaFmt.ofCode (bits word 8 5)).elim (need (!(bitAt word 3 && bitAt word 2)) (.error .reserved)) fun f => .ok (.mma (BitVec.ofNat 5 (bits word 24 20)) (BitVec.ofNat 7 (bits word 19 13)) (BitVec.ofNat 4 (bits word 12 9)) f (bitAt word 3) (bitAt word 2) (bitAt word 1) (bitAt word 0)))

/-- Major 0x31 MMAC (R130). A word with a reserved FMT reports 0x03, also where its q would be out of range, since the range of q is that of the
format (R131; DESIGN CHOICE, log 54). -/
def decodeMmac (word : Nat) : Except DecodeTrap Instr :=
  need (bits word 2 2 == 0) ((MmacFmt.ofCode (bits word 8 5)).elim (.error .reserved) fun f => .ok (.mmac (BitVec.ofNat 5 (bits word 24 20)) (BitVec.ofNat 5 (bits word 19 15)) (BitVec.ofNat 2 (bits word 14 13)) (BitVec.ofNat 4 (bits word 12 9)) f (bitAt word 4) (bitAt word 3) (bitAt word 1) (bitAt word 0)))

/-- Major 0x32 ZOP (R139). A ZDRAIN whose DST code is the reserved one reports 0x03 even when its slab count code or its A breaks a limit
too, which R46 does not settle: a field with a reserved code is taken to have no limit beside it (DESIGN CHOICE, log 54). -/
def decodeZop (word : Nat) : Except DecodeTrap Instr :=
  match bits word 3 0 with
  | 0 => need (bits word 17 4 == 0) ((SlabCnt.ofCode (bits word 19 18)).elim (.error .illegal) fun s => .ok (.zclr (BitVec.ofNat 5 (bits word 24 20)) s))
  | 1 => need (bits word 10 4 == 0) ((SlabCnt.ofCode (bits word 19 18)).elim (.error .illegal) fun s => .ok (.zld (BitVec.ofNat 5 (bits word 24 20)) s (BitVec.ofNat 7 (bits word 17 11))))
  | 2 => need (bits word 10 4 == 0) ((SlabCnt.ofCode (bits word 19 18)).elim (.error .illegal) fun s => .ok (.zst (BitVec.ofNat 5 (bits word 24 20)) s (BitVec.ofNat 7 (bits word 17 11))))
  | 3 => need (bits word 7 4 == 0) ((Dst.ofCode (bits word 10 9)).elim (.error .reserved) fun t => ((SlabCnt.ofCode (bits word 19 18)).elim (.error .illegal) fun s => .ok (.zdrain (BitVec.ofNat 5 (bits word 24 20)) s (BitVec.ofNat 7 (bits word 17 11)) t (bitAt word 8))))
  | 4 => need (bits word 24 4 == 0) (.ok (.opfence))
  | 5 => need (bits word 24 18 == 0 && bits word 10 4 == 0) (.ok (.episel (BitVec.ofNat 7 (bits word 17 11))))
  | _ => need (bits word 7 4 == 0) (.error .reserved)

/-- Major 0x33 GFX (R304). -/
def decodeGfx (word : Nat) : Except DecodeTrap Instr :=
  match bits word 3 0 with
  | 0 => need (bits word 24 18 == 0 && bits word 10 4 == 0) (.ok (.prim (BitVec.ofNat 7 (bits word 17 11))))
  | 1 => need (bits word 24 18 == 0) (.ok (.fexp (BitVec.ofNat 7 (bits word 17 11)) (BitVec.ofNat 7 (bits word 10 4))))
  | 2 => need (bits word 9 7 == 0) (.ok (.attr (BitVec.ofNat 7 (bits word 24 18)) (BitVec.ofNat 7 (bits word 17 11)) (bitAt word 10) (BitVec.ofNat 3 (bits word 6 4))))
  | 3 => need (bits word 24 4 == 0) (.ok (.fdisc))
  | 4 => need (bits word 24 18 == 0) (.ok (.srfset (BitVec.ofNat 7 (bits word 17 11)) (BitVec.ofNat 7 (bits word 10 4))))
  | 5 => need (bits word 10 4 == 0) (.ok (.srfqry (BitVec.ofNat 7 (bits word 24 18)) (BitVec.ofNat 7 (bits word 17 11))))
  | 6 => .ok (.srfld (BitVec.ofNat 7 (bits word 24 18)) (BitVec.ofNat 7 (bits word 17 11)) (BitVec.ofNat 7 (bits word 10 4)))
  | 7 => .ok (.srfst (BitVec.ofNat 7 (bits word 24 18)) (BitVec.ofNat 7 (bits word 17 11)) (BitVec.ofNat 7 (bits word 10 4)))
  | _ => .error .reserved

/-- Major 0x34 TEX (R309). -/
def decodeTex (word : Nat) : Except DecodeTrap Instr :=
  match bits word 3 0 with
  | 0 => .ok (.tex2 (BitVec.ofNat 7 (bits word 24 18)) (BitVec.ofNat 7 (bits word 17 11)) (BitVec.ofNat 7 (bits word 10 4)))
  | _ => .error .reserved

/-- Major 0x35 PLOT (R314). -/
def decodePlot (word : Nat) : Except DecodeTrap Instr :=
  match bits word 3 0 with
  | 0 => need (bits word 24 18 == 0 && bits word 10 4 == 0) (.ok (.plot (BitVec.ofNat 7 (bits word 17 11))))
  | 1 => need (bits word 10 4 == 0) (.ok (.bka (BitVec.ofNat 7 (bits word 24 18)) (BitVec.ofNat 7 (bits word 17 11))))
  | 2 => need (bits word 10 5 == 0) (.ok (.bkt (BitVec.ofNat 7 (bits word 24 18)) (BitVec.ofNat 7 (bits word 17 11)) (bitAt word 4)))
  | 3 => need (bits word 10 4 == 0) (.ok (.bks (BitVec.ofNat 7 (bits word 24 18)) (BitVec.ofNat 7 (bits word 17 11))))
  | 4 => need (bits word 24 18 == 0 && bits word 10 4 == 0) (.ok (.bkf (BitVec.ofNat 7 (bits word 17 11))))
  | _ => need (bits word 10 5 == 0) (.error .reserved)

/-- Major 0x36 SYS (R362). -/
def decodeSys (word : Nat) : Except DecodeTrap Instr :=
  match bits word 3 0 with
  | 0 => need (bits word 10 4 == 0) (.ok (.launch (BitVec.ofNat 7 (bits word 24 18)) (BitVec.ofNat 7 (bits word 17 11))))
  | 1 => need (bits word 24 18 == 0) (.ok (.tlbinv (BitVec.ofNat 7 (bits word 17 11)) (BitVec.ofNat 7 (bits word 10 4))))
  | 2 => need (bits word 24 18 == 0) (.ok (.keyld (BitVec.ofNat 7 (bits word 17 11)) (BitVec.ofNat 7 (bits word 10 4))))
  | _ => .error .reserved

/-- The fields of a word as an instruction, before the numeric limits of its fields are checked (R44 to R46). -/
def decodeFields (w : Nat) : Except DecodeTrap Instr :=
  match bits w 30 25 with
  | 0x00 => decodeCtl w
  | 0x01 => decodeBr w
  | 0x02 => decodeJmp w
  | 0x03 => decodeLoop w
  | 0x04 => decodeRep w
  | 0x05 => decodeWait w
  | 0x06 => decodeTrap w
  | 0x07 => decodeFib w
  | 0x08 => decodeSalu w
  | 0x09 => decodeSalui w
  | 0x0A => decodeScmp w
  | 0x0B => decodeCsr w
  | 0x0C => decodeIalu w
  | 0x0D => decodeIalui w
  | 0x0E => decodeImisc w
  | 0x0F => decodeIcmp w
  | 0x10 => decodeFalu w
  | 0x11 => decodeFalu2 w
  | 0x12 => decodeFmisc w
  | 0x13 => decodeFcmp w
  | 0x14 => decodePkf w
  | 0x15 => decodeDot w
  | 0x16 => decodeCvt w
  | 0x17 => decodeSfu w
  | 0x18 => decodeXlane w
  | 0x19 => decodePred w
  | 0x1A => decodeCvtpk w
  | 0x1B => decodeSel w
  | 0x20 => decodeLd w
  | 0x21 => decodeSt w
  | 0x22 => decodeSpm w
  | 0x23 => decodeLpv w
  | 0x24 => decodeRmt w
  | 0x25 => decodeAtom w
  | 0x26 => decodeAtoms w
  | 0x27 => decodeMemx w
  | 0x28 => decodeQstr w
  | 0x29 => decodeCpy w
  | 0x2A => decodeCb w
  | 0x2B => decodeBar w
  | 0x2C => decodeOrd w
  | 0x30 => decodeMma w
  | 0x31 => decodeMmac w
  | 0x32 => decodeZop w
  | 0x33 => decodeGfx w
  | 0x34 => decodeTex w
  | 0x35 => decodePlot w
  | 0x36 => decodeSys w
  | _ => .error .reserved

/-- The instruction of a word, or the decode cause that rejects it (R46). -/
def decode (w : Nat) : Except DecodeTrap Instr :=
  match decodeFields w with
  | .ok i => if i.wf then .ok i else .error .illegal
  | .error e => .error e

/-- The chain bit of a word (R16, R19). -/
def chainBit (w : Nat) : Bool := bitAt w 31

/-- A word of a reserved major: it belongs to no pipe (R21, R49). -/
def reservedMajor (w : Nat) : Bool :=
  let m := bits w 30 25
  (0x1C ≤ m && m ≤ 0x1F) || (0x2D ≤ m && m ≤ 0x2F) || 0x37 ≤ m

/-- Four bytes as a word, the first at the lowest address (R16). -/
def wordOfBytes : List Byte → Nat
  | [] => 0
  | b :: bs => b.toNat + 256 * wordOfBytes bs

/-- The bytes of a word as memory holds it (R16). -/
def bytesOfWord (w : Nat) : Nat → List Byte
  | 0 => []
  | n + 1 => BitVec.ofNat 8 w :: bytesOfWord (w / 256) n

/-- The instruction at the head of a list of bytes. -/
def decodeBytes (bs : List Byte) : Option Instr :=
  match decode (wordOfBytes (bs.take 4)) with
  | .ok i => some i
  | .error _ => none

/-- The instruction that the decoder reads from a row of the opcode table whose bits are `w`. -/
def decodeTableWord (nbits w : Nat) : Option Instr :=
  if nbits = 32 then decodeBytes (bytesOfWord w 4) else none

/-! ## The encoder -/

/-- A truth value as a bit. -/
def bit (b : Bool) : Nat := if b then 1 else 0

/-- A word of format A3, and of the AM and own layouts with its fields (R25). -/
def a3 (m d a b f : Nat) : Nat := m * 2 ^ 25 + d * 2 ^ 18 + a * 2 ^ 11 + b * 2 ^ 4 + f

/-- A word of format AI (R25). -/
def ai (m d a i f : Nat) : Nat := m * 2 ^ 25 + d * 2 ^ 18 + a * 2 ^ 11 + i * 2 ^ 3 + f

/-- A word of format M (R25). -/
def mf (m d a s w f : Nat) : Nat := m * 2 ^ 25 + d * 2 ^ 18 + a * 2 ^ 11 + s * 2 ^ 7 + w * 2 ^ 5 + f

/-- A word of format B (R25). -/
def bf (k p n d : Nat) : Nat := 0x01 * 2 ^ 25 + k * 2 ^ 22 + p * 2 ^ 19 + n * 2 ^ 18 + d * 2 ^ 10

/-- A word of format X (R25). -/
def xf (m z a b f l : Nat) : Nat := m * 2 ^ 25 + z * 2 ^ 20 + a * 2 ^ 13 + b * 2 ^ 9 + f * 2 ^ 5 + l

/-- A word of the ZOP layout (R139). -/
def zf (z s a t l f : Nat) : Nat := 0x32 * 2 ^ 25 + z * 2 ^ 20 + s * 2 ^ 18 + a * 2 ^ 11 + t * 2 ^ 9 + l * 2 ^ 8 + f

/-- A LOOPI word, or a LOOPS word with its register one bit up (R25). -/
def lf (n e f : Nat) : Nat := 0x03 * 2 ^ 25 + n * 2 ^ 17 + e * 2 ^ 9 + f

/-- A REP word (R25). -/
def pf (n x y z s : Nat) : Nat := 0x04 * 2 ^ 25 + n * 2 ^ 19 + x * 2 ^ 18 + y * 2 ^ 17 + z * 2 ^ 16 + s * 2 ^ 14

/-- A WAIT word (R25). -/
def wf (l s c t : Nat) : Nat := 0x05 * 2 ^ 25 + l * 2 ^ 19 + s * 2 ^ 13 + c * 2 ^ 7 + t * 2

/-- A CVT word (R73). -/
def cf (d a e f r s : Nat) : Nat := 0x16 * 2 ^ 25 + d * 2 ^ 18 + a * 2 ^ 11 + e * 2 ^ 7 + f * 2 ^ 3 + r * 2 + s

/-- The word of an instruction with C = 0 (R25); a step of the device has no word and gives 0. -/
def encode : Instr → Nat
  | .nop => a3 0x00 0 0 0 0
  | .halt => a3 0x00 0 0 0 1
  | .exit => a3 0x00 0 0 0 2
  | .yield => a3 0x00 0 0 0 3
  | .conv => a3 0x00 0 0 0 4
  | .tret => a3 0x00 0 0 0 5
  | .brk => a3 0x00 0 0 0 6
  | .bra d => bf 0 0 0 d.toNat
  | .br p n d => bf 1 p.toNat (bit n) d.toNat
  | .brall p n d => bf 2 p.toNat (bit n) d.toNat
  | .brany p n d => bf 3 p.toNat (bit n) d.toNat
  | .jmps a => ai 0x02 0 a.toNat 0 0
  | .jmpv a => ai 0x02 0 a.toNat 0 1
  | .call d k i => ai 0x02 d.toNat k.toNat i.toNat 2
  | .callv d a k => ai 0x02 d.toNat a.toNat k.toNat 3
  | .ret a => ai 0x02 0 a.toNat 0 4
  | .loopi n e => lf n.toNat e.toNat 0
  | .loops s e => lf (s.toNat * 2) e.toNat 1
  | .lbrk => lf 0 0 2
  | .rep n x y z s => pf n.toNat (bit x) (bit y) (bit z) s.toNat
  | .wait l s p t => wf l.toNat s.toNat p.toNat t.toNat
  | .trap k => 0x06 * 2 ^ 25 + k.toNat * 2 ^ 17
  | .spawn d a i => ai 0x07 d.toNat a.toNat i.toNat 0
  | .spawnp d a i => ai 0x07 d.toNat a.toNat i.toNat 1
  | .regroup a i => ai 0x07 0 a.toNat i.toNat 2
  | .flushrg => ai 0x07 0 0 0 3
  | .fibrd d i => ai 0x07 d.toNat 0 i.toNat 4
  | .fibwr a i => ai 0x07 0 a.toNat i.toNat 5
  | .sadd d a b => a3 0x08 d.toNat a.toNat b.toNat 0
  | .ssub d a b => a3 0x08 d.toNat a.toNat b.toNat 1
  | .smul d a b => a3 0x08 d.toNat a.toNat b.toNat 2
  | .smulh d a b => a3 0x08 d.toNat a.toNat b.toNat 3
  | .sand d a b => a3 0x08 d.toNat a.toNat b.toNat 4
  | .sor d a b => a3 0x08 d.toNat a.toNat b.toNat 5
  | .sxor d a b => a3 0x08 d.toNat a.toNat b.toNat 6
  | .sshl d a b => a3 0x08 d.toNat a.toNat b.toNat 7
  | .sshr d a b => a3 0x08 d.toNat a.toNat b.toNat 8
  | .ssra d a b => a3 0x08 d.toNat a.toNat b.toNat 9
  | .smin d a b => a3 0x08 d.toNat a.toNat b.toNat 10
  | .smax d a b => a3 0x08 d.toNat a.toNat b.toNat 11
  | .sminu d a b => a3 0x08 d.toNat a.toNat b.toNat 12
  | .smaxu d a b => a3 0x08 d.toNat a.toNat b.toNat 13
  | .smov d a => a3 0x08 d.toNat a.toNat 0 14
  | .saddi d a i => ai 0x09 d.toNat a.toNat i.toNat 0
  | .sandi d a i => ai 0x09 d.toNat a.toNat i.toNat 1
  | .sori d a i => ai 0x09 d.toNat a.toNat i.toNat 2
  | .sxori d a i => ai 0x09 d.toNat a.toNat i.toNat 3
  | .sshli d a i => ai 0x09 d.toNat a.toNat i.toNat 4
  | .sshri d a i => ai 0x09 d.toNat a.toNat i.toNat 5
  | .ssrai d a i => ai 0x09 d.toNat a.toNat i.toNat 6
  | .sbyte d a i => ai 0x09 d.toNat a.toNat i.toNat 7
  | .scmp p a b k => a3 0x0A p.toNat a.toNat b.toNat k.code
  | .csrr d i => ai 0x0B d.toNat 0 i.toNat 0
  | .csrw a i => ai 0x0B 0 a.toNat i.toNat 1
  | .spr d i => ai 0x0B d.toNat 0 i.toNat 2
  | .rdlane d a i => ai 0x0B d.toNat a.toNat i.toNat 3
  | .movs d a => ai 0x0B d.toNat a.toNat 0 4
  | .iadd d a b => a3 0x0C d.toNat a.toNat b.toNat 0
  | .isub d a b => a3 0x0C d.toNat a.toNat b.toNat 1
  | .imul d a b => a3 0x0C d.toNat a.toNat b.toNat 2
  | .imulh d a b => a3 0x0C d.toNat a.toNat b.toNat 3
  | .imulhu d a b => a3 0x0C d.toNat a.toNat b.toNat 4
  | .iand d a b => a3 0x0C d.toNat a.toNat b.toNat 5
  | .ior d a b => a3 0x0C d.toNat a.toNat b.toNat 6
  | .ixor d a b => a3 0x0C d.toNat a.toNat b.toNat 7
  | .andn d a b => a3 0x0C d.toNat a.toNat b.toNat 8
  | .shl d a b => a3 0x0C d.toNat a.toNat b.toNat 9
  | .shr d a b => a3 0x0C d.toNat a.toNat b.toNat 10
  | .sra d a b => a3 0x0C d.toNat a.toNat b.toNat 11
  | .imin d a b => a3 0x0C d.toNat a.toNat b.toNat 12
  | .imax d a b => a3 0x0C d.toNat a.toNat b.toNat 13
  | .iminu d a b => a3 0x0C d.toNat a.toNat b.toNat 14
  | .imaxu d a b => a3 0x0C d.toNat a.toNat b.toNat 15
  | .iaddi d a i => ai 0x0D d.toNat a.toNat i.toNat 0
  | .andi d a i => ai 0x0D d.toNat a.toNat i.toNat 1
  | .ori d a i => ai 0x0D d.toNat a.toNat i.toNat 2
  | .xori d a i => ai 0x0D d.toNat a.toNat i.toNat 3
  | .shli d a i => ai 0x0D d.toNat a.toNat i.toNat 4
  | .shri d a i => ai 0x0D d.toNat a.toNat i.toNat 5
  | .srai d a i => ai 0x0D d.toNat a.toNat i.toNat 6
  | .movi d i => ai 0x0D d.toNat 0 i.toNat 7
  | .iabs d a => a3 0x0E d.toNat a.toNat 0 0
  | .ineg d a => a3 0x0E d.toNat a.toNat 0 1
  | .inot d a => a3 0x0E d.toNat a.toNat 0 2
  | .popc d a => a3 0x0E d.toNat a.toNat 0 3
  | .clz d a => a3 0x0E d.toNat a.toNat 0 4
  | .brev d a => a3 0x0E d.toNat a.toNat 0 5
  | .bfe d a b => a3 0x0E d.toNat a.toNat b.toNat 6
  | .bfeu d a b => a3 0x0E d.toNat a.toNat b.toNat 7
  | .bfi d a b => a3 0x0E d.toNat a.toNat b.toNat 8
  | .imad d a b => a3 0x0E d.toNat a.toNat b.toNat 9
  | .idiv d a b => a3 0x0E d.toNat a.toNat b.toNat 10
  | .idivu d a b => a3 0x0E d.toNat a.toNat b.toNat 11
  | .irem d a b => a3 0x0E d.toNat a.toNat b.toNat 12
  | .iremu d a b => a3 0x0E d.toNat a.toNat b.toNat 13
  | .iadds d a b => a3 0x0E d.toNat a.toNat b.toNat 14
  | .isubs d a b => a3 0x0E d.toNat a.toNat b.toNat 15
  | .icmp p a b k => a3 0x0F p.toNat a.toNat b.toNat k.code
  | .fadd d a b r => a3 0x10 d.toNat a.toNat b.toNat (r.code * 4)
  | .fsub d a b r => a3 0x10 d.toNat a.toNat b.toNat (r.code * 4 + 1)
  | .fmul d a b r => a3 0x10 d.toNat a.toNat b.toNat (r.code * 4 + 2)
  | .ffma d a b r => a3 0x10 d.toNat a.toNat b.toNat (r.code * 4 + 3)
  | .fmin d a b => a3 0x11 d.toNat a.toNat b.toNat 0
  | .fmax d a b => a3 0x11 d.toNat a.toNat b.toNat 1
  | .fminm d a b => a3 0x11 d.toNat a.toNat b.toNat 2
  | .fmaxm d a b => a3 0x11 d.toNat a.toNat b.toNat 3
  | .fcpys d a b => a3 0x11 d.toNat a.toNat b.toNat 4
  | .fscale d a b => a3 0x11 d.toNat a.toNat b.toNat 5
  | .fabs d a => a3 0x12 d.toNat a.toNat 0 0
  | .fneg d a => a3 0x12 d.toNat a.toNat 1 0
  | .fclass d a => a3 0x12 d.toNat a.toNat 2 0
  | .frnd d a x r => a3 0x12 d.toNat a.toNat (bit x * 64 + r.code * 16 + 3) 0
  | .fsat d a => a3 0x12 d.toNat a.toNat 4 0
  | .fgete d a => a3 0x12 d.toNat a.toNat 5 0
  | .fgetm d a => a3 0x12 d.toNat a.toNat 6 0
  | .fcmp p a b k => a3 0x13 p.toNat a.toNat b.toNat k.code
  | .hadd2 d a b t => a3 0x14 d.toNat a.toNat b.toNat (t.code * 8)
  | .hsub2 d a b t => a3 0x14 d.toNat a.toNat b.toNat (t.code * 8 + 1)
  | .hmul2 d a b t => a3 0x14 d.toNat a.toNat b.toNat (t.code * 8 + 2)
  | .hfma2 d a b t => a3 0x14 d.toNat a.toNat b.toNat (t.code * 8 + 3)
  | .hmin2 d a b t => a3 0x14 d.toNat a.toNat b.toNat (t.code * 8 + 4)
  | .hmax2 d a b t => a3 0x14 d.toNat a.toNat b.toNat (t.code * 8 + 5)
  | .dot2h d a b => a3 0x15 d.toNat a.toNat b.toNat 0
  | .dot2b d a b => a3 0x15 d.toNat a.toNat b.toNat 1
  | .dot4e4 d a b => a3 0x15 d.toNat a.toNat b.toNat 2
  | .dot4e5 d a b => a3 0x15 d.toNat a.toNat b.toNat 3
  | .dot4i d a b => a3 0x15 d.toNat a.toNat b.toNat 4
  | .dot4in d a b => a3 0x15 d.toNat a.toNat b.toNat 5
  | .dot8f d a b => a3 0x15 d.toNat a.toNat b.toNat 6
  | .dot4s d a b => a3 0x15 d.toNat a.toNat b.toNat 7
  | .cvt d a e f r s => cf d.toNat a.toNat e.code f.code r.code (bit s)
  | .rcp d a => a3 0x17 d.toNat a.toNat 0 0
  | .rsq d a => a3 0x17 d.toNat a.toNat 0 1
  | .sqrt d a => a3 0x17 d.toNat a.toNat 0 2
  | .exp2 d a => a3 0x17 d.toNat a.toNat 0 3
  | .log2 d a => a3 0x17 d.toNat a.toNat 0 4
  | .sin d a => a3 0x17 d.toNat a.toNat 0 5
  | .cos d a => a3 0x17 d.toNat a.toNat 0 6
  | .tanh d a => a3 0x17 d.toNat a.toNat 0 7
  | .shfli d a b => a3 0x18 d.toNat a.toNat b.toNat 0
  | .shflu d a i => a3 0x18 d.toNat a.toNat i.toNat 1
  | .shfld d a i => a3 0x18 d.toNat a.toNat i.toNat 2
  | .shflx d a i => a3 0x18 d.toNat a.toNat i.toNat 3
  | .bcast d a i => a3 0x18 d.toNat a.toNat i.toNat 4
  | .voteany d a => a3 0x18 d.toNat a.toNat 0 5
  | .voteall d a => a3 0x18 d.toNat a.toNat 0 6
  | .ballot d a => a3 0x18 d.toNat a.toNat 0 7
  | .matchv d a => a3 0x18 d.toNat a.toNat 0 8
  | .wredadd d a => a3 0x18 d.toNat a.toNat 0 9
  | .wredfadd d a => a3 0x18 d.toNat a.toNat 0 10
  | .wredmin d a => a3 0x18 d.toNat a.toNat 0 11
  | .wredmax d a => a3 0x18 d.toNat a.toNat 0 12
  | .wredfmax d a => a3 0x18 d.toNat a.toNat 0 13
  | .wscan d a => a3 0x18 d.toNat a.toNat 0 14
  | .pand d a b => a3 0x19 d.toNat a.toNat b.toNat 0
  | .por d a b => a3 0x19 d.toNat a.toNat b.toNat 1
  | .pxor d a b => a3 0x19 d.toNat a.toNat b.toNat 2
  | .pandn d a b => a3 0x19 d.toNat a.toNat b.toNat 3
  | .pnot d a => a3 0x19 d.toNat a.toNat 0 4
  | .prdw d => a3 0x19 d.toNat 0 0 5
  | .pwrw a => a3 0x19 0 a.toNat 0 6
  | .pk2h d a b s => a3 0x1A d.toNat a.toNat b.toNat (bit s * 8)
  | .pk2b d a b s => a3 0x1A d.toNat a.toNat b.toNat (bit s * 8 + 1)
  | .pk4e4 d a b s => a3 0x1A d.toNat a.toNat b.toNat (bit s * 8 + 2)
  | .pk4e5 d a b s => a3 0x1A d.toNat a.toNat b.toNat (bit s * 8 + 3)
  | .pk8f d a b s => a3 0x1A d.toNat a.toNat b.toNat (bit s * 8 + 4)
  | .unpklo d a t => a3 0x1A d.toNat a.toNat t.code 5
  | .unpkhi d a t => a3 0x1A d.toNat a.toNat t.code 6
  | .sel d a b p => a3 0x1B d.toNat a.toNat b.toNat (p.toNat * 2)
  | .ld d a s w q g x m => mf 0x20 d.toNat a.toNat s.toNat w.code (bit q * 16 + g.code * 4 + bit x * 2 + bit m)
  | .st d a s w q g m => mf 0x21 d.toNat a.toNat s.toNat w.code (bit q * 16 + g.code * 4 + bit m)
  | .lds d a s w x => mf 0x22 d.toNat a.toNat s.toNat w.code (bit x * 2)
  | .sts d a s w => mf 0x22 d.toNat a.toNat s.toNat w.code 8
  | .ldp d a s w x => mf 0x23 d.toNat a.toNat s.toNat w.code (bit x * 2)
  | .stp d a s w => mf 0x23 d.toNat a.toNat s.toNat w.code 8
  | .rld d a k g => a3 0x24 d.toNat a.toNat k.toNat (g.toNat * 4)
  | .rst d a k g => a3 0x24 d.toNat a.toNat k.toNat (g.toNat * 4 + 1)
  | .mcst d a g => a3 0x24 d.toNat a.toNat 0 (g.toNat * 4 + 2)
  | .atom d a s w o r => mf 0x25 d.toNat a.toNat s.toNat w.code (o.code * 2 + bit r)
  | .atoms d a s w o r => mf 0x26 d.toNat a.toNat s.toNat w.code (o.code * 2 + bit r)
  | .mcas d a s => mf 0x27 d.toNat a.toNat s.toNat 0 0
  | .fence s k => a3 0x27 (s.code * 16 + k.code * 4) 0 0 1
  | .pref a s l => mf 0x27 0 a.toNat s.toNat l.code 2
  | .clean a s => mf 0x27 0 a.toNat s.toNat 0 3
  | .invs a s => mf 0x27 0 a.toNat s.toNat 0 4
  | .qld a q => a3 0x28 0 a.toNat (q.toNat * 32) 0
  | .qst a q => a3 0x28 0 a.toNat (q.toNat * 32) 1
  | .qstop q => a3 0x28 0 0 (q.toNat * 32) 2
  | .qstat d q => a3 0x28 d.toNat 0 (q.toNat * 32) 3
  | .cpy a x => a3 0x29 a.toNat 0 (bit x) 0
  | .cpyt a x => a3 0x29 a.toNat 0 (bit x) 1
  | .cpyg a v x => a3 0x29 a.toNat v.toNat (bit x) 2
  | .cpyp a x => a3 0x29 a.toNat 0 (bit x) 3
  | .cpym a x => a3 0x29 a.toNat 0 (bit x) 4
  | .cpys a x => a3 0x29 a.toNat 0 (bit x) 5
  | .cpyb a x => a3 0x29 a.toNat 0 (bit x) 6
  | .cbcfg a n => ai 0x2A 0 a.toNat n.toNat 0
  | .cbcom n => ai 0x2A 0 0 n.toNat 1
  | .cbrel n => ai 0x2A 0 0 n.toNat 2
  | .cbqry d n => ai 0x2A d.toNat 0 n.toNat 3
  | .binit g a b => a3 0x2B (bit g * 64) a.toNat b.toNat 0
  | .barv g a => a3 0x2B (bit g * 64) a.toNat 0 1
  | .bexp g a b => a3 0x2B (bit g * 64) a.toNat b.toNat 2
  | .bwait g a b => a3 0x2B (bit g * 64) a.toNat b.toNat 3
  | .btest g p a b => a3 0x2B (bit g * 64 + p.toNat) a.toNat b.toNat 4
  | .oent d a b => a3 0x2C d.toNat a.toNat b.toNat 0
  | .oleave a => a3 0x2C 0 a.toNat 0 1
  | .oskip a b => a3 0x2C 0 a.toNat b.toNat 2
  | .oqry d a => a3 0x2C d.toNat a.toNat 0 3
  | .mma z a b f t m u n => xf 0x30 z.toNat a.toNat b.toNat f.code (bit t * 8 + bit m * 4 + bit u * 2 + bit n)
  | .mmac z s q b f x t u n => xf 0x31 z.toNat (s.toNat * 4 + q.toNat) b.toNat f.code (bit x * 16 + bit t * 8 + bit u * 2 + bit n)
  | .zclr z s => zf z.toNat s.code 0 0 0 0
  | .zld z s a => zf z.toNat s.code a.toNat 0 0 1
  | .zst z s a => zf z.toNat s.code a.toNat 0 0 2
  | .zdrain z s a t l => zf z.toNat s.code a.toNat t.code (bit l) 3
  | .opfence => zf 0 0 0 0 0 4
  | .episel a => zf 0 0 a.toNat 0 0 5
  | .prim a => a3 0x33 0 a.toNat 0 0
  | .fexp a b => a3 0x33 0 a.toNat b.toNat 1
  | .attr d a p j => a3 0x33 d.toNat a.toNat (bit p * 64 + j.toNat) 2
  | .fdisc => a3 0x33 0 0 0 3
  | .srfset a b => a3 0x33 0 a.toNat b.toNat 4
  | .srfqry d a => a3 0x33 d.toNat a.toNat 0 5
  | .srfld d a b => a3 0x33 d.toNat a.toNat b.toNat 6
  | .srfst d a b => a3 0x33 d.toNat a.toNat b.toNat 7
  | .tex2 d a b => a3 0x34 d.toNat a.toNat b.toNat 0
  | .plot a => a3 0x35 0 a.toNat 0 0
  | .bka d a => a3 0x35 d.toNat a.toNat 0 1
  | .bkt d a q => a3 0x35 d.toNat a.toNat (bit q) 2
  | .bks d a => a3 0x35 d.toNat a.toNat 0 3
  | .bkf a => a3 0x35 0 a.toNat 0 4
  | .launch d a => a3 0x36 d.toNat a.toNat 0 0
  | .tlbinv a b => a3 0x36 0 a.toNat b.toNat 1
  | .keyld a b => a3 0x36 0 a.toNat b.toNat 2
  | .reset => 0
  | .frstrbEdge => 0
  | .create _ => 0
  | .update _ => 0
  | .kill _ => 0
  | .attest _ => 0
  | .route _ => 0
  | .log _ => 0
  | .stackreset _ => 0
  | .thermal _ => 0
  | .unknownOpcode _ => 0
  | .launchDoorbell _ _ => 0
  | .launchQueueEntry _ _ => 0
  | .msiXTableEntry _ _ _ => 0
  | .registerWrite _ _ _ => 0
  | .cxlMemAccess _ _ _ _ => 0
  | .peerCommand _ _ _ _ _ _ => 0
  | .flitForward _ _ _ => 0
  | .replay _ => 0
  | .linkDown _ => 0
  | .linkRecovery _ => 0
  | .temperatureAboveLimit _ => 0
  | .throttleStep _ => 0
  | .thermalTrip _ => 0
  | .regulatorFault => 0
  | .regulatorFaultCleared => 0
  | .powerArbiterStep _ _ => 0
  | .faultRetry _ => 0
  | .surveyorPass _ _ _ => 0
  | .verticalBusRepair _ _ _ => 0
  | .repairRemap _ _ _ => 0
  | .blockAdmit _ => 0
  | .admissionWaitExpiry _ _ => 0
  | .blockRetire _ => 0
  | .completionArrival _ _ _ _ => 0
  | .waveToPending _ => 0
  | .pendingWaveReady _ => 0
  | .forcedExchange _ => 0
  | .saveOnWait _ => 0
  | .saveComplete _ => 0
  | .relaunch _ => 0
  | .migration _ => 0
  | .migrationComplete _ _ => 0
  | .forwardingEntryRelease _ => 0
  | .preemptionRequest _ => 0
  | .trapEntry _ => 0
  | .barrierOverrunReport _ _ => 0
  | .droppedBarrierRequest _ _ _ _ _ _ => 0
  | .tableFullReport _ _ _ _ => 0
  | .blockStoreFailure _ _ _ => 0
  | .peerRefusal _ _ _ => 0
  | .poolWaveStart _ => 0
  | .countedOpComplete _ _ => 0
  | .homeSliceRequest _ _ _ => 0
  | .l1Eviction _ _ => 0
  | .evictionNotice _ _ _ => 0
  | .regionNotice _ _ => 0
  | .noticeAck _ _ => 0
  | .probe _ _ _ => 0
  | .probeAck _ _ _ _ => 0
  | .queueStreamFetch _ _ => 0
  | .queueStreamDrain _ _ => 0
  | .pageWalk _ _ _ => 0
  | .pageMigration _ _ _ => 0
  | .pageMigrationComplete _ _ _ => 0
  | .collapseRequest _ _ _ _ => 0
  | .groupRewrite _ _ _ _ _ => 0
  | .collapseGrant _ _ => 0
  | .copyStart _ => 0
  | .sectorLand _ _ => 0
  | .barrierUpdate _ _ _ => 0
  | .remoteBarrierRequest _ _ _ _ _ _ _ => 0
  | .bwaitRelease _ _ => 0
  | .remoteMessage _ => 0
  | .tileOpFire _ => 0
  | .operandsConsumed _ _ => 0
  | .tileOpComplete _ _ => 0
  | .waypointRequest _ => 0
  | .waypointMulticast _ _ _ _ => 0
  | .waypointClaim _ => 0
  | .waypointAnswer _ _ _ => 0
  | .deadlockWalk _ => 0
  | .waypointGap _ => 0
  | .mcasLockRequest _ => 0
  | .mcasLockAck _ => 0
  | .batchAccept _ => 0
  | .rasterise _ => 0
  | .fragmentWaveLaunch _ => 0
  | .exportEntry _ => 0
  | .ropApply _ _ => 0
  | .depthVerdict _ _ => 0
  | .cellEviction _ => 0
  | .cellFetchBack _ _ _ _ => 0
  | .surfacePoolWait _ _ _ _ => 0
  | .srfsetPerform _ => 0
  | .plotAccept _ _ => 0
  | .plotUnitStart _ _ => 0
  | .plotThreadIssue _ _ _ => 0
  | .plotWordLimit _ _ _ => 0
  | .plotComplete _ => 0
  | .blockStoreRequest _ => 0
  | .blockEviction _ _ => 0
  | .fstat _ => 0
  | .ftrap _ => 0
  | .qbasehi _ _ => 0
  | .qstride _ _ => 0
  | .qstate _ _ => 0
  | .hstatus _ => 0
  | .shbase _ _ => 0
  | .mailboxDoorbell _ => 0
  | .linkRetrainComplete _ => 0
  | .ideKeyManagement _ _ => 0
  | .collapseAnswer _ _ _ => 0

end Sys2Proof
end

