-- ==== Sys2Proof/Machine/Chain.lean ====
section
/-! DEFINITION. Packets, fetch, chains and the checks made before a chain issues (02_encoding R16 to R24, R43 to R50,
R340, R341). -/

namespace Sys2Proof.Machine

/-! ## Fetch -/

/-- The address of a word of code: code base + 12 · packet + 4 · slot (R17). -/
def codeAddr (base packet slot : Nat) : Nat := (base + 12 * packet + 4 * slot) % 2 ^ 64

/-- The page of some code: a fetch from local device memory is performed at the home slice as a U load is (R18). -/
def codePage (s : State) (core ctx : Nat) (level : Level) (va : Nat) : Except XFault Target :=
  (translate s core ctx level Access.fetch va).map fun t => match t.space with
    | .dev _ => { t with space := .dev .u }
    | _ => t

/-- One word of code read through translation with execute permission, at its home; poison gives 0x40, as it does to a load (R18,
20_errors R438; DEDUCED, log 96). -/
def fetchWord (s : State) (core ctx : Nat) (level : Level) (va : Nat) : Except XFault Word :=
  match codePage s core ctx level va with
  | .error e => .error e
  | .ok t =>
    match poisonOf s core t, t.space with
    | some m, _ => .error { cause := 0x40, tinfo := m }
    | none, .far d => .ok (BitVec.ofNat 32 (leNat (farSeen s d (t.pa / 64 * 64) 64 |>.drop (t.pa % 64) |>.take 4)))
    | none, _ => .ok (BitVec.ofNat 32 (leNat (seenBytes s.mem t.key t.pa 4)))

/-- A line of code read for the fetch buffers: the words of it that can be read (R18). -/
def readLine (s : State) (core ctx : Nat) (level : Level) (addr : Nat) : Map Word :=
  (List.range 48).filterMap fun i =>
    match fetchWord s core ctx level ((addr + 4 * i) % 2 ^ 64) with
    | .ok x => some (i, x)
    | .error _ => none

/-- The line that holds a packet (R17). -/
def lineAddr (base packet : Nat) : Nat := (base + 192 * (packet / 16)) % 2 ^ 64

/-- A line that the core's fetch buffers keep, unless they have dropped it by now, which the manual leaves open (R18). -/
def buffered (s : State) (core launch addr : Nat) : Option FetchLine :=
  match s.work.fetch.find? fun l => l.core == core && l.launch == launch && l.addr == addr with
  | some l => if Config.choose (s.tick + 1) % 2 = 1 then none else some l
  | none => none

/-- The parts of 64 bytes of a line of code that can be read, with their addresses (R17, R18). -/
def codeParts (s : State) (core ctx : Nat) (level : Level) (addr : Nat) : List (Nat × Target) :=
  [0, 1, 2].filterMap fun i =>
    match codePage s core ctx level ((addr + 64 * i) % 2 ^ 64) with
    | .ok t => some ((addr + 64 * i) % 2 ^ 64, t)
    | .error _ => none

/-- What the fetch of a line of code leaves: the D copies of its local lines are recalled, and a read of a peer goes there as a command (R18,
08_memory_spaces R170, 18_host_peers R415). -/
def noteFetch (s : State) (w : Wave) (parts : List (Nat × Target)) : State :=
  parts.foldl (fun s p =>
    match p.2.space with
    | .dev _ => { s with mem := recallLine s.mem (lineOf p.2.pa) }
    | .far d => notePeerRead s (waveKey w.blk w.num) w d p.2.pa p.1 64
    | _ => s) s

/-- The line of a packet is in the core's fetch buffers, or can be fetched now (R18, 08_memory_spaces R168, 12_ordered_sections R276). -/
def fetchOpen (s : State) (w : Wave) (packet : Nat) : Bool :=
  let core := coreOf s w
  let addr := lineAddr w.codeBase.toNat packet
  (buffered s core (((s.block w.blk).map Block.launch).getD 0) addr).isSome ||
    ([0, 1, 2].all (fun i => pageOpen s core (ctxOf s w) w.level ((addr + 64 * i) % 2 ^ 64)) &&
      (codeParts s core (ctxOf s w) w.level addr).all fun p => p.2.open s 64)

/-- The three words of a packet, or the fault of the first that cannot be read, with the buffers after the fetch (R17, R18). -/
def fetchPacket (s : State) (w : Wave) (packet : Nat) : Except Trap (List Nat × State) :=
  let core := coreOf s w
  let launch := ((s.block w.blk).map Block.launch).getD 0
  let addr := lineAddr w.codeBase.toNat packet
  let line := match buffered s core launch addr with
    | some l => l.words
    | none => readLine s core (ctxOf s w) w.level addr
  let keep : FetchLine := { core := core, launch := launch, addr := addr, words := line }
  let s0 := if (buffered s core launch addr).isSome then s else noteFetch s w (codeParts s core (ctxOf s w) w.level addr)
  let s1 := { s0 with work := { s0.work with
    fetch := keep :: s0.work.fetch.filter fun l => !(l.core == core && l.launch == launch && l.addr == addr) } }
  match firstErr (fun i =>
      match line.look (3 * (packet % 16) + i) with
      | some x => Except.ok x.toNat
      | none =>
        let va := codeAddr w.codeBase.toNat packet i
        match fetchWord s core (ctxOf s w) w.level va with
        | .ok x => .ok x.toNat
        | .error e => .error (mkTrap e.cause (batch w) va e.tinfo)) [0, 1, 2] with
  | .ok ws => .ok (ws, s1)
  | .error t => .error t

/-! ## Chains -/

/-- The four pipes (R21). -/
inductive Pipe | s | v | m | x
deriving DecidableEq, Repr

/-- The pipe of a major; a reserved major belongs to none (R21). -/
def pipeOf (w : Nat) : Option Pipe :=
  let m := bits w 30 25
  if m ≤ 0x0B then some .s
  else if m ≤ 0x16 then some .v
  else if m ≤ 0x18 then some .x
  else if m ≤ 0x1B then some .v
  else if 0x20 ≤ m ∧ m ≤ 0x2C then some .m
  else if 0x30 ≤ m ∧ m ≤ 0x36 then some .x
  else none

/-- A control word (R22). -/
def isControl (w : Nat) : Bool :=
  match bits w 30 25 with
  | 0x00 => decide (1 ≤ bits w 4 0) && decide (bits w 4 0 ≤ 6)
  | 0x01 => true
  | 0x02 => true
  | 0x03 => true
  | 0x06 => true
  | 0x07 => bits w 2 0 == 2
  | _ => false

/-- A NOP word, whatever its chain bit (R24). -/
def isNop (w : Nat) : Bool := w % 2 ^ 31 == 0

/-- A REP word (R340). -/
def isRep (w : Nat) : Bool := bits w 30 25 == 0x04

/-- A CALL, CALLV, LOOPI or LOOPS, which must be in the last chain of its packet (R335, R336). -/
def endsPacket (w : Nat) : Bool :=
  (bits w 30 25 == 0x02 && (bits w 2 0 == 2 || bits w 2 0 == 3)) || (bits w 30 25 == 0x03 && decide (bits w 1 0 ≤ 1))

/-- The words of the chain that starts at a list of words: up to and with the first whose chain bit is clear (R19). -/
def chainAt : List Nat → List Nat
  | [] => []
  | w :: ws => if chainBit w then w :: chainAt ws else [w]

/-- Where a batch goes after a chain that ends before slot `e`: the chains that follow are discarded when they hold only NOP
words and a word other than NOP has come before (R24); a REP always leads to the word it repeats (R340). -/
def nextPlace (ws : List Nat) (e : Nat) : NextPc :=
  if 3 ≤ e then .off
  else if isRep (ws.getD (e - 1) 0) && !isNop (ws.getD (e - 1) 0) then .slot e
  else if (ws.drop e).all isNop && (ws.take e).any fun w => !isNop w then .off
  else .slot e

/-- The words of the chain at a slot with the slot of each, and where the batch goes after it. A PC past the last chain
runs off the packet as a NOP does. -/
def chainOf (ws : List Nat) (slot : Nat) : List (Nat × Nat) × NextPc :=
  if 3 ≤ slot || ((ws.drop slot).all isNop && (ws.take slot).any fun w => !isNop w) then ([(slot, 0)], .off)
  else
    let c := chainAt (ws.drop slot)
    ((List.range c.length).map fun i => (slot + i, c.getD i 0), nextPlace ws (slot + c.length))

/-- A wave that resumes at a REP whose repeats were interrupted: repstate is active, a fibre stands at the PC, and its word is a REP with no
fewer repeats than remain. The repeats then go on; else a REP starts afresh (15_execution_model R342, 19_traps R429, R436). -/
def resumeRep (s : State) (w : Wave) (p : Pc) : Wave :=
  match fetchPacket s w p.packet with
  | .ok (ws, _) =>
    let x := ws.getD p.slot 0
    if w.rep.active && isRep x && decide (p.slot < 2) && decide (1 ≤ w.rep.remaining.toNat) &&
        decide (w.rep.remaining.toNat ≤ bits x 24 19 + 1) && w.fibres.any fun f => f.2.park.isNone && f.2.pc == p then
      { w with repAt := some p }
    else w
  | .error _ => w

/-! ## Register fields of a word -/

/-- The vector register fields that a word reads (R25; the chapters of the words). -/
def vReads : Instr → List Nat
  | .nop => []
  | .halt => []
  | .exit => []
  | .yield => []
  | .conv => []
  | .tret => []
  | .brk => []
  | .bra _ => []
  | .br _ _ _ => []
  | .brall _ _ _ => []
  | .brany _ _ _ => []
  | .jmps _ => []
  | .jmpv a => [a.toNat]
  | .call _ _ _ => []
  | .callv _ a _ => [a.toNat]
  | .ret a => [a.toNat]
  | .loopi _ _ => []
  | .loops _ _ => []
  | .lbrk => []
  | .rep _ _ _ _ _ => []
  | .wait _ _ _ _ => []
  | .trap _ => []
  | .spawn d a _ => [d.toNat, a.toNat]
  | .spawnp d a _ => [d.toNat, a.toNat]
  | .regroup a _ => [a.toNat]
  | .flushrg => []
  | .fibrd _ _ => []
  | .fibwr a _ => [a.toNat]
  | .sadd _ _ _ => []
  | .ssub _ _ _ => []
  | .smul _ _ _ => []
  | .smulh _ _ _ => []
  | .sand _ _ _ => []
  | .sor _ _ _ => []
  | .sxor _ _ _ => []
  | .sshl _ _ _ => []
  | .sshr _ _ _ => []
  | .ssra _ _ _ => []
  | .smin _ _ _ => []
  | .smax _ _ _ => []
  | .sminu _ _ _ => []
  | .smaxu _ _ _ => []
  | .smov _ _ => []
  | .saddi _ _ _ => []
  | .sandi _ _ _ => []
  | .sori _ _ _ => []
  | .sxori _ _ _ => []
  | .sshli _ _ _ => []
  | .sshri _ _ _ => []
  | .ssrai _ _ _ => []
  | .sbyte _ _ _ => []
  | .scmp _ _ _ _ => []
  | .csrr _ _ => []
  | .csrw _ _ => []
  | .spr _ _ => []
  | .rdlane _ a _ => [a.toNat]
  | .movs _ _ => []
  | .iadd _ a b => [a.toNat, b.toNat]
  | .isub _ a b => [a.toNat, b.toNat]
  | .imul _ a b => [a.toNat, b.toNat]
  | .imulh _ a b => [a.toNat, b.toNat]
  | .imulhu _ a b => [a.toNat, b.toNat]
  | .iand _ a b => [a.toNat, b.toNat]
  | .ior _ a b => [a.toNat, b.toNat]
  | .ixor _ a b => [a.toNat, b.toNat]
  | .andn _ a b => [a.toNat, b.toNat]
  | .shl _ a b => [a.toNat, b.toNat]
  | .shr _ a b => [a.toNat, b.toNat]
  | .sra _ a b => [a.toNat, b.toNat]
  | .imin _ a b => [a.toNat, b.toNat]
  | .imax _ a b => [a.toNat, b.toNat]
  | .iminu _ a b => [a.toNat, b.toNat]
  | .imaxu _ a b => [a.toNat, b.toNat]
  | .iaddi _ a _ => [a.toNat]
  | .andi _ a _ => [a.toNat]
  | .ori _ a _ => [a.toNat]
  | .xori _ a _ => [a.toNat]
  | .shli _ a _ => [a.toNat]
  | .shri _ a _ => [a.toNat]
  | .srai _ a _ => [a.toNat]
  | .movi _ _ => []
  | .iabs _ a => [a.toNat]
  | .ineg _ a => [a.toNat]
  | .inot _ a => [a.toNat]
  | .popc _ a => [a.toNat]
  | .clz _ a => [a.toNat]
  | .brev _ a => [a.toNat]
  | .bfe _ a b => [a.toNat, b.toNat]
  | .bfeu _ a b => [a.toNat, b.toNat]
  | .bfi d a b => [d.toNat, a.toNat, b.toNat]
  | .imad d a b => [d.toNat, a.toNat, b.toNat]
  | .idiv _ a b => [a.toNat, b.toNat]
  | .idivu _ a b => [a.toNat, b.toNat]
  | .irem _ a b => [a.toNat, b.toNat]
  | .iremu _ a b => [a.toNat, b.toNat]
  | .iadds _ a b => [a.toNat, b.toNat]
  | .isubs _ a b => [a.toNat, b.toNat]
  | .icmp _ a b _ => [a.toNat, b.toNat]
  | .fadd _ a b _ => [a.toNat, b.toNat]
  | .fsub _ a b _ => [a.toNat, b.toNat]
  | .fmul _ a b _ => [a.toNat, b.toNat]
  | .ffma d a b _ => [d.toNat, a.toNat, b.toNat]
  | .fmin _ a b => [a.toNat, b.toNat]
  | .fmax _ a b => [a.toNat, b.toNat]
  | .fminm _ a b => [a.toNat, b.toNat]
  | .fmaxm _ a b => [a.toNat, b.toNat]
  | .fcpys _ a b => [a.toNat, b.toNat]
  | .fscale _ a b => [a.toNat, b.toNat]
  | .fabs _ a => [a.toNat]
  | .fneg _ a => [a.toNat]
  | .fclass _ a => [a.toNat]
  | .frnd _ a _ _ => [a.toNat]
  | .fsat _ a => [a.toNat]
  | .fgete _ a => [a.toNat]
  | .fgetm _ a => [a.toNat]
  | .fcmp _ a b _ => [a.toNat, b.toNat]
  | .hadd2 _ a b _ => [a.toNat, b.toNat]
  | .hsub2 _ a b _ => [a.toNat, b.toNat]
  | .hmul2 _ a b _ => [a.toNat, b.toNat]
  | .hfma2 d a b _ => [d.toNat, a.toNat, b.toNat]
  | .hmin2 _ a b _ => [a.toNat, b.toNat]
  | .hmax2 _ a b _ => [a.toNat, b.toNat]
  | .dot2h d a b => [d.toNat, a.toNat, b.toNat]
  | .dot2b d a b => [d.toNat, a.toNat, b.toNat]
  | .dot4e4 d a b => [d.toNat, a.toNat, b.toNat]
  | .dot4e5 d a b => [d.toNat, a.toNat, b.toNat]
  | .dot4i d a b => [d.toNat, a.toNat, b.toNat]
  | .dot4in d a b => [d.toNat, a.toNat, b.toNat]
  | .dot8f d a b => [d.toNat, a.toNat, b.toNat]
  | .dot4s d a b => [d.toNat, a.toNat, b.toNat]
  | .cvt _ a _ _ _ _ => [a.toNat]
  | .rcp _ a => [a.toNat]
  | .rsq _ a => [a.toNat]
  | .sqrt _ a => [a.toNat]
  | .exp2 _ a => [a.toNat]
  | .log2 _ a => [a.toNat]
  | .sin _ a => [a.toNat]
  | .cos _ a => [a.toNat]
  | .tanh _ a => [a.toNat]
  | .shfli _ a b => [a.toNat, b.toNat]
  | .shflu _ a _ => [a.toNat]
  | .shfld _ a _ => [a.toNat]
  | .shflx _ a _ => [a.toNat]
  | .bcast _ a _ => [a.toNat]
  | .voteany _ _ => []
  | .voteall _ _ => []
  | .ballot _ _ => []
  | .matchv _ a => [a.toNat]
  | .wredadd _ a => [a.toNat]
  | .wredfadd _ a => [a.toNat]
  | .wredmin _ a => [a.toNat]
  | .wredmax _ a => [a.toNat]
  | .wredfmax _ a => [a.toNat]
  | .wscan _ a => [a.toNat]
  | .pand _ _ _ => []
  | .por _ _ _ => []
  | .pxor _ _ _ => []
  | .pandn _ _ _ => []
  | .pnot _ _ => []
  | .prdw _ => []
  | .pwrw a => [a.toNat]
  | .pk2h _ a b _ => [a.toNat, b.toNat]
  | .pk2b _ a b _ => [a.toNat, b.toNat]
  | .pk4e4 d a b _ => [d.toNat, a.toNat, b.toNat]
  | .pk4e5 d a b _ => [d.toNat, a.toNat, b.toNat]
  | .pk8f d a b _ => [d.toNat, a.toNat, b.toNat]
  | .unpklo _ a _ => [a.toNat]
  | .unpkhi _ a _ => [a.toNat]
  | .sel _ a b _ => [a.toNat, b.toNat]
  | .ld _ a _ _ _ _ _ _ => [a.toNat]
  | .st d a _ _ _ _ _ => [d.toNat, a.toNat]
  | .lds _ a _ _ _ => [a.toNat]
  | .sts d a _ _ => [d.toNat, a.toNat]
  | .ldp _ a _ _ _ => [a.toNat]
  | .stp d a _ _ => [d.toNat, a.toNat]
  | .rld _ a k _ => [a.toNat, k.toNat]
  | .rst d a k _ => [d.toNat, a.toNat, k.toNat]
  | .mcst d a _ => [d.toNat, a.toNat]
  | .atom d a _ _ _ _ => [d.toNat, a.toNat]
  | .atoms d a _ _ _ _ => [d.toNat, a.toNat]
  | .mcas _ a _ => [a.toNat]
  | .fence _ _ => []
  | .pref a _ _ => [a.toNat]
  | .clean a _ => [a.toNat]
  | .invs a _ => [a.toNat]
  | .qld _ _ => []
  | .qst _ _ => []
  | .qstop _ => []
  | .qstat _ _ => []
  | .cpy _ _ => []
  | .cpyt _ _ => []
  | .cpyg _ v _ => [v.toNat]
  | .cpyp _ _ => []
  | .cpym _ _ => []
  | .cpys _ _ => []
  | .cpyb _ _ => []
  | .cbcfg _ _ => []
  | .cbcom _ => []
  | .cbrel _ => []
  | .cbqry _ _ => []
  | .binit _ _ _ => []
  | .barv _ _ => []
  | .bexp _ _ _ => []
  | .bwait _ _ _ => []
  | .btest _ _ _ _ => []
  | .oent _ a b => [a.toNat, b.toNat]
  | .oleave a => [a.toNat]
  | .oskip a b => [a.toNat, b.toNat]
  | .oqry _ a => [a.toNat]
  | .mma _ a _ _ _ _ _ _ => [a.toNat]
  | .mmac _ _ _ _ _ _ _ _ _ => []
  | .zclr _ _ => []
  | .zld _ _ _ => []
  | .zst _ _ _ => []
  | .zdrain _ _ _ _ _ => []
  | .opfence => []
  | .episel _ => []
  | .prim _ => []
  | .fexp a b => [a.toNat, b.toNat]
  | .attr _ a _ _ => [a.toNat]
  | .fdisc => []
  | .srfset _ _ => []
  | .srfqry _ _ => []
  | .srfld _ a _ => [a.toNat]
  | .srfst d a _ => [d.toNat, a.toNat]
  | .tex2 _ a _ => [a.toNat]
  | .plot _ => []
  | .bka _ a => [a.toNat]
  | .bkt _ a _ => [a.toNat]
  | .bks d a => [d.toNat, a.toNat]
  | .bkf a => [a.toNat]
  | .launch _ _ => []
  | .tlbinv _ _ => []
  | .keyld _ _ => []
  | .reset => []
  | .frstrbEdge => []
  | .create _ => []
  | .update _ => []
  | .kill _ => []
  | .attest _ => []
  | .route _ => []
  | .log _ => []
  | .stackreset _ => []
  | .thermal _ => []
  | .unknownOpcode _ => []
  | .launchDoorbell _ _ => []
  | .launchQueueEntry _ _ => []
  | .msiXTableEntry _ _ _ => []
  | .registerWrite _ _ _ => []
  | .cxlMemAccess _ _ _ _ => []
  | .peerCommand _ _ _ _ _ _ => []
  | .flitForward _ _ _ => []
  | .replay _ => []
  | .linkDown _ => []
  | .linkRecovery _ => []
  | .temperatureAboveLimit _ => []
  | .throttleStep _ => []
  | .thermalTrip _ => []
  | .regulatorFault => []
  | .regulatorFaultCleared => []
  | .powerArbiterStep _ _ => []
  | .faultRetry _ => []
  | .surveyorPass _ _ _ => []
  | .verticalBusRepair _ _ _ => []
  | .repairRemap _ _ _ => []
  | .blockAdmit _ => []
  | .admissionWaitExpiry _ _ => []
  | .blockRetire _ => []
  | .completionArrival _ _ _ _ => []
  | .waveToPending _ => []
  | .pendingWaveReady _ => []
  | .forcedExchange _ => []
  | .saveOnWait _ => []
  | .saveComplete _ => []
  | .relaunch _ => []
  | .migration _ => []
  | .migrationComplete _ _ => []
  | .forwardingEntryRelease _ => []
  | .preemptionRequest _ => []
  | .trapEntry _ => []
  | .barrierOverrunReport _ _ => []
  | .droppedBarrierRequest _ _ _ _ _ _ => []
  | .tableFullReport _ _ _ _ => []
  | .blockStoreFailure _ _ _ => []
  | .peerRefusal _ _ _ => []
  | .poolWaveStart _ => []
  | .countedOpComplete _ _ => []
  | .homeSliceRequest _ _ _ => []
  | .l1Eviction _ _ => []
  | .evictionNotice _ _ _ => []
  | .regionNotice _ _ => []
  | .noticeAck _ _ => []
  | .probe _ _ _ => []
  | .probeAck _ _ _ _ => []
  | .queueStreamFetch _ _ => []
  | .queueStreamDrain _ _ => []
  | .pageWalk _ _ _ => []
  | .pageMigration _ _ _ => []
  | .pageMigrationComplete _ _ _ => []
  | .collapseRequest _ _ _ _ => []
  | .groupRewrite _ _ _ _ _ => []
  | .collapseGrant _ _ => []
  | .copyStart _ => []
  | .sectorLand _ _ => []
  | .barrierUpdate _ _ _ => []
  | .remoteBarrierRequest _ _ _ _ _ _ _ => []
  | .bwaitRelease _ _ => []
  | .remoteMessage _ => []
  | .tileOpFire _ => []
  | .operandsConsumed _ _ => []
  | .tileOpComplete _ _ => []
  | .waypointRequest _ => []
  | .waypointMulticast _ _ _ _ => []
  | .waypointClaim _ => []
  | .waypointAnswer _ _ _ => []
  | .deadlockWalk _ => []
  | .waypointGap _ => []
  | .mcasLockRequest _ => []
  | .mcasLockAck _ => []
  | .batchAccept _ => []
  | .rasterise _ => []
  | .fragmentWaveLaunch _ => []
  | .exportEntry _ => []
  | .ropApply _ _ => []
  | .depthVerdict _ _ => []
  | .cellEviction _ => []
  | .cellFetchBack _ _ _ _ => []
  | .surfacePoolWait _ _ _ _ => []
  | .srfsetPerform _ => []
  | .plotAccept _ _ => []
  | .plotUnitStart _ _ => []
  | .plotThreadIssue _ _ _ => []
  | .plotWordLimit _ _ _ => []
  | .plotComplete _ => []
  | .blockStoreRequest _ => []
  | .blockEviction _ _ => []
  | .fstat _ => []
  | .ftrap _ => []
  | .qbasehi _ _ => []
  | .qstride _ _ => []
  | .qstate _ _ => []
  | .hstatus _ => []
  | .shbase _ _ => []
  | .mailboxDoorbell _ => []
  | .linkRetrainComplete _ => []
  | .ideKeyManagement _ _ => []
  | .collapseAnswer _ _ _ => []

/-- `n` names from `d` upward. -/
def run (d n : Nat) : List Nat := (List.range n).map (d + ·)

/-- A predicate as a destination. Two words of a chain that name p7 write the same predicate as R23 reads, although both writes are ignored
(R28; DEDUCED, log 90). -/
def predDst (p : PReg) : List Nat := [512 + p.toNat]

/-- What a word writes: v register n as n, s register n as 256 + n, predicate n as 512 + n, CSR i as 768 + i (R23). Four points that R23
leaves open are settled here from the fields of the word alone (DESIGN CHOICE, log 62): the link vD of CALL and CALLV counts as vD of the
caller's window, although it is written in the callee's; SRFLD counts vD only, although a surface with pixels of 8 bytes makes it write
vD and vD+1; a pop or a push of a queue port is no write of its stream's qstate; and TRET's restore of s120 to s127 and of the predicates is no write
of its chain. -/
def destsOf : Instr → List Nat
  | .nop => []
  | .halt => []
  | .exit => []
  | .yield => []
  | .conv => []
  | .tret => []
  | .brk => []
  | .bra _ => []
  | .br _ _ _ => []
  | .brall _ _ _ => []
  | .brany _ _ _ => []
  | .jmps _ => []
  | .jmpv _ => []
  | .call d _ _ => [d.toNat]
  | .callv d _ _ => [d.toNat]
  | .ret _ => []
  | .loopi _ _ => []
  | .loops _ _ => []
  | .lbrk => []
  | .rep _ _ _ _ _ => []
  | .wait _ _ _ _ => []
  | .trap _ => []
  | .spawn d _ _ => [d.toNat]
  | .spawnp d _ _ => [d.toNat]
  | .regroup _ _ => []
  | .flushrg => []
  | .fibrd d _ => [d.toNat]
  | .fibwr _ _ => []
  | .sadd d _ _ => [256 + d.toNat]
  | .ssub d _ _ => [256 + d.toNat]
  | .smul d _ _ => [256 + d.toNat]
  | .smulh d _ _ => [256 + d.toNat]
  | .sand d _ _ => [256 + d.toNat]
  | .sor d _ _ => [256 + d.toNat]
  | .sxor d _ _ => [256 + d.toNat]
  | .sshl d _ _ => [256 + d.toNat]
  | .sshr d _ _ => [256 + d.toNat]
  | .ssra d _ _ => [256 + d.toNat]
  | .smin d _ _ => [256 + d.toNat]
  | .smax d _ _ => [256 + d.toNat]
  | .sminu d _ _ => [256 + d.toNat]
  | .smaxu d _ _ => [256 + d.toNat]
  | .smov d _ => [256 + d.toNat]
  | .saddi d _ _ => [256 + d.toNat]
  | .sandi d _ _ => [256 + d.toNat]
  | .sori d _ _ => [256 + d.toNat]
  | .sxori d _ _ => [256 + d.toNat]
  | .sshli d _ _ => [256 + d.toNat]
  | .sshri d _ _ => [256 + d.toNat]
  | .ssrai d _ _ => [256 + d.toNat]
  | .sbyte d _ _ => [256 + d.toNat]
  | .scmp p _ _ _ => predDst p
  | .csrr d _ => [256 + d.toNat]
  | .csrw _ i => [768 + i.toNat]
  | .spr d _ => [d.toNat]
  | .rdlane d _ _ => [256 + d.toNat]
  | .movs d _ => [d.toNat]
  | .iadd d _ _ => [d.toNat]
  | .isub d _ _ => [d.toNat]
  | .imul d _ _ => [d.toNat]
  | .imulh d _ _ => [d.toNat]
  | .imulhu d _ _ => [d.toNat]
  | .iand d _ _ => [d.toNat]
  | .ior d _ _ => [d.toNat]
  | .ixor d _ _ => [d.toNat]
  | .andn d _ _ => [d.toNat]
  | .shl d _ _ => [d.toNat]
  | .shr d _ _ => [d.toNat]
  | .sra d _ _ => [d.toNat]
  | .imin d _ _ => [d.toNat]
  | .imax d _ _ => [d.toNat]
  | .iminu d _ _ => [d.toNat]
  | .imaxu d _ _ => [d.toNat]
  | .iaddi d _ _ => [d.toNat]
  | .andi d _ _ => [d.toNat]
  | .ori d _ _ => [d.toNat]
  | .xori d _ _ => [d.toNat]
  | .shli d _ _ => [d.toNat]
  | .shri d _ _ => [d.toNat]
  | .srai d _ _ => [d.toNat]
  | .movi d _ => [d.toNat]
  | .iabs d _ => [d.toNat]
  | .ineg d _ => [d.toNat]
  | .inot d _ => [d.toNat]
  | .popc d _ => [d.toNat]
  | .clz d _ => [d.toNat]
  | .brev d _ => [d.toNat]
  | .bfe d _ _ => [d.toNat]
  | .bfeu d _ _ => [d.toNat]
  | .bfi d _ _ => [d.toNat]
  | .imad d _ _ => [d.toNat]
  | .idiv d _ _ => [d.toNat]
  | .idivu d _ _ => [d.toNat]
  | .irem d _ _ => [d.toNat]
  | .iremu d _ _ => [d.toNat]
  | .iadds d _ _ => [d.toNat]
  | .isubs d _ _ => [d.toNat]
  | .icmp p _ _ _ => predDst p
  | .fadd d _ _ _ => [d.toNat]
  | .fsub d _ _ _ => [d.toNat]
  | .fmul d _ _ _ => [d.toNat]
  | .ffma d _ _ _ => [d.toNat]
  | .fmin d _ _ => [d.toNat]
  | .fmax d _ _ => [d.toNat]
  | .fminm d _ _ => [d.toNat]
  | .fmaxm d _ _ => [d.toNat]
  | .fcpys d _ _ => [d.toNat]
  | .fscale d _ _ => [d.toNat]
  | .fabs d _ => [d.toNat]
  | .fneg d _ => [d.toNat]
  | .fclass d _ => [d.toNat]
  | .frnd d _ _ _ => [d.toNat]
  | .fsat d _ => [d.toNat]
  | .fgete d _ => [d.toNat]
  | .fgetm d _ => [d.toNat]
  | .fcmp p _ _ _ => predDst p
  | .hadd2 d _ _ _ => [d.toNat]
  | .hsub2 d _ _ _ => [d.toNat]
  | .hmul2 d _ _ _ => [d.toNat]
  | .hfma2 d _ _ _ => [d.toNat]
  | .hmin2 d _ _ _ => [d.toNat]
  | .hmax2 d _ _ _ => [d.toNat]
  | .dot2h d _ _ => [d.toNat]
  | .dot2b d _ _ => [d.toNat]
  | .dot4e4 d _ _ => [d.toNat]
  | .dot4e5 d _ _ => [d.toNat]
  | .dot4i d _ _ => [d.toNat]
  | .dot4in d _ _ => [d.toNat]
  | .dot8f d _ _ => [d.toNat]
  | .dot4s d _ _ => [d.toNat]
  | .cvt d _ _ _ _ _ => [d.toNat]
  | .rcp d _ => [d.toNat]
  | .rsq d _ => [d.toNat]
  | .sqrt d _ => [d.toNat]
  | .exp2 d _ => [d.toNat]
  | .log2 d _ => [d.toNat]
  | .sin d _ => [d.toNat]
  | .cos d _ => [d.toNat]
  | .tanh d _ => [d.toNat]
  | .shfli d _ _ => [d.toNat]
  | .shflu d _ _ => [d.toNat]
  | .shfld d _ _ => [d.toNat]
  | .shflx d _ _ => [d.toNat]
  | .bcast d _ _ => [d.toNat]
  | .voteany d _ => predDst d
  | .voteall d _ => predDst d
  | .ballot d _ => (run d.toNat 2)
  | .matchv d _ => (run d.toNat 2)
  | .wredadd d _ => [d.toNat]
  | .wredfadd d _ => [d.toNat]
  | .wredmin d _ => [d.toNat]
  | .wredmax d _ => [d.toNat]
  | .wredfmax d _ => [d.toNat]
  | .wscan d _ => [d.toNat]
  | .pand d _ _ => predDst d
  | .por d _ _ => predDst d
  | .pxor d _ _ => predDst d
  | .pandn d _ _ => predDst d
  | .pnot d _ => predDst d
  | .prdw d => [d.toNat]
  | .pwrw _ => (run 512 7)
  | .pk2h d _ _ _ => [d.toNat]
  | .pk2b d _ _ _ => [d.toNat]
  | .pk4e4 d _ _ _ => [d.toNat]
  | .pk4e5 d _ _ _ => [d.toNat]
  | .pk8f d _ _ _ => [d.toNat]
  | .unpklo d _ t => (run d.toNat t.count)
  | .unpkhi d _ t => (run d.toNat t.count)
  | .sel d _ _ _ => [d.toNat]
  | .ld d _ _ w _ _ _ _ => (run d.toNat (if w = .w64 then 2 else 1))
  | .st _ _ _ _ _ _ _ => []
  | .lds d _ _ w _ => (run d.toNat (if w = .w64 then 2 else 1))
  | .sts _ _ _ _ => []
  | .ldp d _ _ w _ => (run d.toNat (if w = .w64 then 2 else 1))
  | .stp _ _ _ _ => []
  | .rld d _ _ _ => [d.toNat]
  | .rst _ _ _ _ => []
  | .mcst _ _ _ => []
  | .atom d _ _ w _ r => (if r then run d.toNat (if w = .w64 then 2 else 1) else [])
  | .atoms d _ _ w _ r => (if r then run d.toNat (if w = .w64 then 2 else 1) else [])
  | .mcas d _ _ => [d.toNat]
  | .fence _ _ => []
  | .pref _ _ _ => []
  | .clean _ _ => []
  | .invs _ _ => []
  | .qld _ q => [768 + 0x43 + 4 * q.toNat]
  | .qst _ q => [768 + 0x43 + 4 * q.toNat]
  | .qstop q => [768 + 0x40 + 4 * q.toNat, 768 + 0x41 + 4 * q.toNat, 768 + 0x43 + 4 * q.toNat]
  | .qstat d _ => [256 + d.toNat]
  | .cpy _ _ => []
  | .cpyt _ _ => []
  | .cpyg _ _ _ => []
  | .cpyp _ _ => []
  | .cpym _ _ => []
  | .cpys _ _ => []
  | .cpyb _ _ => []
  | .cbcfg _ _ => []
  | .cbcom _ => []
  | .cbrel _ => []
  | .cbqry d _ => [256 + d.toNat]
  | .binit _ _ _ => []
  | .barv _ _ => []
  | .bexp _ _ _ => []
  | .bwait _ _ _ => []
  | .btest _ p _ _ => predDst p
  | .oent d _ _ => [d.toNat]
  | .oleave _ => []
  | .oskip _ _ => []
  | .oqry d _ => [d.toNat]
  | .mma _ _ _ _ _ _ _ _ => []
  | .mmac _ _ _ _ _ _ _ _ _ => []
  | .zclr _ _ => []
  | .zld _ _ _ => []
  | .zst _ _ _ => []
  | .zdrain _ _ _ _ _ => []
  | .opfence => []
  | .episel _ => []
  | .prim _ => []
  | .fexp _ _ => []
  | .attr d _ _ _ => (run d.toNat 4)
  | .fdisc => []
  | .srfset _ _ => []
  | .srfqry d _ => [256 + d.toNat]
  | .srfld d _ _ => [d.toNat]
  | .srfst _ _ _ => []
  | .tex2 d _ _ => (run d.toNat 4)
  | .plot _ => []
  | .bka d _ => [d.toNat]
  | .bkt d _ _ => [d.toNat]
  | .bks _ _ => []
  | .bkf _ => []
  | .launch d _ => [256 + d.toNat]
  | .tlbinv _ _ => []
  | .keyld _ _ => []
  | .reset => []
  | .frstrbEdge => []
  | .create _ => []
  | .update _ => []
  | .kill _ => []
  | .attest _ => []
  | .route _ => []
  | .log _ => []
  | .stackreset _ => []
  | .thermal _ => []
  | .unknownOpcode _ => []
  | .launchDoorbell _ _ => []
  | .launchQueueEntry _ _ => []
  | .msiXTableEntry _ _ _ => []
  | .registerWrite _ _ _ => []
  | .cxlMemAccess _ _ _ _ => []
  | .peerCommand _ _ _ _ _ _ => []
  | .flitForward _ _ _ => []
  | .replay _ => []
  | .linkDown _ => []
  | .linkRecovery _ => []
  | .temperatureAboveLimit _ => []
  | .throttleStep _ => []
  | .thermalTrip _ => []
  | .regulatorFault => []
  | .regulatorFaultCleared => []
  | .powerArbiterStep _ _ => []
  | .faultRetry _ => []
  | .surveyorPass _ _ _ => []
  | .verticalBusRepair _ _ _ => []
  | .repairRemap _ _ _ => []
  | .blockAdmit _ => []
  | .admissionWaitExpiry _ _ => []
  | .blockRetire _ => []
  | .completionArrival _ _ _ _ => []
  | .waveToPending _ => []
  | .pendingWaveReady _ => []
  | .forcedExchange _ => []
  | .saveOnWait _ => []
  | .saveComplete _ => []
  | .relaunch _ => []
  | .migration _ => []
  | .migrationComplete _ _ => []
  | .forwardingEntryRelease _ => []
  | .preemptionRequest _ => []
  | .trapEntry _ => []
  | .barrierOverrunReport _ _ => []
  | .droppedBarrierRequest _ _ _ _ _ _ => []
  | .tableFullReport _ _ _ _ => []
  | .blockStoreFailure _ _ _ => []
  | .peerRefusal _ _ _ => []
  | .poolWaveStart _ => []
  | .countedOpComplete _ _ => []
  | .homeSliceRequest _ _ _ => []
  | .l1Eviction _ _ => []
  | .evictionNotice _ _ _ => []
  | .regionNotice _ _ => []
  | .noticeAck _ _ => []
  | .probe _ _ _ => []
  | .probeAck _ _ _ _ => []
  | .queueStreamFetch _ _ => []
  | .queueStreamDrain _ _ => []
  | .pageWalk _ _ _ => []
  | .pageMigration _ _ _ => []
  | .pageMigrationComplete _ _ _ => []
  | .collapseRequest _ _ _ _ => []
  | .groupRewrite _ _ _ _ _ => []
  | .collapseGrant _ _ => []
  | .copyStart _ => []
  | .sectorLand _ _ => []
  | .barrierUpdate _ _ _ => []
  | .remoteBarrierRequest _ _ _ _ _ _ _ => []
  | .bwaitRelease _ _ => []
  | .remoteMessage _ => []
  | .tileOpFire _ => []
  | .operandsConsumed _ _ => []
  | .tileOpComplete _ _ => []
  | .waypointRequest _ => []
  | .waypointMulticast _ _ _ _ => []
  | .waypointClaim _ => []
  | .waypointAnswer _ _ _ => []
  | .deadlockWalk _ => []
  | .waypointGap _ => []
  | .mcasLockRequest _ => []
  | .mcasLockAck _ => []
  | .batchAccept _ => []
  | .rasterise _ => []
  | .fragmentWaveLaunch _ => []
  | .exportEntry _ => []
  | .ropApply _ _ => []
  | .depthVerdict _ _ => []
  | .cellEviction _ => []
  | .cellFetchBack _ _ _ _ => []
  | .surfacePoolWait _ _ _ _ => []
  | .srfsetPerform _ => []
  | .plotAccept _ _ => []
  | .plotUnitStart _ _ => []
  | .plotThreadIssue _ _ _ => []
  | .plotWordLimit _ _ _ => []
  | .plotComplete _ => []
  | .blockStoreRequest _ => []
  | .blockEviction _ _ => []
  | .fstat _ => []
  | .ftrap _ => []
  | .qbasehi _ _ => []
  | .qstride _ _ => []
  | .qstate _ _ => []
  | .hstatus _ => []
  | .shbase _ _ => []
  | .mailboxDoorbell _ => []
  | .linkRetrainComplete _ => []
  | .ideKeyManagement _ _ => []
  | .collapseAnswer _ _ _ => []
/-! ## Checks before issue -/

/-- The fields of a repeated word that the format or the layout of its major gives to a register, whether or not its function uses it: [24:18],
[17:11] and [10:4] (R25, R28, R340; DEDUCED, log 79). Where a major lays its functions out apart, the function decides. -/
def stepFields (w : Nat) : Bool × Bool × Bool :=
  match bits w 30 25 with
  | 0x02 => (true, true, false)
  | 0x07 => (true, true, false)
  | 0x08 => (true, true, true)
  | 0x09 => (true, true, false)
  | 0x0A => (true, true, true)
  | 0x0B => (true, true, false)
  | 0x0C => (true, true, true)
  | 0x0D => (true, true, false)
  | 0x0E => (true, true, true)
  | 0x0F => (true, true, true)
  | 0x10 => (true, true, true)
  | 0x11 => (true, true, true)
  | 0x12 => (true, true, false)
  | 0x13 => (true, true, true)
  | 0x14 => (true, true, true)
  | 0x15 => (true, true, true)
  | 0x16 => (true, true, false)
  | 0x17 => (true, true, false)
  | 0x18 => (true, true, true)
  | 0x19 => (true, true, true)
  | 0x1A => (true, true, true)
  | 0x1B => (true, true, true)
  | 0x20 => (true, true, false)
  | 0x21 => (true, true, false)
  | 0x22 => (true, true, false)
  | 0x23 => (true, true, false)
  | 0x24 => (true, true, true)
  | 0x25 => (true, true, false)
  | 0x26 => (true, true, false)
  | 0x27 => (bits w 3 0 == 0, bits w 3 0 != 1, false)
  | 0x28 => (true, true, false)
  | 0x29 => (true, bits w 3 0 == 2, false)
  | 0x2A => (true, true, false)
  | 0x2B => (false, true, true)
  | 0x2C => (true, true, true)
  | 0x32 => (false, true, false)
  | 0x33 => (true, true, bits w 3 0 != 2)
  | 0x34 => (true, true, true)
  | 0x35 => (true, true, false)
  | 0x36 => (bits w 3 0 == 0, true, bits w 3 0 != 0)
  | _ => (false, false, false)

/-- The step flags D, A and B select a field which the next word's format does not define as a register (R340). -/
def badFields (d a b : Bool) (next : Nat) : Bool :=
  let f := stepFields next
  (d && !f.1) || (a && !f.2.1) || (b && !f.2.2)

/-- A REP that selects a field which the next word's format does not define as a register (R340). -/
def badStep (rep next : Nat) : Bool := badFields (bitAt rep 18) (bitAt rep 17) (bitAt rep 16) next

/-- The 0x01 conditions of a word in its chain and packet, beside its own fields (R23, R335, R336, R340). -/
def illegalPlace (ws : List Nat) (slot : Nat) (w : Nat) (last : Bool) : Bool :=
  (chainBit w && decide (2 ≤ slot)) || (isControl w && chainBit w) ||
    (endsPacket w && last && !((ws.drop (slot + 1)).all isNop)) ||
    (isRep w && (chainBit w || decide (2 ≤ slot) ||
      (let n := ws.getD (slot + 1) 0
       chainBit n || isControl n || isRep n || badStep w n)))

/-- The decode cause of one word of a chain, if it has one (R43, R46). -/
def wordCause (ws : List Nat) (slot : Nat) (w : Nat) (last : Bool) : Option Nat :=
  if illegalPlace ws slot w last then some 0x01
  else
    match decode w with
    | .ok _ => none
    | .error e => some e.code

/-- Two words of one chain may not issue together: the same pipe, the same destination or the same queue port (R23). -/
def conflict (a b : Nat) : Bool :=
  match pipeOf a, pipeOf b with
  | some p, some q =>
    p == q ||
      (match decode (a % 2 ^ 31), decode (b % 2 ^ 31) with
        | .ok i, .ok j =>
          (destsOf i).any (fun d => (destsOf j).contains d) ||
            [124, 125].any fun v => (vReads i).contains v && (vReads j).contains v
        | _, _ => false)
  | _, _ => false

/-- The slot of the first word, in slot order, that conflicts with an earlier word of its chain. R48 speaks of the two conflicting words; where
more than one pair conflicts, the trap names this one (DESIGN CHOICE, log 97). -/
def conflictSlot : List (Nat × Nat) → List (Nat × Nat) → Option Nat
  | _, [] => none
  | seen, (i, w) :: t => if seen.any fun p => conflict p.2 w then some i else conflictSlot (seen ++ [(i, w)]) t

/-- The first word of a chain with a decode cause, and the cause (R48). -/
def firstCause (ws : List Nat) (c : Nat) : List (Nat × Nat) → Option (Nat × Nat)
  | [] => none
  | (i, w) :: t => if wordCause ws i w t.isEmpty = some c then some (i, w) else firstCause ws c t

/-- The decode trap of a chain, with its frame: the lowest cause, 0x01, 0x02 or 0x03 (R43, R48). -/
def decodeTrap (ws : List Nat) (base packet : Nat) (lanes : List Nat) (c : List (Nat × Nat)) : Option Trap :=
  match firstCause ws 0x01 c with
  | some (i, w) => some (mkTrap 0x01 lanes (codeAddr base packet i) w).told
  | none =>
    match conflictSlot [] c with
    | some i => some (mkTrap 0x02 lanes (codeAddr base packet i) i)
    | none =>
      match firstCause ws 0x03 c with
      | some (i, w) => some (mkTrap 0x03 lanes (codeAddr base packet i) w)
      | none => none

/-- The privilege level that a word needs is held (R50). -/
def privileged (level : Level) : Instr → Bool
  | .fibwr _ _ => level != .user
  | .tlbinv _ _ => level != .user
  | .keyld _ _ => level == .machine
  | .csrr _ i => decide (i.toNat < 0x80) || level != .user
  | .csrw _ i => decide (i.toNat < 0x80) || level != .user
  | _ => true

/-- The word that repeat `j` of a REP issues: each selected field stepped (R341). -/
def stepWord (w : Nat) (r : RepState) (j : Nat) : Nat :=
  let d := j * 2 ^ r.stride.toNat
  let put (hi lo : Nat) (on : Bool) (w : Nat) : Nat :=
    if on then w - bits w hi lo * 2 ^ lo + (bits w hi lo + d) % 128 * 2 ^ lo else w
  put 10 4 (r.steps.getLsbD 0) (put 17 11 (r.steps.getLsbD 1) (put 24 18 (r.steps.getLsbD 2) w))

end Sys2Proof.Machine
end

