-- ==== Sys2Proof/Machine/Csr.lean ====
section
/-! DEFINITION. The control and status registers (02_encoding R32, 08_memory_spaces R178, R179, 19_traps R428). -/

namespace Sys2Proof.Machine

/-- The group slots of a block: table index and rank of each of its groups, in increasing table order (15_execution_model
R351). -/
def groupSlots (s : State) (blk : Nat) : List (Nat × Nat) :=
  match s.block blk, s.launchOf blk with
  | some b, some l =>
    (((List.range l.groups.length).zip l.groups).filterMap fun p =>
      if p.2.members.contains b.idx then some (p.1, p.2.members.idxOf b.idx) else none).take 4
  | _, _ => []

/-- A group slot CSR: [15:0] rank, [23:16] table index, [31] valid (R32). -/
def slotWord (s : State) (blk g : Nat) : Word :=
  match (groupSlots s blk)[g]? with
  | some (i, rank) => BitVec.ofNat 32 (rank % 2 ^ 16 + 2 ^ 16 * (i % 256) + 2 ^ 31)
  | none => 0

/-- The repstate CSR (R32). -/
def repWord (r : RepState) : Word :=
  r.remaining.zeroExtend 32 ||| (if r.active then 0x80 else 0) ||| r.steps.zeroExtend 32 <<< 8 |||
    r.stride.zeroExtend 32 <<< 11

/-- The repstate of a CSR value. -/
def repOf (x : Word) : RepState :=
  { remaining := x.truncate 7, active := x.getLsbD 7, steps := (x >>> 8).truncate 3, stride := (x >>> 11).truncate 2 }

/-- The level of a wave as hstatus codes it (19_traps R428). -/
def levelCode : Level → Nat
  | .user => 0
  | .supervisor => 1
  | .machine => 2

/-- The hstatus CSR (19_traps R428). -/
def hstatusWord (w : Wave) : Word :=
  BitVec.ofNat 32 ((if w.inHandler then 1 else 0) + (if w.superHandler then 2 else 0) + (if w.savedBit then 4 else 0) +
    (if w.preemptPending then 8 else 0) + (if w.step then 16 else 0) + 32 * (if w.inHandler then levelCode w.intLevel else 0))

/-- The elements of a stream that qstate reports (08_memory_spaces R178). -/
def heldCount (q : Nat) (x : Stream) : Nat := if q ≤ 1 then x.held.length else x.pushes

/-- The qstate CSR (08_memory_spaces R178). -/
def qstateWord (q : Nat) (x : Stream) : Word :=
  BitVec.ofNat 32 (x.count.toNat + (if x.active then 2 ^ 24 else 0) + (if x.underrun then 2 ^ 25 else 0) +
    (if x.overrun then 2 ^ 26 else 0) + 2 ^ 28 * (heldCount q x % 16))

/-- A stream CSR, by its place among the four of its stream (08_memory_spaces R178). -/
def streamCsr (q j : Nat) (x : Stream) : Word :=
  match j with
  | 0 => x.base.truncate 32
  | 1 => ((x.base >>> 32).truncate 16 : BitVec 16).signExtend 32
  | 2 => x.lanestride.zeroExtend 32 ||| x.step.zeroExtend 32 <<< 16
  | _ => qstateWord q x

/-- A loop stack CSR, by its place among the three of its entry (R32). -/
def loopCsr (j : Nat) (e : LoopEntry) : Word :=
  match j with
  | 0 => e.start
  | 1 => e.fin
  | _ => e.count.zeroExtend 32

/-- One word of a 64-bit CSR pair. -/
def half (x : Nat) (high : Bool) : Word := BitVec.ofNat 32 (if high then x / 2 ^ 32 else x)

/-- A CSR of the issuing wave, or nothing for an index absent from the maps (R32, 19_traps R428). -/
def csrRead (s : State) (w : Wave) (i : Nat) : Option Word :=
  let b := w.blk
  let x := recWord s b 4
  let y := recWord s b 5
  let idx := ((s.block b).map Block.idx).getD 0
  let core := coreOf s w
  if 0x10 ≤ i ∧ i ≤ 0x1B then some (loopCsr ((i - 0x10) % 3) (w.loops.getD ((i - 0x10) / 3) LoopEntry.none))
  else if 0x40 ≤ i ∧ i ≤ 0x4F then some (streamCsr ((i - 0x40) / 4) (i % 4) (streamOf w ((i - 0x40) / 4)))
  else if 0x90 ≤ i ∧ i ≤ 0x97 then some (nth w.ubank (i - 0x90))
  else if 0x2B ≤ i ∧ i ≤ 0x2E then some (slotWord s b (i - 0x2B))
  else
    match i with
    | 0x00 => some (w.fstat.zeroExtend 32)
    | 0x01 => some (w.ftrap.zeroExtend 32)
    | 0x08 => some (w.tcause.zeroExtend 32)
    | 0x09 => some w.tpc
    | 0x0A => some (half w.tmask.toNat false)
    | 0x0B => some (half w.tmask.toNat true)
    | 0x0C => some (half w.taddr.toNat false)
    | 0x0D => some (half w.taddr.toNat true)
    | 0x0E => some w.tinfo
    | 0x1C => some (repWord w.rep)
    | 0x20 => some w.cfg
    | 0x21 => some (half (maskOf (w.fibres.map Prod.fst)).toNat false)
    | 0x22 => some (half (maskOf (w.fibres.map Prod.fst)).toNat true)
    | 0x24 => some (BitVec.ofNat 32 (idx % x))
    | 0x25 => some (BitVec.ofNat 32 (idx / x % y))
    | 0x26 => some (BitVec.ofNat 32 (idx / x / y))
    | 0x27 => some (BitVec.ofNat 32 w.num)
    | 0x28 => some (BitVec.ofNat 32 core)
    | 0x29 => some (BitVec.ofNat 32 (stackOf core))
    | 0x2A => some (BitVec.ofNat 32 (ctxOf s w))
    | 0x30 => some (half s.dev.cycles false)
    | 0x31 => some (half s.dev.cycles true)
    | 0x32 => some (BitVec.ofNat 32 (if stackOf core = 0 then s.dev.frame0 else s.dev.frame1))
    | 0x33 => some (BitVec.ofNat 32 (((s.block b).map Block.quality).getD 0))
    | 0x80 => some (hstatusWord w)
    | 0x84 => some (half (saveImg s b) false)
    | 0x85 => some (half (saveImg s b) true)
    | 0x86 => some (BitVec.ofNat 32 (saveSize s b))
    | 0x88 => some (BitVec.ofNat 32 idx)
    | 0xA0 => (s.ctxs.look (ctxOf s w)).map fun c => half c.shbase.toNat false
    | 0xA1 => (s.ctxs.look (ctxOf s w)).map fun c => half c.shbase.toNat true
    | 0xA2 => (s.ctxs.look (ctxOf s w)).map Ctx.shpacket
    | _ => none

/-- The low or high word of a 64-bit value replaced. -/
def withHalf (x : DWord) (high : Bool) (v : Word) : DWord :=
  if high then v.zeroExtend 64 <<< 32 ||| (x.truncate 32 : Word).zeroExtend 64
  else (x >>> 32) <<< 32 ||| v.zeroExtend 64

/-- A loop entry with one of its CSRs written. -/
def setLoopCsr (j : Nat) (v : Word) (e : LoopEntry) : LoopEntry :=
  match j with
  | 0 => { e with start := v }
  | 1 => { e with fin := v }
  | _ => { e with count := v.truncate 9 }

/-- A stream with its qbaselo written. -/
def setQbaselo (v : Word) (x : Stream) : Stream :=
  { x with base := (x.base >>> 32) <<< 32 ||| v.zeroExtend 64 }

/-- A stream with its qbasehi written: bit 15 is extended over the bits above (08_memory_spaces R178). -/
def setQbasehi (v : Word) (x : Stream) : Stream :=
  { x with base := (v.truncate 16 : BitVec 16).signExtend 64 <<< 32 ||| (x.base.truncate 32 : Word).zeroExtend 64 }

/-- A stream with its qstride written, when both strides are multiples of 4 (08_memory_spaces R179). -/
def setQstride (v : Word) (x : Stream) : Option Stream :=
  if v.toNat % 4 = 0 ∧ v.toNat / 2 ^ 16 % 4 = 0 then
    some { x with lanestride := v.truncate 16, step := (v >>> 16).truncate 16 }
  else none

/-- A stream with its qstate written: [26:0] are writable (02_encoding R32, 08_memory_spaces R178). -/
def setQstate (v : Word) (x : Stream) : Stream :=
  { x with count := v.truncate 24, active := v.getLsbD 24, underrun := v.getLsbD 25, overrun := v.getLsbD 26 }

/-- hstatus written: [2] and [4] are writable (19_traps R428). -/
def setHstatus (v : Word) (w : Wave) : Wave := { w with savedBit := v.getLsbD 2, step := v.getLsbD 4 }

/-- A context with one word of shbase written; the code base stays a multiple of 64 (19_traps R428). -/
def setShbase (high : Bool) (v : Word) (c : Ctx) : Option Ctx :=
  if !high && v.toNat % 64 != 0 then none else some { c with shbase := withHalf c.shbase high v }

/-- A CSR written by the issuing wave: the state and the wave after it, or nothing where the word gives trap 0x01: an absent
index, a CSR whose fields are all read-only, a value that breaks a limit, such as a tpc with slot 3 (R17, R32, 19_traps R428). -/
def csrWrite (s : State) (w : Wave) (i : Nat) (v : Word) : Option (State × Wave) :=
  if 0x10 ≤ i ∧ i ≤ 0x1B then
    let e := (i - 0x10) / 3
    some (s, { w with loops := w.loops.set e (setLoopCsr ((i - 0x10) % 3) v (w.loops.getD e LoopEntry.none)) })
  else if 0x40 ≤ i ∧ i ≤ 0x4F then
    let q := (i - 0x40) / 4
    let x := streamOf w q
    match i % 4 with
    | 0 => some (s, setStream w q (setQbaselo v x))
    | 1 => some (s, setStream w q (setQbasehi v x))
    | 2 => (setQstride v x).map fun y => (s, setStream w q y)
    | _ => some (s, setStream w q (setQstate v x))
  else if 0x90 ≤ i ∧ i ≤ 0x97 then some (s, { w with ubank := w.ubank.set (i - 0x90) v })
  else
    match i with
    | 0x00 => some (s, { w with fstat := v.truncate 7 })
    | 0x01 => some (s, { w with ftrap := v.truncate 7 })
    | 0x09 => if v.toNat % 4 = 3 then none else some (s, { w with tpc := v })
    | 0x0A => some (s, { w with tmask := withHalf w.tmask false v })
    | 0x0B => some (s, { w with tmask := withHalf w.tmask true v })
    | 0x1C => if 64 < v.toNat % 128 then none else some (s, { w with rep := repOf v })
    | 0x80 => some (s, setHstatus v w)
    | 0xA0 => ((s.ctxs.look (ctxOf s w)).bind (setShbase false v)).map fun c => (s.setCtx (ctxOf s w) c, w)
    | 0xA1 => ((s.ctxs.look (ctxOf s w)).bind (setShbase true v)).map fun c => (s.setCtx (ctxOf s w) c, w)
    | 0xA2 => (s.ctxs.look (ctxOf s w)).map fun c => (s.setCtx (ctxOf s w) { c with shpacket := v }, w)
    | _ => none

/-- Trap 0x01 of a batch with no detail: a limit that depends on the state is broken (R43). -/
def illegalHere (r : Wave) : Res := .trap (mkTrap 0x01 (batch r) 0 0)

/-- A CSR write run as a word of the issuing wave. -/
def csrWord (s : State) (i : Nat) (v : Wave → Word) : Host.Outcome State Fault Refusal :=
  runWord s fun k r w =>
    needLevel r (decide (i < 0x80) || r.level != .user) <|
      match csrWrite s w i (v r) with
      | some (s1, w1) => .ok (s1.setWave k w1)
      | none => illegalHere r

/-- CSRW (05_vector_scalar R92, R93). -/
def execCsrw (a : SReg) (i : BitVec 8) (s : State) : Host.Outcome State Fault Refusal :=
  csrWord s i.toNat fun r => sreg r a.toNat

/-- CSRR (05_vector_scalar R92). -/
def execCsrr (d : SReg) (i : BitVec 8) (s : State) : Host.Outcome State Fault Refusal :=
  runWord s fun k r w =>
    needLevel r (decide (i.toNat < 0x80) || r.level != .user) <|
      match csrRead s r i.toNat with
      | some x => .ok (s.setWave k (setSreg w d.toNat x))
      | none => illegalHere r

/-- A write of fstat: it replaces the flags (05_vector_scalar R93). -/
def execFstat (value : Word) (s : State) : Host.Outcome State Fault Refusal := csrWord s 0x00 fun _ => value

/-- A write of ftrap (05_vector_scalar R93). -/
def execFtrap (value : Word) (s : State) : Host.Outcome State Fault Refusal := csrWord s 0x01 fun _ => value

/-- A write of qbasehi of a stream (08_memory_spaces R178). -/
def execQbasehi (q : BitVec 2) (value : Word) (s : State) : Host.Outcome State Fault Refusal :=
  csrWord s (0x41 + 4 * q.toNat) fun _ => value

/-- A write of qstride of a stream (08_memory_spaces R179). -/
def execQstride (q : BitVec 2) (value : Word) (s : State) : Host.Outcome State Fault Refusal :=
  csrWord s (0x42 + 4 * q.toNat) fun _ => value

/-- A write of qstate of a stream (08_memory_spaces R178). -/
def execQstate (q : BitVec 2) (value : Word) (s : State) : Host.Outcome State Fault Refusal :=
  csrWord s (0x43 + 4 * q.toNat) fun _ => value

/-- A write of hstatus (19_traps R428). -/
def execHstatus (value : Word) (s : State) : Host.Outcome State Fault Refusal := csrWord s 0x80 fun _ => value

/-- A write of one word of shbase (19_traps R428). -/
def execShbase (high : Bool) (value : Word) (s : State) : Host.Outcome State Fault Refusal :=
  csrWord s (if high then 0xA1 else 0xA0) fun _ => value

end Sys2Proof.Machine
end

