-- ==== Sys2Proof/Machine/Float.lean ====
section
/-! DEFINITION. Floating-point formats, exact values, rounding and arithmetic (04_number_formats R58 to R61, R68 to R72). -/

namespace Sys2Proof.Machine

/-! ## Formats and exact values -/

/-- A floating-point format with an exponent of `eb` bits and a stored significand of `mb` bits; `top` is the largest finite
magnitude code, `inf` the infinity's, `nan` the canonical NaN's (R58, R59). -/
structure Fmt where
  eb : Nat
  mb : Nat
  bias : Nat
  top : Nat
  inf : Option Nat
  nan : Option Nat
  signals : Bool

/-- f32 (R58, R59). -/
def fmtF32 : Fmt := { eb := 8, mb := 23, bias := 127, top := 0x7F7FFFFF, inf := some 0x7F800000, nan := some 0x7FC00000, signals := true }

/-- f16. -/
def fmtF16 : Fmt := { eb := 5, mb := 10, bias := 15, top := 0x7BFF, inf := some 0x7C00, nan := some 0x7E00, signals := true }

/-- bf16. -/
def fmtBf16 : Fmt := { eb := 8, mb := 7, bias := 127, top := 0x7F7F, inf := some 0x7F80, nan := some 0x7FC0, signals := true }

/-- e4m3: no infinity, one NaN. -/
def fmtE4m3 : Fmt := { eb := 4, mb := 3, bias := 7, top := 0x7E, inf := none, nan := some 0x7F, signals := false }

/-- e5m2. -/
def fmtE5m2 : Fmt := { eb := 5, mb := 2, bias := 15, top := 0x7B, inf := some 0x7C, nan := some 0x7E, signals := false }

/-- e2m1: neither infinity nor NaN. -/
def fmtE2m1 : Fmt := { eb := 2, mb := 1, bias := 1, top := 7, inf := none, nan := none, signals := false }

/-- The width of a format in bits. -/
def Fmt.width (f : Fmt) : Nat := 1 + f.eb + f.mb

/-- The exponent of the last place of a subnormal. -/
def Fmt.low (f : Fmt) : Int := 1 - (f.bias : Int) - f.mb

/-- An exact value: a NaN that signals or not, an infinity, or (−1)^s · m · 2^e. -/
inductive FVal
  | nan (sig : Bool)
  | inf (s : Bool)
  | fin (s : Bool) (m : Nat) (e : Int)
deriving DecidableEq, Repr

/-- The value of an encoding (R59). -/
def decodeF (f : Fmt) (x : Nat) : FVal :=
  let s := bitAt x (f.eb + f.mb)
  let c := x % 2 ^ (f.eb + f.mb)
  let e := c / 2 ^ f.mb
  let m := c % 2 ^ f.mb
  if f.top < c then
    if f.inf = some c then .inf s else .nan (f.signals && !bitAt m (f.mb - 1))
  else if e = 0 then .fin s m f.low
  else .fin s (2 ^ f.mb + m) (f.low + e - 1)

/-! ## Rounding -/

/-- A result with its conditions. -/
structure FRes where
  bits : Nat
  conds : Conds

/-- Whether a magnitude cut after its integer part is raised by one unit, by mode and sign (R68). -/
def roundsUp (r : Rnd) (s : Bool) (q rem half : Nat) : Bool :=
  match r with
  | .rne => decide (half < rem) || (rem == half && q % 2 == 1)
  | .rz => false
  | .ru => !s && rem != 0
  | .rd => s && rem != 0

/-- m · 2^e as a multiple of 2^q, rounded, and whether it changed. -/
def roundAt (r : Rnd) (s : Bool) (m : Nat) (e q : Int) : Nat × Bool :=
  if q ≤ e then (m * 2 ^ (e - q).toNat, false)
  else
    let k := (q - e).toNat
    let t := m / 2 ^ k
    let rem := m % 2 ^ k
    (if roundsUp r s t rem (2 ^ (k - 1)) then t + 1 else t, rem != 0)

/-- The number of bits of a positive number. -/
def bitLen (m : Nat) : Nat := if m = 0 then 0 else Nat.log2 m + 1

/-- The exponent of the leading bit of m · 2^e. -/
def leadExp (m : Nat) (e : Int) : Int := e + bitLen m - 1

/-- The magnitude code of m · 2^e rounded to a format as if its exponent had no upper limit, and whether it changed. -/
def roundMag (f : Fmt) (r : Rnd) (s : Bool) (m : Nat) (e : Int) : Nat × Bool :=
  let q := max (leadExp m e - f.mb) f.low
  let t := roundAt r s m e q
  ((q - f.low).toNat * 2 ^ f.mb + t.1, t.2)

/-- m · 2^e rounded to the format's precision with an unbounded exponent lies below its smallest normal (R69). -/
def isTiny (f : Fmt) (r : Rnd) (s : Bool) (m : Nat) (e : Int) : Bool :=
  let q := leadExp m e - f.mb
  decide (leadExp (roundAt r s m e q).1 q < 1 - (f.bias : Int))

/-- The sign bit of a format. -/
def Fmt.sign (f : Fmt) (s : Bool) : Nat := if s then 2 ^ (f.eb + f.mb) else 0

/-- The mode rounds toward zero for a sign (R69). -/
def towardZero (r : Rnd) (s : Bool) : Bool :=
  match r with
  | .rne => false
  | .rz => true
  | .ru => s
  | .rd => !s

/-- A nonzero m · 2^e rounded into a format; `ovf` is delivered on overflow where the mode does not give the largest finite
value (R68, R69). -/
def roundFin (f : Fmt) (r : Rnd) (s : Bool) (m : Nat) (e : Int) (ovf : Nat) : FRes :=
  let t := roundMag f r s m e
  if f.top < t.1 then
    { bits := if towardZero r s then f.sign s + f.top else ovf, conds := overflow ||| inexact }
  else { bits := f.sign s + t.1, conds := raise inexact t.2 ||| raise underflow (t.2 && isTiny f r s m e) }

/-- The signed infinity of a format that has one. -/
def Fmt.infBits (f : Fmt) (s : Bool) : Nat := f.sign s + f.inf.getD f.top

/-- The canonical NaN of a format (R71). -/
def Fmt.nanBits (f : Fmt) : Nat := f.nan.getD 0

/-- An exact value delivered in a format with infinities (R68, R69, R71). -/
def deliver (f : Fmt) (r : Rnd) (v : FVal) (c : Conds) : FRes :=
  match v with
  | .nan _ => { bits := f.nanBits, conds := c }
  | .inf s => { bits := f.infBits s, conds := c }
  | .fin s m e =>
    if m = 0 then { bits := f.sign s, conds := c }
    else
      let t := roundFin f r s m e (f.infBits s)
      { t with conds := c ||| t.conds }

/-! ## Exact operations -/

/-- Invalid for a signalling NaN operand (R71). -/
def sigConds : FVal → Conds
  | .nan true => invalid
  | _ => 0

/-- A value is a NaN. -/
def FVal.isNan : FVal → Bool
  | .nan _ => true
  | _ => false

/-- A value with its sign inverted. -/
def FVal.neg : FVal → FVal
  | .nan g => .nan g
  | .inf s => .inf (!s)
  | .fin s m e => .fin (!s) m e

/-- The exact product, with invalid for 0 × ∞ and for a signalling NaN (R69, R72). -/
def mulX (a b : FVal) : FVal × Conds :=
  let c := sigConds a ||| sigConds b
  match a, b with
  | .nan _, _ => (.nan false, c)
  | _, .nan _ => (.nan false, c)
  | .inf s, .inf t => (.inf (s ^^ t), c)
  | .inf s, .fin t m _ => if m = 0 then (.nan false, invalid) else (.inf (s ^^ t), c)
  | .fin s m _, .inf t => if m = 0 then (.nan false, invalid) else (.inf (s ^^ t), c)
  | .fin s m e, .fin t n f => (.fin (s ^^ t) (m * n) (e + f), c)

/-- The signed integer of a sign and a magnitude. -/
def signInt (s : Bool) (m : Nat) : Int := if s then -(m : Int) else m

/-- The exact sum; an exact zero sum of opposite signs is +0, or −0 in RD (R72). -/
def addX (r : Rnd) (a b : FVal) : FVal × Conds :=
  let c := sigConds a ||| sigConds b
  match a, b with
  | .nan _, _ => (.nan false, c)
  | _, .nan _ => (.nan false, c)
  | .inf s, .inf t => if s = t then (.inf s, c) else (.nan false, invalid)
  | .inf s, .fin _ _ _ => (.inf s, c)
  | .fin _ _ _, .inf t => (.inf t, c)
  | .fin s m e, .fin t n f =>
    let g := min e f
    let x := signInt s (m * 2 ^ (e - g).toNat) + signInt t (n * 2 ^ (f - g).toNat)
    if x = 0 then (.fin (if s = t then s else decide (r = .rd)) 0 0, c) else (.fin (decide (x < 0)) x.natAbs g, c)

/-- vA + vB in a format (05_vector_scalar R100). -/
def fAdd (f : Fmt) (r : Rnd) (x y : Nat) : FRes :=
  let t := addX r (decodeF f x) (decodeF f y)
  deliver f r t.1 t.2

/-- vA − vB in a format (05_vector_scalar R100). -/
def fSub (f : Fmt) (r : Rnd) (x y : Nat) : FRes :=
  let t := addX r (decodeF f x) (decodeF f y).neg
  deliver f r t.1 t.2

/-- vA · vB in a format (05_vector_scalar R100). -/
def fMul (f : Fmt) (r : Rnd) (x y : Nat) : FRes :=
  let t := mulX (decodeF f x) (decodeF f y)
  deliver f r t.1 t.2

/-- vA · vB + vD, fused (05_vector_scalar R100). -/
def fFma (f : Fmt) (r : Rnd) (x y z : Nat) : FRes :=
  let p := mulX (decodeF f x) (decodeF f y)
  let t := addX r p.1 (decodeF f z)
  deliver f r t.1 (p.2 ||| t.2)

/-- The order of encodings other than NaNs, with −0 below +0 (R72). -/
def orderKey (f : Fmt) (x : Nat) : Int :=
  let c := x % 2 ^ (f.eb + f.mb)
  if bitAt x (f.eb + f.mb) then -(c : Int) - 1 else c

/-- minimumNumber or maximumNumber of two encodings (05_vector_scalar R101). -/
def fPick (f : Fmt) (big : Bool) (x y : Nat) : FRes :=
  let a := decodeF f x
  let b := decodeF f y
  let c := sigConds a ||| sigConds b
  if a.isNan && b.isNan then { bits := f.nanBits, conds := c }
  else if a.isNan then { bits := y, conds := c }
  else if b.isNan then { bits := x, conds := c }
  else { bits := if decide (orderKey f x ≤ orderKey f y) == big then y else x, conds := c }

/-- minimum or maximum of two encodings: a NaN when either is one (05_vector_scalar R101). -/
def fPickM (f : Fmt) (big : Bool) (x y : Nat) : FRes :=
  let a := decodeF f x
  let b := decodeF f y
  if a.isNan || b.isNan then { bits := f.nanBits, conds := sigConds a ||| sigConds b } else fPick f big x y

/-- A NaN operand made canonical, else the given result (05_vector_scalar R101, R102). -/
def fUnary (f : Fmt) (x : Nat) (y : FRes) : FRes :=
  match decodeF f x with
  | .nan g => { bits := f.nanBits, conds := raise invalid g }
  | _ => y

/-- |vA| with the sign of vB (05_vector_scalar R101). -/
def fCopySign (x y : Nat) : FRes := fUnary fmtF32 x { bits := x % 2 ^ 31 + bits y 31 31 * 2 ^ 31, conds := 0 }

/-- vA · 2^n (05_vector_scalar R101). -/
def fScale (x : Nat) (n : Int) : FRes :=
  match decodeF fmtF32 x with
  | .fin s m e => deliver fmtF32 .rne (.fin s m (e + max (-512) (min n 512))) 0
  | v => deliver fmtF32 .rne v (sigConds v)

/-- An f32 rounded to an integral value; `x` asks for inexact (05_vector_scalar R102). -/
def fRound (r : Rnd) (exact : Bool) (x : Nat) : FRes :=
  match decodeF fmtF32 x with
  | .fin s m e =>
    let t := roundAt r s m e 0
    if 0 ≤ e then { bits := x % 2 ^ 32, conds := 0 }
    else { (deliver fmtF32 .rne (.fin s t.1 0) 0) with conds := raise inexact (exact && t.2) }
  | v => deliver fmtF32 .rne v (sigConds v)

/-- Clamp to +0 .. 1 (05_vector_scalar R102). -/
def fSaturate (x : Nat) : FRes :=
  match decodeF fmtF32 x with
  | .nan g => { bits := 0, conds := raise invalid g }
  | _ => { bits := if bitAt x 31 then 0 else min x 0x3F800000, conds := 0 }

/-- The exponent of a value as int32 (05_vector_scalar R103). -/
def fGetExp (x : Nat) : Word × Conds :=
  match decodeF fmtF32 x with
  | .fin _ m e => if m = 0 then (0x80000000, invalid) else (wordOfInt (leadExp m e), 0)
  | _ => (0x7FFFFFFF, invalid)

/-- The significand of a value (05_vector_scalar R103). -/
def fGetMan (x : Nat) : FRes :=
  match decodeF fmtF32 x with
  | .fin s m e => deliver fmtF32 .rne (.fin s m (e - leadExp m e)) 0
  | v => deliver fmtF32 .rne v (sigConds v)

/-- The class bit of a value (05_vector_scalar R104). -/
def fClass (x : Nat) : Nat :=
  match decodeF fmtF32 x with
  | .nan true => 8
  | .nan false => 9
  | .inf s => if s then 0 else 7
  | .fin s m _ =>
    if m = 0 then (if s then 3 else 4) else if m < 2 ^ 23 then (if s then 2 else 5) else (if s then 1 else 6)

/-- The order of values, with −0 equal to +0 (R72). -/
def valueKey (f : Fmt) (x : Nat) : Int := signInt (bitAt x (f.eb + f.mb)) (x % 2 ^ (f.eb + f.mb))

/-- A comparison by code, with its condition (05_vector_scalar R105). -/
def fCompare (k : FCc) (x y : Nat) : Bool × Conds :=
  let a := decodeF fmtF32 x
  let b := decodeF fmtF32 y
  let un := a.isNan || b.isNan
  let sig := sigConds a ||| sigConds b
  let lt := decide (valueKey fmtF32 x < valueKey fmtF32 y)
  let le := decide (valueKey fmtF32 x ≤ valueKey fmtF32 y)
  match k with
  | .eq => (!un && le && !lt, sig)
  | .ne => (un || lt || !le, sig)
  | .lt => (!un && lt, raise invalid un)
  | .le => (!un && le, raise invalid un)
  | .gt => (!un && !le, raise invalid un)
  | .ge => (!un && !lt, raise invalid un)
  | .unord => (un, sig)
  | .ord => (!un, sig)
  | .ult => (un || lt, sig)
  | .ule => (un || le, sig)
  | .ugt => (un || !le, sig)
  | .uge => (un || !lt, sig)

end Sys2Proof.Machine
end

