-- ==== Sys2Proof/Machine/Atomic.lean ====
section
/-! DEFINITION. The new value that an atomic gives its location (10_memory_instructions R205, R206). -/

namespace Sys2Proof.Machine

/-- A signed minimum or maximum of `b`-bit values. -/
def pickSigned (b : Nat) (big : Bool) (x y : Nat) : Nat := if (decide (signed b x < signed b y)) == big then y else x

/-- An unsigned minimum or maximum. -/
def pickUnsigned (big : Bool) (x y : Nat) : Nat := if (decide (x < y)) == big then y else x

/-- Both 16-bit halves of a sum (R205). -/
def halfSums (f : Fmt) (x y : Nat) : Nat :=
  (fAdd f .rne (x % 2 ^ 16) (y % 2 ^ 16)).bits + 2 ^ 16 * (fAdd f .rne (bits x 31 16) (bits y 31 16)).bits

/-- The new value of a location of `b` bits: `m` is the old value, `d` the data operand (for CAS the expected value), `e` the
new value of CAS (R205, R206). -/
def atomNew (o : AtomOp) (b m d e : Nat) : Nat :=
  match o with
  | .add => (m + d) % 2 ^ b
  | .sub => (m + 2 ^ b - d) % 2 ^ b
  | .min => pickSigned b false m d
  | .max => pickSigned b true m d
  | .minu => pickUnsigned false m d
  | .maxu => pickUnsigned true m d
  | .iand => m &&& d
  | .ior => m ||| d
  | .ixor => m ^^^ d
  | .xchg => d
  | .cas => if m = d then e else m
  | .fadd => (fAdd fmtF32 .rne m d).bits
  | .hadd2 => halfSums fmtF16 m d
  | .badd2 => halfSums fmtBf16 m d
  | .incw => if d ≤ m then 0 else m + 1
  | .decw => if m = 0 ∨ d < m then d else m - 1

end Sys2Proof.Machine
end

