-- ==== Sys2Proof/Machine/Cache.lean ====
section
/-! DEFINITION. The L1s, the cluster filters and the directory (08_memory_spaces R169 to R177): lines, write-through of S bytes,
dropping of clean bytes, evictions, notices and the state of the home slice for one line. -/

namespace Sys2Proof.Machine

/-! ## Lines of an L1 -/

/-- The dirty bytes of an S line written through; they stay as clean bytes (R172). -/
def writeThrough (m : MemSys) (l : L1Line) : MemSys := putLine (storeDirty m l) { l with dirty := 0 }

/-- The S lines of a core that hold dirty bytes. -/
def dirtyLines (m : MemSys) (core : Nat) : List L1Line := m.l1.filter fun l => l.core == core && l.mode == .s && l.dirty != 0

/-- Every dirty S byte of a core written through (R172). -/
def releaseBytes (m : MemSys) (core : Nat) : MemSys := (dirtyLines m core).foldl writeThrough m

/-- Every clean S byte of a core dropped (R172). -/
def acquireBytes (m : MemSys) (core : Nat) : MemSys :=
  { m with l1 := m.l1.filterMap fun l =>
      if l.core == core && l.mode == .s then (if l.dirty == 0 then none else some { l with valid := l.valid &&& l.dirty }) else some l }

/-! ## The home slice of a line -/

/-- The lines of a core's dirty S bytes can all be taken. -/
def dirtyFree (m : MemSys) (core : Nat) : Bool := (dirtyLines m core).all fun l => lineFree m l.line

/-- The filter and the directory record that a core holds a line (R174). -/
def track (m : MemSys) (core line : Nat) : MemSys :=
  { m with
    filter := m.filter.put (2 ^ 40 * clusterOf core + line) (filterOf m (clusterOf core) line ||| (1 <<< (core % 8)))
    dir := m.dir.put (regionOf line) (dirOf m (regionOf line) ||| (1 <<< clusterOf core)) }

/-! ## Evictions -/

/-- A line leaves its L1 (R172, R175): an S line writes its dirty bytes through, a D line sends a notice, with its bytes when it
is dirty. -/
def evictLine (s : State) (l : L1Line) : State :=
  match l.mode with
  | .d =>
    if l.owned && l.dirty != 0 then
      { s with mem := putLine s.mem { l with valid := 0, leaving := true } }.post (.evictionNotice l.core l.line (some l.bytes))
    else { s with mem := dropLine s.mem l }.post (.evictionNotice l.core l.line none)
  | _ => { s with mem := dropLine (storeDirty s.mem l) l }

/-- The lines that take a way of a core's L1: all but those whose notice is under way (08_memory_spaces R174, R175). -/
def coreLines (m : MemSys) (core : Nat) : List L1Line := m.l1.filter fun l => l.core == core && !l.leaving

/-- The set of a line: 2,048 lines of 8 ways make 256 sets, indexed by the line's number (01_machine R7; the index is PRESUMED, log 72). -/
def l1Set (line : Nat) : Nat := line % 256

/-- The lines of a core that can leave its L1 now: not one whose probe data is under way. -/
def evictable (m : MemSys) (core : Nat) : List L1Line :=
  (coreLines m core).filter fun l => !l.inFlight && (l.mode == .d || l.dirty == 0 || lineFree m l.line)

/-- The other lines of a set. -/
def setLines (x : L1Line) (ls : List L1Line) : List L1Line := ls.filter fun l => l1Set l.line == l1Set x.line && !sameLine x l

/-- The eight ways of a line's set are taken by other lines (01_machine R7). -/
def setFull (m : MemSys) (x : L1Line) : Bool := decide (8 ≤ (setLines x (coreLines m x.core)).length)

/-- A full set has no line that could make way for another. -/
def noRoom (m : MemSys) (x : L1Line) : Bool := setFull m x && (setLines x (evictable m x.core)).isEmpty

/-- A line put in its L1, and a D line in the filter and the directory (R169, R174). -/
def enterLine (s : State) (x : L1Line) : State :=
  match x.mode with
  | .d => { s with mem := track (putLine s.mem x) x.core x.line }
  | _ => { s with mem := putLine s.mem x }

/-- A line filled into its L1; a full set gives up one of its eight lines, any of them that can leave, and else the new line leaves again at
once (R167, R169, 01_machine R7; DEDUCED, log 72). -/
def fillLine (s : State) (x : L1Line) : State :=
  let others := setLines x (evictable s.mem x.core)
  if !setFull s.mem x then enterLine s x
  else
    match others[Config.choose s.tick % others.length]? with
    | some l => enterLine (evictLine s l) x
    | none => evictLine (enterLine s x) x

/-- A line of a core's L1 that a request names: in D mode if it is held so, else in S mode. -/
def victim (m : MemSys) (core line : Nat) : Option L1Line :=
  (evictable m core).find? fun l => l.line == line

/-- L1_EVICTION (R172, R175). -/
def execL1Eviction (core line : Nat) (s : State) : Host.Outcome State Fault Refusal :=
  runEvent s (.l1Eviction core line) (victim s.mem core line).isSome fun s =>
    match victim s.mem core line with
    | some l => evictLine s l
    | none => s

/-- A dirty notice or probe data of a line comes to the home slice, unless a write has already taken the bytes there (R176). -/
def landDirty (m : MemSys) (core line : Nat) (bs : List Byte) : MemSys :=
  if m.l1.any fun l => l.core == core && l.line == line && l.inFlight then
    { m with
      mem := Memory.writes m.mem (64 * line) bs
      l1 := m.l1.filter fun l => !(l.core == core && l.line == line && l.mode == .d) }
  else m

/-- A cluster whose filter holds no line of a region while the directory has its bit, and no request there under way, sends its region
notice: the region is leaving until the directory acknowledges it (R175). -/
def settleRegion (s : State) (cluster region : Nat) : State :=
  if (dirOf s.mem region).getLsbD cluster && regionEmpty s.mem cluster region && !requested s.mem cluster region &&
      !s.mem.leaving.contains (cluster, region) then
    { s with mem := { s.mem with leaving := (cluster, region) :: s.mem.leaving } }.post (.regionNotice cluster region)
  else s

/-- EVICTION_NOTICE at the filter (R175, R177): the core's bit is cleared, a dirty line is written back, and the notice of the
region's last line sends the region notice. -/
def execEvictionNotice (core line : Nat) (data : Option (List Byte)) (s : State) : Host.Outcome State Fault Refusal :=
  runEvent s (.evictionNotice core line data) (s.pending.contains (.evictionNotice core line data)) fun s =>
    let m1 := match data with
      | some bs => landDirty s.mem core line bs
      | none => s.mem
    settleRegion { s with mem := untrack m1 core line } (clusterOf core) (regionOf line)

/-- REGION_NOTICE at the directory: the cluster's bit is cleared if it is still set, and the notice is acknowledged (R175, R177). -/
def execRegionNotice (cluster region : Nat) (s : State) : Host.Outcome State Fault Refusal :=
  runEvent s (.regionNotice cluster region) (s.pending.contains (.regionNotice cluster region)) fun s =>
    { s with mem := dirClear s.mem cluster region }.post (.noticeAck cluster region)

/-- NOTICE_ACK: the region leaves the leaving state (R175). -/
def execNoticeAck (cluster region : Nat) (s : State) : Host.Outcome State Fault Refusal :=
  runEvent s (.noticeAck cluster region) (s.pending.contains (.noticeAck cluster region)) fun s =>
    { s with mem := { s.mem with leaving := s.mem.leaving.erase (cluster, region) } }

/-! ## Probes -/

/-- The request that holds a line busy. -/
def busyOf (m : MemSys) (line : Nat) : Option BusyLine := m.busy.find? fun b => b.line == line

/-- A dirty notice of a line is on its way from a cluster (R176). -/
def noticeUnderWay (s : State) (cluster line : Nat) : Bool :=
  s.pending.any fun e => match e with
    | .evictionNotice core l (some _) => l == line && clusterOf core == cluster
    | _ => false

/-- A probe at one core that may hold the line: a copy goes to I or to SH, and a dirty copy is on its way home (R176). -/
def probeCore (inval : Bool) (line : Nat) (m : MemSys) (core : Nat) : MemSys :=
  match lineIn m core line .d with
  | none => untrack m core line
  | some l =>
    if l.owned && l.dirty != 0 then putLine m { l with valid := 0 }
    else if inval then untrack (dropLine m l) core line
    else putLine m { l with owned := false }

/-- The cores of a cluster whose bit is set for a line (R176). -/
def probed (m : MemSys) (cluster line : Nat) : List Nat :=
  ((List.range 8).filter fun j => (filterOf m cluster line).getLsbD j).map (8 * cluster + ·)

/-- The bytes that a cluster's acknowledgement carries (R176). -/
def probeData (m : MemSys) (cluster line : Nat) : Option (List Byte) :=
  (m.l1.find? fun l => l.line == line && clusterOf l.core == cluster && l.inFlight).map L1Line.bytes

/-- PROBE at a cluster (R176): answered by one acknowledgement, and not before a dirty notice of the line has been written back. An
answer with "region empty" counts as a region notice, so until it is taken the region is leaving: no request of the cluster overtakes it
(R175, R177; DEDUCED, log 67). -/
def execProbe (cluster line : Nat) (inval : Bool) (s : State) : Host.Outcome State Fault Refusal :=
  runEvent s (.probe cluster line inval)
    (s.pending.contains (.probe cluster line inval) && !noticeUnderWay s cluster line) fun s =>
      let m1 := (probed s.mem cluster line).foldl (probeCore inval line) s.mem
      let data := probeData m1 cluster line
      let empty := data.isNone && regionEmpty m1 cluster (regionOf line) && !requested s.mem cluster (regionOf line)
      { s with mem := if empty then { m1 with leaving := (cluster, regionOf line) :: m1.leaving } else m1 }.post
        (.probeAck cluster line empty data)

end Sys2Proof.Machine
end

