-- ==== Sys2Proof/Machine/Alu.lean ====
section
/-! DEFINITION. The integer operations of the uniform and the vector words (05_vector_scalar R90, R91, R96 to R98). -/

namespace Sys2Proof.Machine

/-- Multiply high, signed: bits [63:32] of the signed product. -/
def mulhS (x y : Word) : Word := BitVec.ofInt 32 (x.toInt * y.toInt / 2 ^ 32)

/-- Multiply high, unsigned. -/
def mulhU (x y : Word) : Word := BitVec.ofNat 32 (x.toNat * y.toNat / 2 ^ 32)

/-- The shift count of an operand. -/
def shiftCount (y : Word) : Nat := y.toNat % 256

/-- Shift left; 0 when the count is 32 or more. -/
def shlW (x y : Word) : Word := if 32 ≤ shiftCount y then 0 else x <<< shiftCount y

/-- Shift right with zero fill; 0 when the count is 32 or more. -/
def shrW (x y : Word) : Word := if 32 ≤ shiftCount y then 0 else x >>> shiftCount y

/-- Shift right with sign fill. -/
def sraW (x y : Word) : Word :=
  if 32 ≤ shiftCount y then (if x.msb then BitVec.allOnes 32 else 0) else x.sshiftRight (shiftCount y)

/-- Signed minimum. -/
def minS (x y : Word) : Word := if x.toInt ≤ y.toInt then x else y

/-- Signed maximum. -/
def maxS (x y : Word) : Word := if x.toInt ≤ y.toInt then y else x

/-- Unsigned minimum. -/
def minU (x y : Word) : Word := if x.toNat ≤ y.toNat then x else y

/-- Unsigned maximum. -/
def maxU (x y : Word) : Word := if x.toNat ≤ y.toNat then y else x

/-- A sign-extended immediate (02_encoding R40). -/
def immS {n : Nat} (i : BitVec n) : Word := i.signExtend 32

/-- A zero-extended immediate (02_encoding R40). -/
def immZ {n : Nat} (i : BitVec n) : Word := i.zeroExtend 32

/-- SBYTE: one byte of a register replaced (02_encoding R40). -/
def setByte (x : Word) (b : BitVec 2) (i : BitVec 8) : Word :=
  (x &&& ~~~((0xFF : Word) <<< (8 * b.toNat))) ||| (i.zeroExtend 32 <<< (8 * b.toNat))

/-- An integer comparison by code (05_vector_scalar R91). -/
def icmp (k : ICc) (x y : Word) : Bool :=
  match k with
  | .eq => x == y
  | .ne => x != y
  | .lt => decide (x.toInt < y.toInt)
  | .le => decide (x.toInt ≤ y.toInt)
  | .gt => decide (y.toInt < x.toInt)
  | .ge => decide (y.toInt ≤ x.toInt)
  | .ltu => decide (x.toNat < y.toNat)
  | .leu => decide (x.toNat ≤ y.toNat)
  | .gtu => decide (y.toNat < x.toNat)
  | .geu => decide (y.toNat ≤ x.toNat)

/-- The number of 1 bits. -/
def popcount (x : Word) : Word := BitVec.ofNat 32 ((List.range 32).filter x.getLsbD).length

/-- Leading zero bits of a number below 2^n, counted from bit n − 1. -/
def leadZeros (x : Nat) : Nat → Nat
  | 0 => 0
  | n + 1 => if bitAt x n then 0 else leadZeros x n + 1

/-- The bits of a word in reverse order. -/
def bitRev (x : Word) : Word := (List.range 32).foldl (fun a k => if x.getLsbD k then a ||| ((1 : Word) <<< (31 - k)) else a) 0

/-- The position of a bit field (05_vector_scalar R98). -/
def fieldPos (y : Word) : Nat := bits y.toNat 4 0

/-- The length of a bit field, cut at bit 31 (05_vector_scalar R98). -/
def fieldLen (y : Word) : Nat := min (min (bits y.toNat 13 8) 32) (32 - fieldPos y)

/-- A field, zero-extended (05_vector_scalar R98). -/
def fieldU (x y : Word) : Word := BitVec.ofNat 32 (x.toNat / 2 ^ fieldPos y % 2 ^ fieldLen y)

/-- A field, sign-extended (05_vector_scalar R98). -/
def fieldS (x y : Word) : Word :=
  if fieldLen y = 0 then 0 else BitVec.ofInt 32 (signed (fieldLen y) (fieldU x y).toNat)

/-- A field replaced by the low bits of `x` (05_vector_scalar R98). -/
def fieldIns (d x y : Word) : Word :=
  let mask : Word := BitVec.ofNat 32 (2 ^ fieldLen y - 1)
  (d &&& ~~~(mask <<< fieldPos y)) ||| ((x &&& mask) <<< fieldPos y)

end Sys2Proof.Machine
end

