-- ==== Sys2Proof/Machine/Uniform.lean ====
section
/-! DEFINITION. The words of the S pipe that compute on uniform registers (05_vector_scalar R86, R90 to R92, R95,
02_encoding R40). -/

namespace Sys2Proof.Machine

/-- sD := Op(sA, sB) (R90). -/
def uniOp (op : Word → Word → Word) (d a b : SReg) (s : State) : Host.Outcome State Fault Refusal :=
  uniWord s fun r w => setSreg w d.toNat (op (sreg r a.toNat) (sreg r b.toNat))

/-- sD := Op(sA, Imm) (R90). -/
def uniImm (op : Word → Word → Word) (d a : SReg) (i : Word) (s : State) : Host.Outcome State Fault Refusal :=
  uniWord s fun r w => setSreg w d.toNat (op (sreg r a.toNat) i)

/-- SADD (R90). -/
def execSadd (d a b : SReg) (s : State) : Host.Outcome State Fault Refusal := uniOp (· + ·) d a b s

/-- SSUB (R90). -/
def execSsub (d a b : SReg) (s : State) : Host.Outcome State Fault Refusal := uniOp (· - ·) d a b s

/-- SMUL (R90). -/
def execSmul (d a b : SReg) (s : State) : Host.Outcome State Fault Refusal := uniOp (· * ·) d a b s

/-- SMULH (R90). -/
def execSmulh (d a b : SReg) (s : State) : Host.Outcome State Fault Refusal := uniOp mulhS d a b s

/-- SAND (R90). -/
def execSand (d a b : SReg) (s : State) : Host.Outcome State Fault Refusal := uniOp (· &&& ·) d a b s

/-- SOR (R90). -/
def execSor (d a b : SReg) (s : State) : Host.Outcome State Fault Refusal := uniOp (· ||| ·) d a b s

/-- SXOR (R90). -/
def execSxor (d a b : SReg) (s : State) : Host.Outcome State Fault Refusal := uniOp (· ^^^ ·) d a b s

/-- SSHL (R90). -/
def execSshl (d a b : SReg) (s : State) : Host.Outcome State Fault Refusal := uniOp shlW d a b s

/-- SSHR (R90). -/
def execSshr (d a b : SReg) (s : State) : Host.Outcome State Fault Refusal := uniOp shrW d a b s

/-- SSRA (R90). -/
def execSsra (d a b : SReg) (s : State) : Host.Outcome State Fault Refusal := uniOp sraW d a b s

/-- SMIN (R90). -/
def execSmin (d a b : SReg) (s : State) : Host.Outcome State Fault Refusal := uniOp minS d a b s

/-- SMAX (R90). -/
def execSmax (d a b : SReg) (s : State) : Host.Outcome State Fault Refusal := uniOp maxS d a b s

/-- SMINU (R90). -/
def execSminu (d a b : SReg) (s : State) : Host.Outcome State Fault Refusal := uniOp minU d a b s

/-- SMAXU (R90). -/
def execSmaxu (d a b : SReg) (s : State) : Host.Outcome State Fault Refusal := uniOp maxU d a b s

/-- SMOV (R90). -/
def execSmov (d a : SReg) (s : State) : Host.Outcome State Fault Refusal :=
  uniWord s fun r w => setSreg w d.toNat (sreg r a.toNat)

/-- SADDI (R90, R40). -/
def execSaddi (d a : SReg) (i : BitVec 8) (s : State) : Host.Outcome State Fault Refusal :=
  uniImm (· + ·) d a (immS i) s

/-- SANDI (R90, R40). -/
def execSandi (d a : SReg) (i : BitVec 8) (s : State) : Host.Outcome State Fault Refusal :=
  uniImm (· &&& ·) d a (immZ i) s

/-- SORI (R90, R40). -/
def execSori (d a : SReg) (i : BitVec 8) (s : State) : Host.Outcome State Fault Refusal :=
  uniImm (· ||| ·) d a (immZ i) s

/-- SXORI (R90, R40). -/
def execSxori (d a : SReg) (i : BitVec 8) (s : State) : Host.Outcome State Fault Refusal :=
  uniImm (· ^^^ ·) d a (immZ i) s

/-- SSHLI (R90, R40). -/
def execSshli (d a : SReg) (i : BitVec 5) (s : State) : Host.Outcome State Fault Refusal :=
  uniImm shlW d a (immZ i) s

/-- SSHRI (R90, R40). -/
def execSshri (d a : SReg) (i : BitVec 5) (s : State) : Host.Outcome State Fault Refusal :=
  uniImm shrW d a (immZ i) s

/-- SSRAI (R90, R40). -/
def execSsrai (d a : SReg) (i : BitVec 5) (s : State) : Host.Outcome State Fault Refusal :=
  uniImm sraW d a (immZ i) s

/-- SBYTE (02_encoding R40). -/
def execSbyte (d : SReg) (a : BitVec 2) (i : BitVec 8) (s : State) : Host.Outcome State Fault Refusal :=
  uniWord s fun r w => setSreg w d.toNat (setByte (sreg r d.toNat) a i)

/-- SCMP: the predicate of every live fibre of the wave, in the batch or not (R91). -/
def execScmp (p : PReg) (a b : SReg) (k : ICc) (s : State) : Host.Outcome State Fault Refusal :=
  uniWord s fun r w =>
    { w with fibres := w.fibres.map fun q =>
        (q.1, { q.2 with preds := setPred q.2.preds p (icmp k (sreg r a.toNat) (sreg r b.toNat)) }) }

/-- The special value of a fibre (R94). -/
def spr (i : Nat) (lane : Nat) (f : Fibre) : Word :=
  match i with
  | 0 => BitVec.ofNat 32 lane
  | 1 => BitVec.ofNat 32 f.base
  | 2 => predWord f.preds
  | 3 => BitVec.ofNat 32 ((if f.padding then 1 else 0) + (if f.spawned then 2 else 0) + (if f.fragment then 4 else 0))
  | _ => BitVec.ofNat 32 f.pc.packet

/-- The destination check of a word of the S pipe that writes vD: such a word never names a queue port, so a D of 124 to 127 gives
0x05, as an A of RDLANE does (R87; the code is DEDUCED, log 56). -/
def uniDst (d : VReg) (r : Wave) : Option Trap :=
  if 124 ≤ d.toNat then some (mkTrap 0x05 (batch r) 0 0) else portCheck r [] [d.toNat]

/-- SPR (R87, R92, R94). -/
def execSpr (d : VReg) (i : BitVec 8) (s : State) : Host.Outcome State Fault Refusal :=
  vecRun s (uniDst d) [] (some d.toNat) fun _ _ x => x.reg (spr i.toNat x.lane x.fibre)

/-- MOVS (R87, R92). -/
def execMovs (d : VReg) (a : SReg) (s : State) : Host.Outcome State Fault Refusal :=
  vecRun s (uniDst d) [] (some d.toNat) fun r _ x => x.reg (sreg r a.toNat)

/-- Register `v` of a lane slot as another word reads it: 0 without a live fibre or outside that lane's window (R95, R113). -/
def laneReg (s : State) (r : Wave) (lane v : Nat) : Word :=
  match r.fibres.look lane with
  | some f => if f.base + v < r.p then vreg s r lane f v else 0
  | none => 0

/-- RDLANE (R95). -/
def execRdlane (d : SReg) (a : VReg) (i : BitVec 8) (s : State) : Host.Outcome State Fault Refusal :=
  runWord s fun k r w =>
    if r.width ≤ i.toNat then illegalHere r
    else if a.toNat < 124 ∧ r.n ≤ a.toNat then .trap (mkTrap 0x04 (batch r) 0 0)
    else if 124 ≤ a.toNat then .trap (mkTrap 0x05 (batch r) 0 0)
    else .ok (s.setWave k (setSreg w d.toNat (laneReg s r i.toNat a.toNat)))

end Sys2Proof.Machine
end

