-- ==== Sys2Proof/Machine/Control.lean ====
section
/-! DEFINITION. The control words: CTL, branches, jumps, calls, loops, REP and WAIT (15_execution_model R330 to R343). -/

namespace Sys2Proof.Machine

/-! ## Shared operations -/

/-- The packet of the batch that issues. -/
def herePacket (r : Wave) : Nat := ((minPc r).map Pc.packet).getD 0

/-- The target packet of a signed displacement, if it is not below 0 (02_encoding R26). -/
def target (r : Wave) (d : BitVec 8) : Option Nat :=
  let t := (herePacket r : Int) + d.toInt
  if t < 0 then none else some t.toNat

/-- The batch of a control word sent to its places: it no longer takes the next chain of itself. -/
def State.moved (s : State) (k : Nat) (w : Wave) : State :=
  { s.setWave k w with issue := { s.issue with moved := true } }

/-- Fibres that are to go to a packet, and the rest of the batch to its next chain (R333). -/
def splitTo (s : State) (w : Wave) (lanes go : List Nat) (t : Nat) : Wave :=
  (advance w (lanes.filter fun l => !go.contains l) s.issue.next).sendTo go { packet := t, slot := 0 }

/-- A branch word: the fibres that `sel` chooses from the batch go to the target (R333). -/
def branch (d : BitVec 8) (sel : List (Nat × Fibre) → List Nat) (s : State) : Host.Outcome State Fault Refusal :=
  runWord s fun k r w =>
    match target r d with
    | none => illegalHere r
    | some t => .ok (s.moved k (splitTo s w (batch r) (sel (fibresOf r (batch r))) t))

/-- A fibre's condition of a branch: pP(f) XOR N (R333). -/
def taken (p : PReg) (n : Bool) (f : Nat × Fibre) : Bool := pred f.2 p ^^ n

/-! ## CTL -/

/-- NOP (R24). -/
def execNop (s : State) : Host.Outcome State Fault Refusal := uniWord s fun _ w => w

/-- HALT (R331, R430). -/
def execHalt (s : State) : Host.Outcome State Fault Refusal :=
  runWord s fun k r w => .ok ((batch r).foldl (fun s l => endFibre s k l) (s.moved k w))

/-- A wave ends as saved: its fibres leave without an effect on their sections, which the save image holds (19_traps R430,
R434). The block leaves its core when every wave that was live at the request has ended so. -/
def endSaved (s : State) (k : Nat) : State :=
  match s.wave k with
  | none => s
  | some w =>
    let s1 := s.setWave k { w with fibres := [], due := [], repAt := none }
    let s2 := match s1.block w.blk with
      | some b => s1.setBlock w.blk { b with
          savedWaves := b.savedWaves ++ [w.num]
          savedUids := w.fibres.foldl (fun m p => m.put (64 * w.num + p.1) (p.2.uid, p.2.frag)) b.savedUids
          holdsSections := b.holdsSections || w.fibres.any fun p => p.2.slots.any fun x => x.st == .held }
      | none => s1
    let s3 := if blockIdle s2 w.blk then s2.post (.saveComplete w.blk) else s2
    reapWave (dropWaits s3 fun q => w.fibres.any fun p => p.2.uid == q.req.uid) k

/-- EXIT (R329, 19_traps R430). -/
def execExit (s : State) : Host.Outcome State Fault Refusal :=
  runWord s fun k _ w =>
    if w.inHandler && w.handlerCause == 0x30 && w.savedBit then .ok (endSaved (s.moved k w) k)
    else .ok (endWave (s.moved k w) k)

/-- YIELD: the batch moves to its next chain; the wave takes the last place of the issue order, as after every issue (R330). -/
def execYield (s : State) : Host.Outcome State Fault Refusal := uniWord s fun _ w => w

/-- Fibres parked at the chain that issues. -/
def parkAt (s : State) (w : Wave) (lanes : List Nat) (kind : Nat → Park) : Wave :=
  lanes.foldl (fun w l => w.mapFibre l fun f => { f with park := some { kind := kind l, next := s.issue.next } }) w

/-- CONV: the batch parks; the wave's fibres are released when all stand parked here (R332, `afterChain`). -/
def execConv (s : State) : Host.Outcome State Fault Refusal :=
  runWord s fun k r w => .ok (s.moved k (parkAt s w (batch r) fun _ => .conv))

/-! ## Branches -/

/-- BRA (R333). -/
def execBra (d : BitVec 8) (s : State) : Host.Outcome State Fault Refusal := branch d (fun fs => fs.map Prod.fst) s

/-- BR (R333). -/
def execBr (p : PReg) (n : Bool) (d : BitVec 8) (s : State) : Host.Outcome State Fault Refusal :=
  branch d (fun fs => (fs.filter (taken p n)).map Prod.fst) s

/-- BRALL (R333). -/
def execBrall (p : PReg) (n : Bool) (d : BitVec 8) (s : State) : Host.Outcome State Fault Refusal :=
  branch d (fun fs => if fs.all (taken p n) then fs.map Prod.fst else []) s

/-- BRANY (R333). -/
def execBrany (p : PReg) (n : Bool) (d : BitVec 8) (s : State) : Host.Outcome State Fault Refusal :=
  branch d (fun fs => if fs.any (taken p n) then fs.map Prod.fst else []) s

/-! ## Jumps, calls and returns -/

/-- Each fibre of the batch sent to a packet of its own (R334). -/
def jumpLanes (w : Wave) (ts : List (Nat × Nat)) : Wave :=
  ts.foldl (fun w t => w.sendTo [t.1] { packet := t.2, slot := 0 }) w

/-- JMPS (R334). -/
def execJmps (a : SReg) (s : State) : Host.Outcome State Fault Refusal :=
  runWord s fun k r w => .ok (s.moved k (w.sendTo (batch r) { packet := (sreg r a.toNat).toNat, slot := 0 }))

/-- JMPV (R334). -/
def execJmpv (a : VReg) (s : State) : Host.Outcome State Fault Refusal :=
  readWord s (fun r => portCheck r [a.toNat] []) [a.toNat] fun k _ w ins =>
    .ok (s.moved k (jumpLanes w (ins.map fun x => (x.lane, (x.arg 0).toNat))))

/-- The top entry of the loop stack (R336). -/
def topEntry (w : Wave) : Option (Nat × LoopEntry) :=
  (((List.range w.loops.length).zip w.loops).filter fun p => p.2.count != 0).getLast?

/-- A packet lies in the range of a loop entry (R335, R347). -/
def LoopEntry.holds (e : LoopEntry) (pkt : Nat) : Bool :=
  e.count != 0 && decide (e.start.toNat ≤ pkt) && decide (pkt ≤ e.fin.toNat)

/-- A call by the batch: link words in the new windows, then the targets (R335). -/
def callTo (s : State) (k : Nat) (r w : Wave) (d sh : Nat) (ts : List (Nat × Nat)) : Res :=
  let bad := (fibresOf r (batch r)).filter fun p => decide (r.n ≤ d) || decide (r.p ≤ p.2.base + 8 * sh + d)
  if !bad.isEmpty then .trap (mkTrap 0x04 (bad.map Prod.fst) 0 0)
  else if ((topEntry r).map fun e => e.2.holds (herePacket r)).getD false then .trap (mkTrap 0x06 (batch r) 0 5)
  else
    let link := BitVec.ofNat 32 (8 * (herePacket r + 1) + sh)
    let w1 := (fibresOf r (batch r)).foldl (fun w p =>
      writePhys (w.mapFibre p.1 fun f => { f with base := f.base + 8 * sh }) p.1 (p.2.base + 8 * sh + d) link) w
    .ok (s.moved k (jumpLanes w1 ts))

/-- CALL (R335). -/
def execCall (d : VReg) (n : BitVec 3) (i : BitVec 8) (s : State) : Host.Outcome State Fault Refusal :=
  runWord s fun k r w =>
    match target r i with
    | none => illegalHere r
    | some t => callTo s k r w d.toNat n.toNat ((batch r).map fun l => (l, t))

/-- CALLV: vA is read in the caller's window (R335). -/
def execCallv (d a : VReg) (n : BitVec 3) (s : State) : Host.Outcome State Fault Refusal :=
  readWord s (fun r => portCheck r [a.toNat] []) [a.toNat] fun k r w ins =>
    callTo s k r w d.toNat n.toNat (ins.map fun x => (x.lane, (x.arg 0).toNat))

/-- RET (R335). -/
def execRet (a : VReg) (s : State) : Host.Outcome State Fault Refusal :=
  readWord s (fun r => portCheck r [a.toNat] []) [a.toNat] fun k _ w ins =>
    let bad := ins.filter fun x => decide (x.fibre.base < 8 * ((x.arg 0).toNat % 8))
    if !bad.isEmpty then .trap (mkTrap 0x04 (bad.map LaneIn.lane) 0 0)
    else
      let w1 := ins.foldl (fun w x => w.mapFibre x.lane fun f => { f with base := f.base - 8 * ((x.arg 0).toNat % 8) }) w
      .ok (s.moved k (jumpLanes w1 (ins.map fun x => (x.lane, (x.arg 0).toNat / 8))))

/-! ## Loops -/

/-- Every live fibre of the wave is in the batch (R337). -/
def converged (r : Wave) : Bool := (batch r).length == r.fibres.length

/-- A loop of `n` iterations whose body ends `e` packets on (R337, 19_traps R427). -/
def loopWord (s : State) (k : Nat) (r w : Wave) (n e : Nat) : Res :=
  if r.inHandler then illegalHere r
  else if !converged r then .trap (mkTrap 0x06 (batch r) 0 0)
  else if n = 0 then .ok (s.moved k (w.sendTo (batch r) { packet := herePacket r + e + 1, slot := 0 }))
  else
    let top := ((topEntry r).map fun p => p.1 + 1).getD 0
    if 4 ≤ top then .trap (mkTrap 0x23 (batch r) 0 0)
    else
      let entry : LoopEntry :=
        { start := BitVec.ofNat 32 (herePacket r + 1), fin := BitVec.ofNat 32 (herePacket r + e), count := BitVec.ofNat 9 n }
      .ok (s.moved k ({ w with loops := w.loops.set top entry }.sendTo (batch r) { packet := herePacket r + 1, slot := 0 }))

/-- LOOPI; a coded count of 0 is 256 (R336, R337). -/
def execLoopi (n e : BitVec 8) (s : State) : Host.Outcome State Fault Refusal :=
  runWord s fun k r w => loopWord s k r w (if n = 0 then 256 else n.toNat) e.toNat

/-- LOOPS (R336, R337). -/
def execLoops (a : SReg) (e : BitVec 8) (s : State) : Host.Outcome State Fault Refusal :=
  runWord s fun k r w =>
    if 511 < (sreg r a.toNat).toNat then illegalHere r else loopWord s k r w (sreg r a.toNat).toNat e.toNat

/-- LBRK: the top entry is popped; PopEmpty follows with the end of the chain (R339, 19_traps R427). -/
def execLbrk (s : State) : Host.Outcome State Fault Refusal :=
  runWord s fun k r w =>
    if r.inHandler then illegalHere r
    else
      match topEntry w with
      | some (i, _) => .ok (s.setWave k { w with loops := w.loops.set i LoopEntry.none })
      | none => .ok s

/-! ## REP and WAIT -/

/-- The REP state with which a REP of `n` repeats starts (R342). -/
def repStart (n : Nat) (x y z : Bool) (sc : BitVec 2) : RepState :=
  { remaining := BitVec.ofNat 7 n, active := true,
    steps := BitVec.ofNat 3 ((if x then 4 else 0) + (if y then 2 else 0) + (if z then 1 else 0)), stride := sc }

/-- The slot of the word that issues, from where its batch goes next. -/
def hereSlot (s : State) : Nat :=
  match s.issue.next with
  | .slot k => k - 1
  | _ => 0

/-- REP: the wave's next issues are the repeats of the next word (R341, R342, 19_traps R427). -/
def execRep (n : BitVec 6) (x y z : Bool) (sc : BitVec 2) (s : State) : Host.Outcome State Fault Refusal :=
  runWord s fun k r w =>
    if r.inHandler then illegalHere r
    else
      let p : Pc := { packet := herePacket r, slot := hereSlot s }
      .ok (s.moved k ({ w with rep := repStart (n.toNat + 1) x y z sc, repAt := some p }.sendTo (batch r) p))

/-- The operations of a class that its counter counts: issued and not yet completed (02_encoding R34). -/
def outstandingOps (w : Wave) (c : OpCls) : List MemOp := w.ops.filter fun o => o.cls == some c && !o.counted

/-- The counter of a class (02_encoding R34). -/
def opCount (w : Wave) (c : OpCls) : Nat := (outstandingOps w c).length

/-- A wave with 63 operations of a class outstanding stalls the next (02_encoding R34). -/
def classFull (w : Wave) (c : OpCls) : Bool := decide (63 ≤ opCount w c)

/-- A counter is at or below a field of WAIT; 63 places no condition (02_encoding R35). -/
def waitDone (w : Wave) (c : OpCls) (x : BitVec 6) : Bool := x == 63 || decide (opCount w c ≤ x.toNat)

/-- The words that an access writes to its registers (10_memory_instructions R200). -/
def Sub.words (x : Sub) : List Word :=
  let low : Word :=
    match x.acc with
    | .load true => BitVec.ofInt 32 (signed (8 * min x.n 4) (x.value.toNat % 2 ^ (8 * min x.n 4)))
    | _ => x.value.truncate 32
  [low, (x.value >>> 32).truncate 32, x.extra.truncate 32, (x.extra >>> 32).truncate 32].take x.dstN

/-- One result register of an operation written: where another word has written it meanwhile, either value stands (R36). -/
def landWord (s : State) (o : MemOp) (lane : Nat) (w : Wave) (q : Nat × Word) : Wave :=
  let keep := o.clobbered.contains (lane, q.1) && (Config.freeWord s.tick (physKey lane q.1)).getLsbD 0
  if o.dests.contains (lane, q.1) && !keep then { w with vregs := w.vregs.store (physKey lane q.1) q.2 0 } else w

/-- The results of an operation written to its registers (R34, R36). -/
def landOp (s : State) (w : Wave) (o : MemOp) : Wave :=
  o.subs.foldl (fun w x => ((List.range x.dstN).map (x.dst + ·)).zip x.words |>.foldl (landWord s o x.lane) w) w

/-- A WAIT with field `x` covers the operations of a class, older than operation `n`, other than the `x` most recent of them: their
results stand in their registers from here on. An FEXP that its counter no longer shows and that no bank has applied stays for the words that
its order holds back (02_encoding R35, R36, 09_consistency R185, 13_raster R305). -/
def cover (s : State) (c : OpCls) (x n : Nat) (w : Wave) : Wave :=
  let mine := w.ops.filter fun o => o.cls == some c && decide (o.id < n)
  let old := (mine.take (mine.length - x)).filter MemOp.performed
  let w1 := old.foldl (landOp s) w
  { w1 with ops := w1.ops.filter fun o => !(old.any fun q => q.id == o.id) }

/-- The classes of a WAIT covered, for the operations older than `n`; a field of 63 covers nothing. -/
def coverAll (s : State) (n : Nat) (w : Wave) (xs : List (OpCls × BitVec 6)) : Wave :=
  xs.foldl (fun w p => if p.2 = 63 then w else cover s p.1 p.2.toNat n w) w

/-- WAIT (R343): it covers the operations that stood before its chain, as it tests them (02_encoding R20, R35). -/
def execWait (l st p t : BitVec 6) (s : State) : Host.Outcome State Fault Refusal :=
  runWord s fun k r w =>
    if waitDone r .ld l && waitDone r .st st && waitDone r .cp p && waitDone r .tl t then
      .ok (s.setWave k (coverAll s r.nextOp w [(.ld, l), (.st, st), (.cp, p), (.tl, t)]))
    else .hold

end Sys2Proof.Machine
end

