-- ==== Sys2Proof/Machine/Surface.lean ====
section
/-! DEFINITION. Surface table entries, cells and pixels, the surface pool and its evictions (13_raster R279, R281, R283 to
R286). -/

namespace Sys2Proof.Machine

/-! ## Surface table entries -/

/-- A surface table entry of a context (R279). -/
def steOf (s : State) (ctx i : Nat) : Ste := ((s.ctxs.look ctx).bind fun c => c.stes.look i).getD Ste.zero

/-- The 64 bytes of an entry in its table (R279). -/
def steBytes (e : Ste) : List Byte :=
  leBytes e.w0.toNat 4 ++ leBytes e.w1.toNat 4 ++ leBytes e.clear.toNat 8 ++ leBytes e.spill.toNat 8 ++ leBytes e.stream.toNat 4 ++
    leBytes e.w7.toNat 4 ++ List.replicate 32 0

/-- The entry that stands in a table at a frame (R279). -/
def steAt (m : MemSys) (frame i : Nat) : Ste :=
  let a := frame + 64 * i
  { w0 := BitVec.ofNat 32 (devRead m a 4), w1 := BitVec.ofNat 32 (devRead m (a + 4) 4), clear := BitVec.ofNat 64 (devRead m (a + 8) 8)
    spill := BitVec.ofNat 64 (devRead m (a + 16) 8), stream := BitVec.ofNat 32 (devRead m (a + 24) 4)
    w7 := BitVec.ofNat 32 (devRead m (a + 28) 4) }

/-- An entry written: the base die's copy, and the context's table at its surface table frame (R279, 17_translation R387). -/
def setSte (s : State) (ctx i : Nat) (e : Ste) : State :=
  match s.ctxs.look ctx with
  | some c =>
    { s.setCtx ctx { c with stes := c.stes.put i e } with mem := devWrite s.mem none (c.cfg.steFrame + 64 * i) (steBytes e) }
  | none => s

/-! ## Cells -/

/-- The stack of a cell (01_machine R12, R283). -/
def cellStack (cx cy : Nat) : Nat := (cx ^^^ cy) % 2

/-- The bank of a cell on its stack (R283). -/
def bankOf (ste cx cy : Nat) : Nat := (cx / 2 + 37 * cy + 613 * ste) % 4096

/-- A cell of a surface, when it is allocated. -/
def cellAt (s : State) (ctx ste cx cy : Nat) : Option Cell :=
  s.base.cells.find? fun c => c.ctx == ctx && c.ste == ste && c.cx == cx && c.cy == cy

/-- The place of one cell among the cells. -/
def sameCell (a b : Cell) : Bool := a.ctx == b.ctx && a.ste == b.ste && a.cx == b.cx && a.cy == b.cy

/-- A cell put among the cells. -/
def putCell (s : State) (c : Cell) : State :=
  { s with base := { s.base with cells := c :: s.base.cells.filter fun d => !sameCell c d } }

/-- Sixteen pixels of the clear value (R284). -/
def clearData (e : Ste) : BitVec 1024 :=
  BitVec.ofNat 1024 ((List.range 16).foldl (fun a i => a + (e.clear.toNat % 2 ^ (8 * e.p)) * 2 ^ (8 * e.p * i)) 0)

/-- The bytes that a cell takes from its stack's pool. -/
def cellBytes (s : State) (c : Cell) : Nat := if c.spilled then 0 else 16 * (steOf s c.ctx c.ste).p

/-- The stack of a block of the block store, from its key in `blocks`. -/
def bsStack (key : Nat) : Nat := key / 2 ^ 20

/-- The bytes of a stack's surface pool in use, by cells and by the block store (R284, 14_plot_units R319). -/
def poolBytes (s : State) (stack : Nat) : Nat :=
  ((s.base.cells.filter fun c => cellStack c.cx c.cy == stack).map (cellBytes s)).sum +
    16384 * (s.base.blocks.filter fun b => bsStack b.1 == stack && b.2.live && !b.2.spilled).length

/-- The surface pool of a stack: 3 GiB (R284). -/
def poolLimit : Nat := 3 * 2 ^ 30

/-- A stack's pool has room for some bytes more. -/
def poolRoom (s : State) (stack n : Nat) : Bool := decide (poolBytes s stack + n ≤ poolLimit)

/-- No bundle under repair serves a bank: new operations at the banks of such a bundle wait at their source (20_errors R441). -/
def bankOpen (s : State) (stack bank : Nat) : Bool :=
  !(s.dev.repairing.any fun r => r.1 == stack && Config.bundleServes r.2.1 bank)

/-- A cell can be accessed now: its bank takes operations, it is not spilled, and a write to a cell that is not allocated finds room (R284 to
R286, 20_errors R441). -/
def cellReady (s : State) (ctx ste cx cy : Nat) (write : Bool) : Bool :=
  bankOpen s (cellStack cx cy) (bankOf ste cx cy) &&
  match cellAt s ctx ste cx cy with
  | some c => !c.spilled
  | none => !write || poolRoom s (cellStack cx cy) (16 * (steOf s ctx ste).p)

/-- The pixels of a cell: the clear value where it is not allocated (R284). -/
def cellData (s : State) (ctx ste cx cy : Nat) : BitVec 1024 :=
  match cellAt s ctx ste cx cy with
  | some c => c.data
  | none => clearData (steOf s ctx ste)

/-- The lines of 64 bytes of a cell that are poisoned, by their number in it (20_errors R438). -/
def cellPoison (s : State) (ctx ste cx cy : Nat) : List Nat := ((cellAt s ctx ste cx cy).map Cell.poisoned).getD []

/-- A cell with its pixels, the keys of its pixels and its poison written; it is allocated if it was not (R284). -/
def cellWrite (s : State) (ctx ste cx cy : Nat) (d : BitVec 1024) (keys : Map (BitVec 256 × BitVec 256)) (poison : List Nat) : State :=
  putCell s
    { ctx := ctx, ste := ste, cx := cx, cy := cy, data := d, spilled := false, poisoned := poison, used := s.tick, keys := keys }

/-- The poison of a cell gone, whose every line a write covers (20_errors R438). -/
def clearCell (s : State) (ctx ste cx cy : Nat) : State :=
  match cellAt s ctx ste cx cy with
  | some c => if c.poisoned.isEmpty then s else putCell s { c with poisoned := [] }
  | none => s

/-- A cell that an access reaches is its stack's most recently used one (R285). -/
def touchCell (s : State) (ctx ste cx cy : Nat) : State :=
  { s with base := { s.base with cells := s.base.cells.map fun c =>
      if c.ctx == ctx && c.ste == ste && c.cx == cx && c.cy == cy then { c with used := s.tick } else c } }

/-- The index of a pixel in its cell (R283). -/
def pixelIndex (x y : Nat) : Nat := 4 * (y % 4) + x % 4

/-- The line of its cell that a pixel lies in (R283). -/
def pixelLine (s : State) (ctx ste x y : Nat) : Nat := (steOf s ctx ste).p * pixelIndex x y / 64

/-- A pixel lies in a poisoned line (20_errors R438). -/
def pixelPoisoned (s : State) (ctx ste x y : Nat) : Bool := (cellPoison s ctx ste (x / 4) (y / 4)).contains (pixelLine s ctx ste x y)

/-- The key at the surface port of a context, while its slot holds one: of its four key slots the first, since an entry names none
(R279; DESIGN CHOICE, log 80). -/
def portKey (s : State) (ctx : Nat) : Option (BitVec 256 × BitVec 256) := s.mem.keys.look (4 * ctx)

/-- The key under which a pixel was written; a pixel of an entry that is not encrypted, and one that holds the clear value, has none. -/
def pixelKey (s : State) (ctx ste x y : Nat) : Option (BitVec 256 × BitVec 256) :=
  (cellAt s ctx ste (x / 4) (y / 4)).bind fun c => c.keys.look (pixelIndex x y)

/-- A pixel that the port cannot tell, because the key slot is empty: a free value (log 80). -/
def freePixel (s : State) : Nat := (Config.freeWord s.tick 0).toNat + 2 ^ 32 * (Config.freeWord s.tick 1).toNat

/-- A pixel's bytes as a number, as the surface port shows it: in plain text under the key that it was written under (R279, R283, R284,
R307). -/
def pixelRead (s : State) (ctx ste x y : Nat) : Nat :=
  let p := (steOf s ctx ste).p
  let v := (cellData s ctx ste (x / 4) (y / 4)).toNat / 2 ^ (8 * p * pixelIndex x y) % 2 ^ (8 * p)
  match pixelKey s ctx ste x y, portKey s ctx with
  | none, _ => v
  | some k, some q => if q = k then v else Config.pixelUnder k q ste (x, y) v % 2 ^ (8 * p)
  | some _, none => freePixel s % 2 ^ (8 * p)

/-- A number of bits replaced within a larger number. -/
def patchBits (x lo n v : Nat) : Nat := x % 2 ^ lo + 2 ^ lo * (v % 2 ^ n) + 2 ^ (lo + n) * (x / 2 ^ (lo + n))

/-- A pixel's bytes written; those of an encrypted entry are written under the key at the surface port (R279, R283, R284, R307). Poison marks its
line, and no pixel covers a line (20_errors R438). -/
def pixelWrite (s : State) (ctx ste x y v : Nat) (poison : Bool) : State :=
  let e := steOf s ctx ste
  let i := pixelIndex x y
  let keys := ((cellAt s ctx ste (x / 4) (y / 4)).map Cell.keys).getD []
  let q : Map (BitVec 256 × BitVec 256) × Nat :=
    if e.w0.getLsbD 2 then
      match portKey s ctx with
      | some k => (keys.put i k, v)
      | none => (keys.del i, freePixel s)
    else (keys, v)
  let d := patchBits (cellData s ctx ste (x / 4) (y / 4)).toNat (8 * e.p * i) (8 * e.p) q.2
  let old := cellPoison s ctx ste (x / 4) (y / 4)
  cellWrite s ctx ste (x / 4) (y / 4) (BitVec.ofNat 1024 d) q.1 (if poison then (pixelLine s ctx ste x y :: old).eraseDups else old)

/-- A pixel can be accessed now. -/
def pixelReady (s : State) (ctx ste x y : Nat) (write : Bool) : Bool := cellReady s ctx ste (x / 4) (y / 4) write

/-- The address of a pixel among the locations of its surface (09_consistency R183): 8 bytes for each. -/
def pixelAddr (x y : Nat) : Nat := 8 * (16384 * y + x)

/-- The pixel of an address. -/
def addrPixel (a : Nat) : Nat × Nat := (a / 8 % 16384, a / 8 / 16384)

/-! ## Accesses in flight -/

/-- The entry that a tile operation reads or writes, with its first pixel and size in pixels, if any (06_matrix R125, R141). -/
def placesOf (t : TileOp) : List (Space × Nat × Nat) := t.reads ++ t.writes

/-- An access of a wave to an entry is in flight. -/
def waveAccess (s : State) (ctx ste : Nat) : Bool :=
  s.work.waves.any fun w => ctxOf s w.2 == ctx && w.2.ops.any fun o => o.subs.any fun x => x.space == .surf ste && !x.done

/-- A tile operation on an entry is in flight. -/
def tileAccess (s : State) (ctx ste : Nat) : Bool :=
  s.work.blocks.any fun b => b.2.ctx == ctx && b.2.tiles.any fun t => (placesOf t).any fun q => q.1 == .surf ste

/-- A copy between an entry and memory is in flight. -/
def copyAccess (s : State) (ctx ste : Nat) : Bool :=
  s.work.copies.any fun c => c.2.form == 5 && (((s.block c.2.blk).map Block.ctx).getD 0) == ctx && (nth c.2.desc 0).toNat % 2 ^ 12 == ste

/-- A copy between a cell and memory is in flight (11_async_copies R235, R236). -/
def copyOnCell (s : State) (c : Cell) : Bool :=
  s.work.copies.any fun q => q.2.form == 5 && (((s.block q.2.blk).map Block.ctx).getD 0) == c.ctx && (nth q.2.desc 0).toNat % 2 ^ 12 == c.ste &&
    decide ((nth q.2.desc 1).toNat % 2 ^ 16 ≤ c.cx) && decide (c.cx < (nth q.2.desc 1).toNat % 2 ^ 16 + (nth q.2.desc 2).toNat % 2 ^ 16) &&
    decide ((nth q.2.desc 1).toNat / 2 ^ 16 ≤ c.cy) && decide (c.cy < (nth q.2.desc 1).toNat / 2 ^ 16 + (nth q.2.desc 2).toNat / 2 ^ 16)

/-- No ticket on an entry is pending, and no access to it is in flight (R282, R285). -/
def steQuiet (s : State) (ctx ste : Nat) : Bool :=
  !(s.base.tickets.any fun t => t.ctx == ctx && t.ste == ste) && !waveAccess s ctx ste && !tileAccess s ctx ste && !copyAccess s ctx ste

/-- A ticket on a cell is pending. -/
def cellTicket (s : State) (c : Cell) : Bool :=
  s.base.tickets.any fun t => t.ctx == c.ctx && t.ste == c.ste && t.cx == c.cx && t.cy == c.cy

/-- The cells that a run of pixel addresses of one row touches: those from its first pixel's to its last pixel's, for n/8 pixels. -/
def runCells (a n : Nat) : List (Nat × Nat) :=
  (List.range (((addrPixel a).1 % 4 + n / 8 + 3) / 4)).map fun i => ((addrPixel a).1 / 4 + i, (addrPixel a).2 / 4)

/-- The cells that runs of places touch are their stacks' most recently used ones. -/
def touchPlaces (s : State) (ctx : Nat) (qs : List (Space × Nat × Nat)) : State :=
  qs.foldl (fun s q => match q.1 with
    | .surf e => (runCells q.2.1 q.2.2).foldl (fun s c => touchCell s ctx e c.1 c.2) s
    | _ => s) s

/-- A run of pixel addresses of one row touches a cell. -/
def rowMeets (a n cx cy : Nat) : Bool :=
  (addrPixel a).2 / 4 == cy && decide ((addrPixel a).1 < 4 * cx + 4) && decide (4 * cx < (addrPixel a).1 + n / 8)

/-- An access of a wave to a cell is in flight. -/
def waveOnCell (s : State) (c : Cell) : Bool :=
  s.work.waves.any fun w => ctxOf s w.2 == c.ctx && w.2.ops.any fun o => o.subs.any fun x =>
    x.space == .surf c.ste && !x.done && rowMeets x.pa 8 c.cx c.cy

/-- A tile operation on a cell is in flight. -/
def tileOnCell (s : State) (c : Cell) : Bool :=
  s.work.blocks.any fun b => b.2.ctx == c.ctx && b.2.tiles.any fun t => (placesOf t).any fun q =>
    q.1 == .surf c.ste && rowMeets q.2.1 q.2.2 c.cx c.cy

/-- A cell lies in the region of a PLOT that a sequencer has accepted and that has not completed (14_plot_units R315). -/
def plotPinned (s : State) (c : Cell) : Bool :=
  s.base.plots.any fun q =>
    let p := q.2
    p.ctx == c.ctx && p.ste == c.ste && !p.accepted.isEmpty && decide (p.cx0 ≤ c.cx) && decide (c.cx < p.cx0 + p.w) &&
      decide (p.cy0 ≤ c.cy) && decide (c.cy < p.cy0 + p.h)

/-- A cell can be evicted (R285, 14_plot_units R315). -/
def cellEvictable (s : State) (c : Cell) : Bool :=
  !c.spilled && !plotPinned s c && (steOf s c.ctx c.ste).spill != 0 && !cellTicket s c && !waveOnCell s c && !tileOnCell s c &&
    !copyOnCell s c

/-! ## Eviction -/

/-- The least recently used cell of a stack that can be evicted (R285). -/
def victimCell (s : State) (stack : Nat) : Option Cell :=
  least Cell.used (s.base.cells.filter fun c => cellStack c.cx c.cy == stack && cellEvictable s c)

end Sys2Proof.Machine
end

