-- ==== Sys2Proof/Machine/Home.lean ====
section
/-! DEFINITION. Where accesses are performed: the order that a wave keeps, the L1, the home slice with its probes, the
scratchpad array, host and peer memory (08_memory_spaces R168 to R176, 09_consistency R183 to R194). -/

namespace Sys2Proof.Machine

/-! ## The order that a wave keeps -/

/-- Two updates of one barrier object by one wave (11_async_copies R245). -/
def sameObject (e o : MemOp) : Bool :=
  match e.kind, o.kind with
  | .bar a _, .bar b _ => a == b
  | _, _ => false

/-- A fence of kind rel. -/
def MemOp.relFence (o : MemOp) : Bool :=
  match o.kind with
  | .fence .rel _ => true
  | _ => false

/-- A fence of kind acq. -/
def MemOp.acqFence (o : MemOp) : Bool :=
  match o.kind with
  | .fence .acq _ => true
  | _ => false

/-- An operation's scope is its group or wider; an MCAS has device scope (R188, 10_memory_instructions R219). -/
def MemOp.wide (o : MemOp) : Bool :=
  match o.kind with
  | .fence _ sc => sc != .blk
  | _ => o.rel != some .blk

/-- An earlier operation must have been performed before a later one is: the kept-order table and the fence kinds table
(R185, R186, R190, R192), and the updates of one barrier object follow each other (11_async_copies R245). The sectors of a CPYM hold back
releases of group scope or wider alone (11_async_copies R237). -/
def keeps (e o : MemOp) : Bool :=
  e.ordered && o.ordered && (e.kind != .cpym || o.wide) &&
    (o.releases || sameObject e o ||
      (e.kind != .fexp && e.kind != .cpym &&
        (e.acquires || (e.relFence && (o.stores || o.kind == .fexp)) || (e.loads && (o.stores || o.acqFence || o.kind == .fexp)) ||
          (e.stores && o.stores))))

/-- The earlier operations of a wave. -/
def earlier (w : Wave) (id : Nat) : List MemOp := w.ops.filter fun e => decide (e.id < id)

/-- Every operation of a wave that a release waits for has been performed (R189, R193). -/
def allPerformed (w : Wave) : Bool := w.ops.all fun e => e.performed || !e.ordered

/-- No export of a wave's word before its operation `n` waits for its bank: the FEXP of a wave that has given up its slot stand here
alone (13_raster R305, 15_execution_model R329). -/
def exportsDone (s : State) (k n : Nat) : Bool := s.base.exports.all fun p => !(p.2.wave == k && p.2.op.any fun o => decide (o < n))

/-- The accesses of a wave before one of its words have been performed (09_consistency R189, 12_ordered_sections R266). -/
def doneBefore (s : State) (k n : Nat) : Bool :=
  exportsDone s k n && ((s.wave k).map fun w => (w.ops.filter fun o => decide (o.id < n)).all fun o => o.performed || !o.ordered).getD true

/-- No earlier operation holds this one back by its kind. -/
def inOrder (w : Wave) (o : MemOp) : Bool := (earlier w o.id).all fun e => e.performed || !keeps e o

/-- The place of an access, for the same location seen by two accesses of one wave (R183, R184). -/
def Sub.place (x : Sub) : Option Nat :=
  match x.space with
  | .dev _ => some 0
  | .far d => some (1 + d)
  | .spm => some 1000
  | .lane => some (2000 + x.lane)
  | .surf n => some (3000 + n)
  | .remote => none

/-- Two accesses share a byte. -/
def Sub.meets (x y : Sub) : Bool :=
  x.place.isSome && x.place == y.place && decide (x.pa < y.pa + y.n) && decide (y.pa < x.pa + x.n)

/-- The last access of the wave before this one that shares a byte with it and has not been performed: of an earlier operation,
or, unless both load, of a lower lane slot of the same word (R184, R196). A prefetch keeps no order (10_memory_instructions R224). -/
def lastMeeting (w : Wave) (o : MemOp) (j : Nat) (x : Sub) : Option Sub :=
  let own := (o.subs.take j).filter fun y => o.kind != .load && y.meets x && !y.done
  if o.kind = .pref then none
  else
    match own.getLast? with
    | some y => some y
    | none => ((earlier w o.id).flatMap fun e => e.subs.filter fun y => e.kind != .pref && y.meets x && !y.done).getLast?

/-- The value that a load takes from the wave's own store that has not been performed yet (R191), when that store holds every
byte of it. -/
def forwarded (x y : Sub) : Option Nat :=
  match x.acc, y.acc with
  | .load _, .store data =>
    if y.pa ≤ x.pa ∧ x.pa + x.n ≤ y.pa + y.n then some (data.toNat / 2 ^ (8 * (x.pa - y.pa)) % 2 ^ (8 * x.n)) else none
  | _, _ => none

/-! ## Operations and accesses of a wave -/

/-- An operation of a wave. -/
def opOf (w : Wave) (id : Nat) : Option MemOp := w.ops.find? fun o => o.id == id

/-- An operation of a wave changed. -/
def Wave.mapOp (w : Wave) (id : Nat) (f : MemOp → MemOp) : Wave := { w with ops := w.ops.map fun o => if o.id = id then f o else o }

/-- An operation of a wave gone. -/
def Wave.dropOp (w : Wave) (id : Nat) : Wave := { w with ops := w.ops.filter fun o => o.id != id }

/-- One access of an operation changed. -/
def mapSub (s : State) (k id j : Nat) (f : Sub → Sub) : State :=
  s.mapWave k fun w => w.mapOp id fun o => { o with subs := o.subs.modify j f }

/-- One access of an operation performed, with the value it took. -/
def doneSub (s : State) (k id j : Nat) (value : Nat) : State :=
  mapSub s k id j fun x => { x with done := true, busy := false, value := BitVec.ofNat 64 value }

/-! ## Accesses by agents that are no wave -/

/-- Bytes written at their home slices by such an agent; tile operations meet them as they meet a store (R137). -/
def agentWrite (s : State) (key : Option Nat) (pa : Nat) (bs : List Byte) : State :=
  let x := agentSub s pa bs.length
  taintTiles { s with mem := devWrite s.mem key pa (storedData s 0 x bs) } 0 x

/-- A number read at its home slices by such an agent as a U access, which recalls every D copy of its lines (08_memory_spaces R170, R171); tile
operations meet it as they meet a load (R137). -/
def agentRead (s : State) (key : Option Nat) (pa n : Nat) : State × Nat :=
  let s1 := { s with mem := (linesOf pa n).foldl recallLine s.mem }
  (s1, loadedValue s1 0 (agentSub s1 pa n) (leNat (seenBytes s1.mem key pa n)))

/-! ## Performing an access -/

/-- The data of a store as bytes. -/
def dataBytes (d : DWord) (n : Nat) : List Byte := leBytes d.toNat n

/-- The value of an access's bytes and the bytes that it leaves (R183, R205): a load leaves them, a store replaces them, an
atomic does both in one event. -/
def effectOn (x : Sub) (old : Nat) : Option (List Byte) :=
  match x.acc with
  | .store d => some (dataBytes d x.n)
  | .atomic o d e _ => some (leBytes (atomNew o (8 * x.n) old d.toNat e.toNat) x.n)
  | _ => none

/-- Bytes of a line replaced from an offset on. -/
def patch (bs : List Byte) (off : Nat) (new : List Byte) : List Byte :=
  (List.range bs.length).map fun i => if off ≤ i ∧ i < off + new.length then new.getD (i - off) 0 else bs.getD i 0

/-- A 64-bit mask of a run of byte positions. -/
def runMask (off n : Nat) : BitVec 64 := BitVec.ofNat 64 ((2 ^ n - 1) * 2 ^ off)

/-- The access changes the line or must see it at its home: the probes of its request invalidate (R170). -/
def invalidates (x : Sub) : Bool :=
  match x.acc, x.space with
  | .store _, _ => true
  | .atomic .., _ => true
  | _, .dev .u => true
  | _, _ => false

/-- A D line of the core that the access hits: held, under the same key, and owned when the access stores (R170). -/
def hitD (m : MemSys) (core : Nat) (x : Sub) : Option L1Line :=
  match x.space, x.acc with
  | .dev .d, .load _ => (lineIn m core (lineOf x.pa) .d).filter fun l => l.valid != 0 && l.key == x.key
  | .dev .d, .store _ => (lineIn m core (lineOf x.pa) .d).filter fun l => l.valid != 0 && l.key == x.key && l.owned
  | _, _ => none

/-- An S line of the core that holds every byte of a load (R169, R172). -/
def hitS (m : MemSys) (core : Nat) (x : Sub) : Option L1Line :=
  match x.space, x.acc with
  | .dev .s, .load _ =>
    (lineIn m core (lineOf x.pa) .s).filter fun l => l.key == x.key && l.valid &&& runMask (x.pa % 64) x.n == runMask (x.pa % 64) x.n
  | _, _ => none

/-- The value of an access in a line's bytes. -/
def lineValue (bs : List Byte) (x : Sub) : Nat := leNat ((bs.drop (x.pa % 64)).take x.n)

/-- An S line of a core that was filled under another key is written back under its own and dropped (17_translation R401). -/
def turnKey (s : State) (core line : Nat) (key : Option Nat) : State :=
  match lineIn s.mem core line .s with
  | some l => if l.key == key then s else { s with mem := flushS s.mem core line }
  | none => s

/-- The S line of an access with no byte valid. -/
def blankS (core : Nat) (x : Sub) : L1Line :=
  { core := core, line := lineOf x.pa, mode := .s, owned := false, bytes := List.replicate 64 0, valid := 0, dirty := 0, key := x.key }

/-- A store to an S line must wait for its home slice: as a release, to write through the line under another key, or to leave a full set again
at once (R172, 17_translation R401, 01_machine R7). -/
def storeWaits (m : MemSys) (core : Nat) (o : MemOp) (x : Sub) : Bool :=
  !lineFree m (lineOf x.pa) &&
    (o.rel.isSome || (lineIn m core (lineOf x.pa) .s).any (fun l => l.key != x.key) ||
      ((lineIn m core (lineOf x.pa) .s).isNone && noRoom m (blankS core x)))

/-- A store to an S line: the bytes are valid and dirty, without ownership (R169). -/
def storeS (s0 : State) (blk core : Nat) (x : Sub) (bs : List Byte) : State :=
  let s := turnKey s0 core (lineOf x.pa) x.key
  let old := (lineIn s.mem core (lineOf x.pa) .s).getD (blankS core x)
  let off := x.pa % 64
  taintTiles
    (fillLine s { old with
      bytes := patch old.bytes off bs
      valid := old.valid ||| runMask off x.n
      dirty := old.dirty ||| runMask off x.n }) blk x

/-- A D line filled for a load (SH) or for a store (MO, dirty), from the home slice (R170). -/
def fillD (s : State) (core : Nat) (x : Sub) (bs : List Byte) (owned : Bool) : State :=
  fillLine { s with mem := if owned then recallLine s.mem (lineOf x.pa) else s.mem }
    { core := core, line := lineOf x.pa, mode := .d, owned := owned, bytes := bs, valid := BitVec.allOnes 64
      dirty := if owned then runMask (x.pa % 64) x.n else 0, key := x.key }

/-- An S line filled for a load: its bytes that are not dirty come from the home slice, the clean ones anew, so that no access sees a
part of another core's store (R169, 09_consistency R183; DEDUCED, log 68). -/
def fillS (s0 : State) (core : Nat) (x : Sub) (bs : List Byte) : State :=
  let s := turnKey s0 core (lineOf x.pa) x.key
  match lineIn s.mem core (lineOf x.pa) .s with
  | some l =>
    fillLine s { l with
      bytes := (List.range 64).map fun i => if l.dirty.getLsbD i then l.bytes.getD i 0 else bs.getD i 0
      valid := BitVec.allOnes 64 }
  | none =>
    fillLine s { core := core, line := lineOf x.pa, mode := .s, owned := false, bytes := bs, valid := BitVec.allOnes 64, dirty := 0, key := x.key }

/-- An access of local device memory performed with its home slice: the state and the value it took (R170, R171). -/
def performHome (s : State) (blk core : Nat) (x : Sub) : State × Nat :=
  let s1 := if x.space = .dev .s then turnKey s core (lineOf x.pa) x.key else s
  let s0 := { s1 with mem := rekey s1.mem (lineOf x.pa) x.key }
  let line := seenLine s0.mem (lineOf x.pa) x.key
  let old := lineValue line x
  match x.space, x.acc with
  | .dev .d, .load _ => (fillD s0 core x line false, loadedValue s blk x old)
  | .dev .s, .load _ =>
    let s1 := fillS s0 core x line
    (s1, loadedValue s blk x (((lineIn s1.mem core (lineOf x.pa) .s).map fun l => lineValue l.bytes x).getD old))
  | .dev .d, .store d =>
    (taintTiles (fillD s0 core x (patch line (x.pa % 64) (storedData s blk x (dataBytes d x.n))) true) blk x, 0)
  | _, _ =>
    match effectOn x old with
    | some bs =>
      (taintTiles { s0 with mem := devWrite s0.mem x.key x.pa (storedData s blk x bs) } blk x, old)
    | none => (s0, loadedValue s blk x old)

/-- The peer command of an access (18_host_peers R415). -/
def Sub.peerOp (x : Sub) : PeerOp :=
  match x.acc with
  | .store d => .write x.n d
  | .atomic o d e _ => .atomic o (if x.n = 8 then .w64 else .w32) d e
  | _ => .read x.n

/-- An access writes: a store or an atomic. -/
def Sub.isWrite (x : Sub) : Bool :=
  match x.acc with
  | .store _ => true
  | .atomic .. => true
  | _ => false

/-- The command of an access of a peer's memory on its way there (18_host_peers R415). -/
def sendSub (s : State) (ctx : Nat) (x : Sub) : State :=
  match x.space with
  | .far d => if d = 256 then s else sendCmd s d (.access (remoteCtx s ctx d) x.pa x.peerOp)
  | _ => s

/-- An access of host or peer memory, performed at its target; one of a peer goes there as a command (R194, 18_host_peers R415). -/
def performFar (s0 : State) (ctx blk device : Nat) (x : Sub) : State × Nat :=
  let s := sendSub s0 ctx x
  let old := leNat (farBytes s.mem device x.pa x.n)
  match effectOn x old with
  | some bs => (taintTiles { s with mem := farWrite s.mem device x.pa (storedData s blk x bs) } blk x, old)
  | none => (s, loadedValue s blk x old)

/-- An access to a peer refused: a write changes nothing, a read returns all ones, and the wave is to take trap 0x15. Where the target refuses it
(reason 13), its command has gone there under its own id (18_host_peers R414, R415). -/
def refuseSub (s0 : State) (k : Nat) (w : Wave) (id j : Nat) (x : Sub) (reason : Nat) : State :=
  let s := if reason = 13 then sendSub s0 (ctxOf s0 w) x else s0
  report (doneSub s k id j (2 ^ (8 * x.n) - 1)) k (peerTrap s (ctxOf s w) x.va x.isWrite reason)

/-- Bytes of a block's scratchpad (08_memory_spaces R159). -/
def spmBytes (s : State) (blk off n : Nat) : List Byte :=
  match s.block blk with
  | some b => (List.range n).map fun i => b.spm.get (off + i) 0
  | none => List.replicate n 0

/-- Bytes written to a block's scratchpad. -/
def spmWrite (s : State) (blk off : Nat) (bs : List Byte) : State :=
  s.mapBlock blk fun b => { b with spm := Memory.writes b.spm off bs }

/-- An access of a block's scratchpad, performed at the array (R183, R203, R209). -/
def performSpm (s : State) (blk : Nat) (x : Sub) : State × Nat :=
  let old := leNat (spmBytes s blk x.pa x.n)
  match effectOn x old with
  | some bs => (taintTiles (spmWrite s blk x.pa (storedData s blk x bs)) blk x, old)
  | none => (s, loadedValue s blk x old)

/-- An access of a surface pixel, performed at its cell's bank; nothing while the cell is spilled or finds no room (13_raster R284,
R286, R303, R307). -/
def performSurf (s : State) (ctx blk ste : Nat) (x : Sub) : Option (State × Nat) :=
  let q := addrPixel x.pa
  match x.acc with
  | .store d =>
    if pixelReady s ctx ste q.1 q.2 true then
      some (taintTiles (pixelWrite s ctx ste q.1 q.2 (leNat (storedData s blk x (dataBytes d 8))) false) blk x, 0)
    else none
  | _ =>
    if pixelReady s ctx ste q.1 q.2 false then
      some (touchCell s ctx ste (q.1 / 4) (q.2 / 4), loadedValue s blk x (pixelRead s ctx ste q.1 q.2) % 2 ^ (8 * (steOf s ctx ste).p))
    else none

/-- A copy in flight holds bytes of a block's scratchpad: a destination span holds back every access, a source span the stores and
atomics (11_async_copies R243). -/
def boardHolds (s : State) (blk off n : Nat) (isLoad : Bool) : Bool :=
  s.work.copies.any fun p => p.2.started && p.2.spans.any fun q =>
    q.1 == blk && decide (q.2.1 ≤ off + n - 1) && decide (off ≤ q.2.2.1) && (q.2.2.2 || !isLoad)

/-- CLEAN and INVS on the line of an access (10_memory_instructions R225). -/
def performCache (s : State) (core : Nat) (x : Sub) : State :=
  let line := lineOf x.pa
  match x.space, x.acc with
  | .dev .d, .clean =>
    match (lineIn s.mem core line .d).filter fun l => l.owned && l.valid != 0 with
    | some l =>
      { s with mem := putLine { s.mem with mem := Memory.writes s.mem.mem (64 * line) l.bytes } { l with owned := false, dirty := 0 } }
    | none => s
  | .dev .s, .clean =>
    match lineIn s.mem core line .s with
    | some l => { s with mem := writeThrough s.mem l }
    | none => s
  | .dev .s, .inval => { s with mem := flushS s.mem core line }
  | _, _ => s

/-! ## One access at its place -/

/-- A prefetch whose lines are all in is gone: it is not counted (10_memory_instructions R224). -/
def Wave.dropPref (w : Wave) (id : Nat) : Wave := { w with ops := w.ops.filter fun o => !(o.id == id && o.kind == .pref && o.performed) }

/-- The end of an access: its value is taken; an acquire drops the core's clean S bytes (R172). -/
def endSub (s : State) (k id j core value : Nat) (acq : Bool) : State :=
  let s1 := (doneSub s k id j value).mapWave k fun w => w.dropPref id
  if acq then { s1 with mem := acquireBytes s1.mem core } else s1

/-- The request of a core can go to the home slice: the line is free, its cluster's region is not leaving, and no notice of the
line by this core is under way (R168, R175). -/
def requestFree (s : State) (core line : Nat) : Bool :=
  lineFree s.mem line && !s.mem.leaving.contains (clusterOf core, regionOf line) &&
    s.pending.all fun e => match e with
      | .evictionNotice c l _ => !(c == core && l == line)
      | _ => true

/-- A request at the home slice: performed at once when no cluster may hold the region, else its probes go out first (R168,
R176). -/
def requestHome (s : State) (k id j blk core : Nat) (x : Sub) (acq : Bool) : Option State :=
  let line := lineOf x.pa
  if !requestFree s core line then none
  else
    match holders s.mem (regionOf line) with
    | [] =>
      let r := performHome s blk core x
      some (endSub r.1 k id j core r.2 acq)
    | cs =>
      let s1 := mapSub s k id j fun x => { x with busy := true }
      some ({ s1 with mem := { s1.mem with busy := { line := line, core := core, wave := k, op := id, sub := j, acks := cs } :: s1.mem.busy } }.posts
        (cs.map fun c => .probe c line (invalidates x)))

/-- An access of local device memory: from the L1 where it hits, in the L1 for an S store, else by a request (R169, R170). -/
def accessDev (s : State) (k : Nat) (o : MemOp) (j blk core : Nat) (x : Sub) (mode : Mode) : Option State :=
  let line := lineOf x.pa
  match x.acc with
  | .clean | .inval => if lineFree s.mem line then some (doneSub (performCache s core x) k o.id j 0) else none
  | _ =>
    if mode != .s && (lineIn s.mem core line .s).isSome then
      if requestFree s core line then requestHome { s with mem := flushS s.mem core line } k o.id j blk core x o.acq.isSome else none
    else if mode == .s && (match x.acc with
        | .atomic .. => true
        | _ => false) then
      if requestFree s core line then requestHome { s with mem := flushS s.mem core line } k o.id j blk core x false else none
    else
      match hitD s.mem core x, hitS s.mem core x, mode, x.acc with
      | some l, _, _, .store d =>
        let off := x.pa % 64
        let l1 := { l with
          bytes := patch l.bytes off (storedData s blk x (dataBytes d x.n))
          dirty := l.dirty ||| runMask off x.n }
        some (doneSub (taintTiles { s with mem := putLine s.mem l1 } blk x) k o.id j 0)
      | some l, _, _, _ => some (endSub s k o.id j core (loadedValue s blk x (lineValue l.bytes x)) o.acq.isSome)
      | none, some l, _, _ => some (endSub s k o.id j core (loadedValue s blk x (lineValue l.bytes x)) o.acq.isSome)
      | none, none, .s, .store d =>
        if storeWaits s.mem core o x then none
        else
          let s1 := storeS s blk core x (storedData s blk x (dataBytes d x.n))
          let s2 := match lineIn s1.mem core line .s with
            | some l => if o.rel.isSome then { s1 with mem := writeThrough s1.mem l } else s1
            | none => s1
          some (doneSub s2 k o.id j 0)
      | none, none, _, _ => requestHome s k o.id j blk core x o.acq.isSome

/-- An access at its place, or nothing while it must wait there; one of a peer's memory waits while the link is not up, and is
refused when no route leads there any more (18_host_peers R412, R416). -/
def accessAt (s : State) (k : Nat) (w : Wave) (o : MemOp) (j : Nat) (x : Sub) : Option State :=
  let core := coreOf s w
  match x.space with
  | .dev mode => accessDev s k o j w.blk core x mode
  | .far d =>
    match x.acc with
    | .clean | .inval => some (doneSub s k o.id j 0)
    | _ =>
      let r := performFar s (ctxOf s w) w.blk d x
      if !routed s d then some (refuseSub s k w o.id j x 12)
      else if peerUp s d then some (endSub r.1 k o.id j core r.2 o.acq.isSome)
      else none
  | .spm =>
    let r := performSpm s w.blk x
    some (doneSub r.1 k o.id j r.2)
  | .surf e => (performSurf s (ctxOf s w) w.blk e x).map fun r => doneSub r.1 k o.id j r.2
  | _ => none

/-- The core's dirty S bytes written through before a release is performed (R172); nothing while one of their lines is not free. -/
def beforeRelease (s : State) (core : Nat) (o : MemOp) : Option State :=
  if o.releases then
    if dirtyFree s.mem core then some { s with mem := releaseBytes s.mem core } else none
  else some s

/-- The clean S bytes that an acquire load may already drop before its own read: either of the two (R172). -/
def beforeAcquire (s : State) (core : Nat) (o : MemOp) : State :=
  if o.acq.isSome && Config.choose s.tick % 2 == 1 then { s with mem := acquireBytes s.mem core } else s

/-- One access of an operation performed, or its request started; nothing while it must wait, as an access of the scratchpad does for a copy
that holds its bytes (R168, R184, R185, 11_async_copies R243). -/
def performSub (s : State) (k id j : Nat) : Option State :=
  match s.wave k with
  | none => none
  | some w =>
    match opOf w id with
    | none => none
    | some o =>
      match o.subs[j]? with
      | none => none
      | some x =>
        if x.done || x.busy || o.kind == .fexp || !inOrder w o || (x.space == .spm && boardHolds s w.blk x.pa x.n (o.kind == .load)) then none
        else
          match lastMeeting w o j x with
          | some y =>
            match forwarded x y with
            | some v => some (endSub s k id j (coreOf s w) (loadedValue s w.blk x v) o.acq.isSome)
            | none => none
          | none =>
            match beforeRelease s (coreOf s w) o with
            | none => none
            | some s1 => accessAt (beforeAcquire s1 (coreOf s w) o) k w o j x

/-- The fetch of an element has started and has not returned (08_memory_spaces R180). -/
def StreamElem.inFlight (e : StreamElem) : Bool := !e.landed

/-- A fence performed: it also waits for the queue-stream fetches under way (R223); the S bytes that its kind writes through or drops, after the earlier accesses that it orders (R190, R222). -/
def performFence (s : State) (k : Nat) (w : Wave) (o : MemOp) (kind : FKind) : Option State :=
  let core := coreOf s w
  if !inOrder w o || w.streams.any (fun x => x.held.any StreamElem.inFlight) then none
  else
    match beforeRelease s core o with
    | none => none
    | some s1 =>
      let s2 := if kind == .acq || kind == .full then { s1 with mem := acquireBytes s1.mem core } else s1
      some (reapWave (s2.mapWave k fun w => w.dropOp o.id) k)

/-- A request of an operation at its place: a fence, or one of its accesses. -/
def placeStep (s : State) (k id j : Nat) : Option State :=
  match (s.wave k).bind fun w => (opOf w id).map fun o => (w, o) with
  | some (w, o) =>
    match o.kind with
    | .fence kind _ => performFence s k w o kind
    | _ => performSub s k id j
  | none => none

/-- HOME_SLICE_REQUEST: an access of an operation comes to the place that orders it: the L1, the home slice, host or peer memory,
or the scratchpad array (R168, R184). -/
def execHomeSliceRequest (wave op sub : Nat) (s : State) : Host.Outcome State Fault Refusal :=
  runEvent s (.homeSliceRequest wave op sub) (placeStep s wave op sub).isSome fun s =>
    (placeStep s wave op sub).getD s

/-! ## The end of a probe round -/

/-- The data of an acknowledgement taken at the slice: the line goes to SH, or is gone (R176). -/
def landProbe (m : MemSys) (cluster line : Nat) (inval : Bool) (data : Option (List Byte)) : MemSys :=
  match data with
  | none => m
  | some bs =>
    match m.l1.find? fun l => l.line == line && clusterOf l.core == cluster && l.inFlight with
    | none => m
    | some l =>
      let m1 := { m with mem := Memory.writes m.mem (64 * line) bs }
      if inval then untrack (dropLine m1 l) l.core line else putLine m1 { l with valid := BitVec.allOnes 64, owned := false, dirty := 0 }

/-- The request that waited for probes is performed once the last acknowledgement is in; its cluster may then hold no line of the region (R168,
R175). -/
def finishBusy (s : State) (b : BusyLine) : State :=
  let s1 := { s with mem := { s.mem with busy := s.mem.busy.filter fun q => q.line != b.line } }
  match (s1.wave b.wave).bind fun w => (opOf w b.op).bind fun o => (o.subs[b.sub]?).map fun x => (w, o, x) with
  | some (w, o, x) =>
    let r := performHome s1 w.blk (coreOf s w) x
    settleRegion (endSub r.1 b.wave b.op b.sub (coreOf s w) r.2 o.acq.isSome) (clusterOf b.core) (regionOf b.line)
  | none => settleRegion s1 (clusterOf b.core) (regionOf b.line)

/-- The access that holds a line busy invalidates. -/
def busyInval (s : State) (b : BusyLine) : Bool :=
  (((s.wave b.wave).bind fun w => (opOf w b.op).bind fun o => o.subs[b.sub]?).map invalidates).getD true

/-- PROBE_ACK at the home slice (R176, R177): dirty data is written, an acknowledgement with "region empty" clears the cluster's
bit, and the last acknowledgement lets the request be performed. -/
def execProbeAck (cluster line : Nat) (regionEmpty : Bool) (data : Option (List Byte)) (s : State) :
    Host.Outcome State Fault Refusal :=
  runEvent s (.probeAck cluster line regionEmpty data) (s.pending.contains (.probeAck cluster line regionEmpty data)) fun s =>
    match busyOf s.mem line with
    | none => s
    | some b =>
      let m1 := landProbe s.mem cluster line (busyInval s b) data
      let m2 := if regionEmpty then { dirClear m1 cluster (regionOf line) with leaving := m1.leaving.erase (cluster, regionOf line) } else m1
      let b1 := { b with acks := b.acks.erase cluster }
      let s1 := settleRegion { s with mem := { m2 with busy := m2.busy.map fun q => if q.line = line then b1 else q } } cluster (regionOf line)
      if b1.acks.isEmpty then finishBusy s1 b1 else s1

end Sys2Proof.Machine
end

