-- ==== Sys2Proof/Machine/Barrier.lean ====
section
/-! DEFINITION. Transaction barrier objects: their fields and updates, the place that orders them, flips and the release of
waiting fibres (11_async_copies R244, R245, R249 to R252). -/

namespace Sys2Proof.Machine

/-! ## The object -/

/-- The fields of a barrier object (R244): phase, overrun, E, A, S. -/
structure BarFields where
  phase : Nat
  overrun : Bool
  e : Nat
  a : Nat
  sect : Nat
deriving DecidableEq, Repr

/-- The fields of the 128 bits of an object (R244). -/
def barOf (x : Nat) : BarFields :=
  { phase := bits x 3 0, overrun := bitAt x 4, e := bits x 21 8, a := bits x 35 22, sect := bits x 95 64 }

/-- The 128 bits of an object's fields; the fields between them stay zero (R244). -/
def barBits (f : BarFields) : Nat :=
  f.phase % 16 + (if f.overrun then 16 else 0) + 2 ^ 8 * (f.e % 2 ^ 14) + 2 ^ 22 * (f.a % 2 ^ 14) + 2 ^ 64 * (f.sect % 2 ^ 32)

/-- The completion check after every update (R245). The flag says that the phase flipped. -/
def BarFields.complete (f : BarFields) : BarFields × Bool :=
  if f.a = 0 ∧ f.sect = 0 then ({ f with phase := (f.phase + 1) % 16, a := f.e }, true) else (f, false)

/-- One update of an object: its fields, whether waiters compare again, whether the arrival found A = 0 (R245, R249, R251). -/
def barStep (f : BarFields) : BarUpd → BarFields × Bool × Bool
  | .init e => ({ phase := 0, overrun := false, e := e, a := e, sect := 0 }, true, false)
  | .arrive =>
    if f.a = 0 then ({ f with overrun := true }, false, true)
    else
      let r := { f with a := f.a - 1 }.complete
      (r.1, r.2, false)
  | .credit k =>
    let r := { f with sect := (f.sect + 2 ^ 32 - k % 2 ^ 32) % 2 ^ 32 }.complete
    (r.1, r.2, false)
  | .expect k =>
    let r := { f with sect := (((f.sect : Int) + k) % 2 ^ 32).toNat }.complete
    (r.1, r.2, false)

/-! ## Its place -/

/-- Where a virtual address leads for the device's own accesses to it: any valid, well-formed leaf (17_translation R394). -/
def objTarget (s : State) (ctx va : Nat) : Option Target :=
  match walk s ctx va with
  | .leaf e _ level true => some (leafTarget s ctx va e level)
  | _ => none

/-- Where an object of memory lies: at the place that its word's access was translated to, whatever the page tables hold by now (17_translation
R400), or for an access of the device itself where a walk leads now. -/
def placeOf (s : State) : BarObj → Option Target
  | .spm _ _ => none
  | .dev ctx va => objTarget s ctx va
  | .line place pa key _ =>
    some { space := if place = 0 then .dev .u else .far (place - 1), pa := pa, key := key, dup := none, page := 16 }

/-- The place of an object of device memory: a device, 0 for this one, and its physical address there. -/
def objPlace (s : State) (o : BarObj) : Option (Nat × Nat) :=
  (placeOf s o).map fun t =>
    match t.space with
    | .far d => (1 + d, t.pa)
    | _ => (0, t.pa)

/-- Two names of one object: an object of device memory is its line, whichever mapping or context names it (R244, R250). -/
def sameObj (s : State) (a b : BarObj) : Bool := a == b || ((objPlace s a).isSome && objPlace s a == objPlace s b)

/-- Bytes of a block's scratchpad, or of the scratchpad image of a saved block (10_memory_instructions R214). -/
def arrayBytes (s : State) (blk off n : Nat) : List Byte :=
  match s.block blk with
  | some b =>
    if b.status == .saved then leBytes ((hwRead s b.ctx (saveImg s blk + 512 + off) n).getD 0) n
    else (List.range n).map fun i => b.spm.get (off + i) 0
  | none => List.replicate n 0

/-- An access of a block's scratchpad that is no word of its own waves. -/
def arraySub (s : State) (off n : Nat) : Sub :=
  { mkSub 0 { space := .spm, pa := off, key := none, dup := none, page := 0 } off n .clean with stamp := s.tick }

/-- Bytes written to a block's scratchpad by an access issued at tick `since`, where tile operations issued before it meet them as they meet a
store, or to the image of a saved block (10_memory_instructions R214, 06_matrix R137). -/
def arrayWriteFrom (s : State) (since blk off : Nat) (bs : List Byte) : State :=
  match s.block blk with
  | some b =>
    if b.status == .saved then (hwWrite s b.ctx (saveImg s blk + 512 + off) bs.length (leNat bs)).getD s
    else
      let x := { arraySub s off bs.length with stamp := since }
      taintTiles (spmWrite s blk off (storedData s blk x bs)) blk x
  | none => s

/-- Bytes written to a block's scratchpad by an access issued now. -/
def arrayWrite (s : State) (blk off : Nat) (bs : List Byte) : State := arrayWriteFrom s s.tick blk off bs

/-- The bits of an object, where it can be reached. -/
def objRead (s : State) : BarObj → Option Nat
  | .spm blk off => (s.block blk).map fun _ => leNat (arrayBytes s blk off 16)
  | o =>
    (placeOf s o).map fun t =>
      match t.space with
      | .far d => leNat (farBytes s.mem d t.pa 16)
      | _ => leNat (seenBytes s.mem t.key t.pa 16)

/-- An object written. -/
def objWrite (s : State) (o : BarObj) (x : Nat) : State :=
  match o with
  | .spm blk off => arrayWrite s blk off (leBytes x 16)
  | o =>
    match placeOf s o with
    | some t =>
      match t.space with
      | .far d => { s with mem := farWrite s.mem d t.pa (leBytes x 16) }
      | _ => { s with mem := devWrite s.mem t.key t.pa (leBytes x 16) }
    | none => s

/-- The place of an object takes an update now: the home slice of its line is free (R244). -/
def objFree (s : State) : BarObj → Bool
  | .spm _ _ => true
  | o =>
    match placeOf s o with
    | some { space := .dev _, pa := pa, .. } => lineFree s.mem (lineOf pa)
    | some { space := .far d, .. } => peerUp s d
    | _ => true

/-! ## Waiting fibres -/

/-- A parked state waits at an object with an operand (R250). -/
def Parked.waits (o : BarObj) (q : Parked) : Option Nat :=
  match q.kind with
  | .bwait b p => if b = o then some p else none
  | _ => none

/-- A parked state with the phase of its BWAIT replaced. -/
def Parked.withPhase (q : Parked) (p : Nat) : Parked :=
  match q.kind with
  | .bwait o _ => { q with kind := .bwait o p }
  | _ => q

/-- A subscription to one of some objects compares a phase with its operand: it is answered when they differ (R250, R251). -/
def answerParked (same : BarObj → Bool) (phase : Nat) (q : Parked) : Parked :=
  match q.kind with
  | .bwait b p => if same b ∧ p < 16 ∧ p ≠ phase then q.withPhase 16 else q
  | _ => q

/-- The subscriptions of a fibre compare a phase: in its wave, and behind a handler (R250, 19_traps R426). -/
def answerWait (same : BarObj → Bool) (phase : Nat) (f : Fibre) : Fibre :=
  { f with
    park := f.park.map (answerParked same phase)
    shadow := f.shadow.map fun sh => { sh with park := sh.park.map (answerParked same phase) } }

/-- A parked state that an object has answered. -/
def flipped (o : BarObj) (q : Option Parked) : Bool := q.bind (Parked.waits o) == some 16

/-- A wave has a fibre that an object has answered. -/
def answered (o : BarObj) (w : Wave) : Bool := w.fibres.any fun p => flipped o p.2.park || flipped o p.2.behind

/-- The objects that the fibres of a wave have been answered by. -/
def answeredObjs (w : Wave) : List BarObj :=
  (w.fibres.flatMap fun p => [p.2.park, p.2.behind].filterMap fun q => match q with
    | some { kind := .bwait b 16, .. } => some b
    | _ => none).eraseDups

/-- The waiters of an object, by whatever name they wait for it, compare its phase; the waves with answered fibres are notified (R250 to
R252). -/
def notify (s : State) (o : BarObj) (phase : Nat) : State :=
  let ws := s.work.waves.map fun p => (p.1, { p.2 with fibres := p.2.fibres.map fun q => (q.1, answerWait (sameObj s o) phase q.2) })
  let es := ws.flatMap fun p => ((answeredObjs p.2).filter (sameObj s o)).map fun b => Ev.bwaitRelease p.1 b
  { s with work := { s.work with waves := ws } }.posts (es.filter fun e => !s.pending.contains e)

/-- One update of an object, performed at its place. The flag says that an arrival found A = 0 (R245, R249). -/
def updateObj (s : State) (o : BarObj) (u : BarUpd) : State × Bool :=
  match objRead s o with
  | none => (s, false)
  | some x =>
    let r := barStep (barOf x) u
    let s1 := objWrite s o (barBits r.1)
    (if r.2.1 then notify s1 o r.1.phase else s1, r.2.2)

/-- The lane slots whose fibres have a parked state that passes a test. -/
def lanesWith (w : Wave) (f : Fibre → Option Parked) (test : Option Parked → Bool) : List Nat :=
  (w.fibres.filter fun p => test (f p.2)).map Prod.fst

/-- The fibres with parked states that pass a test released, in their wave or behind a handler (R250, 19_traps R426). -/
def releaseWhere (w : Wave) (test : Option Parked → Bool) : Wave :=
  (lanesWith w Fibre.behind test).foldl answerBehind (releaseLanes w (lanesWith w Fibre.park test))

/-- BWAIT_RELEASE: the fibres that the object has answered go on; their return is an acquire (R250, R252, 09_consistency R193). -/
def execBwaitRelease (wave : Nat) (obj : BarObj) (s : State) : Host.Outcome State Fault Refusal :=
  runEvent s (.bwaitRelease wave obj) (((s.wave wave).map (answered obj)).getD false) fun s =>
    match s.wave wave with
    | none => s
    | some w =>
      let s1 := s.setWave wave (releaseWhere w (flipped obj))
      { s1 with mem := acquireBytes s1.mem (coreOf s w) }

/-! ## Updates by waves -/

/-- The first update of an object by a wave that has not been performed. -/
def barOp (s : State) (k : Nat) (obj : BarObj) (upd : BarUpd) : Option (Wave × MemOp) :=
  (s.wave k).bind fun w => (w.ops.find? fun o => o.kind == .bar obj upd).map fun o => (w, o)

/-- An update by a wave may be performed: the accesses that it follows have been, those to the object's bytes among them, and the S bytes
that a release writes through can go (R245, 09_consistency R184, R193). -/
def barOpReady (s : State) (k : Nat) (obj : BarObj) (upd : BarUpd) : Bool :=
  match barOp s k obj upd with
  | some (w, o) => inOrder w o && (beforeRelease s (coreOf s w) o).isSome && ((o.subs[0]?).bind (lastMeeting w o 0)).isNone
  | none => false

/-- The virtual address of an object of device memory, or the offset of one in scratchpad. -/
def objAddr : BarObj → Nat
  | .spm _ off => off
  | .dev _ va => va
  | .line _ _ _ va => va

/-- An update by a wave, at the object; an arrival that finds A = 0 is reported to the wave (R249). -/
def waveUpdate (s : State) (k : Nat) (obj : BarObj) (upd : BarUpd) : State :=
  match barOp s k obj upd with
  | none => s
  | some (w, o) =>
    let s1 := (beforeRelease s (coreOf s w) o).getD s
    let r := updateObj s1 obj upd
    let s2 := r.1.mapWave k fun w => w.dropOp o.id
    reapWave (if r.2 then s2.post (.barrierOverrunReport k (objAddr obj)) else s2) k

/-- BARRIER_UPDATE at the place of an object, by a wave or by another agent (R244, R245). -/
def execBarrierUpdate (wave : Option Nat) (obj : BarObj) (upd : BarUpd) (s : State) : Host.Outcome State Fault Refusal :=
  runEvent s (.barrierUpdate wave obj upd)
    (s.pending.contains (.barrierUpdate wave obj upd) && objFree s obj &&
      (match wave with
        | some k => barOpReady s k obj upd
        | none => true)) fun s =>
      match wave with
      | some k => waveUpdate s k obj upd
      | none => (updateObj s obj upd).1

end Sys2Proof.Machine
end

