-- ==== Sys2Proof/Machine/Access.lean ====
section
/-! DEFINITION. How a memory word issues: addresses, checks in order, and the operation that it leaves outstanding
(08_memory_spaces R159 to R162, 10_memory_instructions R196 to R198, 02_encoding R34 to R36, 20_errors R438). -/

namespace Sys2Proof.Machine

/-! ## Checks -/

/-- The register checks of a memory word: single source fields, a source run and a destination run, each (first, count). A run that
reaches v124, or a destination that names a store-queue port, gives 0x04 (R29 to R31, R36). -/
def memCheck (srcs : List Nat) (run dst : Nat × Nat) (r : Wave) : Option Trap :=
  if (decide (1 < run.2) && decide (124 < run.1 + run.2)) || (decide (124 < dst.1 + dst.2) && !(dst.2 == 1 && isPort dst.1)) then
    some (mkTrap 0x04 (batch r) 0 0)
  else portCheck r (srcs ++ (List.range run.2).map (run.1 + ·)) ((List.range dst.2).map (dst.1 + ·))

/-- The virtual address of an M-format access (R159, R199). -/
def vaOf (r : Wave) (sb : BitVec 4) (off : Word) : Nat := (spair r (2 * sb.toNat) + off.zeroExtend 64).toNat

/-- The offset of an M-format access of an on-core space, taken without wrap (R159, R202). -/
def offOf (r : Wave) (sb : BitVec 4) (off : Word) : Nat := off.toNat + (sreg r (2 * sb.toNat)).toNat

/-! ## Issue -/

/-- The access goes through translation: it reaches device, host or peer memory. -/
def Sub.paged (x : Sub) : Bool :=
  match x.space with
  | .dev _ => true
  | .far _ => true
  | _ => false

/-- The pages that a word's accesses name and that no TLB of the core holds: their walks are put in flight (17_translation R398,
R399). -/
def walksFor (s : State) (core ctx : Nat) (subs : List Sub) : List Ev :=
  let vas := (subs.filter fun x => x.paged && (tlbLook s core ctx x.va).isNone).map fun x => x.va / 4096 * 4096
  (vas.eraseDups.map fun va => Ev.pageWalk core ctx va).filter fun e => !s.pending.contains e

/-- The registers that the accesses of a word write. -/
def subDests (subs : List Sub) : List (Nat × Nat) := subs.flatMap fun x => (List.range x.dstN).map fun i => (x.lane, x.dst + i)

/-- An operation entered for the accesses of a word, with its requests and page walks in flight. -/
def enterOp (s : State) (k : Nat) (r w : Wave) (cls : Option OpCls) (kind : OpKind) (acq rel : Option Scope) (subs : List Sub) : State :=
  let w1 := addOp w s.tick cls kind acq rel subs (subDests subs)
  let todo := (requestsFor k w.nextOp subs.length).zip subs |>.filter fun p => !p.2.done
  ((s.setWave k w1).posts (walksFor s (coreOf s r) (ctxOf s r) subs)).posts (todo.map Prod.fst)

/-- A memory word from the checks of its fibres: it does not issue while its class is full, it takes the trap of its failures, it
waits for the page service, or its operation is entered (R34, R197). -/
def issueOp (s : State) (k : Nat) (r w : Wave) (cls : Option OpCls) (kind : OpKind) (acq rel : Option Scope) (ts : List Try) : Res :=
  if (match cls with
      | some c => classFull r c
      | none => false) then .hold
  else
    match mergeFails (ts.filterMap Try.failure) with
    | some t => .trap t
    | none =>
      match (ts.filterMap Try.waiting).eraseDups with
      | [] => .ok (enterOp s k r w cls kind acq rel (ts.filterMap Try.access))
      | es => .stall es

/-- An access with destination registers from `v` on in the window of its fibre. -/
def Try.to (f : Fibre) (v n : Nat) : Try → Try
  | .fine x => .fine { x with dst := f.base + v, dstN := n }
  | t => t

/-- The bytes of an access width (R199). -/
def widthBytes : Width → Nat
  | .w8 => 1
  | .w16 => 2
  | .w32 => 4
  | .w64 => 8

/-- The registers that a width takes (R31). -/
def widthRegs (w : Width) : Nat := if w = .w64 then 2 else 1

/-- The bytes of an atomic's width (R205). -/
def awBytes : AWidth → Nat
  | .w32 => 4
  | .w64 => 8

/-- A data operand of one register or a pair, from position `j` of the source values (R31). -/
def LaneIn.data (x : LaneIn) (j n : Nat) : DWord :=
  if n = 8 then (x.arg (j + 1)).zeroExtend 64 <<< 32 ||| (x.arg j).zeroExtend 64 else (x.arg j).zeroExtend 64

/-- The source fields of a run. -/
def runOf (v n : Nat) : List Nat := (List.range n).map (v + ·)

end Sys2Proof.Machine
end

