-- ==== Sys2Proof/Machine/Memory.lean ====
section
/-! DEFINITION. Loads and stores of every space, atomics, fences and cache words (10_memory_instructions R199 to R209, R222 to
R225). -/

namespace Sys2Proof.Machine

/-! ## LD and ST -/

/-- LD (R199, R200). The streaming bit changes no value, no order and no fault (R201). -/
def execLd (d a : VReg) (sb : BitVec 4) (wd : Width) (q : Bool) (g : Scope) (x _m : Bool) (s : State) :
    Host.Outcome State Fault Refusal :=
  readWord s (memCheck [a.toNat] (0, 0) (d.toNat, (widthRegs wd))) [a.toNat] fun k r w ins =>
    issueOp s k r w (some .ld) .load (if q then some g else none) none (ins.map fun i =>
      (devTry s r i.lane (vaOf r sb (i.arg 0)) (widthBytes wd) Access.load (.load x) fun _ => none).to i.fibre d.toNat (widthRegs wd))

/-- ST (R199, R200). -/
def execSt (d a : VReg) (sb : BitVec 4) (wd : Width) (q : Bool) (g : Scope) (_m : Bool) (s : State) :
    Host.Outcome State Fault Refusal :=
  readWordFrom s (memCheck [a.toNat] (d.toNat, (widthRegs wd)) (0, 0)) (a.toNat :: runOf d.toNat (widthRegs wd)) 1 fun k r w ins =>
    issueOp s k r w (some .st) .store none (if q then some g else none) (ins.map fun i =>
      devTry s r i.lane (vaOf r sb (i.arg 0)) (widthBytes wd) Access.store (.store (i.data 1 (widthBytes wd))) fun _ => none)

/-! ## Scratchpad and lane-private window -/

/-- LDS (R202, R203). -/
def execLds (d a : VReg) (sb : BitVec 4) (wd : Width) (x : Bool) (s : State) : Host.Outcome State Fault Refusal :=
  readWord s (memCheck [a.toNat] (0, 0) (d.toNat, (widthRegs wd))) [a.toNat] fun k r w ins =>
    issueOp s k r w (some .ld) .load none none (ins.map fun i =>
      (coreTry .spm (spmSize s r) 0x18 i.lane (offOf r sb (i.arg 0)) (widthBytes wd) (.load x)).to i.fibre d.toNat (widthRegs wd))

/-- STS (R202, R203). -/
def execSts (d a : VReg) (sb : BitVec 4) (wd : Width) (s : State) : Host.Outcome State Fault Refusal :=
  readWordFrom s (memCheck [a.toNat] (d.toNat, (widthRegs wd)) (0, 0)) (a.toNat :: runOf d.toNat (widthRegs wd)) 1 fun k r w ins =>
    issueOp s k r w (some .st) .store none none (ins.map fun i =>
      coreTry .spm (spmSize s r) 0x18 i.lane (offOf r sb (i.arg 0)) (widthBytes wd) (.store (i.data 1 (widthBytes wd))))

/-- A number read from a fibre's lane-private window. -/
def windowRead (f : Fibre) (off n : Nat) : Nat := leNat ((List.range n).map fun i => f.window.get (off + i) 0)

/-- A load of the lane-private window takes its value at once: no other agent sees the window (R204). -/
def Try.loadWindow (f : Fibre) : Try → Try
  | .fine x => .fine { x with done := true, value := BitVec.ofNat 64 (windowRead f x.pa x.n) }
  | t => t

/-- A store to the lane-private window is performed at once (R204). -/
def Try.stored : Try → Try
  | .fine x => .fine { x with done := true }
  | t => t

/-- LDP (R202, R204). -/
def execLdp (d a : VReg) (sb : BitVec 4) (wd : Width) (x : Bool) (s : State) : Host.Outcome State Fault Refusal :=
  readWord s (memCheck [a.toNat] (0, 0) (d.toNat, (widthRegs wd))) [a.toNat] fun k r w ins =>
    issueOp s k r w (some .ld) .load none none (ins.map fun i =>
      ((coreTry .lane (lpSize s r) 0x19 i.lane (offOf r sb (i.arg 0)) (widthBytes wd) (.load x)).loadWindow i.fibre).to i.fibre d.toNat (widthRegs wd))

/-- The windows of the fibres of a batch after a store (R204). -/
def storeWindows (w : Wave) (outs : List (Nat × Nat × List Byte)) : Wave :=
  outs.foldl (fun w o => w.mapFibre o.1 fun f => { f with window := Memory.writes f.window o.2.1 o.2.2 }) w

/-- STP (R202, R204). -/
def execStp (d a : VReg) (sb : BitVec 4) (wd : Width) (s : State) : Host.Outcome State Fault Refusal :=
  readWordFrom s (memCheck [a.toNat] (d.toNat, (widthRegs wd)) (0, 0)) (a.toNat :: runOf d.toNat (widthRegs wd)) 1 fun k r w ins =>
    let w1 := storeWindows w (ins.map fun i => (i.lane, offOf r sb (i.arg 0), dataBytes (i.data 1 (widthBytes wd)) (widthBytes wd)))
    issueOp s k r w1 (some .st) .store none none (ins.map fun i =>
      (coreTry .lane (lpSize s r) 0x19 i.lane (offOf r sb (i.arg 0)) (widthBytes wd) (.store (i.data 1 (widthBytes wd)))).stored)

/-! ## Atomics -/

/-- The source registers of an atomic's data: for CAS the expected value and the new value follow each other (R205). -/
def atomRegs (o : AtomOp) (wd : AWidth) : Nat := (if o = .cas then 2 else 1) * ((awBytes wd) / 4)

/-- The registers that an atomic writes. -/
def atomDst (wd : AWidth) (ret : Bool) : Nat := if ret then (awBytes wd) / 4 else 0

/-- The access of an atomic. -/
def atomAcc (o : AtomOp) (wd : AWidth) (ret : Bool) (i : LaneIn) : Acc :=
  .atomic o (i.data 1 (awBytes wd)) (if o = .cas then i.data (1 + (awBytes wd) / 4) (awBytes wd) else 0) ret

/-- The register checks of an atomic: data or result registers that reach v124 give 0x04 (R207), so its data is never taken
from a queue port, and of the two codes for a result in lq0 or lq1 the lower is raised (R36, R43). -/
def atomCheck (d a : VReg) (o : AtomOp) (wd : AWidth) (ret : Bool) (r : Wave) : Option Trap :=
  if 124 < d.toNat + atomRegs o wd then some (mkTrap 0x04 (batch r) 0 0)
  else memCheck [a.toNat] (d.toNat, atomRegs o wd) (d.toNat, atomDst wd ret) r

/-- The counter class of an atomic (02_encoding R34). -/
def atomCls (ret : Bool) : OpCls := if ret then .ld else .st

/-- An ATOM on a page that maps host memory gives 0x13 (R207). -/
def hostTrap (t : Target) : Option (Nat × Nat) := if t.space = .far 256 then some (0x13, 0) else none

/-- ATOM (R205 to R208). -/
def execAtom (d a : VReg) (sb : BitVec 4) (wd : AWidth) (o : AtomOp) (ret : Bool) (s : State) : Host.Outcome State Fault Refusal :=
  readWordFrom s (atomCheck d a o wd ret) (a.toNat :: runOf d.toNat (atomRegs o wd)) 1 fun k r w ins =>
    issueOp s k r w (some (atomCls ret)) .atomic none none (ins.map fun i =>
      (devTry s r i.lane (vaOf r sb (i.arg 0)) (awBytes wd) Access.atom (atomAcc o wd ret i) hostTrap).to i.fibre d.toNat (atomDst wd ret))

/-- ATOMS (R205 to R207, R209). -/
def execAtoms (d a : VReg) (sb : BitVec 4) (wd : AWidth) (o : AtomOp) (ret : Bool) (s : State) : Host.Outcome State Fault Refusal :=
  readWordFrom s (atomCheck d a o wd ret) (a.toNat :: runOf d.toNat (atomRegs o wd)) 1 fun k r w ins =>
    issueOp s k r w (some (atomCls ret)) .atomic none none (ins.map fun i =>
      (coreTry .spm (spmSize s r) 0x18 i.lane (offOf r sb (i.arg 0)) (awBytes wd) (atomAcc o wd ret i)).to i.fibre d.toNat (atomDst wd ret))

/-! ## FENCE, PREF, CLEAN and INVS -/

/-- A fence entered in the wave's operations. -/
def enterFence (w : Wave) (tick : Nat) (kind : FKind) (sc : FScope) : Wave := addOp w tick none (.fence kind sc) none none [] []

/-- FENCE: acq-rel orders as acq and rel do together (R222, R190). -/
def execFence (sc : FScope) (kind : FKind) (s : State) : Host.Outcome State Fault Refusal :=
  runWord s fun k _ w =>
    match kind with
    | .acqrel =>
      .ok (((s.setWave k (enterFence (enterFence w s.tick .acq sc) s.tick .rel sc)).post (.homeSliceRequest k w.nextOp 0)).post
        (.homeSliceRequest k (w.nextOp + 1) 0))
    | _ => .ok ((s.setWave k (enterFence w s.tick kind sc)).post (.homeSliceRequest k w.nextOp 0))

/-- One fibre's PREF into the L1: an access of its line that returns nothing, unless its address would fault or its page is a U, host
or peer page (R224). -/
def prefetchOne (s : State) (w : Wave) (lane va : Nat) : Option Sub :=
  match translate s (coreOf s w) (ctxOf s w) w.level Access.load va with
  | .ok t =>
    let x := { mkSub lane t va 64 (.load false) with pa := t.pa / 64 * 64 }
    match t.space with
    | .dev .d => some x
    | .dev .s => some x
    | _ => none
  | .error _ => none

/-- Prefetches entered: they are not counted, keep no order and hold no wave, and their lines come when their home slices give them
(R224). -/
def enterPrefs (s : State) (k : Nat) (w : Wave) (subs : List Sub) : State :=
  if subs.isEmpty then s.setWave k w
  else
    (s.setWave k ((addOp w s.tick none .pref none none subs []).mapOp w.nextOp fun o => { o with counted := true })).posts
      (requestsFor k w.nextOp subs.length)

/-- PREF: it never faults and changes no value (R224). At the LLC level it changes nothing that the model holds: the LLC is memory-side
and its fills are not architectural (R167, R168). -/
def execPref (a : VReg) (sb : BitVec 4) (l : PLevel) (s : State) : Host.Outcome State Fault Refusal :=
  readWord s (memCheck [a.toNat] (0, 0) (0, 0)) [a.toNat] fun k r w ins =>
    match l with
    | .llc => .ok (s.setWave k w)
    | .l1 => .ok (enterPrefs s k w (ins.filterMap fun i => prefetchOne s r i.lane (vaOf r sb (i.arg 0))))

/-- The line of a cache word's access (R225). -/
def Try.wholeLine : Try → Try
  | .fine x => .fine { x with pa := x.pa / 64 * 64, n := 64 }
  | t => t

/-- CLEAN and INVS (R225). -/
def cacheWord (acc : Acc) (a : VReg) (sb : BitVec 4) (s : State) : Host.Outcome State Fault Refusal :=
  readWord s (memCheck [a.toNat] (0, 0) (0, 0)) [a.toNat] fun k r w ins =>
    issueOp s k r w (some .st) .cache none none (ins.map fun i =>
      (devTry s r i.lane (vaOf r sb (i.arg 0)) 1 Access.load acc fun _ => none).wholeLine)

/-- CLEAN (R225). -/
def execClean (a : VReg) (sb : BitVec 4) (s : State) : Host.Outcome State Fault Refusal := cacheWord .clean a sb s

/-- INVS (R225). -/
def execInvs (a : VReg) (sb : BitVec 4) (s : State) : Host.Outcome State Fault Refusal := cacheWord .inval a sb s

/-! ## The end of counted operations -/

/-- The oldest operation of a class that has not been counted. -/
def oldestOf (w : Wave) (c : OpCls) : Option MemOp := (outstandingOps w c).head?

/-- An operation has left its counter's sight: performed, or an FEXP whose exports have entered their banks (R34, 13_raster R305). -/
def MemOp.countDue (o : MemOp) : Bool := o.performed || (o.kind == .fexp && o.subs.all fun x => x.busy || x.done)

/-- An operation is counted: a load waits for its WAIT, also when its registers belong to no fibre any more, since a WAIT counts it; an FEXP that
has not been performed stays for the words that wait for it, any other is gone (R34 to R36, 13_raster R305). -/
def countOp (s : State) (k : Nat) (o : MemOp) : State :=
  reapWave (s.mapWave k fun w =>
    if o.cls == some .ld || !o.performed then w.mapOp o.id fun q => { q with counted := true } else w.dropOp o.id) k

/-- A class of a wave has an operation to count: its oldest has been performed (R34, R35). -/
def countable (s : State) (k : Nat) (c : OpCls) : Option MemOp :=
  (s.wave k).bind fun w => (oldestOf w c).filter MemOp.countDue

/-- COUNTED_OP_COMPLETE: the counter of the class falls by one, in issue order (R34, R35). -/
def execCountedOpComplete (wave : Nat) (cls : OpCls) (s : State) : Host.Outcome State Fault Refusal :=
  runEvent s (.countedOpComplete wave cls) (countable s wave cls).isSome fun s =>
    match countable s wave cls with
    | some o => countOp s wave o
    | none => s

end Sys2Proof.Machine
end

