-- ==== Sys2Proof/Machine/CopyData.lean ====
section
/-! DEFINITION. What all copies share: their pages, the credit of a sector and the end of a copy (11_async_copies R229 to R234,
R257). -/

namespace Sys2Proof.Machine

/-- Word `i` of a copy's descriptor as a number (11_async_copies R235). -/
def Copy.word (c : Copy) (i : Nat) : Nat := (nth c.desc i).toNat

/-- A 64-bit address in words `i` and `i + 1` of a copy's descriptor. -/
def Copy.dword (c : Copy) (i : Nat) : Nat := c.word i + 2 ^ 32 * c.word (i + 1)

/-- The physical place of a virtual byte through pages translated at issue. -/
def pagePlace (pages : Map PageAt) (va : Nat) : Option (Space × Nat × Option Nat) :=
  (pages.look (va / 4096)).map fun p => (p.space, p.pa + va % 4096, p.key)

/-- One byte read through the pages of an operation: coherent device memory, host or peer memory. -/
def pageByte (s : State) (pages : Map PageAt) (va : Nat) : Byte :=
  match pagePlace pages va with
  | some (.far d, pa, _) => Memory.read s.mem.far (farAddr d pa)
  | some (_, pa, key) => seenByte s.mem key pa
  | none => 0

/-- Bytes read through the pages of an operation, and their number. -/
def pageBytes (s : State) (pages : Map PageAt) (va n : Nat) : List Byte := (List.range n).map fun i => pageByte s pages (va + i)

/-- Bytes of one page written through the pages of an operation. -/
def pageWrite (s : State) (pages : Map PageAt) (va : Nat) (bs : List Byte) : State :=
  match pagePlace pages va with
  | some (.far d, pa, _) => { s with mem := farWrite s.mem d pa bs }
  | some (_, pa, key) => { s with mem := devWrite s.mem key pa bs }
  | none => s

/-- Bytes of one page written by a copy: tile operations meet them as they meet a store (06_matrix R137). -/
def pageStore (s : State) (pages : Map PageAt) (va : Nat) (bs : List Byte) : State :=
  match pagePlace pages va with
  | some (.dev _, pa, key) => agentWrite s key pa bs
  | _ => pageWrite s pages va bs

/-- The line of a virtual byte can be accessed now, or the link to its device is up, or no route leads there (08_memory_spaces R168, 18_host_peers
R412, R416). -/
def pageFree (s : State) (pages : Map PageAt) (va : Nat) : Bool :=
  match pagePlace pages va with
  | some (.dev _, pa, _) => lineFree s.mem (lineOf pa)
  | some (.far d, _, _) => peerUp s d || !routed s d
  | _ => true

/-- A byte of an operation's source lies in a poisoned line (20_errors R438). -/
def pagePoisoned (s : State) (pages : Map PageAt) (va : Nat) : Bool :=
  match pagePlace pages va with
  | some (.dev _, pa, _) => s.mem.poison.contains (lineOf pa)
  | _ => false

/-- A line of device memory written from poison carries the mark on (20_errors R438). -/
def poisonAt (s : State) (pages : Map PageAt) (va : Nat) : State :=
  match pagePlace pages va with
  | some (.dev _, pa, _) =>
    if s.mem.poison.contains (lineOf pa) then s else { s with mem := { s.mem with poison := lineOf pa :: s.mem.poison } }
  | _ => s

/-- The first byte of each page of a run of virtual bytes. -/
def pageHeads (va n : Nat) : List Nat := (pageRuns va n).map Prod.fst

/-- One page of a word that is translated as a whole: its translation, or the page service for a read-duplicate page (R197, R233). -/
def pageTry (s : State) (r : Wave) (i va : Nat) (a : Access) : Try :=
  reach s r i va a (fun _ => []) fun t => mkSub i t va 1 .clean

/-- The pages of accesses that passed. -/
def pagesOf (subs : List Sub) : Map PageAt :=
  subs.foldl (fun m x => m.put (x.va / 4096) { space := x.space, pa := x.pa / 4096 * 4096, key := x.key }) []

/-- What a word does once all its pages are translated: the lowest code, at the first address with it, traps the batch (R233). -/
def withPages (s : State) (r : Wave) (vas : List (Nat × Access)) (f : Map PageAt → Res) : Res :=
  let ts := (List.range vas.length).zip vas |>.map fun p => pageTry s r p.1 p.2.1 p.2.2
  match mergeFails (ts.filterMap Try.failure) with
  | some t => .trap { t with tmask := maskOf (batch r) }
  | none =>
    match (ts.filterMap Try.waiting).eraseDups with
    | [] => f (pagesOf (ts.filterMap Try.access))
    | es => .stall es

/-- The walks of pages that no TLB of the core holds (17_translation R398, R399). -/
def pageWalks (s : State) (r : Wave) (vas : List Nat) : List Ev :=
  ((vas.filter fun va => (tlbLook s (coreOf s r) (ctxOf s r) va).isNone).map fun va =>
    Ev.pageWalk (coreOf s r) (ctxOf s r) (va / 4096 * 4096)).eraseDups.filter fun e => !s.pending.contains e

/-- A block's circular buffer changed. -/
def mapCbuf (s : State) (blk i : Nat) (f : Cbuf → Cbuf) : State := s.mapBlock blk fun b => { b with cbufs := b.cbufs.modify i f }

/-- A free slot that no tile operation has named and no CBREL has released. -/
def freshSlot : CbSlot := { st := .free, fill := 0, rel := 0, refs := [] }

/-- A slot whose fill has been released and that no tile operation still has to read is FREE for the next fill (06_matrix R133,
11_async_copies R253, R254). -/
def settleSlot (x : CbSlot) : CbSlot :=
  if (x.st == .committed || x.st == .released) && decide (x.fill < x.rel) && !x.refs.contains x.fill then
    { x with st := .free, fill := x.fill + 1 }
  else x

/-- The fill of a slot committed: the slot goes on to COMMITTED whatever CBREL came before (R256). -/
def commitFill (x : CbSlot) : CbSlot := { x with st := .committed }

/-- The fills of a slot that copies or CBCOMs have claimed so far: those up to the one in the slot, and one for each copy that
waits for the slot (R257). -/
def claimedFills (waiting : Nat) (x : CbSlot) : Nat := x.fill + (if x.st == .free then 0 else 1) + waiting

/-- What a CBREL does to the slot at c. A COMMITTED slot becomes RELEASED, or FREE when its count is 0. A slot that is not COMMITTED
keeps its state and count, and goes on to COMMITTED when its copy lands; a CBREL for a fill that a tile operation has named is
noted, and frees the slot for its producer when that operation has read the fill (R254, R256, 06_matrix R133, 16_scheduling R375,
25_prog_context_save R477; log 53). -/
def releaseSlot (waiting : Nat) (x : CbSlot) : CbSlot :=
  if x.st == .committed && x.rel == x.fill then settleSlot { x with rel := x.rel + 1, st := .released }
  else if x.refs.contains x.rel && decide (x.rel < claimedFills waiting x) then { x with rel := x.rel + 1 }
  else x

/-- The copies that have issued and wait for a slot of a buffer (R257). -/
def slotWaiting (s : State) (blk i j : Nat) : Nat :=
  (s.work.copies.filter fun p => p.2.blk == blk && p.2.cb == some (i, j) && !p.2.started).length

/-- The earlier copies that wait for the slot of a copy (R257). -/
def aheadForSlot (s : State) (id : Nat) (c : Copy) : Nat :=
  (s.work.copies.filter fun p => decide (p.1 < id) && p.2.blk == c.blk && c.cb.isSome && p.2.cb == c.cb && !p.2.started).length

/-- The slot of a copy committed, and the copy no longer outstanding at its buffer (11_async_copies R253, R257). -/
def commitSlot (s : State) (c : Copy) : State :=
  match c.cb with
  | some (i, j) => mapCbuf s c.blk i fun q => { q with copies := q.copies - 1, slots := q.slots.modify j commitFill }
  | none => s

/-- A copy whose last sector has landed or been dropped gives up its place; its operation is done (R228, R231, R257). -/
def endCopy (s : State) (id : Nat) : State :=
  match s.work.copies.look id with
  | some c =>
    if c.left.isEmpty then
      let s1 := commitSlot s c
      let s2 := { s1 with work := { s1.work with copies := s1.work.copies.del id } }
      s2.mapWave c.wave fun w => w.mapOp c.op fun o => { o with done := true }
    else s
  | none => s

/-- A sector of a copy that has landed or been dropped. -/
def sectorDone (s : State) (id k : Nat) : State :=
  endCopy { s with work := { s.work with copies := s.work.copies.modify id fun c => { c with left := c.left.erase k } } } id

/-- One landed sector credited to the copy's barrier object (R234, R245). -/
def creditSector (s : State) (c : Copy) : State :=
  match c.bar with
  | some o => (updateObj s o (.credit 1)).1
  | none => s

/-- The sectors of a CPYM for each target (R235). -/
def Copy.perTarget (c : Copy) : Nat := c.word 4 / 32

/-- Byte `i` of a CPYM at its source (R235, R236); a byte of a destination that overlaps the source is unpredictable (R232). -/
def cpymByte (s : State) (c : Copy) (blk off i : Nat) : Byte :=
  if bitAt (c.word 5) 2 then pageByte s c.pages (c.dword 0 + i)
  else if blk = c.blk ∧ c.word 0 ≤ off + i ∧ off + i < c.word 0 + c.word 4 then Config.freeByte s.tick (off + i)
  else (arrayBytes s c.blk (c.word 0 + i) 1).headD 0

/-- The bytes of a sector of a CPYM for a target block (R235, R236). -/
def cpymBytes (s : State) (c : Copy) (blk k : Nat) : List Byte :=
  (List.range 32).map fun j => cpymByte s c blk (c.word 2) (32 * (k % c.perTarget) + j)

end Sys2Proof.Machine
end

