-- ==== Sys2Proof/Machine/Remote.lean ====
section
/-! DEFINITION. Remote access to the scratchpad of a block of a group: the words, the messages, generations, holds and drops
(10_memory_instructions R210 to R215, 11_async_copies R247, 19_traps R433). -/

namespace Sys2Proof.Machine

/-! ## Groups and targets -/

/-- The members of the group in slot `g` of a block, as flattened indices, when the slot is valid (15_execution_model R351). -/
def groupMembers (s : State) (blk g : Nat) : Option (List Nat) :=
  match (groupSlots s blk)[g]?, s.launchOf blk with
  | some (i, _), some l => (l.groups[i]?).map Group.members
  | _, _ => none

/-- The block that a message to an unplaced rank names: none (R212). -/
def noBlock : Nat := 2 ^ 64

/-- The placed block of a launch with a flattened index, and its generation (R211). -/
def locate (s : State) (blk idx : Nat) : Nat × Nat :=
  match s.block blk with
  | none => (noBlock, 0)
  | some me =>
    match s.work.blocks.find? fun p => p.2.launch == me.launch && p.2.idx == idx && p.2.status != .contained with
    | some (k, b) => (k, b.gen.toNat)
    | none => (noBlock, 0)

/-- The core that holds, or last held, the allocation of a block (R211, R213). -/
def msgCore (s : State) (blk : Nat) : Nat := ((s.block blk).map Block.core).getD 0

/-- A message finds its allocation: the generations are equal, or a forwarding entry leads from the old one (R212, R214,
16_scheduling R378). -/
def reaches (s : State) (m : RemoteMsg) : Bool :=
  match s.block m.blk with
  | some b =>
    b.status != .contained &&
      (b.gen.toNat == m.gen || s.work.forwards.any fun f => f.blk == m.blk && f.gen.toNat == m.gen)
  | none => false

/-! ## What a message does -/

/-- The answer or acknowledgement of a message to the operation that sent it (R212). -/
def ackMsg (s : State) (m : RemoteMsg) (value : Nat) : State :=
  match m.op with
  | .load op sub => doneSub s m.wave op sub value
  | .store _ op sub => doneSub s m.wave op sub 0
  | .arrive op _ => reapWave (s.mapWave m.wave fun w => w.dropOp op) m.wave
  | _ => s

/-- A message that the dropped-remote-write count counts: every kind that R212 names, so not the expectation that a CPYM.x sends ahead of
its sectors. -/
def dropCounts : RemoteOp → Bool
  | .expect _ => false
  | _ => true

/-- A message dropped: the dropped-remote-write count of the sender's context rises, and an RLD returns 0 (R212). -/
def dropMsg (s : State) (ctx : Nat) (m : RemoteMsg) : State :=
  let s1 := ackMsg (if dropCounts m.op then bumpCount s ctx 0x0C else s) m 0
  match m.op with
  | .sector c k => sectorDone s1 c k
  | _ => s1

/-- A sector of a CPYM performed at a target, credited to the object there (11_async_copies R234, R236). -/
def applySector (s : State) (m : RemoteMsg) (id k : Nat) : State :=
  match s.work.copies.look id with
  | none => s
  | some c =>
    let s1 := arrayWriteFrom s c.since m.blk m.off (cpymBytes s c m.blk k)
    let s2 := match c.bar with
      | some (.spm _ off) => (updateObj s1 (.spm m.blk off) (.credit 1)).1
      | _ => s1
    sectorDone s2 id k

/-- A message performed at the scratchpad that holds its target now (R212, R214). -/
def applyMsg (s : State) (m : RemoteMsg) : State :=
  match m.op with
  | .load _ _ => ackMsg s m (loadedValue s m.blk (arraySub s m.off 4) (leNat (arrayBytes s m.blk m.off 4)))
  | .store d _ _ => ackMsg (arrayWrite s m.blk m.off (leBytes d.toNat 4)) m 0
  | .arrive _ addr =>
    let r := updateObj s (.spm m.blk m.off) .arrive
    let s1 := ackMsg r.1 m 0
    if r.2 then s1.post (.barrierOverrunReport m.wave addr) else s1
  | .expect k => (updateObj s (.spm m.blk m.off) (.expect k)).1
  | .sector c k => applySector s m c k

/-- The messages that a block's core holds, applied in arrival order (19_traps R433). -/
def applyHeld (s : State) (blk : Nat) : State :=
  match s.block blk with
  | some b => b.heldMsgs.foldl applyMsg (s.setBlock blk { b with heldMsgs := [] })
  | none => s

/-! ## Delivery -/

/-- The bytes that a message reads or writes at its target's array, when the range scoreboard guards it (11_async_copies R243). -/
def msgHeldBack (s : State) (m : RemoteMsg) : Bool :=
  match m.op with
  | .load _ _ => boardHolds s m.blk m.off 4 true
  | .store _ _ _ => boardHolds s m.blk m.off 4 false
  | _ => false

/-- The operation that a message belongs to may be performed: the accesses that it follows have been, those to the same bytes of the
sender's own scratchpad among them (R215, 09_consistency R184, R193). -/
def msgOrdered (s : State) (m : RemoteMsg) : Bool :=
  let ready (op sub : Nat) : Bool :=
    match s.wave m.wave with
    | some w =>
      match opOf w op with
      | some o =>
        inOrder w o && (beforeRelease s (coreOf s w) o).isSome && ((o.subs[sub]?).bind (lastMeeting w o sub)).isNone
      | none => true
    | none => true
  match m.op with
  | .load op sub => ready op sub
  | .store _ op sub => ready op sub
  | .arrive op _ => ready op 0
  | _ => true

/-- No earlier message of the same wave to the same block is still on its way (R214). -/
def msgFirst (s : State) (m : RemoteMsg) : Bool :=
  s.pending.all fun e => match e with
    | .remoteMessage q => !(q.wave == m.wave && q.blk == m.blk && decide (q.seq < m.seq))
    | _ => true

/-- The target's core takes the message now: it is performed, held for a block under pre-emption, or dropped (R212, R214, 19_traps
R433). -/
def msgTaken (s : State) (m : RemoteMsg) : Bool :=
  if !reaches s m then true
  else
    match s.block m.blk with
    | some b =>
      match b.status with
      | .running => if b.preempt then decide (b.heldMsgs.length < 256) else !msgHeldBack s m
      | .saved => hwFree s b.ctx (saveImg s m.blk + 512 + m.off) 32
      | _ => false
    | none => true

/-- The context of the block that sent a message. -/
def senderCtx (s : State) (m : RemoteMsg) : Nat := ((s.block (m.wave / 16)).map Block.ctx).getD 0

/-- The S bytes that a release writes through before its message is performed (08_memory_spaces R172). -/
def msgRelease (s : State) (m : RemoteMsg) : State :=
  match m.op with
  | .arrive op _ =>
    match (s.wave m.wave).bind fun w => (opOf w op).map fun o => (w, o) with
    | some (w, o) => (beforeRelease s (coreOf s w) o).getD s
    | none => s
  | _ => s

/-- A message at its target (R212). -/
def takeMsg (s : State) (m : RemoteMsg) : State :=
  let s1 := msgRelease s m
  if !reaches s1 m then dropMsg s1 (senderCtx s m) m
  else
    match s1.block m.blk with
    | some b =>
      if b.status == .running && b.preempt then s1.setBlock m.blk { b with heldMsgs := b.heldMsgs ++ [m] } else applyMsg s1 m
    | none => s1

/-- REMOTE_MESSAGE (R212 to R215). -/
def execRemoteMessage (m : RemoteMsg) (s : State) : Host.Outcome State Fault Refusal :=
  runEvent s (.remoteMessage m)
    (s.pending.contains (.remoteMessage m) && msgFirst s m && msgOrdered s m && msgTaken s m) fun s => takeMsg s m

/-! ## RLD, RST and MCST -/

/-- One fibre's access of a target's scratchpad: the rank, alignment, and the bound (R211). -/
def remoteTry (s : State) (r : Wave) (members : List Nat) (rank : Option Nat) (lane off : Nat) (acc : Acc) : Try :=
  if (rank.map fun x => decide (members.length ≤ x)).getD false then .fail { lane := lane, cause := 0x01, addr := 0, info := 0 }
  else
    match coreTry .remote (spmSize s r) 0x18 lane off 4 acc with
    | .fine x => .fine { x with space := .remote }
    | t => t

/-- What the message of an access does at its target. -/
def accOp (a : Acc) (op sub : Nat) : RemoteOp :=
  match a with
  | .store d => .store (d.truncate 32) op sub
  | _ => .load op sub

/-- The messages of an operation's accesses, one for each fibre and target, in issue order (R211, R214). -/
def remoteMsgs (s : State) (k : Nat) (w : Wave) (subs : List (Sub × Nat)) : List RemoteMsg :=
  (List.range subs.length).zip subs |>.map fun p =>
    let q := locate s w.blk p.2.2
    { wave := k, seq := w.nextMsg + p.1, core := msgCore s q.1, blk := q.1, gen := q.2, off := p.2.1.pa
      op := accOp p.2.1.acc w.nextOp p.1 }

/-- An access of a target's scratchpad as its wave's other accesses meet it: one of the issuer's own block is an access of the block's
scratchpad (09_consistency R184). -/
def asOwn (s : State) (blk : Nat) (q : Sub × Nat) : Sub := if (locate s blk q.2).1 = blk then { q.1 with space := .spm } else q.1

/-- A remote word whose checks have passed: its operation and its messages (R211). -/
def sendRemote (s : State) (k : Nat) (w : Wave) (cls : OpCls) (kind : OpKind) (subs : List (Sub × Nat)) : State :=
  let ms := remoteMsgs s k w subs
  let xs := subs.map (asOwn s w.blk)
  let w1 := addOp { w with nextMsg := w.nextMsg + subs.length } s.tick (some cls) kind none none xs (subDests xs)
  (s.setWave k w1).posts (ms.map Ev.remoteMessage)

/-- The ranks that a remote word can read name members of its group: 0x01 comes before every check of registers (R43, R197, R211). The
fibres whose rank register lies outside their window, or pops a fault marker, have no rank. -/
def rankCheck (s : State) (g : Nat) (b : Option Nat) (r : Wave) : Option Trap :=
  match groupMembers s r.blk g with
  | none => some (mkTrap 0x01 (batch r) 0 0)
  | some members =>
    match b with
    | none => none
    | some v =>
      let seen := portsSeen s r (portsOf [v])
      let known (p : Nat × Fibre) : Bool :=
        if isPort v then !(seen.2.get (v - 124) []).contains p.1 else decide (v < 124) && inWindow r p.2 v
      let bad := (fibresOf r (batch r)).filter fun p => known p && decide (members.length ≤ (srcVal s r seen.1 p.1 p.2 v).toNat)
      if bad.isEmpty then none else some (mkTrap 0x01 (bad.map Prod.fst) 0 0)

/-- RLD, RST and MCST (R210, R211): `rank` gives a fibre's target rank, and none for every rank of the group; `b` is the register that
holds it, and the first `n` sources are those that the checks need. -/
def remoteWord (s : State) (chk : Wave → Option Trap) (srcs : List Nat) (n : Nat) (g : BitVec 2) (b : Option Nat) (cls : OpCls)
    (kind : OpKind) (rank : LaneIn → Option Nat) (acc : LaneIn → Acc) (dst : Option Nat) :
    Host.Outcome State Fault Refusal :=
  readWordFrom s (fun r => (rankCheck s g.toNat b r).orElse fun _ => chk r) srcs n fun k r w ins =>
    match groupMembers s r.blk g.toNat with
    | none => illegalHere r
    | some members =>
      let ts := ins.map fun i =>
        ((i, remoteTry s r members (rank i) i.lane (i.arg 0).toNat (acc i)) : LaneIn × Try)
      if classFull r cls then .hold
      else
        match mergeFails (ts.filterMap fun p => p.2.failure) with
        | some t => .trap t
        | none =>
          let subs := ts.flatMap fun p =>
            match ((match dst with
              | some d => p.2.to p.1.fibre d 1
              | none => p.2).access) with
            | some x =>
              match rank p.1 with
              | some rk => [(x, members.getD rk 0)]
              | none => members.map fun m => (x, m)
            | none => []
          .ok (sendRemote s k w cls kind subs)

/-- RLD (R210, R211). -/
def execRld (d a b : VReg) (g : BitVec 2) (s : State) : Host.Outcome State Fault Refusal :=
  remoteWord s (memCheck [a.toNat, b.toNat] (0, 0) (d.toNat, 1)) [a.toNat, b.toNat] 2 g (some b.toNat) .ld .load
    (fun i => some (i.arg 1).toNat) (fun _ => .load false) (some d.toNat)

/-- RST (R210, R211). -/
def execRst (d a b : VReg) (g : BitVec 2) (s : State) : Host.Outcome State Fault Refusal :=
  remoteWord s (memCheck [a.toNat, b.toNat, d.toNat] (0, 0) (0, 0)) [a.toNat, b.toNat, d.toNat] 2 g (some b.toNat) .st .store
    (fun i => some (i.arg 1).toNat) (fun i => .store (i.data 2 4)) none

/-- MCST (R210, R211). -/
def execMcst (d a : VReg) (g : BitVec 2) (s : State) : Host.Outcome State Fault Refusal :=
  remoteWord s (memCheck [a.toNat, d.toNat] (0, 0) (0, 0)) [a.toNat, d.toNat] 1 g none .st .store
    (fun _ => none) (fun i => .store (i.data 1 4)) none

end Sys2Proof.Machine
end

