-- ==== Sys2Proof/Machine/BarWords.lean ====
section
/-! DEFINITION. The BAR words, the requests of remote waiters and the reports of barrier objects (11_async_copies R246 to R252). -/

namespace Sys2Proof.Machine

/-! ## The object that a word names -/

/-- An object that a word names: in the block's own scratchpad, in another block's (with its generation), or in device memory, with the
access that stands for it in the order of its location. -/
inductive BarRef
  | own (off : Nat)
  | remote (blk gen off : Nat)
  | mem (va : Nat) (sub : Sub)
deriving DecidableEq, Repr

/-- The object at the place that its word's access was translated to. -/
def lineObj (x : Sub) : BarObj :=
  .line (match x.space with
    | .far d => 1 + d
    | _ => 0) x.pa x.key x.va

/-- A trap of the whole batch. -/
def trapAll (r : Wave) (cause addr info : Nat) : Trap := mkTrap cause (batch r) addr info

/-- Alignment and bound of an object in a scratchpad (R247). -/
def spmObject (s : State) (r : Wave) (off : Nat) (x : BarRef) : Except (Option Trap) BarRef :=
  if off % 16 != 0 then .error (some (trapAll r 0x08 off 0))
  else if spmSize s r < off + 16 then .error (some (trapAll r 0x18 off 16))
  else .ok x

/-- The checks of an object in device memory: alignment, translation, a D or U page (R244, R247). -/
def memObject (s : State) (r : Wave) (va : Nat) (a : Access) : Except (Option Trap) BarRef :=
  match devTry s r 0 va 16 a (.load false) (fun t => if t.space = .dev .s then some (0x13, 0) else none) with
  | .fail f => .error (some (trapAll r f.cause f.addr f.info))
  | .wait _ => .error none
  | .fine x => .ok (.mem va { x with acc := .clean })

/-- The object that sA, or the pair sA:sA+1 with .g, names (R247). -/
def barRef (s : State) (r : Wave) (g : Bool) (a : SReg) (acc : Access) (remoteOk : Bool) : Except (Option Trap) BarRef :=
  let x := (sreg r a.toNat).toNat
  let bad : Except (Option Trap) BarRef := .error (some (trapAll r 0x01 0 0))
  if g then memObject s r (spair r a.toNat).toNat acc
  else if !bitAt x 31 then
    if bits x 30 19 != 0 then bad else spmObject s r (bits x 18 0) (.own (bits x 18 0))
  else if !remoteOk || bits x 30 29 != 0 then bad
  else
    match groupMembers s r.blk (bits x 28 27) with
    | none => bad
    | some ms =>
      if ms.length ≤ bits x 26 19 then bad
      else
        let q := locate s r.blk (ms.getD (bits x 26 19) 0)
        spmObject s r (bits x 18 0) (.remote q.1 q.2 (bits x 18 0))

/-- The write to a read-duplicate page that an update of an object waits for (17_translation R403). -/
def barWait (s : State) (r : Wave) (a : SReg) : List Ev :=
  [collapseEv s (ctxOf s r) (spair r a.toNat).toNat]

/-- What a word does with the object that it names. -/
def withObject (s : State) (r : Wave) (g : Bool) (a : SReg) (acc : Access) (remoteOk : Bool) (f : BarRef → Res) : Res :=
  match barRef s r g a acc remoteOk with
  | .error (some t) => .trap t
  | .error none => .stall (barWait s r a)
  | .ok x => f x

/-- No access of the wave to an object's bytes in scratchpad is still to be performed (09_consistency R184). -/
def spmQuiet (w : Wave) (off : Nat) : Bool :=
  w.ops.all fun o => o.subs.all fun x => x.done || x.space != .spm || !(decide (x.pa < off + 16) && decide (off < x.pa + x.n))

/-- The accesses of a wave that a store follows have been performed (09_consistency R185). -/
def storeReady (w : Wave) : Bool :=
  w.ops.all fun e => e.performed || !(e.ordered && (e.loads || e.stores || e.acquires || e.relFence))

/-- The stores of a wave, and the acquires before which nothing later is performed, have been performed: what a load that observes
every earlier store follows (10_memory_instructions R220, 11_async_copies R238). -/
def seesStores (w : Wave) : Bool := w.ops.all fun e => e.performed || !(e.ordered && (e.stores || e.acquires))

/-- Bytes that a word reads at issue can be read: no earlier access of the wave to one of them is still to be performed, and their places take
requests (09_consistency R184, 12_ordered_sections R276). -/
def readOpen (s : State) (r : Wave) (q : Nat × Nat) : Bool :=
  (pageRuns q.1 q.2).all fun p =>
    pageOpen s (coreOf s r) (ctxOf s r) r.level p.1 &&
      match translate s (coreOf s r) (ctxOf s r) r.level Access.load p.1 with
      | .ok t => t.open s p.2 &&
          r.ops.all fun o => o.kind == .pref || o.subs.all fun y => y.done || !y.meets (mkSub 0 t p.1 p.2 (.load false))
      | .error _ => true

/-- Runs of bytes, each with its address and length, that a word reads at issue can be read now, after the wave's stores. -/
def readsOpen (s : State) (r : Wave) (qs : List (Nat × Nat)) : Bool := seesStores r && qs.all (readOpen s r)

/-- What the reads of a word at issue leave (`noteRead`). -/
def noteReads (s : State) (k : Nat) (r : Wave) (qs : List (Nat × Nat)) : State :=
  (qs.flatMap fun q => pageRuns q.1 q.2).foldl (fun s p =>
    match translate s (coreOf s r) (ctxOf s r) r.level Access.load p.1 with
    | .ok t => noteRead s k r t p.1 p.2
    | .error _ => s) s

/-- The acquires of a wave, before which nothing later is performed, have been performed: what the phase read of a BWAIT or BTEST follows
(09_consistency R185, R190). -/
def acquiresDone (w : Wave) : Bool := w.ops.all fun e => e.performed || !(e.ordered && e.acquires)

/-- The accesses that a release follows have been performed, and the core's dirty S bytes can be written through (09_consistency
R189, 08_memory_spaces R172). -/
def releaseReady (s : State) (w : Wave) : Bool := allPerformed w && exportsDone s (waveKey w.blk w.num) w.nextOp && dirtyFree s.mem (coreOf s w)

/-- An update of an object of device memory, or an arrival elsewhere, entered as an operation of the wave; `subs` are the bytes of the
object where the wave's other accesses can meet them (09_consistency R184). -/
def enterBar (w : Wave) (tick : Nat) (rel : Option Scope) (o : BarObj) (u : BarUpd) (subs : List Sub) : Wave :=
  addOp w tick none (.bar o u) none rel subs []

/-! ## BINIT, BARV and BEXP -/

/-- An update of an object of device memory: in flight to its home slice (R244). -/
def sendUpdate (s : State) (k : Nat) (w : Wave) (rel : Option Scope) (o : BarObj) (u : BarUpd) (x : Sub) : Res :=
  .ok ((s.setWave k (enterBar w s.tick rel o u [x])).post (.barrierUpdate (some k) o u))

/-- BINIT (R248, R251). -/
def execBinit (g : Bool) (a b : SReg) (s : State) : Host.Outcome State Fault Refusal :=
  runWord s fun k r w =>
    let e := (sreg r b.toNat).toNat
    if e = 0 ∨ 2 ^ 14 ≤ e then .trap (trapAll r 0x01 0 0)
    else
      withObject s r g a Access.store false fun x =>
        match x with
        | .own off =>
          if storeReady r && spmQuiet r off then .ok (updateObj (s.setWave k w) (.spm r.blk off) (.init e)).1 else .hold
        | .mem _ x => sendUpdate s k w none (lineObj x) (.init e) x
        | .remote _ _ _ => .trap (trapAll r 0x01 0 0)

/-- An arrival at an object of the block's own scratchpad: performed before the chain completes; one that finds A = 0 traps, and
leaves only the overrun bit (R249, `takeTrap`). -/
def arriveOwn (s : State) (k : Nat) (r w : Wave) (off : Nat) : Res :=
  if !releaseReady s r || !spmQuiet r off then .hold
  else
    let s1 := s.setWave k w
    let q := updateObj { s1 with mem := releaseBytes s1.mem (coreOf s r) } (.spm r.blk off) .arrive
    if q.2 then .trap (trapAll r 0x20 off 0) else .ok q.1

/-- A remote arrival sent to its target (R247). -/
def arriveRemote (s : State) (k : Nat) (w : Wave) (blk gen off addr : Nat) : Res :=
  let o := BarObj.spm blk off
  let subs := if blk = w.blk then [mkSub 0 { space := .spm, pa := off, key := none, dup := none, page := 0 } off 16 .clean] else []
  let w1 := enterBar { w with nextMsg := w.nextMsg + 1 } s.tick (some .grp) o .arrive subs
  .ok ((s.setWave k w1).post (.remoteMessage
    { wave := k, seq := w.nextMsg, core := msgCore s blk, blk := blk, gen := gen, off := off, op := .arrive w.nextOp addr }))

/-- BARV (R248, R249). -/
def execBarv (g : Bool) (a : SReg) (s : State) : Host.Outcome State Fault Refusal :=
  runWord s fun k r w =>
    withObject s r g a Access.store true fun x =>
      match x with
      | .own off => arriveOwn s k r w off
      | .remote blk gen off => arriveRemote s k w blk gen off (sreg r a.toNat).toNat
      | .mem _ x => sendUpdate s k w (some .dev) (lineObj x) .arrive x

/-- BEXP (R248). -/
def execBexp (g : Bool) (a b : SReg) (s : State) : Host.Outcome State Fault Refusal :=
  runWord s fun k r w =>
    let n := (sreg r b.toNat).toInt
    withObject s r g a Access.store false fun x =>
      match x with
      | .own off => if spmQuiet r off then .ok (updateObj (s.setWave k w) (.spm r.blk off) (.expect n)).1 else .hold
      | .mem _ x => sendUpdate s k w none (lineObj x) (.expect n) x
      | .remote _ _ _ => .trap (trapAll r 0x01 0 0)

/-! ## BWAIT and BTEST -/

/-- The phase of an object. -/
def phaseOf (s : State) (o : BarObj) : Nat := ((objRead s o).map fun x => (barOf x).phase).getD 0

/-- The batch sent on with an acquire (R248). -/
def goOn (s : State) (k : Nat) (r w : Wave) : State :=
  let s1 := s.setWave k w
  { s1 with mem := acquireBytes s1.mem (coreOf s r) }

/-- The fibres of a batch with a predicate written. -/
def setPreds (w : Wave) (lanes : List Nat) (p : PReg) (b : Bool) : Wave :=
  lanes.foldl (fun w l => w.mapFibre l fun f => { f with preds := setPred f.preds p b }) w

/-- A request of a batch sent to a remote object or to a home slice: the fibres of a BWAIT park until its answer, and the wave of a BTEST
stands at it (R250). -/
def askObject (s : State) (k : Nat) (r w : Wave) (o : BarObj) (gen addr phase : Nat) (test : Option PReg) : Res :=
  let kind : Park := if test.isSome then .btest o else .bwait o (32 + phase)
  .ok (((s.moved k (parkAt s w (batch r) fun _ => kind))).post (.remoteBarrierRequest k (maskOf (batch r)).toNat gen addr o phase test))

/-- BWAIT (R248, R250). -/
def execBwait (g : Bool) (a b : SReg) (s : State) : Host.Outcome State Fault Refusal :=
  runWord s fun k r w =>
    let ph := (sreg r b.toNat).toNat
    if 16 ≤ ph then .trap (trapAll r 0x01 0 0)
    else
      withObject s r g a Access.load true fun x =>
        match x with
        | .own off =>
          if !spmQuiet r off || !acquiresDone r then .hold
          else if phaseOf s (.spm r.blk off) ≠ ph then .ok (goOn s k r w)
          else .ok (s.moved k (parkAt s w (batch r) fun _ => .bwait (.spm r.blk off) ph))
        | .remote blk gen off => askObject s k r w (.spm blk off) gen (sreg r a.toNat).toNat ph none
        | .mem va x => askObject s k r w (lineObj x) 0 va ph none

/-- BTEST (R248, R250). It parks no fibre: the wave of a remote or .g test stands at it until the answer, which the predicate of its fibres
takes (`testing`). -/
def execBtest (g : Bool) (p : PReg) (a b : SReg) (s : State) : Host.Outcome State Fault Refusal :=
  runWord s fun k r w =>
    let ph := (sreg r b.toNat).toNat
    if 16 ≤ ph then .trap (trapAll r 0x01 0 0)
    else
      withObject s r g a Access.load true fun x =>
        match x with
        | .own off =>
          if !spmQuiet r off || !acquiresDone r then .hold
          else
            let hit := phaseOf s (.spm r.blk off) != ph
            let w1 := setPreds w (batch r) p hit
            .ok (if hit then goOn s k r w1 else s.setWave k w1)
        | .remote blk gen off => askObject s k r w (.spm blk off) gen (sreg r a.toNat).toNat ph (some p)
        | .mem va x => askObject s k r w (lineObj x) 0 va ph (some p)

/-! ## Requests of remote waiters -/

/-- The parked state of a fibre whose request is under way. -/
def askPark (o : BarObj) (phase : Nat) (test : Option PReg) : Park := if test.isSome then .btest o else .bwait o (32 + phase)

/-- A parked state is that of a request. -/
def asks (o : BarObj) (phase : Nat) (test : Option PReg) (q : Option Parked) : Bool :=
  (q.map Parked.kind) == some (askPark o phase test)

/-- The fibres of a request that still wait for its answer in their wave. -/
def asking (w : Wave) (lanes : Nat) (o : BarObj) (phase : Nat) (test : Option PReg) : List Nat :=
  (lanesWith w Fibre.park (asks o phase test)).filter (bitAt lanes)

/-- Those that wait for it behind a handler (19_traps R426). -/
def askingBehind (w : Wave) (lanes : Nat) (o : BarObj) (phase : Nat) (test : Option PReg) : List Nat :=
  ((lanesWith w Fibre.behind (asks o phase test)).filter (bitAt lanes)).filter fun l => !(asking w lanes o phase test).contains l

/-- The chain at which a request was made: `ls` wait in their wave, `bs` behind a handler. -/
def askPc (w : Wave) (ls bs : List Nat) : Option Pc :=
  ((ls.filterMap w.fibres.look).map Fibre.pc ++ ((bs.filterMap w.fibres.look).filterMap Fibre.shadow).map Shadow.pc).head?

/-- A predicate of a fibre written in its shadow state. -/
def Fibre.shadowPred (p : PReg) (b : Bool) (f : Fibre) : Fibre :=
  { f with shadow := f.shadow.map fun sh => { sh with preds := setPred sh.preds p b } }

/-- A fibre subscribed, in its wave. -/
def Fibre.subscribed (phase : Nat) (f : Fibre) : Fibre := { f with park := f.park.map fun q => q.withPhase phase }

/-- A fibre subscribed behind a handler. -/
def Fibre.subscribedBehind (phase : Nat) (f : Fibre) : Fibre :=
  { f with shadow := f.shadow.map fun sh => { sh with park := sh.park.map fun q => q.withPhase phase } }

/-- The answer of a request: a BWAIT whose phase differs goes on, else it is subscribed; a BTEST takes its predicate (R250). `ls`
are the fibres that wait in their wave, `bs` those behind a handler. -/
def answerAsk (s : State) (k : Nat) (w : Wave) (ls bs : List Nat) (o : BarObj) (phase : Nat) (test : Option PReg) : State :=
  let hit := phaseOf s o != phase
  let on (w : Wave) (ls : List Nat) (f : Fibre → Fibre) : Wave := ls.foldl (fun w l => w.mapFibre l f) w
  let w1 : Wave :=
    match test with
    | some p => bs.foldl answerBehind (on (releaseLanes (setPreds w ls p hit) ls) bs (Fibre.shadowPred p hit))
    | none =>
      if hit then bs.foldl answerBehind (releaseLanes w ls)
      else on (on w ls (Fibre.subscribed phase)) bs (Fibre.subscribedBehind phase)
  let s1 := s.setWave k w1
  if hit then { s1 with mem := acquireBytes s1.mem (coreOf s w) } else s1

/-- No access of a wave to the bytes of an object is still to be performed (09_consistency R184). -/
def objQuiet (s : State) (w : Wave) : BarObj → Bool
  | .spm blk off => blk != w.blk || spmQuiet w off
  | o =>
    match placeOf s o with
    | some t =>
      let x := mkSub 0 t (objAddr o) 16 .clean
      w.ops.all fun o => o.subs.all fun y => y.done || !y.meets x
    | none => true

/-- The wave's updates of an object, its accesses to the object's bytes, its acquires and its messages to the object's block come first
(R214, R245, 09_consistency R184, R185). -/
def askOrdered (s : State) (k : Nat) (o : BarObj) : Bool :=
  let updates := ((s.wave k).map fun w => acquiresDone w && objQuiet s w o && w.ops.all fun e => match e.kind with
    | .bar b _ => !sameObj s b o
    | _ => true).getD true
  let messages := match o with
    | .spm blk _ => s.pending.all fun e => match e with
      | .remoteMessage m => !(m.wave == k && m.blk == blk)
      | _ => true
    | _ => true
  updates && messages

/-- A request finds the allocation that it names (R212, R247). -/
def askReaches (s : State) (gen : Nat) : BarObj → Bool
  | .spm blk off => reaches s { wave := 0, seq := 0, core := 0, blk := blk, gen := gen, off := off, op := .arrive 0 0 }
  | _ => true

/-- The place of an object answers requests now. -/
def askTaken (s : State) : BarObj → Bool
  | .spm blk off => ((s.block blk).map fun b => b.status != .saving && b.status != .migrating &&
      (b.status != .saved || hwFree s b.ctx (saveImg s blk + 512 + off) 16)).getD true
  | o => objFree s o

/-- REMOTE_BARRIER_REQUEST at the owning core or the home slice (R247, R250). `lanes` is the mask of the fibres it names, `addr` what
a report of it holds in taddr. -/
def execRemoteBarrierRequest (wave lanes gen addr : Nat) (obj : BarObj) (phase : Nat) (test : Option PReg) (s : State) :
    Host.Outcome State Fault Refusal :=
  runEvent s (.remoteBarrierRequest wave lanes gen addr obj phase test)
    (s.pending.contains (.remoteBarrierRequest wave lanes gen addr obj phase test) && askOrdered s wave obj && askTaken s obj) fun s =>
      match s.wave wave with
      | none => s
      | some w =>
        let ls := asking w lanes obj phase test
        let bs := askingBehind w lanes obj phase test
        match askPc w ls bs with
        | none => s
        | some pc =>
          if askReaches s gen obj then answerAsk s wave w ls bs obj phase test
          else
            (bumpCount s (ctxOf s w) 0x0C).post
              (.droppedBarrierRequest wave (maskOf (ls ++ bs)).toNat addr pc.packet pc.slot test)

/-! ## Reports -/

/-- BARRIER_OVERRUN_REPORT: the wave is to take trap 0x20 (R249). The manual gives the frame no tmask here; it is 0 (DESIGN CHOICE, log 102). -/
def execBarrierOverrunReport (wave taddr : Nat) (s : State) : Host.Outcome State Fault Refusal :=
  runEvent s (.barrierOverrunReport wave taddr) (s.pending.contains (.barrierOverrunReport wave taddr)) fun s =>
    report s wave { mkTrap 0x20 [] taddr 1 with next := true }

/-- The predicate of a dropped BTEST written: in the wave, or in the shadow state of a fibre that tests behind a handler. -/
def Fibre.droppedPred (p : PReg) (f : Fibre) : Fibre :=
  if f.shadow.isSome && !f.park.any atBtest then f.shadowPred p false else { f with preds := setPred f.preds p false }

/-- DROPPED_BARRIER_REQUEST: a BTEST takes pP := 0, and the wave is to take trap 0x01 at the chain of the fibres that the request
names (R247). -/
def execDroppedBarrierRequest (wave lanes taddr packet slot : Nat) (dst : Option PReg) (s : State) :
    Host.Outcome State Fault Refusal :=
  runEvent s (.droppedBarrierRequest wave lanes taddr packet slot dst)
    (s.pending.contains (.droppedBarrierRequest wave lanes taddr packet slot dst)) fun s =>
      let ls := (List.range 64).filter fun l => bitAt lanes l
      let clear (w : Wave) : Wave :=
        match dst with
        | some p => ls.foldl (fun w l => w.mapFibre l (Fibre.droppedPred p)) w
        | none => w
      report (s.mapWave wave clear) wave (mkTrap 0x01 ls taddr 2).told

end Sys2Proof.Machine
end

