-- ==== Sys2Proof/Machine/Blocks.lean ====
section
/-! DEFINITION. The block store: keys, handles, blocks and the four block-store words (14_plot_units R318 to R323). -/

namespace Sys2Proof.Machine

/-! ## Handles, records and keys -/

/-- The slots of a stack (R319). -/
def bsSlots : Nat := 196608

/-- The entry of `blocks` that a handle names (R319). -/
def handleKey (h : Nat) : Nat := 2 ^ 20 * bits h 18 18 + bits h 17 0

/-- The handle of a block (R319). -/
def handleOf (key : Nat) (b : BsBlock) : Word := BitVec.ofNat 32 (key % 2 ^ 20 + 2 ^ 18 * bsStack key + 2 ^ 19 * b.gen.toNat)

/-- The live block of a context that a handle names, unless the handle is stale (R319). -/
def liveBlock (s : State) (ctx h : Nat) : Option (Nat × BsBlock) :=
  match s.base.blocks.look (handleKey h) with
  | some b => if b.live && b.ctx == ctx && b.gen.toNat == bits h 31 19 && bits h 17 0 < bsSlots then some (handleKey h, b) else none
  | none => none

/-- The block store's blocks replaced. -/
def setBlocks (s : State) (m : Map BsBlock) : State := { s with base := { s.base with blocks := m } }

/-- A block of the store changed. -/
def mapBs (s : State) (key : Nat) (f : BsBlock → BsBlock) : State := setBlocks s (s.base.blocks.modify key f)

/-- A block whose reference count and pin count are zero is freed; its generation goes up (R319, R320). -/
def BsBlock.freed (b : BsBlock) : BsBlock :=
  if b.live && b.count == 0 && b.pins == 0 then { b with live := false, gen := b.gen + 1, data := [] } else b

/-- The home stack of a key (R318). -/
def keyHome (ctx : Nat) (seq layer : Word) : Nat := parity (seq.toNat ^^^ layer.toNat ^^^ ctx)

/-- The entry of a key. -/
def keyEntry (s : State) (ctx : Nat) (seq layer : Word) : Option BsKey :=
  s.base.keys.find? fun k => k.ctx == ctx && k.seq == seq && k.layer == layer

/-- The keys of a context at a stack. -/
def keysAt (s : State) (ctx stack : Nat) : Nat :=
  (s.base.keys.filter fun k => k.ctx == ctx && keyHome ctx k.seq k.layer == stack).length

/-- The keys of a context at some stacks, with a new one of context `ctx` at `stack`. -/
def keysWith (s : State) (ctx stack : Nat) (ts : List Nat) (c : Nat) : Nat :=
  (ts.map fun t => keysAt s c t + (if c = ctx ∧ t = stack then 1 else 0)).sum

/-- A new key finds no place: the keys beyond the 32,768 active entries of some stacks are more than the backing tables of their contexts, one
table of 2^k entries for both stacks each, can take of them (R318, R321, 17_translation R387, log 27). -/
def keysFull (s : State) (ctx stack : Nat) : Bool :=
  [[0], [1], [0, 1]].any fun ts =>
    let beyond := (ts.map fun t => (s.ctxs.map fun c => keysWith s ctx stack [t] c.1).sum - 32768).sum
    decide ((s.ctxs.map fun c => min (2 ^ c.2.cfg.bkK) (keysWith s ctx stack ts c.1)).sum < beyond)

/-- A key entered, or a key removed. -/
def setKeys (s : State) (ks : List BsKey) : State := { s with base := { s.base with keys := ks } }

/-! ## Room for a block -/

/-- The blocks of a context that stand in a stack's pool. -/
def residentBlocks (s : State) (ctx stack : Nat) : List (Nat × BsBlock) :=
  s.base.blocks.filter fun p => bsStack p.1 == stack && p.2.ctx == ctx && p.2.live && !p.2.spilled

/-- A stack has room for one block more of a context: its quota and the surface pool (R323). -/
def blockRoom (s : State) (ctx stack : Nat) : Bool :=
  decide ((residentBlocks s ctx stack).length < ((s.ctxs.look ctx).map fun c => c.cfg.bkQuota).getD 0) && poolRoom s stack 16384

/-- The least recently used block of a context and stack that nothing pins; none is evicted without a spill area (R323, 17_translation
R387). -/
def victimBlock (s : State) (ctx stack : Nat) : Option (Nat × BsBlock) :=
  if ((s.ctxs.look ctx).map fun c => c.cfg.bkSpill).getD 0 = 0 then none
  else least (fun p => p.2.used) ((residentBlocks s ctx stack).filter fun p => p.2.pins == 0)

/-- A slot of a stack without a live block, from one on. -/
def freeSlot (s : State) (stack : Nat) : Nat → Nat → Option Nat
  | 0, _ => none
  | n + 1, i =>
    let key := 2 ^ 20 * stack + i % bsSlots
    if ((s.base.blocks.look key).map BsBlock.live).getD false then freeSlot s stack n (i + 1) else some key

/-- A block for a context on a stack, reading as zero, with count 1; which free slot it takes is free (R320). -/
def newBlock (s : State) (ctx stack : Nat) : Option (Nat × BsBlock) :=
  (freeSlot s stack bsSlots (Config.choose s.tick)).map fun key =>
    (key,
      { ctx := ctx, count := 1, gen := ((s.base.blocks.look key).map BsBlock.gen).getD 0, pins := 0, live := true, spilled := false,
        poisoned := [], used := s.tick, data := [] })

/-! ## The words -/

/-- The accesses of a block-store word: one for each fibre, to no location of memory. -/
def bsSub (x : LaneIn) (d n : Nat) : Sub :=
  mkSub x.lane { space := .remote, pa := 0, key := none, dup := none, page := 0 } 0 4 (.load false) |>
    fun y => { y with dst := x.fibre.base + d, dstN := n }

/-- A block-store word: its operation and one request for each fibre (R320, R322). A queue port named here raises R320's 0x04 and not R36's 0x05,
which the manual leaves open (DESIGN CHOICE, log 77). -/
def bsWord (s : State) (kind : Nat) (cls : Option OpCls) (okind : OpKind) (a : VReg) (h : Option VReg) (d : Option VReg) (q : Bool) :
    Host.Outcome State Fault Refusal :=
  let hs := match h with
    | some v => [v.toNat]
    | none => []
  let dst := match d with
    | some v => (v.toNat, 1)
    | none => (0, 0)
  readWord s (fun r => if 124 < a.toNat + 2 || (hs ++ (if dst.2 = 1 then [dst.1] else [])).any (fun v => decide (124 ≤ v)) then
        some (mkTrap 0x04 (batch r) 0 0) else portCheck r (a.toNat :: (a.toNat + 1) :: hs) (if dst.2 = 1 then [dst.1] else []))
    (a.toNat :: (a.toNat + 1) :: hs) fun k r w ins =>
      if (match cls with
          | some c => classFull r c
          | none => false) then .hold
      else
        let subs := ins.map fun x => bsSub x dst.1 dst.2
        let w1 := addOp w s.tick cls okind none none subs (subDests subs)
        .ok ((s.setWave k w1).posts (ins.map fun x => Ev.blockStoreRequest
          { kind := kind, wave := k, lane := x.lane, op := w.nextOp, seq := x.arg 0, layer := x.arg 1, handle := x.arg 2, quiet := q }))

/-- BKA (R320, R322). -/
def execBka (d a : VReg) (s : State) : Host.Outcome State Fault Refusal := bsWord s 1 (some .ld) .load a none (some d) false

/-- BKT (R320, R322). -/
def execBkt (d a : VReg) (q : Bool) (s : State) : Host.Outcome State Fault Refusal := bsWord s 2 (some .ld) .load a none (some d) q

/-- BKS reads its handle register without writing it (R320, R322). -/
def execBks (d a : VReg) (s : State) : Host.Outcome State Fault Refusal := bsWord s 3 none .store a (some d) none false

/-- BKF (R320, R322). -/
def execBkf (a : VReg) (s : State) : Host.Outcome State Fault Refusal := bsWord s 4 none .store a none none false

/-! ## A request at its key's home -/

/-- What a request does at its home: the state with its handle, or the reason why it fails (R320, R321). A BKA that finds every slot of its
stack in use fails with reason 3, which the manual leaves open (DESIGN CHOICE, log 104). -/
def bsStep (s : State) (ctx stack : Nat) (r : BsReq) : Except Nat (State × Word) :=
  match r.kind, keyEntry s ctx r.seq r.layer with
  | 1, some _ => .error 2
  | 1, none =>
    if keysFull s ctx (keyHome ctx r.seq r.layer) then .error 3
    else
      match newBlock s ctx stack with
      | some (key, b) =>
        let h := handleOf key b
        .ok (setKeys (setBlocks s (s.base.blocks.put key b))
          ({ ctx := ctx, seq := r.seq, layer := r.layer, handle := h } :: s.base.keys), h)
      | none => .error 3
  | 2, some e => .ok (mapBs s (handleKey e.handle.toNat) fun b => { b with used := s.tick }, e.handle)
  | 2, none => if r.quiet then .ok (s, 0xFFFFFFFF) else .error 0
  | 3, e =>
    match liveBlock s ctx r.handle.toNat, e with
    | none, _ => .error 1
    | some _, some _ => .error 2
    | some (key, _), none =>
      if keysFull s ctx (keyHome ctx r.seq r.layer) then .error 3
      else
        .ok (setKeys (mapBs s key fun b => { b with count := b.count + 1 })
          ({ ctx := ctx, seq := r.seq, layer := r.layer, handle := r.handle } :: s.base.keys), 0)
  | _, none => .error 0
  | _, some e =>
    .ok (setKeys (mapBs s (handleKey e.handle.toNat) fun b => { b with count := b.count - 1 }.freed)
      (s.base.keys.filter fun k => !(k.ctx == ctx && k.seq == r.seq && k.layer == r.layer)), 0)

/-- The wave and the operation of a request. -/
def bsOp (s : State) (r : BsReq) : Option (Wave × MemOp) := (s.wave r.wave).bind fun w => (opOf w r.op).map fun o => (w, o)

/-- The index of a lane slot's access in its operation. -/
def subOf (o : MemOp) (lane : Nat) : Nat := o.subs.findIdx fun x => x.lane == lane

/-- A BKA waits for room on its core's stack (R323). -/
def bsRoom (s : State) (w : Wave) (r : BsReq) : Bool :=
  r.kind != 1 || (keyEntry s (ctxOf s w) r.seq r.layer).isSome || blockRoom s (ctxOf s w) (stackOf (coreOf s w))

/-- The lane slots of an operation whose requests failed for a reason, kept in `extra` as the reason plus 1. -/
def failedLanes (o : MemOp) (reason : Nat) : List Nat :=
  (o.subs.filter fun x => x.extra.toNat == reason + 1).map Sub.lane

/-- The failures of an operation whose requests have all been performed (R321). -/
def bsReports (k : Nat) (o : MemOp) : List Ev :=
  if o.subs.all Sub.done then
    ((List.range 4).filter fun x => !(failedLanes o x).isEmpty).map fun x => .blockStoreFailure k (maskOf (failedLanes o x)).toNat x
  else []

/-- A request performed for its fibre: its handle, or a failure that leaves its register unchanged (R320, R321). -/
def bsAnswer (s : State) (w : Wave) (o : MemOp) (r : BsReq) : State :=
  let j := subOf o r.lane
  let s1 := match bsStep s (ctxOf s w) (stackOf (coreOf s w)) r with
    | .ok (t, v) => doneSub t r.wave r.op j v.toNat
    | .error reason =>
      (mapSub s r.wave r.op j fun x => { x with done := true, dstN := 0, extra := BitVec.ofNat 64 (reason + 1) }).mapWave r.wave fun w =>
        w.mapOp r.op fun o => { o with dests := o.dests.filter fun d => d.1 != r.lane }
  match bsOp s1 r with
  | some (_, o1) =>
    let s2 := s1.posts (bsReports r.wave o1)
    if o1.subs.all Sub.done && o1.cls.isNone then reapWave (s2.mapWave r.wave fun w => w.dropOp r.op) r.wave else s2
  | none => s1

/-- BLOCK_STORE_FAILURE: trap 0x1C at the wave's next packet boundary (R321). -/
def execBlockStoreFailure (wave lanes reason : Nat) (s : State) : Host.Outcome State Fault Refusal :=
  runEvent s (.blockStoreFailure wave lanes reason) (s.pending.contains (.blockStoreFailure wave lanes reason)) fun s =>
    report s wave { cause := 0x1C, tmask := BitVec.ofNat 64 lanes, taddr := 0, tinfo := BitVec.ofNat 32 reason, next := true, pops := [], addrTold := false, infoTold := BitVec.allOnes 32 }

/-- A BKA of a context waits on a stack (R323). -/
def bkaWaits (s : State) (ctx stack : Nat) : Bool :=
  s.pending.any fun e => match e with
    | .blockStoreRequest r =>
      (match s.wave r.wave with
        | some w => ctxOf s w == ctx && stackOf (coreOf s w) == stack && !bsRoom s w r
        | none => false)
    | _ => false

/-- A copy of a context waits to fetch a spilled block back to a stack (R323). -/
def fetchWaits (s : State) (ctx stack : Nat) : Bool :=
  s.work.copies.any fun p => p.2.form == 6 &&
    (match liveBlock s ctx (nth p.2.desc 0).toNat with
      | some (key, b) => b.spilled && bsStack key == stack
      | none => false)

/-- BLOCK_EVICTION: the least recently used block of a context and stack goes to the spill area, for a BKA or a fetch that finds no
room (R323). -/
def execBlockEviction (ctx stack : Nat) (s : State) : Host.Outcome State Fault Refusal :=
  runEvent s (.blockEviction ctx stack)
    (!blockRoom s ctx stack && (bkaWaits s ctx stack || fetchWaits s ctx stack) && (victimBlock s ctx stack).isSome) fun s =>
      match victimBlock s ctx stack with
      | some (key, _) => mapBs s key fun b => { b with spilled := true }
      | none => s

/-- A block pinned by a copy or a plot access, or let go (R319). -/
def pinBlock (s : State) (key : Nat) : State := mapBs s key fun b => { b with pins := b.pins + 1, used := s.tick }

/-- A pin of a block gone; a block with no reference left is then freed (R319, R320). -/
def unpinBlock (s : State) (key : Nat) : State := mapBs s key fun b => { b with pins := b.pins - 1 }.freed

end Sys2Proof.Machine
end

