-- ==== Sys2Proof/Machine/Cbuf.lean ====
section
/-! DEFINITION. The circular-buffer words (11_async_copies R253 to R256). -/

namespace Sys2Proof.Machine

/-- The circular buffers of a block, from its launch record (16_scheduling R358). -/
def cbufCount (s : State) (blk : Nat) : Nat := bits (recWord s blk 8) 22 18

/-- A circular buffer of a block. -/
def cbufOf (s : State) (blk i : Nat) : Cbuf :=
  match s.block blk with
  | some b => b.cbufs.getD i Cbuf.empty
  | none => Cbuf.empty

/-- A slot of a buffer. -/
def Cbuf.slot (q : Cbuf) (j : Nat) : CbSlot := q.slots.getD j freshSlot

/-- A buffer with a slot replaced. -/
def Cbuf.setSlot (q : Cbuf) (j : Nat) (x : CbSlot) : Cbuf := { q with slots := q.slots.set j x }

/-- A word that names a buffer at or above its block's count, or an unconfigured one, gives 0x01 (R253, R254). -/
def withCbuf (s : State) (r : Wave) (n : BitVec 4) (f : Cbuf → Res) : Res :=
  if cbufCount s r.blk ≤ n.toNat then illegalHere r
  else if (cbufOf s r.blk n.toNat).count = 0 then illegalHere r
  else f (cbufOf s r.blk n.toNat)

/-- The block of a wave with a buffer replaced, and the wave. -/
def putCbuf (s : State) (k : Nat) (w : Wave) (n : BitVec 4) (q : Cbuf) : State := mapCbuf (s.setWave k w) w.blk n.toNat fun _ => q

/-- A buffer may be configured: no slot is claimed or released or named, and no copy into it is outstanding (R255). -/
def Cbuf.quiet (q : Cbuf) : Bool := q.copies == 0 && q.slots.all fun x => x.st != .claimed && x.st != .released && x.refs.isEmpty

/-- CBCFG (R254, R255). -/
def execCbcfg (a : SReg) (n : BitVec 4) (s : State) : Host.Outcome State Fault Refusal :=
  runWord s fun k r w =>
    let x := (sreg r a.toNat).toNat
    let y := (sreg r (a.toNat + 1)).toNat
    let size := bits y 15 0
    let count := bits y 20 16
    if cbufCount s r.blk ≤ n.toNat || bits x 31 19 != 0 || bits y 31 21 != 0 || size % 32 != 0 || decide (size < 32) ||
        decide (65504 < size) || decide (count < 1) || decide (16 < count) || !(cbufOf s r.blk n.toNat).quiet then illegalHere r
    else if x % 32 != 0 then .trap (trapAll r 0x08 x 0)
    else if spmSize s r < x + size * count then .trap (trapAll r 0x18 x (size * count))
    else
      .ok (putCbuf s k w n
        { base := x, size := size, count := count, p := 0, c := 0, slots := List.replicate count freshSlot, copies := 0 })

/-- CBCOM: a release; it waits until slot p is free (R254, R256, R257). -/
def execCbcom (n : BitVec 4) (s : State) : Host.Outcome State Fault Refusal :=
  runWord s fun k r w =>
    withCbuf s r n fun q =>
      if (q.slot q.p).st != .free || slotWaiting s r.blk n.toNat q.p != 0 || !releaseReady s r then .hold
      else
        let s1 := putCbuf s k w n { q.setSlot q.p (commitFill (q.slot q.p)) with p := (q.p + 1) % q.count }
        .ok { s1 with mem := releaseBytes s1.mem (coreOf s r) }

/-- CBREL: a release (R254, R256). -/
def execCbrel (n : BitVec 4) (s : State) : Host.Outcome State Fault Refusal :=
  runWord s fun k r w =>
    withCbuf s r n fun q =>
      if !releaseReady s r then .hold
      else
        let x := releaseSlot (slotWaiting s r.blk n.toNat q.c) (q.slot q.c)
        let s1 := putCbuf s k w n { q.setSlot q.c x with c := (q.c + 1) % q.count }
        .ok { s1 with mem := releaseBytes s1.mem (coreOf s r) }

/-- The word that CBQRY reads (R254). -/
def Cbuf.word (q : Cbuf) : Nat :=
  (q.slots.filter fun x => x.st == .free).length + 2 ^ 5 * (q.slots.filter fun x => x.st == .committed).length + 2 ^ 10 * q.p + 2 ^ 14 * q.c

/-- CBQRY: an unconfigured buffer, one with count 0, reads 0 (R253, R254). -/
def execCbqry (d : SReg) (n : BitVec 4) (s : State) : Host.Outcome State Fault Refusal :=
  runWord s fun k r w =>
    if cbufCount s r.blk ≤ n.toNat then illegalHere r
    else .ok (s.setWave k (setSreg w d.toNat (BitVec.ofNat 32 (let q := cbufOf s r.blk n.toNat; if q.count = 0 then 0 else q.word))))

end Sys2Proof.Machine
end

