-- ==== Sys2Proof/Machine/Copy.lean ====
section
/-! DEFINITION. The copy words, the start of a copy and the landing of its sectors (11_async_copies R228 to R243). -/

namespace Sys2Proof.Machine

/-! ## Descriptors -/

/-- The eight words of a copy's descriptor (R233). -/
def descWords (r : Wave) (a : SReg) : List Word := (List.range 8).map fun i => sreg r (a.toNat + i)

/-- A failed check of a copy word: whether it failed, its code, the address and the detail. -/
abbrev Chk := Bool × Nat × Nat × Nat

/-- A limit of the descriptor that is broken: trap 0x01. -/
def limit (b : Bool) : Chk := (b, 0x01, 0, 0)

/-- The trap with the lowest code among the checks that fail (02_encoding R43). -/
def chkTrap (r : Wave) (xs : List Chk) : Option Trap :=
  (least (fun p : Chk => p.2.1) (xs.filter fun p => p.1)).map fun p => mkTrap p.2.1 (batch r) p.2.2.1 p.2.2.2

/-- What a form asks for: how many bytes it writes, where its sectors go, and what must be checked. `slotSpan` is the end of its span
after a scratchpad destination offset, `spans` the scratchpad runs that it reads (false) or writes (true). -/
structure Plan where
  form : Nat
  bytes : Nat
  cbOk : Bool
  dest : Option (Nat × Nat)
  low : List Chk
  high : List Chk
  pages : List (Nat × Access)
  spans : List (Nat × Nat × Bool)
  desc : List Word
  idxs : List (Nat × Word)
  deriving Repr

/-- A scratchpad run lies inside the allocation (R230). -/
def runCheck (s : State) (r : Wave) (off n : Nat) : Chk := (decide (spmSize s r < off + n), 0x18, off, n)

/-- An address that must be a multiple of 32 (R229). -/
def align32 (a : Nat) : Chk := (a % 32 != 0, 0x08, a, 0)

/-- The pages of a run, for an access. -/
def runPages (va n : Nat) (a : Access) : List (Nat × Access) := (pageHeads va n).map fun v => (v, a)

/-- A destination of a number of bytes in whole sectors (R229). -/
def sectorCheck (bytes : Nat) : Chk := limit (bytes % 32 != 0 || decide (bytes < 32) || decide (2 ^ 27 < bytes))

/-- Word `i` of a descriptor as a number. -/
def dw (d : List Word) (i : Nat) : Nat := (nth d i).toNat

/-- The 64-bit address in words `i` and `i + 1`. -/
def dva (d : List Word) (i : Nat) : Nat := dw d i + 2 ^ 32 * dw d (i + 1)

/-- The scratchpad destination of a plan, taken within the slot of a buffer where CB is set (R234). -/
def cbSet (d : List Word) : Bool := bitAt (dw d 7) 4

/-- CPY (R235, R236). -/
def planCpy (s : State) (r : Wave) (d : List Word) : Plan :=
  let dir := dw d 5 % 4
  let n := dw d 4
  let src := if dir = 1 then dw d 0 else dva d 0
  let dst := if dir = 0 then dw d 2 else dva d 2
  { form := 0, bytes := n, cbOk := dir == 0, dest := if dir = 0 then some (dst, n) else none
    low := [limit (bits (dw d 5) 31 3 != 0 || dir == 3), limit (dir == 1 && dw d 1 != 0), limit (dir == 0 && dw d 3 != 0), align32 dst]
    high := if dir = 1 then [runCheck s r src n] else []
    pages := (if dir = 1 then [] else runPages src n Access.load) ++ (if dir = 0 then [] else runPages dst n Access.store)
    spans := (if dir = 1 then [(src, n, false)] else []) ++ (if dir = 0 then [(dst, n, true)] else [])
    desc := d, idxs := [] }

/-! ## Tensor tiles -/

/-- Mirror (R239). -/
def mirror (i : Int) (n : Nat) : Nat :=
  if n = 1 then 0
  else
    let m := (i % (2 * n - 2 : Int)).toNat
    if n ≤ m then 2 * n - 2 - m else m

/-- MirrorRep (R239). -/
def mirrorRep (i : Int) (n : Nat) : Nat :=
  let m := (i % (2 * n : Int)).toNat
  if n ≤ m then 2 * n - 1 - m else m

/-- Edge: the source coordinate, or none where the element is written as zero (R239). -/
def edge (mode : Nat) (i : Int) (n : Nat) : Option Nat :=
  match mode with
  | 0 => some (mirror i n)
  | 1 => some (mirrorRep i n)
  | _ => if 0 ≤ i ∧ i < n then some i.toNat else none

/-- The element size of a layout record, whose words follow the descriptor (R238). -/
def esize (d : List Word) : Nat := 2 ^ (dw d 13 % 4)

/-- The tile's width and height (R235). -/
def tileW (d : List Word) : Nat := dw d 5 % 2 ^ 16

/-- The tile's height. -/
def tileH (d : List Word) : Nat := dw d 5 / 2 ^ 16

/-- The source column of tile column `x`, if it has one (R239). -/
def srcCol (d : List Word) (x : Nat) : Option Nat := edge (bits (dw d 13) 3 2) (signed 16 (dw d 4) + x) (dw d 10)

/-- The source row of tile row `y`, if it has one (R239). -/
def srcRow (d : List Word) (y : Nat) : Option Nat := edge (bits (dw d 13) 3 2) (signed 16 (dw d 4 / 2 ^ 16) + y) (dw d 11)

/-- The virtual address of byte `b` of the element at a source column and row (R238). -/
def elemVa (d : List Word) (col row b : Nat) : Nat := dva d 8 + row * dw d 12 + col * esize d + b

/-- The pages of the elements that a tile reads: each source row from its first to its last column. -/
def tilePages (d : List Word) : List (Nat × Access) :=
  let cols := (List.range (tileW d)).filterMap (srcCol d)
  let rows := ((List.range (tileH d)).filterMap (srcRow d)).eraseDups
  match least id cols with
  | none => []
  | some lo =>
    let hi := cols.foldl max 0
    rows.flatMap fun y => runPages (elemVa d lo y 0) ((hi + 1 - lo) * esize d) Access.load

/-- The rows of a span, by number, start on whole sectors (R229). -/
def rowChecks (off pitch : Nat) (rows : List Nat) : List Chk := rows.map fun y => align32 (off + y * pitch)

/-- The checks of a tile's size and of the starts of its rows: all start on whole sectors when the first two do (R229, R235). -/
def tileChecks (d : List Word) : List Chk :=
  limit (tileW d == 0 || decide (4096 < tileW d) || tileH d == 0 || decide (4096 < tileH d)) ::
    rowChecks (dw d 2) (dw d 3) (List.range (min 2 (tileH d)))

/-- The limits of a layout record (R238). -/
def recordLimits (d : List Word) : List Chk :=
  [limit (dw d 13 % 4 == 3 || bits (dw d 13) 3 2 == 3 || bits (dw d 13) 31 4 != 0 || dw d 14 != 0 || dw d 15 != 0),
   limit (dw d 10 == 0 || decide (2 ^ 24 ≤ dw d 10) || dw d 11 == 0 || decide (2 ^ 24 ≤ dw d 11)),
   limit (dva d 8 % esize d != 0 || dw d 12 % esize d != 0)]

/-- CPYT, with the words of its layout record after its descriptor (R235, R238, R239). The second row starts on a whole sector, and so do the
later ones. -/
def planCpyt (d : List Word) : Plan :=
  let row := tileW d * esize d
  let n := row * tileH d
  let span := dw d 3 * (tileH d - 1) + row
  { form := 1, bytes := n, cbOk := true, dest := some (dw d 2, span)
    low := tileChecks d ++ recordLimits d
    high := []
    pages := tilePages d
    spans := [(dw d 2, span, true)], desc := d, idxs := [] }

/-! ## The other forms -/

/-- CPYG (R235, R236). -/
def planCpyg (d : List Word) (idxs : List (Nat × Word)) : Plan :=
  let row := dw d 4
  let lanes := idxs.map Prod.fst
  let lo := lanes.headD 0
  let hi := lanes.foldl max 0
  let span := dw d 3 * (hi - lo) + row
  { form := 2, bytes := row * idxs.length, cbOk := true, dest := some (dw d 2 + lo * dw d 3, span)
    low := limit (row % 32 != 0 || decide (row < 32) || decide (4096 < row)) :: rowChecks (dw d 2) (dw d 3) lanes
    high := []
    pages := idxs.flatMap fun p => if p.2.toNat < dw d 5 then runPages (dva d 0 + p.2.toNat * row) row Access.load else []
    spans := [(dw d 2 + lo * dw d 3, span, true)], desc := d, idxs := idxs }

/-- CPYP (R235, R240). Its pages ask a peer's entry for bit [2] (18_host_peers R413, log 84). -/
def planCpyp (s : State) (r : Wave) (d : List Word) : Plan :=
  { form := 3, bytes := dw d 4, cbOk := false, dest := none
    low := [align32 (dva d 2), limit (dw d 5 % 4 != 0)]
    high := [runCheck s r (dw d 5) 4]
    pages := runPages (dva d 0) (dw d 4) { Access.load with atomic := true } ++ runPages (dva d 2) (dw d 4) { Access.store with atomic := true }
    spans := [], desc := d, idxs := [] }

/-- CPYM (R235, R237). -/
def planCpym (s : State) (r : Wave) (d : List Word) : Plan :=
  let mem := bitAt (dw d 5) 2
  let n := dw d 4
  { form := 4, bytes := n, cbOk := false, dest := none
    low := [limit (bits (dw d 5) 31 3 != 0 || dw d 3 != 0 || (!mem && dw d 1 != 0)),
      limit (groupMembers s r.blk (dw d 5 % 4)).isNone, align32 (dw d 2)]
    high := [runCheck s r (dw d 2) n] ++ (if mem then [] else [runCheck s r (dw d 0) n])
    pages := if mem then runPages (dva d 0) n Access.load else []
    spans := if mem then [] else [(dw d 0, n, false)], desc := d, idxs := [] }

/-- The memory side of CPYS or CPYB: a virtual address or an offset (R235). -/
def memSide (mem toward : Bool) (va off n : Nat) : List (Nat × Access) × List (Nat × Nat × Bool) :=
  if mem then (runPages va n (if toward then Access.load else Access.store), []) else ([], [(off, n, !toward)])

/-- CPYS (R235, R236). -/
def planCpys (s : State) (r : Wave) (d : List Word) : Plan :=
  let e := steOf s (ctxOf s r) (dw d 0 % 2 ^ 12)
  let toward := bitAt (dw d 3) 0
  let mem := bitAt (dw d 3) 1
  let w := dw d 2 % 2 ^ 16
  let h := dw d 2 / 2 ^ 16
  let n := w * h * 16 * e.p
  let m := memSide mem toward (dva d 4) (dw d 4) n
  { form := 5, bytes := n, cbOk := !toward && !mem, dest := if mem || toward then none else some (dw d 4, n)
    low := [limit (bits (dw d 0) 31 12 != 0 || bits (dw d 3) 31 2 != 0 || (!mem && dw d 5 != 0)),
      (!toward && (if mem then dva d 4 else dw d 4) % 32 != 0, 0x08, if mem then dva d 4 else dw d 4, 0)]
    high := [(e.valid && (decide ((e.width + 3) / 4 < dw d 1 % 2 ^ 16 + w) || decide ((e.height + 3) / 4 < dw d 1 / 2 ^ 16 + h)), 0x1A, 0, 0),
      (!e.valid, 0x1B, 0, 0)] ++ (if !mem && toward then [runCheck s r (dw d 4) n] else [])
    pages := if e.valid then m.1 else []
    spans := m.2, desc := d, idxs := [] }

/-- CPYB (R235, R236, 14_plot_units R321). -/
def planCpyb (s : State) (r : Wave) (d : List Word) : Plan :=
  let toward := bitAt (dw d 4) 0
  let mem := bitAt (dw d 4) 1
  let b := liveBlock s (ctxOf s r) (dw d 0)
  let m := memSide mem toward (dva d 2) (dw d 2) 16384
  { form := 6, bytes := 16384, cbOk := !toward && !mem, dest := if mem || toward then none else some (dw d 2, 16384)
    low := [limit (dw d 1 != 0 || bits (dw d 4) 31 2 != 0 || dw d 5 != 0 || (!mem && dw d 3 != 0)),
      (!toward && (if mem then dva d 2 else dw d 2) % 32 != 0, 0x08, if mem then dva d 2 else dw d 2, 0)]
    high := [(b.isNone, 0x1C, 0, 1), (toward && (b.map fun p => decide (1 < p.2.count)).getD false, 0x1C, 0, 4)] ++
      (if !mem && toward then [runCheck s r (dw d 2) 16384] else [])
    pages := m.1
    spans := m.2, desc := d, idxs := [] }

/-! ## Issue -/

/-- The checks of the two common descriptor words; `cbOk`: the form can have a buffer destination (R234). -/
def commonChecks (s : State) (r : Wave) (d : List Word) (x cbOk : Bool) : List Chk :=
  let cb := cbSet d
  let i := dw d 7 % 16
  let nb := bitAt (dw d 6) 31
  let o := bits (dw d 6) 18 0
  [limit (bits (dw d 6) 30 19 != 0 || bits (dw d 7) 31 5 != 0 || (x && nb) || (cb && !cbOk) || (!cb && i != 0)),
   limit (cb && (decide (cbufCount s r.blk ≤ i) || (cbufOf s r.blk i).count == 0)),
   (!nb && o % 16 != 0, 0x08, o, 0), (!nb && decide (spmSize s r < o + 16), 0x18, o, 16)]

/-- A destination span that does not fit inside one slot of its buffer (R234). -/
def slotCheck (s : State) (r : Wave) (d : List Word) (p : Plan) : Chk :=
  limit (cbSet d && match p.dest with
    | some (off, n) => decide ((cbufOf s r.blk (dw d 7 % 16)).size < off + n)
    | none => true)

/-- The bound of a scratchpad destination that is not a slot (R230). -/
def destCheck (s : State) (r : Wave) (d : List Word) (p : Plan) : List Chk :=
  match p.dest, cbSet d with
  | some (off, n), false => [runCheck s r off n]
  | _, _ => []

/-- A place in a peer's memory. -/
def isFarPeer : Space → Bool
  | .far d => d != 256
  | _ => false

/-- The pages of a copy that map a peer's memory. -/
def isPeer (q : PageAt) : Bool := isFarPeer q.space

/-- The places of a copy's pages: peers only by CPYP, which needs exactly one side there (R235, R236, log 28). -/
def peerChecks (p : Plan) (pages : Map PageAt) : List Chk :=
  let side (va : Nat) : Bool := ((pageHeads va p.bytes).map fun v => ((pages.look (v / 4096)).map isPeer).getD false).all id
  let any (va : Nat) : Bool := ((pageHeads va p.bytes).map fun v => ((pages.look (v / 4096)).map isPeer).getD false).any id
  if p.form = 3 then
    let a := dva p.desc 0
    let b := dva p.desc 2
    [limit !((side a && !any b) || (side b && !any a))]
  else
    match pages.find? fun q => isPeer q.2 with
    | some (v, _) => [(true, 0x15, 4096 * v, 0)]
    | none => []

/-- The dirty S bytes of the core in the pages of a copy can be written through (R232). -/
def sourceFree (s : State) (core : Nat) (pages : Map PageAt) : Bool :=
  (dirtyLines s.mem core).all fun l => lineFree s.mem l.line || !pages.any fun q => q.2.space == .dev .s && q.2.pa / 64 ≤ l.line && l.line < q.2.pa / 64 + 64

/-- The virtual runs that a copy reads from memory. -/
def readRuns (p : Plan) : List Nat := (p.pages.filter fun q => q.2.r).map Prod.fst

/-- Every dirty S byte of the core in the source pages of a copy written through (R232). -/
def flushSource (s : State) (core : Nat) (reads : List Nat) (pages : Map PageAt) : State :=
  let src := reads.filterMap fun va => (pages.look (va / 4096)).filter fun q => q.space == .dev .s
  { s with mem := (dirtyLines s.mem core).foldl (fun m l =>
      if src.any fun q => q.pa / 64 ≤ l.line && l.line < q.pa / 64 + 64 then writeThrough m l else m) s.mem }

/-- The members of a CPYM's group with their placed blocks, generations and cores (R236, R237). -/
def cpymTargets (s : State) (r : Wave) (d : List Word) : List (Nat × Nat × Nat) :=
  ((groupMembers s r.blk (dw d 5 % 4)).getD []).map fun m =>
    let q := locate s r.blk m
    (q.1, q.2, msgCore s q.1)

/-- The range-scoreboard spans of a copy (R242). -/
def boardSpans (r : Wave) (p : Plan) (base : Nat) (targets : List (Nat × Nat × Nat)) : List (Nat × Nat × Nat × Bool) :=
  (p.spans.map fun q => (r.blk, (if q.2.2 then base else 0) + q.1, (if q.2.2 then base else 0) + q.1 + q.2.1 - 1, q.2.2)) ++
    ((targets.filter fun t => t.1 != noBlock).map fun t => (t.1, dw p.desc 2, dw p.desc 2 + p.bytes - 1, true))

/-- The copy of a word whose checks have passed. -/
def newCopy (s : State) (k : Nat) (r w : Wave) (x : Bool) (p : Plan) (pages : Map PageAt) : Copy :=
  let d := p.desc
  let i := dw d 7 % 16
  let q := cbufOf s r.blk i
  let targets := if p.form = 4 then cpymTargets s r d else []
  let total := p.bytes / 32 * (if p.form = 4 then targets.length else 1)
  { core := coreOf s r, blk := r.blk, wave := k, op := w.nextOp, form := p.form, x := x, desc := d, idxs := p.idxs, total := total,
    left := List.range total, started := false
    bar := if bitAt (dw d 6) 31 then none else some (.spm r.blk (bits (dw d 6) 18 0))
    cb := if cbSet d then some (i, q.p) else none
    coll := if p.form = 0 && bitAt (dw d 5) 2 then some w.collNext else none
    spans := boardSpans r p (if cbSet d then q.base + q.p * q.size else 0) targets
    pages := pages, reads := readRuns p, targets := targets, since := s.tick }

/-- The pin that a CPYB holds on its block (14_plot_units R319). -/
def pinCopy (s : State) (r : Wave) (p : Plan) : State :=
  if p.form = 6 then
    match liveBlock s (ctxOf s r) (dw p.desc 0) with
    | some (key, _) => pinBlock s key
    | none => s
  else s

/-- A copy takes its place: the slot claimed for it, its expectation added, its source written through (R228, R232, R233, R257). -/
def enterCopy (s : State) (k : Nat) (r w : Wave) (x : Bool) (p : Plan) (pages : Map PageAt) : State :=
  let c := newCopy s k r w x p pages
  let w1 := addOp { w with collNext := w.collNext + (if c.coll.isSome then 1 else 0) } s.tick (some .cp)
    (if p.form = 4 then .cpym else .copy) none none [] []
  let s1 := flushSource (pinCopy (s.setWave k w1) r p) (coreOf s r) c.reads pages
  let s2 := match c.cb with
    | some (i, _) => mapCbuf s1 r.blk i fun q => { q with p := (q.p + 1) % q.count, copies := q.copies + 1 }
    | none => s1
  let s3 := match x, c.bar, p.form == 4 with
    | true, some o, false => (updateObj s2 o (.expect c.total)).1
    | _, _, _ => s2
  { s3 with work := { s3.work with copies := s3.work.copies.put s3.work.nextCopy c, nextCopy := s3.work.nextCopy + 1 } }

/-- Every place of a core's traverse unit is taken (R231). -/
def placesTaken (s : State) (core : Nat) : Bool := decide (64 ≤ (s.work.copies.filter fun p => p.2.core == core).length)

/-- A copy word with its plan: it waits for a place, takes its trap, waits for the page service, or issues (R228 to R234). -/
def issueCopy (s : State) (k : Nat) (r w : Wave) (x : Bool) (p : Plan) : Res :=
  let common := commonChecks s r p.desc x p.cbOk ++ slotCheck s r p.desc p :: sectorCheck p.bytes :: p.low ++ p.high ++ destCheck s r p.desc p
  if placesTaken s (coreOf s r) || classFull r .cp then .hold
  else
    match chkTrap r (common.filter fun c => decide (c.2.1 < 0x10)) with
    | some t => .trap t
    | none =>
      withPages s r p.pages fun pages =>
        match chkTrap r (common ++ peerChecks p pages) with
        | some t => .trap t
        | none =>
          if !sourceFree s (coreOf s r) pages then .hold
          else .ok ((enterCopy s k r w x p pages).posts (pageWalks s r (p.pages.map Prod.fst)))

/-- A copy word that reads no vector register. -/
def copyWord (s : State) (x : Bool) (plan : Wave → Plan) : Host.Outcome State Fault Refusal :=
  runWord s fun k r w => issueCopy s k r w x (plan r)

/-- CPY (R233 to R236, R241). -/
def execCpy (a : SReg) (x : Bool) (s : State) : Host.Outcome State Fault Refusal :=
  copyWord s x fun r => planCpy s r (descWords r a)

/-- The layout record of a CPYT, or its failure (R238). It may lie in host memory, as the bytes that CPYT moves may, and not in a peer's
(R235; DEDUCED, log 71). -/
def layoutRecord (s : State) (r : Wave) (va : Nat) : Except LaneFail (List Word) :=
  if va % 32 != 0 then .error { lane := 0, cause := 0x08, addr := va, info := 0 }
  else
    match translate s (coreOf s r) (ctxOf s r) r.level Access.load va with
    | .error e => .error { lane := 0, cause := e.cause, addr := va, info := e.tinfo }
    | .ok t =>
      if isFarPeer t.space then .error { lane := 0, cause := 0x15, addr := va, info := 0 }
      else
      match poisonOf s (coreOf s r) t with
      | some m => .error { lane := 0, cause := 0x40, addr := va, info := m }
      | none =>
        .ok ((List.range 8).map fun i => BitVec.ofNat 32 (leNat ((coreBytes s (coreOf s r) t 32).drop (4 * i) |>.take 4)))

/-- CPYT: its layout record is read at issue, after the wave's earlier stores (R238, R239). Where the record cannot be read, the checks
that do not need it can still give a lower code (02_encoding R43). -/
def execCpyt (a : SReg) (x : Bool) (s : State) : Host.Outcome State Fault Refusal :=
  runWord s fun k r w =>
    let d := descWords r a
    if !readsOpen s r [(dva d 0, 32)] then .hold
    else
      match layoutRecord s r (dva d 0) with
      | .error f =>
        match chkTrap r ((commonChecks s r d x true ++ tileChecks d).filter fun c => decide (c.2.1 < f.cause)) with
        | some t => .trap t
        | none => .trap (mkTrap f.cause (batch r) f.addr f.info)
      | .ok rec => (issueCopy s k r w x (planCpyt (d ++ rec))).after fun s1 => noteReads s1 k r [(dva d 0, 32)]

/-- CPYG (R233 to R236). -/
def execCpyg (a : SReg) (v : VReg) (x : Bool) (s : State) : Host.Outcome State Fault Refusal :=
  readWord s (fun r => portCheck r [v.toNat] []) [v.toNat] fun k r w ins =>
    issueCopy s k r w x (planCpyg (descWords r a) (ins.map fun i => (i.lane, i.arg 0)))

/-- CPYP (R233 to R236, R240). -/
def execCpyp (a : SReg) (x : Bool) (s : State) : Host.Outcome State Fault Refusal :=
  copyWord s x fun r => planCpyp s r (descWords r a)

/-- CPYM (R233 to R237). -/
def execCpym (a : SReg) (x : Bool) (s : State) : Host.Outcome State Fault Refusal :=
  copyWord s x fun r => planCpym s r (descWords r a)

/-- CPYS (R233 to R236). -/
def execCpys (a : SReg) (x : Bool) (s : State) : Host.Outcome State Fault Refusal :=
  copyWord s x fun r => planCpys s r (descWords r a)

/-- CPYB (R233 to R236). -/
def execCpyb (a : SReg) (x : Bool) (s : State) : Host.Outcome State Fault Refusal :=
  copyWord s x fun r => planCpyb s r (descWords r a)

/-! ## Start -/

/-- The accesses of its wave that a copy's source reads follow have been performed (R232, 09_consistency R193). -/
def copyOrdered (s : State) (c : Copy) : Bool :=
  match s.wave c.wave with
  | some w => (earlier w c.op).all fun e => e.performed || !e.ordered
  | none => true

/-- Every wave of a block that has not exited has supplied its slice of a collective (R241). -/
def slicesIn (s : State) (blk k : Nat) : Bool :=
  s.work.waves.all fun p => p.2.blk != blk || p.2.fibres.isEmpty || decide (k < p.2.collNext)

/-- The slices of a collective that hold places; a copy that is none is alone. -/
def sliceGroup (s : State) (id : Nat) (c : Copy) : List (Nat × Copy) :=
  match c.coll with
  | some k => s.work.copies.filter fun p => p.2.blk == c.blk && p.2.coll == some k
  | none => [(id, c)]

/-- A copy waits for a slice or for its slot (R231, R257). -/
def standsAside (s : State) (id : Nat) (c : Copy) : Bool :=
  (c.coll.map fun k => !slicesIn s c.blk k).getD false ||
    (c.cb.map fun p => ((cbufOf s c.blk p.1).slot p.2).st != .free || aheadForSlot s id c != 0).getD false

/-- The entries in use on a core's range scoreboard (R242). -/
def boardUsed (s : State) (core : Nat) : Nat :=
  ((s.work.copies.filter fun p => p.2.started).flatMap fun p => p.2.spans.filter fun q => ((s.block q.1).map Block.core) == some core).length

/-- The entries that copies which start together need are free on each core (R231, R242). -/
def boardRoom (s : State) (cs : List Copy) : Bool :=
  let cores := (cs.flatMap Copy.spans).map fun q => ((s.block q.1).map Block.core).getD 0
  cores.all fun core => decide (boardUsed s core + cores.count core ≤ 64)

/-- No copy that issued earlier on the core starts first (R231). -/
def startsNext (s : State) (id : Nat) (c : Copy) : Bool :=
  s.work.copies.all fun p => p.2.core != c.core || p.2.started || decide (id ≤ p.1) || standsAside s p.1 p.2 ||
    (c.coll.isSome && p.2.coll == c.coll && p.2.blk == c.blk)

/-- The block of a CPYB is in its stack's pool, or can be fetched back (14_plot_units R323). -/
def blockIn (s : State) (c : Copy) : Bool :=
  c.form != 6 ||
    (match s.base.blocks.look (handleKey (c.word 0)) with
      | some b => !b.spilled || blockRoom s b.ctx (bsStack (handleKey (c.word 0)))
      | none => true)

/-- A copy can start now (R231, R241, R242). -/
def copyReady (s : State) (id : Nat) : Bool :=
  match s.work.copies.look id with
  | some c => !c.started && !standsAside s id c && startsNext s id c && boardRoom s ((sliceGroup s id c).map Prod.snd) &&
      (sliceGroup s id c).all fun p => copyOrdered s p.2 && sourceFree s p.2.core p.2.pages && !standsAside s p.1 p.2 && blockIn s p.2
  | none => false

/-- The messages of a CPYM: the expectation of .x first, then the sectors, for each target (R236, R237). -/
def cpymMsgs (id : Nat) (c : Copy) (msg : Nat) : List Ev :=
  let off := match c.bar with
    | some (.spm _ o) => o
    | _ => 0
  (List.range c.targets.length).zip c.targets |>.flatMap fun p =>
    let base := msg + p.1 * (c.perTarget + 1)
    (if c.x then
      [Ev.remoteMessage { wave := c.wave, seq := base, core := p.2.2.2, blk := p.2.1, gen := p.2.2.1, off := off, op := .expect c.perTarget }]
     else []) ++
    (List.range c.perTarget).map fun k =>
      Ev.remoteMessage { wave := c.wave, seq := base + 1, core := p.2.2.2, blk := p.2.1, gen := p.2.2.1, off := c.word 2 + 32 * k
                         op := .sector id (p.1 * c.perTarget + k) }

/-- One copy starts: the S bytes that its wave stored before it are written through, its slot is claimed, its spilled block fetched back, a
CPYM's messages leave (R231, R232, R236, R257, 09_consistency R193). -/
def startOne (s0 : State) (p : Nat × Copy) : State :=
  let s := flushSource s0 p.2.core p.2.reads p.2.pages
  let s1 := { s with work := { s.work with copies := s.work.copies.put p.1 { p.2 with started := true } } }
  let s2 := match p.2.cb with
    | some (i, j) => mapCbuf s1 p.2.blk i fun q => q.setSlot j { q.slot j with st := .claimed }
    | none => s1
  let s3 := if p.2.form = 6 then mapBs s2 (handleKey (p.2.word 0)) fun b => { b with spilled := false, used := s.tick } else s2
  if p.2.form = 4 then
    let msg := ((s3.wave p.2.wave).map Wave.nextMsg).getD 0
    (s3.posts (cpymMsgs p.1 p.2 msg)).mapWave p.2.wave fun w => { w with nextMsg := w.nextMsg + p.2.targets.length * (p.2.perTarget + 1) }
  else s3

/-! ## Sectors -/

/-- Where one byte of a copy stands: nowhere (it is zero), in the block's scratchpad, in memory, in a cell of a surface, or in a block
of the block store. -/
inductive Loc
  | zero
  | spm (off : Nat)
  | mem (va : Nat)
  | cell (x y i : Nat)
  | blk (key i : Nat)
deriving DecidableEq, Repr

/-- The offset at which a copy's scratchpad destination begins: 0, or that of its slot (R234, R257). -/
def Copy.base (s : State) (c : Copy) : Nat :=
  match c.cb with
  | some (i, j) => (cbufOf s c.blk i).base + j * (cbufOf s c.blk i).size
  | none => 0

/-- Byte `i` of the cells of a CPYS: the cell and the byte in it (R236). -/
def cellLoc (c : Copy) (p i : Nat) : Loc :=
  let q := i / (16 * p)
  .cell (c.word 1 % 2 ^ 16 + q % (c.word 2 % 2 ^ 16)) (c.word 1 / 2 ^ 16 + q / (c.word 2 % 2 ^ 16)) (i % (16 * p))

/-- The pixel size of a CPYS. -/
def Copy.pixel (s : State) (c : Copy) : Nat := (steOf s (((s.block c.blk).map Block.ctx).getD 0) (c.word 0 % 2 ^ 12)).p

/-- The source of byte `i` of a copy (R235, R236, R239). -/
def copySrc (s : State) (c : Copy) (i : Nat) : Loc :=
  match c.form with
  | 0 => if c.word 5 % 4 = 1 then .spm (c.word 0 + i) else .mem (c.dword 0 + i)
  | 1 =>
    let row := tileW c.desc * esize c.desc
    match srcCol c.desc (i % row / esize c.desc), srcRow c.desc (i / row) with
    | some x, some y => .mem (elemVa c.desc x y (i % esize c.desc))
    | _, _ => .zero
  | 2 =>
    let x := (c.idxs.getD (i / c.word 4) (0, 0)).2.toNat
    if x < c.word 5 then .mem (c.dword 0 + x * c.word 4 + i % c.word 4) else .zero
  | 3 => .mem (c.dword 0 + i)
  | 5 =>
    if !bitAt (c.word 3) 0 then cellLoc c (c.pixel s) i else if bitAt (c.word 3) 1 then .mem (c.dword 4 + i) else .spm (c.word 4 + i)
  | _ =>
    if !bitAt (c.word 4) 0 then .blk (handleKey (c.word 0)) i
    else if bitAt (c.word 4) 1 then .mem (c.dword 2 + i) else .spm (c.word 2 + i)

/-- The destination of byte `i` of a copy (R235, R236). -/
def copyDst (s : State) (c : Copy) (i : Nat) : Loc :=
  match c.form with
  | 0 => if c.word 5 % 4 = 0 then .spm (c.base s + c.word 2 + i) else .mem (c.dword 2 + i)
  | 1 =>
    let row := tileW c.desc * esize c.desc
    .spm (c.base s + c.word 2 + i / row * c.word 3 + i % row)
  | 2 => .spm (c.base s + c.word 2 + (c.idxs.getD (i / c.word 4) (0, 0)).1 * c.word 3 + i % c.word 4)
  | 3 => .mem (c.dword 2 + i)
  | 5 =>
    if bitAt (c.word 3) 0 then cellLoc c (c.pixel s) i
    else if bitAt (c.word 3) 1 then .mem (c.dword 4 + i) else .spm (c.base s + c.word 4 + i)
  | _ =>
    if bitAt (c.word 4) 0 then .blk (handleKey (c.word 0)) i
    else if bitAt (c.word 4) 1 then .mem (c.dword 2 + i) else .spm (c.base s + c.word 2 + i)

/-- The context of a copy. -/
def copyCtx (s : State) (c : Copy) : Nat := ((s.block c.blk).map Block.ctx).getD 0

/-- The pixel of byte `i` of a cell of a CPYS, and the byte's place in it (R236, 13_raster R283). -/
def cellByte (s : State) (c : Copy) (x y i : Nat) : Nat × Nat × Nat :=
  let p := c.pixel s
  (4 * x + i / p % 4, 4 * y + i / p / 4, i % p)

/-- The byte that stands at a location. -/
def locByte (s : State) (c : Copy) : Loc → Byte
  | .zero => 0
  | .spm off => (arrayBytes s c.blk off 1).headD 0
  | .mem va => pageByte s c.pages va
  | .cell x y i =>
    let q := cellByte s c x y i
    BitVec.ofNat 8 (pixelRead s (copyCtx s c) (c.word 0 % 2 ^ 12) q.1 q.2.1 / 2 ^ (8 * q.2.2))
  | .blk key i => ((s.base.blocks.look key).map fun b => b.data.get i 0).getD 0

/-- A byte written at a location. -/
def locWrite (s : State) (c : Copy) (b : Byte) (poison : Bool) : Loc → State
  | .zero => s
  | .spm off => arrayWriteFrom s c.since c.blk off [b]
  | .mem va => if poison then poisonAt (pageStore s c.pages va [b]) c.pages va else pageStore s c.pages va [b]
  | .cell x y i =>
    let e := c.word 0 % 2 ^ 12
    let q := cellByte s c x y i
    pixelWrite s (copyCtx s c) e q.1 q.2.1 (patchBits (pixelRead s (copyCtx s c) e q.1 q.2.1) (8 * q.2.2) 8 b.toNat) poison
  | .blk key i => mapBs s key fun q => { q with data := Map.store q.data i b 0, poisoned := if poison then (i / 64 :: q.poisoned).eraseDups else q.poisoned, used := s.tick }

/-- A location can be read or written now: its line is free, its cell is in the pool, and no bundle under repair serves it (08_memory_spaces R168,
13_raster R286, 20_errors R441). -/
def locReady (s : State) (c : Copy) (write : Bool) : Loc → Bool
  | .mem va => pageFree s c.pages va
  | .cell x y _ => cellReady s (copyCtx s c) (c.word 0 % 2 ^ 12) x y write
  | .blk key _ => !(s.dev.repairing.any fun r => r.1 == bsStack key && Config.bundleHolds r.2.1 key)
  | _ => true

/-- A location holds poison (20_errors R438). -/
def locPoisoned (s : State) (c : Copy) : Loc → Bool
  | .mem va => pagePoisoned s c.pages va
  | .cell x y i =>
    let q := cellByte s c x y i
    pixelPoisoned s (copyCtx s c) (c.word 0 % 2 ^ 12) q.1 q.2.1
  | .blk key i => ((s.base.blocks.look key).map fun b => b.poisoned.contains (i / 64)).getD false
  | _ => false

/-- A destination byte of a copy from memory to memory lies in its source (R232). -/
def overlaps (c : Copy) (l : Loc) : Bool :=
  match l with
  | .mem va =>
    c.form == 0 && c.word 5 % 4 == 2 &&
      (match pagePlace c.pages va with
        | some (sp, pa, _) =>
          (pageRuns (c.dword 0) (c.word 4)).any fun q =>
            match pagePlace c.pages q.1 with
            | some (sp2, pa2, _) => samePlace sp sp2 && decide (pa2 ≤ pa) && decide (pa < pa2 + q.2)
            | none => false
        | none => false)
  | _ => false

/-- The stream bytes of a sector (R229). -/
def sectorBytes (k : Nat) : List Nat := (List.range 32).map fun j => 32 * k + j

/-- A sector can land now. A CPYM's sectors go by messages. -/
def sectorReady (s : State) (c : Copy) (k : Nat) : Bool :=
  c.started && c.left.contains k && c.form != 4 &&
    (sectorBytes k).all fun i => locReady s c false (copySrc s c i) && locReady s c true (copyDst s c i)

/-- One byte of a sector: its place, its value and whether poison reached it. -/
def sectorByte (s : State) (c : Copy) (i : Nat) : Loc × Byte × Bool :=
  let d := copyDst s c i
  (d, if overlaps c d then Config.freeByte s.tick i else locByte s c (copySrc s c i), locPoisoned s c (copySrc s c i))

/-- What an event names of the place that poison came from: its virtual address, its entry, or the block store (20_errors R445). -/
def locName (c : Copy) : Loc → Nat
  | .mem va => va
  | .cell _ _ _ => c.word 0 % 2 ^ 12
  | _ => 2 ^ 32 - 1

/-- A surface cell that a copy reads is its stack's most recently used one (13_raster R285). -/
def locTouch (s : State) (c : Copy) : Loc → State
  | .cell x y _ => touchCell s (copyCtx s c) (c.word 0 % 2 ^ 12) x y
  | _ => s

/-- The cells that a sector covers whole, which then carry the poison of the sector alone (20_errors R438). -/
def clearCells (s : State) (c : Copy) (k : Nat) : State :=
  (sectorBytes k).foldl (fun t i => match copyDst s c i with
    | .cell x y 0 => if 16 * c.pixel s ≤ 32 then clearCell t (copyCtx s c) (c.word 0 % 2 ^ 12) x y else t
    | _ => t) s

/-- The thirty-two bytes of a sector written; where poison goes on with them, the context gets an event (20_errors R438, R445). -/
def writeSector (s : State) (c : Copy) (k : Nat) : State :=
  let s0 := (sectorBytes k).foldl (fun s i => locTouch s c (copySrc s c i)) (clearCells s c k)
  let s1 := ((sectorBytes k).map (sectorByte s c)).foldl (fun s q => locWrite s c q.2.1 q.2.2 q.1) s0
  match (sectorBytes k).find? fun i => locPoisoned s c (copySrc s c i) with
  | some i => postPoison s1 (copyCtx s c) (stackOf c.core) (locName c (copySrc s c i))
  | none => s1

/-- The status word of a CPYP, written before its last sector is credited (R240). -/
def writeStatus (s : State) (c : Copy) (status : Nat) : State := arrayWrite s c.blk (c.word 5) (leBytes status 4)

/-- The end of a CPYB's pin (14_plot_units R319). -/
def unpinCopy (s : State) (c : Copy) : State := if c.form = 6 then unpinBlock s (handleKey (c.word 0)) else s

/-- The peer side of a sector of a CPYP: the device, the virtual address, and whether it is written there (R235). -/
def sectorPeer (c : Copy) (k : Nat) : Option (Nat × Nat × Bool) :=
  let side (va : Nat) (write : Bool) : Option (Nat × Nat × Bool) :=
    match pagePlace c.pages va with
    | some (.far d, _, _) => if d = 256 then none else some (d, va, write)
    | _ => none
  if c.form != 3 then none
  else match side (c.dword 2 + 32 * k) true with
    | some q => some q
    | none => side (c.dword 0 + 32 * k) false

/-- The bytes that a sector carries now. -/
def sectorData (s : State) (c : Copy) (k : Nat) : List Byte := (sectorBytes k).map fun i => (sectorByte s c i).2.1

/-- The commands of a sector of a CPYP of a context, of 8 bytes each, with the bytes that they write, on their way to its peer (18_host_peers
R415). -/
def sendBytes (s : State) (ctx : Nat) (c : Copy) (k : Nat) (bs : List Byte) : State :=
  match sectorPeer c k with
  | none => s
  | some (d, va, write) =>
    (List.range 4).foldl (fun t i =>
      let pa := ((pagePlace c.pages (va + 8 * i)).map fun q => q.2.1).getD 0
      sendCmd t d (.access (remoteCtx s ctx d) pa
        (if write then .write 8 (BitVec.ofNat 64 (leNat ((bs.drop (8 * i)).take 8))) else .read 8))) s

/-- The commands of a sector of a CPYP on their way to its peer. -/
def sendSector (s : State) (c : Copy) (k : Nat) : State := sendBytes s (copyCtx s c) c k (sectorData s c k)

/-- A sector that has landed: it is credited to its object, and the last one ends the copy (R234, R240). -/
def settleSector (s1 : State) (id k : Nat) (c : Copy) : State :=
  let last := c.left.length == 1
  let s2 := if c.form = 3 && last then writeStatus s1 c 0 else s1
  let s3 := if last then unpinCopy s2 c else s2
  sectorDone (creditSector s3 c) id k

/-- A sector of a CPYP refused at its source or its target: a write changes nothing, a read returns all ones, the sector counts as landed, and the
wave is to take trap 0x15. Where the target refuses it (reason 13), its commands have gone there under their own ids (18_host_peers R412, R414,
R415; DEDUCED, log 82). -/
def refuseSector (s0 : State) (id k : Nat) (c : Copy) (reason : Nat) : State :=
  let s := if reason = 13 then sendSector s0 c k else s0
  match sectorPeer c k with
  | none => s
  | some (_, va, write) =>
    let s1 := if write then s else (sectorBytes k).foldl (fun s i => locWrite s c 0xFF false (copyDst s c i)) s
    report (settleSector s1 id k c) c.wave (peerTrap s (copyCtx s c) va write reason)

/-- A sector lands: it is performed, credited to its object, and the last one ends the copy (R229, R234, R240); one for a peer to which no route
leads any more is refused (18_host_peers R412). -/
def landSector (s : State) (id k : Nat) (c : Copy) : State :=
  match sectorPeer c k with
  | some (d, _, _) => if routed s d then settleSector (writeSector (sendSector s c k) c k) id k c else refuseSector s id k c 12
  | none => settleSector (writeSector s c k) id k c

/-- SECTOR_LAND (R229, R234, R245). -/
def execSectorLand (id k : Nat) (s : State) : Host.Outcome State Fault Refusal :=
  runEvent s (.sectorLand id k) (((s.work.copies.look id).map fun c => sectorReady s c k).getD false) fun s =>
    match s.work.copies.look id with
    | some c => landSector s id k c
    | none => s

/-- The sectors of a CPYP whose commands the target has not executed when its link goes down, for a status (R240). -/
def unexecuted (s : State) (c : Copy) (status : Nat) : List Nat :=
  match status with
  | 1 => c.left
  | 2 => []
  | _ => c.left.filter fun k => (Config.freeWord s.tick k).getLsbD 0

/-- A CPYP whose link is declared down ends with a status: each byte of a sector not yet landed is the copied one or its old value, the
status word is written, and every such sector is credited (R240). -/
def endPeerCopy (s : State) (id : Nat) (c : Copy) (status : Nat) : State :=
  let s1 := (c.left.filter fun k => !(unexecuted s c status).contains k).foldl (fun s k => writeSector (sendSector s c k) c k) s
  let s2 := writeStatus s1 c status
  c.left.foldl (fun s k => sectorDone (creditSector s c) id k) s2

/-- What the device keeps of a CPYP that ended with status 3 (18_host_peers R416). -/
def keptCopy (s : State) (port device : Nat) (c : Copy) : Unresolved :=
  { port := port, device := device, ctx := copyCtx s c, copy := c
    executed := decide ((unexecuted s c 3).length < c.total)
    missing := (unexecuted s c 3).map fun k => (k, sectorData s c k) }

/-- The missing commands of a sector of such a CPYP executed: those that write carry the bytes that they carried, those that read read anew
(18_host_peers R416). -/
def resumeSector (u : Unresolved) (s : State) (q : Nat × List Byte) : State :=
  let s1 := sendBytes s u.ctx u.copy q.1 q.2
  match sectorPeer u.copy q.1 with
  | some (_, _, true) => pageWrite s1 u.copy.pages (u.copy.dword 2 + 32 * q.1) q.2
  | some (_, _, false) => pageWrite s1 u.copy.pages (u.copy.dword 2 + 32 * q.1) (sectorData s1 u.copy q.1)
  | none => s1

/-- The statuses that a CPYP can end with when its link is down: not executed only while no sector has landed, executed, or unknown
(R240). -/
def peerStatus (s : State) (c : Copy) : Nat :=
  let i := Config.choose s.tick
  if c.left.length = c.total then 1 + i % 3 else 2 + i % 2

end Sys2Proof.Machine
end

