-- ==== Sys2Proof/Machine/System.lean ====
section
/-! DEFINITION. TLBINV and KEYLD (17_translation R400, R401, R404 to R406). -/

namespace Sys2Proof.Machine

/-! ## TLBINV -/

/-- What a TLBINV covers: every context or one, and a run of pages or all of them (R405). -/
structure InvRange where
  ctx : Option Nat
  pages : Option (Nat × Nat)
deriving DecidableEq, Repr

/-- A run of pages meets the range. -/
def InvRange.covers (q : InvRange) (ctx page n : Nat) : Bool :=
  ((q.ctx.map fun c => c == ctx).getD true) &&
    ((q.pages.map fun p => decide (page < p.1 + p.2) && decide (p.1 < page + n)).getD true)

/-- The range of a TLBINV, when its operands keep their limits (R405). -/
def invRange (va y : Nat) : Option InvRange :=
  let n := bits y 27 8
  if bits y 31 28 != 0 then none
  else
    match bits y 7 6 with
    | 0 => if canonical va && va % 4096 == 0 && n != 0 then some { ctx := some (y % 64), pages := some (va / 4096, n) } else none
    | 1 => if n = 0 then some { ctx := some (y % 64), pages := none } else none
    | 2 => if n = 0 then some { ctx := none, pages := none } else none
    | _ => none

/-- A page in the range, or one that an entry which the range covers, of whichever size, maps as well (R405). -/
def InvRange.reaches (s : State) (q : InvRange) (ctx page : Nat) : Bool :=
  q.covers ctx page 1 || s.mem.tlb.any fun t =>
    q.covers t.ctx t.page t.pages && t.ctx == ctx && decide (t.page ≤ page) && decide (page < t.page + t.pages)

/-- An access of a wave has been translated by an entry that the range covers, and has not been performed. -/
def subInRange (s : State) (q : InvRange) : Bool :=
  s.work.waves.any fun p => p.2.ops.any fun o => o.subs.any fun x =>
    !x.done && x.paged && q.reaches s (ctxOf s p.2) (x.va / 4096)

/-- A request of a BWAIT or BTEST at an object of memory, translated by an entry that the range covers, has not been answered. -/
def askInRange (s : State) (q : InvRange) : Bool :=
  s.pending.any fun e => match e with
    | .remoteBarrierRequest k _ _ _ (.line _ _ _ va) _ _ => ((s.wave k).map fun w => q.reaches s (ctxOf s w) (va / 4096)).getD false
    | _ => false

/-- A walk of a page in the range is in flight (R405). -/
def walkInRange (s : State) (q : InvRange) : Bool :=
  s.pending.any fun e => match e with
    | .pageWalk _ ctx va => q.reaches s ctx (va / 4096)
    | _ => false

/-- The pages of a queued drain to memory (06_matrix R141). -/
def TileOp.pages (t : TileOp) : Map PageAt :=
  match t.kind with
  | .zdrain _ _ _ _ _ _ _ pages => pages
  | _ => []

/-- The pages that copies, queued drains and commits have had translated, each with its context (R405). -/
def heldPages (s : State) : List (Nat × Map PageAt) :=
  let ctxAt (blk : Nat) : Nat := ((s.block blk).map Block.ctx).getD 0
  (s.work.copies.map fun p => (ctxAt p.2.blk, p.2.pages)) ++
    (s.work.blocks.flatMap fun p => p.2.tiles.map fun t => (p.2.ctx, t.pages)) ++
    s.mem.commits.map fun p => (ctxAt (p.2.wave / 16), p.2.pages)

/-- A copy, a queued drain or a commit holds a translation in the range (R405). -/
def heldInRange (s : State) (q : InvRange) : Bool := (heldPages s).any fun p => p.2.any fun x => q.reaches s p.1 x.1

/-- The TLB entries in a range dropped on every core (R405). -/
def dropTlb (s : State) (q : InvRange) : State :=
  { s with mem := { s.mem with tlb := s.mem.tlb.filter fun t => !q.covers t.ctx t.page t.pages } }

/-- TLBINV (R404, R405): the entries go, and the word waits until no walk and no access that used them is in flight. -/
def execTlbinv (a b : SReg) (s : State) : Host.Outcome State Fault Refusal :=
  runWord s fun k r w =>
    needLevel r (r.level != .user) <|
      match invRange (spair r a.toNat).toNat (sreg r b.toNat).toNat with
      | none => illegalHere r
      | some q =>
        if !releaseReady s r || subInRange s q || askInRange s q || walkInRange s q || heldInRange s q then .hold
        else
          let s1 := dropTlb (s.setWave k w) q
          .ok { s1 with mem := releaseBytes s1.mem (coreOf s r) }

/-! ## KEYLD -/

/-- The lines recorded under a key slot. -/
def slotLines (m : MemSys) (key : Nat) : List Nat :=
  ((m.cipher.filter fun p => p.2 == key).map Prod.fst ++ (m.l1.filter fun l => l.key == some key).map L1Line.line).eraseDups

/-- A line's bytes taken out of the caches in the form that its key gives them, with no key recorded (R401, R406). -/
def sealLine (key : Nat) (m : MemSys) (line : Nat) : MemSys :=
  let m1 := recallLine m line
  if m1.cipher.look line = some key then
    { m1 with mem := Memory.writes m1.mem (64 * line) (encLine m1 line (some key) (rawLine m1 line)), cipher := m1.cipher.del line }
  else m1

/-- Every line recorded under a slot written back and dropped, in the L1s and the LLC of both stacks (R406). -/
def sealSlot (m : MemSys) (key : Nat) : MemSys :=
  let dirty := m.l1.filter fun l => l.key == some key && l.mode == .s && l.dirty != 0
  let m1 := dirty.foldl storeDirty m
  let m2 := (slotLines m1 key).foldl (sealLine key) m1
  { m2 with l1 := m2.l1.filter fun l => l.key != some key }

/-- A key of 32 bytes. -/
def keyAt (m : MemSys) (pa : Nat) : BitVec 256 := BitVec.ofNat 256 (devRead m pa 32)

/-- A slot emptied, or loaded with two keys (R406). -/
def setKey (s : State) (key : Nat) (v : Option (BitVec 256 × BitVec 256)) : State :=
  let m := sealSlot s.mem key
  { s with mem := { m with keys := match v with
    | some p => m.keys.put key p
    | none => m.keys.del key } }

/-- The lines of a slot can all be taken now. -/
def slotFree (s : State) (key : Nat) : Bool := (slotLines s.mem key).all (lineFree s.mem)

/-- KEYLD (R404, R406). -/
def execKeyld (a b : SReg) (s : State) : Host.Outcome State Fault Refusal :=
  runWord s fun k r w =>
    needLevel r (r.level == .machine) <|
      let pa := (spair r a.toNat).toNat
      let y := (sreg r b.toNat).toNat
      let key := y % 256
      if y / 2 ^ 9 != 0 then illegalHere r
      else if bitAt y 8 then
        if slotFree s key then .ok (setKey (s.setWave k w) key none) else .hold
      else if 2 ^ 38 ≤ pa then illegalHere r
      else if pa % 64 != 0 then .trap (mkTrap 0x08 (batch r) pa 0)
      else if !readsOpen s r [(pa, 64)] then .hold
      else
        let d := keyAt s.mem pa
        let t := keyAt s.mem (pa + 32)
        if d = t then illegalHere r
        else if !slotFree s key then .hold
        else .ok (setKey (noteReads (s.setWave k w) k r [(pa, 64)]) key (some (d, t)))

end Sys2Proof.Machine
end

