-- ==== Sys2Proof/Machine/Convert.lean ====
section
/-! DEFINITION. The sp8 and e8m0 formats, CVT and the packing words (04_number_formats R61 to R66, R73 to R82). -/

namespace Sys2Proof.Machine

/-! ## sp8 and e8m0 -/

/-- Term(s, k) of an sp8 byte in units of 2^−6 (R62). -/
def sp8Term (s : Bool) (k : Nat) : Int := if k = 7 then 0 else signInt s (2 ^ (6 - k))

/-- The value of an sp8 byte in units of 2^−6 (R62). -/
def sp8Int (x : Nat) : Int := sp8Term (bitAt x 7) (bits x 6 4) + sp8Term (bitAt x 3) (bits x 2 0)

/-- The value of an sp8 byte. -/
def decodeSp8 (x : Nat) : FVal := .fin (decide (sp8Int x < 0)) (sp8Int x).natAbs (-6)

/-- The pairs a < b of term exponents. -/
def sp8Pairs : List (Nat × Nat) :=
  (List.range 7).flatMap fun a => (List.range 7).filterMap fun b => if a < b then some (a, b) else none

/-- The canonical byte of a positive magnitude in units of 2^−6, if it is a candidate (R63). -/
def sp8Pos (v : Nat) : Option Nat :=
  if v = 128 then some 0
  else
    match (List.range 7).find? fun k => 2 ^ (6 - k) == v with
    | some k => some (16 * k + 7)
    | none =>
      match sp8Pairs.find? fun p => 2 ^ (6 - p.1) + 2 ^ (6 - p.2) == v with
      | some p => some (16 * p.1 + p.2)
      | none =>
        match sp8Pairs.find? fun p => 2 ^ (6 - p.1) - 2 ^ (6 - p.2) == v with
        | some p => some (16 * p.1 + 8 + p.2)
        | none => none

/-- The canonical byte of a signed candidate (R63). -/
def sp8Code (s : Bool) (v : Nat) : Nat :=
  if v = 0 then 0x77
  else
    match sp8Pos v with
    | some c => if !s then c else if c % 16 = 7 then c + 128 else (c + 128) ^^^ 8
    | none => 0x77

/-- The candidate magnitudes in units of 2^−6, rising (R78). -/
def sp8Mags : List Nat := 0 :: (List.range 129).filter fun v => (sp8Pos v).isSome

/-- A finite value converted to sp8: nearest candidate, or the next in the mode's direction (R77, R78). -/
def toSp8 (r : Rnd) (s : Bool) (m : Nat) (e : Int) : FRes :=
  let d := 2 ^ (-(e + 6)).toNat
  let x := m * 2 ^ (e + 6).toNat
  if 128 * d < x then { bits := if s then 0x88 else 0, conds := overflow ||| inexact }
  else
    let lo := (sp8Mags.filter fun v => decide (v * d ≤ x)).getLastD 0
    let hi := (sp8Mags.find? fun v => decide (x ≤ v * d)).getD 128
    let up := match r with
      | .rne => decide (hi * d + lo * d < 2 * x)
      | .rz => false
      | .ru => !s
      | .rd => s
    { bits := sp8Code s (if up then hi else lo), conds := raise inexact (lo * d != x) }

/-- The value of an e8m0 byte (R61). -/
def decodeE8m0 (x : Nat) : FVal := if x % 256 = 255 then .nan false else .fin false 1 ((x % 256 : Nat) - 127)

/-- A finite value converted to e8m0 (R77, R78). -/
def toE8m0 (r : Rnd) (sat : Bool) (m : Nat) (e : Int) : FRes :=
  if m = 0 then { bits := 0, conds := invalid }
  else
    let k := leadExp m e
    let exact := m == 2 ^ (bitLen m - 1)
    if k < -127 then { bits := 0, conds := underflow ||| inexact }
    else
      let up := !exact && (match r with
        | .rne => decide (3 * 2 ^ (bitLen m - 1) ≤ 2 * m)
        | .ru => true
        | _ => false)
      let y := if up then k + 1 else k
      if 127 < y then { bits := if sat then 0xFE else 0xFF, conds := overflow ||| inexact }
      else { bits := (y + 127).toNat, conds := raise inexact (!exact) }

/-! ## CVT -/

/-- The float format of a type code, for the six with a sign and an exponent. -/
def fmtOf : NumTy → Option Fmt
  | .f32 => some fmtF32
  | .f16 => some fmtF16
  | .bf16 => some fmtBf16
  | .e4m3 => some fmtE4m3
  | .e5m2 => some fmtE5m2
  | .e2m1 => some fmtE2m1
  | _ => none

/-- The width and the signedness of an integer type. -/
def intTy : NumTy → Option (Nat × Bool)
  | .i32 => some (32, true)
  | .n32 => some (32, false)
  | .i16 => some (16, true)
  | .n16 => some (16, false)
  | .i8 => some (8, true)
  | .n8 => some (8, false)
  | _ => none

/-- The least value of an integer type. -/
def intMin (t : Nat × Bool) : Int := if t.2 then -(2 ^ (t.1 - 1) : Nat) else 0

/-- The greatest value of an integer type. -/
def intMax (t : Nat × Bool) : Int := if t.2 then (2 ^ (t.1 - 1) : Nat) - 1 else (2 ^ t.1 : Nat) - 1

/-- The integer that the low bits of a register hold. -/
def intOf (t : Nat × Bool) (x : Nat) : Int := if t.2 then signed t.1 x else (x % 2 ^ t.1 : Nat)

/-- DecodeExact (R76). -/
def decodeNum (t : NumTy) (x : Nat) : FVal :=
  match fmtOf t, intTy t with
  | some f, _ => decodeF f (x % 2 ^ f.width)
  | none, some i => .fin (decide (intOf i x < 0)) (intOf i x).natAbs 0
  | none, none => if t = .sp8 then decodeSp8 x else decodeE8m0 x

/-- An integer placed in a register (R65). -/
def placeInt (x : Int) : Word := wordOfInt x

/-- A value converted to an integer type (R76, R77). -/
def toInt (t : Nat × Bool) (r : Rnd) (v : FVal) : Word × Conds :=
  match v with
  | .nan _ => (0, invalid)
  | .inf s => (placeInt (if s then intMin t else intMax t), invalid)
  | .fin s m e =>
    let q := roundAt r s m e 0
    let y := signInt s q.1
    if y < intMin t then (placeInt (intMin t), invalid)
    else if intMax t < y then (placeInt (intMax t), invalid)
    else (placeInt y, raise inexact q.2)

/-- What a float format gives for an infinite input or a result out of range (R77). -/
def specialBits (f : Fmt) (sat s : Bool) : Nat :=
  if sat then f.sign s + f.top
  else
    match f.inf, f.nan with
    | some i, _ => f.sign s + i
    | none, some n => n
    | none, none => f.sign s + f.top

/-- A value converted to a float format (R76, R77). -/
def toFmt (f : Fmt) (r : Rnd) (sat : Bool) (v : FVal) : FRes :=
  match v with
  | .nan g =>
    match f.nan with
    | some n => { bits := n, conds := raise invalid g }
    | none => { bits := 0, conds := invalid }
  | .inf s =>
    { bits := specialBits f sat s, conds := raise invalid (!sat && f.inf.isNone && f.nan.isSome) }
  | .fin s m e => if m = 0 then { bits := f.sign s, conds := 0 } else roundFin f r s m e (specialBits f sat s)

/-- A value converted to sp8 (R77, R78). -/
def anySp8 (r : Rnd) (v : FVal) : FRes :=
  match v with
  | .nan _ => { bits := 0x77, conds := invalid }
  | .inf s => { bits := if s then 0x88 else 0, conds := 0 }
  | .fin s m e => toSp8 r s m e

/-- A value converted to e8m0 (R77, R78). -/
def anyE8m0 (r : Rnd) (sat : Bool) (v : FVal) : FRes :=
  match v with
  | .nan g => { bits := 0xFF, conds := raise invalid g }
  | .inf _ => { bits := 0xFF, conds := invalid }
  | .fin _ m e => toE8m0 r sat m e

/-- An integer converted to an integer type (R76). -/
def narrowInt (t : Nat × Bool) (sat : Bool) (x : Int) : Word × Conds :=
  if sat then
    let y := max (intMin t) (min x (intMax t))
    (placeInt y, raise intOverflow (decide (y ≠ x)))
  else (placeInt (intOf t (x % 2 ^ t.1).toNat), 0)

/-- CVT of one value (R76). -/
def convert (dt st : NumTy) (r : Rnd) (sat : Bool) (x : Word) : Word × Conds :=
  let v := decodeNum st x.toNat
  match intTy dt, intTy st with
  | some d, some t => narrowInt d sat (intOf t x.toNat)
  | some d, none => toInt d r v
  | none, _ =>
    match fmtOf dt with
    | some f => let t := toFmt f r sat v; (BitVec.ofNat 32 t.bits, t.conds)
    | none =>
      let t := if dt = .sp8 then anySp8 r v else anyE8m0 r sat v
      (BitVec.ofNat 32 t.bits, t.conds)

/-! ## Packing -/

/-- One element of a packing word, narrowed from f32 by RNE (R80). -/
def narrow (f : Fmt) (sat : Bool) (x : Word) : Nat × Conds :=
  let t := toFmt f .rne sat (decodeF fmtF32 x.toNat)
  (t.bits, t.conds)

/-- Two halves of a register (R80). -/
def packHalves (f : Fmt) (sat : Bool) (a b : Word) : Word × Conds :=
  let x := narrow f sat a
  let y := narrow f sat b
  (BitVec.ofNat 32 (x.1 + 2 ^ 16 * y.1), x.2 ||| y.2)

/-- Two elements of `w` bits entered at the top of a register that is shifted down by both (R80). -/
def packShift (f : Fmt) (sat : Bool) (w : Nat) (a b d : Word) : Word × Conds :=
  let x := narrow f sat a
  let y := narrow f sat b
  (BitVec.ofNat 32 (2 ^ (32 - 2 * w) * (x.1 + 2 ^ w * y.1) + d.toNat / 2 ^ (2 * w)), x.2 ||| y.2)

/-- The format of the elements that UNPKLO and UNPKHI widen (R81). -/
def unpkFmt : UnpkTy → Fmt
  | .f16 => fmtF16
  | .bf16 => fmtBf16
  | .e4m3 => fmtE4m3
  | .e5m2 => fmtE5m2
  | .e2m1 => fmtE2m1

/-- The number of elements in 16 bits (R81). -/
def unpkCount (t : UnpkTy) : Nat := 16 / (unpkFmt t).width

/-- One element widened to f32. -/
def widen (f : Fmt) (x : Nat) : FRes := toFmt fmtF32 .rne false (decodeF f (x % 2 ^ f.width))

/-- The elements of 16 bits widened to f32, element 0 first (R81). -/
def unpack (t : UnpkTy) (x : Nat) : List Word × Conds :=
  let rs := (List.range (unpkCount t)).map fun j => widen (unpkFmt t) (x / 2 ^ (j * (unpkFmt t).width))
  (rs.map fun r => BitVec.ofNat 32 r.bits, rs.foldl (fun c r => c ||| r.conds) 0)

end Sys2Proof.Machine
end

