-- ==== Sys2Proof/Machine/Special.lean ====
section
/-! DEFINITION. The special functions: the exact value of each, rounded once (05_vector_scalar R110 to R112). A value that is
no dyadic number is held as a fixed-point number of 320 fraction bits followed by a sticky bit, from series whose error lies
below 2^−300 (log 24). -/

namespace Sys2Proof.Machine

/-- The fraction bits of the fixed-point numbers. -/
def fixP : Nat := 320

/-- One, as a fixed-point number. -/
def fixOne : Nat := 2 ^ fixP

/-- The product of two fixed-point numbers. -/
def fixMul (x y : Nat) : Nat := x * y / fixOne

/-- The square root of a number below 4^n, rounded down, bit by bit from `r`. -/
def isqrt (x : Nat) : Nat → Nat → Nat
  | 0, r => r
  | n + 1, r => if (r + 2 ^ n) * (r + 2 ^ n) ≤ x then isqrt x n (r + 2 ^ n) else isqrt x n r

/-- Σ z^(2i) / (2i + 2k + 1) from k on: atanh(z) / z for k = 0. -/
def atanhSum (z2 : Nat) : Nat → Nat → Nat
  | 0, _ => 0
  | n + 1, k => fixOne / (2 * k + 1) + fixMul z2 (atanhSum z2 n (k + 1))

/-- Σ (−1)^i q^(−2i) / (2i + 2k + 1) from k on: atan(1/q) · q for k = 0. -/
def atanSum (q2 : Nat) : Nat → Nat → Nat
  | 0, _ => 0
  | n + 1, k => fixOne / (2 * k + 1) - atanSum q2 n (k + 1) / q2

/-- The natural logarithm of 2. -/
def fixLn2 : Nat := 2 * atanhSum (fixOne / 9) 110 0 / 3

/-- Pi, by Machin's formula. -/
def fixPi : Nat := 16 * atanSum 25 80 0 / 5 - 4 * atanSum 57121 30 0 / 239

/-- Σ y^i k! / (k + i)! : e^y for k = 0. -/
def expSum (y : Nat) : Nat → Nat → Nat
  | 0, _ => fixOne
  | n + 1, k => fixOne + fixMul y (expSum y n (k + 1)) / (k + 1)

/-- The nested series of the sine over its argument (`j` = 1, `o` = 1) and of the cosine (`j` = 1, `o` = 0). -/
def trigSum (t2 o : Nat) : Nat → Nat → Nat
  | 0, _ => fixOne
  | n + 1, j => fixOne - fixMul t2 (trigSum t2 o n (j + 1)) / ((2 * j - 1 + o) * (2 * j + o))

/-- A fixed-point number with a sticky bit after it, delivered in f32. -/
def fixOut (s : Bool) (x : Nat) (e : Int) : FRes := deliver fmtF32 .rne (.fin s (2 * x + 1) (e - fixP - 1)) 0

/-- The result for a special input. -/
def special (bits : Nat) (c : Conds) : FRes := { bits := bits, conds := c }

/-- The canonical f32 NaN with conditions. -/
def nan32 (c : Conds) : FRes := { bits := 0x7FC00000, conds := c }

/-- RCP (R110, R112). -/
def sfRcp (x : Nat) : FRes :=
  match decodeF fmtF32 x with
  | .nan g => nan32 (raise invalid g)
  | .inf s => special (fmtF32.sign s) 0
  | .fin s m e =>
    if m = 0 then special (fmtF32.infBits s) divZero
    else deliver fmtF32 .rne (.fin s (2 * (2 ^ 80 / m) + (if 2 ^ 80 % m = 0 then 0 else 1)) (-e - 81)) 0

/-- SQRT (R110, R112). -/
def sfSqrt (x : Nat) : FRes :=
  match decodeF fmtF32 x with
  | .nan g => nan32 (raise invalid g)
  | .inf s => if s then nan32 invalid else special 0x7F800000 0
  | .fin s m e =>
    if m = 0 then special (fmtF32.sign s) 0
    else if s then nan32 invalid
    else
      let y := m * 2 ^ (160 + (e % 2).toNat)
      let r := isqrt y 96 0
      deliver fmtF32 .rne (.fin false (2 * r + (if r * r = y then 0 else 1)) ((e - e % 2) / 2 - 81)) 0

/-- RSQ (R110, R112). -/
def sfRsq (x : Nat) : FRes :=
  match decodeF fmtF32 x with
  | .nan g => nan32 (raise invalid g)
  | .inf s => if s then nan32 invalid else special 0 0
  | .fin s m e =>
    if m = 0 then special (fmtF32.infBits s) divZero
    else if s then nan32 invalid
    else
      let y := m * 2 ^ (e % 2).toNat
      let r := isqrt (2 ^ 160 / y) 96 0
      deliver fmtF32 .rne (.fin false (2 * r + (if r * r * y = 2 ^ 160 then 0 else 1)) (-((e - e % 2) / 2) - 81)) 0

/-- A finite value as a fixed-point integer. -/
def toFix (s : Bool) (m : Nat) (e : Int) : Int := signInt s (m * 2 ^ (e + fixP).toNat)

/-- EXP2 (R110, R112). -/
def sfExp2 (x : Nat) : FRes :=
  match decodeF fmtF32 x with
  | .nan g => nan32 (raise invalid g)
  | .inf s => special (if s then 0 else 0x7F800000) 0
  | .fin s m e =>
    let y := toFix s m e
    let n := max (-1000) (min (y / fixOne) 1000)
    let f := (y % fixOne).toNat
    if f = 0 then deliver fmtF32 .rne (.fin false 1 n) 0 else fixOut false (expSum (fixMul f fixLn2) 90 0) n

/-- LOG2 (R110, R112). -/
def sfLog2 (x : Nat) : FRes :=
  match decodeF fmtF32 x with
  | .nan g => nan32 (raise invalid g)
  | .inf s => if s then nan32 invalid else special 0x7F800000 0
  | .fin s m e =>
    if m = 0 then special 0xFF800000 divZero
    else if s then nan32 invalid
    else
      let p := 2 ^ (bitLen m - 1)
      let l := leadExp m e
      if m = p then deliver fmtF32 .rne (.fin (decide (l < 0)) l.natAbs 0) 0
      else
        let z := fixOne * (m - p) / (m + p)
        let t := 2 * fixMul z (atanhSum (fixMul z z) 110 0) * fixOne / fixLn2
        let v := l * fixOne + t
        fixOut (decide (v < 0)) v.natAbs 0

/-- sin(2πx) or cos(2πx): `quarter` is 0 or 1, the quarter turn added to x (R110, R111). -/
def turnOf (neg : Bool) (f quarter : Nat) : FRes :=
  let q := (4 * f / fixOne + quarter) % 4
  let r := 4 * f % fixOne
  let s := neg ^^ decide (2 ≤ q)
  if r = 0 then (if q % 2 = 0 then special 0 0 else special (fmtF32.sign s + 0x3F800000) 0)
  else
    let t := fixMul r fixPi / 2
    let t2 := fixMul t t
    fixOut s (if q % 2 = 0 then fixMul t (trigSum t2 1 45 1) else trigSum t2 0 45 1) 0

/-- SIN (R110 to R112). -/
def sfSin (x : Nat) : FRes :=
  match decodeF fmtF32 x with
  | .nan g => nan32 (raise invalid g)
  | .inf _ => nan32 invalid
  | .fin s m e => if m = 0 then special (fmtF32.sign s) 0 else turnOf s ((toFix false m e).toNat % fixOne) 0

/-- COS (R110 to R112). -/
def sfCos (x : Nat) : FRes :=
  match decodeF fmtF32 x with
  | .nan g => nan32 (raise invalid g)
  | .inf _ => nan32 invalid
  | .fin _ m e => turnOf false ((toFix false m e).toNat % fixOne) 1

/-- TANH (R110, R112). -/
def sfTanh (x : Nat) : FRes :=
  match decodeF fmtF32 x with
  | .nan g => nan32 (raise invalid g)
  | .inf s => special (fmtF32.sign s + 0x3F800000) 0
  | .fin s m e =>
    if m = 0 then special (fmtF32.sign s) 0
    else
      let y := (toFix false m e).toNat
      if 16 * fixOne ≤ y then fixOut s (fixOne - 2 ^ 200) 0
      else fixOut s (fixOne - 2 * fixOne * fixOne / (expSum (2 * y) 300 0 + fixOne)) 0

end Sys2Proof.Machine
end

