-- ==== Sys2Proof/Machine/RasterMath.lean ====
section
/-! DEFINITION. The arithmetic of the rasterisers and of the bank ROPs: snapping, edges, coverage, interpolation, depth tests, blending
(13_raster R283, R292 to R295, R301, R302, R306). -/

namespace Sys2Proof.Machine

/-! ## f32 operations rounded to nearest even -/

/-- A sum in f32. -/
def add32 (a b : Nat) : Nat := (fAdd fmtF32 .rne a b).bits
/-- A difference in f32. -/
def sub32 (a b : Nat) : Nat := (fSub fmtF32 .rne a b).bits
/-- A product in f32. -/
def mul32 (a b : Nat) : Nat := (fMul fmtF32 .rne a b).bits
/-- An exact value rounded to f32. -/
def round32 (v : FVal) : Nat := (deliver fmtF32 .rne v 0).bits
/-- An integer rounded to f32 (R294). -/
def ofInt32 (x : Int) : Nat := round32 (.fin (decide (x < 0)) x.natAbs 0)

/-- The quotient of two finite magnitudes with enough bits to round it: the last bit says that more follow. -/
def quotX (m n : Nat) : Nat := 2 * (m * 2 ^ 64 / n) + (if m * 2 ^ 64 % n = 0 then 0 else 1)

/-- A quotient in f32 of finite values with a divisor that is not zero (R294, R310). -/
def div32 (a b : Nat) : Nat :=
  match decodeF fmtF32 a, decodeF fmtF32 b with
  | .fin s m e, .fin t n f => if n = 0 then fmtF32.nanBits else round32 (.fin (s != t) (quotX m n) (e - f - 65))
  | _, _ => fmtF32.nanBits

/-- Lerp (R294). -/
def lerp32 (c0 c1 c2 b1 b2 : Nat) : Nat :=
  add32 (add32 c0 (mul32 b1 (sub32 c1 c0))) (mul32 b2 (sub32 c2 c0))

/-! ## Vertices and edges -/

/-- A coordinate times 256 (R292). -/
def times256 : FVal → FVal
  | .fin s m e => .fin s m (e + 8)
  | v => v

/-- A snapped coordinate in 1/256 pixel, or nothing when it is not finite or out of range (R292). -/
def snap (x : Nat) : Option Int :=
  match times256 (decodeF fmtF32 x) with
  | .fin s m e =>
    let v := FVal.fin s m e
    let lo := (toInt (32, true) .rd v).1.toInt
    let hi := (toInt (32, true) .ru v).1.toInt
    if lo < -8388608 ∨ 8388607 < hi then none else some (toInt (32, true) .rne v).1.toInt
  | _ => none

/-- A snapped point. -/
abbrev Pt := Int × Int

/-- The edge function (R292). -/
def edgeFn (a b p : Pt) : Int := (b.1 - a.1) * (p.2 - a.2) - (b.2 - a.2) * (p.1 - a.1)

/-- A snapped triangle with its area; the cull mode leaves out some (R292). -/
structure Tri where
  v0 : Pt
  v1 : Pt
  v2 : Pt
  area : Int
deriving DecidableEq, Repr

/-- Word `j` of vertex `k` of a batch (R287). -/
def vertWord (b : Batch) (k j : Nat) : Nat := (nth b.verts ((4 + 4 * b.attrs) * k + j)).toNat

/-- An f32 number is neither a NaN nor an infinity. -/
def isFinite32 (x : Nat) : Bool :=
  match decodeF fmtF32 x with
  | .fin _ _ _ => true
  | _ => false

/-- The snapped vertex `k` of a batch, when each of its coordinates x, y, z and w is a finite number (R287, R292). -/
def vertPt (b : Batch) (k : Nat) : Option Pt :=
  match snap (vertWord b k 0), snap (vertWord b k 1) with
  | some x, some y => if isFinite32 (vertWord b k 2) && isFinite32 (vertWord b k 3) then some (x, y) else none
  | _, _ => none

/-- Triangle `t` of a batch, or nothing when it covers nothing whatever the pixel (R292). -/
def triOf (b : Batch) (t : Nat) : Option Tri :=
  match vertPt b (3 * t), vertPt b (3 * t + 1), vertPt b (3 * t + 2) with
  | some p, some q, some r =>
    let a := edgeFn p q r
    let dropped := a == 0 || (b.cull == 1 && decide (a < 0)) || (b.cull == 2 && decide (0 < a))
    if dropped then none else some { v0 := p, v1 := q, v2 := r, area := a }
  | _, _, _ => none

/-- One edge accepts a point: inside, or on a top or left edge (R293). -/
def edgeIn (a b p : Pt) : Bool :=
  let e := edgeFn a b p
  decide (0 < e) || (e == 0 && ((a.2 == b.2 && decide (a.1 < b.1)) || decide (b.2 < a.2)))

/-- A triangle covers a point (R293). -/
def Tri.covers (t : Tri) (p : Pt) : Bool :=
  if 0 < t.area then edgeIn t.v0 t.v1 p && edgeIn t.v1 t.v2 p && edgeIn t.v2 t.v0 p
  else edgeIn t.v0 t.v2 p && edgeIn t.v2 t.v1 p && edgeIn t.v1 t.v0 p

/-- The sample point of a pixel (R292). -/
def centre (px py : Nat) : Pt := (256 * px + 128, 256 * py + 128)

/-! ## Cells of a triangle -/

/-- The entry whose sizes a batch's surfaces share (R288, R290). -/
def batchSet (b : Batch) : Nat := (b.colour.orElse fun _ => b.depth).getD 0

/-- The run of cells that holds some snapped coordinates, clipped to a number of pixels (R295). -/
def cellSpan (xs : List Int) (pixels : Nat) : List Nat :=
  let lo := xs.foldl min (xs.headD 0)
  let hi := xs.foldl max (xs.headD 0)
  (List.range ((pixels + 3) / 4)).filter fun c => decide (lo / 1024 ≤ c) && decide ((c : Int) ≤ hi / 1024)

/-- The cells of a stack that a triangle's bounding box touches, in row-major order (R295). -/
def triCells (e : Ste) (t : Tri) (stack : Nat) : List (Nat × Nat) :=
  let cols := cellSpan [t.v0.1, t.v1.1, t.v2.1] e.width
  let rows := cellSpan [t.v0.2, t.v1.2, t.v2.2] e.height
  rows.flatMap fun cy => (cols.filter fun cx => cellStack cx cy == stack).map fun cx => (cx, cy)

/-- Pixel `i` of a cell. -/
def cellPixel (cx cy i : Nat) : Nat × Nat := (4 * cx + i % 4, 4 * cy + i / 4)

/-- The pixels of a cell that a triangle covers (R292, R293, R295). -/
def coverOf (e : Ste) (t : Tri) (cx cy : Nat) : List Nat :=
  (List.range 16).filter fun i =>
    let q := cellPixel cx cy i
    decide (q.1 < e.width) && decide (q.2 < e.height) && t.covers (centre q.1 q.2)

/-- The barycentrics and the depth of a covered pixel (R294). -/
def pixelVals (b : Batch) (k : Nat) (t : Tri) (px py : Nat) : Nat × Nat × Nat :=
  let p := centre px py
  let a := ofInt32 t.area
  let b1 := div32 (ofInt32 (edgeFn t.v2 t.v0 p)) a
  let b2 := div32 (ofInt32 (edgeFn t.v0 t.v1 p)) a
  (b1, b2, lerp32 (vertWord b (3 * k) 2) (vertWord b (3 * k + 1) 2) (vertWord b (3 * k + 2) 2) b1 b2)

/-! ## Attributes -/

/-- The weights of a perspective-correct attribute (R306). -/
def perspWeights (b : Batch) (k b1 b2 : Nat) : Nat × Nat :=
  let q (i : Nat) : Nat := (sfRcp (vertWord b (3 * k + i) 3)).bits
  let b0 := sub32 (sub32 0x3F800000 b1) b2
  let p0 := mul32 b0 (q 0)
  let p1 := mul32 b1 (q 1)
  let p2 := mul32 b2 (q 2)
  let r := (sfRcp (add32 (add32 p0 p1) p2)).bits
  (mul32 p1 r, mul32 p2 r)

/-- Component `c` of attribute `j` of triangle `k` (R306). -/
def attrVal (b : Batch) (persp : Bool) (k j c b1 b2 : Nat) : Word :=
  let w := if persp then perspWeights b k b1 b2 else (b1, b2)
  let v (i : Nat) : Nat := vertWord b (3 * k + i) (4 + 4 * j + c)
  BitVec.ofNat 32 (lerp32 (v 0) (v 1) (v 2) w.1 w.2)

/-! ## Depth and colour -/

/-- The depth test of an entry's function on stored bits (R301). -/
def depthPass (fn zf zd : Nat) : Bool :=
  let nan := (decodeF fmtF32 zf).isNan || (decodeF fmtF32 zd).isNan
  let a := valueKey fmtF32 zf
  let b := valueKey fmtF32 zd
  match fn with
  | 7 => true
  | 1 => !nan && decide (a < b)
  | 2 => !nan && decide (a ≤ b)
  | 3 => !nan && a == b
  | 4 => !nan && decide (b < a)
  | 5 => !nan && decide (b ≤ a)
  | 6 => !nan && a != b
  | _ => false

/-- A blend factor (R279, R302). -/
def factor (code srcA : Nat) : Nat :=
  match code with
  | 0 => 0
  | 1 => 0x3F800000
  | 2 => srcA
  | _ => sub32 0x3F800000 srcA

/-- An f32 narrowed by RNE as CVT does it (R302). -/
def narrow32 (f : Fmt) (sat : Bool) (x : Nat) : Nat := (toFmt f .rne sat (decodeF fmtF32 x)).bits

/-- An f16 widened (R302). -/
def widen16 (x : Nat) : Nat := (toFmt fmtF32 .rne false (decodeF fmtF16 x)).bits

/-- A channel as unorm8 (R302). -/
def unorm8 (x : Nat) : Nat :=
  (toInt (32, true) .rne (decodeF fmtF32 (mul32 (fSaturate x).bits 0x437F0000))).1.toNat % 256

/-- The pixel that a passing fragment writes over the stored one (R302). -/
def ropPixel (e : Ste) (s : List Word) (old : Nat) : Nat :=
  let c (i : Nat) : Nat := (nth s i).toNat
  let join (w : Nat) (f : Nat → Nat) : Nat := ((List.range 4).map fun i => f i * 2 ^ (w * i)).sum
  let x := e.w0.toNat
  match e.fmt with
  | 0 =>
    if bitAt x 12 then
      join 16 fun i => narrow32 fmtF16 false
        (add32 (mul32 (c i) (factor (bits x 14 13) (c 3))) (mul32 (widen16 (old / 2 ^ (16 * i) % 2 ^ 16)) (factor (bits x 16 15) (c 3))))
    else join 16 fun i => narrow32 fmtF16 false (c i)
  | 2 => join 8 fun i => unorm8 (c i)
  | 3 => narrow32 fmtBf16 false (c 0)
  | 4 => narrow32 fmtE4m3 true (c 0)
  | 5 => narrow32 fmtBf16 false (c 0) + 2 ^ 16 * narrow32 fmtBf16 false (c 1)
  | _ => old

/-- The registers of a colour run (R305). -/
def colourRegs (fmt : Nat) : Nat :=
  match fmt with
  | 0 => 4
  | 2 => 4
  | 5 => 2
  | _ => 1

end Sys2Proof.Machine
end

