-- ==== Sys2Proof/Machine/Launches.lean ====
section
/-! DEFINITION. Launch records, group tables, host queues, LAUNCH and completion arrivals (16_scheduling R358 to R364, R383,
17_translation R388, 13_raster R291). -/

namespace Sys2Proof.Machine

/-! ## Reading a launch -/

/-- Why a launch cannot be accepted: the trap that LAUNCH takes, and the offset that a queue reports (R361, R363). -/
structure RecFail where
  cause : Nat
  addr : Nat
  info : Nat
  off : Nat
deriving DecidableEq, Repr

/-- A field of the record that breaks its limits. -/
def brokenAt (off : Nat) : RecFail := { cause := 0x01, addr := 0, info := off, off := off }

/-- A word read for a launch, as a relaxed load of the submitter (R359). -/
def recordWord (s : State) (core ctx : Nat) (level : Level) (off va : Nat) : Except RecFail Word :=
  match translate s core ctx level Access.load va with
  | .error e => .error { cause := e.cause, addr := va, info := e.tinfo, off := off }
  | .ok t =>
    match poisonOf s core t with
    | some m => .error { cause := 0x40, addr := va, info := m, off := off }
    | none => .ok (BitVec.ofNat 32 (leNat (coreBytes s core t 4)))

/-- Words read at rising addresses. -/
def recordWords (s : State) (core ctx : Nat) (level : Level) (off va n : Nat) : Except RecFail (List Word) :=
  firstErr (fun i => recordWord s core ctx level off ((va + 4 * i) % 2 ^ 64)) (List.range n)

/-- Word `i` (offset `4 i`) of a record. -/
def rw (x : List Word) (i : Nat) : Nat := (nth x i).toNat

/-- The 64-bit field at words `i` and `i + 1` of a record. -/
def rd (x : List Word) (i : Nat) : Nat := rw x i + 2 ^ 32 * rw x (i + 1)

/-- The shape of a block that a record gives: wave width, physical registers, waves, regroup capacity in fibres. -/
def recWidth (x : List Word) : Nat := 16 * 2 ^ (rw x 3 % 4)
/-- Physical registers of a lane slot. -/
def recP (x : List Word) : Nat := bits (rw x 3) 21 9
/-- Architectural registers. -/
def recN (x : List Word) : Nat := bits (rw x 3) 8 2
/-- Waves of a block. -/
def recWaves (x : List Word) : Nat := bits (rw x 3) 25 22 + 1
/-- Lane-private bytes of a fibre. -/
def recL (x : List Word) : Nat := rw x 8 % 2 ^ 12
/-- Accumulator slabs of a block. -/
def recSlabs (x : List Word) : Nat := bits (rw x 8) 17 12
/-- Regroup capacity in fibres. -/
def recCap (x : List Word) : Nat := rw x 9 % 2 ^ 16
/-- Blocks of the launch. -/
def recBlocks (x : List Word) : Nat := rw x 4 * rw x 5 * rw x 6
/-- The stack mask. -/
def recMask (x : List Word) (stack : Nat) : Bool := bitAt (rw x 12) (22 + stack)
/-- Save-on-wait is allowed. -/
def recSaves (x : List Word) : Bool := bitAt (rw x 9) 20
/-- Migration is allowed. -/
def recMoves (x : List Word) : Bool := bitAt (rw x 9) 21
/-- The whole launch is co-resident. -/
def recCoAll (x : List Word) : Bool := bitAt (rw x 9) 18
/-- The data is replicated in both stacks. -/
def recReplica (x : List Word) : Bool := bitAt (rw x 9) 22
/-- The power-density code of a block, in units of 0.05 W/mm². -/
def recDensity (x : List Word) : Nat := if bits (rw x 12) 21 12 = 0 then 100 else bits (rw x 12) 21 12
/-- The priority. -/
def recPrio (x : List Word) : Nat := bits (rw x 9) 17 16
/-- A quality level is available. -/
def recLevel (x : List Word) (q : Nat) : Bool := rw x (20 + q) != 2 ^ 32 - 1

/-- The checks of the launch record map, by the offset of the field, for a launch or for a fragment record (R358, R359, R363). The
product of the block counts is checked at the first of them (log 29). -/
def recordChecks (x : List Word) (frag : Bool) : List (Nat × Bool) :=
  [(0x00, rd x 0 % 64 != 0),
   (0x0C, rw x 3 % 4 == 3 || recN x == 0 || decide (124 < recN x) || decide (recP x < recN x) || decide (4096 < recP x) ||
     decide (65536 < recP x * recWidth x * recWaves x) || bits (rw x 3) 31 26 != 0),
   (0x10, !frag && (rw x 4 == 0 || decide (2 ^ 32 ≤ recBlocks x + 1 ∧ recBlocks x ≠ 2 ^ 32 - 1))),
   (0x14, !frag && rw x 5 == 0), (0x18, !frag && rw x 6 == 0),
   (0x1C, decide (524288 < rw x 7) || rw x 7 % 256 != 0),
   (0x20, decide (2048 < recL x) || recL x % 16 != 0 || decide (32 < recSlabs x) || decide (16 < bits (rw x 8) 22 18) ||
     bits (rw x 8) 31 23 != 0),
   (0x24, (recCap x != 0 && decide (recCap x < recWidth x * recWaves x)) || bits (rw x 9) 31 23 != 0 || bitAt (rw x 9) 19 != frag ||
     (frag && (recCoAll x || recMoves x || bitAt (rw x 9) 22))),
   (0x28, rd x 10 % 4 != 0 || (rw x 12 % 128 == 0 && rd x 10 != 0)),
   (0x30, decide (120 < rw x 12 % 128) ||
     (recSaves x && (decide (bits (rw x 12) 11 7 < 12) || decide (24 < bits (rw x 12) 11 7))) ||
     decide (150 < bits (rw x 12) 21 12) || bits (rw x 12) 23 22 == 0 || bits (rw x 12) 31 24 != 0),
   (0x34, decide (256 < rw x 13 % 512) || bits (rw x 13) 31 9 != 0 || (frag && rw x 13 != 0)),
   (0x38, rd x 14 % 16 != 0 || (rw x 13 == 0 && rd x 14 != 0)),
   (0x40, rd x 16 % 16 != 0),
   (0x4C, frag && rw x 19 != 0),
   (0x50, rw x 19 != 0 && !recLevel x 0)] ++
  ((List.range 4).map fun q => (0x60 + 4 * q, recLevel x q && rw x (24 + q) == 0)) ++
  [(0x70, rd x 28 % 256 != 0 || ((recSaves x || recMoves x) && rd x 28 == 0)),
   (0x78, (x.drop 30).any fun w => w != 0)]

/-- The offset of the first failing field (R361, R363). -/
def firstBroken (cs : List (Nat × Bool)) : Option Nat := (cs.find? Prod.snd).map Prod.fst

/-! ## Groups and empty cores -/

/-- The regroup area of a block (R366). -/
def regroupBytes (x : List Word) : Nat := (recCap x * (4 * recN x + 16 + recL x) + 255) / 256 * 256

/-- How many times `b` goes into `a`; nothing needed fits always. -/
def times (a b bound : Nat) : Nat := if b = 0 then bound else min bound (a / b)

/-- The blocks of a record that fit on one empty core (R360, R366, 08_memory_spaces R165). -/
def coreCapacity (x : List Word) : Nat :=
  times 65536 (recP x * recWidth x * recWaves x)
    (times (64 * (times 2048 (recL x) 32)) (recWidth x * recWaves x)
      (times 524288 (rw x 7 + regroupBytes x) (times 32 (recSlabs x) (32 / recWaves x))))

/-- The cores of a stack that repair has not fenced (20_errors R439). -/
def openCores (s : State) (stack : Nat) : List Nat :=
  ((List.range 256).map (256 * stack + ·)).filter fun c => !s.dev.fencedCores.contains c

/-- The most blocks of a record that one stack of its mask could hold at once on empty cores, within the context's quota (R360). -/
def stackCapacity (s : State) (ctx : Nat) (x : List Word) : Nat :=
  let quota := ((s.ctxs.look ctx).map fun c => c.cfg.coreQuota).getD 0
  (([0, 1].filter (recMask x)).map fun t => coreCapacity x * min (openCores s t).length quota).foldl max 0

/-- A group read from the group table with its member list; a member list that breaks a limit is reported at 0x38 (R360, log 29). -/
def readGroup (s : State) (core ctx : Nat) (level : Level) (x : List Word) (i : Nat) : Except RecFail Group :=
  match recordWords s core ctx level 0x38 (rd x 14 + 16 * i) 4 with
  | .error e => .error e
  | .ok e =>
    let n := rw e 0 / 2 ^ 16
    if bits (rw e 0) 15 2 != 0 || n == 0 || rw e 1 != 0 || rd e 2 % 4 != 0 then .error (brokenAt 0x38)
    else
      match recordWords s core ctx level 0x38 (rd e 2) n with
      | .error f => .error f
      | .ok ms =>
        let idxs := ms.map BitVec.toNat
        if idxs.any (fun m => decide (recBlocks x ≤ m)) || decide (idxs.eraseDups.length < n) then .error (brokenAt 0x38)
        else .ok { co := bitAt (rw e 0) 0, home0 := bitAt (rw e 0) 1, members := idxs }

/-- The offsets of the fields that break a limit of the record itself: a co-resident-all launch that no stack could hold breaks that of 0x24
(R358, R360, R363). -/
def brokenFields (s : State) (ctx : Nat) (x : List Word) : List Nat :=
  ((recordChecks x false).filter Prod.snd).map Prod.fst ++
    (if recCoAll x && decide (stackCapacity s ctx x < recBlocks x) then [0x24] else [])

/-- The limits over all groups are broken: a block in more than four of them, or a co-resident one that no stack could hold (R360). -/
def groupBreach (s : State) (ctx : Nat) (x : List Word) (gs : List Group) : Bool :=
  let all := gs.flatMap Group.members
  all.any (fun m => decide (4 < all.count m)) || gs.any (fun g => g.co && decide (stackCapacity s ctx x < g.members.length))

/-- The failures and the answers of reads. -/
def readsOf {α : Type} (rs : List (Except RecFail α)) : List RecFail × List α :=
  (rs.filterMap fun r => match r with
      | .error e => some e
      | .ok _ => none,
    rs.filterMap fun r => match r with
      | .ok a => some a
      | .error _ => none)

/-- What a launch holds once its record and tables have been read. -/
structure LaunchData where
  record : List Word
  consts : List Word
  groups : List Group
deriving DecidableEq, Repr

/-- The record, the constants and the groups of a launch read and checked at acceptance, or everything that fails (R358 to R360). A table is
not read when its count or its address breaks its limit. -/
def readLaunch (s : State) (core ctx : Nat) (level : Level) (va : Nat) : Except (List RecFail) LaunchData :=
  match recordWords s core ctx level 0 va 64 with
  | .error e => .error [e]
  | .ok x =>
    let bad := brokenFields s ctx x
    let cs := readsOf (if bad.contains 0x28 || decide (120 < rw x 12 % 128) then []
      else [recordWords s core ctx level 0x28 (rd x 10) (rw x 12 % 128)])
    let gs := readsOf (if bad.contains 0x34 || bad.contains 0x38 then [] else (List.range (rw x 13)).map (readGroup s core ctx level x))
    match bad.map brokenAt ++ cs.1 ++ gs.1 ++ (if gs.1.isEmpty && groupBreach s ctx x gs.2 then [brokenAt 0x38] else []) with
    | [] => .ok { record := x, consts := cs.2.flatten, groups := gs.2 }
    | fs => .error fs

/-- The bytes that the acceptance of a launch reads: the record, the constants, the group table and its member lists (R358 to R360). -/
def launchReads (s : State) (core ctx : Nat) (level : Level) (va : Nat) : List (Nat × Nat) :=
  (va, 256) :: match recordWords s core ctx level 0 va 64 with
    | .ok x => (rd x 10, 4 * (rw x 12 % 128)) :: (rd x 14, 16 * rw x 13) :: (List.range (rw x 13)).filterMap fun i =>
        match recordWords s core ctx level 0x38 (rd x 14 + 16 * i) 4 with
        | .ok e => some (rd e 2, 4 * (rw e 0 / 2 ^ 16))
        | .error _ => none
    | .error _ => []

/-- The failure that LAUNCH takes: the lowest code, and of a broken limit the first field (R363, 02_encoding R43). -/
def launchTrap (fs : List RecFail) : RecFail := (least (fun e : RecFail => 2 ^ 16 * e.cause + e.off) fs).getD (brokenAt 0)

/-- The offset of the first failing field, which a queue reports (R361). -/
def firstFailing (fs : List RecFail) : Nat := ((least RecFail.off fs).map RecFail.off).getD 0

/-! ## Acceptance -/

/-- A record with its priority capped by the context's (R363, 17_translation R387). -/
def cappedRecord (s : State) (ctx : Nat) (x : List Word) : List Word :=
  let cap := ((s.ctxs.look ctx).map fun c => c.cfg.prioCap).getD 0
  x.set 9 (BitVec.ofNat 32 (rw x 9 - 2 ^ 16 * recPrio x + 2 ^ 16 * min cap (recPrio x)))

/-- A launch accepted: it takes the last place among the accepted launches, and its elapsed count starts (R361, R363, R383). -/
def acceptLaunch (s : State) (ctx : Nat) (level : Level) (queue : Option Nat) (tag : Word) (va : Nat) (d : LaunchData) : State :=
  let l : Launch :=
    { ctx := ctx, level := level, queue := queue, tag := tag, recVa := va, record := cappedRecord s ctx d.record, groups := d.groups,
      consts := d.consts, next := 0, early := [], done := 0, level0 := 0, frame0 := s.dev.frame0, accepted := s.dev.cycles,
      batch := none, waiting := none, stopper := false }
  { s with work := { s.work with
      launches := s.work.launches.put s.work.nextLaunch l
      queue := s.work.queue ++ [s.work.nextLaunch]
      nextLaunch := s.work.nextLaunch + 1 } }

/-- The frame of a LAUNCH that is refused: a field out of its limits has its offset in tinfo (R362). -/
def launchFrame (r : Wave) (f : RecFail) : Trap :=
  let t := mkTrap f.cause (batch r) f.addr f.info
  if f.cause = 0x01 then { t with infoTold := BitVec.allOnes 32 } else t

/-- LAUNCH: a launch from a wave (R362, R363). Acceptance is a release at device scope of the wave's earlier accesses. -/
def execLaunch (d a : SReg) (s : State) : Host.Outcome State Fault Refusal :=
  runWord s fun k r w =>
    let ctx := ctxOf s r
    let va := (spair r a.toNat).toNat
    let reads := launchReads s (coreOf s r) ctx r.level va
    if !readsOpen s r reads then .hold
    else if va % 256 != 0 then .trap (mkTrap 0x08 (batch r) va 0)
    else
      match readLaunch s (coreOf s r) ctx r.level va, s.ctxs.look ctx with
      | .error fs, _ => .trap (launchFrame r (launchTrap fs))
      | .ok _, none => .hold
      | .ok x, some c =>
        if 64 ≤ c.devQueue.length then .ok (noteReads (s.setWave k (setSreg w d.toNat 1)) k r reads)
        else if !releaseReady s r then .hold
        else
          let s1 := acceptLaunch (noteReads (s.setWave k (setSreg w d.toNat 0)) k r reads) ctx r.level none 0 va x
          .ok ({ s1 with mem := releaseBytes s1.mem (coreOf s r) }.setCtx ctx { c with devQueue := c.devQueue ++ [s.work.nextLaunch] })

/-! ## Host queues -/

/-- A field of the launch queue descriptor of a context's queue (17_translation R388). -/
def queueField (s : State) (ctx q off n : Nat) : Option Nat :=
  match s.ctxs.look ctx with
  | some c => hwRead s ctx (c.cfg.lqTable + 32 * q + off) n
  | none => none

/-- A launch queue descriptor keeps its limits: the ring's base and size, and the zero fields (17_translation R388). -/
def queueLegal (s : State) (ctx q : Nat) : Bool :=
  match queueField s ctx q 0 8, queueField s ctx q 8 4, queueField s ctx q 20 4, queueField s ctx q 24 8 with
  | some base, some w, some a, some b =>
    base % 16 == 0 && decide (4 ≤ w % 16) && decide (w % 16 ≤ 12) && bits w 31 6 == 0 && a == 0 && b == 0
  | _, _, _, _ => false

/-- A queue is enabled, its descriptor keeps its limits, and its consumer index has not reached the producer index last read. A queue whose
descriptor breaks a limit takes nothing (17_translation R388; DESIGN CHOICE, log 73). -/
def queueDue (s : State) (ctx q : Nat) : Bool :=
  match s.ctxs.look ctx, queueField s ctx q 8 4, queueField s ctx q 16 4 with
  | some c, some w, some cons =>
    !c.stopped && queueLegal s ctx q && bitAt w 4 && (c.producers.look q).isSome && c.producers.get q 0 != cons
  | _, _, _ => false

/-- The home slice of a queue's descriptor takes the write of the consumer index now (12_ordered_sections R276). -/
def descFree (s : State) (ctx q : Nat) : Bool := ((s.ctxs.look ctx).map fun c => hwFree s ctx (c.cfg.lqTable + 32 * q) 32).getD true

/-- A core number that no core has: reads by a base die use no TLB. -/
def noCore : Nat := 512

/-- The level of the launches of a queue: its supervisor bit as it stood when the context's record was taken (17_translation R386, R388;
DEDUCED, log 74). -/
def queueLevel (s : State) (ctx q : Nat) : Level :=
  if ((s.ctxs.look ctx).map fun c => c.superQs.contains q).getD false then .supervisor else .user

/-- The next ring entry of a queue, and the record, constants and groups that it names, can be read now (12_ordered_sections R276). -/
def entryOpen (s : State) (ctx q : Nat) : Bool :=
  match queueField s ctx q 0 8, queueField s ctx q 8 4, queueField s ctx q 16 4 with
  | some base, some w, some cons =>
    let at_ := base + 16 * (cons % 2 ^ (w % 16))
    hwOpen s ctx at_ 16 && match hwRead s ctx at_ 8 with
      | some va => (launchReads s noCore ctx (queueLevel s ctx q) va).all fun r => hwOpen s ctx r.1 r.2
      | none => true
  | _, _, _ => true

/-- The queues whose supervisor bit is set in the launch queue table that a context's record names (17_translation R388). -/
def superQueues (s : State) (ctx : Nat) : List Nat := (List.range 8).filter fun q => ((queueField s ctx q 8 4).map fun w => bitAt w 5).getD false

/-- LAUNCH_DOORBELL: the device reads the producer index and takes entries up to it (17_translation R388). -/
def execLaunchDoorbell (ctx q : Nat) (s : State) : Host.Outcome State Fault Refusal :=
  runEvent s (.launchDoorbell ctx q) ((s.ctxs.look ctx).isSome && decide (q < 8)) fun s =>
    match s.ctxs.look ctx, queueField s ctx q 12 4 with
    | some c, some p =>
      let s1 := s.setCtx ctx { c with producers := c.producers.put q p }
      if queueDue s1 ctx q && !s1.pending.contains (.launchQueueEntry ctx q) then s1.post (.launchQueueEntry ctx q) else s1
    | _, _ => s

/-- One ring entry taken: accepted, or refused with event 1 (R361). An unaligned record or one that cannot be read is refused at
offset 0 (log 29). -/
def takeEntry (s : State) (ctx q : Nat) (va tag : Nat) : State :=
  let level := queueLevel s ctx q
  let res := if va % 256 != 0 then .error [brokenAt 0] else readLaunch s noCore ctx level va
  match res with
  | .ok d => acceptLaunch s ctx level (some q) (BitVec.ofNat 32 tag) va d
  | .error fs => postEvent s ctx 0 1 [(8, tag), (12, firstFailing fs)]

/-- LAUNCH_QUEUE_ENTRY: the scheduler takes the next entry of a queue and writes the consumer index back (R361, 17_translation R388). -/
def execLaunchQueueEntry (ctx q : Nat) (s : State) : Host.Outcome State Fault Refusal :=
  runEvent s (.launchQueueEntry ctx q) (queueDue s ctx q && descFree s ctx q && entryOpen s ctx q) fun s =>
    match queueField s ctx q 0 8, queueField s ctx q 8 4, queueField s ctx q 16 4, s.ctxs.look ctx with
    | some base, some w, some cons, some c =>
      let at_ := base + 16 * (cons % 2 ^ (w % 16))
      match hwRead s ctx at_ 8, hwRead s ctx (at_ + 8) 4 with
      | some va, some tag =>
        let s1 := takeEntry s ctx q va tag
        let s2 := (hwWrite s1 ctx (c.cfg.lqTable + 32 * q + 16) 4 ((cons + 1) % 2 ^ 32)).getD s1
        if queueDue s2 ctx q then s2.post (.launchQueueEntry ctx q) else s2
      | _, _ => s
    | _, _, _, _ => s

/-! ## Completion arrivals -/

/-- The reason why an arrival at an object of device memory cannot be made: a translation fault, a read-duplicate page that the page service
cannot collapse, or an S page (13_raster R291, 17_translation R403). -/
def arrivalFault (s : State) (ctx : Nat) (level : Level) (va : Nat) : Option Nat :=
  match translate s noCore ctx level Access.atom va with
  | .error e => some e.cause
  | .ok t => if (splitFault s ctx va Access.atom t).isSome then some 0x11 else if t.space == .dev .s then some 0x13 else none

/-- An arrival at an object of device memory can be made now: its line is free, and its page, where it is read-duplicate, has collapsed
(12_ordered_sections R276, 17_translation R403). -/
def arrivalFree (s : State) (ctx va : Nat) : Bool := objFree s (.dev ctx va) && !collapsible s ctx va

/-- The source of an arrival: what completed, on which stack, at which level (13_raster R291). -/
def arrivalSource (kind stack : Nat) (level : Level) : Nat := kind + 4 * stack + (if level = .user then 8 else 0)

/-- COMPLETION_ARRIVAL of a launch, a batch or a PLOT: one arrival at its barrier, as a release; where it cannot be made, or finds A = 0,
event 16 (13_raster R291, 16_scheduling R364, 14_plot_units R316). `source` is 0 for a launch, 1 for a batch, 2 for a PLOT, 4 more on
stack 1, and 8 more where it was submitted at user level. -/
def execCompletionArrival (ctx va record source : Nat) (s : State) : Host.Outcome State Fault Refusal :=
  let e : Ev := .completionArrival ctx va record source
  let level : Level := if source / 8 % 2 = 1 then .user else .supervisor
  runEvent s e (s.pending.contains e && ((arrivalFault s ctx level va).isSome || arrivalFree s ctx va)) fun s =>
    let tell (s : State) (reason : Nat) : State :=
      postEvent s ctx (source / 4 % 2) 16 [(8, va % 2 ^ 32), (12, va / 2 ^ 32), (0x10, record % 2 ^ 32), (0x14, record / 2 ^ 32),
        (0x18, reason + 256 * (source % 4))]
    match arrivalFault s ctx level va with
    | some reason => tell s reason
    | none =>
      let r := updateObj s (.dev ctx va) .arrive
      if r.2 then tell r.1 0x20 else r.1

end Sys2Proof.Machine
end

