-- ==== Sys2Proof/Machine/Admit.lean ====
section
/-! DEFINITION. Whether a block fits on a core, its place there, its start and what it leaves behind (16_scheduling R359, R366, R379,
R383, 08_memory_spaces R163 to R165, 15_execution_model R325, R350, 17_translation R393). -/

namespace Sys2Proof.Machine

/-! ## The fit table -/

/-- The record of a block's launch. -/
def recordOf (s : State) (b : Block) : List Word := ((s.work.launches.look b.launch).map Launch.record).getD []

/-- The blocks that stand on a core. -/
def residents (s : State) (core : Nat) : List (Nat × Block) := s.work.blocks.filter fun p => p.2.core == core && p.2.status != .saved

/-- The wave slots that a block holds: those of its waves, and those of waves that a regroup pool may still start (R366, 15_execution_model
R329, R348, log 30). -/
def heldSlots (s : State) (p : Nat × Block) : List Nat :=
  if recCap (recordOf s p.2) != 0 then p.2.place.slots
  else ((List.range p.2.place.slots.length).zip p.2.place.slots).filterMap fun q =>
    if (s.wave (waveKey p.1 q.1)).isSome then some q.2 else none

/-- A wave slot's window of L bytes lies in a physical group of 16 lanes (08_memory_spaces R165). -/
def usesGroup (slot width g : Nat) : Bool := (List.range (width / 16)).any fun j => (slot + j) % 4 == g

/-- The lane-private bytes that a group of lanes gives to slots already held: each slot with its width and L. -/
def groupBytes (held : List (Nat × Nat × Nat)) (g : Nat) : Nat :=
  ((held.filter fun h => usesGroup h.1 h.2.1 g).map fun h => h.2.2).sum

/-- The slots held on a core, each with its width and L. -/
def coreSlots (s : State) (core : Nat) : List (Nat × Nat × Nat) :=
  (residents s core).flatMap fun p => (heldSlots s p).map fun k => (k, recWidth (recordOf s p.2), recL (recordOf s p.2))

/-- A wave slot is free and its lanes have room for a window of L bytes. -/
def slotFits (held : List (Nat × Nat × Nat)) (width l slot : Nat) : Bool :=
  !(held.any fun h => h.1 == slot) &&
    (l == 0 || (List.range 4).all fun g => !usesGroup slot width g || decide (groupBytes held g + l ≤ 2048))

/-- Wave slots for `n` waves, lowest first (R366, 08_memory_spaces R165). -/
def pickSlots (width l : Nat) : Nat → List (Nat × Nat × Nat) → Option (List Nat)
  | 0, _ => some []
  | n + 1, held =>
    match (List.range 32).find? (slotFits held width l) with
    | none => none
    | some k => (pickSlots width l n ((k, width, l) :: held)).map (k :: ·)

/-- The physical registers that the waves of a core hold. -/
def coreRegs (s : State) (core : Nat) : Nat :=
  ((residents s core).map fun p => (heldSlots s p).length * recP (recordOf s p.2) * recWidth (recordOf s p.2)).sum

/-- Two runs are apart. -/
def apart (a n b m : Nat) : Bool := n == 0 || m == 0 || decide (a + n ≤ b) || decide (b + m ≤ a)

/-- The scratchpad and regroup bytes of a block. -/
def arrayNeed (x : List Word) : Nat := rw x 7 + regroupBytes x

/-- The places for a run in an array of `size` units, among runs already held. -/
def placesFor (size unit n : Nat) (held : List (Nat × Nat)) : List Nat :=
  if n = 0 then [0]
  else ((List.range (size / unit + 1)).map (unit * ·)).filter fun a => decide (a + n ≤ size) && held.all fun h => apart a n h.1 h.2

/-- A free element of a list. -/
def pick (s : State) (i : Nat) (l : List Nat) : Option Nat := l[Config.arrival s.tick i % l.length]?

/-- The place of a block of a record on a core, when it fits; which of the places it takes is free (R366, R368). -/
def fitPlace (s : State) (x : List Word) (core : Nat) : Option Place :=
  let rs := residents s core
  let need := recP x * recWidth x * recWaves x
  if 65536 < coreRegs s core + need then none
  else
    match pickSlots (recWidth x) (recL x) (recWaves x) (coreSlots s core),
        pick s (2 * core) (placesFor 524288 256 (arrayNeed x) (rs.map fun p => (p.2.place.spm, arrayNeed (recordOf s p.2)))),
        pick s (2 * core + 1) (placesFor 32 1 (recSlabs x) (rs.map fun p => (p.2.place.slab, recSlabs (recordOf s p.2)))) with
    | some slots, some a, some z => some { slots := slots, spm := a, slab := z }
    | _, _, _ => none

/-- The cores that hold blocks of a context. -/
def ctxCores (s : State) (ctx : Nat) : List Nat :=
  ((s.work.blocks.filter fun p => p.2.ctx == ctx && p.2.status != .saved).map fun p => p.2.core).eraseDups

/-- A core is open to a context: not closed by its quota (R366, 17_translation R387). -/
def quotaOpen (s : State) (ctx core : Nat) : Bool :=
  let cs := ctxCores s ctx
  cs.contains core || decide (cs.length < ((s.ctxs.look ctx).map fun c => c.cfg.coreQuota).getD 0)

/-- What heats a die: the core and the power-density code of each block that stands on it (R379). -/
def dieLoads (s : State) (stack : Nat) : List (Nat × Nat) :=
  (s.work.blocks.filter fun p => p.2.stack == stack && p.2.status != .saved).map fun p => (p.2.core, recDensity (recordOf s p.2))

/-- The predicted heat flux of a cell of a die, in thousandths of 1 W/cm²: the codes of its blocks, each unit of which is 5 W/cm², weighted by
the area that each core covers, and the measured floor (R379). -/
def cellFlux (s : State) (stack : Nat) (loads : List (Nat × Nat)) (c : Nat) : Nat :=
  Config.floorFlux stack s.tick c + (loads.map fun p => Config.coverWeight p.1 c * 5 * p.2).sum

/-- The predicted fluxes of a die's 32 × 32 cells (R379). -/
def dieFluxes (s : State) (stack : Nat) (loads : List (Nat × Nat)) : List Nat := (List.range 1024).map (cellFlux s stack loads)

/-- The predicted peak temperature of a die, in °C (R379). -/
def peakTemp (s : State) (stack : Nat) (loads : List (Nat × Nat)) : Nat :=
  ((List.range 1024).map (Config.cellTemp stack s.tick (dieFluxes s stack loads))).foldl max 0

/-- The heat rule for one more block of a record on a core: the predicted peak flux is at most 750 W/cm² and the predicted peak temperature at
most the limit; a die without a block admits any candidate (R379, 01_machine R10). -/
def heatAdmits (s : State) (x : List Word) (core : Nat) : Bool :=
  let loads := dieLoads s (stackOf core)
  loads.isEmpty ||
    (let all := (core, recDensity x) :: loads
     decide ((dieFluxes s (stackOf core) all).foldl max 0 ≤ 750000) && decide (peakTemp s (stackOf core) all ≤ s.dev.tempLimit))

/-- A remote write under way carries the generation that a core's next allocation would have, and is not for a block that stands there with it:
the core waits with the allocation (10_memory_instructions R213). -/
def staleWrite (s : State) (core : Nat) : Bool :=
  let gen := (s.work.gens.get core 0).toNat
  let lives (blk : Nat) : Bool := blk == noBlock || ((s.block blk).map fun b => b.core == core && b.gen.toNat == gen && b.status != .saved).getD false
  (s.pending.any fun e => match e with
    | .remoteMessage m => m.core == core && m.gen == gen && !lives m.blk
    | _ => false) ||
    s.work.copies.any fun p => !p.2.started && p.2.targets.any fun t => t.2.2 == core && t.2.1 == gen && !lives t.1

/-- A stack admits blocks: it has not been contained, and it does not throttle (20_errors R443, R446). -/
def stackRuns (s : State) (stack : Nat) : Bool := !s.dev.contained.contains stack && (s.dev.throttling.look stack).isNone

/-- A core is open to a block: by its context's quota, by its heat, and by the writes under way to what it last held (R366). -/
def coreOpen (s : State) (ctx : Nat) (x : List Word) (core : Nat) : Bool := quotaOpen s ctx core && heatAdmits s x core && !staleWrite s core

/-- The cores of a stack on which a block of a record fits now, each with its place; a stopped context places no block (R366, 20_errors R443). -/
def fitCores (s : State) (ctx : Nat) (x : List Word) (stack : Nat) : List (Nat × Place) :=
  if stackRuns s stack && ((s.ctxs.look ctx).map fun c => !c.stopped).getD false then
    ((openCores s stack).filter (coreOpen s ctx x)).filterMap fun c => (fitPlace s x c).map fun p => (c, p)
  else []

/-! ## What arrays hold -/

/-- Bytes of a core's array that a block takes over: those its own context left; the others are cleared (08_memory_spaces R164,
17_translation R393). -/
def takeBytes (s : State) (ctx core a n : Nat) : Map Byte :=
  (s.work.left.filter fun p => decide (2 ^ 20 * core + a ≤ p.1) && decide (p.1 < 2 ^ 20 * core + a + n) && p.2.1 == ctx).map fun p =>
    (p.1 - (2 ^ 20 * core + a), p.2.2)

/-- Words of a core's accumulator store that a block takes over (17_translation R393). -/
def takeSlabs (s : State) (ctx core z n : Nat) : Map Word :=
  (s.work.leftSlabs.filter fun p => decide (2 ^ 16 * core + 1024 * z ≤ p.1) && decide (p.1 < 2 ^ 16 * core + 1024 * (z + n)) && p.2.1 == ctx).map
    fun p => (p.1 - (2 ^ 16 * core + 1024 * z), p.2.2)

/-- A core that takes a block of a launch: the residue of its arrays with the block's runs taken out, and its fetch buffers without the lines
of the launch (02_encoding R18). -/
def clearLeft (s : State) (core launch a n z m : Nat) : State :=
  { s with work := { s.work with
      fetch := s.work.fetch.filter fun l => !(l.core == core && l.launch == launch)
      left := s.work.left.filter fun p => !(decide (2 ^ 20 * core + a ≤ p.1) && decide (p.1 < 2 ^ 20 * core + a + n))
      leftSlabs := s.work.leftSlabs.filter fun p =>
        !(decide (2 ^ 16 * core + 1024 * z ≤ p.1) && decide (p.1 < 2 ^ 16 * core + 1024 * (z + m))) } }

/-- What a block leaves in the arrays of its core. -/
def leaveArrays (s : State) (b : Block) : State :=
  let left := b.spm.foldl (fun m p => m.put (2 ^ 20 * b.core + b.place.spm + p.1) (b.ctx, p.2)) s.work.left
  let slabs := b.slabs.foldl (fun m p => m.put (2 ^ 16 * b.core + 1024 * b.place.slab + p.1) (b.ctx, p.2)) s.work.leftSlabs
  { s with work := { s.work with left := left, leftSlabs := slabs } }

/-- A block entered on a core: its arrays take what its context left there. -/
def enterCore (s : State) (blk : Nat) (b : Block) (x : List Word) : State :=
  let b1 := { b with
    spm := takeBytes s b.ctx b.core b.place.spm (rw x 7)
    slabs := takeSlabs s b.ctx b.core b.place.slab (recSlabs x) }
  (clearLeft s b.core b.launch b.place.spm (arrayNeed x) b.place.slab (recSlabs x)).setBlock blk b1

/-! ## Quality levels -/

/-- The elapsed count of a launch against its deadline (R383). -/
def elapsed (s : State) (l : Launch) : Nat := l.frame0 + (s.dev.cycles - l.accepted)

/-- The cores that a launch can use: those of its stacks that are not fenced, at most its context's quota (R383, log 31). -/
def usableCores (s : State) (l : Launch) : Nat :=
  min (((([0, 1].filter (recMask l.record)).map fun t => (openCores s t).length)).sum)
    (((s.ctxs.look l.ctx).map fun c => c.cfg.coreQuota).getD 0)

/-- The first level from `q` on that is available and in time, or the last available one reached (R383). -/
def levelFrom (x : List Word) (r c left : Nat) : Nat → Nat → Nat
  | 0, q => q
  | fuel + 1, q =>
    if recLevel x q && decide (r * rw x (24 + q) ≤ c * left) then q
    else
      match ([0, 1, 2, 3].filter fun j => decide (q < j) && recLevel x j).head? with
      | some j => levelFrom x r c left fuel j
      | none => q

/-- The level of a block at its dispatch (R383). After the deadline the last available level is taken (log 31). -/
def levelNow (s : State) (l : Launch) : Nat :=
  let d := rw l.record 19
  if d = 0 then 0
  else if d ≤ elapsed s l then (([0, 1, 2, 3].filter (recLevel l.record)).getLast?).getD 0
  else levelFrom l.record (recBlocks l.record - (l.next + l.early.length)) (usableCores s l) (d - elapsed s l) 4 l.level0

/-- The entry packet of a level (R358, R383). -/
def entryOf (x : List Word) (q : Nat) : Nat := if rw x 19 = 0 then rw x 2 else rw x (20 + q)

/-! ## The start of a block -/

/-- The waves of a block started on its core: their fibres live at the entry packet, the constants in the uniform registers (R359,
15_execution_model R325, R350). `fibres` gives each wave's fibres from the first free identity. -/
def startWaves (s : State) (blk : Nat) (b : Block) (l : Launch) (fibres : Nat → Nat → Map Fibre) (regs : Wave → Wave) : State :=
  (List.range (recWaves l.record)).foldl (fun s n =>
    let fs := fibres n s.work.nextUid
    let w := regs (freshWave blk n (nth l.record 3) l.level (BitVec.ofNat 64 (rd l.record 0)) l.consts fs)
    let s1 := s.setWave (waveKey blk n) w
    joinCore { s1 with work := { s1.work with nextUid := s1.work.nextUid + recWidth l.record } } b.core (waveKey blk n)) s

/-- Every lane slot of a wave live at the entry packet. -/
def launchFibres (x : List Word) (entry _n uid : Nat) : Map Fibre :=
  (List.range (recWidth x)).map fun i => (i, freshFibre (uid + i) entry)

/-- A block of a launch placed on a core and started. Its start is an acquire (R359, R363). -/
def startBlock (s : State) (id : Nat) (l : Launch) (idx core quality : Nat) (p : Place) (fibres : Nat → Nat → Map Fibre)
    (regs : Wave → Wave) : State :=
  let b := freshBlock id idx l.ctx (stackOf core) core (s.work.gens.get core 0).toNat quality (rw l.record 7) p
  let blk := s.work.nextBlock
  let s1 := enterCore { s with work := { s.work with nextBlock := blk + 1 } } blk b l.record
  let s2 := startWaves s1 blk b l fibres regs
  { s2 with mem := acquireBytes s2.mem core }

/-- The generation of a core's allocations, raised by one (10_memory_instructions R213). -/
def bumpGen (s : State) (core : Nat) : State :=
  { s with work := { s.work with gens := s.work.gens.put core (s.work.gens.get core 0 + 1) } }

end Sys2Proof.Machine
end

