-- ==== Sys2Proof/Machine/Fibre.lean ====
section
/-! DEFINITION. The fibre words and the regroup pools (15_execution_model R344 to R349, 19_traps R431). -/

namespace Sys2Proof.Machine

/-! ## SPAWN and SPAWNP -/

/-- The lowest empty lane slot of a wave (R345). -/
def freeLane (w : Wave) : Option Nat := (List.range w.width).find? fun l => (w.fibres.look l).isNone

/-- One spawn: the wave, the fibre identities used so far, and the lane slot taken, if any (R345, R326). -/
def spawnOne (t : Nat) (pad : Bool) (d : Nat) (w : Wave) (uid : Nat) (x : LaneIn) : Wave × Nat :=
  match freeLane w with
  | none => (setVreg w x.lane x.fibre d (BitVec.allOnes 32), uid)
  | some l =>
    let base := (x.arg 0).toNat
    let f := { freshFibre uid t with base := base, padding := pad, spawned := true }
    let w1 := { w with fibres := w.fibres.put l f }
    let w2 := writePhys w1 l base (x.arg 1)
    let w3 := if w.n = 1 then w2 else writePhys w2 l (base + 1) (BitVec.ofNat 32 x.lane)
    (setVreg w3 x.lane x.fibre d (BitVec.ofNat 32 l), uid + 1)

/-- SPAWN and SPAWNP (R345, R346). -/
def spawnWord (pad : Bool) (d a : VReg) (i : BitVec 8) (s : State) : Host.Outcome State Fault Refusal :=
  readWord s
    (fun r => if (target r i).isNone then some (mkTrap 0x01 (batch r) 0 0) else portCheck r [a.toNat, d.toNat] [d.toNat])
    [a.toNat, d.toNat] fun k r w ins =>
      let bad := ins.filter fun x => decide (r.p < (x.arg 0).toNat + r.n)
      if !bad.isEmpty then .trap (mkTrap 0x04 (bad.map LaneIn.lane) 0 0)
      else
        let t := (target r i).getD 0
        let res := ins.foldl (fun (q : Wave × Nat) x => spawnOne t pad d.toNat q.1 q.2 x) (w, s.work.nextUid)
        .ok { s.setWave k res.1 with work := { (s.setWave k res.1).work with nextUid := res.2 } }

/-- SPAWN (R345). -/
def execSpawn (d a : VReg) (i : BitVec 8) (s : State) : Host.Outcome State Fault Refusal := spawnWord false d a i s

/-- SPAWNP (R345, R346). -/
def execSpawnp (d a : VReg) (i : BitVec 8) (s : State) : Host.Outcome State Fault Refusal := spawnWord true d a i s

/-! ## Regroup pools -/

/-- The fibres that a block's regroup area holds. -/
def poolUsed (b : Block) : Nat := (b.pools.map fun p => p.members.length).sum

/-- A fibre entered in the pool of its target and key: the one not yet full, or a new one (R347). -/
def enterPools (width t : Nat) (key : Word) (m : PoolFibre) (stamp : Nat) : List Pool → List Pool
  | [] => [{ target := t, key := key, members := [m], flush := false, filled := if width ≤ 1 then stamp else 0 }]
  | p :: ps =>
    if p.target = t ∧ p.key = key ∧ p.members.length < width then
      { p with members := p.members ++ [m], filled := if p.members.length + 1 = width then stamp else p.filled } :: ps
    else p :: enterPools width t key m stamp ps

/-- A fibre leaves its wave for its pool: the wave, and the block with the fibre in its regroup area (R347). -/
def leaveForPool (s : State) (r w : Wave) (b : Block) (t : Nat) (key : Word) (lane : Nat) (f : Fibre) : Wave × Block :=
  let m : PoolFibre :=
    { fibre := { f with pc := { packet := t, slot := 0 }, park := none, base := 0, shadow := none }
      regs := (List.range r.n).map fun v => readPhys s r lane v
      after := (waveKey r.blk r.num, r.nextOp)
      owed := [] }
  ({ w with fibres := w.fibres.del lane },
    { b with pools := enterPools r.width t key m (b.filled + 1) b.pools, filled := b.filled + 1 })

/-- The regroup capacity of a block's launch in fibres (R347). -/
def poolCap (s : State) (blk : Nat) : Nat := recWord s blk 9 % 2 ^ 16

/-- A fibre that is parked at a REGROUP behind a handler, whether room has been kept for it or not. -/
def regroupBehind (f : Fibre) : Option (Nat × Word × Bool) :=
  f.shadow.bind fun sh => match sh.park with
    | some { kind := .regroup t key, .. } => if sh.redo then none else some (t, key, sh.answered)
    | _ => none

/-- The room that fibres behind a handler have been given and take at TRET (R347, 19_traps R426). -/
def poolKept (s : State) (blk : Nat) : Nat :=
  ((wavesOf s blk).map fun k => ((s.wave k).map fun w => (w.fibres.filter fun p => (regroupBehind p.2).any fun q => q.2.2).length).getD 0).sum

/-- The regroup capacity of a block that is not kept for fibres behind a handler. -/
def poolOpen (s : State) (blk : Nat) : Nat := poolCap s blk - poolKept s blk

/-- The key of a fibre's REGROUP: vA once every load has been waited for, or what lq0 or lq1 gave (R347). -/
def regroupKey (s : State) (r : Wave) (a : Nat) (x : LaneIn) : Word := if 124 ≤ a then x.arg 0 else readPhys s r x.lane a

/-- One fibre of a REGROUP: into its pool, or parked for want of room. -/
def regroupOne (s : State) (r : Wave) (cap t a : Nat) (q : Wave × Block) (x : LaneIn) : Wave × Block :=
  if poolUsed q.2 < cap then leaveForPool s r q.1 q.2 t (regroupKey s r a x) x.lane x.fibre
  else
    (q.1.mapFibre x.lane fun f => { f with park := some { kind := .regroup t (regroupKey s r a x), next := s.issue.next } }, q.2)

/-- REGROUP: it issues when the LD counter is 0, and then takes every loaded register along (R347, log 25). -/
def execRegroup (a : VReg) (i : BitVec 8) (s : State) : Host.Outcome State Fault Refusal :=
  readWord s
    (fun r =>
      if (target r i).isNone || poolCap s r.blk == 0 then some (mkTrap 0x01 (batch r) 0 0) else portCheck r [a.toNat] [])
    [a.toNat] fun k r w ins =>
      let bad := ins.filter fun x => x.fibre.base != 0
      if opCount r .ld != 0 then .hold
      else if !bad.isEmpty then .trap (mkTrap 0x06 (bad.map LaneIn.lane) 0 2)
      else if r.loops.any fun e => e.holds (herePacket r) then .trap (mkTrap 0x06 (batch r) 0 3)
      else
        match s.block r.blk with
        | none => .ok s
        | some b =>
          let q := ins.foldl (regroupOne s (cover s .ld 0 r.nextOp r) (poolOpen s r.blk) ((target r i).getD 0) a.toNat) (cover s .ld 0 r.nextOp w, b)
          .ok ((s.setBlock r.blk q.2).moved k q.1)

/-- FLUSHRG: the pools of the block start even when partial (R348). -/
def execFlushrg (s : State) : Host.Outcome State Fault Refusal :=
  runWord s fun k r w =>
    match s.block r.blk with
    | none => .ok s
    | some b => .ok ((s.setBlock r.blk { b with pools := b.pools.map fun p => { p with flush := true } }).setWave k w)

/-- Every live fibre of a block is parked, or there is none (R348). -/
def blockParked (s : State) (blk : Nat) : Bool :=
  (wavesOf s blk).all fun k => ((s.wave k).map fun w => w.fibres.all fun p => p.2.parked).getD true

/-- Every live fibre of a block is parked at a REGROUP (R348). -/
def allRegroup (s : State) (blk : Nat) : Bool :=
  (wavesOf s blk).all fun k => ((s.wave k).map fun w => w.fibres.all fun p => match p.2.park with
    | some { kind := .regroup _ _, .. } => true
    | _ => false).getD true

/-- The pool that starts next: full pools in the order in which they filled, then flushed pools in the order of their first use
(R348). -/
def nextPool (s : State) (blk : Nat) (b : Block) : Option Pool :=
  match least Pool.filled (b.pools.filter fun p => p.filled != 0) with
  | some p => some p
  | none => b.pools.find? fun p => p.flush || blockParked s blk

/-- The waves per block of a launch (16_scheduling R358). -/
def waveSlots (s : State) (blk : Nat) : Nat := bits (recWord s blk 3) 25 22 + 1

/-- A wave holds a live fibre (R329). -/
def waveLives (s : State) (k : Nat) : Bool := ((s.wave k).map fun w => !w.fibres.isEmpty).getD false

/-- The lowest wave number of a block that no live wave holds (R349). -/
def liveFree (s : State) (blk : Nat) : Option Nat := (List.range (waveSlots s blk)).find? fun n => !waveLives s (waveKey blk n)

/-- That number, once its wave slot is free: an ended wave keeps the slot until its counters are zero (R329, R349; DEDUCED, log 92). -/
def freeWave (s : State) (blk : Nat) : Option Nat := (liveFree s blk).filter fun n => (s.wave (waveKey blk n)).isNone

/-- Where a fibre that waits at a REGROUP goes, and whether it waits behind a handler (R347, 19_traps R426). -/
def regroupOf (f : Fibre) : Option (Nat × Word × Bool) :=
  match f.park with
  | some { kind := .regroup t key, .. } => some (t, key, false)
  | _ => (regroupBehind f).bind fun q => if q.2.2 then none else some (q.1, q.2.1, true)

/-- The first fibre of a block that waits at a REGROUP: its wave, its lane slot, and where it goes (R347). -/
def waitingRegroup (s : State) (blk : Nat) : Option (Nat × Nat × Nat × Word × Bool) :=
  ((wavesOf s blk).flatMap fun k => ((s.wave k).map fun w => w.fibres.filterMap fun p =>
    (regroupOf p.2).map fun q => (k, p.1, q)).getD []).head?

/-- A fibre parked at a REGROUP goes from its wave to its pool (R347). -/
def enterPool (s : State) (blk k lane t : Nat) (key : Word) : State :=
  match s.block blk, s.wave k with
  | some b, some w =>
    match w.fibres.look lane with
    | some f =>
      let q := leaveForPool s w w b t key lane f
      settle ((s.setBlock blk q.2).setWave k (popEmpty (releaseConv q.1))) k
    | none => s
  | _, _ => s

/-- Fibres that wait at a REGROUP enter their pools while there is room, at most `n` of them; for one behind a handler the room is kept, and it
enters at TRET (R347, 19_traps R426). -/
def admitRegroup (s : State) (blk : Nat) : Nat → State
  | 0 => s
  | n + 1 =>
    match waitingRegroup s blk, s.block blk with
    | some (k, lane, t, key, behind), some b =>
      if poolUsed b < poolOpen s blk then
        admitRegroup (if behind then s.mapWave k fun w => answerBehind w lane else enterPool s blk k lane t key) blk n
      else s
    | _, _ => s

/-- The fibres of a wave for which room was kept while it was in a handler. -/
def keptRegroup (w : Wave) : List (Nat × Nat × Word) :=
  w.fibres.filterMap fun p => (regroupBehind p.2).bind fun q => if q.2.2 then some (p.1, q.1, q.2.1) else none

/-- Those fibres enter their pools once the wave has left the handler (R347, 19_traps R426). -/
def enterKept (s : State) (k : Nat) (w : Wave) : State :=
  (keptRegroup w).foldl (fun s q => enterPool s w.blk k q.1 q.2.1 q.2.2) s

/-- The wave that a pool starts (R349). -/
def poolWave (blk num : Nat) (cfg : Word) (l : Launch) (base : DWord) (p : Pool) : Wave :=
  let w := freshWave blk num cfg l.level base l.consts ((List.range p.members.length).zip (p.members.map PoolFibre.fibre))
  ((List.range p.members.length).zip p.members).foldl (fun w m =>
    ((List.range m.2.regs.length).zip m.2.regs).foldl (fun w v => writePhys w m.1 v.1 v.2) w) w

/-- A pool starts a new wave of its block (R348, R349). -/
def startPool (s : State) (blk num : Nat) (b : Block) (p : Pool) : State :=
  match s.work.launches.look b.launch with
  | none => s
  | some l =>
    let w := poolWave blk num (nth l.record 3) l (BitVec.ofNat 64 (recDword s blk 0)) p
    let s1 := (s.setBlock blk { b with pools := b.pools.erase p }).setWave (waveKey blk num) (w.numbered s.tick)
    let owed := ((List.range p.members.length).zip p.members).flatMap fun m =>
      m.2.owed.map fun key => Ev.tableFullReport (waveKey blk num) (2 ^ m.1) key true
    admitRegroup ((joinCore s1 b.core (waveKey blk num)).posts owed) blk p.members.length

/-- The fibres at the lowest program counter of a wave. -/
def lowestFibres (w : Wave) : List Nat :=
  match least (fun p => p.2.pc.key) w.fibres with
  | some q => (w.fibres.filter fun p => p.2.pc == q.2.pc).map Prod.fst
  | none => []

/-- Each wave of a block with a fibre parked at a REGROUP takes trap 0x06 with tinfo 4 (R348). The fibres at its lowest REGROUP
are the trap batch: the chain has no effect in them, and they issue it again on return (R23, 19_traps R425; log 25). -/
def regroupStuck (s : State) (blk : Nat) : State :=
  (wavesOf s blk).foldl (fun s k =>
    match s.wave k with
    | some w =>
      let ls := lowestFibres w
      if ls.isEmpty then s
      else enterTrap (s.setWave k (ls.foldl (fun w l => w.mapFibre l fun f => { f with park := none }) w)) k ls (mkTrap 0x06 ls 0 4)
    | none => s) s

/-- A pre-empted block whose regroup area may yet be saved as it stood when its handlers were entered: each wave that was live at the request
is live or has ended as saved (19_traps R434). -/
def mayBeSaved (s : State) (blk : Nat) (b : Block) : Bool :=
  b.preempt && !b.liveAtPreempt.isEmpty && b.liveAtPreempt.all fun n => b.savedWaves.contains n || (s.wave (waveKey blk n)).isSome

/-- A pool can start, or a flush finds that none ever can; none starts while the block's regroup area may be saved (R348, 19_traps R434). -/
def poolReady (s : State) (blk : Nat) : Bool :=
  match s.block blk with
  | none => false
  | some b =>
    b.status == .running && !mayBeSaved s blk b && (nextPool s blk b).isSome &&
      ((freeWave s blk).isSome || ((liveFree s blk).isNone && allRegroup s blk && !blockIdle s blk))

/-- POOL_WAVE_START (R348, R349). -/
def execPoolWaveStart (blk : Nat) (s : State) : Host.Outcome State Fault Refusal :=
  runEvent s (.poolWaveStart blk) (poolReady s blk) fun s =>
    match s.block blk with
    | none => s
    | some b =>
      match nextPool s blk b, freeWave s blk with
      | some p, some num => startPool s blk num b p
      | _, _ => regroupStuck s blk

/-! ## FIBRD and FIBWR -/

/-- The code of a parked state in the fibre record (19_traps R435). -/
def parkCode : Option Parked → Nat
  | none => 0
  | some p =>
    match p.kind with
    | .bwait _ _ => 1
    | .btest _ => 0
    | .oent _ _ _ => 2
    | .oqry _ _ => 3
    | .conv => 4
    | .regroup _ _ => 5

/-- The code of a section slot's state (19_traps R431). -/
def sectCode : SectState → Nat
  | .free => 0
  | .held => 1
  | .deferred => 2
  | .awaiting => 3

/-- The flags of a fibre, as SPR selector 3 reports them (05_vector_scalar R94). -/
def fibreFlags (f : Fibre) : Nat := (if f.padding then 1 else 0) + (if f.spawned then 2 else 0) + (if f.fragment then 4 else 0)

/-- A word of a fibre's shadow state (19_traps R431). -/
def shadowWord (tpc : Word) (f : Fibre) (sh : Shadow) (sel : Nat) : Word :=
  match sel with
  | 0 => if sh.trapBatch then tpc else toTpc sh.pc
  | 1 => predWord sh.preds
  | 2 => BitVec.ofNat 32 sh.base
  | 3 => BitVec.ofNat 32 (fibreFlags f + 8 + 16 * parkCode sh.park)
  | n =>
    let x := f.slots.getD ((n - 4) / 3) Sect.none
    match (n - 4) % 3 with
    | 0 => x.key
    | 1 => x.seq
    | _ => BitVec.ofNat 32 (sectCode x.st)

/-- FIBRD and FIBWR give 0x01 outside a handler and for a fibre without shadow state (19_traps R431). -/
def noShadow (r : Wave) : Bool := !r.inHandler || (fibresOf r (batch r)).any fun p => p.2.shadow.isNone

/-- FIBRD (19_traps R431). -/
def execFibrd (d : VReg) (i : BitVec 8) (s : State) : Host.Outcome State Fault Refusal :=
  vecRun s (fun r => if noShadow r then some (mkTrap 0x01 (batch r) 0 0) else portCheck r [] [d.toNat]) [] (some d.toNat)
    fun r _ x => x.reg (match x.fibre.shadow with
      | some sh => shadowWord r.tpc x.fibre sh i.toNat
      | none => 0)

/-- A fibre's shadow state written (19_traps R431). -/
def setShadow (sel : Nat) (v : Word) (f : Fibre) : Fibre :=
  { f with shadow := f.shadow.map fun sh =>
      if sel = 0 then { sh with pc := ofTpc v, trapBatch := false } else { sh with preds := v.truncate 7 } }

/-- A value names no program counter: its slot is 3 (02_encoding R17). -/
def badPc (v : Word) : Bool := v.toNat % 4 == 3

/-- FIBWR (19_traps R431). A resume PC with slot 3 breaks the limit of R17 and gives 0x01, as a CSRW of such a tpc does (DEDUCED,
log 55). -/
def execFibwr (a : VReg) (i : BitVec 8) (s : State) : Host.Outcome State Fault Refusal :=
  readWord s
    (fun r =>
      if r.level == .user then some (mkTrap 0x07 (batch r) 0 0)
      else if noShadow r || decide (1 < i.toNat) then some (mkTrap 0x01 (batch r) 0 0)
      else portCheck r [a.toNat] [])
    [a.toNat] fun k r w ins =>
      if i == 0 && ins.any fun x => badPc (x.arg 0) then illegalHere r
      else .ok (s.setWave k (ins.foldl (fun w x => w.mapFibre x.lane (setShadow i.toNat (x.arg 0))) w))

end Sys2Proof.Machine
end

