-- ==== Sys2Proof/Machine/FloatWords.lean ====
section
/-! DEFINITION. The floating-point words of the V pipe, the conversions and the special-function words (04_number_formats
R73 to R82, 05_vector_scalar R100 to R112). -/

namespace Sys2Proof.Machine

/-- A floating-point result of one register. -/
def LaneIn.out (_ : LaneIn) (r : FRes) : LaneOut := { regs := [BitVec.ofNat 32 r.bits], preds := [], conds := r.conds }

/-- Source value `j` as a number. -/
def LaneIn.num (i : LaneIn) (j : Nat) : Nat := (i.arg j).toNat

/-- vD := Op(vA, vB) in floating point. -/
def floatOp (op : Nat → Nat → FRes) (d a b : VReg) (s : State) : Host.Outcome State Fault Refusal :=
  laneWord s [a, b] d fun x => x.out (op (x.num 0) (x.num 1))

/-- vD := Op(vA) in floating point. The words of the SFU are among those that pop a load queue named as vA and push a store queue named as vD, as
R30 gives for every word that does not forbid it; R87 names V-pipe and XLANE words only (DEDUCED, log 78). -/
def floatUn (op : Nat → FRes) (d a : VReg) (s : State) : Host.Outcome State Fault Refusal :=
  laneWord s [a] d fun x => x.out (op (x.num 0))

/-! ## FALU, FALU2, FMISC and FCMP -/

/-- FADD (R100). -/
def execFadd (d a b : VReg) (r : Rnd) (s : State) : Host.Outcome State Fault Refusal :=
  floatOp (fAdd fmtF32 r) d a b s

/-- FSUB (R100). -/
def execFsub (d a b : VReg) (r : Rnd) (s : State) : Host.Outcome State Fault Refusal :=
  floatOp (fSub fmtF32 r) d a b s

/-- FMUL (R100). -/
def execFmul (d a b : VReg) (r : Rnd) (s : State) : Host.Outcome State Fault Refusal :=
  floatOp (fMul fmtF32 r) d a b s

/-- FFMA (R100). -/
def execFfma (d a b : VReg) (r : Rnd) (s : State) : Host.Outcome State Fault Refusal :=
  laneAcc s [a, b] d fun x => x.out (fFma fmtF32 r (x.num 0) (x.num 1) (x.num 2))

/-- FMIN (R101). -/
def execFmin (d a b : VReg) (s : State) : Host.Outcome State Fault Refusal :=
  floatOp (fPick fmtF32 false) d a b s

/-- FMAX (R101). -/
def execFmax (d a b : VReg) (s : State) : Host.Outcome State Fault Refusal :=
  floatOp (fPick fmtF32 true) d a b s

/-- FMINM (R101). -/
def execFminm (d a b : VReg) (s : State) : Host.Outcome State Fault Refusal :=
  floatOp (fPickM fmtF32 false) d a b s

/-- FMAXM (R101). -/
def execFmaxm (d a b : VReg) (s : State) : Host.Outcome State Fault Refusal :=
  floatOp (fPickM fmtF32 true) d a b s

/-- FCPYS (R101). -/
def execFcpys (d a b : VReg) (s : State) : Host.Outcome State Fault Refusal :=
  floatOp fCopySign d a b s

/-- FSCALE (R101). -/
def execFscale (d a b : VReg) (s : State) : Host.Outcome State Fault Refusal :=
  laneWord s [a, b] d fun x => x.out (fScale (x.num 0) (x.arg 1).toInt)

/-- FABS (R102). -/
def execFabs (d a : VReg) (s : State) : Host.Outcome State Fault Refusal :=
  floatUn (fun x => fUnary fmtF32 x { bits := x % 2 ^ 31, conds := 0 }) d a s

/-- FNEG (R102). -/
def execFneg (d a : VReg) (s : State) : Host.Outcome State Fault Refusal :=
  floatUn (fun x => fUnary fmtF32 x { bits := x ^^^ 2 ^ 31, conds := 0 }) d a s

/-- FCLASS (R104). -/
def execFclass (d a : VReg) (s : State) : Host.Outcome State Fault Refusal :=
  floatUn (fun x => { bits := 2 ^ fClass x, conds := 0 }) d a s

/-- FRND (R102). -/
def execFrnd (d a : VReg) (x : Bool) (r : Rnd) (s : State) : Host.Outcome State Fault Refusal :=
  floatUn (fRound r x) d a s

/-- FSAT (R102). -/
def execFsat (d a : VReg) (s : State) : Host.Outcome State Fault Refusal :=
  floatUn fSaturate d a s

/-- FGETE (R103). -/
def execFgete (d a : VReg) (s : State) : Host.Outcome State Fault Refusal :=
  laneWord s [a] d fun x => x.flag (fGetExp (x.num 0))

/-- FGETM (R103). -/
def execFgetm (d a : VReg) (s : State) : Host.Outcome State Fault Refusal :=
  floatUn fGetMan d a s

/-- FCMP (R105). -/
def execFcmp (p : PReg) (a b : VReg) (k : FCc) (s : State) : Host.Outcome State Fault Refusal :=
  lanePred s [a, b] fun x =>
    let c := fCompare k (x.num 0) (x.num 1)
    x.pred p c.1 c.2

/-! ## PKF -/

/-- The format of a packed word (R106). -/
def halfFmt : Half → Fmt
  | .f16 => fmtF16
  | .bf16 => fmtBf16

/-- Half `h` of a register. -/
def halfOf (x h : Nat) : Nat := x / 2 ^ (16 * h) % 2 ^ 16

/-- Two results side by side (R106). -/
def joinHalves (lo hi : FRes) : FRes := { bits := lo.bits + 2 ^ 16 * hi.bits, conds := lo.conds ||| hi.conds }

/-- An operation on both halves of two registers (R106). -/
def packed (op : Nat → Nat → FRes) (x y : Nat) : FRes :=
  joinHalves (op (halfOf x 0) (halfOf y 0)) (op (halfOf x 1) (halfOf y 1))

/-- HADD2 (R106). -/
def execHadd2 (d a b : VReg) (t : Half) (s : State) : Host.Outcome State Fault Refusal :=
  floatOp (packed (fAdd (halfFmt t) .rne)) d a b s

/-- HSUB2 (R106). -/
def execHsub2 (d a b : VReg) (t : Half) (s : State) : Host.Outcome State Fault Refusal :=
  floatOp (packed (fSub (halfFmt t) .rne)) d a b s

/-- HMUL2 (R106). -/
def execHmul2 (d a b : VReg) (t : Half) (s : State) : Host.Outcome State Fault Refusal :=
  floatOp (packed (fMul (halfFmt t) .rne)) d a b s

/-- HMIN2 (R106). -/
def execHmin2 (d a b : VReg) (t : Half) (s : State) : Host.Outcome State Fault Refusal :=
  floatOp (packed (fPick (halfFmt t) false)) d a b s

/-- HMAX2 (R106). -/
def execHmax2 (d a b : VReg) (t : Half) (s : State) : Host.Outcome State Fault Refusal :=
  floatOp (packed (fPick (halfFmt t) true)) d a b s

/-- HFMA2 (R106). -/
def execHfma2 (d a b : VReg) (t : Half) (s : State) : Host.Outcome State Fault Refusal :=
  laneAcc s [a, b] d fun x =>
    let half (h : Nat) := fFma (halfFmt t) .rne (halfOf (x.num 0) h) (halfOf (x.num 1) h) (halfOf (x.num 2) h)
    x.out (joinHalves (half 0) (half 1))

/-! ## DOT -/

/-- One product of a dot product, rounded to f32 (R108). -/
def dotProduct (a b : FVal) : FRes :=
  let p := mulX a b
  deliver fmtF32 .rne p.1 p.2

/-- One level of the pairwise sums of a dot product (R108). -/
def dotPairs : List FRes → List FRes
  | x :: y :: t =>
    let r := fAdd fmtF32 .rne x.bits y.bits
    { bits := r.bits, conds := x.conds ||| y.conds ||| r.conds } :: dotPairs t
  | l => l

/-- The pairwise sum of a level, level by level (R108). -/
def dotTree : Nat → List FRes → FRes
  | 0, l => l.headD { bits := 0, conds := 0 }
  | n + 1, l => dotTree n (dotPairs l)

/-- Element `j` of `w` bits of a register. -/
def elem (w x j : Nat) : Nat := x / 2 ^ (w * j) % 2 ^ w

/-- vD + vA · vB over `n` elements of `w` bits (R108). -/
def dotFloat (da db : Nat → FVal) (w n : Nat) (a b d : Nat) : FRes :=
  let ps := (List.range n).map fun j => dotProduct (da (elem w a j)) (db (elem w b j))
  let t := dotTree 3 ps
  let r := fAdd fmtF32 .rne d t.bits
  { bits := r.bits, conds := t.conds ||| r.conds }

/-- A dot product of floating-point elements added to vD (R107, R108). -/
def dotOp (da db : Nat → FVal) (w n : Nat) (d a b : VReg) (s : State) : Host.Outcome State Fault Refusal :=
  laneAcc s [a, b] d fun x => x.out (dotFloat da db w n (x.num 0) (x.num 1) (x.num 2))

/-- A dot product of four integer elements added to vD modulo 2^32 (R109). -/
def dotInt (sgn : Bool) (a b d : Nat) : Word :=
  wordOfInt ((d : Int) + ((List.range 4).map fun j => intOf (8, sgn) (elem 8 a j) * intOf (8, sgn) (elem 8 b j)).sum)

/-- DOT2H (R107, R108). -/
def execDot2h (d a b : VReg) (s : State) : Host.Outcome State Fault Refusal :=
  dotOp (decodeF fmtF16) (decodeF fmtF16) 16 2 d a b s

/-- DOT2B (R107, R108). -/
def execDot2b (d a b : VReg) (s : State) : Host.Outcome State Fault Refusal :=
  dotOp (decodeF fmtBf16) (decodeF fmtBf16) 16 2 d a b s

/-- DOT4E4 (R107, R108). -/
def execDot4e4 (d a b : VReg) (s : State) : Host.Outcome State Fault Refusal :=
  dotOp (decodeF fmtE4m3) (decodeF fmtE4m3) 8 4 d a b s

/-- DOT4E5 (R107, R108). -/
def execDot4e5 (d a b : VReg) (s : State) : Host.Outcome State Fault Refusal :=
  dotOp (decodeF fmtE5m2) (decodeF fmtE5m2) 8 4 d a b s

/-- DOT8F (R107, R108). -/
def execDot8f (d a b : VReg) (s : State) : Host.Outcome State Fault Refusal :=
  dotOp (decodeF fmtE2m1) (decodeF fmtE2m1) 4 8 d a b s

/-- DOT4S (R107, R108). -/
def execDot4s (d a b : VReg) (s : State) : Host.Outcome State Fault Refusal :=
  dotOp decodeSp8 (decodeF fmtE4m3) 8 4 d a b s

/-- DOT4I (R109). -/
def execDot4i (d a b : VReg) (s : State) : Host.Outcome State Fault Refusal :=
  laneAcc s [a, b] d fun x => x.reg (dotInt true (x.num 0) (x.num 1) (x.num 2))

/-- DOT4IN (R109). -/
def execDot4in (d a b : VReg) (s : State) : Host.Outcome State Fault Refusal :=
  laneAcc s [a, b] d fun x => x.reg (dotInt false (x.num 0) (x.num 1) (x.num 2))

/-! ## Conversions -/

/-- CVT (04_number_formats R73 to R79). -/
def execCvt (d a : VReg) (e f : NumTy) (r : Rnd) (t : Bool) (s : State) : Host.Outcome State Fault Refusal :=
  laneWord s [a] d fun x => x.flag (convert e f r t (x.arg 0))

/-- PK2H (04_number_formats R80). -/
def execPk2h (d a b : VReg) (t : Bool) (s : State) : Host.Outcome State Fault Refusal :=
  laneWord s [a, b] d fun x => x.flag (packHalves fmtF16 t (x.arg 0) (x.arg 1))

/-- PK2B (04_number_formats R80). -/
def execPk2b (d a b : VReg) (t : Bool) (s : State) : Host.Outcome State Fault Refusal :=
  laneWord s [a, b] d fun x => x.flag (packHalves fmtBf16 t (x.arg 0) (x.arg 1))

/-- PK4E4 (04_number_formats R80). -/
def execPk4e4 (d a b : VReg) (t : Bool) (s : State) : Host.Outcome State Fault Refusal :=
  lanePack s [a, b] d fun x old => x.flag (packShift fmtE4m3 t 8 (x.arg 0) (x.arg 1) old)

/-- PK4E5 (04_number_formats R80). -/
def execPk4e5 (d a b : VReg) (t : Bool) (s : State) : Host.Outcome State Fault Refusal :=
  lanePack s [a, b] d fun x old => x.flag (packShift fmtE5m2 t 8 (x.arg 0) (x.arg 1) old)

/-- PK8F always saturates, whatever SAT is (04_number_formats R80). -/
def execPk8f (d a b : VReg) (_ : Bool) (s : State) : Host.Outcome State Fault Refusal :=
  lanePack s [a, b] d fun x old => x.flag (packShift fmtE2m1 true 4 (x.arg 0) (x.arg 1) old)

/-- A widening of one half of vA into a run of registers (04_number_formats R81, R82). A run that reaches v124 gives 0x04. -/
def unpackOp (h : Nat) (d a : VReg) (t : UnpkTy) (s : State) : Host.Outcome State Fault Refusal :=
  let n := unpkCount t
  let g := fun (_ : Wave) (_ : List LaneIn) (x : LaneIn) =>
    let u := unpack t (halfOf (x.num 0) h)
    ({ regs := u.1, preds := [], conds := u.2 } : LaneOut)
  if n = 1 then vecWord s [a.toNat] [d.toNat] (some d.toNat) g
  else wideWord s [a.toNat] d.toNat n g

/-- UNPKLO (04_number_formats R81). -/
def execUnpklo (d a : VReg) (t : UnpkTy) (s : State) : Host.Outcome State Fault Refusal :=
  unpackOp 0 d a t s

/-- UNPKHI (04_number_formats R81). -/
def execUnpkhi (d a : VReg) (t : UnpkTy) (s : State) : Host.Outcome State Fault Refusal :=
  unpackOp 1 d a t s

/-! ## Special functions -/

/-- RCP (R110 to R112). -/
def execRcp (d a : VReg) (s : State) : Host.Outcome State Fault Refusal :=
  floatUn sfRcp d a s

/-- RSQ (R110 to R112). -/
def execRsq (d a : VReg) (s : State) : Host.Outcome State Fault Refusal :=
  floatUn sfRsq d a s

/-- SQRT (R110 to R112). -/
def execSqrt (d a : VReg) (s : State) : Host.Outcome State Fault Refusal :=
  floatUn sfSqrt d a s

/-- EXP2 (R110 to R112). -/
def execExp2 (d a : VReg) (s : State) : Host.Outcome State Fault Refusal :=
  floatUn sfExp2 d a s

/-- LOG2 (R110 to R112). -/
def execLog2 (d a : VReg) (s : State) : Host.Outcome State Fault Refusal :=
  floatUn sfLog2 d a s

/-- SIN (R110 to R112). -/
def execSin (d a : VReg) (s : State) : Host.Outcome State Fault Refusal :=
  floatUn sfSin d a s

/-- COS (R110 to R112). -/
def execCos (d a : VReg) (s : State) : Host.Outcome State Fault Refusal :=
  floatUn sfCos d a s

/-- TANH (R110 to R112). -/
def execTanh (d a : VReg) (s : State) : Host.Outcome State Fault Refusal :=
  floatUn sfTanh d a s

end Sys2Proof.Machine
end

