-- ==== Sys2Proof/Machine/Cartouche.lean ====
section
/-! DEFINITION. The cartouche processor: the program that a drain runs on each row (07_cartouche R144, R145, R151 to R155,
04_number_formats R67). -/

namespace Sys2Proof.Machine

/-- The state of the processor while a row runs (R144): vectors e0 to e7, constants, the scalar, the scales, the output so far, and
the conditions raised. -/
structure RowState where
  e : List (List Nat)
  consts : List (List Nat)
  t : Nat
  q : List Nat
  out : List Byte
  conds : Conds

/-- Sixty-four zeros. -/
def zeroVec : List Nat := List.replicate 64 0

/-- Vector `i` of the row. -/
def RowState.vec (r : RowState) (i : Nat) : List Nat := r.e.getD i zeroVec

/-- Constant vector `i`; vectors beyond the image's count read as +0 (R144). -/
def RowState.const (r : RowState) (i : Nat) : List Nat := r.consts.getD i zeroVec

/-- Vector `d` replaced by results, with their conditions. -/
def RowState.put (r : RowState) (d : Nat) (xs : List FRes) : RowState :=
  { r with e := r.e.set d (xs.map FRes.bits), conds := xs.foldl (fun c x => c ||| x.conds) r.conds }

/-- An element-wise operation of two vectors. -/
def zipVec (op : Nat → Nat → FRes) (a b : List Nat) : List FRes := (a.zip b).map fun p => op p.1 p.2

/-- ed := Round(ea × eb + ed) (R153). -/
def fmaVec (a b d : List Nat) : List FRes := ((a.zip b).zip d).map fun p => fFma fmtF32 .rne p.1.1 p.1.2 p.2

/-- RELU of one element: the canonical NaN for a NaN, +0 for a value that is not above zero (R153). -/
def reluF (x : Nat) : FRes :=
  let v := decodeF fmtF32 x
  if v.isNan then { bits := fmtF32.nanBits, conds := sigConds v }
  else if bitAt x 31 || x % 2 ^ 31 = 0 then { bits := 0, conds := 0 }
  else { bits := x, conds := 0 }

/-- A value converted from f32 to a type by CVT with RNE (04_number_formats R76). -/
def cvtTo (ty : NumTy) (sat : Bool) (x : Nat) : FRes :=
  let t := convert ty .f32 .rne sat (BitVec.ofNat 32 x)
  { bits := t.1.toNat, conds := t.2 }

/-- The types of the fmt field (R152). -/
def fmtCode : Nat → Option NumTy
  | 0 => some .f32
  | 1 => some .f16
  | 2 => some .bf16
  | 3 => some .e4m3
  | 4 => some .e5m2
  | 5 => some .e2m1
  | 6 => some .sp8
  | _ => none

/-- The bits of an element of a type. -/
def fmtBits : NumTy → Nat
  | .f32 => 32
  | .f16 => 16
  | .bf16 => 16
  | .e2m1 => 4
  | _ => 8

/-- The f32 that holds an element of a type: a NaN as the canonical f32 NaN (R153). -/
def heldAs (ty : NumTy) (x : Nat) : Nat := (convert .f32 ty .rne false (BitVec.ofNat 32 x)).1.toNat

/-- CVT to a narrow format, held as f32 (R153). -/
def cvtHeld (ty : NumTy) (sat : Bool) (x : Nat) : FRes :=
  let n := cvtTo ty sat x
  { bits := heldAs ty n.bits, conds := n.conds }

/-- The maximum over a vector, in the order of its elements (R153). -/
def maxAll (xs : List Nat) : FRes :=
  xs.foldl (fun a y =>
    let r := fPick fmtF32 true a.bits y
    { bits := r.bits, conds := a.conds ||| r.conds }) { bits := xs.headD 0, conds := 0 }

/-- The sum of a vector in the pairwise tree (R153, 05_vector_scalar R115). -/
def sumAll (xs : List Nat) : FRes := dotTree 6 (xs.map fun x => { bits := x, conds := 0 })

/-- Emax of the formats that QMX quantises to (R154). -/
def mxEmax : NumTy → Int
  | .e4m3 => 8
  | .e2m1 => 2
  | _ => 0

/-- x divided by 2^k and converted with saturation and one rounding, held as f32 (04_number_formats R67). -/
def quantise (ty : NumTy) (k : Int) (x : Nat) : FRes :=
  match decodeF fmtF32 x with
  | .fin s m e =>
    let r := match fmtOf ty with
      | some f => toFmt f .rne true (.fin s m (e - k))
      | none => anySp8 .rne (.fin s m (e - k))
    { bits := heldAs ty r.bits, conds := r.conds }
  | v => { bits := fmtF32.nanBits, conds := sigConds v }

/-- A value is a NaN or an infinity. -/
def notFinite (x : Nat) : Bool := decide (0x7F800000 ≤ x % 2 ^ 31)

/-- The exponent E of an MX block (04_number_formats R67). -/
def mxScale (emax : Int) (xs : List Nat) : Nat :=
  let amax := xs.foldl (fun a x => max a (x % 2 ^ 31)) 0
  match xs.any notFinite, decodeF fmtF32 amax with
  | false, .fin _ m e => if m = 0 then 0 else (max (-127) (min 127 (leadExp m e - emax)) + 127).toNat
  | _, _ => 0xFF

/-- The elements of an MX block under its exponent (R154): the canonical NaN in a block that holds a NaN or an infinity. -/
def mxElems (ty : NumTy) (xs : List Nat) : List FRes :=
  if xs.any notFinite then xs.map fun x => { bits := fmtF32.nanBits, conds := sigConds (decodeF fmtF32 x) }
  else xs.map (quantise ty ((mxScale (mxEmax ty) xs : Int) - 127))

/-- The bytes that OUT appends for a vector (R155). -/
def outBytes (ty : NumTy) (sat : Bool) (xs : List Nat) : List Byte × Conds :=
  let rs : List FRes := if ty = .f32 then xs.map fun x => { bits := x, conds := 0 } else xs.map (cvtTo ty sat)
  let all := rs.foldr (fun r a => r.bits % 2 ^ fmtBits ty + 2 ^ fmtBits ty * a) 0
  (leBytes all (fmtBits ty * xs.length / 8), rs.foldl (fun c r => c ||| r.conds) 0)

/-- A word of a program is reserved, or has a nonzero field that must be zero (R151 to R153). -/
def cartReserved (w : Nat) : Bool :=
  let op := bits w 15 11
  let fmt := bits w 4 2
  if op = 0 ∨ op = 22 then bits w 10 0 != 0
  else if op ≤ 6 then w % 4 != 0
  else if op ≤ 10 then w % 2 != 0
  else if op ≤ 18 then w % 32 != 0
  else if op = 19 then w % 2 != 0 || fmt == 0 || fmt == 7
  else if op = 20 then w % 4 != 0 || !(fmt == 3 || fmt == 5 || fmt == 6)
  else if op = 21 then w % 2 != 0 || fmt == 7 || bits w 10 8 != 0
  else true

/-- One instruction of a program on a row (R151, R153 to R155). -/
def cartStep (r : RowState) (w : Nat) : RowState :=
  let d := bits w 10 8
  let a := r.vec (bits w 7 5)
  let b := r.vec (bits w 4 2)
  let c := r.const (bits w 4 1)
  let ty := (fmtCode (bits w 4 2)).getD .f32
  let sat := bitAt w 1
  if cartReserved w then { r with conds := r.conds ||| invalid }
  else
    match bits w 15 11 with
    | 1 => r.put d (zipVec (fAdd fmtF32 .rne) a b)
    | 2 => r.put d (zipVec (fSub fmtF32 .rne) a b)
    | 3 => r.put d (zipVec (fMul fmtF32 .rne) a b)
    | 4 => r.put d (fmaVec a b (r.vec d))
    | 5 => r.put d (zipVec (fPick fmtF32 true) a b)
    | 6 => r.put d (zipVec (fPick fmtF32 false) a b)
    | 7 => r.put d (zipVec (fAdd fmtF32 .rne) a c)
    | 8 => r.put d (zipVec (fMul fmtF32 .rne) a c)
    | 9 => r.put d (fmaVec a c (r.vec d))
    | 10 => r.put d (zipVec (fPick fmtF32 true) a c)
    | 11 => { r with e := r.e.set d a }
    | 12 => r.put d (a.map reluF)
    | 13 => r.put d (a.map fun x => fMul fmtF32 .rne x r.t)
    | 14 => r.put d (a.map fun x =>
        let t := convert .f32 .i32 .rne false (BitVec.ofNat 32 x)
        { bits := t.1.toNat, conds := t.2 })
    | 15 => r.put d (a.map sfExp2)
    | 16 => r.put d (a.map sfRcp)
    | 17 => r.put d (List.replicate 64 (maxAll a))
    | 18 => r.put d (List.replicate 64 (sumAll a))
    | 19 => r.put d (a.map (cvtHeld ty sat))
    | 20 => { r.put d (mxElems ty (a.take 32) ++ mxElems ty (a.drop 32)) with
        q := [mxScale (mxEmax ty) (a.take 32), mxScale (mxEmax ty) (a.drop 32)] }
    | 21 => { r with out := r.out ++ (outBytes ty sat a).1, conds := r.conds ||| (outBytes ty sat a).2 }
    | 22 => { r with out := r.out ++ r.q.map (BitVec.ofNat 8) }
    | _ => r

/-- The bytes of an image (R145). -/
def Sel.bytes (sel : Sel) : Nat := 128 + 256 * sel.kc

/-- The words of the program of an image (R145). -/
def imageProg (sel : Sel) (img : List Byte) : List Nat := (List.range sel.n).map fun i => leNat ((img.drop (2 * i)).take 2)

/-- The constant vectors of an image (R144, R145). -/
def imageConsts (sel : Sel) (img : List Byte) : List (List Nat) :=
  (List.range sel.kc).map fun j => (List.range 64).map fun k => leNat ((img.drop (128 + 256 * j + 4 * k)).take 4)

/-- The row start (R144). -/
def rowStart (consts : List (List Nat)) (t : Nat) (row : List Nat) : RowState :=
  { e := row :: List.replicate 7 zeroVec, consts := consts, t := t, q := [0x7F, 0x7F], out := [], conds := 0 }

/-- A row run through a program: its bytes and its conditions (R155). -/
def cartRow (sel : Sel) (img : List Byte) (t : Nat) (row : List Nat) : List Byte × Conds :=
  let r := (imageProg sel img).foldl cartStep (rowStart (imageConsts sel img) t row)
  ((r.out ++ List.replicate sel.b 0).take sel.b, r.conds ||| raise invalid (decide (sel.b < r.out.length)))

end Sys2Proof.Machine
end

