-- ==== Sys2Proof/Machine/Matrix.lean ====
section
/-! DEFINITION. The matrix engine, the accumulator words and the tile queue (06_matrix R119 to R143, 07_cartouche R146 to R156). -/

namespace Sys2Proof.Machine

/-! ## Shapes -/

/-- The slabs of a block, from its launch record (16_scheduling R358). -/
def slabCount (s : State) (blk : Nat) : Nat := bits (recWord s blk 8) 17 12

/-- The bits of an element of a format (R119). -/
def elemBits : MmaFmt → Nat
  | .f16 => 16
  | .bf16 => 16
  | .e2m1 => 4
  | _ => 8

/-- K of a format: 512 bits of a row (R119). -/
def fmtK (f : MmaFmt) : Nat := 512 / elemBits f

/-- The columns of a tile (R119). -/
def tileCols (n32 : Bool) : Nat := if n32 then 32 else 64

/-- The bytes of a B operand: its elements, and its scale plane with MX (R124). -/
def bBytes (f : MmaFmt) (n32 mx : Bool) : Nat := 64 * tileCols n32 + (if mx then (fmtK f) / 32 * tileCols n32 else 0)

/-- The number of slabs that a code means (R139). -/
def slabNum : SlabCnt → Nat
  | .one => 1
  | .two => 2
  | .four => 4

/-- The value of an A element (R119). -/
def aValue (f : MmaFmt) (x : Nat) : FVal :=
  match f with
  | .f16 => decodeF fmtF16 x
  | .bf16 => decodeF fmtBf16 x
  | .e4m3 => decodeF fmtE4m3 x
  | .e5m2 => decodeF fmtE5m2 x
  | .e2m1 => decodeF fmtE2m1 x
  | .i8 => .fin (bitAt x 7) (signed 8 x).natAbs 0
  | .sp8 => decodeSp8 x

/-- The value of a B element: those of sp8 are e4m3 (R119). -/
def bValue (f : MmaFmt) (x : Nat) : FVal := aValue (if f = .sp8 then .e4m3 else f) x

/-! ## How an element is computed -/

/-- ProductF32: the exact product with both scales, rounded once (R126). -/
def productF32 (a b sa sb : FVal) : FRes :=
  let p := mulX a b
  let q := mulX p.1 sa
  let t := mulX q.1 sb
  deliver fmtF32 .rne t.1 (p.2 ||| q.2 ||| t.2)

/-- The sum of a K block of products entered in the accumulator: the first sum takes its place, so −0 is kept (R126). -/
def accumulate (acc : Option FRes) (x : FRes) : Option FRes :=
  match acc with
  | none => some x
  | some a =>
    let r := fAdd fmtF32 .rne a.bits x.bits
    some { bits := r.bits, conds := a.conds ||| x.conds ||| r.conds }

/-- An element of a float tile (R126): `a`, `b`, `sa` and `sb` give elements and scales, `blocks` is K ÷ 32. -/
def floatElem (a b : Nat → FVal) (sa sb : Nat → FVal) (blocks : Nat) (old : Option Nat) : FRes :=
  let sums := (List.range blocks).map fun j =>
    dotTree 5 ((List.range 32).map fun t => productF32 (a (32 * j + t)) (b (32 * j + t)) (sa j) (sb j))
  (sums.foldl accumulate (old.map fun x => { bits := x, conds := 0 })).getD { bits := 0, conds := 0 }

/-- An element of an i8 tile, modulo 2^32 (R127). -/
def intElem (a b : Nat → Nat) (k : Nat) (old : Nat) : FRes :=
  let x := (List.range k).map fun t => signed 8 (a t) * signed 8 (b t)
  { bits := (wordOfInt ((old : Int) + x.sum)).toNat, conds := 0 }

/-- The index of element (i, n) of a tile at slab `z` among the words of a block's slabs (R120). -/
def slabIndex (z i n : Nat) : Nat := 1024 * (z + i / 16) + 64 * (i % 16) + n

/-- A word of a block's slabs. -/
def slabWord (b : Block) (z i n : Nat) : Word := b.slabs.get (slabIndex z i n) 0

/-! ## Where operands come from when an operation fires -/

/-- A register of a wave as a tile operation reads it: the results of operations that have been performed stand in it, and one that
has not leaves either value (R135, 02_encoding R36). -/
def operandReg (s : State) (w : Wave) (lane reg : Nat) : Word :=
  let writers := w.ops.filter fun o => o.kind != .tile && o.dests.contains (lane, reg)
  if writers.any fun o => !o.performed then Config.freeWord s.tick (physKey lane reg)
  else (writers.foldl (landOp s) w).vregs.get (physKey lane reg) 0

/-- The sixteen or seventeen registers of a row, one after another (R121, R122). -/
def rowRegs (s : State) (w : Wave) (mx : Bool) (a : Nat × Nat) : List Nat :=
  (List.range (if mx then 17 else 16)).map fun j => (operandReg s w a.1 (a.2 + j)).toNat

/-- Element `k` of a row in registers (R121). -/
def rowElem (f : MmaFmt) (regs : List Nat) (k : Nat) : Nat := regs.getD (k * elemBits f / 32) 0 / 2 ^ (k * elemBits f % 32) % 2 ^ elemBits f

/-- Scale `j` of a row: 2^0 without MX (R122). -/
def rowScale (mx : Bool) (regs : List Nat) (j : Nat) : FVal :=
  if mx then decodeE8m0 (regs.getD 16 0 / 2 ^ (8 * j) % 256) else .fin false 1 0

/-- Element (k, n) of a B operand in a slot's bytes (R124). -/
def slotElem (f : MmaFmt) (n32 : Bool) (bs : List Byte) (k n : Nat) : Nat :=
  let i := (k * tileCols n32 + n) * elemBits f
  leNat ((bs.drop (i / 8)).take ((elemBits f + 7) / 8)) / 2 ^ (i % 8) % 2 ^ elemBits f

/-- Scale (j, n) of a B operand in a slot's bytes (R124). -/
def slotScale (n32 mx : Bool) (bs : List Byte) (j n : Nat) : FVal :=
  if mx then decodeE8m0 (bs.getD (64 * tileCols n32 + j * tileCols n32 + n) 0).toNat else .fin false 1 0

/-- Element (k, n) of a B operand in a view (R125). -/
def viewElem (s : State) (ctx : Nat) (v : View) (k n : Nat) : Nat :=
  if (steOf s ctx v.ste).fmt = 5 then
    pixelRead s ctx v.ste (v.col + n / 2) (v.row + k) / 2 ^ (16 * (n % 2)) % 2 ^ 16
  else pixelRead s ctx v.ste (v.col + n) (v.row + k)

/-- The pixels of a row of a view (R125). -/
def viewCols (fmt : Nat) (n32 : Bool) : Nat := if fmt = 5 then tileCols n32 / 2 else tileCols n32

/-- The cells of a view can be read now (R125). -/
def viewReady (s : State) (ctx : Nat) (v : View) (n32 : Bool) (k : Nat) : Bool :=
  (List.range k).all fun i => (List.range (viewCols (steOf s ctx v.ste).fmt n32)).all fun j =>
    pixelReady s ctx v.ste (v.col + j) (v.row + i) false

/-! ## The tile queue -/

/-- The operation of a block's tile queue with an identity. -/
def tileOf (b : Block) (id : Nat) : Option TileOp := b.tiles.find? fun t => t.id == id

/-- An operation of a block's tile queue changed. -/
def mapTile (s : State) (blk id : Nat) (f : TileOp → TileOp) : State :=
  s.mapBlock blk fun b => { b with tiles := b.tiles.map fun t => if t.id = id then f t else t }

/-- An operation of a block's tile queue gone. -/
def dropTile (s : State) (blk id : Nat) : State := s.mapBlock blk fun b => { b with tiles := b.tiles.filter fun t => t.id != id }

/-- A new entry of the tile queue. -/
def mkTile (s : State) (k : Nat) (w : Wave) (z cnt m : Nat) (kind : TileKind) (reads writes : List (Space × Nat × Nat)) : TileOp :=
  { id := ((s.block w.blk).map Block.nextTile).getD 0, wave := k, op := w.nextOp, z := z, cnt := cnt, m := m, kind := kind,
    reads := reads, writes := writes, stamp := s.tick, running := false, consumed := false, tainted := false, conds := 0,
    out := [], bytes := [] }

/-- An entry put in the tile queue; a counted one is an operation of its wave (R134). -/
def pushTile (s : State) (k : Nat) (w : Wave) (counted : Bool) (dests : List (Nat × Nat)) (t : TileOp) : State :=
  let w1 := if counted then addOp w s.tick (some .tl) .tile none none [] dests else w
  (s.setWave k w1).mapBlock w.blk fun b => { b with tiles := b.tiles ++ [t], nextTile := b.nextTile + 1 }

/-- The tile queue of a block is full (R134). -/
def queueFull (s : State) (blk : Nat) : Bool := ((s.block blk).map fun b => decide (16 ≤ b.tiles.length)).getD false

/-- The trap with the lowest code among the checks that fail, if any (R131, 02_encoding R43). A tile word is one operation of the whole
batch, so its tmask holds the batch, also where only some fibres' windows fall short of an MMA's registers (DESIGN CHOICE, log 63). -/
def lowestFail (r : Wave) (xs : List (Bool × Nat)) : Option Trap :=
  (least (fun p => p.2) (xs.filter fun p => p.1)).map fun p => { mkTrap p.2 (batch r) 0 0 with addrTold := false, infoTold := 0 }

/-- A tile word: it does not issue while the queue or its class is full; a check that fails gives its trap (R131, R134). A word that finds the
queue full waits before any of its checks is made, which the manual leaves open (DESIGN CHOICE, log 61). -/
def tileWord (s : State) (counted : Bool) (chk : Wave → Option Trap) (f : Nat → Wave → Wave → Res) : Host.Outcome State Fault Refusal :=
  runWord s fun k r w =>
    if queueFull s r.blk || (counted && classFull r .tl) then .hold
    else
      match chk r with
      | some t => .trap t
      | none => f k r w

/-- Slabs `z` to `z + n − 1` lie within the block's (R120, R139). -/
def slabsIn (s : State) (r : Wave) (z n : Nat) : Bool := decide (z + n ≤ slabCount s r.blk)

/-! ## MMA and MMAC -/

/-- The view that the quad of a TV word names (R125). -/
def viewOf (r : Wave) (b : BitVec 4) : View :=
  let x := (sreg r (4 * b.toNat + 1)).toNat
  { ste := (sreg r (4 * b.toNat)).toNat % 2 ^ 12, col := x % 2 ^ 16, row := x / 2 ^ 16 }

/-- The checks of a view (R125, R131). Those of the format and the span are made on a valid entry, whatever its tensor-view flag (log 26). -/
def viewChecks (s : State) (r : Wave) (b : BitVec 4) (f : MmaFmt) (n32 : Bool) : List (Bool × Nat) :=
  let v := viewOf r b
  let e := steOf s (ctxOf s r) v.ste
  [(bits (sreg r (4 * b.toNat)).toNat 31 12 != 0 || sreg r (4 * b.toNat + 2) != 0 || sreg r (4 * b.toNat + 3) != 0, 0x01),
   (e.valid && !((f == .bf16 && (e.fmt == 3 || e.fmt == 5)) || (f == .e4m3 && e.fmt == 4)), 0x01),
   (e.valid && (decide (e.width < v.col + viewCols e.fmt n32) || decide (e.height < v.row + (fmtK f))), 0x1A),
   (!(e.valid && e.w0.getLsbD 1), 0x1B)]

/-- The checks of a circular buffer as B operand (R124, R131). -/
def slotChecks (s : State) (r : Wave) (b : BitVec 4) (f : MmaFmt) (n32 mx : Bool) : List (Bool × Nat) :=
  let q := cbufOf s r.blk b.toNat
  [(decide (cbufCount s r.blk ≤ b.toNat) || q.count == 0 || decide (q.size < bBytes f n32 mx), 0x01)]

/-- The checks of the B operand. -/
def bChecks (s : State) (r : Wave) (b : BitVec 4) (f : MmaFmt) (tv n32 mx : Bool) : List (Bool × Nat) :=
  if tv then viewChecks s r b f n32 else slotChecks s r b f n32 mx

/-- The pixels that a view reads, one run for each row. -/
def viewReads (s : State) (r : Wave) (b : BitVec 4) (f : MmaFmt) (n32 : Bool) : List (Space × Nat × Nat) :=
  let v := viewOf r b
  (List.range (fmtK f)).map fun i =>
    (Space.surf v.ste, pixelAddr v.col (v.row + i), 8 * viewCols (steOf s (ctxOf s r) v.ste).fmt n32)

/-- The bytes of the slot that a word names (R124, R132). -/
def slotReads (s : State) (r : Wave) (b : BitVec 4) (f : MmaFmt) (n32 mx : Bool) : List (Space × Nat × Nat) :=
  let q := cbufOf s r.blk b.toNat
  [(Space.spm, q.base + q.c * q.size, bBytes f n32 mx)]

/-- The fill that an operation names: the first of the slot at the consumer pointer that no CBREL has released (R132,
11_async_copies R256). -/
def nextFill (q : Cbuf) : Nat := (q.slot q.c).rel

/-- The slot at the consumer pointer named once more (R132). -/
def nameSlot (s : State) (blk : Nat) (b : BitVec 4) : State :=
  mapCbuf s blk b.toNat fun q => q.setSlot q.c { q.slot q.c with refs := (q.slot q.c).refs ++ [nextFill q] }

/-- An MMA or MMAC whose checks have passed enters the queue; without TV it names its slot (R132, R134). -/
def enterMma (s : State) (k : Nat) (r w : Wave) (z : Nat) (b : BitVec 4) (f : MmaFmt) (tv n32 mx : Bool) (kind : TileKind)
    (dests : List (Nat × Nat)) : Res :=
  let reads := if tv then viewReads s r b f n32 else slotReads s r b f n32 mx
  let s1 := pushTile s k w true dests (mkTile s k w z (r.width / 16) r.width kind reads [])
  .ok (if tv then s1 else nameSlot s1 r.blk b)

/-- MMA (R119 to R131). -/
def execMma (z : BitVec 5) (a : VReg) (b : BitVec 4) (f : MmaFmt) (t m u n : Bool) (s : State) :
    Host.Outcome State Fault Refusal :=
  let cnt := if m then 17 else 16
  tileWord s true
    (fun r => lowestFail r
      ([(!slabsIn s r z.toNat (r.width / 16), 0x01), ((memCheck [] (a.toNat, cnt) (0, 0) r).isSome, 0x04),
        ((batch r).length != r.width, 0x06)] ++ bChecks s r b f t n m))
    fun k r w =>
      let rows := (fibresOf r (batch r)).map fun p => (p.1, p.2.base + a.toNat)
      enterMma s k r w z.toNat b f t n m
        (.mma rows f t m u n b.toNat (cbufOf s r.blk b.toNat).c (nextFill (cbufOf s r.blk b.toNat)) (viewOf r b))
        (rows.flatMap fun p => (List.range cnt).map fun j => (p.1, p.2 + j))

/-- The MMA format of an MMAC format. -/
def mmacFmt : MmacFmt → MmaFmt
  | .f16 => .f16
  | .bf16 => .bf16
  | .e4m3 => .e4m3

/-- MMAC (R123, R130, R131). -/
def execMmac (z src : BitVec 5) (q : BitVec 2) (b : BitVec 4) (f : MmacFmt) (x t u n : Bool) (s : State) :
    Host.Outcome State Fault Refusal :=
  tileWord s true
    (fun r => lowestFail r
      ([(!slabsIn s r z.toNat (r.width / 16) || !slabsIn s r src.toNat (r.width / 16) ||
          decide (64 < 16 * q.toNat + fmtK (mmacFmt f)), 0x01),
        (!converged r, 0x06)] ++ bChecks s r b (mmacFmt f) t n false))
    fun k r w =>
      enterMma s k r w z.toNat b (mmacFmt f) t n false
        (.mmac src.toNat q.toNat f x t u n b.toNat (cbufOf s r.blk b.toNat).c (nextFill (cbufOf s r.blk b.toNat)) (viewOf r b)) []

/-! ## ZOP words -/

/-- ZCLR (R139). -/
def execZclr (z : BitVec 5) (c : SlabCnt) (s : State) : Host.Outcome State Fault Refusal :=
  tileWord s true (fun r => lowestFail r [(!slabsIn s r z.toNat (slabNum c), 0x01)])
    fun k _ w => .ok (pushTile s k w true [] (mkTile s k w z.toNat (slabNum c) 0 .zclr [] []))

/-- The checks of ZLD and ZST (R139, R140). -/
def moveCheck (s : State) (z : BitVec 5) (c : SlabCnt) (a : SReg) (r : Wave) : Option Trap :=
  let off := (sreg r a.toNat).toNat
  if !slabsIn s r z.toNat (slabNum c) then some (mkTrap 0x01 (batch r) 0 0)
  else if off % 16 != 0 then some (mkTrap 0x08 (batch r) off 0)
  else if spmSize s r < off + 4096 * slabNum c then some (mkTrap 0x18 (batch r) off (4096 * slabNum c))
  else none

/-- The scratchpad bytes that ZLD or ZST moves (R140). -/
def moveSpan (c : SlabCnt) (off : Nat) : List (Space × Nat × Nat) := [(Space.spm, off, 4096 * slabNum c)]

/-- ZLD (R139, R140). -/
def execZld (z : BitVec 5) (c : SlabCnt) (a : SReg) (s : State) : Host.Outcome State Fault Refusal :=
  tileWord s true (moveCheck s z c a) fun k r w =>
    let off := (sreg r a.toNat).toNat
    .ok (pushTile s k w true [] (mkTile s k w z.toNat (slabNum c) 0 (.zld off) (moveSpan c off) []))

/-- ZST (R139, R140). -/
def execZst (z : BitVec 5) (c : SlabCnt) (a : SReg) (s : State) : Host.Outcome State Fault Refusal :=
  tileWord s true (moveCheck s z c a) fun k r w =>
    let off := (sreg r a.toNat).toNat
    .ok (pushTile s k w true [] (mkTile s k w z.toNat (slabNum c) 0 (.zst off) [] (moveSpan c off)))

/-- The selection that a drain issued now uses: that of the latest EPISEL of the block (07_cartouche R148). -/
def selOf (b : Block) : Option Sel :=
  match (b.tiles.filterMap fun t => match t.kind with
      | .episel x => some x
      | _ => none).getLast? with
  | some x => some x
  | none => b.sel

/-- A drain as its words give it: descriptor registers, selection, rows. -/
structure Drain where
  t : Dst
  x0 : Nat
  x1 : Nat
  x2 : Nat
  sel : Sel
  rows : Nat

/-- The descriptor of a ZDRAIN (R141). -/
def drainOf (r : Wave) (a : SReg) (t : Dst) (c : SlabCnt) (sel : Sel) : Drain :=
  { t := t, x0 := (sreg r a.toNat).toNat, x1 := (sreg r (a.toNat + 1)).toNat, x2 := (sreg r (a.toNat + 2)).toNat, sel := sel,
    rows := 16 * slabNum c }

/-- The origin of a drain: an offset, a virtual address, or a pixel's address. -/
def Drain.origin (d : Drain) : Nat :=
  match d.t with
  | .spm => d.x0
  | .mem => d.x0 + 2 ^ 32 * d.x1
  | .srf => pixelAddr (d.x1 % 2 ^ 16) (d.x1 / 2 ^ 16)

/-- The view of a drain to a surface (R141). -/
def Drain.view (d : Drain) : View := { ste := d.x0 % 2 ^ 12, col := d.x1 % 2 ^ 16, row := d.x1 / 2 ^ 16 }

/-- The last byte of a drain's span after its origin (07_cartouche R156). -/
def Drain.span (d : Drain) : Nat := d.x2 * (d.rows - 1) + d.sel.b

/-- The checks of a drain other than those of device-memory pages (R141, 07_cartouche R156). A drain of zero bytes has no span. -/
def drainChecks (s : State) (r : Wave) (d : Drain) : List (Bool × Nat × Nat × Nat) :=
  let e := steOf s (ctxOf s r) d.view.ste
  let some' := d.sel.b != 0
  match d.t with
  | .spm =>
    [(d.x1 != 0 || (some' && d.x2 % 16 != 0), 0x01, 0, 0), (some' && d.x0 % 16 != 0, 0x08, d.x0, 0),
     (some' && decide (spmSize s r < d.x0 + d.span), 0x18, d.x0, d.span)]
  | .mem => [(some' && d.x2 % 16 != 0, 0x01, 0, 0)]
  | .srf =>
    [(bits d.x0 31 12 != 0 || d.x2 != 0 || (some' && e.valid && d.sel.b % e.p != 0), 0x01, 0, 0),
     (some' && e.valid && (decide (e.width < d.view.col + d.sel.b / e.p) || decide (e.height < d.view.row + d.rows)), 0x1A, 0, 0),
     (some' && !e.valid, 0x1B, 0, 0)]

/-- The first failing check of a drain, by the lowest code. -/
def drainTrap (s : State) (r : Wave) (d : Drain) : Option Trap :=
  (least (fun p => p.2.1) ((drainChecks s r d).filter fun p => p.1)).map fun p => mkTrap p.2.1 (batch r) p.2.2.1 p.2.2.2

/-- The destination runs of a drain: one for each row, cut at pages in device memory (R137, R141). -/
def drainWrites (s : State) (r : Wave) (d : Drain) (pages : Map PageAt) : List (Space × Nat × Nat) :=
  if d.sel.b = 0 then []
  else
    (List.range d.rows).flatMap fun j =>
      match d.t with
      | .spm => [(Space.spm, d.origin + d.x2 * j, d.sel.b)]
      | .srf => [(Space.surf d.view.ste, pixelAddr d.view.col (d.view.row + j), 8 * (d.sel.b / (steOf s (ctxOf s r) d.view.ste).p))]
      | .mem =>
        (pageRuns (d.origin + d.x2 * j) d.sel.b).filterMap fun q => (pagePlace pages q.1).map fun p => (p.1, p.2.1, q.2)

/-- The pages that a drain writes, where it writes device memory. -/
def drainPages (d : Drain) : List Nat := if d.t = .mem ∧ d.sel.b ≠ 0 then pageHeads d.origin d.span else []

/-- ZDRAIN (R141, 07_cartouche R148, R156). -/
def execZdrain (z : BitVec 5) (c : SlabCnt) (a : SReg) (t : Dst) (clr : Bool) (s : State) : Host.Outcome State Fault Refusal :=
  tileWord s true (fun r => lowestFail r [(!slabsIn s r z.toNat (slabNum c), 0x01)]) fun k r w =>
    match (s.block r.blk).bind selOf with
    | none => illegalHere r
    | some sel =>
      let d := drainOf r a t c sel
      match drainTrap s r d with
      | some f => .trap f
      | none =>
        withPages s r ((drainPages d).map fun va => (va, Access.store)) fun pages =>
          let op := mkTile s k w z.toNat (slabNum c) 0
            (.zdrain t clr d.origin d.view d.x2 (sreg r (a.toNat + 3)) sel pages) [] (drainWrites s r d pages)
          .ok ((pushTile s k w true [] op).posts (pageWalks s r (drainPages d)))

/-- The operations that an OPFENCE waits for: pending register writes of its wave, and stores and atomics of the block to scratchpad
and surfaces (R135). -/
def fenceOps (s : State) (k : Nat) (blk : Nat) : List (Nat × Nat) :=
  (s.work.waves.filter fun p => p.2.blk == blk).flatMap fun p =>
    (p.2.ops.filter fun o => !o.performed && o.kind != .tile &&
      ((p.1 == k && !o.dests.isEmpty) || (o.stores && o.subs.any fun x => x.space == .spm || (match x.space with
        | .surf _ => true
        | _ => false)))).map fun o => (p.1, o.id)

/-- OPFENCE (R135, R138). -/
def execOpfence (s : State) : Host.Outcome State Fault Refusal :=
  tileWord s false (fun _ => none) fun k r w =>
    .ok (pushTile s k w false [] (mkTile s k w 0 0 0 (.opfence (fenceOps s k r.blk)) [] []))

/-- The selection that the registers of an EPISEL describe (07_cartouche R146). -/
def selWord (r : Wave) (a : SReg) (id : Nat) : Sel :=
  let x := (sreg r (a.toNat + 1)).toNat
  { o := (sreg r a.toNat).toNat, n := bits x 6 0, kc := bits x 12 8, b := bits x 26 16, id := id }

/-- A selection word is within its limits (07_cartouche R146). -/
def selFields (x : Nat) : Bool :=
  bits x 31 27 == 0 && bits x 15 13 == 0 && !bitAt x 7 && decide (bits x 26 16 ≤ 1024) && bits x 26 16 % 16 == 0 &&
    decide (bits x 12 8 ≤ 16) && decide (1 ≤ bits x 6 0) && decide (bits x 6 0 ≤ 64)

/-- The checks of EPISEL (07_cartouche R147). -/
def selCheck (s : State) (a : SReg) (r : Wave) : Option Trap :=
  let e := selWord r a 0
  if !selFields (sreg r (a.toNat + 1)).toNat then some (mkTrap 0x01 (batch r) 0 0)
  else if e.o % 16 != 0 then some (mkTrap 0x08 (batch r) e.o 0)
  else if spmSize s r < e.o + e.bytes then some (mkTrap 0x18 (batch r) e.o e.bytes)
  else none

/-- EPISEL (07_cartouche R146 to R148). -/
def execEpisel (a : SReg) (s : State) : Host.Outcome State Fault Refusal :=
  tileWord s false (selCheck s a) fun k r w =>
    .ok (pushTile s k w false []
      (mkTile s k w 0 0 0 (.episel (selWord r a (((s.block r.blk).map Block.nextTile).getD 0))) [] []))

/-! ## Firing -/

/-- The units that tile operations hold (R142): the engine, the load and store port, the cartouche processor. -/
def TileOp.unit (t : TileOp) : Nat :=
  match t.kind with
  | .mma .. => 0
  | .mmac .. => 0
  | .zdrain .. => 2
  | _ => 1

/-- The slabs that an operation reads (R126, R130, R139). -/
def TileOp.slabReads (t : TileOp) : List (Nat × Nat) :=
  match t.kind with
  | .mma .. => [(t.z, t.cnt)]
  | .mmac src .. => [(t.z, t.cnt), (src, t.cnt)]
  | .zst _ => [(t.z, t.cnt)]
  | .zdrain .. => [(t.z, t.cnt)]
  | _ => []

/-- The slabs that an operation writes. -/
def TileOp.slabWrites (t : TileOp) : List (Nat × Nat) :=
  match t.kind with
  | .mma .. => [(t.z, t.cnt)]
  | .mmac .. => [(t.z, t.cnt)]
  | .zclr => [(t.z, t.cnt)]
  | .zld _ => [(t.z, t.cnt)]
  | .zdrain _ clr _ _ _ _ _ _ => if clr then [(t.z, t.cnt)] else []
  | _ => []

/-- Slab ranges share a slab. -/
def slabsMeet (a b : List (Nat × Nat)) : Bool := a.any fun p => b.any fun q => decide (p.1 < q.1 + q.2) && decide (q.1 < p.1 + p.2)

/-- An accumulating MMA on the tile of the MMA before it takes the running sum from the engine (R142; that MMAC does not is DEDUCED,
log 64). -/
def TileOp.chains (e t : TileOp) : Bool :=
  match e.kind, t.kind with
  | .mma .., .mma _ _ _ _ acc _ _ _ _ _ => acc && e.z == t.z && e.cnt == t.cnt
  | _, _ => false

/-- The two operations read or write a slab in common. -/
def TileOp.shares (e t : TileOp) : Bool := slabsMeet (e.slabReads ++ e.slabWrites) (t.slabReads ++ t.slabWrites)

/-- An earlier operation holds back a later one by its slabs, until it completes, or between accumulating MMAs until its occupancy ends
(R134, R142). -/
def TileOp.blocks (e t : TileOp) : Bool := e.shares t && !(e.chains t && e.consumed)

/-- A unit of a core is held by a running operation (R142). -/
def unitHeld (s : State) (core u : Nat) : Bool :=
  s.work.blocks.any fun p => p.2.core == core && p.2.tiles.any fun t => t.running && !t.consumed && t.unit == u

/-- The fill that an operation names stands committed in its slot (R132). -/
def slotReady (s : State) (blk cb slot fill : Nat) : Bool :=
  let x := (cbufOf s blk cb).slot slot
  x.fill == fill && (x.st == .committed || x.st == .released)

/-- The image of a drain is in the processor (07_cartouche R149). -/
def imageLoaded (s : State) (core blk : Nat) (sel : Sel) : Bool := s.work.images.look core == some (blk, sel.id)

/-- The scratchpad bytes of a run are not held by a copy (11_async_copies R243). -/
def spmFree (s : State) (blk : Nat) (load : Bool) (q : Space × Nat × Nat) : Bool :=
  q.1 != .spm || q.2.2 == 0 || !boardHolds s blk q.2.1 q.2.2 load

/-- The operands of an operation can be read (R125, R132, R135, 07_cartouche R149, 11_async_copies R243). -/
def operandsReady (s : State) (blk : Nat) (b : Block) (t : TileOp) : Bool :=
  match t.kind with
  | .mma _ f tv _ _ n32 cb slot fill v => if tv then viewReady s b.ctx v n32 (fmtK f) else slotReady s blk cb slot fill
  | .mmac _ _ f _ tv _ n32 cb slot fill v => if tv then viewReady s b.ctx v n32 (fmtK (mmacFmt f)) else slotReady s blk cb slot fill
  | .zld _ => t.reads.all (spmFree s blk true)
  | .zst _ => t.writes.all (spmFree s blk false)
  | .zdrain _ _ _ _ _ _ sel _ =>
    t.writes.all (spmFree s blk false) && (imageLoaded s b.core blk sel || spmFree s blk true (.spm, sel.o, sel.bytes))
  | _ => true

/-- Every operation of an OPFENCE's list has been performed (R135). -/
def fenceMet (s : State) (ops : List (Nat × Nat)) : Bool :=
  ops.all fun p => match (s.wave p.1).bind fun w => opOf w p.2 with
    | some o => o.performed
    | none => true

/-- The next entry of a queue to start. -/
def nextTileOp (b : Block) : Option TileOp := b.tiles.find? fun t => !t.running

/-- The entries before one in its queue. -/
def tilesBefore (b : Block) (id : Nat) : List TileOp := b.tiles.takeWhile fun e => e.id != id

/-- An entry can start, or leave the queue, now (R132, R134, R135, R142, R148). -/
def tileReady (s : State) (blk : Nat) (b : Block) (t : TileOp) : Bool :=
  let before := tilesBefore b t.id
  match t.kind with
  | .opfence ops => before.isEmpty && fenceMet s ops
  | .episel _ => before.isEmpty
  | _ => !before.any (fun e => e.blocks t) && !unitHeld s b.core t.unit && operandsReady s blk b t

/-- The ready heads of the queues of a core's blocks that need one unit. -/
def readyHeads (s : State) (core u : Nat) : List TileOp :=
  s.work.blocks.filterMap fun p =>
    if p.2.core == core then (nextTileOp p.2).filter fun t => t.unit == u && tileReady s p.1 p.2 t else none

/-- No older head of the core's queues is ready for the unit of an entry (R134). OPFENCE and EPISEL need none. -/
def servedFirst (s : State) (core : Nat) (t : TileOp) : Bool :=
  match t.kind with
  | .opfence _ => true
  | .episel _ => true
  | _ => (readyHeads s core t.unit).all fun e => decide (t.stamp ≤ e.stamp)

/-- The words of a tile and their conditions from a function of row and column. -/
def tileWords (z m cols : Nat) (f : Nat → Nat → FRes) : Map Word × Conds :=
  let rs := (List.range m).flatMap fun i => (List.range cols).map fun n => (slabIndex z i n, f i n)
  (rs.map fun p => (p.1, BitVec.ofNat 32 p.2.bits), rs.foldl (fun c p => c ||| p.2.conds) 0)

/-- The bytes of the slot that an operation names (R124). -/
def slotBytes (s : State) (blk : Nat) (t : TileOp) : List Byte :=
  match t.reads with
  | (.spm, a, n) :: _ => spmBytes s blk a n
  | _ => []

/-- A word of the accumulator store with the sums that the engine still holds for an operation (R142). -/
def runningWord (b : Block) (t : TileOp) (i : Nat) : Word :=
  ((tilesBefore b t.id).filter fun e => e.chains t).foldl (fun x e => e.out.get i x) (b.slabs.get i 0)

/-- The tile of an MMA (R121 to R127). -/
def runMma (s : State) (blk : Nat) (b : Block) (w : Wave) (t : TileOp) (rows : List (Nat × Nat)) (f : MmaFmt) (tv mx acc n32 : Bool)
    (v : View) : Map Word × Conds :=
  let regs := rows.map fun p => rowRegs s w mx p
  let bs := slotBytes s blk t
  let bElem := fun k n => if tv then viewElem s b.ctx v k n else slotElem f n32 bs k n
  tileWords t.z t.m (tileCols n32) fun i n =>
    let row := regs.getD i []
    let old := (runningWord b t (slabIndex t.z i n)).toNat
    if f = .i8 then intElem (rowElem f row) (fun k => bElem k n) (fmtK f) (if acc then old else 0)
    else
      floatElem (fun k => aValue f (rowElem f row k)) (fun k => bValue f (bElem k n)) (rowScale mx row)
        (fun j => slotScale n32 mx bs j n) ((fmtK f) / 32) (if acc then some old else none)

/-- The type code of an MMAC format. -/
def mmacTy : MmacFmt → NumTy
  | .f16 => .f16
  | .bf16 => .bf16
  | .e4m3 => .e4m3

/-- The tile of an MMAC, with the conditions of the down-conversion (R130). -/
def runMmac (s : State) (blk : Nat) (b : Block) (t : TileOp) (src q : Nat) (f : MmacFmt) (sat tv acc n32 : Bool) (v : View) :
    Map Word × Conds :=
  let m := (mmacFmt f)
  let bs := slotBytes s blk t
  let bElem := fun k n => if tv then viewElem s b.ctx v k n else slotElem m n32 bs k n
  let rows := (List.range t.m).map fun i => (List.range (fmtK m)).map fun k => convert (mmacTy f) .f32 .rne sat (slabWord b src i (16 * q + k))
  let r := tileWords t.z t.m (tileCols n32) fun i n =>
    let row := rows.getD i []
    floatElem (fun k => aValue m ((row.getD k (0, 0)).1.toNat)) (fun k => bValue m (bElem k n)) (fun _ => .fin false 1 0)
      (fun _ => .fin false 1 0) ((fmtK m) / 32) (if acc then some (slabWord b t.z i n).toNat else none)
  (r.1, rows.foldl (fun c row => row.foldl (fun c x => c ||| x.2) c) r.2)

/-- The bytes of an image as they stand in the block's scratchpad when the processor loads it (07_cartouche R145, R149). -/
def loadImage (s : State) (core blk : Nat) (sel : Sel) : State :=
  if imageLoaded s core blk sel then s
  else
    { s with work := { s.work with
        images := s.work.images.put core (blk, sel.id)
        imageBytes := s.work.imageBytes.put core (spmBytes s blk sel.o sel.bytes) } }

/-- The image that a drain runs: the loaded words of 16 bits, and for a word that has been written since, the old or the new one, which is free
(07_cartouche R150). A word written between the EPISEL and the load is taken as new (DESIGN CHOICE, log 65). -/
def drainImage (s : State) (core blk : Nat) (sel : Sel) : List Byte :=
  let old := s.work.imageBytes.get core []
  let new := spmBytes s blk sel.o sel.bytes
  (List.range old.length).map fun i =>
    if (Config.freeWord s.tick (2 ^ 21 + i / 2)).getLsbD 0 then old.getD i 0 else new.getD i 0

/-- The place of byte `i` of row `j` of a drain: an offset, a virtual address, or eight times a pixel's number with the byte in it
(R141, 07_cartouche R156). -/
def drainPlace (s : State) (ctx : Nat) (dst : Dst) (origin : Nat) (v : View) (stride j i : Nat) : Nat :=
  match dst with
  | .srf =>
    let p := (steOf s ctx v.ste).p
    pixelAddr (v.col + i / p) (v.row + j) + i % p
  | _ => origin + stride * j + i

/-- The rows of a drain through its program: the bytes at their places, in row order, and the conditions (R141). -/
def runDrain (s : State) (b : Block) (img : List Byte) (t : TileOp) (dst : Dst) (origin : Nat) (v : View) (stride : Nat) (sc : Word)
    (sel : Sel) : List (Nat × Byte) × Conds :=
  let rs := (List.range (16 * t.cnt)).map fun j =>
    (j, cartRow sel img sc.toNat ((List.range 64).map fun n => (slabWord b t.z j n).toNat))
  (rs.flatMap fun q => (List.range sel.b).map fun i => (drainPlace s b.ctx dst origin v stride q.1 i, q.2.1.getD i 0),
    rs.foldl (fun c q => c ||| q.2.2) 0)

/-- Words of scratchpad as the words of slabs (R140). -/
def runZld (s : State) (blk : Nat) (t : TileOp) (off : Nat) : Map Word :=
  (List.range (1024 * t.cnt)).map fun i => (1024 * t.z + i, BitVec.ofNat 32 (leNat (spmBytes s blk (off + 4 * i) 4)))

/-- Words of slabs as bytes of scratchpad (R140). -/
def runZst (b : Block) (t : TileOp) (off : Nat) : List (Nat × Byte) :=
  (List.range (1024 * t.cnt)).flatMap fun i =>
    (List.range 4).zip (leBytes (b.slabs.get (1024 * t.z + i) 0).toNat 4) |>.map fun p => (off + 4 * i + p.1, p.2)

/-- Zeros for the slabs of an operation. -/
def clearWords (t : TileOp) : Map Word := (List.range (1024 * t.cnt)).map fun i => (1024 * t.z + i, 0)

/-- An operation of a wave has an operand register that was written after its issue (R137). -/
def operandLost (s : State) (t : TileOp) : Bool :=
  match (s.wave t.wave).bind fun w => opOf w t.op with
  | some o => !o.clobbered.isEmpty
  | none => false

/-- The slabs whose words an operation takes: an accumulating MMA or MMAC its sums, an MMAC its sources, a store or drain what it stores. -/
def TileOp.takes (t : TileOp) : List (Nat × Nat) :=
  match t.kind with
  | .mma _ _ _ _ acc _ _ _ _ _ => if acc then [(t.z, t.cnt)] else []
  | .mmac src _ _ _ _ acc _ _ _ _ _ => (src, t.cnt) :: if acc then [(t.z, t.cnt)] else []
  | .zst _ => [(t.z, t.cnt)]
  | .zdrain .. => [(t.z, t.cnt)]
  | _ => []

/-- A run of slabs holds a poisoned one. -/
def slabsPoisoned (b : Block) (qs : List (Nat × Nat)) : Bool := b.poisonSlabs.any fun z => qs.any fun q => decide (q.1 ≤ z) && decide (z < q.1 + q.2)

/-- A run of pixels holds a poisoned one. -/
def runPoisoned (s : State) (ctx : Nat) (q : Space × Nat × Nat) : Bool :=
  match q.1 with
  | .surf e => (List.range (q.2.2 / 8)).any fun i => let xy := addrPixel (q.2.1 + 8 * i); pixelPoisoned s ctx e xy.1 xy.2
  | _ => false

/-- An operation takes poison: from a view of a surface, from slabs whose words were computed from poison, or from a sum still under way
(20_errors R438; DEDUCED, log 107). -/
def TileOp.takesPoison (s : State) (b : Block) (t : TileOp) : Bool :=
  t.reads.any (runPoisoned s b.ctx) || slabsPoisoned b t.takes || b.tiles.any fun e => e.running && e.poison && t.chains e

/-- An entry starts: its operands are read and its results computed; they are delivered when it completes (R134, R142). -/
def fireTile (s : State) (blk : Nat) (b : Block) (t : TileOp) : State :=
  let run (s : State) (out : Map Word) (bytes : List (Nat × Byte)) (c : Conds) : State :=
    mapTile s blk t.id fun x => { x with running := true, out := out, bytes := bytes, conds := c, poison := t.takesPoison s b }
  match t.kind with
  | .opfence _ => dropTile s blk t.id
  | .episel sel => (dropTile s blk t.id).mapBlock blk fun b => { b with sel := some sel }
  | .mma rows f tv mx acc n32 _ _ _ v =>
    match s.wave t.wave with
    | some w =>
      let r := runMma s blk b w t rows f tv mx acc n32 v
      run s r.1 [] r.2
    | none => run s [] [] 0
  | .mmac src q f sat tv acc n32 _ _ _ v =>
    let r := runMmac s blk b t src q f sat tv acc n32 v
    run s r.1 [] r.2
  | .zclr => run s (clearWords t) [] 0
  | .zld off => run s (runZld s blk t off) [] 0
  | .zst off => run s [] (runZst b t off) 0
  | .zdrain dst clr origin v stride sc sel _ =>
    let s1 := loadImage s b.core blk sel
    let r := runDrain s1 b (drainImage s1 b.core blk sel) t dst origin v stride sc sel
    run s1 (if clr then clearWords t else []) r.1 r.2

/-- TILE_OP_FIRE (R134, R135, R142, 07_cartouche R156): the oldest ready head of the core's queues is served first. -/
def execTileOpFire (blk : Nat) (s : State) : Host.Outcome State Fault Refusal :=
  runEvent s (.tileOpFire blk)
    (((s.block blk).bind fun b => (nextTileOp b).map fun t => tileReady s blk b t && servedFirst s b.core t).getD false) fun s =>
      match (s.block blk).bind fun b => (nextTileOp b).map fun t => (b, t) with
      | some (b, t) => fireTile (touchPlaces s b.ctx t.reads) blk b t
      | none => s

/-- The slot of an operation named once less; a released fill that no operation names leaves its slot free (R132, R133). -/
def unnameSlot (s : State) (blk cb slot fill : Nat) : State :=
  mapCbuf s blk cb fun q => q.setSlot slot (settleSlot { q.slot slot with refs := (q.slot slot).refs.erase fill })

/-- The buffer, slot and fill that an operation names, if it names one. -/
def TileOp.slotNamed (t : TileOp) : Option (Nat × Nat × Nat) :=
  match t.kind with
  | .mma _ _ false _ _ _ cb slot fill _ => some (cb, slot, fill)
  | .mmac _ _ _ _ false _ _ cb slot fill _ => some (cb, slot, fill)
  | _ => none

/-- OPERANDS_CONSUMED: the end of an operation's occupancy (R132). -/
def execOperandsConsumed (blk id : Nat) (s : State) : Host.Outcome State Fault Refusal :=
  runEvent s (.operandsConsumed blk id)
    (((s.block blk).bind fun b => tileOf b id).any fun t => t.running && !t.consumed) fun s =>
      match (s.block blk).bind fun b => tileOf b id with
      | some t =>
        let s1 := mapTile s blk id fun x => { x with consumed := true }
        match t.slotNamed with
        | some (cb, slot, fill) => unnameSlot s1 blk cb slot fill
        | none => s1
      | none => s

/-! ## Completion -/

/-- The results of an operation: free where a write met its operands or its destination (R137). -/
def TileOp.settled (s : State) (t : TileOp) : TileOp :=
  if t.tainted || operandLost s t then
    { t with
      out := (List.range t.out.length).zip t.out |>.map fun p => (p.2.1, Config.freeWord s.tick p.1)
      bytes := (List.range t.bytes.length).zip t.bytes |>.map fun p => (p.2.1, Config.freeByte s.tick p.1)
      conds := t.conds ||| (Config.freeWord s.tick (2 ^ 20)).truncate 7 }
  else t

/-- The bytes of one pixel of a surface from those of a drain. -/
def drainPixel (s : State) (ctx ste : Nat) (poison : Bool) (q : Nat × Byte) : State :=
  let xy := addrPixel (q.1 / 8 * 8)
  pixelWrite s ctx ste xy.1 xy.2 (patchBits (pixelRead s ctx ste xy.1 xy.2) (8 * (q.1 % 8)) 8 q.2.toNat) poison

/-- The bytes of a row of a drain as runs, none of which crosses a line. -/
def lineRuns (qs : List (Nat × Byte)) : List (Nat × List Byte) :=
  qs.foldr (fun q rs => match rs with
    | (a, bs) :: rest => if a = q.1 + 1 ∧ a % 64 ≠ 0 then (q.1, q.2 :: bs) :: rest else (q.1, [q.2]) :: rs
    | [] => [(q.1, [q.2])]) []

/-- A row of a drain to memory: a run that covers a line clears its poison, and poison that the drain has taken marks what it writes
(20_errors R438). -/
def drainRow (s : State) (pages : Map PageAt) (poison : Bool) (row : List (Nat × Byte)) : State :=
  (lineRuns row).foldl (fun s q => let s1 := pageWrite s pages q.1 q.2; if poison then poisonAt s1 pages q.1 else s1) s

/-- The bytes of an operation at its destination. -/
def tileStore (s : State) (blk : Nat) (b : Block) (t : TileOp) : State :=
  match t.kind with
  | .zst _ => t.bytes.foldl (fun s q => spmWrite s blk q.1 [q.2]) s
  | .zdrain .spm _ _ _ _ _ _ _ => t.bytes.foldl (fun s q => spmWrite s blk q.1 [q.2]) s
  | .zdrain .mem _ _ _ _ _ sel pages =>
    (List.range (16 * t.cnt)).foldl (fun s j => drainRow s pages t.poison ((t.bytes.drop (sel.b * j)).take sel.b)) s
  | .zdrain .srf _ _ v _ _ _ _ => t.bytes.foldl (drainPixel · b.ctx v.ste t.poison ·) s
  | _ => s

/-- The destination of an operation takes its bytes now: no copy holds its scratchpad bytes (08_memory_spaces R168, 11_async_copies R243,
13_raster R286). -/
def destReady (s : State) (blk : Nat) (b : Block) (t : TileOp) : Bool :=
  t.writes.all (spmFree s blk false) &&
  match t.kind with
  | .zdrain .mem _ _ _ _ _ _ pages => t.bytes.all fun q => pageFree s pages q.1
  | .zdrain .srf _ _ v _ _ _ _ => t.bytes.all fun q =>
      let xy := addrPixel (q.1 / 8 * 8)
      pixelReady s b.ctx v.ste xy.1 xy.2 true
  | _ => true

/-- An operation that took the running sum of one whose results are free has free results too (R137, R142). -/
def taintNext (s : State) (t : TileOp) (b : Block) : Block :=
  if t.tainted || operandLost s t then { b with tiles := b.tiles.map fun e => if e.running && t.chains e then { e with tainted := true } else e }
  else b

/-- What the event of a drain that has passed poison on names: the first virtual address that it writes, or its surface entry; nothing for a
drain to scratchpad, whose words carry no mark (20_errors R438, R445). -/
def TileOp.poisonName (t : TileOp) : Option Nat :=
  if !t.poison then none
  else match t.kind with
    | .zdrain .mem .. => (t.bytes.head?).map Prod.fst
    | .zdrain .srf _ _ v _ _ _ _ => some v.ste
    | _ => none

/-- The slabs of a block that hold words computed from poison, once an operation has delivered its words; a drain that clears leaves zeros. -/
def slabMarks (b : Block) (t : TileOp) : List Nat :=
  let mine := t.slabWrites.flatMap fun q => (List.range q.2).map (q.1 + ·)
  let kept := b.poisonSlabs.filter fun z => !mine.contains z
  match t.kind with
  | .mma .. => if t.poison then mine ++ kept else kept
  | .mmac .. => if t.poison then mine ++ kept else kept
  | _ => kept

/-- A completed operation delivers its slab words, its bytes and its conditions, and leaves the queue (R128, R134, R142). -/
def finishTile (s : State) (blk : Nat) (b : Block) (t0 : TileOp) : State :=
  let t := t0.settled s
  let s0 := tileStore s blk b t
  let s1 := match t.poisonName with
    | some x => postPoison s0 b.ctx (stackOf b.core) x
    | none => s0
  let s2 := s1.mapBlock blk fun b => taintNext s t0
    { b with slabs := t.out.foldl (fun m p => Map.store m p.1 p.2 0) b.slabs, poisonSlabs := slabMarks b t }
  let s3 := s2.mapWave t.wave fun w => { w with fstat := w.fstat ||| t.conds }
  (dropTile s3 blk t.id).mapWave t.wave fun w => w.mapOp t.op fun o => { o with done := true }

/-- TILE_OP_COMPLETE (R128, R134, R142): operations that share a slab complete in queue order. -/
def execTileOpComplete (blk id : Nat) (s : State) : Host.Outcome State Fault Refusal :=
  runEvent s (.tileOpComplete blk id)
    (((s.block blk).bind fun b => (tileOf b id).map fun t => t.running && t.consumed && destReady s blk b t &&
      !(tilesBefore b t.id).any fun e => e.shares t).getD false) fun s =>
      match (s.block blk).bind fun b => (tileOf b id).map fun t => (b, t) with
      | some (b, t) => finishTile s blk b t
      | none => s

end Sys2Proof.Machine
end

