-- ==== Sys2Proof/Machine/Waypoint.lean ====
section
/-! DEFINITION. Waypoints: keys and entries, the ordered-section words, requests, multicasts, claims and answers, the deadlock walk and
gaps (12_ordered_sections R258 to R274). -/

namespace Sys2Proof.Machine

/-! ## Entries -/

/-- The home stack of a key (R258). -/
def wpHome (ctx : Nat) (key : Word) : Nat := parity (key.toNat ^^^ ctx)

/-- The entry of a key that has none (R259). -/
def WpEntry.fresh (ctx : Nat) (key n : Word) : WpEntry := { ctx := ctx, key := key, n := n, holder := none, skip := 0, subs := [] }

/-! ## The backing table -/

/-- The virtual addresses of the eight backing slots of a key (R260). -/
def backingSlots (c : CtxRec) (key : Word) : List Nat :=
  (List.range 8).map fun i => c.wpBase + 16 * ((Config.backingHash key.toNat + i) % 2 ^ c.wpK)

/-- A backing slot: its key, its n and whether it is in use (R260). -/
def backingRead (s : State) (ctx va : Nat) : Option (Word × Word × Bool) :=
  (hwRead s ctx va 16).map fun x => (BitVec.ofNat 32 x, BitVec.ofNat 32 (x / 2 ^ 32), bitAt x 64)

/-- The backing slot that holds a key, with its n. -/
def backingFind (s : State) (ctx : Nat) (key : Word) : Option (Nat × Word) :=
  ((s.ctxs.look ctx).map fun c => backingSlots c.cfg key).getD [] |>.findSome? fun va =>
    match backingRead s ctx va with
    | some (k, n, true) => if k = key then some (va, n) else none
    | _ => none

/-- A backing slot written (R260). -/
def backingWrite (s : State) (ctx va : Nat) (key n : Word) (valid : Bool) : State :=
  (hwWrite s ctx va 16 (key.toNat + 2 ^ 32 * n.toNat + (if valid then 2 ^ 64 else 0))).getD s

/-- The first backing slot of a key that is not in use. -/
def backingFree (s : State) (ctx : Nat) (key : Word) : Option Nat :=
  ((s.ctxs.look ctx).map fun c => backingSlots c.cfg key).getD [] |>.find? fun va =>
    match backingRead s ctx va with
    | some (_, _, v) => !v
    | none => false

/-- The home slices of a key's backing slots take requests now (R276). -/
def slotsFree (s : State) (ctx : Nat) (key : Word) : Bool :=
  (((s.ctxs.look ctx).map fun c => backingSlots c.cfg key).getD []).all fun va => hwFree s ctx va 16

/-- The active entries of a home stack. -/
def wpCount (s : State) (stack : Nat) : Nat := (s.base.wps.filter fun e => wpHome e.ctx e.key == stack).length

/-- Room made in the active table of a stack: an idle entry that can be spilled leaves it; which one is free (R260, R261). -/
def wpSpill (s : State) (stack : Nat) : Option State :=
  let idle := s.base.wps.filter fun e => wpHome e.ctx e.key == stack && e.idle && (backingFree s e.ctx e.key).isSome
  match idle[Config.choose s.tick % idle.length]? with
  | some e => (backingFree s e.ctx e.key).map fun va => backingWrite (wpDrop s e.ctx e.key) e.ctx va e.key e.n true
  | none => none

/-- The table can look for the entry of a key now: no backing slot that this reads or writes lies in a line that takes no request (R276). -/
def wpOpen (s : State) (ctx : Nat) (key : Word) : Bool :=
  (wpActive s ctx key).isSome ||
    (slotsFree s ctx key && (decide (wpCount s (wpHome ctx key) < 8192) ||
      (s.base.wps.filter fun e => wpHome e.ctx e.key == wpHome ctx key && e.idle).all fun e => slotsFree s e.ctx e.key))

/-- The active entry of a key for a request, moved back from the backing table or made, with room made for it; nothing when the table
is full (R260, R261). -/
def wpEntry (s : State) (ctx : Nat) (key : Word) : Option (State × WpEntry) :=
  match wpActive s ctx key with
  | some e => some (s, e)
  | none =>
    let room := if wpCount s (wpHome ctx key) < 8192 then some s else wpSpill s (wpHome ctx key)
    room.map fun s1 =>
      match backingFind s1 ctx key with
      | some (va, n) => (backingWrite s1 ctx va key n false, WpEntry.fresh ctx key n)
      | none => (s1, WpEntry.fresh ctx key 0)

/-! ## Retiring a number -/

/-- n advanced past the numbers already skipped (R264): at most 255 of them. -/
def retireFrom (n : Word) (skip : BitVec 255) : Nat → Word × BitVec 255
  | 0 => (n + 1, skip >>> 1)
  | k + 1 => if skip.getLsbD 0 then retireFrom (n + 1) (skip >>> 1) k else (n + 1, skip >>> 1)

/-- The multicast of an entry's n to the subscribed cores (R264). -/
def multicasts (e : WpEntry) : List Ev := e.subs.map fun c => .waypointMulticast c e.ctx e.key e.n

/-- Retire (R264). -/
def wpRetire (s : State) (e : WpEntry) : State :=
  let r := retireFrom e.n e.skip 255
  let e1 := { e with holder := none, n := r.1, skip := r.2 }
  (wpPut s e1).posts (multicasts e1)

/-! ## Fibres by their identity -/

/-- The wave and the lane slot of a fibre. -/
def fibreAt (s : State) (uid : Nat) : Option (Nat × Nat × Fibre) :=
  s.work.waves.findSome? fun p => (p.2.fibres.find? fun q => q.2.uid == uid).map fun q => (p.1, q.1, q.2)

/-- A fibre changed wherever it is: in a wave or in a regroup pool. -/
def mapUid (s : State) (uid : Nat) (f : Fibre → Fibre) : State :=
  let g (x : Fibre) : Fibre := if x.uid = uid then f x else x
  { s with work := { s.work with
      waves := s.work.waves.map fun p => (p.1, { p.2 with fibres := p.2.fibres.map fun q => (q.1, g q.2) })
      blocks := s.work.blocks.map fun p => (p.1, { p.2 with pools := p.2.pools.map fun l =>
        { l with members := l.members.map fun m => { m with fibre := g m.fibre } } }) } }

/-- The first slot of a fibre with a key, a number and a state replaced. -/
def setSlot (x y : Sect) (f : Fibre) : Fibre := { f with slots := f.slots.set (f.slots.idxOf x) y }

/-- The core of a fibre. -/
def fibreCore (s : State) (uid : Nat) : Nat :=
  match fibreAt s uid with
  | some (k, _, _) => ((s.wave k).map (coreOf s)).getD 0
  | none => ((s.work.blocks.find? fun p => p.2.pools.any fun l => l.members.any fun m => m.fibre.uid == uid).map fun p => p.2.core).getD 0

/-! ## The words -/

/-- A fibre has a free section slot. -/
def freeSect (f : Fibre) : Bool := f.slots.contains Sect.none

/-- Trap 0x24 for the fibres of a batch that fail a rule of R263. -/
def nestTrap (xs : List LaneIn) (ok : LaneIn → Bool) (info : Nat) : Option Trap :=
  match (xs.filter fun x => !ok x).map LaneIn.lane with
  | [] => none
  | ls => some (mkTrap 0x24 ls 0 info)

/-- A section slot taken at issue. -/
def takeSect (w : Wave) (x : LaneIn) (y : Sect) : Wave := w.mapFibre x.lane (setSlot Sect.none y)

/-- A fibre parked at the word that issues. -/
def parkOne (s : State) (w : Wave) (lane : Nat) (k : Park) : Wave :=
  w.mapFibre lane fun f => { f with park := some { kind := k, next := s.issue.next } }

/-- A request of a fibre. -/
def wpReq (s : State) (r : Wave) (x : LaneIn) (kind : WpKind) (key seq : Word) (after : Option (Nat × Nat)) : Ev :=
  .waypointRequest { kind := kind, ctx := ctxOf s r, key := key, seq := seq, uid := x.fibre.uid, after := after }

/-- OENT (R262 to R264). -/
def execOent (d a b : VReg) (s : State) : Host.Outcome State Fault Refusal :=
  readWord s (fun r => portCheck r [a.toNat, b.toNat] [d.toNat]) [a.toNat, b.toNat] fun k r w ins =>
    match nestTrap ins (fun x => freeSect x.fibre) 0 with
    | some t => .trap t
    | none =>
      let w1 := ins.foldl (fun w x =>
        parkOne s (takeSect w x { key := x.arg 0, seq := x.arg 1, st := .awaiting }) x.lane
          (.oent (x.arg 0) (x.arg 1) (x.fibre.base + d.toNat))) w
      .ok ((s.moved k w1).posts (ins.map fun x => wpReq s r x .oent (x.arg 0) (x.arg 1) none))

/-- The section that a fibre holds on a key, if it holds one. -/
def heldSect (f : Fibre) (key : Word) : Option Sect := f.slots.find? fun y => y.key == key && y.st == .held

/-- OLEAVE (R262 to R264, R266). -/
def execOleave (a : VReg) (s : State) : Host.Outcome State Fault Refusal :=
  readWord s (fun r => portCheck r [a.toNat] []) [a.toNat] fun k r w ins =>
    match nestTrap ins (fun x => (heldSect x.fibre (x.arg 0)).isSome) 1 with
    | some t => .trap t
    | none =>
      let held := ins.filterMap fun x => (heldSect x.fibre (x.arg 0)).map fun y => (x, y)
      let w1 := held.foldl (fun w q => w.mapFibre q.1.lane (setSlot q.2 Sect.none)) w
      .ok ((s.setWave k w1).posts (held.map fun q => wpReq s r q.1 .oleave q.2.key q.2.seq (some (k, w.nextOp))))

/-- OSKIP (R262 to R264, R266). -/
def execOskip (a b : VReg) (s : State) : Host.Outcome State Fault Refusal :=
  readWord s (fun r => portCheck r [a.toNat, b.toNat] []) [a.toNat, b.toNat] fun k r w ins =>
    match nestTrap ins (fun x => freeSect x.fibre) 0 with
    | some t => .trap t
    | none =>
      let w1 := ins.foldl (fun w x => takeSect w x { key := x.arg 0, seq := x.arg 1, st := .deferred }) w
      .ok ((s.setWave k w1).posts (ins.map fun x => wpReq s r x .oskip (x.arg 0) (x.arg 1) (some (k, w.nextOp))))

/-- OQRY (R262, R264). -/
def execOqry (d a : VReg) (s : State) : Host.Outcome State Fault Refusal :=
  readWord s (fun r => portCheck r [a.toNat] [d.toNat]) [a.toNat] fun k r w ins =>
    let w1 := ins.foldl (fun w x => parkOne s w x.lane (.oqry (x.arg 0) (x.fibre.base + d.toNat))) w
    .ok ((s.moved k w1).posts (ins.map fun x => wpReq s r x .oqry (x.arg 0) 0 none))

/-! ## Requests at the entry -/

/-- The distance of a request's number from n (R259). -/
def wpDist (e : WpEntry) (seq : Word) : Int := (seq - e.n).toInt

/-- A core subscribed at an entry (R264). -/
def WpEntry.subscribe (e : WpEntry) (core : Nat) : WpEntry := if e.subs.contains core then e else { e with subs := core :: e.subs }

/-- A request that waits at its core from now on. -/
def addWait (s : State) (r : WpReq) (core : Nat) : State :=
  let q : WpWait := { req := r, core := core, stamp := s.dev.cycles, walks := 0, gap := .before, claiming := false }
  { s with base := { s.base with waits := q :: s.base.waits } }

/-- The answer of an entry to a fibre, on its way (R264). -/
def answerTo (s : State) (r : WpReq) (a : WpAns) : State := s.post (.waypointAnswer r.uid r.key a)

/-- Oent (R264). -/
def doOent (s : State) (e : WpEntry) (r : WpReq) : State :=
  let d := wpDist e r.seq
  if d < 0 ∨ (0 < d ∧ d < 256 ∧ e.skip.getLsbD (d.toNat - 1)) then answerTo (wpPut s e) r (.stale r.seq)
  else if d = 0 ∧ e.holder.isNone then answerTo (wpPut s { e with holder := some r.uid }) r (.granted r.seq)
  else addWait (wpPut s (e.subscribe (fibreCore s r.uid))) r (fibreCore s r.uid)

/-- The slot of a skip freed once the entry has recorded or discarded it (R263). -/
def skipDone (s : State) (r : WpReq) : State :=
  mapUid s r.uid (setSlot { key := r.key, seq := r.seq, st := .deferred } Sect.none)

/-- A fibre is live, in a wave or in a regroup pool. -/
def fibreLives (s : State) (uid : Nat) : Bool :=
  (fibreAt s uid).isSome || s.work.blocks.any fun p => p.2.pools.any fun l => l.members.any fun m => m.fibre.uid == uid

/-- Oskip (R264); what would be deferred of a fibre that has ended is discarded, and a saved fibre sends it again (R271, R272). -/
def doOskip (s : State) (e : WpEntry) (r : WpReq) : State :=
  let d := wpDist e r.seq
  if d < 0 ∨ (d = 0 ∧ e.holder.isSome) then skipDone (wpPut s e) r
  else if d = 0 then skipDone (wpRetire s e) r
  else if d < 256 then skipDone (wpPut s { e with skip := e.skip ||| ((1 : BitVec 255) <<< (d.toNat - 1)) }) r
  else if fibreLives s r.uid then addWait (wpPut s (e.subscribe (fibreCore s r.uid))) r (fibreCore s r.uid)
  else wpPut s e

/-- A request performed at its entry (R264). -/
def doRequest (s : State) (e : WpEntry) (r : WpReq) : State :=
  match r.kind with
  | .oent => doOent s e r
  | .oleave => if e.holder = some r.uid then wpRetire s e else wpPut s e
  | .oskip => doOskip s e r
  | .oqry => answerTo (wpPut s e) r (.value e.n)

/-- A failed skip of a fibre in a regroup pool: the trap is for the wave that the fibre starts in next, the first that it has (R274; DEDUCED,
log 93). -/
def oweReport (s : State) (r : WpReq) : State :=
  let f (m : PoolFibre) : PoolFibre := if m.fibre.uid = r.uid then { m with owed := m.owed ++ [r.key] } else m
  { s with work := { s.work with blocks := s.work.blocks.map fun p =>
      (p.1, { p.2 with pools := p.2.pools.map fun l => { l with members := l.members.map f } }) } }

/-- A request that finds the table full (R261, R274): an OENT or OQRY is answered so, a skip is not recorded and its slot is freed. -/
def tableFull (s : State) (r : WpReq) : State :=
  match r.kind with
  | .oskip =>
    match fibreAt s r.uid with
    | some (k, l, _) => (skipDone s r).post (.tableFullReport k (2 ^ l) r.key true)
    | none => skipDone (oweReport s r) r
  | .oleave => s
  | .oent => answerTo s r (.full (some r.seq))
  | .oqry => answerTo s r (.full none)

/-- The accesses that a release follows, and the S bytes that it writes through; a block that has left its core has written them through
(R266). -/
def releaseOf (s : State) (r : WpReq) : Option State :=
  match r.after.bind fun a => (s.block (a.1 / 16)).map fun b => (a, b.core) with
  | none => some s
  | some (a, core) =>
    if doneBefore s a.1 a.2 && dirtyFree s.mem core then some { s with mem := releaseBytes s.mem core } else none

/-- The earlier requests of a fibre for the same key have reached the entry (R258). -/
def reqFirst (s : State) (r : WpReq) : Bool :=
  (s.pending.takeWhile fun e => e != .waypointRequest r).all fun e => match e with
    | .waypointRequest q => !(q.uid == r.uid && q.key == r.key && q.ctx == r.ctx)
    | _ => true

/-! ## Multicasts and claims -/

/-- A wait gone. -/
def dropWait (s : State) (q : WpWait) : State := { s with base := { s.base with waits := s.base.waits.erase q } }

/-- What a core does with one of its waiting requests when n comes (R264, R265). -/
def hearOne (n : Word) (s : State) (q : WpWait) : State :=
  let d := (q.req.seq - n).toInt
  match q.req.kind with
  | .oskip => if d < 256 then (dropWait s q).post (.waypointRequest q.req) else s
  | _ =>
    if q.claiming then s
    else if d < 0 then answerTo (dropWait s q) q.req (.stale q.req.seq)
    else if d = 0 then
      { s with base := { s.base with waits := s.base.waits.map fun x => if x = q then { q with claiming := true } else x } }.post
        (.waypointClaim q.req)
    else s

/-- WAYPOINT_MULTICAST at a subscribed core (R265). -/
def execWaypointMulticast (core ctx : Nat) (key n : Word) (s : State) : Host.Outcome State Fault Refusal :=
  runEvent s (.waypointMulticast core ctx key n) (s.pending.contains (.waypointMulticast core ctx key n)) fun s =>
    let mine := s.base.waits.filter fun q => q.core == core && q.req.ctx == ctx && q.req.key == key
    dropSubs (mine.foldl (hearOne n) s) core ctx key

/-- A claim at the entry: granted, stale, or waiting again (R265). -/
def doClaim (s : State) (e : WpEntry) (q : WpWait) : State :=
  let d := wpDist e q.req.seq
  if d < 0 then answerTo (dropSubs (dropWait (wpPut s e) q) q.core q.req.ctx q.req.key) q.req (.stale q.req.seq)
  else if d = 0 ∧ e.holder.isNone then
    answerTo (dropSubs (dropWait (wpPut s { e with holder := some q.req.uid }) q) q.core q.req.ctx q.req.key) q.req
    (.granted q.req.seq)
  else
    let s1 := wpPut s (e.subscribe q.core)
    { s1 with base := { s1.base with waits := s1.base.waits.map fun x => if x = q then { q with claiming := false } else x } }

/-! ## Answers -/

/-- The number that an answer to an OENT is about; an answer to an OQRY is about none. -/
def answerSeq : WpAns → Option Word
  | .granted n => some n
  | .stale n => some n
  | .value _ => none
  | .full n => n

/-- A parked state waits for an answer about a key, at an OENT with that number or at an OQRY: the register that the answer goes to. -/
def keyAwaited (key : Word) (seq : Option Word) (q : Parked) : Option Nat :=
  match q.kind, seq with
  | .oent k n d, some m => if k = key ∧ n = m then some d else none
  | .oqry k d, none => if k = key then some d else none
  | _, _ => none

/-- A fibre waits for an answer: behind a handler, which the flag says, or in its wave (19_traps R426). -/
def awaitsKey (f : Fibre) (key : Word) (seq : Option Word) : Option (Nat × Bool) :=
  match f.behind.bind (keyAwaited key seq) with
  | some d => some (d, true)
  | none => (f.park.bind (keyAwaited key seq)).map fun d => (d, false)

/-- The slot of a fibre's OENT set by its answer (R263). -/
def answerSlot (key seq : Word) (st : SectState) (f : Fibre) : Fibre :=
  if f.slots.contains { key := key, seq := seq, st := .awaiting } then
    setSlot { key := key, seq := seq, st := .awaiting } (if st = .free then Sect.none else { key := key, seq := seq, st := st }) f
  else f

/-- A fibre answered: its register and its release (R264, R270). -/
def answerFibre (s : State) (k lane : Nat) (dst : Nat × Bool) (v : Word) : State :=
  s.mapWave k fun w =>
    let w1 := writePhys w lane dst.1 v
    if dst.2 then answerBehind w1 lane else releaseOne w1 lane

/-- The slot of a fibre's OENT set in its wave. -/
def setAwaited (s : State) (k lane : Nat) (key seq : Word) (st : SectState) : State :=
  s.mapWave k fun w => w.mapFibre lane (answerSlot key seq st)

/-- The acquire of a grant at the core of a wave (R266). -/
def grantAcquire (s : State) (k : Nat) : State :=
  match s.wave k with
  | some w => { s with mem := acquireBytes s.mem (coreOf s w) }
  | none => s

/-- What an answer does in the fibre that waits for it (R264 to R266, R274). -/
def takeAnswer (s : State) (k l : Nat) (d : Nat × Bool) (key : Word) : WpAns → State
  | .granted n => grantAcquire (answerFibre (setAwaited s k l key n .held) k l d 0) k
  | .stale n => answerFibre (setAwaited s k l key n .free) k l d 1
  | .value n => answerFibre s k l d n
  | .full (some n) => (setAwaited s k l key n .free).post (.tableFullReport k (2 ^ l) key false)
  | .full none => s.post (.tableFullReport k (2 ^ l) key false)

/-- WAYPOINT_ANSWER at the fibre's core (R265, R266, R270, R274). -/
def execWaypointAnswer (uid : Nat) (key : Word) (ans : WpAns) (s : State) : Host.Outcome State Fault Refusal :=
  runEvent s (.waypointAnswer uid key ans) (s.pending.contains (.waypointAnswer uid key ans)) fun s =>
    match (fibreAt s uid).bind fun p => (awaitsKey p.2.2 key (answerSeq ans)).map fun d => (p.1, p.2.1, d) with
    | some (k, l, d) => takeAnswer s k l d key ans
    | none => s

/-- The chain at which a fibre waits for a request about a key: in its wave, or behind a handler. -/
def failedPc (f : Fibre) (key : Word) : Pc :=
  match f.shadow with
  | some sh => if f.behind.any fun q => match q.kind with
      | .oent k _ _ => k == key
      | .oqry k _ => k == key
      | _ => false then sh.pc else f.pc
  | none => f.pc

/-- The chains of the fibres that a table-full failure names. -/
def failedPcs (w : Wave) (t : Trap) : List Pc :=
  (w.fibres.filter fun p => t.tmask.getLsbD p.1).map fun p => failedPc p.2 t.tinfo

/-- The failures of several fibres at one word for one key are one trap (R274). -/
def mergeReport (w : Wave) (t : Trap) : List Trap :=
  match w.due.find? fun u => u.cause == t.cause && u.tinfo == t.tinfo && u.next == t.next &&
      (t.next || (failedPcs w u).eraseDups == (failedPcs w t).eraseDups) with
  | some u => w.due.map fun x => if x = u then { u with tmask := u.tmask ||| t.tmask } else x
  | none => w.due ++ [t]

/-- TABLE_FULL_REPORT: trap 0x22 with the key, at the word's chain for the fibres that it failed in, or at the next chain for a skip
(R274). -/
def execTableFullReport (wave lanes : Nat) (key : Word) (skip : Bool) (s : State) : Host.Outcome State Fault Refusal :=
  runEvent s (.tableFullReport wave lanes key skip) (s.pending.contains (.tableFullReport wave lanes key skip)) fun s =>
    let t : Trap := { cause := 0x22, tmask := BitVec.ofNat 64 lanes, taddr := 0, tinfo := key, next := skip, pops := [], addrTold := false, infoTold := BitVec.allOnes 32 }
    (s.mapWave wave fun w => { w with due := mergeReport w t }).post (.trapEntry wave)

/-! ## Deadlocks and gaps -/

/-- The key of the section that a fibre waits for at OENT, in its wave or behind a handler: a request that has been withdrawn or answered
is no wait, although its fibre still stands at the chain (R268). -/
def oentKey (f : Fibre) : Option Word :=
  (f.park.toList ++ f.behind.toList).findSome? fun q => match q.kind with
    | .oent k n _ => if f.slots.contains { key := k, seq := n, st := .awaiting } then some k else none
    | _ => none

/-- A walk from a key that is awaited: whether it comes back to the waiter, after at most so many steps. Of a holder that waits at two OENTs, in
its handler and behind it, it follows the one in the handler (R268; DESIGN CHOICE, log 94). -/
def walkKeys (s : State) (uid ctx : Nat) : Nat → Word → Bool
  | 0, _ => false
  | n + 1, key =>
    match (wpActive s ctx key).bind fun e => e.holder with
    | some h => if h = uid then true else
      (match (fibreAt s h).bind fun p => oentKey p.2.2 with
        | some key1 => walkKeys s uid ctx n key1
        | none => false)
    | none => false

/-- The waits of a fibre at OENT: one, or two when its handler waits as well. -/
def waitsOf (s : State) (uid : Nat) : List WpWait := s.base.waits.filter fun q => q.req.uid == uid && q.req.kind == .oent

/-- A walk is due for a wait: one for each 2^16 cycles (R268). -/
def walkDue (s : State) (q : WpWait) : Bool := decide (q.walks < (s.dev.cycles - q.stamp) / 2 ^ 16)

/-- The wait of a fibre at OENT for which a walk is due. -/
def waitOf (s : State) (uid : Nat) : Option WpWait := (waitsOf s uid).find? (walkDue s)

/-- A request withdrawn by a walk: its slot is freed, and its wave takes trap 0x21 at the OENT chain (R268). -/
def wpWithdraw (s : State) (q : WpWait) : State :=
  let s1 := dropWaits { s with pending := s.pending.erase (.waypointClaim q.req) } (· == q)
  match fibreAt s1 q.req.uid with
  | some (k, l, _) =>
    report (setAwaited s1 k l q.req.key q.req.seq .free) k
      { cause := 0x21, tmask := BitVec.ofNat 64 (2 ^ l), taddr := 0, tinfo := q.req.key, next := false, pops := [], addrTold := false, infoTold := BitVec.allOnes 32 }
  | none => s1

/-- DEADLOCK_WALK: one walk for each 2^16 cycles that an OENT waits (R268). -/
def execDeadlockWalk (uid : Nat) (s : State) : Host.Outcome State Fault Refusal :=
  runEvent s (.deadlockWalk uid) (waitOf s uid).isSome fun s =>
    match waitOf s uid with
    | some q =>
      if walkKeys s uid q.req.ctx 16 q.req.key then wpWithdraw s q
      else
        { s with base := { s.base with waits := s.base.waits.map fun x => if x = q then { q with walks := q.walks + 1 } else x } }
    | none => s

/-- A wait comes to its 2^24th cycle (R269). -/
def gapNow (s : State) (q : WpWait) : Bool := q.req.kind == .oent && q.gap == .before && decide (q.stamp + 2 ^ 24 ≤ s.dev.cycles)

/-- The gap of a wait whose key has no holder, with the key's n (R269). -/
def gapOf (s : State) (q : WpWait) : Option GapNote :=
  match wpActive s q.req.ctx q.req.key with
  | some e => if e.holder.isNone then some { uid := q.req.uid, ctx := q.req.ctx, key := q.req.key, n := e.n, seq := q.req.seq } else none
  | none => some { uid := q.req.uid, ctx := q.req.ctx, key := q.req.key, n := 0, seq := q.req.seq }

/-- The waits that come to their 2^24th cycle, and the gaps found at that moment, whatever becomes of the wait afterwards (R269). -/
def noteGaps (s : State) : State :=
  { s with base := { s.base with
      waits := s.base.waits.map fun q => if gapNow s q then { q with gap := .over } else q
      gaps := s.base.gaps ++ (s.base.waits.filter (gapNow s)).filterMap (gapOf s) } }

/-- The oldest gap of a fibre whose event is to be posted. -/
def gapFor (s : State) (uid : Nat) : Option GapNote := s.base.gaps.find? fun g => g.uid == uid

/-- WAYPOINT_GAP: one event for each wait (R269, 17_translation R391). -/
def execWaypointGap (uid : Nat) (s : State) : Host.Outcome State Fault Refusal :=
  runEvent s (.waypointGap uid) (gapFor s uid).isSome fun s =>
    match gapFor s uid with
    | some g =>
      postEvent { s with base := { s.base with gaps := s.base.gaps.erase g } } g.ctx (wpHome g.ctx g.key) 2
        [(8, g.key.toNat), (12, g.n.toNat), (0x10, g.seq.toNat)]
    | none => s

end Sys2Proof.Machine
end

