-- ==== Sys2Proof/Machine/Save.lean ====
section
/-! DEFINITION. The save image: its layout, the writes that the core makes to it, and what a relaunch reads back (19_traps R434 to R436,
25_prog_context_save R475, R478). -/

namespace Sys2Proof.Machine

/-! ## Layout -/

/-- The bytes of one wave's record (R435). -/
def waveRecBytes (x : List Word) : Nat :=
  (1024 + 64 * recWidth x + 4 * recP x * recWidth x + recL x * recWidth x + 255) / 256 * 256

/-- The offset of a wave's record (R435). -/
def waveRecAt (x : List Word) (n : Nat) : Nat :=
  512 + rw x 7 + 4096 * recSlabs x + regroupBytes x + n * waveRecBytes x

/-- The pages that the core's state writes fall on can be written; a page that it writes nothing to does not count (R434). -/
def imageWritable (s : State) (ctx img : Nat) (ws : List (Nat × Nat)) : Bool :=
  ((ws.map fun p => (img + p.1) / 4096 * 4096).eraseDups).all fun va => match translate s noCore ctx .supervisor Access.store va with
    | .ok _ => true
    | .error _ => false

/-- State writes made whole, or not at all when one of them faults (R434). -/
def writeState (s : State) (ctx img : Nat) (ws : List (Nat × Nat)) : Option State :=
  if imageWritable s ctx img ws then hwWords s ctx img ws else none

/-- Words numbered from an offset. -/
def wordsAt (off : Nat) (ws : List Word) : List (Nat × Nat) :=
  ((List.range ws.length).zip ws).map fun p => (off + 4 * p.1, p.2.toNat)

/-- The word of a cartouche selection, in the layout of EPISEL (07_cartouche R146). -/
def selImage (e : Sel) : Nat := e.n + 2 ^ 8 * e.kc + 2 ^ 16 * e.b

/-- The descriptor of a buffer (R435). -/
def cbufWords (q : Cbuf) : List Word :=
  let st := ((List.range q.slots.length).zip q.slots).foldl (fun a p => a + (if p.2.st = .committed then 2 * 4 ^ p.1 else 0)) 0
  [BitVec.ofNat 32 q.base, BitVec.ofNat 32 (q.size + 2 ^ 16 * q.count), BitVec.ofNat 32 (q.p + 16 * q.c), BitVec.ofNat 32 st]

/-- The block header (R435). -/
def headerWords (b : Block) (x : List Word) (kind waves : Nat) : List (Nat × Nat) :=
  [(0, 1 + 256 * kind + 2 ^ 16 * waves), (4, b.gen.toNat), (8, rw x 7), (12, recSlabs x + 2 ^ 6 * bits (rw x 8) 22 18),
   (16, (b.sel.map fun e => e.o + 2 ^ 31).getD 0), (20, (b.sel.map selImage).getD 0), (24, regroupBytes x), (28, b.idx)] ++
    wordsAt 32 (List.replicate 56 0) ++ wordsAt 256 (b.cbufs.flatMap cbufWords)

/-- The words of a section slot; a request is never saved (R435, 12_ordered_sections R271). -/
def sectImage (x : Sect) : List Word :=
  if x.st = .awaiting ∨ x.st = .free then [0, 0, 0] else [x.key, x.seq, BitVec.ofNat 32 (sectCode x.st)]

/-- A fibre record (R435). -/
def fibreImage (f : Fibre) : List Word :=
  [toTpc f.pc, predWord f.preds, BitVec.ofNat 32 f.base, BitVec.ofNat 32 (fibreFlags f + 8 + 16 * parkCode f.park)] ++
    f.slots.flatMap sectImage

/-- A wave record (R435). -/
def waveImage (x : List Word) (w : Wave) : List (Nat × Nat) :=
  let o := waveRecAt x w.num
  let wd := recWidth x
  wordsAt o ((List.range 128).map fun i => w.sregs.get i 0) ++
    wordsAt (o + 0x200)
      ([w.fstat.zeroExtend 32, w.ftrap.zeroExtend 32, repWord w.rep, BitVec.ofNat 32 (w.num + 2 ^ 31)] ++
        w.loops.flatMap (fun e => [e.start, e.fin, e.count.zeroExtend 32]) ++
        ((List.range 4).flatMap fun q => (List.range 4).map fun j => streamCsr q j (streamOf w q)) ++
        [half (maskOf (w.fibres.map Prod.fst)).toNat false, half (maskOf (w.fibres.map Prod.fst)).toNat true] ++ List.replicate 94 0) ++
    ((List.range wd).flatMap fun l => wordsAt (o + 0x400 + 64 * l) ((w.fibres.look l).map fibreImage |>.getD (List.replicate 16 0))) ++
    ((List.range wd).flatMap fun l => wordsAt (o + 0x400 + 64 * wd + 4 * recP x * l)
      ((List.range (recP x)).map fun r => w.vregs.get (physKey l r) 0)) ++
    ((List.range wd).flatMap fun l => wordsAt (o + 0x400 + 64 * wd + 4 * recP x * wd + recL x * l)
      ((List.range (recL x / 4)).map fun i => BitVec.ofNat 32 (((w.fibres.look l).map fun f => windowRead f (4 * i) 4).getD 0)))

/-- The scratchpad and slab images, and the regroup copy, whose format is not architectural (R434, R435). -/
def arrayImage (s : State) (b : Block) (x : List Word) : List (Nat × Nat) :=
  wordsAt 512 ((List.range (rw x 7 / 4)).map fun i => BitVec.ofNat 32 (leNat ((List.range 4).map fun j => b.spm.get (4 * i + j) 0))) ++
    wordsAt (512 + rw x 7) ((List.range (1024 * recSlabs x)).map fun i => b.slabs.get i 0) ++
    wordsAt (512 + rw x 7 + 4096 * recSlabs x) ((List.range (regroupBytes x / 4)).map fun i => Config.freeWord s.tick i)

/-- The bit mask of the waves of a block that hold a live fibre. -/
def waveBits (s : State) (blk : Nat) : Nat :=
  ((List.range 16).filter fun n => ((s.wave (waveKey blk n)).map fun w => !w.fibres.isEmpty).getD false).foldl (fun a n => a + 2 ^ n) 0

/-- The home slices of a block's save image take its requests now (12_ordered_sections R276). -/
def imageFree (s : State) (blk : Nat) : Bool :=
  ((s.block blk).map fun b => hwFree s b.ctx (saveImg s blk) (saveSize s blk)).getD true

/-- The image of a block saved on a wait, written to its save area; nothing when a write faults (R434, R435, 16_scheduling R374). -/
def writeImage (s : State) (blk : Nat) (b : Block) : Option State :=
  let x := recordOf s b
  let ws := (wavesOf s blk).filterMap fun k => s.wave k
  writeState s b.ctx (saveImg s blk)
    (headerWords b x 0 (waveBits s blk) ++ arrayImage s b x ++ (ws.filter fun w => !w.fibres.isEmpty).flatMap (waveImage x))

/-- What the core writes before a handler is entered for trap 0x30: the generation, zeros in the header, and the regroup copy (R434,
25_prog_context_save R475). -/
def writeEntryParts (s : State) (blk : Nat) (b : Block) : Option State :=
  let x := recordOf s b
  writeState s b.ctx (saveImg s blk)
    ((4, b.gen.toNat) :: wordsAt 32 (List.replicate 56 0) ++
      wordsAt (512 + rw x 7 + 4096 * recSlabs x) ((List.range (regroupBytes x / 4)).map fun i => Config.freeWord s.tick i))

/-! ## Reading an image back -/

/-- Words of an image, or nothing when one cannot be read. -/
def imageWords (s : State) (ctx va n : Nat) : Option (List Word) :=
  (List.range n).foldl (fun acc i =>
    match acc, hwRead s ctx (va + 4 * i) 4 with
    | some ws, some x => some (ws ++ [BitVec.ofNat 32 x])
    | _, _ => none) (some [])

/-- A header's fields equal those that the launch gives the block, and a saved cartouche selection is within the limits of EPISEL (R436,
07_cartouche R146 to R148). -/
def headerOk (h : List Word) (b : Block) (x : List Word) : Bool :=
  rw h 0 % 2 ^ 8 == 1 && decide (bits (rw h 0) 15 8 ≤ 1) && decide (bits (rw h 0) 31 16 < 2 ^ recWaves x) && rw h 1 / 2 ^ 16 == 0 &&
    rw h 2 == rw x 7 && rw h 3 == recSlabs x + 2 ^ 6 * bits (rw x 8) 22 18 && rw h 6 == regroupBytes x && rw h 7 == b.idx &&
    ((h.take 64).drop 8).all (· == 0) && bits (rw h 4) 30 19 == 0 && (!bitAt (rw h 4) 31 || (selFields (rw h 5) && rw h 4 % 2 ^ 19 % 16 == 0 &&
      decide (rw h 4 % 2 ^ 19 + 128 + 256 * bits (rw h 5) 12 8 ≤ rw x 7)))

/-- The buffer of a header's entry; one with count 0 is unconfigured (R435, 11_async_copies R253). -/
def cbufOfWords (ws : List Word) : Cbuf :=
  let count := bits (rw ws 1) 20 16
  if count = 0 then Cbuf.empty else
  { base := rw ws 0 % 2 ^ 19, size := rw ws 1 % 2 ^ 16, count := count, p := rw ws 2 % 16, c := bits (rw ws 2) 7 4,
    copies := 0
    slots := (List.range count).map fun j => { freshSlot with st := if bits (rw ws 3) (2 * j + 1) (2 * j) = 2 then .committed else .free } }

/-- A buffer's entry is within its limits (R436, 11_async_copies R253, R255). -/
def cbufOk (ws : List Word) (spm : Nat) : Bool :=
  let q := cbufOfWords ws
  bits (rw ws 0) 31 19 == 0 && bits (rw ws 1) 31 21 == 0 && bits (rw ws 2) 31 8 == 0 &&
    (q.count == 0 ||
      (decide (q.count ≤ 16) && q.base % 32 == 0 && q.size % 32 == 0 && decide (32 ≤ q.size) && decide (q.size ≤ 65504) &&
        decide (q.base + q.size * q.count ≤ spm) && decide (q.p < q.count) && decide (q.c < q.count) &&
        decide (rw ws 3 < 4 ^ q.count) && (List.range q.count).all fun j => bits (rw ws 3) (2 * j) (2 * j) == 0))

/-- The selection of a header (R435, 07_cartouche R147). -/
def selOfWords (h : List Word) : Option Sel :=
  if bitAt (rw h 4) 31 then
    some { o := rw h 4 % 2 ^ 19, n := rw h 5 % 2 ^ 7, kc := bits (rw h 5) 12 8, b := bits (rw h 5) 26 16, id := 0 }
  else none

/-- A fibre record is within its limits (R435, R436): a window base is a register of the fibre's allocation (15_execution_model
R325, R335), and a PC has no slot 3 (02_encoding R17). -/
def fibreOk (r : List Word) (x : List Word) : Bool :=
  rw r 0 % 4 != 3 && bits (rw r 3) 31 7 == 0 && decide (bits (rw r 3) 6 4 ≤ 5) && decide (rw r 2 < recP x) &&
    (List.range 4).all fun i => decide (rw r (6 + 3 * i) < 3)

/-- The section slots of a fibre record. -/
def sectsOfWords (r : List Word) : List Sect :=
  (List.range 4).map fun i =>
    match rw r (6 + 3 * i) with
    | 1 => { key := nth r (4 + 3 * i), seq := nth r (5 + 3 * i), st := .held }
    | 2 => { key := nth r (4 + 3 * i), seq := nth r (5 + 3 * i), st := .deferred }
    | _ => Sect.none

/-- The fibre of a record: it issues its chain again, so it is not parked (R436). -/
def fibreOfWords (r : List Word) (uid : Nat) (g : Option Frag) (window : Map Byte) : Fibre :=
  { uid := uid, pc := ofTpc (nth r 0), preds := (nth r 1).truncate 7, base := rw r 2, padding := (nth r 3).getLsbD 0,
    spawned := (nth r 3).getLsbD 1, fragment := (nth r 3).getLsbD 2, frag := if (nth r 3).getLsbD 2 then g else none, window := window, slots := sectsOfWords r,
    park := none, shadow := none }

/-- A stream of four CSR words: the base of an active load stream is taken back by the elements held (R436). -/
def streamOfWords (q : Nat) (ws : List Word) : Stream :=
  let x := setQstate (nth ws 3) (setQbasehi (nth ws 1) (setQbaselo (nth ws 0) Stream.idle))
  let y := (setQstride (nth ws 2) x).getD x
  if q ≤ 1 && y.active then { y with base := y.base - BitVec.ofNat 64 (bits (rw ws 3) 31 28) * y.step.signExtend 64 } else y

/-- A wave's fields are within their limits (R435, R436). -/
def waveOk (ws : List Word) (n : Nat) : Bool :=
  rw ws 0x83 == n + 2 ^ 31 && decide (rw ws 0x80 < 128) && decide (rw ws 0x81 < 128) && decide (rw ws 0x82 % 128 ≤ 64) &&
    decide (rw ws 0x82 < 2 ^ 13) && ((List.range 4).all fun i => decide (rw ws (0x86 + 3 * i) < 2 ^ 9)) &&
    ((ws.take 256).drop 0xA2).all (· == 0) && (List.range 4).all fun q => (setQstride (nth ws (0x92 + 4 * q)) Stream.idle).isSome

/-- The parts of a wave's record: the first 256 words, the fibre records, the registers and the windows. -/
structure WaveParts where
  head : List Word
  fibres : List (List Word)
  regs : List (List Word)
  windows : List (List Word)

/-- A wave's record read (R435). -/
def readParts (s : State) (ctx at_ : Nat) (x : List Word) : Option WaveParts :=
  let wd := recWidth x
  let runs (o step n : Nat) : Option (List (List Word)) :=
    (List.range wd).foldl (fun acc l =>
      match acc, imageWords s ctx (at_ + o + step * l) n with
      | some xs, some ws => some (xs ++ [ws])
      | _, _ => none) (some [])
  match imageWords s ctx at_ 256, runs 0x400 64 16, runs (0x400 + 64 * wd) (4 * recP x) (recP x),
      runs (0x400 + 64 * wd + 4 * recP x * wd) (recL x) (recL x / 4) with
  | some h, some f, some r, some l => some { head := h, fibres := f, regs := r, windows := l }
  | _, _, _, _ => none

/-- Bytes of words, zeros unlisted. -/
def bytesOfWords (ws : List Word) : Map Byte :=
  ((List.range (4 * ws.length)).zip (ws.flatMap fun x => leBytes x.toNat 4)).filter fun p => p.2 != 0

/-- The wave of a record (R436, 25_prog_context_save R478): its identity map gives the fibres back their identities. -/
def waveOfParts (blk n : Nat) (l : Launch) (uids : Map (Nat × Option Frag)) (next : Nat) (p : WaveParts) : Wave :=
  let h := p.head
  let live := (List.range p.fibres.length).filter fun i => bitAt (rw (p.fibres.getD i []) 3) 3
  let w := freshWave blk n (nth l.record 3) l.level (BitVec.ofNat 64 (rd l.record 0)) []
    (live.map fun i =>
      let q := (uids.look (64 * n + i)).getD (next + i, none)
      (i, fibreOfWords (p.fibres.getD i []) q.1 q.2 (bytesOfWords (p.windows.getD i []))))
  { w with
    sregs := (((List.range 128).zip h).filter fun q => q.2 != 0)
    vregs := ((List.range p.regs.length).zip p.regs).flatMap fun q =>
      ((List.range q.2.length).zip q.2).filterMap fun v => if v.2 = 0 then none else some (physKey q.1 v.1, v.2)
    fstat := (nth h 0x80).truncate 7, ftrap := (nth h 0x81).truncate 7, rep := repOf (nth h 0x82)
    loops := (List.range 4).map fun i =>
      { start := nth h (0x84 + 3 * i), fin := nth h (0x85 + 3 * i), count := (nth h (0x86 + 3 * i)).truncate 9 }
    streams := (List.range 4).map fun q => streamOfWords q ((h.drop (0x90 + 4 * q)).take 4)
    issued := true, firstPacket := false }

/-- The waves of an image, each with its number; nothing when a field is out of its limits (R436). -/
def readWaves (s : State) (img : Nat) (b : Block) (x : List Word) (mask : Nat) : Option (List (Nat × WaveParts)) :=
  ((List.range (recWaves x)).filter (bitAt mask)).foldl (fun acc n =>
    match acc, readParts s b.ctx (img + waveRecAt x n) x with
    | some xs, some p =>
      if waveOk p.head n && p.fibres.all (fun r => !bitAt (rw r 3) 3 || fibreOk r x) then some (xs ++ [(n, p)]) else none
    | _, _ => none) (some [])

/-- What a relaunch reads. -/
structure ImageParts where
  header : List Word
  spm : Map Byte
  slabs : Map Word
  waves : List (Nat × WaveParts)

/-- An image read and checked (R436). -/
def readImage (s : State) (img : Nat) (b : Block) (x : List Word) : Option ImageParts :=
  match imageWords s b.ctx img 128 with
  | none => none
  | some h =>
    if !headerOk h b x || !((List.range 16).all fun i => cbufOk ((h.drop (64 + 4 * i)).take 4) (rw x 7)) then none
    else
      match imageWords s b.ctx (img + 512) (rw x 7 / 4), imageWords s b.ctx (img + 512 + rw x 7) (1024 * recSlabs x),
          readWaves s img b x (bits (rw h 0) 31 16) with
      | some a, some z, some ws =>
        some { header := h, spm := bytesOfWords a, slabs := ((List.range z.length).zip z).filter fun p => p.2 != 0, waves := ws }
      | _, _, _ => none

end Sys2Proof.Machine
end

