-- ==== Sys2Proof/Machine/FragLaunch.lean ====
section
/-! DEFINITION. Fragment waves: the fragments that wait on a stack, the waves that they fill, and their launch (13_raster R296 to R298). -/

namespace Sys2Proof.Machine

/-- The next triangle and cell of a stack's rasteriser in a batch. -/
def Batch.place (b : Batch) (stack : Nat) : Nat × Nat := if stack = 0 then (b.tri0, b.cell0) else (b.tri1, b.cell1)

/-- The batch with the place of a stack's rasteriser moved. -/
def Batch.moveTo (b : Batch) (stack : Nat) (p : Nat × Nat) : Batch :=
  if stack = 0 then { b with tri0 := p.1, cell0 := p.2 } else { b with tri1 := p.1, cell1 := p.2 }

/-! ## Fragment waves -/

/-- The fragments that wait on a stack, in their order. -/
def waitingFrags (s : State) (stack : Nat) : List FragStart := (s.base.frags.filter fun f => f.1 == stack).map Prod.snd

/-- The surface set of a fragment's batch, with its context (R290). -/
def fragSet (s : State) (f : FragStart) : Option (Nat × Nat) := (s.base.batches.look f.frag.batch).map fun b => (b.ctx, batchSet b)

/-- The batches of a stack whose fragments may be launched next: no earlier fragment of the same surface set waits (R298). -/
def headBatches (s : State) (stack : Nat) : List Nat :=
  let fs := waitingFrags s stack
  (fs.map fun f => f.frag.batch).eraseDups.filter fun id =>
    match fs.find? fun f => f.frag.batch == id with
    | some f => (fs.takeWhile fun g => g.frag.batch != id).all fun g => fragSet s g != fragSet s f
    | none => false

/-- The fragments of a batch's next wave on a stack, when it is full or the batch's fragments there end (R296). -/
def nextFrags (s : State) (stack id : Nat) (b : Batch) (l : Launch) : Option (List FragStart) :=
  let fs := (waitingFrags s stack).filter fun f => f.frag.batch == id
  let wave := fs.take (recWidth l.record)
  if wave.isEmpty || (decide (wave.length < recWidth l.record) && decide ((b.place stack).1 < b.tris)) then none else some wave

/-- The fibres of a fragment wave, from lane slot 0 upward (R296, R297). -/
def fragFibres (fs : List FragStart) (entry _n uid : Nat) : Map Fibre :=
  ((List.range fs.length).zip fs).map fun p => (p.1, { freshFibre (uid + p.1) entry with fragment := true, frag := some p.2.frag })

/-- The registers with which a fragment fibre starts (R297). -/
def fragRegs (f : FragStart) : List Word :=
  [BitVec.ofNat 32 f.frag.px, BitVec.ofNat 32 f.frag.py, f.b1, f.b2, f.z, f.frag.seq, BitVec.ofNat 32 f.frag.tri]

/-- The registers of a fragment wave at its start (R297). -/
def fragWave (fs : List FragStart) (w : Wave) : Wave :=
  { w with vregs := ((List.range fs.length).zip fs).foldl (fun m p =>
      ((List.range 7).zip (fragRegs p.2)).foldl (fun m q => m.store (physKey p.1 q.1) q.2 0) m) w.vregs }

/-- A fragment wave of a batch launched where it fits: a block of one wave (R296 to R298). The blocks of a fragment launch are numbered
in the order of their launch (log 35). -/
def launchFrags (s : State) (stack id : Nat) : Option State :=
  match s.base.batches.look id with
  | none => none
  | some b =>
    match s.work.launches.look b.launch with
    | none => none
    | some l =>
      match nextFrags s stack id b l, fitCores s l.ctx l.record stack with
      | some fs, c :: cs =>
        match (c :: cs)[Config.arrival s.tick stack % (cs.length + 1)]? with
        | none => none
        | some (core, p) =>
          let blk := s.work.nextBlock
          let s1 := startBlock s b.launch l l.next core 0 p (fragFibres fs (rw l.record 2)) (fragWave fs)
          let s2 := s1.mapBlock blk fun x => { x with tris := (fs.map fun f => f.frag.tri).eraseDups }
          some ({ s2 with base := { s2.base with
              frags := s2.base.frags.filter fun f => !(f.1 == stack && fs.contains f.2)
              batches := s2.base.batches.modify id fun x => { x with stoppers := x.stoppers.erase stack } } }.setLaunch
            b.launch { l with next := l.next + 1 })
      | _, _ => none

/-- Since when the next fragment wave of a batch has waited on a stack: since its last fragment was made (16_scheduling R365, log 32). -/
def fragsSince (s : State) (stack id : Nat) : Nat :=
  match s.base.batches.look id with
  | none => 0
  | some b =>
    match s.work.launches.look b.launch with
    | none => 0
    | some l => (((nextFrags s stack id b l).getD []).map FragStart.made).foldl max 0

/-- The batches of a stack whose next fragment wave waits, with their launches (R296, R298). -/
def waitingWaves (s : State) (stack : Nat) : List (Nat × Batch × Launch) :=
  (headBatches s stack).filterMap fun id =>
    match s.base.batches.look id with
    | none => none
    | some b =>
      match s.work.launches.look b.launch with
      | none => none
      | some l => if (nextFrags s stack id b l).isSome then some (id, b, l) else none

end Sys2Proof.Machine
end

