-- ==== Sys2Proof/Machine/Sched.lean ====
section
/-! DEFINITION. Candidates and admission, retirement, the active and pending sets, save-on-wait, relaunch, migration, forwarding entries
and pre-emption requests (16_scheduling R364 to R378, 15_execution_model R350, R352, 19_traps R432 to R436). -/

namespace Sys2Proof.Machine

/-! ## Candidates -/

/-- A candidate of a stack: a saved block, a launch with blocks not yet dispatched, or the next fragment wave of a batch on a stack (R365,
13_raster R291, R296). -/
inductive Cand
  | re (blk : Nat)
  | la (id : Nat)
  | fr (stack id : Nat)
deriving DecidableEq, Repr

/-- The launch of a candidate. -/
def Cand.launch (s : State) : Cand → Nat
  | .re b => ((s.block b).map Block.launch).getD 0
  | .la l => l
  | .fr _ b => ((s.base.batches.look b).map Batch.launch).getD 0

/-- No earlier launch of the same queue with the same or a higher priority still has blocks to admit (R364). -/
def queueFirst (s : State) (id : Nat) (l : Launch) : Bool :=
  (s.work.queue.takeWhile fun j => j != id).all fun j =>
    match s.work.launches.look j with
    | some e => !(e.ctx == l.ctx && e.queue == l.queue && decide (recPrio l.record ≤ recPrio e.record))
    | none => true

/-- The saved blocks of a stack queued for relaunch with a priority, those that hold sections or the others; and those of the other stack that
stop this stack's later candidates, because their launch's mask names both (R365). -/
def relaunchCands (s : State) (stack prio : Nat) (sections : Bool) : List Cand :=
  (s.work.relaunch.filter fun b =>
    match s.block b with
    | some x => (x.stack == stack || (x.stopper && recMask (recordOf s x) stack)) && recPrio (recordOf s x) == prio && x.holdsSections == sections
    | none => false).map .re

/-- The fragment waves that wait on a stack with a priority; and those of the other stack that stop this stack's later candidates, because
their launch's mask names both (R365, 13_raster R298). -/
def fragCands (s : State) (stack prio : Nat) : List Cand :=
  [0, 1].flatMap fun t => ((waitingWaves s t).filter fun q =>
    recPrio q.2.2.record == prio && (t == stack || (q.2.1.stoppers.contains t && recMask q.2.2.record stack))).map fun q => .fr t q.1

/-- The launches of a stack with a priority, in acceptance order (R364, R365). -/
def launchCands (s : State) (stack prio : Nat) : List Cand :=
  (s.work.queue.filter fun id =>
    match s.work.launches.look id with
    | some l => recMask l.record stack && recPrio l.record == prio && queueFirst s id l
    | none => false).map .la

/-- When the launch of a candidate was accepted. -/
def Cand.accepted (s : State) (c : Cand) : Nat := ((s.work.launches.look (c.launch s)).map Launch.accepted).getD 0

/-- A candidate put in its place in acceptance order. -/
def enterCand (s : State) (c : Cand) : List Cand → List Cand
  | [] => [c]
  | d :: ds => if c.accepted s < d.accepted s then c :: d :: ds else d :: enterCand s c ds

/-- The candidates of a stack in their order: the unadmitted blocks of accepted launches, fragment launches among them, stand in
acceptance order (R365). -/
def candsOf (s : State) (stack : Nat) : List Cand :=
  [3, 2, 1, 0].flatMap fun p => relaunchCands s stack p true ++ relaunchCands s stack p false ++
    (fragCands s stack p).foldl (fun cs c => enterCand s c cs) (launchCands s stack p)

/-- Since when a candidate has waited: since acceptance, or since a block of its launch was last admitted; a fragment wave since its last
fragment was made (R365, log 32). -/
def waitsSince (s : State) : Cand → Nat
  | .re b => ((s.block b).map Block.queuedAt).getD 0
  | .la l => (((s.work.launches.look l).map fun x => x.waiting.getD x.accepted)).getD 0
  | .fr t b => fragsSince s t b

/-- A candidate stops the later ones (R365). -/
def isStopper (s : State) : Cand → Bool
  | .re b => ((s.block b).map Block.stopper).getD false
  | .la l => ((s.work.launches.look l).map Launch.stopper).getD false
  | .fr t b => ((s.base.batches.look b).map fun x => x.stoppers.contains t).getD false

/-- A block index together with the members of every co-resident group that it shares, directly or through others (R367). -/
def coSet (l : Launch) (idxs : List Nat) : Nat → List Nat
  | 0 => idxs
  | n + 1 =>
    coSet l ((l.groups.filter fun g => g.co && g.members.any idxs.contains).foldl (fun a g => (a ++ g.members).eraseDups) idxs) n

/-- The sets of a launch's blocks that are admitted all or none with its next block, each on one stack: the next block with the members of its
co-resident groups, or in a co-resident-all launch every block so (R367). -/
def nextSets (l : Launch) : List (List Nat) :=
  (if recCoAll l.record then List.range (recBlocks l.record) else [l.next]).foldl
    (fun acc i => if acc.any fun x => x.contains i then acc else acc ++ [coSet l [i] l.groups.length]) []

/-- A block of a launch has been dispatched. -/
def Launch.sent (l : Launch) (idx : Nat) : Bool := decide (idx < l.next) || l.early.contains idx

/-- A launch that has dispatched block `idx`. -/
def noteNext (l : Launch) : Nat → Launch
  | 0 => l
  | n + 1 => if l.early.contains l.next then noteNext { l with next := l.next + 1, early := l.early.erase l.next } n else l

/-- The stack of a launch's mask whose die has the lower predicted peak temperature, stack 0 on a tie (R368). -/
def coolerStack (s : State) (x : List Word) : Nat :=
  if !recMask x 0 || (recMask x 1 && decide (peakTemp s 1 (dieLoads s 1) < peakTemp s 0 (dieLoads s 0))) then 1 else 0

/-- The stacks to which a set of blocks may go: with the replica flag only the cooler one (R368). -/
def stacksFor (s : State) (x : List Word) (among : List Nat) : List Nat :=
  if recReplica x then among.filter fun t => t == coolerStack s x else among

/-- One block of a launch dispatched to a core of some stacks, if it fits on one; which one is free (R368, R383). -/
def dispatchOne (s : State) (id idx : Nat) (among : List Nat) : Option State :=
  match s.work.launches.look id with
  | none => none
  | some l =>
    let q := levelNow s l
    let cs := (among.filter (recMask l.record)).flatMap (fitCores s l.ctx l.record)
    match cs[Config.arrival s.tick idx % cs.length]? with
    | none => none
    | some (core, p) =>
      let s1 := startBlock s id l idx core q p (launchFibres l.record (entryOf l.record q)) fun w => w
      let l1 := noteNext { l with early := idx :: l.early } (l.early.length + 1)
      some (s1.setLaunch id { l1 with level0 := q, waiting := some s.dev.cycles, stopper := false })

/-- A launch all of whose blocks have been dispatched leaves the queues. -/
def leaveQueue (s : State) (id : Nat) : State :=
  match s.work.launches.look id with
  | some l =>
    if l.next < recBlocks l.record then s
    else
      let s1 := { s with work := { s.work with queue := s.work.queue.erase id } }
      match s.ctxs.look l.ctx with
      | some c => s1.setCtx l.ctx { c with devQueue := c.devQueue.erase id }
      | none => s1
  | none => s

/-! ## Relaunch -/

/-- The deferred skips of relaunched fibres sent again (12_ordered_sections R271). -/
def resendSkips (s : State) (k : Nat) : State :=
  match s.wave k with
  | none => s
  | some w =>
    s.posts (w.fibres.flatMap fun p => (p.2.slots.filter fun x => x.st == .deferred).map fun x =>
      .waypointRequest { kind := .oskip, ctx := ctxOf s w, key := x.key, seq := x.seq, uid := p.2.uid, after := none })

/-- A relaunched wave whose repeats were interrupted goes on with them before any other batch issues, at the lowest of its fibres' PCs that is such
a REP (15_execution_model R341, R342). -/
def resumeWave (s : State) (k : Nat) : State :=
  match s.wave k with
  | some w =>
    match least Pc.key ((w.fibres.map fun p => p.2.pc).filter fun p => (resumeRep s w p).repAt.isSome) with
    | some p => s.setWave k (resumeRep s w p)
    | none => s
  | none => s

/-- A block restored from its image on a core (19_traps R436). -/
def restoreBlock (s : State) (blk core : Nat) (b : Block) (l : Launch) (p : Place) (m : ImageParts) : State :=
  let b1 : Block := { b with
    core := core, stack := stackOf core, gen := s.work.gens.get core 0, status := .running, place := p, spm := m.spm, slabs := m.slabs,
    cbufs := (List.range 16).map fun i => cbufOfWords ((m.header.drop (64 + 4 * i)).take 4)
    tiles := [], sel := (selOfWords m.header).map fun e => { e with id := b.nextTile }, nextTile := b.nextTile + 1,
    parkStart := none, preempt := false, liveAtPreempt := [], savedWaves := [], holdsSections := false, wakes := [], savedUids := [],
    stopper := false }
  let s1 := (clearLeft s core b.launch p.spm (arrayNeed l.record) p.slab (recSlabs l.record)).setBlock blk b1
  let s2 := m.waves.foldl (fun s q =>
    let w := (waveOfParts blk q.1 l b.savedUids s.work.nextUid q.2).numbered s.tick
    let s' := s.setWave (waveKey blk q.1) w
    let s2 := joinCore { s' with work := { s'.work with nextUid := s'.work.nextUid + recWidth l.record } } core (waveKey blk q.1)
    resendSkips (resumeWave s2 (waveKey blk q.1)) (waveKey blk q.1)) s1
  { s2 with mem := acquireBytes s2.mem core
            work := { s2.work with relaunch := s2.work.relaunch.erase blk } }

/-- The cores to which a relaunch may go: the original one if the block fits there, else any of the stack (R376). -/
def relaunchCores (s : State) (b : Block) (x : List Word) : List (Nat × Place) :=
  let cs := fitCores s b.ctx x b.stack
  match cs.find? fun p => p.1 == b.core with
  | some p => [p]
  | none => cs

/-- Something under way names a block under a generation: a remote message, a request of a barrier word, or a CPYM that has not started
(R378, 10_memory_instructions R214). -/
def carriesGen (s : State) (blk gen : Nat) : Bool :=
  (s.pending.any fun e => match e with
    | .remoteMessage m => m.blk == blk && m.gen == gen
    | .remoteBarrierRequest _ _ g _ (.spm b _) _ _ => b == blk && g == gen
    | _ => false) ||
    s.work.copies.any fun p => !p.2.started && p.2.targets.any fun t => t.1 == blk && t.2.1 == gen

/-- What is under way to a saved block reaches its save area before a relaunch reads it, or is forwarded (10_memory_instructions R214). -/
def imageSettled (s : State) (blk : Nat) (b : Block) : Bool :=
  !carriesGen s blk b.gen.toNat || s.work.forwards.any fun f => f.blk == blk && f.gen == b.gen

/-- One saved block relaunched where it fits; a bad image contains it (R376, 19_traps R436). -/
def relaunchOne (s : State) (blk : Nat) : Option State :=
  match s.block blk, s.launchOf blk with
  | some b, some l =>
    let cs := if imageSettled s blk b && imageFree s blk then relaunchCores s b l.record else []
    match cs[Config.arrival s.tick blk % cs.length]? with
    | none => none
    | some (core, p) =>
      match readImage s (saveImg s blk) b l.record with
      | some m => some (restoreBlock s blk core b l p m)
      | none =>
        let s1 := containBlock s blk 0x102
        some { s1 with work := { s1.work with relaunch := s1.work.relaunch.erase blk } }
  | _, _ => none

/-- The block of a launch with an index, if it has been placed and has not retired. -/
def blockAt (s : State) (id idx : Nat) : Option (Nat × Block) := s.work.blocks.find? fun p => p.2.launch == id && p.2.idx == idx

/-- A block is on its way off its core. -/
def Block.leaves (b : Block) : Bool := b.preempt || b.status == .saving || b.status == .migrating

/-- One member of a set given its place: dispatched, relaunched, or where it stands already; nothing while it is on its way off its core
(R367, 15_execution_model R352). -/
def placeMember (s : State) (id idx : Nat) (among : List Nat) : Option State :=
  match blockAt s id idx with
  | some (blk, b) =>
    if b.leaves then none
    else if b.status == .saved then (if among.contains b.stack then relaunchOne s blk else none)
    else some s
  | none => if ((s.work.launches.look id).map fun l => l.sent idx).getD true then some s else dispatchOne s id idx among

/-- A set of blocks given places on some stacks, all or none (R367). -/
def placeSet (s : State) (id : Nat) (among set : List Nat) : Option State :=
  set.foldl (fun acc idx => acc.bind fun s => placeMember s id idx among) (some s)

/-- The members of a set that cannot go to another stack: those placed or saved on one already. -/
def setStack (s : State) (id : Nat) (set : List Nat) : Option Nat := (set.filterMap fun i => (blockAt s id i).map fun p => p.2.stack).head?

/-- A set of blocks placed on one stack of those it may go to, all or none; which stack is free where both do (R367, R368). -/
def placeTogether (s : State) (id : Nat) (x : List Word) (among set : List Nat) : Option State :=
  let ts := match setStack s id set with
    | some t => among.filter fun u => u == t
    | none => stacksFor s x among
  let ts := if Config.arrival s.tick 2048 % 2 = 0 then ts else ts.reverse
  ts.findSome? fun t => placeSet s id [t] set

/-- The blocks that a launch admits next dispatched, all or none (R367). -/
def tryLaunch (s : State) (stack id : Nat) : Option State :=
  match s.work.launches.look id with
  | none => none
  | some l =>
    let among := if recCoAll l.record then [0, 1] else [stack]
    ((nextSets l).foldl (fun acc set => acc.bind fun s => placeTogether s id l.record among set) (some s)).map fun s => leaveQueue s id

/-- A saved block relaunched, with every member of its co-resident groups that has no place, all or none (R352, R376; DEDUCED, log 75). -/
def tryRelaunch (s : State) (blk : Nat) : Option State :=
  match s.block blk, s.launchOf blk with
  | some b, some l => placeSet s b.launch [b.stack] (coSet l [b.idx] l.groups.length)
  | _, _ => none

/-- A candidate admitted, if it fits. A relaunch goes to its block's own stack (R376). -/
def tryCand (s : State) (stack : Nat) : Cand → Option State
  | .re b => if ((s.block b).map Block.stack) == some stack then tryRelaunch s b else none
  | .la l => tryLaunch s stack l
  | .fr t b => if t = stack then launchFrags s stack b else none

/-- The first candidate that fits, with the state after its admission. One that does not fit, or that its own launch holds back, lets those of
other launches pass, unless it stops them (R365). -/
def firstFit (s : State) (stack : Nat) : List Nat → List Cand → Option (Cand × State)
  | _, [] => none
  | blocked, c :: cs =>
    if blocked.contains (c.launch s) then (if isStopper s c then none else firstFit s stack blocked cs)
    else
      match tryCand s stack c with
      | some s1 => some (c, s1)
      | none => if isStopper s c then none else firstFit s stack (c.launch s :: blocked) cs

/-- What a stack admits next. -/
def admission (s : State) (stack : Nat) : Option (Cand × State) := firstFit s stack [] (candsOf s stack)

/-- BLOCK_ADMIT: the first candidate that fits is a launch's next block or set, and starts (R365 to R368). -/
def execBlockAdmit (stack : Nat) (s : State) : Host.Outcome State Fault Refusal :=
  runEvent s (.blockAdmit stack)
    (match admission s stack with
      | some (.la _, _) => true
      | _ => false) fun s =>
      match admission s stack with
      | some (_, s1) => s1
      | none => s

/-- RELAUNCH: the first candidate that fits is a saved block (R376, 19_traps R436). -/
def execRelaunch (blk : Nat) (s : State) : Host.Outcome State Fault Refusal :=
  let adm (s : State) : Option State := ((s.block blk).bind fun b => admission s b.stack).bind fun p =>
    if p.1 = .re blk then some p.2 else none
  runEvent s (.relaunch blk) (adm s).isSome fun s => (adm s).getD s

/-- The candidates of a launch on a stack that have waited 2^20 cycles and do not stop the later ones yet (R365). -/
def expired (s : State) (stack id : Nat) : List Cand :=
  (candsOf s stack).filter fun c => c.launch s == id && !isStopper s c && decide (waitsSince s c + 2 ^ 20 ≤ s.dev.cycles)

/-- ADMISSION_WAIT_EXPIRY (R365). -/
def execAdmissionWaitExpiry (stack launch : Nat) (s : State) : Host.Outcome State Fault Refusal :=
  runEvent s (.admissionWaitExpiry stack launch) (!(expired s stack launch).isEmpty) fun s =>
    (expired s stack launch).foldl (fun s c =>
      match c with
      | .re b => s.mapBlock b fun x => { x with stopper := true }
      | .la l => { s with work := { s.work with launches := s.work.launches.modify l fun x => { x with stopper := true } } }
      | .fr t b => { s with base := { s.base with batches := s.base.batches.modify b fun x => { x with stoppers := (t :: x.stoppers).eraseDups } } }) s

/-! ## Retirement -/

/-- The copies and tile operations of a block have completed (15_execution_model R350). -/
def blockDrained (s : State) (blk : Nat) : Bool :=
  ((s.block blk).map fun b => b.tiles.isEmpty).getD true && s.work.copies.all fun p => p.2.blk != blk

/-- The tickets of a batch have all retired on both stacks, and its arrival has not been made (13_raster R291). -/
def batchOver (b : Batch) : Bool :=
  b.accepted.isSome && !b.sent && decide (b.tris ≤ b.tri0) && decide (b.tris ≤ b.tri1)

/-- A batch whose arrival has been made and whose launch has no block left is forgotten. -/
def forgetBatch (s : State) (launch : Nat) : State :=
  if s.work.blocks.any fun p => p.2.launch == launch then s
  else
    let gone := s.base.batches.filter fun p => p.2.launch == launch && p.2.sent && !(s.base.frags.any fun f => f.2.frag.batch == p.1)
    if gone.isEmpty then s
    else
      { s with
        base := { s.base with batches := s.base.batches.filter fun p => !(gone.any fun g => g.1 == p.1) }
        work := { s.work with launches := s.work.launches.del launch } }

/-- One block of a launch has retired: after the last, the launch makes its arrival (R364). -/
def countRetired (s : State) (id stack : Nat) : State :=
  match s.work.launches.look id with
  | none => s
  | some l =>
    if l.batch.isSome then forgetBatch s id
    else if l.done + 1 < recBlocks l.record then s.setLaunch id { l with done := l.done + 1 }
    else
      let s1 := { s with work := { s.work with launches := s.work.launches.del id } }
      if rd l.record 16 = 0 then s1
      else s1.post (.completionArrival l.ctx (rd l.record 16) l.recVa (arrivalSource 0 stack l.level))

/-- A block may retire: its waves have ended, its pools are empty, its copies and tile operations have completed, and its core's dirty S
bytes can be written through (R350, R364). -/
def retireDue (s : State) (blk : Nat) : Bool :=
  match s.block blk with
  | some b =>
    (b.status == .running || b.status == .contained) && (wavesOf s blk).isEmpty && b.pools.isEmpty && blockDrained s blk &&
      dirtyFree s.mem b.core && (b.liveAtPreempt.isEmpty || !b.liveAtPreempt.all b.savedWaves.contains)
  | none => false

/-- A block retired: its resources are freed and its generation rises (R350, R364); messages that its core still held are dropped
(10_memory_instructions R212). -/
def retireBlock (s : State) (blk : Nat) : State :=
  match s.block blk with
  | none => s
  | some b =>
    let s1 := leaveArrays { s with mem := releaseBytes s.mem b.core } b
    let s2 := bumpGen { s1 with work := { s1.work with blocks := s1.work.blocks.del blk } } b.core
    (countRetired s2 b.launch b.stack).posts (b.heldMsgs.map Ev.remoteMessage)

/-! ## The active and pending sets -/

/-- The issue order of a core. -/
def schedOf (s : State) (core : Nat) : CoreSched := s.work.cores.get core CoreSched.empty

/-- The issue order of a core replaced. -/
def setSched (s : State) (core : Nat) (c : CoreSched) : State := { s with work := { s.work with cores := s.work.cores.put core c } }

/-- Ready pending waves take the free places of a core, oldest first (R370). -/
def fillPlaces (now : Nat) : Nat → CoreSched → CoreSched
  | 0, c => c
  | n + 1, c =>
    match c.pending.find? fun p => p.2.isSome with
    | some p =>
      if c.active.length < 8 then fillPlaces now n { c with active := c.active ++ [(p.1, now, now)], pending := c.pending.erase p } else c
    | none => c

/-- Every live fibre of a wave is parked (R370). -/
def allParked (w : Wave) : Bool := w.fibres.all fun p => p.2.parked

/-- The long dependences of a wave: its counted operations under way, and the fetches of its streams (R370). -/
def depsOf (w : Wave) : List Dep :=
  ((w.ops.filter fun o => !o.counted).map fun o => .op o.id) ++
    (((List.range 4).zip w.streams).filter fun p => p.2.held.any fun e => !e.landed).map fun p => .fetch p.1

/-- A dependence that moved a wave to the pending set has been resolved: a fibre is no longer parked; or the operation or fetch is done, or
no longer holds the wave's chain (R370). -/
def Dep.over (w : Wave) (d : Dep) : Bool :=
  match d with
  | .parked => !allParked w
  | _ => !((depsOf w).contains d && w.holds.contains d)

/-- A wave leaves the active set: parked, or held for 64 cycles by long dependences (R370). -/
def toPendingDue (s : State) (k : Nat) : Bool :=
  match s.wave k with
  | none => false
  | some w =>
    match (schedOf s (coreOf s w)).active.find? fun a => a.1 == k with
    | none => false
    | some a => allParked w || (w.holds.any (depsOf w).contains && decide (a.2.2 + 64 ≤ s.dev.cycles))

/-- A wave moved to the pending set as its youngest member, with the dependences that moved it (R370). -/
def toPending (s : State) (k : Nat) : State :=
  match s.wave k with
  | none => s
  | some w =>
    let core := coreOf s w
    let c := schedOf s core
    setSched (s.setWave k { w with moved := if allParked w then [.parked] else w.holds }) core
      (fillPlaces s.dev.cycles 8 { c with active := c.active.filter (fun a => a.1 != k), pending := c.pending ++ [(k, none)] })

/-- WAVE_TO_PENDING (R370): the operations and fetches that hold the wave's chain, which the step notes, hold it for 64 cycles, or every
fibre is parked. -/
def execWaveToPending (wave : Nat) (s : State) : Host.Outcome State Fault Refusal :=
  runEvent s (.waveToPending wave) (toPendingDue s wave) fun s => toPending s wave

/-- A pending wave whose dependences have been resolved, not known to be ready, or ready while a place is free (R370). -/
def readyDue (s : State) (k : Nat) : Bool :=
  match s.wave k with
  | none => false
  | some w =>
    let c := schedOf s (coreOf s w)
    w.moved.all (Dep.over w) && c.pending.any fun p => p.1 == k && (p.2.isNone || decide (c.active.length < 8))

/-- PENDING_WAVE_READY: the dependence of a pending wave has been resolved, or a wave that ended has left a place free; the oldest
ready wave takes a free place if there is one (R370). -/
def execPendingWaveReady (wave : Nat) (s : State) : Host.Outcome State Fault Refusal :=
  runEvent s (.pendingWaveReady wave) (readyDue s wave) fun s =>
    match s.wave wave with
    | none => s
    | some w =>
      let core := coreOf s w
      let c := schedOf s core
      setSched s core (fillPlaces s.dev.cycles 8 { c with
        pending := c.pending.map fun p => if p.1 = wave then (p.1, some (p.2.getD s.dev.cycles)) else p })

/-- The oldest ready pending wave of a core has waited 512 cycles, and the last forced exchange is 64 cycles past (R371). -/
def forcedDue (s : State) (core : Nat) : Option ((Nat × Option Nat) × (Nat × Nat × Nat)) :=
  let c := schedOf s core
  match least (fun p : Nat × Option Nat => p.2.getD 0) (c.pending.filter fun p => p.2.isSome), least (fun a : Nat × Nat × Nat => a.2.1) c.active with
  | some p, some a =>
    if p.2.getD 0 + 512 ≤ s.dev.cycles ∧ c.lastForced + 64 ≤ s.dev.cycles then some (p, a) else none
  | _, _ => none

/-- FORCED_EXCHANGE (R371). -/
def execForcedExchange (core : Nat) (s : State) : Host.Outcome State Fault Refusal :=
  runEvent s (.forcedExchange core) (forcedDue s core).isSome fun s =>
    match forcedDue s core with
    | none => s
    | some (p, a) =>
      let c := schedOf s core
      setSched (s.mapWave a.1 fun w => { w with moved := [] }) core
        { active := c.active.filter (fun x => x.1 != a.1) ++ [(p.1, s.dev.cycles, s.dev.cycles)]
          pending := (c.pending.filter fun x => x.1 != p.1) ++ [(a.1, none)]
          lastForced := s.dev.cycles }

/-! ## Stranded operations -/

/-- A copy stands aside for a slot one of whose earlier fills no CBREL has released (R375). -/
def strandedCopy (s : State) (id : Nat) (c : Copy) : Bool :=
  match c.cb with
  | some (i, j) =>
    let x := (cbufOf s c.blk i).slot j
    !c.started && decide (x.rel < claimedFills (aheadForSlot s id c) x)
  | none => false

/-- A tile operation waits for the commit of a fill that nothing has claimed (R375). -/
def strandedTile (s : State) (blk : Nat) (t : TileOp) : Bool :=
  match t.slotNamed with
  | some (i, j, f) => !t.running && decide (claimedFills (slotWaiting s blk i j) ((cbufOf s blk i).slot j) ≤ f)
  | none => false

/-- A block holds a stranded operation (R375). -/
def stranded (s : State) (blk : Nat) : Bool :=
  s.work.copies.any (fun p => p.2.blk == blk && strandedCopy s p.1 p.2) ||
    ((s.block blk).map fun b => b.tiles.any (strandedTile s blk)).getD false

/-! ## Leaving a core -/

/-- A block belongs to a group (R378). -/
def grouped (s : State) (blk : Nat) : Bool := !(groupSlots s blk).isEmpty

/-- The forwarding entries of a core hold room for `n` more blocks (R378). -/
def forwardFree (s : State) (core n : Nat) : Bool := decide ((s.work.forwards.filter fun f => f.core == core).length + n ≤ 64)

/-- A core can leave one more forwarding entry (R378). -/
def forwardRoom (s : State) (blk core : Nat) : Bool := !grouped s blk || forwardFree s core 1

/-- The cores of some blocks can leave a forwarding entry for each of them (R378). -/
def forwardRoomAll (s : State) (blks : List Nat) : Bool :=
  let cores := (blks.filter (grouped s)).map fun k => ((s.block k).map Block.core).getD 0
  cores.all fun c => forwardFree s c (cores.filter (· == c)).length

/-- The forwarding entry of a block that leaves its core, if it belongs to a group (R378). -/
def leaveForward (s : State) (blk : Nat) (b : Block) : State :=
  if grouped s blk then
    { s with work := { s.work with forwards := s.work.forwards ++ [{ core := b.core, blk := blk, gen := b.gen }] } }
  else s

/-- The waves of a block taken off their core. -/
def removeWaves (s : State) (blk : Nat) : State :=
  { s with work := { s.work with
      waves := s.work.waves.filter fun p => p.2.blk != blk
      cores := s.work.cores.map fun p => (p.1, { p.2 with
        active := p.2.active.filter fun a => a.1 / 16 != blk
        pending := p.2.pending.filter fun a => a.1 / 16 != blk }) } }

/-- The members of every co-resident group of a block that are placed, itself included (R373, 19_traps R432). -/
def coMembers (s : State) (blk : Nat) : List Nat :=
  match s.block blk, s.launchOf blk with
  | some b, some l =>
    let idxs := coSet l [b.idx] l.groups.length
    blk :: (s.work.blocks.filter fun p => p.1 != blk && p.2.launch == b.launch && idxs.contains p.2.idx).map Prod.fst
  | _, _ => [blk]

/-- A block belongs to a co-resident group. -/
def coGrouped (s : State) (blk : Nat) : Bool :=
  match s.block blk, s.launchOf blk with
  | some b, some l => l.groups.any fun g => g.co && g.members.contains b.idx
  | _, _ => false

/-- The identities of a block's fibres, by wave and lane slot. -/
def uidsOf (s : State) (blk : Nat) : Map (Nat × Option Frag) :=
  (wavesOf s blk).foldl (fun m k =>
    match s.wave k with
    | some w => w.fibres.foldl (fun m p => m.put (64 * w.num + p.1) (p.2.uid, p.2.frag)) m
    | none => m) []

/-- What the fibres of a block await (R376, 12_ordered_sections R271). -/
def wakesOf (s : State) (blk : Nat) : List Wake :=
  (wavesOf s blk).flatMap fun k => ((s.wave k).map fun w => w.fibres.filterMap fun p =>
    match p.2.park with
    | some { kind := .bwait o ph, .. } => some (.flip o (ph % 16))
    | some { kind := .oent key seq _, .. } => some (.turn key seq)
    | some { kind := .oqry _ _, .. } => some .now
    | _ => none).getD []

/-- A block's resources freed after its state has been written: the generation of its core's allocations rises, a forwarding entry stands, and
held messages go to the image (R374, 19_traps R433, R434). What is sent to it while it is saved names it under its old generation
(10_memory_instructions R214). -/
def leaveSaved (s : State) (blk : Nat) (wakes : List Wake) (uids : Map (Nat × Option Frag)) (sections : Bool) : State :=
  match s.block blk with
  | none => s
  | some b =>
    let s1 := leaveForward (leaveArrays s b) blk b
    let s2 := bumpGen (removeWaves s1 blk) b.core
    let s3 := s2.setBlock blk { b with
      status := .saved, spm := [], slabs := [], tiles := [], cbufs := List.replicate 16 Cbuf.empty,
      parkStart := none, preempt := false, liveAtPreempt := [], savedWaves := [], wakes := wakes, savedUids := uids,
      holdsSections := sections }
    applyHeld s3 blk

/-- The number of a key: that of its entry, of its backing slot, or 0 (12_ordered_sections R259, R260). -/
def keyNumber (s : State) (ctx : Nat) (key : Word) : Word :=
  match wpActive s ctx key with
  | some e => e.n
  | none => ((backingFind s ctx key).map Prod.snd).getD 0

/-- An event that queues a saved block has come (R376, 12_ordered_sections R271). -/
def wakeDue (s : State) (b : Block) : Wake → Bool
  | .flip o ph => match objRead s o with
    | some x => (barOf x).phase != ph
    | none => true
  | .turn key seq => decide (0 ≤ (keyNumber s b.ctx key - seq).toInt)
  | .now => true

/-- The saved blocks whose event has come join the relaunch queue (R376). -/
def queueWoken (s : State) : State :=
  let woken := (s.work.blocks.filter fun p =>
    p.2.status == .saved && !s.work.relaunch.contains p.1 && p.2.wakes.any (wakeDue s p.2)).map Prod.fst
  woken.foldl (fun s k =>
    { s with work := { s.work with relaunch := s.work.relaunch ++ [k] } }.mapBlock k fun b => { b with queuedAt := s.dev.cycles }) s

/-! ## Save-on-wait -/

/-- A fibre is parked at BWAIT, OENT or OQRY (R373). -/
def parkedLong (f : Fibre) : Bool :=
  f.shadow.isNone &&
    (match f.park with
      | some { kind := .bwait _ ph, .. } => decide (ph < 16)
      | some { kind := .oent _ _ _, .. } => true
      | some { kind := .oqry _ _, .. } => true
      | _ => false)

/-- Every live fibre of a block is parked so (R373). -/
def blockWaits (s : State) (blk : Nat) : Bool :=
  let ws := (wavesOf s blk).filterMap fun k => s.wave k
  ws.any (fun w => !w.fibres.isEmpty) && ws.all fun w => w.fibres.all fun p => parkedLong p.2

/-- The park time of every block: it starts when the block becomes parked and ends when a fibre is released (R373). -/
def notePark (s : State) : State :=
  { s with work := { s.work with blocks := s.work.blocks.map fun p =>
      (p.1, { p.2 with parkStart := if p.2.status == .running && blockWaits s p.1 then some (p.2.parkStart.getD s.dev.cycles) else none }) } }

/-- A fragment wave of a block holds the oldest unretired fragment of its surface set on its stack (13_raster R298). -/
def holdsOldest (s : State) (blk : Nat) (b : Block) : Bool :=
  let oldest (t : Ticket) : Bool := (s.base.tickets.takeWhile fun q => q != t).all fun q =>
    !(q.ctx == t.ctx && q.ste == t.ste && q.stack == t.stack)
  let holds (t : Ticket) (f : Fibre) : Bool := f.fragment && (match f.frag with
    | some g => g.batch == t.batch && g.seq == t.seq
    | none => false)
  s.base.tickets.any fun t => t.stack == b.stack && oldest t &&
    ((b.pools.any fun q => q.members.any fun m => holds t m.fibre) ||
      (wavesOf s blk).any fun k => ((s.wave k).map fun w => w.fibres.any fun p => holds t p.2).getD false)

/-- A candidate of a stack fits once some blocks are gone (R373). -/
def someFits (s : State) (stack : Nat) (gone : List Nat) : Bool :=
  let s1 := gone.foldl (fun s k => { removeWaves s k with work := { (removeWaves s k).work with blocks := s.work.blocks.del k } }) s
  (candsOf s1 stack).any fun c => (tryCand s1 stack c).isSome

/-- One block may be saved on its wait (R373, R375, R378). -/
def saveReady (s : State) (blk : Nat) : Bool :=
  match s.block blk with
  | some b =>
    let x := recordOf s b
    b.status == .running && !b.preempt && recSaves x && blockWaits s blk && !stranded s blk && forwardRoom s blk b.core &&
      !holdsOldest s blk b &&
      (match b.parkStart with
        | some t => decide (t + 2 ^ bits (rw x 12) 11 7 < s.dev.cycles)
        | none => false)
  | none => false

/-- A block, or its whole co-resident group, is to be saved (R373). -/
def saveDue (s : State) (blk : Nat) : Bool :=
  (coMembers s blk).all (saveReady s) && someFits s (((s.block blk).map Block.stack).getD 0) (coMembers s blk)

/-- SAVE_ON_WAIT: the block stops, and its state is written once it has drained (R373, R374). -/
def execSaveOnWait (blk : Nat) (s : State) : Host.Outcome State Fault Refusal :=
  runEvent s (.saveOnWait blk) (saveDue s blk) fun s =>
    ((coMembers s blk).foldl (fun s k => s.mapBlock k fun b => { b with status := .saving }) s).post (.saveComplete blk)

/-- A block's counters are zero, its operations have been performed, and no answer or message of its fibres is under way (R374). -/
def quietBlock (s : State) (blk : Nat) : Bool :=
  let ws := (wavesOf s blk).filterMap fun k => s.wave k
  blockDrained s blk &&
    ws.all fun w => w.due.isEmpty && w.ops.all (fun o => o.performed && (o.counted || o.cls.isNone)) && w.fibres.all fun p =>
      !(s.pending.any fun e => match e with
        | .waypointAnswer u _ _ => u == p.2.uid
        | .waypointClaim r => r.uid == p.2.uid
        | .tableFullReport k _ _ _ => k == waveKey w.blk w.num
        | _ => false)

/-- The results of counted loads stand in the registers once the counters are zero (19_traps R436). -/
def landAll (s : State) (w : Wave) : Wave := { w.ops.foldl (landOp s) w with ops := [] }

/-- A block that holds sections (12_ordered_sections R271). -/
def hasSections (s : State) (blk : Nat) : Bool :=
  (wavesOf s blk).any fun k => ((s.wave k).map fun w => w.fibres.any fun p => p.2.slots.any fun x => x.st == .held).getD false

/-- The requests and waits of a block's fibres withdrawn (12_ordered_sections R271). -/
def withdrawBlock (s : State) (blk : Nat) : State :=
  (wavesOf s blk).foldl (fun s k =>
    match s.wave k with
    | some w =>
      dropWaits (withdraw s k w) fun q => w.fibres.any fun p => p.2.uid == q.req.uid
    | none => s) s

/-- The state of a block written and the block off its core; a write that faults contains it (R374, 19_traps R434). -/
def saveBlock (s : State) (blk : Nat) : State :=
  let s0 := { s with mem := releaseBytes s.mem (((s.block blk).map Block.core).getD 0) }
  let s1 := (wavesOf s0 blk).foldl (fun s k => s.mapWave k (landAll s)) s0
  match (s1.block blk).bind fun b => writeImage s1 blk b with
  | some s2 => leaveSaved (withdrawBlock s2 blk) blk (wakesOf s1 blk) (uidsOf s1 blk) (hasSections s1 blk)
  | none => containBlock s1 blk 0x103

/-- A block pre-empted by its handler: every wave that was live at the request has ended as saved (19_traps R434). -/
def handlerSaved (s : State) (blk : Nat) (b : Block) : Bool :=
  b.status == .running && !b.liveAtPreempt.isEmpty && b.liveAtPreempt.all b.savedWaves.contains && (wavesOf s blk).isEmpty &&
    blockDrained s blk && forwardRoom s blk b.core

/-- The blocks that are saved with a block, itself among them: those of its co-resident groups (R373). -/
def savedWith (s : State) (blk : Nat) : List Nat := (coMembers s blk).filter fun k => ((s.block k).map fun b => b.status == .saving).getD false

/-- The state of a block, and of those saved with it, can be written now, or the save is abandoned because a fibre was released (R374). -/
def completeDue (s : State) (blk : Nat) : Bool :=
  match s.block blk with
  | some b =>
    (handlerSaved s blk b && dirtyFree s.mem b.core) || (b.status == .saving && (!(savedWith s blk).all (blockWaits s) ||
      forwardRoomAll s (savedWith s blk) && (savedWith s blk).all fun k => quietBlock s k && imageFree s k && dirtyFree s.mem (((s.block k).map Block.core).getD 0)))
  | none => false

/-- SAVE_COMPLETE, of a save on a wait or by a pre-emption handler; a co-resident group is saved, or its save abandoned, as a whole (R373, R374,
15_execution_model R352, 19_traps R434). -/
def execSaveComplete (blk : Nat) (s : State) : Host.Outcome State Fault Refusal :=
  runEvent s (.saveComplete blk) (completeDue s blk) fun s =>
    match s.block blk with
    | none => s
    | some b =>
      if handlerSaved s blk b then leaveSaved { s with mem := releaseBytes s.mem b.core } blk [.now] b.savedUids b.holdsSections
      else if (savedWith s blk).all (blockWaits s) then (savedWith s blk).foldl saveBlock s
      else (savedWith s blk).foldl (fun s k => s.mapBlock k fun b => { b with status := .running }) s

/-! ## Migration and forwarding entries -/

/-- A wave stands at a packet boundary. -/
def atBoundary (w : Wave) : Bool :=
  w.repAt.isNone && !testing w && (match minPc w with
    | some p => p.slot == 0
    | none => true)

/-- The cores, other than its own, to which a block may move now (R377). -/
def moveCores (s : State) (blk : Nat) (b : Block) : List (Nat × Place) :=
  let x := recordOf s b
  (([0, 1].filter (recMask x)).flatMap (fitCores s b.ctx x)).filter fun p => p.1 != b.core && (s.block blk).isSome

/-- A block may start to move (R375, R377, R378). -/
def moveDue (s : State) (blk : Nat) : Bool :=
  match s.block blk, s.launchOf blk with
  | some b, some l =>
    b.status == .running && !b.preempt && recMoves l.record && l.batch.isNone && !coGrouped s blk && !stranded s blk &&
      forwardRoom s blk b.core && !(moveCores s blk b).isEmpty
  | _, _ => false

/-- MIGRATION: the block stops at a packet boundary and drains (R377). -/
def execMigration (blk : Nat) (s : State) : Host.Outcome State Fault Refusal :=
  runEvent s (.migration blk) (moveDue s blk) fun s =>
    match s.block blk with
    | none => s
    | some b =>
      let cs := moveCores s blk b
      match cs[Config.arrival s.tick blk % cs.length]? with
      | some (core, _) => (s.setBlock blk { b with status := .migrating }).post (.migrationComplete blk core)
      | none => s

/-- A moving block has drained at a packet boundary and its core has room for its forwarding entry (R378), or an operation has been stranded meanwhile and the move ends (R375, R377). -/
def movedDue (s : State) (blk : Nat) : Bool :=
  match s.block blk with
  | some b =>
    b.status == .migrating &&
      (stranded s blk || (forwardRoom s blk b.core && quietBlock s blk && dirtyFree s.mem b.core && (wavesOf s blk).all fun k => ((s.wave k).map atBoundary).getD true))
  | none => false

/-- A multicast on its way to a core from which waits for its key have moved goes to their new core as well (12_ordered_sections R265, R271). -/
def followMulticast (ws : List WpWait) (old new : Nat) : Ev → Option Ev
  | .waypointMulticast c ctx key n =>
    if c == old && ws.any fun q => q.req.ctx == ctx && q.req.key == key then some (.waypointMulticast new ctx key n) else none
  | _ => none

/-- A block on its new core: registers, arrays, subscriptions and waits move with it (R377, 12_ordered_sections R271). -/
def moveBlock (s : State) (blk core : Nat) (b : Block) (p : Place) : State :=
  let s1 := leaveForward (leaveArrays { s with mem := releaseBytes s.mem b.core } b) blk b
  let ks := wavesOf s1 blk
  let mine (u : Nat) : Bool := ks.any fun k => ((s1.wave k).map fun w => w.fibres.any fun q => q.2.uid == u).getD false
  let s2 := bumpGen (clearLeft s1 core b.launch p.spm (arrayNeed (recordOf s b)) p.slab (recSlabs (recordOf s b))) b.core
  let s3 := s2.setBlock blk { b with core := core, stack := stackOf core, gen := s2.work.gens.get core 0, status := .running, place := p }
  let cores := s3.work.cores.map fun q => (q.1, { q.2 with
    active := q.2.active.filter fun a => a.1 / 16 != blk
    pending := q.2.pending.filter fun a => a.1 / 16 != blk })
  let waits := s3.base.waits.map fun q => if mine q.req.uid then { q with core := core } else q
  let wps := (s.base.waits.filter fun q => mine q.req.uid).foldl (fun es q =>
    es.map fun e => if e.ctx = q.req.ctx ∧ e.key = q.req.key then e.subscribe core else e) s3.base.wps
  let s4 := { s3 with
    work := { s3.work with cores := cores }
    base := { s3.base with waits := waits, wps := wps }
    pending := s3.pending ++ s3.pending.filterMap (followMulticast (s.base.waits.filter fun q => mine q.req.uid) b.core core) }
  let s5 := (s.base.waits.filter fun q => mine q.req.uid).foldl (fun s q => dropSubs s b.core q.req.ctx q.req.key)
    (ks.foldl (fun s k => joinCore (s.mapWave k (landAll s)) core k) s4)
  { s5 with mem := acquireBytes s5.mem core }

/-- MIGRATION_COMPLETE (R377). -/
def execMigrationComplete (blk core : Nat) (s : State) : Host.Outcome State Fault Refusal :=
  runEvent s (.migrationComplete blk core) (movedDue s blk) fun s =>
    match s.block blk with
    | none => s
    | some b =>
      match (moveCores s blk b).find? fun p => p.1 == core with
      | some (_, p) => if stranded s blk then s.setBlock blk { b with status := .running } else moveBlock s blk core b p
      | none => s.setBlock blk { b with status := .running }

/-- The members of a block's groups have acknowledged its new place: nothing of theirs that is under way names the old generation, the CPYM
words that have issued and not started among it (R378; DEDUCED, log 76). -/
def forwardIdle (s : State) (f : Forward) : Bool := !carriesGen s f.blk f.gen.toNat

/-- FORWARDING_ENTRY_RELEASE: the members of the block's groups have acknowledged its new place (R378). -/
def execForwardingEntryRelease (blk : Nat) (s : State) : Host.Outcome State Fault Refusal :=
  runEvent s (.forwardingEntryRelease blk) (s.work.forwards.any fun f => f.blk == blk && forwardIdle s f) fun s =>
    { s with work := { s.work with forwards := s.work.forwards.filter fun f => !(f.blk == blk && forwardIdle s f) } }

/-! ## Pre-emption requests -/

/-- The machine without some blocks, for the question of what would then fit. -/
def withoutBlocks (s : State) (gone : List Nat) : State :=
  gone.foldl (fun s k => { removeWaves s k with work := { (removeWaves s k).work with blocks := s.work.blocks.del k } }) s

/-- The blocks whose pre-emption has already been requested. -/
def leaving (s : State) : List Nat := (s.work.blocks.filter fun p => p.2.preempt).map Prod.fst

/-- A candidate of higher priority than a block needs the block's core: it fits nowhere on its stack, not even where blocks are
already giving way, and would fit without the block (19_traps R432). -/
def wantedByHigher (s : State) (b : Block) (gone : List Nat) : Bool :=
  let higher := (candsOf s b.stack).filter fun c =>
    decide (recPrio (recordOf s b) < ((s.work.launches.look (c.launch s)).map fun l => recPrio l.record).getD 0)
  let s0 := withoutBlocks s (leaving s)
  let s1 := withoutBlocks s0 gone
  higher.any fun c => (tryCand s b.stack c).isNone && (tryCand s0 b.stack c).isNone && (tryCand s1 b.stack c).isSome

/-- A context holds more cores than its quota allows, without those that its blocks are already leaving (19_traps R432). -/
def overQuota (s : State) (ctx : Nat) : Bool :=
  decide (((s.ctxs.look ctx).map fun c => c.cfg.coreQuota).getD 0 < (ctxCores (withoutBlocks s (leaving s)) ctx).length)

/-- No wave of a block has issued a chain (19_traps R432). -/
def untouched (s : State) (blk : Nat) : Bool := (wavesOf s blk).all fun k => ((s.wave k).map fun w => !w.issued).getD true

/-- One block may be made to leave its core: pre-empted, which takes a save area and a supervisor handler, or, before any of its waves has
issued, removed, which takes neither since nothing is requested of it (19_traps R432; DEDUCED, log 88). -/
def preemptable (s : State) (blk : Nat) : Bool :=
  match s.block blk, s.launchOf blk with
  | some b, some l =>
    b.status == .running && !b.preempt && l.batch.isNone &&
      (untouched s blk || (rd l.record 28 != 0 && forwardRoom s blk b.core &&
        ((s.ctxs.look b.ctx).map fun c => c.shpacket != BitVec.allOnes 32).getD false))
  | _, _ => false

/-- A launch in its place in acceptance order: launches are numbered as they are accepted (R364). -/
def enterQueue (id : Nat) : List Nat → List Nat
  | [] => [id]
  | j :: js => if id = j then j :: js else if id < j then id :: j :: js else j :: enterQueue id js

/-- A launch with blocks to admit again stands in the queues (R363, R364). -/
def rejoinQueue (s : State) (id : Nat) (l : Launch) : State :=
  let s1 := { s with work := { s.work with queue := enterQueue id s.work.queue } }
  match l.queue, s.ctxs.look l.ctx with
  | none, some c => s1.setCtx l.ctx { c with devQueue := enterQueue id c.devQueue }
  | _, _ => s1

/-- A block that has issued nothing removed as if it had never been placed (19_traps R432). -/
def unplace (s : State) (blk : Nat) : State :=
  match s.block blk, s.launchOf blk with
  | some b, some l =>
    let s1 := leaveArrays (removeWaves s blk) b
    let early := if b.idx < l.next then ((List.range (l.next - b.idx - 1)).map (b.idx + 1 + ·)) ++ l.early else l.early.erase b.idx
    let l1 := { l with next := min l.next b.idx, early := early }
    let s2 := bumpGen ({ s1 with work := { s1.work with blocks := s1.work.blocks.del blk } }.setLaunch b.launch l1) b.core
    rejoinQueue s2 b.launch l1
  | _, _ => s

/-- Pre-emption requested of a block: every live wave is to take trap 0x30, and messages to the block are held (19_traps R432, R433). -/
def requestPreempt (s : State) (blk : Nat) : State :=
  let live := (wavesOf s blk).filter fun k => ((s.wave k).map fun w => !w.fibres.isEmpty).getD false
  let s1 := s.mapBlock blk fun b => { b with
    preempt := true, liveAtPreempt := live.map (· % 16), savedWaves := [], savedUids := [], holdsSections := false }
  live.foldl (fun s k => s.mapWave k fun w => { w with preemptPending := true }) s1

/-- PREEMPTION_REQUEST of a block, with every member of its co-resident group (19_traps R432). -/
def execPreemptionRequest (blk : Nat) (s : State) : Host.Outcome State Fault Refusal :=
  let due (s : State) : Bool :=
    match s.block blk with
    | some b => (coMembers s blk).all (preemptable s) && (wantedByHigher s b (coMembers s blk) || overQuota s b.ctx)
    | none => false
  runEvent s (.preemptionRequest blk) (due s) fun s =>
    (coMembers s blk).foldl (fun s k => if untouched s k then unplace s k else requestPreempt s k) s

end Sys2Proof.Machine
end

