-- ==== Sys2Proof/Machine/Traps.lean ====
section
/-! DEFINITION. TRAP, BRK and TRET, the traps that a wave takes at a boundary, and refusals by peers (19_traps R423 to R434,
18_host_peers R414). -/

namespace Sys2Proof.Machine

/-! ## TRAP and BRK -/

/-- TRAP (R429). Its resume PC is the next chain (R425). -/
def execTrap (k : BitVec 8) (s : State) : Host.Outcome State Fault Refusal :=
  runWord s fun _ r _ => .trap { mkTrap 0x3F (batch r) 0 k.toNat with next := true }

/-- BRK (R429). -/
def execBrk (s : State) : Host.Outcome State Fault Refusal :=
  runWord s fun _ r _ => .trap { mkTrap 0x31 (batch r) 0 0 with next := true }

/-! ## Trap 0x30 -/

/-- No answer to a waypoint request of a wave's fibres, nor a report of one that failed, is under way. -/
def noAnswers (s : State) (w : Wave) : Bool :=
  s.pending.all fun e => match e with
    | .waypointAnswer u _ _ => w.fibres.all fun p => p.2.uid != u
    | .tableFullReport k _ _ _ => k != waveKey w.blk w.num
    | _ => true

/-- A wave may take a requested trap 0x30 now, at a boundary (R432, 16_scheduling R375). -/
def preemptOpen (s : State) (w : Wave) : Bool := w.preemptPending && !w.firstPacket && !stranded s w.blk && noAnswers s w && imageFree s w.blk

/-- Trap 0x30 taken: the core writes its parts of the save image first, and a write that faults contains the block (R434). -/
def enterPreempt (s : State) (k : Nat) : State :=
  match s.wave k with
  | none => s
  | some w =>
    match (s.block w.blk).bind fun b => writeEntryParts s w.blk b with
    | some s1 => enterTrap s1 k [] { mkTrap 0x30 [] 0 0 with next := true }
    | none => containBlock s w.blk 0x103

/-! ## TRET -/

/-- A block whose pre-emption handler returns goes on: the messages held for it are applied (R433). -/
def resumeBlock (s : State) (blk : Nat) : State :=
  applyHeld (s.mapBlock blk fun b => { b with preempt := false }) blk

/-- TRET (R429): the wave leaves its handler, and takes a pending trap 0x30 before any chain issues. -/
def execTret (s : State) : Host.Outcome State Fault Refusal :=
  runWord s fun k r w =>
    if !r.inHandler then illegalHere r
    else if (batch r).length != r.fibres.length then .trap (mkTrap 0x06 (batch r) 0 0)
    else if w.preemptPending && !(noAnswers s w && imageFree s w.blk) then .hold
    else
      let s1 := enterKept (s.moved k (let w1 := w.returned; resumeRep s w1 (ofTpc w1.tpc))) k w
      let s2 := if r.handlerCause = 0x30 then resumeBlock s1 r.blk else s1
      .ok (if w.preemptPending && !stranded s2 r.blk then enterPreempt s2 k else s2)

/-! ## Traps at a boundary -/

/-- The wave's next chain is a WAIT that it stands at (R432). -/
def waitStalled (s : State) (w : Wave) : Bool :=
  match minPc w with
  | none => true
  | some pc =>
    match fetchPacket s w pc.packet with
    | .error _ => false
    | .ok (ws, _) => (chainOf ws pc.slot).1.any fun p => match decode p.2 with
      | .ok (.wait l st c t) => !(waitDone w .ld l && waitDone w .st st && waitDone w .cp c && waitDone w .tl t)
      | _ => false

/-- A parked state is one whose request failed so: an ordered-section request for the key of the trap, or a request at a barrier object
(12_ordered_sections R268, R274, 11_async_copies R247). -/
def failedBy (t : Trap) (q : Parked) : Bool :=
  match q.kind with
  | .oent k _ _ => (t.cause == 0x21 || t.cause == 0x22) && t.tinfo == k
  | .oqry k _ => t.cause == 0x22 && t.tinfo == k
  | .bwait _ p => t.cause == 0x01 && decide (32 ≤ p)
  | .btest _ => t.cause == 0x01
  | _ => false

/-- A reported trap is of a word that the wave's handler issued itself: a fibre that it names waits in the handler for what failed, and not
behind it (R424). -/
def ofHandler (w : Wave) (t : Trap) : Bool :=
  !t.next && w.fibres.any fun p => t.tmask.getLsbD p.1 && p.2.park.any (failedBy t) && !p.2.behind.any (failedBy t)

/-- The BTEST at which a wave stands is the one that a reported trap answers as dropped (11_async_copies R247). -/
def endsTest (w : Wave) (t : Trap) : Bool :=
  !t.next && testing w && w.fibres.all fun p => !p.2.park.any atBtest || t.tmask.getLsbD p.1

/-- A wave takes a reported trap now: at its packet boundary or at the BTEST that it answers, and in a handler only a trap of the handler's
own, which contains the block (R424, R425). -/
def takesReport (w : Wave) (t : Trap) : Bool := (atBoundary w || endsTest w t) && (!w.inHandler || ofHandler w t)

/-- The trap that a wave takes before it issues again: a reported one, the lowest code first, else a requested trap 0x30 at a packet
boundary, between two repeats of a REP, at a WAIT, or while every fibre is parked (R425, R432, R43). -/
def trapNow (s : State) (w : Wave) : Option Trap :=
  match least Trap.cause (w.due.filter (takesReport w)) with
  | some t => some t
  | none =>
    if w.inHandler || testing w then none
    else if preemptOpen s w && (atBoundary w || w.repAt.isSome || waitStalled s w) then some { mkTrap 0x30 [] 0 0 with next := true } else none

/-- The lanes of a trap that its fibres are parked for, and that take it at their chain (12_ordered_sections R268, R274,
11_async_copies R247). -/
def trapLanes (w : Wave) (t : Trap) : List Nat := (w.fibres.filter fun p => t.tmask.getLsbD p.1).map Prod.fst

/-- A reported trap taken: at the next chain to issue, or at the chain of the fibres that it names, which stop waiting (R425). -/
def takeReported (s : State) (k : Nat) (w : Wave) (t : Trap) : State :=
  let w1 := { w with due := w.due.erase t }
  if t.next then enterTrap (s.setWave k w1) k (batch w1) t
  else
    let lanes := trapLanes w1 t
    enterTrap (s.setWave k (lanes.foldl (fun w l => w.mapFibre l fun f => { f with park := none }) w1)) k lanes t

/-- TRAP_ENTRY at a boundary (R425, R432). -/
def execTrapEntry (wave : Nat) (s : State) : Host.Outcome State Fault Refusal :=
  runEvent s (.trapEntry wave) ((s.wave wave).bind (trapNow s)).isSome fun s =>
    match s.wave wave with
    | none => s
    | some w =>
      match trapNow s w with
      | none => s
      | some t => if t.cause = 0x30 then enterPreempt s wave else takeReported s wave w t

/-! ## Refusals by peers -/

/-- The access of a wave to a peer's memory at an address, of the kind that is refused, that has not been performed: its operation, its place and
itself. -/
def peerAccess (w : Wave) (va : Nat) (write : Bool) : Option (Nat × Nat × Sub) :=
  w.ops.findSome? fun o =>
    ((List.range o.subs.length).zip o.subs).findSome? fun x =>
      if !x.2.done && x.2.va == va && x.2.isWrite == write && (match x.2.space with
        | .far d => d != 256
        | _ => false) then some (o.id, x.1, x.2) else none

/-- The CPYP of a wave, and its sector, whose peer side begins at an address and has not landed. -/
def peerSector (s : State) (wave va : Nat) (write : Bool) : Option (Nat × Nat × Copy) :=
  s.work.copies.findSome? fun p =>
    if p.2.wave == wave && p.2.started then
      (p.2.left.find? fun k => ((sectorPeer p.2 k).map fun q => q.2.1 == va && q.2.2 == write).getD false).map fun k => (p.1, k, p.2)
    else none

/-- PEER_REFUSAL: the target did not execute the command of an access, or of a sector of a CPYP; a read returns all ones, a write changes nothing,
and the wave is to take trap 0x15 (18_host_peers R414). -/
def execPeerRefusal (wave va : Nat) (write : Bool) (s : State) : Host.Outcome State Fault Refusal :=
  runEvent s (.peerRefusal wave va write)
    (((s.wave wave).bind fun w => peerAccess w va write).isSome || (peerSector s wave va write).isSome) fun s =>
      match (s.wave wave).bind fun w => (peerAccess w va write).map fun x => (w, x) with
      | some (w, id, j, x) => reapWave (refuseSub s wave w id j x 13) wave
      | none =>
        match peerSector s wave va write with
        | some (id, k, c) => reapWave (refuseSector s id k c 13) wave
        | none => s

end Sys2Proof.Machine
end

