-- ==== Sys2Proof/Machine/Contain.lean ====
section
/-! DEFINITION. The removal of a context's work, the containment of a context, of a stack and of the device, the device log and poison
(17_translation R389, 20_errors R438, R443 to R445, 12_ordered_sections R273). -/

namespace Sys2Proof.Machine

/-! ## Whose work a step is -/

/-- The context of a block. -/
def blkCtx (s : State) (blk : Nat) : Option Nat := (s.block blk).map Block.ctx

/-- The context of a wave, from its key. -/
def waveCtx (s : State) (k : Nat) : Option Nat := blkCtx s (k / 16)

/-- The context of a fibre. -/
def uidCtx (s : State) (uid : Nat) : Option Nat := (fibreAt s uid).bind fun p => waveCtx s p.1

/-- The context of a barrier object. -/
def objCtx (s : State) : BarObj → Option Nat
  | .spm blk _ => blkCtx s blk
  | .dev ctx _ => some ctx
  | .line _ _ _ _ => none

/-- The context of an export. -/
def exportCtx (s : State) (id : Nat) : Option Nat :=
  ((s.base.exports.look id).bind fun x => s.base.batches.look x.frag.batch).map Batch.ctx

/-- The context for which a step of the device is under way. -/
def evCtx (s : State) : Ev → Option Nat
  | .trapEntry w => waveCtx s w
  | .barrierOverrunReport w _ => waveCtx s w
  | .droppedBarrierRequest w _ _ _ _ _ => waveCtx s w
  | .tableFullReport w _ _ _ => waveCtx s w
  | .blockStoreFailure w _ _ => waveCtx s w
  | .peerRefusal w _ _ => waveCtx s w
  | .homeSliceRequest w _ _ => waveCtx s w
  | .queueStreamDrain w _ => waveCtx s w
  | .remoteBarrierRequest w _ _ _ _ _ _ => waveCtx s w
  | .bwaitRelease w _ => waveCtx s w
  | .remoteMessage m => waveCtx s m.wave
  | .blockStoreRequest r => waveCtx s r.wave
  | .blockRetire b => blkCtx s b
  | .saveComplete b => blkCtx s b
  | .migrationComplete b _ => blkCtx s b
  | .pageWalk _ c _ => some c
  | .completionArrival c _ _ _ => some c
  | .launchDoorbell c _ => some c
  | .launchQueueEntry c _ => some c
  | .waypointRequest r => some r.ctx
  | .waypointClaim r => some r.ctx
  | .waypointMulticast _ c _ _ => some c
  | .waypointAnswer u _ _ => uidCtx s u
  | .barrierUpdate w o _ => (w.bind (waveCtx s)) <|> objCtx s o
  | .mcasLockRequest i => (s.mem.commits.look i).bind fun c => waveCtx s c.wave
  | .mcasLockAck i => (s.mem.commits.look i).bind fun c => waveCtx s c.wave
  | .batchAccept i => (s.base.batches.look i).map Batch.ctx
  | .exportEntry i => exportCtx s i
  | .depthVerdict i _ => exportCtx s i
  | .srfsetPerform i => (s.base.sets.look i).map PendSet.ctx
  | .plotAccept i _ => (s.base.plots.look i).map Plot.ctx
  | .pageMigrationComplete c _ _ => some c
  | .collapseRequest c _ _ _ => some c
  | .groupRewrite c _ _ _ _ => some c
  | .collapseGrant c _ => some c
  | .collapseAnswer c _ _ => some c
  | _ => none

/-! ## The removal of a context's work -/

/-- The scheduler without the blocks, waves, launches, copies and entries of a context (17_translation R389). -/
def Work.without (s : State) (ctx : Nat) : Work :=
  let w := s.work
  let mine (blk : Nat) : Bool := blkCtx s blk == some ctx
  let ours (l : Nat) : Bool := (w.launches.look l).map Launch.ctx == some ctx
  { w with
    launches := w.launches.filter fun p => p.2.ctx != ctx
    blocks := w.blocks.filter fun p => p.2.ctx != ctx
    waves := w.waves.filter fun p => !mine p.2.blk
    queue := w.queue.filter fun l => !ours l
    relaunch := w.relaunch.filter fun b => !mine b
    left := w.left.filter fun p => p.2.1 != ctx
    leftSlabs := w.leftSlabs.filter fun p => p.2.1 != ctx
    forwards := w.forwards.filter fun f => !mine f.blk
    cores := w.cores.map fun p => (p.1, { p.2 with
      active := p.2.active.filter fun a => !mine (a.1 / 16)
      pending := p.2.pending.filter fun a => !mine (a.1 / 16) })
    fetch := w.fetch.filter fun f => !ours f.launch
    copies := w.copies.filter fun p => !mine p.2.blk
    images := w.images.filter fun p => !mine p.2.1
    imageBytes := w.imageBytes.filter fun p => !((w.images.look p.1).map fun q => mine q.1).getD false }

/-- Waypoints, graphics and plot units without what fibres, waves and batches of a context have under way; its keys, entries, cells and
blocks stay. -/
def Base.without (s : State) (ctx : Nat) : Base :=
  let b := s.base
  let ourBatch (i : Nat) : Bool := (b.batches.look i).map Batch.ctx == some ctx
  let ourPlot (i : Nat) : Bool := (b.plots.look i).map Plot.ctx == some ctx
  { b with
    waits := b.waits.filter fun q => q.req.ctx != ctx
    poolWaits := b.poolWaits.filter fun q => q.ctx != ctx
    batches := b.batches.filter fun p => p.2.ctx != ctx
    tickets := b.tickets.filter fun t => t.ctx != ctx
    exports := b.exports.filter fun p => !ourBatch p.2.frag.batch
    frags := b.frags.filter fun p => !ourBatch p.2.frag.batch
    sets := b.sets.filter fun p => p.2.ctx != ctx
    plots := b.plots.filter fun p => p.2.ctx != ctx
    threads := b.threads.filter fun p => !ourPlot p.2.plot
    units := b.units.filter fun p => !ourPlot p.2 }

/-- The commits of a context's waves given up, with the lines that they hold. -/
def MemSys.without (s : State) (ctx : Nat) : MemSys :=
  let ours (i : Nat) : Bool := ((s.mem.commits.look i).bind fun c => waveCtx s c.wave) == some ctx
  { s.mem with
    commits := s.mem.commits.filter fun p => !ours p.1
    locked := s.mem.locked.filter fun p => !ours p.2
    collapses := s.mem.collapses.filter fun c => c.ctx != ctx }

/-- The pins that copies of a context hold on blocks of the block store let go. -/
def unpinAll (s : State) (ctx : Nat) : State :=
  (s.work.copies.filter fun p => blkCtx s p.2.blk == some ctx).foldl (fun s p => unpinCopy s p.2) s

/-- The waves, blocks, launches and operations of a context removed without a save; the generation of each of its allocations rises
(17_translation R389, 10_memory_instructions R213). -/
def removeWork (s : State) (ctx : Nat) : State :=
  let s0 := unpinAll s ctx
  let cores := (s0.work.blocks.filter fun p => p.2.ctx == ctx && p.2.status != .saved).map fun p => p.2.core
  let s1 : State :=
    { s0 with
      work := Work.without s0 ctx
      base := Base.without s0 ctx
      mem := MemSys.without s0 ctx
      pending := s0.pending.filter fun e => evCtx s0 e != some ctx }
  cores.foldl bumpGen s1

/-- The numbers of a context's blocks. -/
def blocksOf (s : State) (ctx : Nat) : List Nat := (s.work.blocks.filter fun p => p.2.ctx == ctx).map Prod.fst

/-- A block of a stopped context is contained with it: event 7, unless it had one already, and its retirement counts for its launch. The cause
that the event names is free (20_errors R443, R445; DESIGN CHOICE, log 105). -/
def endBlock (s : State) (blk : Nat) : State :=
  match s.block blk with
  | some b =>
    let s1 := if b.status == .contained then s else tellContained s b (Config.choose s.tick)
    countRetired s1 b.launch b.stack
  | none => s

/-- A completion arrival of a context's launch is in flight. -/
def arrivesFor (ctx : Nat) (e : Ev) : Bool :=
  match e with
  | .completionArrival c _ _ _ => c == ctx
  | _ => false

/-- The end of a context's stop, once its waves stand: its blocks are contained, its work is removed, and the arrivals of the launches that
are over so are still made (20_errors R443, 17_translation R389). -/
def finishStop (s : State) (ctx : Nat) : State :=
  let s1 := (blocksOf s ctx).foldl endBlock s
  let s2 := (removeWork s1 ctx).posts (s1.pending.filter (arrivesFor ctx))
  match s2.ctxs.look ctx with
  | some c => s2.setCtx ctx { c with ending := false }
  | none => s2

/-- A context stopped: from now on it accepts only KILL; its waves stop, and once they stand its blocks are removed as by KILL, at the step that
would retire one (20_errors R443, 17_translation R389). -/
def stopContext (s : State) (ctx : Nat) : State :=
  match s.ctxs.look ctx with
  | none => s
  | some c =>
    if c.stopped then s
    else
      let s1 := s.setCtx ctx { c with stopped := true, ending := true, devQueue := [] }
      if (blocksOf s ctx).isEmpty then finishStop s1 ctx else s1.posts ((blocksOf s ctx).map Ev.blockRetire)

/-- A context stopped, with event 8: the stack and the frame (20_errors R443, R445). -/
def stopFor (s : State) (ctx stack frame : Nat) : State :=
  if ctxStopped s ctx then s else stopContext (postEvent s ctx stack 8 [(8, stack), (12, frame)]) ctx

/-- A context stopped for poison in a line of a frame that hardware owns for it (20_errors R438, R443). -/
def stopForPoison (s : State) (ctx stack line : Nat) : State := stopFor s ctx stack (line / 64)

/-- A use of a frame that hardware owns for a context, unless poison is found there: that stops the context (20_errors R438). What a context that
is stopped already has under way goes on. -/
def guardFrame (s : State) (ctx stack : Nat) (found : Option Nat) (go : State) : State :=
  match found with
  | some line => if ctxStopped s ctx then go else stopForPoison s ctx stack line
  | none => go

/-! ## Containment of a stack and of the device -/

/-- An event of the device posted to every context (20_errors R445, log 45). -/
def postAll (s : State) (stack kind : Nat) (payload : List (Nat × Nat)) : State :=
  (s.ctxs.map Prod.fst).foldl (fun s c => postEvent s c stack kind payload) s

/-- The device serves its host and its peers: it runs its firmware, and a stack of it is left (18_host_peers R421, 20_errors R443). -/
def serving (s : State) : Bool := s.dev.bootStage == 3 && !(s.dev.contained.contains 0 && s.dev.contained.contains 1)

/-- A stack contained: every context holds device memory, which stands on both stacks, so each receives event 9 and is stopped as at context
level, with an event 8 whose frame is free (DESIGN CHOICE, log 105); once both stacks are lost the peer ports drop (20_errors R443). -/
def containStack (s : State) (stack : Nat) : State :=
  if s.dev.contained.contains stack then s
  else
    let s1 := postAll s stack 9 [(8, stack)]
    let s2 := (s1.ctxs.map Prod.fst).foldl (fun s c => stopFor s c stack (Config.choose s.tick)) s1
    let s3 := { s2 with dev := { s2.dev with contained := stack :: s2.dev.contained } }
    if serving s3 || s3.dev.bootStage != 3 then s3 else { s3 with dev := { s3.dev with links := [] } }

/-- The device contained for a fault of its firmware: each stack is, and then the ports and the host's windows answer as in bring-up
(20_errors R443, 18_host_peers R421). -/
def containDevice (s : State) : State := containStack (containStack s 0) 1

/-! ## The device log -/

/-- A record added to the device log, which keeps the last 1,024 (20_errors R444). -/
def appendLog (s : State) (r : LogRec) : State :=
  { s with dev := { s.dev with log := (s.dev.log ++ [r]).drop (s.dev.log.length + 1 - 1024) } }

/-! ## Poison -/

/-- A line of local device memory marked as poison (20_errors R438). -/
def poisonLine (s : State) (line : Nat) : State :=
  if s.mem.poison.contains line then s else { s with mem := { s.mem with poison := line :: s.mem.poison } }

/-- The things of a stack that lie in its surface SRAM are its cells, then its blocks of the block store. A line of the one at position `pos` is
poisoned (20_errors R438, R440). -/
def poisonSurface (s : State) (stack pos line : Nat) : State :=
  let cells := s.base.cells.filter fun c => cellStack c.cx c.cy == stack && !c.spilled
  let blks := s.base.blocks.filter fun b => bsStack b.1 == stack && b.2.live && !b.2.spilled
  match cells[pos]? with
  | some c => putCell s { c with poisoned := line :: c.poisoned.erase line }
  | none =>
    match blks[pos - cells.length]? with
    | some b => mapBs s b.1 fun x => { x with poisoned := line :: x.poisoned.erase line }
    | none => s

/-- The poison of a line found: in a frame of a context's hardware it stops the context, in firmware state it contains the stack, and
elsewhere the line is marked (20_errors R438). -/
def foundPoison (s : State) (stack line : Nat) : FrameOf → State
  | .other => poisonLine s line
  | .ctx c => stopForPoison s c stack line
  | .firmware => containStack s stack

end Sys2Proof.Machine
end

