-- ==== Sys2Proof/Machine/Hash.lean ====
section
/-! DEFINITION. SHA-256 and the verification of SLH-DSA-SHA2-128s signatures, as the boot ROM computes them (18_host_peers R418, R419; FIPS 180-4
and FIPS 205, which the manual names). -/

namespace Sys2Proof.Machine

/-! ## SHA-256 -/

/-- The round constants of SHA-256. -/
def shaK : List Word :=
  [0x428A2F98, 0x71374491, 0xB5C0FBCF, 0xE9B5DBA5, 0x3956C25B, 0x59F111F1, 0x923F82A4, 0xAB1C5ED5,
   0xD807AA98, 0x12835B01, 0x243185BE, 0x550C7DC3, 0x72BE5D74, 0x80DEB1FE, 0x9BDC06A7, 0xC19BF174] ++
  [0xE49B69C1, 0xEFBE4786, 0x0FC19DC6, 0x240CA1CC, 0x2DE92C6F, 0x4A7484AA, 0x5CB0A9DC, 0x76F988DA,
   0x983E5152, 0xA831C66D, 0xB00327C8, 0xBF597FC7, 0xC6E00BF3, 0xD5A79147, 0x06CA6351, 0x14292967] ++
  [0x27B70A85, 0x2E1B2138, 0x4D2C6DFC, 0x53380D13, 0x650A7354, 0x766A0ABB, 0x81C2C92E, 0x92722C85,
   0xA2BFE8A1, 0xA81A664B, 0xC24B8B70, 0xC76C51A3, 0xD192E819, 0xD6990624, 0xF40E3585, 0x106AA070] ++
  [0x19A4C116, 0x1E376C08, 0x2748774C, 0x34B0BCB5, 0x391C0CB3, 0x4ED8AA4A, 0x5B9CCA4F, 0x682E6FF3,
   0x748F82EE, 0x78A5636F, 0x84C87814, 0x8CC70208, 0x90BEFFFA, 0xA4506CEB, 0xBEF9A3F7, 0xC67178F2]

/-- The initial hash value of SHA-256. -/
def shaInit : List Word :=
  [0x6A09E667, 0xBB67AE85, 0x3C6EF372, 0xA54FF53A, 0x510E527F, 0x9B05688C, 0x1F83D9AB, 0x5BE0CD19]

/-- A word of four bytes, the first the most significant. -/
def wordOfBytes (bs : List Byte) : Word := bs.foldl (fun w b => (w <<< 8) ||| b.zeroExtend 32) 0

/-- A number as bytes, the first the most significant. -/
def bigBytes (x n : Nat) : List Byte := (List.range n).map fun i => BitVec.ofNat 8 (x / 2 ^ (8 * (n - 1 - i)))

/-- The number of some bytes, the first the most significant. -/
def bigNat (bs : List Byte) : Nat := bs.foldl (fun x b => 256 * x + b.toNat) 0

/-- A message padded to whole blocks of 64 bytes. -/
def shaPad (m : List Byte) : List Byte :=
  m ++ 0x80 :: List.replicate ((119 - m.length % 64) % 64) 0 ++ bigBytes (8 * m.length) 8

/-- One word more of the message schedule, whose newest word stands first. -/
def shaNext (w : List Word) : List Word :=
  let x := w.getD 1 0
  let y := w.getD 14 0
  ((x.rotateRight 17 ^^^ x.rotateRight 19 ^^^ x >>> 10) + w.getD 6 0 + (y.rotateRight 7 ^^^ y.rotateRight 18 ^^^ y >>> 3) + w.getD 15 0) :: w

/-- The 64 words of the message schedule of a block. -/
def shaSchedule (b : List Byte) : List Word :=
  let first := ((List.range 16).map fun i => wordOfBytes ((b.drop (4 * i)).take 4)).reverse
  ((List.range 48).foldl (fun w _ => shaNext w) first).reverse

/-- One round of SHA-256 on the working words a to h. -/
def shaRound (v : List Word) (kw : Word × Word) : List Word :=
  match v with
  | [a, b, c, d, e, f, g, h] =>
    let t := h + (e.rotateRight 6 ^^^ e.rotateRight 11 ^^^ e.rotateRight 25) + ((e &&& f) ^^^ (~~~e &&& g)) + kw.1 + kw.2
    let u := (a.rotateRight 2 ^^^ a.rotateRight 13 ^^^ a.rotateRight 22) + ((a &&& b) ^^^ (a &&& c) ^^^ (b &&& c))
    [t + u, a, b, c, d + t, e, f, g]
  | _ => v

/-- A block taken into the hash value. -/
def shaBlock (h : List Word) (b : List Byte) : List Word := (h.zip ((shaK.zip (shaSchedule b)).foldl shaRound h)).map fun p => p.1 + p.2

/-- SHA-256 of a byte string. -/
def sha256 (m : List Byte) : List Byte :=
  let p := shaPad m
  let r := (List.range (p.length / 64)).foldl (fun (q : List Word × List Byte) _ => (shaBlock q.1 (q.2.take 64), q.2.drop 64)) (shaInit, p)
  r.1.flatMap fun w => bigBytes w.toNat 4

/-! ## SLH-DSA-SHA2-128s

n = 16, h = 63, d = 7, h' = 9, a = 12, k = 14, lg w = 4, len = 35, m = 30. -/

/-- The address of a hash call: layer, tree, type, and its three last words. -/
structure SlhAdrs where
  layer : Nat
  tree : Nat
  kind : Nat
  pair : Nat
  chain : Nat
  hash : Nat
deriving DecidableEq, Repr

/-- The compressed address of 22 bytes. -/
def SlhAdrs.bytes (a : SlhAdrs) : List Byte :=
  bigBytes a.layer 1 ++ bigBytes a.tree 8 ++ bigBytes a.kind 1 ++ bigBytes a.pair 4 ++ bigBytes a.chain 4 ++ bigBytes a.hash 4

/-- The hash functions F, H and T of the parameter set, which differ in the length of their message only. -/
def slhHash (seed : List Byte) (a : SlhAdrs) (m : List Byte) : List Byte := (sha256 (seed ++ List.replicate 48 0 ++ a.bytes ++ m)).take 16

/-- The message digest of 30 bytes. -/
def slhDigest (r seed root m : List Byte) : List Byte :=
  (sha256 (r ++ seed ++ sha256 (r ++ seed ++ root ++ m) ++ bigBytes 0 4)).take 30

/-- Numbers of `b` bits each, taken from bytes, the first the most significant. -/
def slhDigits (b n : Nat) (x : List Byte) : List Nat :=
  (List.range n).map fun i => bigNat x / 2 ^ (8 * x.length - b * (i + 1)) % 2 ^ b

/-- The `i`-th string of 16 bytes. -/
def slhPart (sig : List Byte) (i : Nat) : List Byte := (sig.drop (16 * i)).take 16

/-- Hash chaining of `n` steps from step `i` on. -/
def slhChain (seed : List Byte) (a : SlhAdrs) (i n : Nat) (x : List Byte) : List Byte :=
  (List.range n).foldl (fun x j => slhHash seed { a with hash := i + j } x) x

/-- A node and its sibling on the way up a tree: level `j` of the path from index `i`. -/
def slhUp (seed : List Byte) (a : SlhAdrs) (i j : Nat) (node sib : List Byte) : List Byte :=
  let b := { a with chain := j + 1, hash := i / 2 ^ (j + 1) }
  if i / 2 ^ j % 2 = 0 then slhHash seed b (node ++ sib) else slhHash seed b (sib ++ node)

/-- The WOTS+ public key that a signature of a 16-byte message gives. -/
def slhWots (seed : List Byte) (a : SlhAdrs) (sig m : List Byte) : List Byte :=
  let digits := slhDigits 4 32 m
  let sum := (digits.map fun x => 15 - x).sum
  let all := digits ++ slhDigits 4 3 (bigBytes (16 * sum) 2)
  let ends := (List.range 35).flatMap fun i =>
    slhChain seed { a with kind := 0, chain := i } (all.getD i 0) (15 - all.getD i 0) (slhPart sig i)
  slhHash seed { a with kind := 1, chain := 0, hash := 0 } ends

/-- The root of an XMSS tree that a signature of 44 strings gives for a leaf. -/
def slhXmss (seed : List Byte) (layer tree leaf : Nat) (sig m : List Byte) : List Byte :=
  let a : SlhAdrs := { layer := layer, tree := tree, kind := 0, pair := leaf, chain := 0, hash := 0 }
  (List.range 9).foldl (fun x j => slhUp seed { a with kind := 2, pair := 0 } leaf j x (slhPart sig (35 + j))) (slhWots seed a sig m)

/-- The FORS public key that a signature of 14 × 13 strings gives for a digest of 21 bytes. -/
def slhFors (seed : List Byte) (tree leaf : Nat) (sig md : List Byte) : List Byte :=
  let a : SlhAdrs := { layer := 0, tree := tree, kind := 3, pair := leaf, chain := 0, hash := 0 }
  let digits := slhDigits 12 14 md
  let roots := (List.range 14).flatMap fun i =>
    let x := digits.getD i 0
    (List.range 12).foldl (fun y j => slhUp seed a (4096 * i + x) j y (slhPart sig (13 * i + 1 + j)))
      (slhHash seed { a with hash := 4096 * i + x } (slhPart sig (13 * i)))
  slhHash seed { a with kind := 4 } roots

/-- Verification of a pure SLH-DSA-SHA2-128s signature with an empty context string: public key of 32 bytes, message, signature of 7,856 bytes
(18_host_peers R418, R419). -/
def slhVerify (key m sig : List Byte) : Bool :=
  let seed := key.take 16
  let root := (key.drop 16).take 16
  let digest := slhDigest (slhPart sig 0) seed root ([0, 0] ++ m)
  let tree := bigNat ((digest.drop 21).take 7) % 2 ^ 54
  let leaf := bigNat ((digest.drop 28).take 2) % 2 ^ 9
  let first := slhFors seed tree leaf (sig.drop 16) (digest.take 21)
  let top := (List.range 7).foldl (fun (q : List Byte × Nat × Nat) j =>
    (slhXmss seed j q.2.2 q.2.1 (sig.drop (16 * (183 + 44 * j))) q.1, q.2.2 % 2 ^ 9, q.2.2 / 2 ^ 9)) (first, leaf, tree)
  sig.length == 7856 && top.1 == root

end Sys2Proof.Machine
end

