-- ==== Sys2Proof/Machine/Sign.lean ====
section
/-! DEFINITION. SLH-DSA-SHA2-128f, the scheme of the fused identity key: its public key, and the pure signing interface with an empty context
string, as FIPS 205 defines them (18_host_peers R409, R420; log 8).

n = 16, h = 66, d = 22, h' = 3, a = 6, k = 33, lg w = 4, len = 35, m = 34. -/

namespace Sys2Proof.Machine

/-- HMAC with SHA-256 under a key of 16 bytes. -/
def hmac256 (key m : List Byte) : List Byte :=
  let pad (x : Byte) : List Byte := (key ++ List.replicate 48 0).map (· ^^^ x)
  sha256 (pad 0x5C ++ sha256 (pad 0x36 ++ m))

/-- The message digest of 34 bytes. -/
def signDigest (r seed root m : List Byte) : List Byte :=
  let x := r ++ seed ++ sha256 (r ++ seed ++ root ++ m)
  (sha256 (x ++ bigBytes 0 4) ++ sha256 (x ++ bigBytes 1 4)).take 34

/-- The node of a tree at a height and index, from its leaves. -/
def slhNode (seed : List Byte) (a : SlhAdrs) (leaf : Nat → List Byte) : Nat → Nat → List Byte
  | 0, i => leaf i
  | z + 1, i => slhHash seed { a with chain := z + 1, hash := i } (slhNode seed a leaf z (2 * i) ++ slhNode seed a leaf z (2 * i + 1))

/-- The siblings on the way up a tree of some height, from the leaf `x` of the part of the leaves that starts at `o`. -/
def slhPath (seed : List Byte) (a : SlhAdrs) (leaf : Nat → List Byte) (height o x : Nat) : List Byte :=
  (List.range height).flatMap fun j => slhNode seed a leaf j (o / 2 ^ j + (x / 2 ^ j ^^^ 1))

/-- The secret start of chain `i` of a WOTS+ key pair. -/
def wotsSecret (seed secret : List Byte) (a : SlhAdrs) (i : Nat) : List Byte :=
  slhHash seed { a with kind := 5, chain := i, hash := 0 } secret

/-- The WOTS+ public key of the key pair that an address names. -/
def wotsKey (seed secret : List Byte) (a : SlhAdrs) : List Byte :=
  slhHash seed { a with kind := 1, chain := 0, hash := 0 }
    ((List.range 35).flatMap fun i => slhChain seed { a with kind := 0, chain := i } 0 15 (wotsSecret seed secret a i))

/-- The WOTS+ signature of a message of 16 bytes. -/
def wotsSign (seed secret : List Byte) (a : SlhAdrs) (m : List Byte) : List Byte :=
  let digits := slhDigits 4 32 m
  let all := digits ++ slhDigits 4 3 (bigBytes (16 * (digits.map fun x => 15 - x).sum) 2)
  (List.range 35).flatMap fun i => slhChain seed { a with kind := 0, chain := i } 0 (all.getD i 0) (wotsSecret seed secret a i)

/-- The address of the WOTS+ key pair of a leaf. -/
def xmssAdrs (layer tree leaf : Nat) : SlhAdrs := { layer := layer, tree := tree, kind := 0, pair := leaf, chain := 0, hash := 0 }

/-- The leaves of an XMSS tree. -/
def xmssLeaf (seed secret : List Byte) (layer tree i : Nat) : List Byte := wotsKey seed secret (xmssAdrs layer tree i)

/-- The root of an XMSS tree. -/
def xmssRoot (seed secret : List Byte) (layer tree : Nat) : List Byte :=
  slhNode seed { xmssAdrs layer tree 0 with kind := 2 } (xmssLeaf seed secret layer tree) 3 0

/-- The XMSS signature of a message of 16 bytes with a leaf's key pair. -/
def xmssSign (seed secret : List Byte) (layer tree leaf : Nat) (m : List Byte) : List Byte :=
  wotsSign seed secret (xmssAdrs layer tree leaf) m ++
    slhPath seed { xmssAdrs layer tree 0 with kind := 2 } (xmssLeaf seed secret layer tree) 3 0 leaf

/-- The hypertree signature of a message of 16 bytes: 22 layers, each of which signs the root of the tree below it. -/
def treeSign (seed secret : List Byte) (tree leaf : Nat) (m : List Byte) : List Byte :=
  ((List.range 22).foldl (fun (q : List Byte × List Byte × Nat × Nat) j =>
    (q.1 ++ xmssSign seed secret j q.2.2.1 q.2.2.2 q.2.1, xmssRoot seed secret j q.2.2.1, q.2.2.1 / 8, q.2.2.1 % 8)) ([], m, tree, leaf)).1

/-- The secret value of a FORS leaf. -/
def forsSecret (seed secret : List Byte) (a : SlhAdrs) (i : Nat) : List Byte := slhHash seed { a with kind := 6, chain := 0, hash := i } secret

/-- A FORS leaf. -/
def forsLeaf (seed secret : List Byte) (a : SlhAdrs) (i : Nat) : List Byte := slhHash seed { a with chain := 0, hash := i } (forsSecret seed secret a i)

/-- The FORS signature of a digest of 25 bytes, and the FORS public key. -/
def forsSign (seed secret : List Byte) (tree leaf : Nat) (md : List Byte) : List Byte × List Byte :=
  let a : SlhAdrs := { layer := 0, tree := tree, kind := 3, pair := leaf, chain := 0, hash := 0 }
  let xs := slhDigits 6 33 md
  ((List.range 33).flatMap fun i =>
      forsSecret seed secret a (64 * i + xs.getD i 0) ++ slhPath seed a (forsLeaf seed secret a) 6 (64 * i) (xs.getD i 0),
    slhHash seed { a with kind := 4, chain := 0, hash := 0 } ((List.range 33).flatMap fun i => slhNode seed a (forsLeaf seed secret a) 6 i))

/-- The fused public key: its seed, and the root of the top tree. -/
def identityKey : List Byte := Config.identitySeed ++ xmssRoot Config.identitySeed Config.identitySecret 21 0

/-- The pure signature of a message with an empty context string under the fused key; the added randomness is the signer's own. -/
def identitySign (m : List Byte) : List Byte :=
  let seed := Config.identitySeed
  let x : List Byte := [0, 0] ++ m
  let r := (hmac256 Config.identityPrf (Config.signRandom m ++ x)).take 16
  let digest := signDigest r seed (identityKey.drop 16) x
  let tree := bigNat ((digest.drop 25).take 8) % 2 ^ 63
  let leaf := bigNat ((digest.drop 33).take 1) % 8
  let f := forsSign seed Config.identitySecret tree leaf (digest.take 25)
  r ++ f.1 ++ treeSign seed Config.identitySecret tree leaf f.2

end Sys2Proof.Machine
end

