-- ==== Sys2Proof/Machine/Contexts.lean ====
section
/-! DEFINITION. The mailbox of the management controller and its commands (18_host_peers R409, R410, R412, R420, 17_translation R387, R389,
20_errors R444). -/

namespace Sys2Proof.Machine

/-! ## Slots -/

/-- The address of a mailbox slot (R409). -/
def slotAddr (s : State) (slot : Nat) : Nat := s.dev.mboxBase.toNat + 64 * slot

/-- A field of a slot (R410). -/
def slotRead (s : State) (slot off n : Nat) : Nat := devRead s.mem (slotAddr s slot + off) n

/-- The address that a command names. -/
def slotVa (s : State) (slot : Nat) : Nat := slotRead s slot 8 8

/-- The context that a command names. -/
def slotCtx (s : State) (slot : Nat) : Nat := slotRead s slot 1 1

/-- The event that performs a command (R410). -/
def commandEv (slot opcode : Nat) : Ev :=
  match opcode with
  | 1 => .create slot
  | 2 => .update slot
  | 3 => .kill slot
  | 4 => .attest slot
  | 5 => .route slot
  | 6 => .log slot
  | 7 => .stackreset slot
  | 8 => .thermal slot
  | _ => .unknownOpcode slot

/-- The runs of local device memory that a command reads or writes: its slot, its image or report, and the surface table that a CREATE clears
(R410, R412, R420, 17_translation R387, 20_errors R444). -/
def commandRuns (s : State) (slot : Nat) : List (Nat × Nat) :=
  (slotAddr s slot, 64) ::
    match commandEv slot (slotRead s slot 0 1) with
    | .create _ => [(slotVa s slot, 128), (devRead s.mem (slotVa s slot + 8) 8, 2 ^ 18)]
    | .update _ => [(slotVa s slot, 128)]
    | .attest _ => [(slotVa s slot, 64 + 17168)]
    | .route _ => [(slotVa s slot, 272)]
    | .log _ => [(slotVa s slot, 32 * min s.dev.log.length (slotRead s slot 16 8))]
    | _ => []

/-- The home slices of those runs take requests now (12_ordered_sections R276); a run outside the memory is refused as it is. -/
def commandOpen (s : State) (slot : Nat) : Bool :=
  (commandRuns s slot).all fun q => decide (2 ^ 38 < q.1 + q.2) || (linesOf q.1 q.2).all (lineFree s.mem)

/-- The device performs the command of a slot now: it serves, the slot is the next of those written, and it holds this command (R410). -/
def commandDue (s : State) (slot : Nat) (e : Ev) : Bool :=
  serving s && decide (0 < s.dev.mboxLeft) && slot == s.dev.mboxNext && decide (slotAddr s slot + 64 ≤ 2 ^ 38) &&
    commandEv slot (slotRead s slot 0 1) == e && commandOpen s slot

/-- The next command of the ring, in flight if one is left (R410). -/
def postCommand (s : State) : State :=
  if s.dev.mboxLeft = 0 then s else s.post (commandEv s.dev.mboxNext (slotRead s s.dev.mboxNext 0 1))

/-- A command over: its status is written last, and the device goes on to the next slot (R410). -/
def closeSlot (s : State) (slot status : Nat) : State :=
  postCommand
    { s with
      mem := devWrite s.mem none (slotAddr s slot + 48) [BitVec.ofNat 8 status]
      dev := { s.dev with mboxNext := (slot + 1) % 64, mboxLeft := s.dev.mboxLeft - 1 } }

/-- A command that is done with an effect, or refused with none. -/
def runCommand (s : State) (slot : Nat) (e : Ev) (eff : State → Option State) : Host.Outcome State Fault Refusal :=
  runEvent s e (commandDue s slot e) fun s =>
    match eff s with
    | some s1 => closeSlot s1 slot 1
    | none => closeSlot s slot 2

/-- MAILBOX_DOORBELL: `index` is the last slot written. When it is the slot just before the next one and no slot was left, either no slot or all
64 are new; which of the two is free (R409, log 46). -/
def execMailboxDoorbell (index : Nat) (s : State) : Host.Outcome State Fault Refusal :=
  runEvent s (.mailboxDoorbell index) (serving s) fun s =>
    let n := (index + 1 + 64 - s.dev.mboxNext) % 64
    let left := if n = 0 then (if s.dev.mboxLeft = 0 then 64 * (Config.choose s.tick % 2) else 64) else n
    let s1 := { s with dev := { s.dev with mboxLeft := left } }
    if s.dev.mboxLeft = 0 then postCommand s1 else s1

/-! ## Context records -/

/-- A field of a context record in local device memory (17_translation R387). -/
def ctxField (m : MemSys) (a off n : Nat) : Nat := devRead m (a + off) n

/-- The limits of the context record map, each as whether it is broken (17_translation R387). -/
def ctxBreaches (m : MemSys) (a : Nat) : List Bool :=
  let d (off : Nat) : Nat := ctxField m a off 8
  let w (off : Nat) : Nat := ctxField m a off 4
  [d 0x00 % 4096 != 0, decide (2 ^ 38 ≤ d 0x00),
   d 0x08 % 4096 != 0, decide (2 ^ 38 < d 0x08 + 2 ^ 18),
   d 0x10 % 16 != 0,
   decide (bits (w 0x18) 4 0 < 16), decide (24 < bits (w 0x18) 4 0), decide (bits (w 0x18) 9 5 < 12), decide (20 < bits (w 0x18) 9 5),
   bits (w 0x18) 31 10 != 0,
   decide (196608 < bits (w 0x1C) 17 0), bits (w 0x1C) 31 18 != 0,
   d 0x20 % 16 != 0, d 0x28 % 256 != 0, d 0x30 % 64 != 0,
   decide (bits (w 0x38) 3 0 < 4), bits (w 0x38) 15 6 != 0, bits (w 0x38) 25 16 == 0, decide (512 < bits (w 0x38) 25 16),
   bits (w 0x38) 31 28 != 0, w 0x3C != 0,
   d 0x40 % 32 != 0,
   d 0x50 % 4096 != 0, decide (2 ^ 38 ≤ d 0x50), decide (2 ^ 38 < d 0x50 + 4096 * bits (w 0x58) 15 0), bits (w 0x58) 31 16 != 0,
   (List.range 9).any fun i => w (0x5C + 4 * i) != 0]

/-- The fields of a context record (17_translation R387). -/
def readCtx (m : MemSys) (a : Nat) : CtxRec :=
  let d (off : Nat) : Nat := ctxField m a off 8
  let w (off : Nat) : Nat := ctxField m a off 4
  { root := d 0x00, steFrame := d 0x08, wpBase := d 0x10, wpK := bits (w 0x18) 4 0, bkK := bits (w 0x18) 9 5, bkQuota := bits (w 0x1C) 17 0
    bkBase := d 0x20, bkSpill := d 0x28, evBase := d 0x30, evK := bits (w 0x38) 3 0, notifyCollapse := bitAt (w 0x38) 4
    notifyMigration := bitAt (w 0x38) 5, coreQuota := bits (w 0x38) 25 16, prioCap := bits (w 0x38) 27 26, lqTable := d 0x40
    peerTable := d 0x48, poolBase := d 0x50, poolFrames := bits (w 0x58) 15 0 }

/-- The record that a command names, when it lies in local device memory and keeps every limit (17_translation R387). -/
def goodCtx (s : State) (slot : Nat) : Option CtxRec :=
  let a := slotVa s slot
  if a % 128 != 0 || decide (2 ^ 38 < a + 128) || (ctxBreaches s.mem a).any id then none else some (readCtx s.mem a)

/-- A context as it is created: no handler, an empty surface table, no queue entry taken (17_translation R387, 19_traps R428,
13_raster R279). -/
def freshCtx (c : CtxRec) : Ctx :=
  { cfg := c, stopped := false, shbase := 0, shpacket := BitVec.allOnes 32, stes := [], devQueue := [], producers := [], superQs := [], poolUsed := 0 }

/-- A context as its record leaves it, with the supervisor bits of its launch queues as they stand in the table now: they can be set only so
(17_translation R388; DEDUCED, log 74). -/
def installCtx (s : State) (n : Nat) (c : Ctx) : State :=
  let s1 := s.setCtx n c
  s1.setCtx n { c with superQs := superQueues s1 n }

/-- The surface table of a new context: every entry of it is zero (17_translation R387, 13_raster R279). -/
def clearTable (s : State) (frame : Nat) : State := { s with mem := devWrite s.mem none frame (List.replicate (2 ^ 18) 0) }

/-- CREATE (17_translation R387): refused for a number above 63, for a context that exists, and for a record that breaks a limit. -/
def execCreate (slot : Nat) (s : State) : Host.Outcome State Fault Refusal :=
  runCommand s slot (.create slot) fun s =>
    let n := slotCtx s slot
    if 64 ≤ n ∨ (s.ctxs.look n).isSome then none else (goodCtx s slot).map fun c => installCtx (clearTable s c.steFrame) n (freshCtx c)

/-- A context has a block on a core. -/
def residentCtx (s : State) (ctx : Nat) : Bool := s.work.blocks.any fun p => p.2.ctx == ctx && p.2.status != .saved

/-- The entries of a surface table that are not all zero. -/
def tableEntries (m : MemSys) (frame : Nat) : Map Ste :=
  (List.range 4096).filterMap fun i => if steAt m frame i = Ste.zero then none else some (i, steAt m frame i)

/-- A context whose record names another surface table frame has the entries that stand there; the cells of an entry that is not the same any
more are freed (17_translation R387; DESIGN CHOICE, log 81). -/
def moveTable (s : State) (n : Nat) (c : Ctx) (frame : Nat) : State × Map Ste :=
  if c.cfg.steFrame = frame then (s, c.stes)
  else
    let new := tableEntries s.mem frame
    ({ s with base := { s.base with cells := s.base.cells.filter fun x =>
        !(x.ctx == n && (new.look x.ste).getD Ste.zero != (c.stes.look x.ste).getD Ste.zero) } }, new)

/-- Poison in a surface table frame that a context comes to read (20_errors R438). -/
def tablePoison (s : State) (c : Ctx) (frame : Nat) : Option Nat :=
  if c.cfg.steFrame = frame then none else (linesOf frame (2 ^ 18)).find? s.mem.poison.contains

/-- UPDATE (17_translation R387): refused for a context that is absent or stopped, for a record that breaks a limit, and for a change of the
page-table root or the surface table frame of a context with resident blocks. A new pool is untouched; a new surface table frame that holds poison
stops the context (20_errors R438). -/
def execUpdate (slot : Nat) (s : State) : Host.Outcome State Fault Refusal :=
  runCommand s slot (.update slot) fun s =>
    let n := slotCtx s slot
    match s.ctxs.look n, goodCtx s slot with
    | some c, some r =>
      if c.stopped || (residentCtx s n && (r.root != c.cfg.root || r.steFrame != c.cfg.steFrame)) then none
      else
        let q := moveTable s n c r.steFrame
        let s1 := installCtx q.1 n { c with cfg := r, stes := q.2, poolUsed := if r.poolBase = c.cfg.poolBase then c.poolUsed else 0 }
        some (guardFrame s1 n (homeStack r.steFrame) (tablePoison s c r.steFrame) s1)
    | _, _ => none

/-! ## KILL -/

/-- A wave of a context that is killed has stopped: at a packet boundary, between two repeats, or at a WAIT (17_translation R389, log 47). -/
def waveStopped (s : State) (w : Wave) : Bool := atBoundary w || w.repAt.isSome || waitStalled s w

/-- A wave waits for a walk that meets poison and so has no end (20_errors R438, log 106). -/
def walkStuck (s : State) (w : Wave) : Bool :=
  s.pending.any fun e =>
    match e with
    | .pageWalk core ctx va => core == coreOf s w && ctx == ctxOf s w && (walkPoison s ctx va).isSome
    | _ => false

/-- A wave goes no further: it has stopped, its stack is contained, or a walk that it waits for has no end (20_errors R443, log 106). -/
def waveStands (s : State) (w : Wave) : Bool :=
  waveStopped s w || s.dev.contained.contains (stackOf (coreOf s w)) || walkStuck s w

/-- Every wave of a context has stopped. -/
def ctxAtRest (s : State) (ctx : Nat) : Bool := s.work.waves.all fun p => waveCtx s p.1 != some ctx || waveStands s p.2

/-- The context of a block is being stopped. -/
def blkEnding (s : State) (blk : Nat) : Bool := ((blkCtx s blk).bind fun c => (s.ctxs.look c).map Ctx.ending).getD false

/-- The stop of a block's context can come to its end (20_errors R443). -/
def stopDue (s : State) (blk : Nat) : Bool := blkEnding s blk && ((blkCtx s blk).map (ctxAtRest s)).getD false

/-- BLOCK_RETIRE: a block whose waves have ended retires (15_execution_model R350, 16_scheduling R364). A block of a context that is being stopped
goes with all of the context instead (20_errors R443). -/
def execBlockRetire (blk : Nat) (s : State) : Host.Outcome State Fault Refusal :=
  runEvent s (.blockRetire blk) (if blkEnding s blk then stopDue s blk else retireDue s blk) fun s =>
    if blkEnding s blk then finishStop s ((blkCtx s blk).getD 0) else retireBlock s blk

/-- What a context leaves outside its own work taken away: its waypoint entries, cells, block keys and blocks, its TLB entries, its keys and
its page moves (17_translation R389, 12_ordered_sections R273). -/
def purgeCtx (s : State) (ctx : Nat) : State :=
  let b := s.base
  let s1 : State :=
    { s with
      base := { b with
        wps := b.wps.filter fun e => e.ctx != ctx
        cells := b.cells.filter fun c => c.ctx != ctx
        keys := b.keys.filter fun k => k.ctx != ctx
        blocks := b.blocks.map fun p =>
          (p.1, if p.2.live && p.2.ctx == ctx then { p.2 with count := 0, pins := 0 }.freed else p.2) }
      mem := { s.mem with migrating := s.mem.migrating.filter fun g => g.ctx != ctx } }
  let s2 := dropTlb s1 { ctx := some ctx, pages := none }
  (List.range 4).foldl (fun s i => setKey s (4 * ctx + i) none) s2

/-- A context gone (17_translation R389). -/
def killCtx (s : State) (ctx : Nat) : State :=
  let s1 := purgeCtx (removeWork s ctx) ctx
  { s1 with ctxs := s1.ctxs.del ctx }

/-- KILL (17_translation R389): the context is stopped; once its waves stand still and no line of its keys is held, everything of it is
removed and the command is done. A KILL of an absent context is refused. -/
def execKill (slot : Nat) (s : State) : Host.Outcome State Fault Refusal :=
  runEvent s (.kill slot) (commandDue s slot (.kill slot)) fun s =>
    let n := slotCtx s slot
    match s.ctxs.look n with
    | none => closeSlot s slot 2
    | some c =>
      if c.stopped && ctxAtRest s n && (List.range 4).all fun i => slotFree s (4 * n + i) then closeSlot (killCtx s n) slot 1
      else (s.setCtx n { c with stopped := true }).post (.kill slot)

/-! ## Attestation, routes, the log and the limits -/

/-- The firmware image that runs: bytes 0 to 0x3F + L of the boot flash (18_host_peers R419, R420). -/
def imageBytes (s : State) : List Byte :=
  let l := leNat ((List.range 4).map fun i => Memory.read s.dev.flash (8 + i))
  (List.range (0x40 + l)).map (Memory.read s.dev.flash)

/-- The fields of an attestation report before its signature (18_host_peers R420). -/
def reportBody (s : State) (nonce : List Byte) : List Byte :=
  nonce ++ leBytes Config.serial.toNat 8 ++ leBytes s.dev.deviceId 1 ++ leBytes s.dev.bootStage 1 ++ leBytes 1 2 ++ leBytes 0 4 ++
    (List.range 32).map fun i => (sha256 (imageBytes s)).getD i 0

/-- The signature of a report: 17,088 bytes (18_host_peers R420). -/
def reportSig (body : List Byte) : List Byte := (List.range 17088).map fun i => (identitySign body).getD i 0

/-- ATTEST (18_host_peers R420). -/
def execAttest (slot : Nat) (s : State) : Host.Outcome State Fault Refusal :=
  runCommand s slot (.attest slot) fun s =>
    let a := slotVa s slot
    if a % 64 != 0 || decide (2 ^ 38 < a + 64 + 17168) || devRead s.mem (a + 32) 32 != 0 then none
    else
      let body := reportBody s (seenBytes s.mem none a 32)
      some { s with mem := devWrite s.mem none (a + 64) (body ++ reportSig body) }

/-- A ROUTE image breaks a rule (18_host_peers R412). -/
def badRoutes (s : State) (a : Nat) : Bool :=
  let byte (i : Nat) : Nat := devRead s.mem (a + i) 1
  (List.range 256).any (fun i => bits (byte i) 6 5 != 0) || byte (byte 256) != 0 ||
    ((List.range 15).any fun i => byte (257 + i) != 0) || (!s.ctxs.isEmpty && byte 256 != s.dev.deviceId)

/-- The route table of an image: the port of each valid entry (18_host_peers R412). -/
def routesOf (s : State) (a : Nat) : Map Nat :=
  (List.range 256).filterMap fun i =>
    let x := devRead s.mem (a + i) 1
    if bitAt x 7 then some (i, bits x 4 0) else none

/-- ROUTE (18_host_peers R412). -/
def execRoute (slot : Nat) (s : State) : Host.Outcome State Fault Refusal :=
  runCommand s slot (.route slot) fun s =>
    let a := slotVa s slot
    if a % 64 != 0 || decide (2 ^ 38 < a + 272) || badRoutes s a then none
    else some { s with dev := { s.dev with routes := routesOf s a, deviceId := devRead s.mem (a + 256) 1 } }

/-- The 32 bytes of a record of the device log (20_errors R444). -/
def logBytes (r : LogRec) : List Byte :=
  leBytes r.event 1 ++ leBytes r.stack 1 ++ leBytes r.memory 1 ++ leBytes r.lasting 1 ++ leBytes r.action 1 ++ leBytes 0 3 ++
    leBytes r.addr 8 ++ leBytes r.cycle 8 ++ leBytes 0 8

/-- LOG: the oldest records, at most the count at slot byte 16, copied out and removed (20_errors R444). -/
def execLog (slot : Nat) (s : State) : Host.Outcome State Fault Refusal :=
  runCommand s slot (.log slot) fun s =>
    let rs := s.dev.log.take (slotRead s slot 16 8)
    if 2 ^ 38 < slotVa s slot + 32 * rs.length then none
    else
      some { s with
        mem := devWrite s.mem none (slotVa s slot) (rs.flatMap logBytes)
        dev := { s.dev with log := s.dev.log.drop rs.length } }

/-- The value of one key of three tables on which two of them agree. -/
def majorityAt (t : Map Nat × Map Nat × Map Nat) (k : Nat) : Option (Option Nat) :=
  if t.1.look k = t.2.1.look k ∨ t.1.look k = t.2.2.look k then some (t.1.look k)
  else if t.2.1.look k = t.2.2.look k then some (t.2.1.look k)
  else none

/-- The three copies of a stack's remap table read by majority, or nothing when an entry has none (20_errors R442). -/
def majority (t : Map Nat × Map Nat × Map Nat) : Option (Map Nat) :=
  (((t.1 ++ t.2.1 ++ t.2.2).map Prod.fst).eraseDups).foldl (fun acc k =>
    acc.bind fun m => (majorityAt t k).map fun v => match v with
      | some x => m.put k x
      | none => m) (some [])

/-- The copies of a stack's remap table. -/
def remapOf (s : State) (stack : Nat) : Map Nat × Map Nat × Map Nat := s.dev.remap.get stack ([], [], [])

/-- The three copies of a stack's remap table written alike (20_errors R442). -/
def setRemap (s : State) (stack : Nat) (m : Map Nat) : State := { s with dev := { s.dev with remap := s.dev.remap.put stack (m, m, m) } }

/-- A stack's remap table read by majority: a copy that disagrees is rewritten from the other two, and an entry without a majority contains the
stack (20_errors R442). -/
def voteRemap (s : State) (stack : Nat) : State :=
  match majority (remapOf s stack) with
  | some m => if (s.dev.remap.look stack).isSome then setRemap s stack m else s
  | none => containStack s stack

/-- STACKRESET: a contained stack returns to service with its remap table read by majority; refused where there is no majority, and for a
stack that is not contained (20_errors R444). -/
def execStackreset (slot : Nat) (s : State) : Host.Outcome State Fault Refusal :=
  runCommand s slot (.stackreset slot) fun s =>
    let t := slotRead s slot 16 1
    if !s.dev.contained.contains t then none
    else (majority (remapOf s t)).map fun m =>
      setRemap { s with dev := { s.dev with contained := s.dev.contained.erase t, throttling := s.dev.throttling.del t } } t m

/-- THERMAL: the temperature limit of both stacks, from 60 to 100 °C (18_host_peers R410). -/
def execThermal (slot : Nat) (s : State) : Host.Outcome State Fault Refusal :=
  runCommand s slot (.thermal slot) fun s =>
    let x := slotRead s slot 16 1
    if x < 60 ∨ 100 < x then none else some { s with dev := { s.dev with tempLimit := x } }

/-- UNKNOWN_OPCODE: status 3 (18_host_peers R410). -/
def execUnknownOpcode (slot : Nat) (s : State) : Host.Outcome State Fault Refusal :=
  runEvent s (.unknownOpcode slot) (commandDue s slot (.unknownOpcode slot)) fun s => closeSlot s slot 3

end Sys2Proof.Machine
end

