-- ==== Sys2Proof/Machine/Cross.lean ====
section
/-! DEFINITION. The cross-lane words (05_vector_scalar R113 to R116). -/

namespace Sys2Proof.Machine

/-! ## Shuffles -/

/-- A shuffle: vA of another lane slot, chosen for each fibre by `src` (R113, R114). An immediate `n` of the wave width or more
gives 0x01; a source that names a queue port gives 0x05 (R87). -/
def shuffle (n : Nat) (srcs : List Nat) (d a : VReg) (src : Wave → LaneIn → Nat) (s : State) : Host.Outcome State Fault Refusal :=
  vecRun s (fun r =>
      if r.width ≤ n then some (mkTrap 0x01 (batch r) 0 0)
      else if (a.toNat :: srcs).any (fun v => decide (124 ≤ v)) then
        (match portCheck r ((a.toNat :: srcs).filter (· < 124)) [d.toNat] with
          | some t => if t.cause = 0x04 then some t else some (mkTrap 0x05 (batch r) 0 0)
          | none => some (mkTrap 0x05 (batch r) 0 0))
      else portCheck r (a.toNat :: srcs) [d.toNat]) srcs (some d.toNat)
    fun r _ x => x.reg (laneReg s r (src r x) a.toNat)

/-- SHFLI (R114). -/
def execShfli (d a b : VReg) (s : State) : Host.Outcome State Fault Refusal :=
  shuffle 0 [b.toNat] d a (fun r x => (x.arg 0).toNat % r.width) s

/-- SHFLU (R114). -/
def execShflu (d a : VReg) (i : BitVec 7) (s : State) : Host.Outcome State Fault Refusal :=
  shuffle i.toNat [] d a (fun _ x => if x.lane < i.toNat then x.lane else x.lane - i.toNat) s

/-- SHFLD (R114). -/
def execShfld (d a : VReg) (i : BitVec 7) (s : State) : Host.Outcome State Fault Refusal :=
  shuffle i.toNat [] d a (fun r x => if r.width ≤ x.lane + i.toNat then x.lane else x.lane + i.toNat) s

/-- SHFLX (R114). -/
def execShflx (d a : VReg) (i : BitVec 7) (s : State) : Host.Outcome State Fault Refusal :=
  shuffle i.toNat [] d a (fun _ x => x.lane ^^^ i.toNat) s

/-- BCAST (R114). -/
def execBcast (d a : VReg) (i : BitVec 7) (s : State) : Host.Outcome State Fault Refusal :=
  shuffle i.toNat [] d a (fun _ _ => i.toNat) s

/-! ## Votes and masks -/

/-- VOTEANY (R114). -/
def execVoteany (d a : PReg) (s : State) : Host.Outcome State Fault Refusal :=
  vecWord s [] [] none fun _ xs x => x.pred d (xs.any fun y => pred y.fibre a) 0

/-- VOTEALL (R114). -/
def execVoteall (d a : PReg) (s : State) : Host.Outcome State Fault Refusal :=
  vecWord s [] [] none fun _ xs x => x.pred d (xs.all fun y => pred y.fibre a) 0

/-- A mask of lane slots as a register pair, low word first. -/
def maskRegs (m : DWord) : List Word := [m.truncate 32, (m >>> 32).truncate 32]

/-- BALLOT (R114). -/
def execBallot (d : VReg) (a : PReg) (s : State) : Host.Outcome State Fault Refusal :=
  wideWord s [] d.toNat 2 fun _ xs _ =>
    { regs := maskRegs (maskOf ((xs.filter fun y => pred y.fibre a).map LaneIn.lane)), preds := [], conds := 0 }

/-- MATCH (R114). -/
def execMatchv (d a : VReg) (s : State) : Host.Outcome State Fault Refusal :=
  wideWord s [a.toNat] d.toNat 2 fun _ xs x =>
    { regs := maskRegs (maskOf ((xs.filter fun y => y.arg 0 == x.arg 0).map LaneIn.lane)), preds := [], conds := 0 }

/-! ## Reductions -/

/-- A value combined over the fibres of the batch, in increasing lane slot. -/
def reduce (op : Word → Word → Word) (xs : List LaneIn) : Word :=
  match xs with
  | [] => 0
  | x :: t => t.foldl (fun v y => op v (y.arg 0)) (x.arg 0)

/-- A reduction without conditions: every fibre of the batch gets the combined value (R114). -/
def reduceWord (op : Word → Word → Word) (d a : VReg) (s : State) : Host.Outcome State Fault Refusal :=
  vecWord s [a.toNat] [d.toNat] (some d.toNat) fun _ xs x => x.reg (reduce op xs)

/-- WREDADD (R114). -/
def execWredadd (d a : VReg) (s : State) : Host.Outcome State Fault Refusal := reduceWord (· + ·) d a s

/-- WREDMIN (R114). -/
def execWredmin (d a : VReg) (s : State) : Host.Outcome State Fault Refusal := reduceWord minS d a s

/-- WREDMAX (R114). -/
def execWredmax (d a : VReg) (s : State) : Host.Outcome State Fault Refusal := reduceWord maxS d a s

/-- One node of the tree of WREDFADD: an absent child passes the other unchanged (R115). -/
def treeNode (x y : Option FRes) : Option FRes :=
  match x, y with
  | some a, some b =>
    let r := fAdd fmtF32 .rne a.bits b.bits
    some { bits := r.bits, conds := a.conds ||| b.conds ||| r.conds }
  | some a, none => some a
  | none, y => y

/-- One level of the tree of WREDFADD. -/
def treeLevel : List (Option FRes) → List (Option FRes)
  | x :: y :: t => treeNode x y :: treeLevel t
  | l => l

/-- The root of the tree of WREDFADD after `n` levels. -/
def treeRoot : Nat → List (Option FRes) → Option FRes
  | 0, l => (l.head?).join
  | n + 1, l => treeRoot n (treeLevel l)

/-- The sum of WREDFADD over the lane slots of a wave (R115). A NaN is delivered in its canonical form (R71, R118). -/
def treeSum (width : Nat) (xs : List LaneIn) : FRes :=
  let leaves := (List.range width).map fun l =>
    (xs.find? fun x => x.lane == l).map fun x => ({ bits := (x.arg 0).toNat, conds := 0 } : FRes)
  match treeRoot 6 leaves with
  | some t =>
    let u := fUnary fmtF32 t.bits t
    { u with conds := t.conds ||| u.conds }
  | none => { bits := 0, conds := 0 }

/-- WREDFADD: its conditions belong to every fibre of the batch (R115). -/
def execWredfadd (d a : VReg) (s : State) : Host.Outcome State Fault Refusal :=
  vecWord s [a.toNat] [d.toNat] (some d.toNat) fun r xs _ =>
    let t := treeSum r.width xs
    { regs := [BitVec.ofNat 32 t.bits], preds := [], conds := t.conds }

/-- maximumNumber over the fibres of the batch (R114). -/
def maxSum (xs : List LaneIn) : FRes :=
  match xs with
  | [] => { bits := 0, conds := 0 }
  | x :: t =>
    let x0 := (x.arg 0).toNat
    t.foldl (fun v y =>
      let r := fPick fmtF32 true v.bits (y.arg 0).toNat
      { bits := r.bits, conds := v.conds ||| r.conds }) (fPick fmtF32 true x0 x0)

/-- WREDFMAX (R114, R115). -/
def execWredfmax (d a : VReg) (s : State) : Host.Outcome State Fault Refusal :=
  vecWord s [a.toNat] [d.toNat] (some d.toNat) fun _ xs _ =>
    { regs := [BitVec.ofNat 32 (maxSum xs).bits], preds := [], conds := (maxSum xs).conds }

/-- WSCAN (R114). -/
def execWscan (d a : VReg) (s : State) : Host.Outcome State Fault Refusal :=
  vecWord s [a.toNat] [d.toNat] (some d.toNat) fun _ xs x => x.reg (reduce (· + ·) (xs.filter fun y => decide (y.lane ≤ x.lane)))

end Sys2Proof.Machine
end

