-- ==== Sys2Proof/Machine/HostPort.lean ====
section
/-! DEFINITION. The host's accesses, IDE keys, and the boot path (18_host_peers R407 to R409, R418, R419, R421, 16_scheduling R381, R382). -/

namespace Sys2Proof.Machine

/-! ## BAR 0 -/

/-- A number with the bytes from an offset on replaced. -/
def patchBytes (x off n v : Nat) : Nat := x % 2 ^ (8 * off) + 2 ^ (8 * off) * (v % 2 ^ (8 * n)) + 2 ^ (8 * (off + n)) * (x / 2 ^ (8 * (off + n)))

/-- REGISTER_WRITE: the mailbox base is the one register that keeps what is written; other offsets ignore writes, and so does every offset
while the device does not serve (R409, R421). The mailbox base begins at 0x040. -/
def execRegisterWrite (off n : Nat) (value : DWord) (s : State) : Host.Outcome State Fault Refusal :=
  runEvent s (.registerWrite off n value) (serving s && decide (0x040 ≤ off) && decide (off + n ≤ 0x048)) fun s =>
    { s with dev := { s.dev with
      mboxBase := BitVec.ofNat 64 (patchBytes s.dev.mboxBase.toNat (off - 0x040) n value.toNat) } }

/-- MSI_X_TABLE_ENTRY: dword `part` of the entry of a vector; the last one holds the mask. A vector that is unmasked sends the message that
waits for it (R408). -/
def execMsiXTableEntry (v part : Nat) (value : Word) (s : State) : Host.Outcome State Fault Refusal :=
  runEvent s (.msiXTableEntry v part value) (serving s && decide (v < 64) && decide (part < 4)) fun s =>
    let s1 := { s with dev := { s.dev with msix := s.dev.msix.put (4 * v + part) value } }
    if part != 3 then s1
    else if value.getLsbD 0 then { s1 with dev := { s1.dev with msixMasked := s1.dev.msixMasked ||| (1 <<< v) } }
    else
      let d := { s1.dev with msixMasked := s1.dev.msixMasked &&& ~~~((1 : BitVec 64) <<< v) }
      if s1.dev.msixPending.getLsbD v then
        { s1 with dev := { d with msixPending := d.msixPending &&& ~~~((1 : BitVec 64) <<< v), msixSent := d.msixSent ++ [msixMsg s1 v] } }
      else { s1 with dev := d }

/-- One byte of an MSI-X table entry; the mask bit is set until it is cleared (R408). -/
def msixByte (s : State) (i : Nat) : Nat :=
  let v := i / 16
  let x := (s.dev.msix.get (i / 4) 0).toNat
  let y := if i / 4 % 4 = 3 then x - x % 2 + (if s.dev.msixMasked.getLsbD v then 1 else 0) else x
  y / 2 ^ (8 * (i % 4)) % 256

/-- One byte of BAR 0 as the host reads it (R409, R421). -/
def barByte (s : State) (off : Nat) : Nat :=
  if off = 0x000 then s.dev.bootStage
  else if off = 0x008 then s.dev.deviceId
  else if 0x010 ≤ off ∧ off < 0x018 then Config.serial.toNat / 2 ^ (8 * (off - 0x010)) % 256
  else if 0x020 ≤ off ∧ off < 0x040 then (identityKey.getD (off - 0x020) 0).toNat
  else if off < 0x040 then 0
  else if !serving s then 255
  else if off < 0x048 then s.dev.mboxBase.toNat / 2 ^ (8 * (off - 0x040)) % 256
  else if 0x2000 ≤ off ∧ off < 0x2400 then msixByte s (off - 0x2000)
  else if 0x3000 ≤ off ∧ off < 0x3008 then s.dev.msixPending.toNat / 2 ^ (8 * (off - 0x3000)) % 256
  else 0

/-- A number that the host reads from BAR 0. -/
def barRead (s : State) (off n : Nat) : Nat := ((List.range n).map fun i => barByte s (off + i) * 2 ^ (8 * i)).sum

/-! ## Configuration space -/

/-- One byte of CXL.io configuration space, which the device answers at every boot stage: the MSI-X capability of 64 vectors, with its table at BAR
0 offset 0x2000 and its pending bits at 0x3000 (R407, R408, R421). What else stands there is the implementation's. -/
def configSpace (off : Nat) : Nat :=
  let other := (Config.configByte off).toNat
  if off < Config.msixCap then other
  else match off - Config.msixCap with
    | 0 => 0x11
    | 2 => 63
    | 3 => other / 8 * 8
    | 4 => 0x00
    | 5 => 0x20
    | 6 => 0
    | 7 => 0
    | 8 => 0x00
    | 9 => 0x30
    | 10 => 0
    | 11 => 0
    | _ => other

/-- A number that the host reads from configuration space. -/
def configRead (off n : Nat) : Nat := ((List.range n).map fun i => configSpace (off + i) * 2 ^ (8 * i)).sum

/-! ## CXL.mem and IDE -/

/-- The lines of a host access can be taken now. -/
def hostFree (s : State) (pa n : Nat) : Bool := (linesOf pa n).all (lineFree s.mem)

/-- CXL_MEM_ACCESS: a host access of up to 8 bytes, performed at its home slice as a U access without a key, so that an encrypted line reads
as its ciphertext; an error while the device does not serve (R407, R421). -/
def execCxlMemAccess (write : Bool) (pa n : Nat) (value : DWord) (s : State) : Host.Outcome State Fault Refusal :=
  let ok (s : State) : Bool := serving s && decide (pa + n ≤ 2 ^ 38)
  runEvent s (.cxlMemAccess write pa n value) (!ok s || hostFree s pa n) fun s =>
    let answer (s : State) (x : Option DWord) : State := { s with dev := { s.dev with cxlReads := s.dev.cxlReads ++ [x] } }
    if !ok s then answer s none
    else if write then agentWrite s none pa (leBytes value.toNat n)
    else
      let r := agentRead s none pa n
      answer r.1 (some (BitVec.ofNat 64 r.2))

/-- IDE_KEY_MANAGEMENT: the link IDE key of CXL.io (0), CXL.cache (1) or CXL.mem (2); in bring-up the device does not answer it (R407,
R421). -/
def execIdeKeyManagement (proto : Nat) (key : BitVec 256) (s : State) : Host.Outcome State Fault Refusal :=
  runEvent s (.ideKeyManagement proto key) (decide (proto < 3)) fun s =>
    if serving s then { s with dev := { s.dev with ide := s.dev.ide.put proto key } } else s

/-! ## The boot path -/

/-- A 32-bit field of the firmware image (R419). -/
def flashWord (s : State) (off : Nat) : Nat := leNat ((List.range 4).map fun i => Memory.read s.dev.flash (off + i))

/-- A payload region of the image breaks its limits (R419). -/
def badRegion (l off len : Nat) : Bool := off % 64 != 0 || len % 64 != 0 || decide (l < off + len)

/-- The ROM's checks of the image (R418, R419). -/
def imageGood (s : State) : Bool :=
  let l := flashWord s 0x08
  let byte (i : Nat) : Byte := Memory.read s.dev.flash i
  let key := (List.range 32).map fun i => byte (0x20 + i)
  flashWord s 0x00 == 0x43584657 && flashWord s 0x04 == 1 && l % 64 == 0 && decide (l ≤ 2 ^ 23) && flashWord s 0x0C == 0 &&
    !badRegion l (flashWord s 0x10) (flashWord s 0x14) && !badRegion l (flashWord s 0x18) (flashWord s 0x1C) &&
    decide (sha256 key = Config.romKeyHash) &&
    slhVerify key ((List.range (0x40 + l)).map byte) ((List.range 7856).map fun i => byte (0x40 + l + i))

/-- The stored bytes of every line recorded under a key, in the form that the key gives them (17_translation R401). -/
def sealAll (m : MemSys) : MemSys := ((m.cipher.map Prod.fst)).foldl (fun m l => rekey m l none) m

/-- A conventional reset: what is left is what boot flash, the device memory, the memories of others, the fuses and the repairs hold (R418,
20_errors R439, R442, R443, log 49). -/
def coldState (s : State) : State :=
  let m := sealAll s.mem
  { State.reset with
    tick := s.tick
    mem := { State.reset.mem with mem := m.mem, far := m.far, poison := m.poison, retired := m.retired }
    dev := { State.reset.dev with
      flash := s.dev.flash, remap := s.dev.remap, fencedCores := s.dev.fencedCores, fencedWays := s.dev.fencedWays } }

/-- The remap tables read by majority as the device begins to run; a stack without a majority is contained (20_errors R442). -/
def loadRemap (s : State) (stack : Nat) : State := voteRemap s stack

/-- The machine-level firmware of both base dies, loaded from the payload of the image (R418, R419). -/
def loadFirmware (s : State) : State :=
  let part (off len : Nat) : List Byte := (List.range (flashWord s len)).map fun i => Memory.read s.dev.flash (0x40 + flashWord s off + i)
  { s with dev := { s.dev with firmware := [(0, part 0x10 0x14), (1, part 0x18 0x1C)] } }

/-- The boot stage after the present one (R409, R418). -/
def nextStage (s : State) : Nat :=
  match s.dev.bootStage with
  | 0 => 1
  | 1 => if imageGood s then 2 else 15
  | _ => 3

/-- RESET: the boot path goes on by one stage: the ROM verifies the image, and the firmware starts, or the device stays in bring-up; a device
that runs or has failed is reset by its host and begins again (R418, R421, 20_errors R443). -/
def execReset (s : State) : Host.Outcome State Fault Refusal :=
  runEvent s .reset true fun s =>
    if s.dev.bootStage < 3 then
      let s1 := { s with dev := { s.dev with bootStage := nextStage s } }
      if s1.dev.bootStage = 3 then loadRemap (loadRemap (loadFirmware s1) 0) 1 else s1
    else coldState s

/-! ## The frame strobe -/

/-- The units of 16 ns in which the time since a strobe edge is kept: the least common multiple of the clock steps 1 to 32. -/
def strobeUnits : Nat := 144403552893600

/-- The time of a cycle of stack 0's clock, 16 / k ns (16_scheduling R380). -/
def cycleTime (s : State) : Nat := strobeUnits / s.dev.clockK.get 0 32

/-- 100 µs in the units of `edgeAge` (16_scheduling R382). -/
def strobeGap : Nat := 6250 * strobeUnits

/-- FRSTRB_EDGE: a counted edge clears framecycles of both stacks; one less than 100 µs after the last is ignored (16_scheduling R381,
R382). -/
def execFrstrbEdge (s : State) : Host.Outcome State Fault Refusal :=
  runEvent s .frstrbEdge true fun s =>
    match s.dev.edgeAge with
    | some t => if t < strobeGap then s else { s with dev := { s.dev with frame0 := 0, frame1 := 0, edgeAge := some 0 } }
    | none => { s with dev := { s.dev with frame0 := 0, frame1 := 0, edgeAge := some 0 } }

end Sys2Proof.Machine
end

