-- ==== Sys2Proof/Machine/Mcas.lean ====
section
/-! DEFINITION. The multi-word commit (10_memory_instructions R216 to R220, 12_ordered_sections R275 to R278). -/

namespace Sys2Proof.Machine

/-! ## The parameter block -/

/-- The bytes of a parameter block with `n` entries (R217). -/
def pbBytes (n : Nat) : Nat := 8 + 24 * n

/-- A header that R218 rejects. -/
def badHeader (h : Nat) : Bool := h % 16 == 0 || decide (8 < h % 16) || bits h 7 5 != 0 || bits h 63 9 != 0

/-- The bytes of a word of a commit (R217). -/
def wordBytes (h : Nat) : Nat := if bitAt h 4 then 8 else 4

/-- A number of the parameter block as the wave reads it: its core's S bytes, else the coherent bytes (R220). -/
def pbRead (s : State) (r : Wave) (va n : Nat) : Option Nat :=
  match translate s (coreOf s r) (ctxOf s r) r.level Access.load va with
  | .ok t => some (leNat (coreBytes s (coreOf s r) t n))
  | .error _ => none

/-- A field of entry `i` of a parameter block: 0 the address, 1 the expected value, 2 the new value (R217). -/
def pbField (s : State) (r : Wave) (pb i j : Nat) : Nat := (pbRead s r (pb + 8 + 24 * i + 8 * j) 8).getD 0

/-- The fields of a parameter block, for reading, and, with write-back, its pages for writing (R218). R216 places a parameter block in device
memory and R218 names no trap for another place: one on a host or a peer page is taken as it is (DESIGN CHOICE, log 100). -/
def pbTries (s : State) (r : Wave) (lane pb h : Nat) : List Try :=
  ((List.range (pbBytes (h % 16) / 8)).map fun i => devTry s r lane (pb + 8 * i) 8 Access.load (.load false) fun _ => none) ++
    (if bitAt h 8 then [] else (pageHeads pb (pbBytes (h % 16))).map fun va => pageTry s r lane va Access.store)

/-- An entry must not lie on an S page, nor in host or peer memory (R218). -/
def entryPlace (t : Target) : Option (Nat × Nat) :=
  match t.space with
  | .dev .d => none
  | .dev .u => none
  | _ => some (0x13, 0)

/-- The words of the entries whose addresses can be read (R218). -/
def entryTries (s : State) (r : Wave) (lane pb h : Nat) : List Try :=
  ((List.range (h % 16)).filter fun i => (pbRead s r (pb + 8 + 24 * i) 8).isSome).map fun i => devTry s r lane (pbField s r pb i 0) (wordBytes h) Access.atom (.load false) entryPlace

/-- Two entries share a physical byte (R218). -/
def entriesMeet (xs : List Sub) : Bool :=
  (List.range xs.length).zip xs |>.any fun p => (xs.take p.1).any fun y => decide (p.2.pa < y.pa + y.n) && decide (y.pa < p.2.pa + p.2.n)

/-- One fibre's MCAS before it is issued: its failures, the steps of the page service that it waits for, and its commit (R218). -/
structure McasTry where
  fails : List LaneFail
  waits : List Ev
  commit : Option Commit

/-- A failure of one fibre before anything else can be checked. -/
def McasTry.bad (lane cause addr info : Nat) : McasTry :=
  { fails := [{ lane := lane, cause := cause, addr := addr, info := info }], waits := [], commit := none }

/-- Lines in ascending order, each once. -/
def sortLines (ls : List Nat) : List Nat :=
  ls.foldl (fun ls l => if ls.contains l then ls else (ls.filter (decide <| · < l)) ++ l :: ls.filter (decide <| l < ·)) []

/-- The commit of a fibre whose checks have passed; the wave and the operation are those of its issue. -/
def newCommit (s : State) (r : Wave) (k op lane pb h : Nat) (pages words : List Sub) : Commit :=
  { wave := k, op := op, lane := lane, pb := pb
    image := (List.range (pbBytes (h % 16) / 8)).flatMap fun i => leBytes ((pbRead s r (pb + 8 * i) 8).getD 0) 8
    obs := none, pages := pagesOf (pages ++ words), w64 := bitAt h 4, nowb := bitAt h 8
    entries := (List.range words.length).zip words |>.map fun p =>
      (p.2.pa, BitVec.ofNat 64 (pbField s r pb p.1 1 % 2 ^ (8 * wordBytes h)), BitVec.ofNat 64 (pbField s r pb p.1 2 % 2 ^ (8 * wordBytes h)), p.2.key)
    lines := sortLines (words.map fun x => lineOf x.pa)
    locked := [] }

/-- The checks of one fibre's MCAS; of the conditions that it meets the lowest code is raised (R43, R197, R218). The address of a 0x41 for two
entries that overlap is that of the parameter block, which the manual leaves open (DESIGN CHOICE, log 101). -/
def mcasTry (s : State) (r : Wave) (k op lane pb : Nat) : McasTry :=
  if pb % 8 != 0 then .bad lane 0x08 pb 0
  else
    match devTry s r lane pb 8 Access.load (.load false) fun _ => none with
    | .fail f => { fails := [f], waits := [], commit := none }
    | .wait e => { fails := [], waits := [e], commit := none }
    | .fine _ =>
      let h := (pbRead s r pb 8).getD 0
      if badHeader h then .bad lane 0x41 pb 0
      else
        let ps := pbTries s r lane pb h
        let es := entryTries s r lane pb h
        let words := es.filterMap Try.access
        { fails := (ps ++ es).filterMap Try.failure ++
            (if entriesMeet words then [{ lane := lane, cause := 0x41, addr := pb, info := 0 }] else [])
          waits := (ps ++ es).filterMap Try.waiting
          commit := some (newCommit s r k op lane pb h (ps.filterMap Try.access) words) }

/-! ## Issue -/

/-- The commits of an operation enter the sequencer, each with its first lock request in flight (R275). -/
def enterCommits (s : State) (cs : List Commit) : State :=
  cs.foldl (fun s c =>
    { s with mem := { s.mem with commits := s.mem.commits.put s.mem.nextCommit c, nextCommit := s.mem.nextCommit + 1 } }.post
      (.mcasLockRequest s.mem.nextCommit)) s

/-- The access of an MCAS in a fibre: its result register. -/
def mcasSub (i : LaneIn) (d : Nat) : Sub :=
  { mkSub i.lane { space := .remote, pa := 0, key := none, dup := none, page := 0 } 0 4 (.load false) with
    dst := i.fibre.base + d, dstN := 1 }

/-- The bytes of a fibre's parameter block, as its header now gives them (R217). -/
def mcasReads (s : State) (r : Wave) (pb : Nat) : List (Nat × Nat) :=
  if pb % 8 = 0 then [(pb, pbBytes ((pbRead s r pb 8).getD 0 % 16))] else []

/-- MCAS (R216 to R220). -/
def execMcas (d a : VReg) (sb : BitVec 4) (s : State) : Host.Outcome State Fault Refusal :=
  readWord s (memCheck [a.toNat] (0, 0) (d.toNat, 1)) [a.toNat] fun k r w ins =>
    let reads := ins.flatMap fun i => mcasReads s r (vaOf r sb (i.arg 0))
    if classFull r .ld || !readsOpen s r reads then .hold
    else
      let ts := ins.map fun i => mcasTry s r k w.nextOp i.lane (vaOf r sb (i.arg 0))
      match mergeFails (ts.flatMap McasTry.fails), (ts.flatMap McasTry.waits).eraseDups with
      | some t, _ => .trap t
      | none, [] =>
        let subs := ins.map fun i => mcasSub i d.toNat
        let w1 := addOp w s.tick (some .ld) .mcas none none subs (subDests subs)
        .ok (noteReads (enterCommits (s.setWave k w1) (ts.filterMap McasTry.commit)) k r reads)
      | none, es => .stall es

/-! ## The commit sequencer -/

/-- The next line that a commit locks (R275). -/
def Commit.next (c : Commit) : Option Nat := c.lines.find? fun l => !c.locked.contains l

/-- The operation of a commit in its wave. -/
def commitOp (s : State) (c : Commit) : Option (Wave × MemOp) := (s.wave c.wave).bind fun w => (opOf w c.op).map fun o => (w, o)

/-- A commit may ask for its locks: it is a release, so the wave's earlier accesses have been performed (R219). -/
def commitOrdered (s : State) (c : Commit) : Bool :=
  match commitOp s c with
  | some (w, o) => inOrder w o && (!c.locked.isEmpty || (beforeRelease s (coreOf s w) o).isSome)
  | none => true

/-- A commit may go on to its next lock: one that holds none takes none while one of its lines is on the move, which can change their order
(R275, R277, 09_consistency R195). -/
def inPlace (m : MemSys) (c : Commit) : Bool := !c.locked.isEmpty || c.lines.all fun l => !isMigrating m (64 * l)

/-- The lock request of a commit reaches the head at its home slice (R275, R276). -/
def lockReady (s : State) (id : Nat) : Bool :=
  match s.mem.commits.look id with
  | some c => commitOrdered s c && inPlace s.mem c && ((c.next.map fun l => lineFree s.mem l).getD false)
  | none => false

/-- A line locked: its copies are recalled (R275). -/
def takeLock (s : State) (id : Nat) (c : Commit) (line : Nat) : State :=
  let s1 := match c.locked, commitOp s c with
    | [], some (w, o) => (beforeRelease s (coreOf s w) o).getD s
    | _, _ => s
  let m := recallLine s1.mem line
  { s1 with mem := { m with
      locked := (line, id) :: m.locked
      commits := m.commits.put id { c with locked := line :: c.locked } } }.post (.mcasLockAck id)

/-- MCAS_LOCK_REQUEST (R275, R276). -/
def execMcasLockRequest (id : Nat) (s : State) : Host.Outcome State Fault Refusal :=
  runEvent s (.mcasLockRequest id) (s.pending.contains (.mcasLockRequest id) && lockReady s id) fun s =>
    match s.mem.commits.look id with
    | some c => (c.next.map fun l => takeLock s id c l).getD s
    | none => s

/-- The bytes of a commit's words. -/
def Commit.n (c : Commit) : Nat := if c.w64 then 8 else 4

/-- The values that a commit observes (R218). -/
def Commit.observed (s : State) (c : Commit) : List Nat := c.entries.map fun e => leNat (seenBytes s.mem e.2.2.2 e.1 c.n)

/-- The mismatch mask (R218). -/
def Commit.mismatch (c : Commit) (obs : List Nat) : Nat :=
  ((List.range obs.length).map fun i => if obs.getD i 0 = ((c.entries.getD i (0, 0, 0, none)).2.1).toNat then 0 else 2 ^ i).sum

/-- The bytes of a commit's parameter block as its wave reads them now (R220). -/
def blockNow (s : State) (c : Commit) : List Byte :=
  match s.wave c.wave with
  | none => c.image
  | some w => (List.range (c.image.length / 8)).flatMap fun i =>
      match pagePlace c.pages (c.pb + 8 * i) with
      | some (space, pa, key) => coreBytes s (coreOf s w) { space := space, pa := pa, key := key, dup := none, page := 0 } 8
      | none => List.replicate 8 0

/-- A 64-bit value that nothing fixes. -/
def freeDword (s : State) (i : Nat) : DWord :=
  (Config.freeWord s.tick (2 * i + 1)).zeroExtend 64 <<< 32 ||| (Config.freeWord s.tick (2 * i)).zeroExtend 64

/-- The commit with the words that it uses: those of its issue, or unpredictable ones once its parameter block has been written (R220).
A write that leaves the block's bytes as they were is not seen (log 69). -/
def Commit.used (s : State) (c : Commit) : Commit :=
  if blockNow s c = c.image then c
  else
    { c with entries := ((List.range c.entries.length).zip c.entries).map fun p =>
        (p.2.1, freeDword s (4 * c.lane + 512 * p.1) &&& BitVec.ofNat 64 (2 ^ (8 * c.n) - 1),
          freeDword s (4 * c.lane + 512 * p.1 + 1) &&& BitVec.ofNat 64 (2 ^ (8 * c.n) - 1), p.2.2.2.2) }

/-- The expected field of an entry written back by the wave: to its core's S line, or at its place (R218, R220). -/
def writeBack (s : State) (c : Commit) (i v : Nat) : State :=
  let va := c.pb + 16 + 24 * i
  let bs := leBytes v 8
  match pagePlace c.pages va, (s.wave c.wave) with
  | some (.dev .s, pa, key), some w =>
    storeS s w.blk (coreOf s w) (mkSub c.lane { space := .dev .s, pa := pa, key := key, dup := none, page := 0 } va 8 .clean) bs
  | _, _ => pageWrite s c.pages va bs

/-- The words of a commit written, all of them or none (R218). -/
def commitWords (s : State) (c : Commit) (obs : List Nat) : State :=
  if c.mismatch obs = 0 then
    c.entries.foldl (fun s e => agentWrite s e.2.2.2 e.1 (leBytes e.2.2.1.toNat c.n)) s
  else s

/-- A commit writes its expected fields back (R218). -/
def Commit.writesBack (c : Commit) (obs : List Nat) : Bool := c.mismatch obs != 0 && !c.nowb

/-- The expected fields of a commit written back; unpredictable ones once its parameter block has been written (R218, R220). -/
def backWords (s : State) (c : Commit) (obs : List Nat) : State :=
  let vs := if blockNow s c = c.image then obs else (List.range obs.length).map fun i => (freeDword s (4 * c.lane + 512 * i + 2)).toNat
  if c.writesBack obs then (List.range obs.length).foldl (fun s i => writeBack s c i (vs.getD i 0)) s else s

/-- The lines of a write-back can take it now. -/
def backReady (s : State) (c : Commit) (obs : List Nat) : Bool :=
  !c.writesBack obs || (List.range obs.length).all fun i =>
    match pagePlace c.pages (c.pb + 16 + 24 * i) with
    | some (.dev _, pa, _) => lineFree s.mem (lineOf pa)
    | some (.far d, _, _) => peerUp s d
    | _ => true

/-- Every line of a commit unlocked (R275). -/
def unlock (s : State) (id : Nat) : State := { s with mem := { s.mem with locked := s.mem.locked.filter fun p => p.2 != id } }

/-- The result of a commit to its fibre, and an acquire (R218, R219). -/
def finishCommit (s : State) (id : Nat) (c : Commit) (obs : List Nat) : State :=
  let s1 := backWords s c obs
  let s2 := { s1 with mem := { s1.mem with commits := s1.mem.commits.del id } }
  match commitOp s2 c with
  | some (w, o) =>
    endSub s2 c.wave c.op (o.subs.findIdx fun x => x.lane == c.lane) (coreOf s w)
      (if c.mismatch obs = 0 then 0 else 0x100 + c.mismatch obs) true
  | none => s2

/-- The event of a commit whose lines are all locked: its words are compared and written, and every line is unlocked. A write-back whose
lines another commit holds follows later, so that no commit keeps a lock for it (R218 to R220, 12_ordered_sections R275, R278; DEDUCED,
log 70). -/
def commitEvent (s : State) (id : Nat) (c0 : Commit) : State :=
  let c := c0.used s
  let obs := c.observed s
  let s1 := unlock (commitWords s c obs) id
  if backReady s1 c obs then finishCommit s1 id c obs
  else { s1 with mem := { s1.mem with commits := s1.mem.commits.put id { c with obs := some obs } } }.post (.mcasLockAck id)

/-- What follows the acknowledgement of a commit's last request: the next request, its event, or its end after a write-back that had to
wait. -/
def commitStep (s : State) (id : Nat) (c : Commit) : State :=
  match c.obs with
  | some obs => finishCommit s id c obs
  | none => if c.next.isSome then s.post (.mcasLockRequest id) else commitEvent s id c

/-- MCAS_LOCK_ACK: the next request, or the end of the commit (R218, R275). -/
def execMcasLockAck (id : Nat) (s : State) : Host.Outcome State Fault Refusal :=
  runEvent s (.mcasLockAck id)
    (s.pending.contains (.mcasLockAck id) && (match s.mem.commits.look id with
      | some c => (c.obs.map (backReady s c)).getD true
      | none => true)) fun s =>
      match s.mem.commits.look id with
      | some c => commitStep s id c
      | none => s

end Sys2Proof.Machine
end

