-- ==== Sys2Proof/Machine/Pages.lean ====
section
/-! DEFINITION. The walkers and the page service: walks, migrations, and the collapse of read-duplicate groups (17_translation R399, R402,
R403, 09_consistency R195, 20_errors R438, R439). -/

namespace Sys2Proof.Machine

/-! ## Walks -/

/-- The walks under way on a base die: the first 1,024 of those that its cores wait for (01_machine R6, 17_translation R399). -/
def walking (s : State) (stack : Nat) : List Ev :=
  (s.pending.filter fun e =>
    match e with
    | .pageWalk core _ _ => stackOf core == stack
    | _ => false).take 1024

/-- PAGE_WALK by a walker of the base die of the core's stack: the leaf that it finds enters the TLB; poison in a table stops the context
(17_translation R398, R399, 20_errors R438), and the walk has no end. -/
def execPageWalk (core ctx va : Nat) (s : State) : Host.Outcome State Fault Refusal :=
  runEvent s (.pageWalk core ctx va) ((walking s (stackOf core)).contains (.pageWalk core ctx va) && walkFree s ctx va &&
      !(ctxStopped s ctx && (walkPoison s ctx va).isSome)) fun s =>
    match walkPoison s ctx va with
    | some l => (stopForPoison s ctx (stackOf core) l).post (.pageWalk core ctx va)
    | none => tlbFill s core ctx va

/-! ## Migration -/

/-- The entries of a leaf: sixteen for a 64 KiB page, else one, with the address of the first, the first byte of the page, and its bytes
(17_translation R394, R396). -/
structure LeafAt where
  entryPa : Nat
  entries : Nat
  va : Nat
  pa : Nat
  bytes : Nat
  leaf : Nat
deriving DecidableEq, Repr

/-- The leaf of an address in a context, when it is valid and well formed. -/
def leafAt (s : State) (ctx va : Nat) : Option LeafAt :=
  match walk s ctx va with
  | .leaf e a level true =>
    let n := if level = 3 ∧ bitAt e 10 then 16 else 1
    let size := if n = 16 then 2 ^ 16 else pageSize level
    some { entryPa := a / (8 * n) * (8 * n), entries := n, va := va / size * size, pa := leafFrame e + va % pageSize level - va % size
           bytes := size, leaf := e }
  | _ => none

/-- Entries of a page table written, each from its number. -/
def writeEntries (m : MemSys) (a n : Nat) (f : Nat → Nat) : MemSys :=
  (List.range n).foldl (fun m i => devWrite m none (a + 8 * i) (leBytes (f i) 8)) m

/-- The lines of a run of pages. -/
def inPages (page pages line : Nat) : Bool := decide (64 * page ≤ line) && decide (line < 64 * (page + pages))

/-- A leaf maps local memory of this device. -/
def leafLocal (s : State) (e : Nat) : Bool := !bitAt e 12 && (bits e 20 13 == s.dev.deviceId || bitAt e 8)

/-- A commit that holds a lock names a line of a run of pages. -/
def commitHolds (m : MemSys) (page pages : Nat) : Bool :=
  m.commits.any fun c => !c.2.locked.isEmpty && c.2.lines.any (inPages page pages)

/-- A page can begin to move: a local leaf that is not on the move, none of whose lines is in a request, or is named by a commit that holds
locks: so no commit's lines change their order while it holds one (12_ordered_sections R275 to R277). -/
def moveLeaf (s : State) (ctx va : Nat) : Option LeafAt :=
  (leafAt s ctx va).filter fun q =>
    leafLocal s q.leaf && !bitAt q.leaf 9 && decide (q.pa + q.bytes ≤ 2 ^ 38) &&
      !(s.mem.busy.any fun b => inPages (q.pa / 4096) (q.bytes / 4096) b.line) &&
      !commitHolds s.mem (q.pa / 4096) (q.bytes / 4096)

/-- The D copies of the lines of a page recalled (09_consistency R195). -/
def recallPages (m : MemSys) (page pages : Nat) : MemSys :=
  (((m.l1.filter fun l => l.mode == .d && inPages page pages l.line).map L1Line.line).eraseDups).foldl recallLine m

/-- PAGE_MIGRATION: migrating is set, the TLB entries go, the lines are recalled, and from here the page's accesses queue at its old home
(17_translation R402, 09_consistency R195). `retire` says that the old frame is retired (20_errors R439). -/
def execPageMigration (ctx va : Nat) (retire : Bool) (s : State) : Host.Outcome State Fault Refusal :=
  runEvent s (.pageMigration ctx va retire) (serving s && (moveLeaf s ctx va).isSome) fun s =>
    match moveLeaf s ctx va with
    | none => s
    | some q =>
      let g : Migrating :=
        { ctx := ctx, va := q.va, entryPa := q.entryPa, entries := q.entries, oldPage := q.pa / 4096, pages := q.bytes / 4096, retire := retire }
      let m1 := writeEntries s.mem q.entryPa q.entries fun i => devRead s.mem (q.entryPa + 8 * i) 8 + 2 ^ 9
      let m2 := recallPages m1 g.oldPage g.pages
      dropTlb { s with mem := { m2 with migrating := m2.migrating ++ [g] } } { ctx := some ctx, pages := some (q.va / 4096, g.pages) }

/-- The new place of a physical address when the page of a move goes to a frame. -/
def movedPa (g : Migrating) (frame pa : Nat) : Nat :=
  if 4096 * g.oldPage ≤ pa ∧ pa < 4096 * (g.oldPage + g.pages) then frame + (pa - 4096 * g.oldPage) else pa

/-- The new place of an access. -/
def Sub.moved (g : Migrating) (frame : Nat) (x : Sub) : Sub :=
  match x.space with
  | .dev _ => if x.done then x else { x with pa := movedPa g frame x.pa }
  | _ => x

/-- The new places of translated pages. -/
def movedPages (g : Migrating) (frame : Nat) (m : Map PageAt) : Map PageAt :=
  m.map fun p => (p.1, match p.2.space with
    | .dev _ => { p.2 with pa := movedPa g frame p.2.pa }
    | _ => p.2)

/-- The new places of a tile operation's bytes. -/
def TileOp.moved (g : Migrating) (frame : Nat) (t : TileOp) : TileOp :=
  let run (q : Space × Nat × Nat) : Space × Nat × Nat :=
    match q.1 with
    | .dev _ => (q.1, movedPa g frame q.2.1, q.2.2)
    | _ => q
  { t with
    reads := t.reads.map run
    writes := t.writes.map run
    kind := match t.kind with
      | .zdrain d c o v st x sel pages => .zdrain d c o v st x sel (movedPages g frame pages)
      | k => k }

/-- The new place of a barrier object. -/
def BarObj.moved (g : Migrating) (frame : Nat) : BarObj → BarObj
  | .line 0 pa key va => .line 0 (movedPa g frame pa) key va
  | o => o

/-- The new place of the object of an operation. -/
def movedKind (g : Migrating) (frame : Nat) : OpKind → OpKind
  | .bar o u => .bar (BarObj.moved g frame o) u
  | k => k

/-- The new place of the object that a parked state waits at. -/
def Parked.moved (g : Migrating) (frame : Nat) (q : Parked) : Parked :=
  match q.kind with
  | .bwait o p => { q with kind := .bwait (BarObj.moved g frame o) p }
  | .btest o => { q with kind := .btest (BarObj.moved g frame o) }
  | _ => q

/-- The new places that a fibre waits at. -/
def Fibre.moved (g : Migrating) (frame : Nat) (f : Fibre) : Fibre :=
  { f with
    park := f.park.map (Parked.moved g frame)
    shadow := f.shadow.map fun sh => { sh with park := sh.park.map (Parked.moved g frame) } }

/-- The new place of the object that a saved block waits for. -/
def Wake.moved (g : Migrating) (frame : Nat) : Wake → Wake
  | .flip o p => .flip (BarObj.moved g frame o) p
  | w => w

/-- The new place of an object in a step of the device under way. -/
def Ev.moved (g : Migrating) (frame : Nat) : Ev → Ev
  | .barrierUpdate w o u => .barrierUpdate w (BarObj.moved g frame o) u
  | .remoteBarrierRequest k l n a o p t => .remoteBarrierRequest k l n a (BarObj.moved g frame o) p t
  | .bwaitRelease k o => .bwaitRelease k (BarObj.moved g frame o)
  | e => e

/-- The queued work of the page at its new home (09_consistency R195). -/
def Work.moved (g : Migrating) (frame : Nat) (w : Work) : Work :=
  { w with
    waves := w.waves.map fun p => (p.1, { p.2 with
      ops := p.2.ops.map fun o => { o with subs := o.subs.map (Sub.moved g frame), kind := movedKind g frame o.kind }
      fibres := p.2.fibres.map fun f => (f.1, Fibre.moved g frame f.2) })
    blocks := w.blocks.map fun p => (p.1, { p.2 with tiles := p.2.tiles.map (TileOp.moved g frame), wakes := p.2.wakes.map (Wake.moved g frame) })
    copies := w.copies.map fun p => (p.1, { p.2 with pages := movedPages g frame p.2.pages }) }

/-- The lines of the page at its new home: each line's bytes as the leaf's key shows them, its poison mark, and the S copies that cores hold
(09_consistency R195, 17_translation R401, 20_errors R438). -/
def movePage (m : MemSys) (g : Migrating) (frame : Nat) (key : Option Nat) : MemSys :=
  let old := 64 * g.oldPage
  let new := frame / 64
  let m1 := (List.range (64 * g.pages)).foldl (fun m i => devWrite m key (frame + 64 * i) (seenLine m (old + i) key)) m
  let marks := (m.poison.filter fun l => inPages g.oldPage g.pages l).map fun l => l - old + new
  let kept := m1.l1.filter fun l => !(l.mode == .s && inPages (frame / 4096) g.pages l.line)
  { m1 with
    poison := marks ++ m1.poison
    l1 := kept.map fun l => if l.mode == .s && inPages g.oldPage g.pages l.line then { l with line := l.line - old + new } else l
    commits := m1.commits.map fun p => (p.1, { p.2 with
      pages := movedPages g frame p.2.pages
      entries := p.2.entries.map fun e => (movedPa g frame e.1, e.2)
      lines := sortLines (p.2.lines.map fun l => movedPa g frame (64 * l) / 64) }) }

/-- A move that can end at a frame: the page is on the move, and the frame is local, aligned, not the old one, not retired and not in use by a
request (17_translation R402, 20_errors R439). -/
def endsAt (s : State) (ctx va frame : Nat) : Option Migrating :=
  (s.mem.migrating.find? fun g => g.ctx == ctx && g.va == va).filter fun g =>
    frame % (4096 * g.pages) == 0 && decide (frame + 4096 * g.pages ≤ 2 ^ 38) &&
      (decide (frame + 4096 * g.pages ≤ 4096 * g.oldPage) || decide (4096 * (g.oldPage + g.pages) ≤ frame)) &&
      !(s.mem.retired.any fun f => decide (frame / 4096 ≤ f) && decide (f < frame / 4096 + g.pages)) &&
      !(s.mem.busy.any fun b => inPages (frame / 4096) g.pages b.line) && !(s.mem.locked.any fun p => inPages (frame / 4096) g.pages p.1)

/-- The frames that a page of a lasting fault has left are retired: no page comes to stand there again (20_errors R439). -/
def retireFrames (m : MemSys) (g : Migrating) : MemSys :=
  if g.retire then { m with retired := m.retired ++ (List.range g.pages).map (g.oldPage + ·) } else m

/-- The events of a move that has ended (17_translation R391, R402, 20_errors R445). -/
def tellMoved (s : State) (g : Migrating) (frame : Nat) : State :=
  let home := homeStack frame
  let s1 :=
    if ((s.ctxs.look g.ctx).map fun c => c.cfg.notifyMigration).getD false then
      postEvent s g.ctx home 6
        [(8, g.va % 2 ^ 32), (12, g.va / 2 ^ 32), (0x10, if homeStack (4096 * g.oldPage) = home then 0 else 1)]
    else s
  if g.retire then postEvent s1 g.ctx home 15 [(8, g.va % 2 ^ 32), (12, g.va / 2 ^ 32)] else s1

/-- PAGE_MIGRATION_COMPLETE: the leaf gets its new frame, migrating is cleared, and the queued accesses go on at the new home
(17_translation R402, 09_consistency R195). -/
def execPageMigrationComplete (ctx va frame : Nat) (s : State) : Host.Outcome State Fault Refusal :=
  runEvent s (.pageMigrationComplete ctx va frame) (endsAt s ctx va frame).isSome fun s =>
    match endsAt s ctx va frame with
    | none => s
    | some g =>
      let e := devRead s.mem g.entryPa 8
      let key := if bitAt e 7 then some (4 * ctx + bits e 54 53) else none
      let m1 := movePage { s.mem with migrating := s.mem.migrating.erase g } g frame key
      let m2 := writeEntries m1 g.entryPa g.entries fun i =>
        let x := devRead m1 (g.entryPa + 8 * i) 8
        x - 2 ^ 9 - 2 ^ 21 * bits x 52 21 + 2 ^ 21 * (frame / 4096 + i)
      tellMoved { s with mem := retireFrames m2 g, work := Work.moved g frame s.work, pending := s.pending.map (Ev.moved g frame) } g frame

/-! ## Read-duplicate groups -/

/-- A leaf one level down: the same fields without page size, at a frame; with contiguity at level 3 (17_translation R403). -/
def splitEntry (e level i : Nat) : Nat :=
  let base := e - (if bitAt e 11 then 2 ^ 11 else 0) - 2 ^ 21 * bits e 52 21
  if level = 2 then base + 2 ^ 10 + 2 ^ 21 * (leafFrame e / 4096 + i)
  else base + 2 ^ 11 + 2 ^ 21 * (leafFrame e / 4096 + 512 * i)

/-- The leaf of an address split down to 64 KiB groups, each table frame from the context's pool; nothing when the pool is empty
(17_translation R403). -/
def splitLeaf (s : State) (ctx va : Nat) : Nat → Option State
  | 0 => some s
  | n + 1 =>
    match walk s ctx va, s.ctxs.look ctx with
    | .leaf e a level true, some c =>
      if level = 3 then some s
      else if c.cfg.poolFrames ≤ c.poolUsed then none
      else
        let t := c.cfg.poolBase + 4096 * c.poolUsed
        let m1 := writeEntries s.mem t 512 (splitEntry e level)
        let m2 := devWrite m1 none a (leBytes (1 + 2 ^ 21 * (t / 4096) + 2 ^ 55 * bits e 63 55) 8)
        splitLeaf ({ s with mem := m2 }.setCtx ctx { c with poolUsed := c.poolUsed + 1 }) ctx va n
    | _, _ => none

/-- The leaf of an address is a writable read-duplicate mapping (17_translation R403). -/
def dupLeaf (s : State) (ctx va : Nat) : Option LeafAt := (leafAt s ctx va).filter fun q => bitAt q.leaf 8

/-- The group of an address rewritten as a mapping to a writer's frames, with read-duplicate 0 (17_translation R403). -/
def rewriteGroup (s : State) (ctx va writer frame : Nat) : State :=
  match dupLeaf s ctx va with
  | none => s
  | some q =>
    { s with mem := writeEntries s.mem q.entryPa q.entries fun i =>
        let x := devRead s.mem (q.entryPa + 8 * i) 8
        x - 2 ^ 8 - 2 ^ 13 * bits x 20 13 - 2 ^ 21 * bits x 52 21 + 2 ^ 13 * writer + 2 ^ 21 * (frame / 4096 + i) }

/-- The TLB entries of a group go (17_translation R403). -/
def dropGroup (s : State) (ctx va : Nat) : State := dropTlb s { ctx := some ctx, pages := some (va / 4096, 16) }

/-- An access of the local copy of a group has been translated and not performed (17_translation R403). -/
def groupInUse (s : State) (ctx va : Nat) : Bool :=
  let q : InvRange := { ctx := some ctx, pages := some (va / 4096, 16) }
  let atLocal (sp : Space) : Bool := match sp with
    | .dev _ => true
    | _ => false
  walkInRange s q ||
    (s.work.waves.any fun p => ctxOf s p.2 == ctx && p.2.ops.any fun o => o.subs.any fun x =>
      !x.done && atLocal x.space && q.covers ctx (x.va / 4096) 1) ||
    (heldPages s).any fun p => p.1 == ctx && p.2.any fun x => atLocal x.2.space && q.covers ctx x.1 1

/-- A collapse of a group under way. -/
def collapseOf (s : State) (ctx va : Nat) : Option Collapse := s.mem.collapses.find? fun c => c.ctx == ctx && c.va == va

/-- A collapse noted. -/
def addCollapse (s : State) (c : Collapse) : State := { s with mem := { s.mem with collapses := s.mem.collapses ++ [c] } }

/-- A collapse over. -/
def dropCollapse (s : State) (ctx va : Nat) : State :=
  { s with mem := { s.mem with collapses := s.mem.collapses.filter fun c => !(c.ctx == ctx && c.va == va) } }

/-- A message of the page service sent to another device. -/
def sendPeer (s : State) (device : Nat) (m : PeerMsg) : State := sendCmd s device (.page m)

/-- The other devices of the set of a group: those that a route leads to, apart from the writer (17_translation R403, log 48). -/
def setDevices (s : State) (writer : Nat) : List Nat := (s.dev.routes.map Prod.fst).filter fun d => d != writer && d != s.dev.deviceId

/-- The coordinator takes a request: it tells every device of the set to rewrite the group, itself among them unless it writes
(17_translation R403). -/
def coordinate (s : State) (ctx va writer frame : Nat) : State :=
  let own := s.dev.deviceId
  let others := setDevices s writer
  let s1 := addCollapse s { ctx := ctx, va := va, writer := writer, frame := frame, awaiting := (if writer = own then [] else [own]) ++ others }
  let s2 := others.foldl (fun s d => sendPeer s d (.rewrite ctx va writer frame)) s1
  if writer = own then (if others.isEmpty then s2.post (.collapseGrant ctx va) else s2) else s2.post (.groupRewrite ctx va writer frame own)

/-- COLLAPSE_REQUEST: a write of this device, whose leaf is first split and whose request goes to the coordinator, or a request that has
reached this device as coordinator; a group that has collapsed already follows its new entry, and its request is granted at once
(17_translation R403). -/
def execCollapseRequest (ctx va writer frame : Nat) (s : State) : Host.Outcome State Fault Refusal :=
  let own := s.dev.deviceId
  let e : Ev := .collapseRequest ctx va writer frame
  runEvent s e (serving s && (collapseOf s ctx va).isNone && (writer != own || (splitLeaf s ctx va 3).isSome)) fun s =>
    match dupLeaf s ctx va with
    | none => if writer = own then s else sendPeer s writer (.grant ctx va)
    | some q =>
      if writer != own then coordinate s ctx va writer frame
      else
        match splitLeaf s ctx va 3 with
        | none => s
        | some s1 =>
          let lead := bits q.leaf 20 13
          if lead = own then coordinate s1 ctx va own frame
          else
            sendPeer (addCollapse s1 { ctx := ctx, va := va, writer := own, frame := frame, awaiting := [lead] }) lead
              (.request ctx va own frame)

/-- The answer of this device to the coordinator of a group (17_translation R403). -/
def answerGroup (s : State) (ctx va lead : Nat) : State :=
  if lead = s.dev.deviceId then s.post (.collapseAnswer ctx va lead) else sendPeer s lead (.answer ctx va)

/-- GROUP_REWRITE, by order of the coordinator `lead`: this device splits its leaf, rewrites the group to the writer's frames and invalidates its TLB entries; it answers once
every access that used them has been performed (17_translation R403). -/
def execGroupRewrite (ctx va writer frame lead : Nat) (s : State) : Host.Outcome State Fault Refusal :=
  let e : Ev := .groupRewrite ctx va writer frame lead
  let fresh (s : State) : Bool := (dupLeaf s ctx va).isSome
  runEvent s e (serving s && (if fresh s then (splitLeaf s ctx va 3).isSome else !groupInUse s ctx va)) fun s =>
    if fresh s then
      match splitLeaf s ctx va 3 with
      | some s1 => (dropGroup (rewriteGroup s1 ctx va writer frame) ctx va).post e
      | none => s
    else answerGroup s ctx va lead

/-- COLLAPSE_ANSWER: a device of the set has rewritten its group; after the last, the writer gets its grant (17_translation R403). -/
def execCollapseAnswer (ctx va device : Nat) (s : State) : Host.Outcome State Fault Refusal :=
  runEvent s (.collapseAnswer ctx va device) (((collapseOf s ctx va).map fun c => c.awaiting.contains device).getD false) fun s =>
    match collapseOf s ctx va with
    | none => s
    | some c =>
      let c1 := { c with awaiting := c.awaiting.erase device }
      let s1 := addCollapse (dropCollapse s ctx va) c1
      if !c1.awaiting.isEmpty then s1
      else if c.writer = s.dev.deviceId then s1.post (.collapseGrant ctx va)
      else sendPeer (dropCollapse s ctx va) c.writer (.grant ctx va)

/-- A group of this device's own writes may be mapped to its own frames: every device has answered, or the coordinator's grant has come. -/
def grantDue (s : State) (ctx va : Nat) : Bool :=
  match collapseOf s ctx va with
  | some c => c.writer == s.dev.deviceId
  | none => false

/-- COLLAPSE_GRANT: the writer maps the group to its own frames, invalidates its TLB entries, and the stalled store issues again; event 5
says so (17_translation R403). The stack that posts it is not stated (log 48). -/
def execCollapseGrant (ctx va : Nat) (s : State) : Host.Outcome State Fault Refusal :=
  runEvent s (.collapseGrant ctx va) (grantDue s ctx va) fun s =>
    match collapseOf s ctx va with
    | none => s
    | some c =>
      let s1 := dropGroup (rewriteGroup (dropCollapse s ctx va) ctx va c.writer c.frame) ctx va
      if ((s.ctxs.look ctx).map fun c => c.cfg.notifyCollapse).getD false then
        postEvent s1 ctx (Config.choose s.tick % 2) 5 [(8, va % 2 ^ 32), (12, va / 2 ^ 32), (0x10, c.writer)]
      else s1

end Sys2Proof.Machine
end

