-- ==== Sys2Proof/Machine/Peers.lean ====
section
/-! DEFINITION. Peer commands at their target, forwarded flits, and the state of the peer links (18_host_peers R411 to R416,
11_async_copies R240). -/

namespace Sys2Proof.Machine

/-! ## Commands at their target -/

/-- The context admits commands of a context of another device (R413, R414). -/
def inboundOk (s : State) (src origin ctx : Nat) : Bool :=
  let e := peerEntry s ctx src
  bits e 63 16 == 0 && bitAt e 3 && bits e 15 10 == origin

/-- The bytes of a peer's access. -/
def peerBytes : PeerOp → Nat
  | .read n => n
  | .write n _ => n
  | .atomic _ w _ _ => awBytes w

/-- A command performed at the home slice of its line as a U access: the state and the value before it (R415, 08_memory_spaces R171,
10_memory_instructions R208). -/
def performPeer (s0 : State) (pa : Nat) (op : PeerOp) : State × Nat :=
  let n := peerBytes op
  let r := agentRead s0 none pa n
  let s := r.1
  let old := r.2
  match op with
  | .read _ => (s, old)
  | .write _ d => (agentWrite s none pa (leBytes d.toNat n), old)
  | .atomic o _ d e => (agentWrite s none pa (leBytes (atomNew o (8 * n) old d.toNat e.toNat) n), old)

/-- The record of a command that has been executed, among the last 1,024 of its source (R415). -/
def executedAt (s : State) (src id : Nat) : Option (Nat × DWord × Bool) := (s.dev.executed.get src []).find? fun p => p.1 == id

/-- A command is the next of its source, or the first that comes from it (R415, log 50). -/
def inTurn (s : State) (src id : Nat) : Bool :=
  match s.dev.nextCmd.look src with
  | some n => n == id
  | none => true

/-- An answer to a command on its way back. -/
def answerPeer (s : State) (src id : Nat) (value : DWord) (refused : Bool) : State :=
  { s with dev := { s.dev with peerAnswers := s.dev.peerAnswers ++ [(src, id, value, refused)] } }

/-- The command noted with its result; the record keeps the last 1,024 (R415). -/
def noteCmd (s : State) (src id : Nat) (value : DWord) (refused : Bool) : State :=
  let rs := s.dev.executed.get src [] ++ [(id, value, refused)]
  { s with dev := { s.dev with
      executed := s.dev.executed.put src (rs.drop (rs.length - 1024))
      nextCmd := s.dev.nextCmd.put src ((id + 1) % 2 ^ 32) } }

/-- A command that has its turn, with its effect and its answer: refused where the context does not admit it, or beyond local memory, with
all ones for a read (R414). -/
def runPeer (s : State) (src origin id ctx pa : Nat) (op : PeerOp) : State :=
  if inboundOk s src origin ctx && decide (pa + peerBytes op ≤ 2 ^ 38) then
    let r := performPeer s pa op
    answerPeer (noteCmd r.1 src id (BitVec.ofNat 64 r.2) false) src id (BitVec.ofNat 64 r.2) false
  else answerPeer (noteCmd s src id (BitVec.allOnes 64) true) src id (BitVec.allOnes 64) true

/-- PEER_COMMAND of context `origin` of device `src`: executed once, in the order of its source's numbers, or its recorded result sent again
(R414, R415). -/
def execPeerCommand (src origin id ctx pa : Nat) (op : PeerOp) (s : State) : Host.Outcome State Fault Refusal :=
  runEvent s (.peerCommand src origin id ctx pa op)
    (serving s && ((executedAt s src id).isSome || (inTurn s src id && (linesOf pa (peerBytes op)).all (lineFree s.mem)))) fun s =>
      match executedAt s src id with
      | some (_, v, refused) => answerPeer s src id v refused
      | none => runPeer s src origin id ctx pa op

/-! ## Links -/

/-- A port; one that has not trained yet is training. -/
def linkOf (s : State) (port : Nat) : Link := s.dev.links.get port { st := .retraining, replays := [], since := 0, out := [] }

/-- A port changed. -/
def setLink (s : State) (port : Nat) (l : Link) : State := { s with dev := { s.dev with links := s.dev.links.put port l } }

/-- The 256 bytes of a flit on the wire: the header, the payload and the CRC-64 (R411). -/
def flitBytes (f : Flit) : List Byte :=
  let body := (List.range 16).map (Config.flitHeader f.src f.dst f.body.cmd f.body.seq) ++ leBytes f.body.payload.toNat 224
  body ++ (List.range 16).map (Config.flitCheck body)

/-- The wire bytes of a transfer of some data bytes (R411). -/
def wireBytes (n : Nat) : Nat := 256 * ((n + 223) / 224)

/-- The port that leads to the target of a flit; 32, which is no port, when no route does. -/
def flitPort (s : State) (f : Flit) : Nat := s.dev.routes.get f.dst.toNat 32

/-- A flit that goes out at the same port has arrived before this one. -/
def flitBefore (s : State) (f : Flit) : Bool :=
  (s.pending.takeWhile fun e => e != .flitForward f.src f.dst f.body).any fun e => match e with
    | .flitForward a b c => flitPort s { src := a, dst := b, body := c } == flitPort s f
    | _ => false

/-- FLIT_FORWARD: a flit for another device goes on along its route, unchanged and after those that arrived before it (R411, R412). -/
def execFlitForward (src dst : BitVec 8) (payload : FlitBody) (s : State) : Host.Outcome State Fault Refusal :=
  let f : Flit := { src := src, dst := dst, body := payload }
  runEvent s (.flitForward src dst payload)
    (serving s && f.dst.toNat != s.dev.deviceId && (s.dev.routes.look f.dst.toNat).isSome && (linkOf s (flitPort s f)).st == .up &&
      !flitBefore s f) fun s =>
      let l := linkOf s (flitPort s f)
      setLink s (flitPort s f) { l with out := l.out ++ [f] }

/-- REPLAY: at most three in any 2^16 cycles; the fourth failure starts a retrain (R416). -/
def execReplay (port : Nat) (s : State) : Host.Outcome State Fault Refusal :=
  runEvent s (.replay port) (serving s && (linkOf s port).st == .up) fun s =>
    let l := linkOf s port
    let recent := l.replays.filter fun c => decide (s.dev.cycles < c + 2 ^ 16)
    if 3 ≤ recent.length then setLink s port { l with st := .retraining, replays := recent, since := s.dev.cycles }
    else setLink s port { l with replays := recent ++ [s.dev.cycles] }

/-- A retrain has not ended within 400,000 cycles (R416). -/
def retrainLate (s : State) (port : Nat) : Bool :=
  match s.dev.links.look port with
  | some l => l.st == .retraining && decide (l.since + 400000 < s.dev.cycles)
  | none => false

/-- LINK_RETRAIN_COMPLETE: the first training of a port, or a retrain that ends in time (R411, R416). -/
def execLinkRetrainComplete (port : Nat) (s : State) : Host.Outcome State Fault Refusal :=
  runEvent s (.linkRetrainComplete port) (serving s && decide (port < 16) && (linkOf s port).st == .retraining && !retrainLate s port) fun s =>
    setLink s port { linkOf s port with st := .up }

/-- The devices that a port leads to. -/
def portDevices (s : State) (port : Nat) : List Nat := (s.dev.routes.filter fun p => p.2 == port).map Prod.fst

/-- The peer that a CPYP goes to. -/
def copyDevice (c : Copy) : Option Nat :=
  c.pages.findSome? fun p => match p.2.space with
    | .far d => if d = 256 then none else some d
    | _ => none

/-- A CPYP in flight on a port, with its target. -/
def copyOnPort (s : State) (port : Nat) (c : Copy) : Option Nat :=
  if c.form = 3 ∧ c.started then (copyDevice c).filter fun d => s.dev.routes.look d == some port else none

/-- A CPYP on a link that is down ends with its status; one that ends with status 3 is kept (R416, 11_async_copies R240). -/
def endOnPort (port : Nat) (s : State) (p : Nat × Copy) : State :=
  match copyOnPort s port p.2 with
  | none => s
  | some d =>
    let st := peerStatus s p.2
    let s1 := if st = 3 then { s with dev := { s.dev with unresolved := s.dev.unresolved ++ [keptCopy s port d p.2] } } else s
    endPeerCopy s1 p.1 p.2 st

/-- A link declared down: the copies in flight on it end, and event 14 names the port and each device that it led to (R416, 20_errors R445,
log 45). -/
def linkLost (s : State) (port : Nat) : State :=
  let s1 := s.work.copies.foldl (endOnPort port) s
  let s2 := setLink s1 port { linkOf s1 port with st := .down }
  (portDevices s port).foldl (fun s d => postAll s (port / 8) 14 [(8, port), (12, d)]) s2

/-- LINK_DOWN (R416, 11_async_copies R240). -/
def execLinkDown (port : Nat) (s : State) : Host.Outcome State Fault Refusal :=
  runEvent s (.linkDown port) (retrainLate s port) fun s => linkLost s port

/-- The status word of a copy that ended with status 3, written again (R416). -/
def rewriteStatus (s : State) (u : Unresolved) (status : Nat) : State := arrayWrite s u.copy.blk (u.copy.word 5) (leBytes status 4)

/-- A copy with status 3 resolved from the target's record: no command executed gives 1; else the missing ones are executed, which gives 2;
a contained target, which only it knows, leaves 3 (R416). -/
def resolveCopy (s : State) (u : Unresolved) : State :=
  if Config.freeWord s.tick (u.copy.word 5) = 0 then s
  else if !u.executed then rewriteStatus s u 1
  else rewriteStatus (u.missing.foldl (resumeSector u) s) u 2

/-- LINK_RECOVERY (R416). -/
def execLinkRecovery (port : Nat) (s : State) : Host.Outcome State Fault Refusal :=
  runEvent s (.linkRecovery port) (serving s && (linkOf s port).st == .down) fun s =>
    let s1 := setLink s port { linkOf s port with st := .up, replays := [] }
    let s2 := (s1.dev.unresolved.filter fun u => u.port == port).foldl resolveCopy s1
    { s2 with dev := { s2.dev with unresolved := s2.dev.unresolved.filter fun u => u.port != port } }

end Sys2Proof.Machine
end

