-- ==== Sys2Proof/Machine/Frames.lean ====
section
/-! DEFINITION. The requests that read frames which hardware owns for a context: of its waypoint table, of its block store, and the start of a copy.
Poison in such a frame stops the context (20_errors R438, 12_ordered_sections R258 to R266, 14_plot_units R318 to R323, 11_async_copies
R231, R241). -/

namespace Sys2Proof.Machine

/-! ## Waypoints -/

/-- Poison in the backing slots that a request for a key reads: none while the key has an active entry (12_ordered_sections R260,
20_errors R438). -/
def wpPoison (s : State) (ctx : Nat) (key : Word) : Option Nat :=
  if (wpActive s ctx key).isSome then none
  else (((s.ctxs.look ctx).map fun c => backingSlots c.cfg key).getD []).findSome? fun va => areaPoison s ctx va 16

/-- A request for a key, unless poison stops its context. -/
def guardKey (s : State) (ctx : Nat) (key : Word) (go : State) : State := guardFrame s ctx (wpHome ctx key) (wpPoison s ctx key) go

/-- What a request does at its key's home (12_ordered_sections R258, R261, R264). -/
def wpServe (s : State) (r : WpReq) : State :=
  match wpEntry s r.ctx r.key with
  | some (s1, e) => doRequest s1 e r
  | none => tableFull s r

/-- WAYPOINT_REQUEST (12_ordered_sections R258, R261, R264, R266). -/
def execWaypointRequest (r : WpReq) (s : State) : Host.Outcome State Fault Refusal :=
  runEvent s (.waypointRequest r)
    (s.pending.contains (.waypointRequest r) && reqFirst s r && (releaseOf s r).isSome && wpOpen s r.ctx r.key) fun s =>
      let s1 := (releaseOf s r).getD s
      guardKey s1 r.ctx r.key (wpServe s1 r)

/-- What a claim does at its key's home (12_ordered_sections R265). -/
def claimServe (s : State) (q : WpWait) : State :=
  match wpEntry s q.req.ctx q.req.key with
  | some (s1, e) => doClaim s1 e q
  | none => tableFull (dropWait s q) q.req

/-- WAYPOINT_CLAIM (12_ordered_sections R265). -/
def execWaypointClaim (r : WpReq) (s : State) : Host.Outcome State Fault Refusal :=
  runEvent s (.waypointClaim r) (s.pending.contains (.waypointClaim r) && wpOpen s r.ctx r.key) fun s =>
    match s.base.waits.find? fun q => q.req == r && q.claiming with
    | some q => guardKey s r.ctx r.key (claimServe s q)
    | none => s

/-! ## The block store -/

/-- Poison in the backing table of the block store that a request for a key reads: the table holds the keys beyond a stack's 32,768 active
entries (14_plot_units R318, 17_translation R387, 20_errors R438). -/
def keyPoison (s : State) (ctx stack : Nat) : Option Nat :=
  if 32768 < (s.base.keys.filter fun k => keyHome k.ctx k.seq k.layer == stack).length then
    (s.ctxs.look ctx).bind fun c => areaPoison s ctx c.cfg.bkBase (16 * 2 ^ c.cfg.bkK)
  else none

/-- BLOCK_STORE_REQUEST at the key's home (14_plot_units R318, R320, R322). -/
def execBlockStoreRequest (r : BsReq) (s : State) : Host.Outcome State Fault Refusal :=
  runEvent s (.blockStoreRequest r)
    (s.pending.contains (.blockStoreRequest r) && (match bsOp s r with
      | some (w, o) => inOrder w o && bsRoom s w r
      | none => true)) fun s =>
      match bsOp s r with
      | some (w, o) =>
        let home := keyHome (ctxOf s w) r.seq r.layer
        guardFrame s (ctxOf s w) home (keyPoison s (ctxOf s w) home) (bsAnswer s w o r)
      | none => s

/-! ## The start of a copy -/

/-- Poison of a cell or a block that lies in its spill area, at a line that is free: the area's format is not architectural (13_raster R285,
14_plot_units R323, 20_errors R438; DESIGN CHOICE, log 105). -/
def spilledPoison (s : State) (spilled : Bool) (poisoned : List Nat) : Option Nat :=
  if spilled && !poisoned.isEmpty then some (Config.choose s.tick) else none

/-- Poison of the spilled block that a CPYB fetches back as it starts (14_plot_units R323). -/
def blockPoison (s : State) (c : Copy) : Option Nat :=
  if c.form = 6 then (s.base.blocks.look (handleKey (c.word 0))).bind fun b => spilledPoison s b.spilled b.poisoned else none

/-- COPY_START (11_async_copies R231, R241, R242, R257). -/
def execCopyStart (id : Nat) (s : State) : Host.Outcome State Fault Refusal :=
  runEvent s (.copyStart id) (copyReady s id) fun s =>
    match s.work.copies.look id with
    | some c => guardFrame s (copyCtx s c) (stackOf c.core) (blockPoison s c) ((sliceGroup s id c).foldl startOne s)
    | none => s

end Sys2Proof.Machine
end

