-- ==== Sys2Proof/Machine/Raster.lean ====
section
/-! DEFINITION. Drawing: batches, the rasterisers, fragment waves, exports and the bank ROPs (13_raster R287 to R306). -/

namespace Sys2Proof.Machine

/-! ## PRIM -/

/-- A failure of PRIM's checks. -/
def primFail (cause addr info : Nat) : RecFail := { cause := cause, addr := addr, info := info, off := 0 }

/-- The fields of a batch descriptor keep their limits (R287). -/
def batchOk (x : List Word) : Bool :=
  let w8 := rw x 2
  let wc := rw x 3
  rd x 0 % 16 == 0 && w8 % 2 ^ 16 != 0 && decide (bits w8 19 16 ≤ 8) && bits w8 21 20 != 3 && bits w8 31 22 == 0 &&
    (bitAt wc 15 || bitAt wc 31) && bits wc 14 12 == 0 && bits wc 30 28 == 0 && (x.drop 6).all fun w => w == 0

/-- The entries that a descriptor names: colour, then depth (R287). -/
def colourOf (x : List Word) : Option Nat := if bitAt (rw x 3) 15 then some (rw x 3 % 2 ^ 12) else none
/-- The depth entry that a descriptor names. -/
def depthOf (x : List Word) : Option Nat := if bitAt (rw x 3) 31 then some (bits (rw x 3) 27 16) else none

/-- A named entry is of the right kind and not encrypted; one that is not valid fails its own check (R288). -/
def entryKind (s : State) (ctx : Nat) (depth : Bool) (e : Option Nat) : Bool :=
  match e with
  | none => true
  | some i =>
    let x := steOf s ctx i
    !x.valid || ((x.fmt == 1) == depth && !x.w0.getLsbD 2)

/-- The colour and the depth entry have one width and height (R288). -/
def sameSize (s : State) (ctx : Nat) (c d : Option Nat) : Bool :=
  match c, d with
  | some i, some j => !(steOf s ctx i).valid || !(steOf s ctx j).valid || (steOf s ctx i).w1 == (steOf s ctx j).w1
  | _, _ => true

/-- A named entry is valid (R288). -/
def entryValid (s : State) (ctx : Nat) (e : Option Nat) : Bool := (e.map fun i => (steOf s ctx i).valid).getD true

/-- A fragment launch record that PRIM can use (R288, 16_scheduling R359). -/
def fragRecordOk (x : List Word) : Bool := (firstBroken (recordChecks x true)).isNone && recWaves x == 1 && decide (7 ≤ recN x)

/-- The failures of a result, with which it goes on. -/
def failOf {α : Type} : Except RecFail α → List RecFail
  | .error e => [e]
  | .ok _ => []

/-- The value of a result, or nothing read. -/
def gotWords : Except RecFail (List Word) → List Word
  | .ok x => x
  | .error _ => []

/-- What PRIM reads: the descriptor, the fragment record, its constants, and the vertices. -/
structure PrimData where
  desc : List Word
  record : List Word
  consts : List Word
  verts : List Word
deriving DecidableEq, Repr

/-- A run of words at an address that must be aligned (R288). -/
def alignedWords (s : State) (core ctx : Nat) (level : Level) (va align n : Nat) : Except RecFail (List Word) :=
  if va % align != 0 then .error (primFail 0x08 va 0) else recordWords s core ctx level 0 va n

/-- The reads and checks of PRIM, the lowest trap code first (R288). -/
def readPrim (s : State) (core ctx : Nat) (level : Level) (va : Nat) : Except RecFail PrimData :=
  let bad (ok : Bool) (cause : Nat) : List RecFail := if ok then [] else [primFail cause 0 0]
  match alignedWords s core ctx level va 64 16 with
  | .error e => .error e
  | .ok x =>
    let r := alignedWords s core ctx level (rd x 4) 256 64
    let y := gotWords r
    let c := recordWords s core ctx level 0 (rd y 10) (rw y 12 % 128)
    let v := recordWords s core ctx level 0 (rd x 0) (3 * (rw x 2 % 2 ^ 16) * (4 + 4 * bits (rw x 2) 19 16))
    let first := bad (batchOk x) 0x01 ++
      bad (entryKind s ctx false (colourOf x) && entryKind s ctx true (depthOf x) && sameSize s ctx (colourOf x) (depthOf x)) 0x01 ++
      (match r with
        | .ok y => bad (fragRecordOk y) 0x01
        | .error e => [e])
    let more := if first.any fun e => e.cause < 0x10 then [] else failOf v ++ failOf c
    match least RecFail.cause (first ++ more ++ bad (entryValid s ctx (colourOf x) && entryValid s ctx (depthOf x)) 0x1B) with
    | some e => .error e
    | none => .ok { desc := x, record := y, consts := gotWords c, verts := gotWords v }

/-- The bytes that PRIM reads: its descriptor, the record, the constants and the vertices (R288, R291). -/
def primReads (s : State) (core ctx : Nat) (level : Level) (va : Nat) : List (Nat × Nat) :=
  (va, 64) :: match alignedWords s core ctx level va 64 16 with
    | .ok x =>
      let y := gotWords (alignedWords s core ctx level (rd x 4) 256 64)
      [(rd x 4, 256), (rd x 0, 12 * (rw x 2 % 2 ^ 16) * (4 + 4 * bits (rw x 2) 19 16)), (rd y 10, 4 * (rw y 12 % 128))]
    | .error _ => []

/-- A batch of a wave, not accepted yet, and its fragment launch (R289, R291). -/
def submitBatch (s : State) (k : Nat) (w : Wave) (ctx : Nat) (p : PrimData) : State :=
  let id := s.base.nextBatch
  let launch := s.work.nextLaunch
  let recVa := rd p.desc 4
  let b : Batch :=
    { ctx := ctx, wave := k, level := w.level, colour := colourOf p.desc, depth := depthOf p.desc, tris := rw p.desc 2 % 2 ^ 16,
      attrs := bits (rw p.desc 2) 19 16, cull := bits (rw p.desc 2) 21 20, verts := p.verts, launch := launch, recVa := recVa, base := 0,
      accepted := none, tri0 := 0, tri1 := 0, cell0 := 0, cell1 := 0, sent := false }
  let l : Launch :=
    { ctx := ctx, level := w.level, queue := none, tag := 0, recVa := recVa, record := cappedRecord s ctx p.record, groups := [],
      consts := p.consts, next := 0, early := [], done := 0, level0 := 0, frame0 := s.dev.frame0, accepted := s.dev.cycles,
      batch := some id, waiting := none, stopper := false }
  { s with
    base := { s.base with batches := s.base.batches.put id b, nextBatch := id + 1 }
    work := { s.work with launches := s.work.launches.put launch l, nextLaunch := launch + 1 } }.post (.batchAccept id)

/-- PRIM: it reads its descriptor, the record and the vertices after the wave's stores, and sends the batch to stack 0; the wave then
waits for its acceptance (R287 to R291). -/
def execPrim (a : SReg) (s : State) : Host.Outcome State Fault Refusal :=
  runWord s fun k r w =>
    let reads := primReads s (coreOf s r) (ctxOf s r) r.level (spair r a.toNat).toNat
    if !readsOpen s r reads then .hold
    else
      match readPrim s (coreOf s r) (ctxOf s r) r.level (spair r a.toNat).toNat with
      | .error e => .trap (mkTrap e.cause (batch r) e.addr e.info)
      | .ok p => .ok (submitBatch (noteReads (s.setWave k w) k r reads) k r (ctxOf s r) p)

/-! ## Acceptance -/

/-- Every earlier access of the wave that issued a PRIM has been performed, so that the acceptance may be a release (R291). -/
def batchReady (s : State) (b : Batch) : Bool :=
  match s.wave b.wave with
  | some w => releaseReady s w
  | none => true

/-- A batch waits for its acceptance. -/
def batchDue (s : State) (id : Nat) : Option Batch :=
  (s.base.batches.look id).filter fun b => b.accepted.isNone && batchReady s b

/-- A batch accepted: its triangles take their numbers from the stream counter of its surface set, and its fragment launch is accepted
with it (R290, R291). -/
def acceptBatch (s : State) (id : Nat) (b : Batch) : State :=
  let e := steOf s b.ctx (batchSet b)
  let s1 := setSte s b.ctx (batchSet b) { e with stream := e.stream + BitVec.ofNat 32 b.tris }
  let s2 := match s.wave b.wave with
    | some w => { s1 with mem := releaseBytes s1.mem (coreOf s w) }
    | none => s1
  { s2 with
    base := { s2.base with batches := s2.base.batches.put id { b with base := e.stream, accepted := some s.tick } }
    work := { s2.work with launches := s2.work.launches.modify b.launch fun l => { l with frame0 := s.dev.frame0, accepted := s.dev.cycles } } }

/-- BATCH_ACCEPT: stack 0 accepts a batch; its acceptance is a release of the submitting wave (R289 to R291). -/
def execBatchAccept (id : Nat) (s : State) : Host.Outcome State Fault Refusal :=
  runEvent s (.batchAccept id) (batchDue s id).isSome fun s =>
    match batchDue s id with
    | some b => acceptBatch s id b
    | none => s

/-! ## The end of a batch -/

/-- The arrival of a batch made once every ticket of it has retired on both stacks (R291). -/
def finishBatch (s : State) (id : Nat) : State :=
  match s.base.batches.look id with
  | none => s
  | some b =>
    if batchOver b && !(s.base.tickets.any fun t => t.batch == id) then
      let s1 := { s with base := { s.base with batches := s.base.batches.put id { b with sent := true } } }
      let bar := ((s.work.launches.look b.launch).map fun l => rd l.record 16).getD 0
      let s2 := if bar = 0 then s1 else s1.post (.completionArrival b.ctx bar b.recVa (arrivalSource 1 0 b.level))
      forgetBatch s2 b.launch
    else s

/-! ## Rasterising -/

/-- The batch that a stack's rasteriser works on: the first accepted one that it has not finished (R290). -/
def rasterBatch (s : State) (stack : Nat) : Option (Nat × Batch) :=
  least (fun p => p.2.accepted.getD 0) (s.base.batches.filter fun p => p.2.accepted.isSome && decide ((p.2.place stack).1 < p.2.tris))

/-- The entries of a batch's surface set, each with whether it is the depth entry (R290, R295). -/
def setEntries (b : Batch) : List (Nat × Bool) :=
  (b.colour.map fun i => (i, false)).toList ++ (b.depth.map fun i => (i, true)).toList

/-- The sequence number of a triangle (R290). -/
def seqOf (b : Batch) (t : Nat) : Word := b.base + BitVec.ofNat 32 t

/-- The tickets of one cell of a triangle (R295). -/
def cellTickets (id : Nat) (b : Batch) (t stack cx cy : Nat) (cover : List Nat) : List Ticket :=
  (setEntries b).map fun e =>
    { stack := stack, bank := bankOf e.1 cx cy, ctx := b.ctx, ste := e.1, cx := cx, cy := cy, batch := id, seq := seqOf b t,
      mask := BitVec.ofNat 16 ((cover.map fun i => 2 ^ i).sum), depth := e.2 }

/-- The tickets that a bank's reorder buffer holds. -/
def bankCount (ts : List Ticket) (stack bank : Nat) : Nat := (ts.filter fun t => t.stack == stack && t.bank == bank).length

/-- New tickets fit their banks' reorder buffers of 64 (R295). -/
def ticketsFit (s : State) (new : List Ticket) : Bool :=
  new.all fun t => decide (bankCount (s.base.tickets ++ new) t.stack t.bank ≤ 64)

/-- The fragments of a triangle on a stack, in cell order, then pixel order (R294, R296). -/
def triFrags (e : Ste) (id : Nat) (b : Batch) (k : Nat) (t : Tri) (stack : Nat) : List FragStart :=
  (triCells e t stack).flatMap fun c => (coverOf e t c.1 c.2).map fun i =>
    let q := cellPixel c.1 c.2 i
    let v := pixelVals b k t q.1 q.2
    { frag := { batch := id, stack := stack, tri := k, seq := seqOf b k, px := q.1, py := q.2 }
      b1 := BitVec.ofNat 32 v.1, b2 := BitVec.ofNat 32 v.2.1, z := BitVec.ofNat 32 v.2.2 }

/-- What the rasteriser of a stack does next in a batch: tickets for a cell, or the end of a triangle with its fragments. -/
inductive RasterStep
  | cell (new : List Ticket)
  | tri (new : List FragStart)
deriving DecidableEq, Repr

/-- The next work of a rasteriser (R292, R295, R296). -/
def rasterWork (s : State) (id : Nat) (b : Batch) (stack : Nat) : RasterStep :=
  let e := steOf s b.ctx (batchSet b)
  let k := (b.place stack).1
  match triOf b k with
  | none => .tri []
  | some t =>
    match (triCells e t stack)[(b.place stack).2]? with
    | none => .tri (triFrags e id b k t stack)
    | some c =>
      match coverOf e t c.1 c.2 with
      | [] => .cell []
      | cover => .cell (cellTickets id b k stack c.1 c.2 cover)

/-- The rasteriser of a stack can go on: it has a batch, and the reorder buffers of its next cell have room (R295). -/
def rasterDue (s : State) (stack : Nat) : Bool :=
  match rasterBatch s stack with
  | none => false
  | some (id, b) =>
    match rasterWork s id b stack with
    | .cell new => ticketsFit s new
    | .tri _ => true

/-- One cell tested, or one triangle ended. -/
def rasterStep (s : State) (id : Nat) (b : Batch) (stack : Nat) : State :=
  let p := b.place stack
  match rasterWork s id b stack with
  | .cell new =>
    { s with base := { s.base with
        tickets := s.base.tickets ++ new
        batches := s.base.batches.put id (b.moveTo stack (p.1, p.2 + 1)) } }
  | .tri new =>
    finishBatch
      { s with base := { s.base with
          frags := s.base.frags ++ new.map fun f => (stack, { f with made := s.dev.cycles })
          batches := s.base.batches.put id (b.moveTo stack (p.1 + 1, 0)) } } id

/-- RASTERISE: a stack's rasteriser tests one cell of a primitive against it, or ends the primitive (R292 to R295). -/
def execRasterise (stack : Nat) (s : State) : Host.Outcome State Fault Refusal :=
  runEvent s (.rasterise stack) (rasterDue s stack) fun s =>
    match rasterBatch s stack with
    | some (id, b) => rasterStep s id b stack
    | none => s

/-! ## Fragment waves -/

/-- The launch of the next fragment wave of a stack: when it is the stack's first candidate that fits (R298, 16_scheduling R365). -/
def nextFragLaunch (s : State) (stack : Nat) : Option State :=
  match admission s stack with
  | some (.fr _ _, s1) => some s1
  | _ => none

/-- FRAGMENT_WAVE_LAUNCH: a full fragment wave of a stack, or the last of a batch there, is launched (R296 to R298). -/
def execFragmentWaveLaunch (stack : Nat) (s : State) : Host.Outcome State Fault Refusal :=
  runEvent s (.fragmentWaveLaunch stack) (nextFragLaunch s stack).isSome fun s => (nextFragLaunch s stack).getD s

/-! ## Exports -/

/-- The batch of a fragment wave. -/
def waveBatch (s : State) (w : Wave) : Option Batch :=
  ((s.launchOf w.blk).bind fun l => l.batch).bind fun id => s.base.batches.look id

/-- The registers of the colour run of the wave that issues (R305). With no colour entry the run is vA alone (log 36). -/
def exportRegs (s : State) : Nat :=
  match issuing s with
  | some (_, r, _) =>
    match (waveBatch s r).bind fun b => b.colour.map fun c => steOf s b.ctx c with
    | some e => colourRegs e.fmt
    | none => 1
  | none => 1

/-- Fibres of the batch without a fragment bit take 0x01 (R305). -/
def fragCheck (r : Wave) : Option Trap :=
  match (fibresOf r (batch r)).filter fun p => !(p.2.fragment && p.2.frag.isSome) with
  | [] => none
  | bad => some (mkTrap 0x01 (bad.map Prod.fst) 0 0)

/-- The register checks of FEXP (R305). -/
def fexpCheck (a b n : Nat) (r : Wave) : Option Trap :=
  match fragCheck r with
  | some t => some t
  | none => if 124 < a + n then some (mkTrap 0x04 (batch r) 0 0) else portCheck r (runOf a n ++ [b]) []

/-- The fragment bit of fibres cleared (R297, R305). -/
def clearFrag (w : Wave) (lanes : List Nat) : Wave :=
  lanes.foldl (fun w l => w.mapFibre l fun f => { f with fragment := false, frag := none }) w

/-- The accesses that stand for a fibre's export in its wave's operations, one at the pixel of each entry of the surface set: `dst` names the
export. -/
def exportSubs (b : Option Batch) (lane id : Nat) (g : Option Frag) : List Sub :=
  match b, g with
  | some b, some g => (setEntries b).map fun e =>
      { mkSub lane { space := .surf e.1, pa := pixelAddr g.px g.py, key := none, dup := none, page := 0 } 0 8 .clean with dst := id, dstN := 0 }
  | _, _ => []

/-- An export of a fibre, with `n` colour registers followed by the depth. -/
def newExport (k op : Nat) (g : Frag) (n : Nat) (i : LaneIn) : Export :=
  { wave := k, op := some op, frag := g, discard := false, colour := i.vals.take n, z := i.arg n, entered := false, depthDone := false,
    colourDone := false, verdict := none }

/-- FEXP: its registers are read at issue, and the export goes to the banks of the fibre's pixel (R305). -/
def execFexp (a b : VReg) (s : State) : Host.Outcome State Fault Refusal :=
  let n := exportRegs s
  readWordFrom s (fexpCheck a.toNat b.toNat n) (runOf a.toNat n ++ [b.toNat]) 0 fun k r w ins =>
    if classFull r .st then .hold
    else
      let id := s.base.nextExport
      let xs : List (Nat × Export) := ((List.range ins.length).zip ins).filterMap fun p => p.2.fibre.frag.map fun g => (id + p.1, newExport k w.nextOp g n p.2)
      let subs := ((List.range ins.length).zip ins).flatMap fun p => exportSubs (waveBatch s r) p.2.lane (id + p.1) p.2.fibre.frag
      let w1 := addOp (clearFrag w (ins.map LaneIn.lane)) s.tick (some .st) .fexp none none subs []
      let s1 := { s.setWave k w1 with base := { s.base with
          exports := xs.foldl (fun (m : Map Export) (x : Nat × Export) => m.put x.1 x.2) s.base.exports, nextExport := id + ins.length } }
      .ok (s1.posts (xs.map fun (x : Nat × Export) => Ev.exportEntry x.1))

/-- FDISC: the pixel retires with no write when the discard reaches its banks (R305). -/
def execFdisc (s : State) : Host.Outcome State Fault Refusal :=
  runWord s fun k r w =>
    match fragCheck r with
    | some t => .trap t
    | none =>
      let s1 := s.setWave k (clearFrag w (batch r))
      .ok ((fibresOf r (batch r)).foldl (fun s p =>
        match p.2.frag with
        | some g => discardFrag s k g
        | none => s) s1)

/-! ## ATTR -/

/-- The lane slots of a batch whose register `v` can be read and names no triangle of their block. -/
def wrongTris (s : State) (r : Wave) (v : Nat) : List Nat :=
  let tris := ((s.block r.blk).map Block.tris).getD []
  ((fibresOf r (batch r)).filter fun p => decide (v < 124) && inWindow r p.2 v && !tris.contains (vreg s r p.1 p.2 v).toNat).map Prod.fst

/-- The checks of ATTR on its wave, its triangles and its registers, the lowest code first (R306, 02_encoding R43). -/
def attrCheck (s : State) (d a j : Nat) (r : Wave) : Option Trap :=
  if ((waveBatch s r).map fun b => decide (b.attrs ≤ j)).getD true then some (mkTrap 0x01 (batch r) 0 0)
  else if !(wrongTris s r (a + 4)).isEmpty then some (mkTrap 0x01 (wrongTris s r (a + 4)) 0 0)
  else if d % 4 != 0 || decide (124 < d + 4) || decide (124 < a + 5) then some (mkTrap 0x04 (batch r) 0 0)
  else portCheck r [a, a + 1, a + 4] ((List.range 4).map (d + ·))

/-- ATTR (R306). -/
def execAttr (d a : VReg) (p : Bool) (j : BitVec 3) (s : State) : Host.Outcome State Fault Refusal :=
  readWord s (attrCheck s d.toNat a.toNat j.toNat) [a.toNat, a.toNat + 1, a.toNat + 4] fun k r w ins =>
    match waveBatch s r with
    | none => .trap (mkTrap 0x01 (batch r) 0 0)
    | some b =>
      .ok (s.setWave k (writeLanes w d.toNat (ins.map fun i => (i,
        { regs := (List.range 4).map fun c => attrVal b p (i.arg 2).toNat j.toNat c (i.arg 0).toNat (i.arg 1).toNat
          preds := [], conds := 0 }))))

/-! ## The bank ROPs -/

/-- A ticket of a fragment, for depth or for colour. -/
def ticketOf (g : Frag) (depth : Bool) (t : Ticket) : Bool :=
  t.batch == g.batch && t.stack == g.stack && t.seq == g.seq && t.cx == g.px / 4 && t.cy == g.py / 4 && t.depth == depth

/-- The bit of a fragment's pixel in its tickets. -/
def fragBit (g : Frag) : Nat := pixelIndex g.px g.py

/-- A fragment's pixel retired in its ticket for depth or for colour; a ticket with no pixel left frees its entry (R299). -/
def retirePixel (s : State) (g : Frag) (depth : Bool) : State :=
  { s with base := { s.base with
      tickets := (s.base.tickets.map fun t =>
        if ticketOf g depth t then { t with mask := t.mask &&& ~~~(BitVec.ofNat 16 (2 ^ fragBit g)) } else t).filter fun t => t.mask != 0 } }

/-- No older ticket of the cell still covers a fragment's pixel (R299). -/
def turnOfPixel (s : State) (g : Frag) (depth : Bool) : Bool :=
  match s.base.tickets.find? (ticketOf g depth) with
  | none => false
  | some t => (s.base.tickets.takeWhile fun q => !ticketOf g depth q).all fun q =>
      !(q.stack == t.stack && q.ctx == t.ctx && q.ste == t.ste && q.cx == t.cx && q.cy == t.cy && q.mask.getLsbD (fragBit g))

/-- The wave's order allows a fibre's export to be performed: the earlier operations that its kind waits for, and those at its pixel other
than exports, which keep ticket order, have been performed (R299, 09_consistency R184, R185). -/
def exportOrdered (s : State) (id : Nat) (x : Export) : Bool :=
  match (s.wave x.wave).bind fun w => (x.op.bind (opOf w)).map fun o => (w, o) with
  | some (w, o) =>
    o.kind != .fexp ||
      (inOrder w o && (earlier w o.id).all fun e => e.kind == .fexp || e.subs.all fun y =>
        y.done || !(o.subs.any fun z => z.dst == id && y.meets z))
  | none => true

/-- The depth test of an export at its bank (R301). -/
def exportPasses (s : State) (ctx ste : Nat) (x : Export) : Bool :=
  depthPass (bits (steOf s ctx ste).w0.toNat 10 8) x.z.toNat (pixelRead s ctx ste x.frag.px x.frag.py)

/-- The part of an export that its depth bank can apply now (R299, R301). -/
def depthReady (s : State) (b : Batch) (id : Nat) (x : Export) : Bool :=
  match b.depth with
  | none => false
  | some e =>
    x.entered && !x.discard && !x.depthDone && turnOfPixel s x.frag true && exportOrdered s id x &&
      pixelReady s b.ctx e x.frag.px x.frag.py false && (!exportPasses s b.ctx e x || pixelReady s b.ctx e x.frag.px x.frag.py true)

/-- The part of an export that its colour bank can apply now (R299, R301). -/
def colourReady (s : State) (b : Batch) (id : Nat) (x : Export) : Bool :=
  match b.colour with
  | none => false
  | some e =>
    x.entered && !x.discard && !x.colourDone && (b.depth.isNone || x.verdict.isSome) && turnOfPixel s x.frag false && exportOrdered s id x &&
      (x.verdict == some false || pixelReady s b.ctx e x.frag.px x.frag.py true)

/-- An export that a bank can apply: its key, and whether its depth or its colour part. -/
def bankReady (s : State) (stack bank : Nat) : List (Nat × Export × Batch × Bool) :=
  s.base.exports.flatMap fun p =>
    match s.base.batches.look p.2.frag.batch with
    | none => []
    | some b =>
      if p.2.frag.stack != stack then []
      else
        let at_ (e : Option Nat) : Bool := (e.map fun i => bankOf i (p.2.frag.px / 4) (p.2.frag.py / 4) == bank).getD false
        (if at_ b.depth && depthReady s b p.1 p.2 then [(p.1, p.2, b, true)] else []) ++
          (if at_ b.colour && colourReady s b p.1 p.2 then [(p.1, p.2, b, false)] else [])

/-- The place of an export's ticket among the tickets. -/
def ticketPlace (s : State) (g : Frag) (depth : Bool) : Nat := (s.base.tickets.takeWhile fun q => !ticketOf g depth q).length

/-- The export that a bank applies next: the first in ticket order (R300). -/
def nextExport (s : State) (stack bank : Nat) : Option (Nat × Export × Batch × Bool) :=
  least (fun q => 16 * ticketPlace s q.2.1.frag q.2.2.2 + fragBit q.2.1.frag) (bankReady s stack bank)

/-- The operation of an export performed; once it has been counted it is gone (R305). -/
def exportDone (s : State) (id : Nat) (x : Export) : State :=
  let s1 := { s with base := { s.base with exports := s.base.exports.del id } }
  s1.mapWave x.wave fun w =>
    { w with ops := (w.ops.map fun o =>
        if o.kind = .fexp then { o with subs := o.subs.map fun y => if y.dst = id then { y with done := true } else y } else o).filter fun o =>
          !(o.kind == .fexp && o.counted && o.performed) }

/-- An export with one of its parts applied: gone when none is left. -/
def exportPart (s : State) (id : Nat) (b : Batch) (x : Export) : State :=
  if (b.depth.isNone || x.depthDone) && (b.colour.isNone || x.colourDone) then exportDone s id x
  else { s with base := { s.base with exports := s.base.exports.put id x } }

/-- A depth pixel that a passing fragment leaves: its own depth, or the stored one (R301). An entry that is no depth surface any more
leaves a free value (log 37). -/
def depthPixel (s : State) (e : Ste) (x : Export) (old : Nat) : Nat :=
  if e.fmt != 1 then (Config.freeWord s.tick 0).toNat else if e.w0.getLsbD 11 then x.z.toNat else old

/-- Poison that a bank's ROP has read, and that goes on to what it produces, told to the context (20_errors R438, R445). -/
def ropPoison (s : State) (ctx stack e : Nat) (poison : Bool) : State := if poison then postPoison s ctx stack e else s

/-- An export applied at its depth bank: the test, the write, and the verdict on its way to the colour bank (R301). Poison that the test reads
goes on to what it produces (20_errors R438). -/
def applyDepth (s : State) (id : Nat) (b : Batch) (x : Export) : State :=
  match b.depth with
  | none => s
  | some i =>
    let pass := exportPasses s b.ctx i x
    let old := pixelRead s b.ctx i x.frag.px x.frag.py
    let poison := pixelPoisoned s b.ctx i x.frag.px x.frag.py
    let s1 := if pass then pixelWrite s b.ctx i x.frag.px x.frag.py (depthPixel s (steOf s b.ctx i) x old) poison
      else touchCell s b.ctx i (x.frag.px / 4) (x.frag.py / 4)
    let s2 := exportPart (retirePixel (ropPoison s1 b.ctx x.frag.stack i poison) x.frag true) id b { x with depthDone := true }
    finishBatch (if b.colour.isSome then s2.post (.depthVerdict id pass) else s2) x.frag.batch

/-- A colour pixel that a passing fragment leaves (R302). An entry that is no colour surface any more leaves a free value (log 37). -/
def colourPixel (s : State) (e : Ste) (x : Export) (old : Nat) : Nat :=
  if e.fmt == 1 || colourRegs e.fmt != x.colour.length then
    (Config.freeWord s.tick 0).toNat + 2 ^ 32 * (Config.freeWord s.tick 1).toNat
  else ropPixel e x.colour old

/-- An export applied at its colour bank: blended and written, or retired after a failed depth test (R301, R302). Poison that the ROP
reads goes on to what it writes (20_errors R438). -/
def applyColour (s : State) (id : Nat) (b : Batch) (x : Export) : State :=
  match b.colour with
  | none => s
  | some i =>
    let poison := pixelPoisoned s b.ctx i x.frag.px x.frag.py || (b.depth.map fun d => pixelPoisoned s b.ctx d x.frag.px x.frag.py).getD false
    let old := pixelRead s b.ctx i x.frag.px x.frag.py
    let s1 :=
      if x.verdict == some false then s
      else
        ropPoison (pixelWrite s b.ctx i x.frag.px x.frag.py (colourPixel s (steOf s b.ctx i) x old) poison) b.ctx x.frag.stack i poison
    finishBatch (exportPart (retirePixel s1 x.frag false) id b { x with colourDone := true }) x.frag.batch

/-- ROP_APPLY: a bank applies the first export in ticket order that is ready (R299 to R302). -/
def execRopApply (stack bank : Nat) (s : State) : Host.Outcome State Fault Refusal :=
  runEvent s (.ropApply stack bank) (nextExport s stack bank).isSome fun s =>
    match nextExport s stack bank with
    | some (id, x, b, true) => applyDepth s id b x
    | some (id, x, b, false) => applyColour s id b x
    | none => s

/-- DEPTH_VERDICT: the depth bank's answer comes to the colour bank (R301). -/
def execDepthVerdict (id : Nat) (pass : Bool) (s : State) : Host.Outcome State Fault Refusal :=
  runEvent s (.depthVerdict id pass) (s.pending.contains (.depthVerdict id pass)) fun s =>
    { s with base := { s.base with exports := s.base.exports.modify id fun x => { x with verdict := some pass } } }

/-- An export in its banks' reorder buffers: its operation may be counted (R305). -/
def exportEntered (s : State) (id : Nat) (x : Export) : State :=
  let s1 := { s with base := { s.base with exports := s.base.exports.put id { x with entered := true } } }
  s1.mapWave x.wave fun w => { w with ops := w.ops.map fun o =>
    if o.kind = .fexp then { o with subs := o.subs.map fun y => if y.dst = id then { y with busy := true } else y } else o }

/-- EXPORT_ENTRY: an export comes to its banks and waits for its turn; a discard retires its pixel there at once (R299, R305). -/
def execExportEntry (id : Nat) (s : State) : Host.Outcome State Fault Refusal :=
  runEvent s (.exportEntry id) (((s.base.exports.look id).map fun x => !x.entered).getD false) fun s =>
    match s.base.exports.look id with
    | none => s
    | some x =>
      if x.discard then
        finishBatch (exportDone (retirePixel (retirePixel s x.frag true) x.frag false) id x) x.frag.batch
      else exportEntered s id x

end Sys2Proof.Machine
end

