-- ==== Sys2Proof/Machine/Texture.lean ====
section
/-! DEFINITION. The surface words SRFSET, SRFQRY, SRFLD and SRFST, and TEX2 (13_raster R279 to R282, R307 to R310). -/

namespace Sys2Proof.Machine

/-! ## SRFSET -/

/-- An image that SRFSET accepts (R280). -/
def imageOk (x : List Word) : Bool :=
  let w := rw x 0
  let fmt := bits w 7 4
  let side (n : Nat) : Bool := decide (1 ≤ n) && decide (n ≤ 16384)
  !bitAt w 0 ||
    (bits w 31 17 == 0 && bits (rw x 7) 30 12 == 0 && ((x.drop 8).all fun y => y == 0) && decide (fmt ≤ 5) &&
      side (rw x 1 % 2 ^ 16) && side (rw x 1 / 2 ^ 16) &&
      ((bits w 10 8 == 7 && !bitAt w 11) || fmt == 1) && (!bitAt w 12 || fmt == 0) && (!bitAt w 2 || (fmt != 1 && !bitAt w 12)) &&
      (!bitAt w 1 || fmt == 3 || fmt == 4 || fmt == 5) && rd x 4 % 256 == 0)

/-- SRFSET: its image is read and checked; the wave then waits until the entry has been written (R280, R282, R308). -/
def execSrfset (a b : SReg) (s : State) : Host.Outcome State Fault Refusal :=
  runWord s fun k r w =>
    let va := (spair r a.toNat).toNat
    if !readsOpen s r [(va, 64)] then .hold
    else if 2 ^ 12 ≤ (sreg r b.toNat).toNat then illegalHere r
    else
      match alignedWords s (coreOf s r) (ctxOf s r) r.level va 64 16 with
      | .error e => .trap (mkTrap e.cause (batch r) e.addr e.info)
      | .ok x =>
        if !imageOk x then illegalHere r
        else
          let id := s.base.nextSet
          let p : PendSet := { wave := k, ctx := ctxOf s r, ste := (sreg r b.toNat).toNat, image := x }
          .ok ({ noteReads (s.setWave k w) k r [(va, 64)] with base := { s.base with sets := s.base.sets.put id p, nextSet := id + 1 } }.post (.srfsetPerform id))

/-- The entry of an image; bit 3 reads as 0, and the stream counter stands (R279, R281). -/
def entryOfImage (x : List Word) (stream : Word) : Ste :=
  { w0 := nth x 0 &&& ~~~8, w1 := nth x 1, clear := BitVec.ofNat 64 (rd x 2), spill := BitVec.ofNat 64 (rd x 4), stream := stream, w7 := nth x 7 }

/-- A write of an entry keeps its cells and its counter (R281). An image with valid = 0 names no surface, and keeps none. -/
def keepsCells (old : Ste) (x : List Word) : Bool :=
  let e := entryOfImage x 0
  (nth x 0).getLsbD 3 && old.valid && e.valid && old.fmt == e.fmt && old.w1 == e.w1 && old.w0.getLsbD 2 == e.w0.getLsbD 2 && old.spill == e.spill

/-- An entry written by SRFSET (R281). -/
def performSet (s : State) (p : PendSet) : State :=
  let old := steOf s p.ctx p.ste
  if keepsCells old p.image then setSte s p.ctx p.ste (entryOfImage p.image old.stream)
  else
    let s1 := { s with base := { s.base with
        cells := s.base.cells.filter fun c => !(c.ctx == p.ctx && c.ste == p.ste) } }
    setSte s1 p.ctx p.ste (entryOfImage p.image 0)

/-- A PLOT on an entry is in flight, from its check to its completion (14_plot_units R317). -/
def plotOn (s : State) (ctx ste : Nat) : Bool := s.base.plots.any fun p => p.2.ctx == ctx && p.2.ste == ste

/-- SRFSET_PERFORM: every ticket on the old entry has retired, and every access to it has been performed (R281, R282). -/
def execSrfsetPerform (id : Nat) (s : State) : Host.Outcome State Fault Refusal :=
  runEvent s (.srfsetPerform id)
    (((s.base.sets.look id).map fun p => steQuiet s p.ctx p.ste && !plotOn s p.ctx p.ste).getD false) fun s =>
      match s.base.sets.look id with
      | some p =>
        let s1 := performSet s p
        { s1 with base := { s1.base with sets := s1.base.sets.del id } }
      | none => s

/-! ## SRFQRY -/

/-- The cells of an entry that are allocated on a stack, or spilled (R308, log 38). -/
def countCells (s : State) (ctx ste : Nat) (f : Cell → Bool) : Nat :=
  (s.base.cells.filter fun c => c.ctx == ctx && c.ste == ste && f c).length

/-- What SRFQRY answers (R308). -/
def queryWord (s : State) (ctx ste sel : Nat) : Word :=
  let e := steOf s ctx ste
  match sel with
  | 0 => e.w0
  | 1 => e.w1
  | 2 => e.stream
  | 3 => BitVec.ofNat 32 (countCells s ctx ste fun c => !c.spilled && cellStack c.cx c.cy == 0)
  | 4 => BitVec.ofNat 32 (countCells s ctx ste fun c => !c.spilled && cellStack c.cx c.cy == 1)
  | _ => BitVec.ofNat 32 (countCells s ctx ste Cell.spilled)

/-- SRFQRY (R308). -/
def execSrfqry (d a : SReg) (s : State) : Host.Outcome State Fault Refusal :=
  runWord s fun k r w =>
    let x := (sreg r a.toNat).toNat
    if x / 2 ^ 16 != 0 || decide (5 < bits x 15 12) then illegalHere r
    else .ok (s.setWave k (setSreg w d.toNat (queryWord s (ctxOf s r) (x % 2 ^ 12) (bits x 15 12))))

/-! ## SRFLD and SRFST -/

/-- The registers of a pixel of the entry that the issuing wave names (R307). -/
def pixelRegs (s : State) (b : Nat) : Nat :=
  match issuing s with
  | some (_, r, _) =>
    let e := steOf s (ctxOf s r) ((sreg r b).toNat % 2 ^ 12)
    if e.valid && e.p == 8 then 2 else 1
  | none => 1

/-- The checks of SRFLD and SRFST before the registers are read: 0x01 first (R307). -/
def pixelCheck (d b n : Nat) (regs : Wave → Option Trap) (r : Wave) : Option Trap :=
  if 2 ^ 12 ≤ (sreg r b).toNat || (n == 2 && d % 2 == 1) then some (mkTrap 0x01 (batch r) 0 0) else regs r

/-- One fibre's access of a pixel (R307): outside the surface 0x1A, of an entry that is not valid 0x1B; a load of a poisoned cell gives
0x40 (20_errors R438). -/
def pixelTry (s : State) (ctx ste lane : Nat) (xy : Word) (acc : Acc) : Try :=
  let e := steOf s ctx ste
  let x := xy.toNat % 2 ^ 16
  let y := xy.toNat / 2 ^ 16
  let load := match acc with
    | .load _ => true
    | _ => false
  if !e.valid then .fail { lane := lane, cause := 0x1B, addr := 0, info := 0 }
  else if decide (e.width ≤ x) || decide (e.height ≤ y) then .fail { lane := lane, cause := 0x1A, addr := 0, info := 0 }
  else if load && pixelPoisoned s ctx ste x y then .fail { lane := lane, cause := 0x40, addr := 0, info := 3 }
  else .fine (mkSub lane { space := .surf ste, pa := pixelAddr x y, key := none, dup := none, page := 0 } 0 8 acc)

/-- SRFLD (R307). -/
def execSrfld (d a : VReg) (b : SReg) (s : State) : Host.Outcome State Fault Refusal :=
  let n := pixelRegs s b.toNat
  readWord s (pixelCheck d.toNat b.toNat n (memCheck [a.toNat] (0, 0) (d.toNat, n))) [a.toNat] fun k r w ins =>
    issueOp s k r w (some .ld) .load none none (ins.map fun i =>
      (pixelTry s (ctxOf s r) (sreg r b.toNat).toNat i.lane (i.arg 0) (.load false)).to i.fibre d.toNat n)

/-- SRFST: a pixel of fewer than 4 bytes takes the low bytes (R307). -/
def execSrfst (d a : VReg) (b : SReg) (s : State) : Host.Outcome State Fault Refusal :=
  let n := pixelRegs s b.toNat
  readWordFrom s (pixelCheck d.toNat b.toNat n (memCheck [a.toNat] (d.toNat, n) (0, 0))) (a.toNat :: runOf d.toNat n) 1 fun k r w ins =>
    let p := (steOf s (ctxOf s r) (sreg r b.toNat).toNat).p
    issueOp s k r w (some .st) .store none none (ins.map fun i =>
      pixelTry s (ctxOf s r) (sreg r b.toNat).toNat i.lane (i.arg 0)
        (.store (BitVec.ofNat 64 ((i.data 1 (4 * n)).toNat % 2 ^ (8 * p)))))

/-! ## TEX2 -/

/-- The texel size of a texture record. -/
def texelBytes (x : List Word) : Nat := if bitAt (rw x 4) 0 then 8 else 4

/-- A texture record within its limits (R309). -/
def texOk (x : List Word) : Bool :=
  let side (n : Nat) : Bool := decide (1 ≤ n) && decide (n ≤ 16384)
  rd x 0 % texelBytes x == 0 && side (rw x 2 % 2 ^ 16) && side (rw x 2 / 2 ^ 16) && rw x 3 % texelBytes x == 0 &&
    bits (rw x 4) 3 2 != 3 && bits (rw x 4) 5 4 != 3 && bits (rw x 4) 31 6 == 0 && (x.drop 5).all fun y => y == 0

/-- Wrap (R310). -/
def wrapTexel (mode : Nat) (i : Int) (n : Nat) : Nat :=
  match mode with
  | 0 => (i % (n : Int)).toNat
  | 1 => (max 0 (min i ((n : Int) - 1))).toNat
  | _ => mirrorRep i n

/-- The four channels of a texel as f32 (R310). -/
def texelChannels (x : List Word) (raw : Nat) : List Nat :=
  (List.range 4).map fun c =>
    if bitAt (rw x 4) 0 then widen16 (raw / 2 ^ (16 * c) % 2 ^ 16)
    else div32 (ofInt32 (raw / 2 ^ (8 * c) % 2 ^ 8 : Nat)) (ofInt32 255)

/-- The address of a texel (R309, R310). -/
def texelVa (x : List Word) (i j : Int) : Nat :=
  let col := wrapTexel (bits (rw x 4) 3 2) i (rw x 2 % 2 ^ 16)
  let row := wrapTexel (bits (rw x 4) 5 4) j (rw x 2 / 2 ^ 16)
  (rd x 0 + row * rw x 3 + col * texelBytes x) % 2 ^ 64

/-- A texel read as a load, or its failure (R309). -/
def readTexel (s : State) (r : Wave) (lane : Nat) (x : List Word) (i j : Int) : Except LaneFail (List Nat) :=
  let va := texelVa x i j
  match translate s (coreOf s r) (ctxOf s r) r.level Access.load va with
  | .error e => .error { lane := lane, cause := e.cause, addr := va, info := e.tinfo }
  | .ok t =>
    match poisonOf s (coreOf s r) t with
    | some m => .error { lane := lane, cause := 0x40, addr := va, info := m }
    | none => .ok (texelChannels x (leNat (coreBytes s (coreOf s r) t (texelBytes x))))

/-- A finite value rounded to an integer. -/
def roundWhole (r : Rnd) : FVal → Int
  | .fin s m e => signInt s (roundAt r s m e 0).1
  | _ => 0

/-- The integer part and the weight in 256ths of a texture coordinate (R310). -/
def splitCoord (x : Nat) : Int × Nat :=
  let v := decodeF fmtF32 x
  let i := roundWhole .rd v
  (i, (roundWhole .rne (times256 v) - 256 * i).toNat)

/-- A blend of two values with the weight of the second in 256ths (R310). -/
def blend256 (p q a : Nat) : Nat :=
  let weight (k : Nat) : Nat := round32 (.fin false k (-8))
  add32 (mul32 p (weight (256 - a))) (mul32 q (weight a))

/-- The texels of a bilinear sample, in the order of its checks, with the weights of the second column and row (R310). -/
def bilinearPlaces (uw vh : Nat) : List (Int × Int) × Nat × Nat :=
  let p := splitCoord (sub32 uw 0x3F000000)
  let q := splitCoord (sub32 vh 0x3F000000)
  ([(p.1, q.1), (p.1 + 1, q.1), (p.1, q.1 + 1), (p.1 + 1, q.1 + 1)], p.2, q.2)

/-- The texel of a nearest sample (R310). -/
def nearestPlace (uw vh : Nat) : Int × Int := (roundWhole .rd (decodeF fmtF32 uw), roundWhole .rd (decodeF fmtF32 vh))

/-- A sample by the nearest texel (R310). -/
def sampleNearest (s : State) (r : Wave) (lane : Nat) (x : List Word) (uw vh : Nat) : Except LaneFail (List Nat) :=
  readTexel s r lane x (nearestPlace uw vh).1 (nearestPlace uw vh).2

/-- A bilinear sample (R310). -/
def sampleBilinear (s : State) (r : Wave) (lane : Nat) (x : List Word) (uw vh : Nat) : Except LaneFail (List Nat) :=
  let b := bilinearPlaces uw vh
  match firstErr (fun p => readTexel s r lane x p.1 p.2) b.1 with
  | .error e => .error e
  | .ok ts =>
    let t (k c : Nat) : Nat := (ts.getD k []).getD c 0
    .ok ((List.range 4).map fun c => blend256 (blend256 (t 0 c) (t 1 c) b.2.1) (blend256 (t 2 c) (t 3 c) b.2.1) b.2.2)

/-- The coordinates of a sample in texels (R310). -/
def texelCoords (x : List Word) (u v : Word) : Nat × Nat :=
  (mul32 u.toNat (ofInt32 (rw x 2 % 2 ^ 16 : Nat)), mul32 v.toNat (ofInt32 (rw x 2 / 2 ^ 16 : Nat)))

/-- The bytes of the texels that a fibre's sample reads (R310). -/
def sampleReads (x : List Word) (u v : Word) : List (Nat × Nat) :=
  let c := texelCoords x u v
  if isFinite32 u.toNat && isFinite32 v.toNat && isFinite32 c.1 && isFinite32 c.2 then
    (if bitAt (rw x 4) 1 then (bilinearPlaces c.1 c.2).1 else [nearestPlace c.1 c.2]).map fun p => (texelVa x p.1 p.2, texelBytes x)
  else []

/-- A fibre's sample (R310). Where u·W or v·H is infinite the manual states no texel, and the result is free (log 39). -/
def sample (s : State) (r : Wave) (lane : Nat) (x : List Word) (u v : Word) : Except LaneFail (List Nat) :=
  let uw := (texelCoords x u v).1
  let vh := (texelCoords x u v).2
  if !(isFinite32 u.toNat && isFinite32 v.toNat) then .ok [0, 0, 0, 0]
  else if !(isFinite32 uw && isFinite32 vh) then .ok ((List.range 4).map fun c => (Config.freeWord s.tick (4 * lane + c)).toNat)
  else if bitAt (rw x 4) 1 then sampleBilinear s r lane x uw vh
  else sampleNearest s r lane x uw vh

/-- The texture record of the issuing wave. -/
def texRecord (s : State) (r : Wave) (b : Nat) : Except RecFail (List Word) :=
  alignedWords s (coreOf s r) (ctxOf s r) r.level (spair r b).toNat 32 8

/-- The checks of TEX2 on its record and registers, the lowest code first (R309). A queue port breaks R30's limit, for which R36 gives 0x05, as
well as R309's, for which it gives 0x04: the lower code is raised, which the manual leaves open (DESIGN CHOICE, log 77). -/
def texCheck (s : State) (d a b : Nat) (r : Wave) : Option Trap :=
  let rest := if d % 4 != 0 then some (mkTrap 0x04 (batch r) 0 0) else memCheck [] (a, 2) (d, 4) r
  match texRecord s r b with
  | .ok x => if !texOk x then some (mkTrap 0x01 (batch r) 0 0) else rest
  | .error _ => rest

/-- A sample as an access that has taken its value: it writes four registers from `v` on. -/
def sampleSub (lane : Nat) (f : Fibre) (v : Nat) (c : List Nat) : Sub :=
  let at_ (i : Nat) : Nat := c.getD i 0
  { lane := lane, space := .lane, va := 0, pa := 0, n := 0, key := none, acc := .load false, dst := f.base + v, dstN := 4, stamp := 0, busy := false,
    done := true, value := BitVec.ofNat 64 (at_ 0 + 2 ^ 32 * at_ 1), extra := BitVec.ofNat 64 (at_ 2 + 2 ^ 32 * at_ 3) }

/-- The record of a TEX2 can be read, as an access at its place in the wave's order (R309, 09_consistency R184). -/
def texOpen (s : State) (b : Nat) : Bool := ((issuing s).map fun q => readsOpen s q.2.1 [((spair q.2.1 b).toNat, 32)]).getD true

/-- The bytes that a TEX2 reads: its record and the texels of its fibres. -/
def texReads (r : Wave) (b : Nat) (x : List Word) (ins : List LaneIn) : List (Nat × Nat) :=
  ((spair r b).toNat, 32) :: ins.flatMap fun i => sampleReads x (i.arg 0) (i.arg 1)

/-- TEX2: the record and the texels are read at issue, after the wave's own stores (R309, R310). -/
def execTex2 (d a : VReg) (b : SReg) (s : State) : Host.Outcome State Fault Refusal :=
  if texOpen s b.toNat then
    readWord s (texCheck s d.toNat a.toNat b.toNat) (runOf a.toNat 2) fun k r w ins =>
      match texRecord s r b.toNat with
      | .error e => .trap (mkTrap e.cause (batch r) e.addr e.info)
      | .ok x =>
        let reads := texReads r b.toNat x ins
        if !readsOpen s r reads then .hold
        else
          (issueOp s k r w (some .ld) .load none none (ins.map fun i =>
            match sample s r i.lane x (i.arg 0) (i.arg 1) with
            | .error f => .fail f
            | .ok c => .fine (sampleSub i.lane i.fibre d.toNat c))).after fun s1 => noteReads s1 k r reads
  else runWord s fun _ _ _ => .hold

end Sys2Proof.Machine
end

