-- ==== Sys2Proof/Machine/Vector.lean ====
section
/-! DEFINITION. The integer words of the V pipe and the predicate words (05_vector_scalar R85, R96 to R99, R117, R118). -/

namespace Sys2Proof.Machine

/-- vD := Op(vA, vB) (R96). -/
def vecOp (op : Word → Word → Word) (d a b : VReg) (s : State) : Host.Outcome State Fault Refusal :=
  laneWord s [a, b] d fun x => x.reg (op (x.arg 0) (x.arg 1))

/-- vD := Op(vA) or Op(vA, Imm) (R96, R97). -/
def vecUn (op : Word → Word) (d a : VReg) (s : State) : Host.Outcome State Fault Refusal :=
  laneWord s [a] d fun x => x.reg (op (x.arg 0))

/-- vD := Op(vA, vB) with conditions (R83, R97). -/
def vecFlag (op : Word → Word → Word × Conds) (d a b : VReg) (s : State) : Host.Outcome State Fault Refusal :=
  laneWord s [a, b] d fun x => x.flag (op (x.arg 0) (x.arg 1))

/-- vD := Op(vA, vB, vD) (R97, R98). -/
def vecAcc (op : Word → Word → Word → Word) (d a b : VReg) (s : State) : Host.Outcome State Fault Refusal :=
  laneAcc s [a, b] d fun x => x.reg (op (x.arg 0) (x.arg 1) (x.arg 2))

/-- IADD (R96). -/
def execIadd (d a b : VReg) (s : State) : Host.Outcome State Fault Refusal := vecOp (· + ·) d a b s

/-- ISUB (R96). -/
def execIsub (d a b : VReg) (s : State) : Host.Outcome State Fault Refusal := vecOp (· - ·) d a b s

/-- IMUL (R96). -/
def execImul (d a b : VReg) (s : State) : Host.Outcome State Fault Refusal := vecOp (· * ·) d a b s

/-- IMULH (R96). -/
def execImulh (d a b : VReg) (s : State) : Host.Outcome State Fault Refusal := vecOp mulhS d a b s

/-- IMULHU (R96). -/
def execImulhu (d a b : VReg) (s : State) : Host.Outcome State Fault Refusal := vecOp mulhU d a b s

/-- AND (R96). -/
def execIand (d a b : VReg) (s : State) : Host.Outcome State Fault Refusal := vecOp (· &&& ·) d a b s

/-- OR (R96). -/
def execIor (d a b : VReg) (s : State) : Host.Outcome State Fault Refusal := vecOp (· ||| ·) d a b s

/-- XOR (R96). -/
def execIxor (d a b : VReg) (s : State) : Host.Outcome State Fault Refusal := vecOp (· ^^^ ·) d a b s

/-- ANDN (R96). -/
def execAndn (d a b : VReg) (s : State) : Host.Outcome State Fault Refusal := vecOp (fun x y => x &&& ~~~y) d a b s

/-- SHL (R96). -/
def execShl (d a b : VReg) (s : State) : Host.Outcome State Fault Refusal := vecOp shlW d a b s

/-- SHR (R96). -/
def execShr (d a b : VReg) (s : State) : Host.Outcome State Fault Refusal := vecOp shrW d a b s

/-- SRA (R96). -/
def execSra (d a b : VReg) (s : State) : Host.Outcome State Fault Refusal := vecOp sraW d a b s

/-- IMIN (R96). -/
def execImin (d a b : VReg) (s : State) : Host.Outcome State Fault Refusal := vecOp minS d a b s

/-- IMAX (R96). -/
def execImax (d a b : VReg) (s : State) : Host.Outcome State Fault Refusal := vecOp maxS d a b s

/-- IMINU (R96). -/
def execIminu (d a b : VReg) (s : State) : Host.Outcome State Fault Refusal := vecOp minU d a b s

/-- IMAXU (R96). -/
def execImaxu (d a b : VReg) (s : State) : Host.Outcome State Fault Refusal := vecOp maxU d a b s

/-- BFE (R98). -/
def execBfe (d a b : VReg) (s : State) : Host.Outcome State Fault Refusal := vecOp fieldS d a b s

/-- BFEU (R98). -/
def execBfeu (d a b : VReg) (s : State) : Host.Outcome State Fault Refusal := vecOp fieldU d a b s

/-- IADDI (R96). -/
def execIaddi (d a : VReg) (i : BitVec 8) (s : State) : Host.Outcome State Fault Refusal := vecUn (· + immS i) d a s

/-- ANDI (R96). -/
def execAndi (d a : VReg) (i : BitVec 8) (s : State) : Host.Outcome State Fault Refusal := vecUn (· &&& immZ i) d a s

/-- ORI (R96). -/
def execOri (d a : VReg) (i : BitVec 8) (s : State) : Host.Outcome State Fault Refusal := vecUn (· ||| immZ i) d a s

/-- XORI (R96). -/
def execXori (d a : VReg) (i : BitVec 8) (s : State) : Host.Outcome State Fault Refusal := vecUn (· ^^^ immZ i) d a s

/-- SHLI (R96). -/
def execShli (d a : VReg) (i : BitVec 5) (s : State) : Host.Outcome State Fault Refusal := vecUn (shlW · (immZ i)) d a s

/-- SHRI (R96). -/
def execShri (d a : VReg) (i : BitVec 5) (s : State) : Host.Outcome State Fault Refusal := vecUn (shrW · (immZ i)) d a s

/-- SRAI (R96). -/
def execSrai (d a : VReg) (i : BitVec 5) (s : State) : Host.Outcome State Fault Refusal := vecUn (sraW · (immZ i)) d a s

/-- MOVI (R96). -/
def execMovi (d : VReg) (i : BitVec 8) (s : State) : Host.Outcome State Fault Refusal :=
  laneWord s [] d fun x => x.reg (immS i)

/-- IABS: the most negative number gives itself and raises int-overflow (R97). -/
def execIabs (d a : VReg) (s : State) : Host.Outcome State Fault Refusal :=
  laneWord s [a] d fun x =>
    x.flag (if (x.arg 0).toInt < 0 then -x.arg 0 else x.arg 0, raise intOverflow (x.arg 0 == 0x80000000))

/-- INEG: the most negative number gives itself and raises int-overflow (R97). -/
def execIneg (d a : VReg) (s : State) : Host.Outcome State Fault Refusal :=
  laneWord s [a] d fun x => x.flag (-x.arg 0, raise intOverflow (x.arg 0 == 0x80000000))

/-- NOT (R97). -/
def execInot (d a : VReg) (s : State) : Host.Outcome State Fault Refusal := vecUn (fun x => ~~~x) d a s

/-- POPC (R97). -/
def execPopc (d a : VReg) (s : State) : Host.Outcome State Fault Refusal := vecUn popcount d a s

/-- CLZ (R97). -/
def execClz (d a : VReg) (s : State) : Host.Outcome State Fault Refusal := vecUn (fun x => BitVec.ofNat 32 (leadZeros x.toNat 32)) d a s

/-- BREV (R97). -/
def execBrev (d a : VReg) (s : State) : Host.Outcome State Fault Refusal := vecUn bitRev d a s

/-- BFI (R98). -/
def execBfi (d a b : VReg) (s : State) : Host.Outcome State Fault Refusal := vecAcc (fun x y o => fieldIns o x y) d a b s

/-- IMAD (R97). -/
def execImad (d a b : VReg) (s : State) : Host.Outcome State Fault Refusal := vecAcc (fun x y o => x * y + o) d a b s

/-- IDIV (R83). -/
def execIdiv (d a b : VReg) (s : State) : Host.Outcome State Fault Refusal := vecFlag sdivFlag d a b s

/-- IDIVU (R83). -/
def execIdivu (d a b : VReg) (s : State) : Host.Outcome State Fault Refusal := vecFlag udivFlag d a b s

/-- IREM (R83). -/
def execIrem (d a b : VReg) (s : State) : Host.Outcome State Fault Refusal := vecFlag sremFlag d a b s

/-- IREMU (R83). -/
def execIremu (d a b : VReg) (s : State) : Host.Outcome State Fault Refusal := vecFlag uremFlag d a b s

/-- IADDS (R97). -/
def execIadds (d a b : VReg) (s : State) : Host.Outcome State Fault Refusal := vecFlag (fun x y => clampInt (x.toInt + y.toInt)) d a b s

/-- ISUBS (R97). -/
def execIsubs (d a b : VReg) (s : State) : Host.Outcome State Fault Refusal := vecFlag (fun x y => clampInt (x.toInt - y.toInt)) d a b s

/-- ICMP (R99). -/
def execIcmp (p : PReg) (a b : VReg) (k : ICc) (s : State) : Host.Outcome State Fault Refusal :=
  lanePred s [a, b] fun x => x.pred p (icmp k (x.arg 0) (x.arg 1)) 0

/-- pD := Op(pA, pB) (R117). -/
def predOp (op : Bool → Bool → Bool) (d a b : PReg) (s : State) : Host.Outcome State Fault Refusal :=
  lanePred s [] fun x => x.pred d (op (pred x.fibre a) (pred x.fibre b)) 0

/-- PAND (R117). -/
def execPand (d a b : PReg) (s : State) : Host.Outcome State Fault Refusal := predOp (· && ·) d a b s

/-- POR (R117). -/
def execPor (d a b : PReg) (s : State) : Host.Outcome State Fault Refusal := predOp (· || ·) d a b s

/-- PXOR (R117). -/
def execPxor (d a b : PReg) (s : State) : Host.Outcome State Fault Refusal := predOp (· ^^ ·) d a b s

/-- PANDN (R117). -/
def execPandn (d a b : PReg) (s : State) : Host.Outcome State Fault Refusal := predOp (fun x y => x && !y) d a b s

/-- PNOT (R117). -/
def execPnot (d a : PReg) (s : State) : Host.Outcome State Fault Refusal :=
  lanePred s [] fun x => x.pred d (!pred x.fibre a) 0

/-- PRDW (R117). -/
def execPrdw (d : VReg) (s : State) : Host.Outcome State Fault Refusal :=
  laneWord s [] d fun x => x.reg (predWord x.fibre.preds)

/-- PWRW (R117). -/
def execPwrw (a : VReg) (s : State) : Host.Outcome State Fault Refusal :=
  lanePred s [a] fun x =>
    { regs := [], preds := (List.range 7).map fun k => (BitVec.ofNat 3 k, (x.arg 0).getLsbD k), conds := 0 }

/-- SEL (R118). -/
def execSel (d a b : VReg) (p : PReg) (s : State) : Host.Outcome State Fault Refusal :=
  laneWord s [a, b] d fun x => x.reg (if pred x.fibre p then x.arg 0 else x.arg 1)

end Sys2Proof.Machine
end

