-- ==== Sys2Proof/Machine/Plot.lean ====
section
/-! DEFINITION. Plot units: PLOT, the plot sequencers, and the threads (14_plot_units R311 to R317, 03_opcode_map R56). -/

namespace Sys2Proof.Machine

/-! ## The plot subset -/

/-- A V-pipe word of the plot subset, run by its own meaning (R312). -/
def plotVector (i : Instr) (s : State) : Option (Host.Outcome State Fault Refusal) :=
  match i with
  | .iadd d a b => some (execIadd d a b s)
  | .isub d a b => some (execIsub d a b s)
  | .imul d a b => some (execImul d a b s)
  | .imulh d a b => some (execImulh d a b s)
  | .imulhu d a b => some (execImulhu d a b s)
  | .iand d a b => some (execIand d a b s)
  | .ior d a b => some (execIor d a b s)
  | .ixor d a b => some (execIxor d a b s)
  | .andn d a b => some (execAndn d a b s)
  | .shl d a b => some (execShl d a b s)
  | .shr d a b => some (execShr d a b s)
  | .sra d a b => some (execSra d a b s)
  | .imin d a b => some (execImin d a b s)
  | .imax d a b => some (execImax d a b s)
  | .iminu d a b => some (execIminu d a b s)
  | .imaxu d a b => some (execImaxu d a b s)
  | .bfe d a b => some (execBfe d a b s)
  | .bfeu d a b => some (execBfeu d a b s)
  | .bfi d a b => some (execBfi d a b s)
  | .imad d a b => some (execImad d a b s)
  | .idiv d a b => some (execIdiv d a b s)
  | .idivu d a b => some (execIdivu d a b s)
  | .irem d a b => some (execIrem d a b s)
  | .iremu d a b => some (execIremu d a b s)
  | .iadds d a b => some (execIadds d a b s)
  | .isubs d a b => some (execIsubs d a b s)
  | .iaddi d a i => some (execIaddi d a i s)
  | .andi d a i => some (execAndi d a i s)
  | .ori d a i => some (execOri d a i s)
  | .xori d a i => some (execXori d a i s)
  | .shli d a i => some (execShli d a i s)
  | .shri d a i => some (execShri d a i s)
  | .srai d a i => some (execSrai d a i s)
  | .movi d i => some (execMovi d i s)
  | .iabs d a => some (execIabs d a s)
  | .ineg d a => some (execIneg d a s)
  | .inot d a => some (execInot d a s)
  | .popc d a => some (execPopc d a s)
  | .clz d a => some (execClz d a s)
  | .brev d a => some (execBrev d a s)
  | .fabs d a => some (execFabs d a s)
  | .fneg d a => some (execFneg d a s)
  | .fclass d a => some (execFclass d a s)
  | .fsat d a => some (execFsat d a s)
  | .fgete d a => some (execFgete d a s)
  | .fgetm d a => some (execFgetm d a s)
  | .icmp p a b k => some (execIcmp p a b k s)
  | .fcmp p a b k => some (execFcmp p a b k s)
  | .fadd d a b r => some (execFadd d a b r s)
  | .fsub d a b r => some (execFsub d a b r s)
  | .fmul d a b r => some (execFmul d a b r s)
  | .ffma d a b r => some (execFfma d a b r s)
  | .frnd d a x r => some (execFrnd d a x r s)
  | .cvt d a e f r t => some (execCvt d a e f r t s)
  | _ => none

/-- A word of the S pipe in the plot subset (03_opcode_map R51). -/
def plotControl : Instr → Bool
  | .nop => true
  | .halt => true
  | .bra _ => true
  | .br _ _ _ => true
  | .brall _ _ _ => true
  | .brany _ _ _ => true
  | _ => false

/-- A memory word in the form of the plot form table, for pixels of `p` bytes (R312). -/
def plotMemory (p : Nat) : Instr → Bool
  | .ld d _ sb w q g x m =>
    sb == 0 && !q && g == .blk && !m && (!x || w == .w8 || w == .w16) && widthBytes w == p && (w != .w64 || d.toNat % 2 == 0)
  | .st d _ sb w q g m => sb == 0 && !q && g == .blk && !m && widthBytes w == p && (w != .w64 || d.toNat % 2 == 0)
  | .atom _ _ sb w _ _ => sb == 0 && w == .w32 && p == 4
  | .barv g a => g && a.toNat % 2 == 0
  | _ => false

/-- The vector registers that a word names in a plot thread; BARV.g names a pair (R312). -/
def plotRegs (i : Instr) : List Nat :=
  match i with
  | .barv _ a => [a.toNat, a.toNat + 1]
  | _ => vReads i ++ (destsOf i).filter fun d => d < 128

/-- A word is in the plot subset: C = 0, one of the encodings, in its form, with registers v0 to v31 (R312, 03_opcode_map R56). -/
def plotWordOk (s : State) (p w : Nat) : Bool :=
  !bitAt w 31 &&
    (match decode w with
      | .ok i => (plotControl i || plotMemory p i || (plotVector i s).isSome) && (plotRegs i).all fun v => v < 32
      | .error _ => false)

/-! ## PLOT -/

/-- The fields of a PLOT descriptor keep their limits; a program address has a row of its own among the checks (R314, R315, log 40). -/
def plotOk (s : State) (ctx : Nat) (x : List Word) : Bool :=
  let w := rw x 2
  let e := steOf s ctx (rw x 3 % 2 ^ 12)
  let cw := rw x 5 % 2 ^ 16
  let ch := rw x 5 / 2 ^ 16
  decide (1 ≤ w % 2 ^ 9) && decide (w % 2 ^ 9 ≤ 256) && bits w 14 13 != 0 && bits w 31 15 == 0 && rw x 3 / 2 ^ 12 == 0 && cw != 0 && ch != 0 &&
    rd x 6 % 16 == 0 && ((x.drop 20).all fun y => y == 0) &&
    (!e.valid || (decide (rw x 4 % 2 ^ 16 + cw ≤ (e.width + 3) / 4) && decide (rw x 4 / 2 ^ 16 + ch ≤ (e.height + 3) / 4)))

/-- What PLOT reads: the descriptor and the program. -/
structure PlotData where
  desc : List Word
  words : List Word
deriving DecidableEq, Repr

/-- The reads and checks of PLOT, the lowest trap code first (R315). -/
def readPlot (s : State) (core ctx : Nat) (level : Level) (va : Nat) : Except RecFail PlotData :=
  match alignedWords s core ctx level va 32 24 with
  | .error e => .error e
  | .ok x =>
    let e := steOf s ctx (rw x 3 % 2 ^ 12)
    let p := alignedWords s core ctx level (rd x 0) 4 (rw x 2 % 2 ^ 9)
    let fails := (if plotOk s ctx x then [] else [primFail 0x01 0 0]) ++ failOf p ++
      (if e.valid && e.w0.getLsbD 2 then [primFail 0x14 0 0x100] else []) ++ (if e.valid then [] else [primFail 0x1B 0 0])
    match least RecFail.cause fails with
    | some f => .error f
    | none => .ok { desc := x, words := gotWords p }

/-- The bytes that PLOT reads: its descriptor and its program (R315). -/
def plotReads (s : State) (core ctx : Nat) (level : Level) (va : Nat) : List (Nat × Nat) :=
  (va, 96) :: match alignedWords s core ctx level va 32 24 with
    | .ok x => [(rd x 0, 4 * (rw x 2 % 2 ^ 9))]
    | .error _ => []

/-- The first word of a program that is outside the subset, with its place (03_opcode_map R56). -/
def firstRejected (s : State) (p : Nat) (ws : List Word) : Option (Nat × Word) :=
  ((List.range ws.length).zip ws).find? fun q => !plotWordOk s p q.2.toNat

/-- The stacks of a PLOT (R314). -/
def plotStacks (x : List Word) : List Nat := [0, 1].filter fun t => bitAt (rw x 2) (13 + t)

/-- A PLOT sent to the sequencers of its stacks (R315). -/
def submitPlot (s : State) (k : Nat) (w : Wave) (ctx va : Nat) (d : PlotData) : State :=
  let x := d.desc
  let id := s.base.nextPlot
  let p : Plot :=
    { ctx := ctx, wave := k, level := w.level, va := va, words := d.words, threads := bits (rw x 2) 12 9 + 1, onStacks := plotStacks x,
      ste := rw x 3 % 2 ^ 12, cx0 := rw x 4 % 2 ^ 16, cy0 := rw x 4 / 2 ^ 16, w := rw x 5 % 2 ^ 16, h := rw x 5 / 2 ^ 16, desc := x,
      barrier := rd x 6, accepted := [], units := [], started := [], conds := 0, faults := 0, fault := none }
  { s with base := { s.base with plots := s.base.plots.put id p, nextPlot := id + 1 } }.posts ((plotStacks x).map fun t => .plotAccept id t)

/-- PLOT: its descriptor and its program are read and checked, and it is a release of the wave's earlier accesses; the wave then waits
until each sequencer has accepted it (R314, R315, R317, 03_opcode_map R56). -/
def execPlot (a : SReg) (s : State) : Host.Outcome State Fault Refusal :=
  runWord s fun k r w =>
    let ctx := ctxOf s r
    let va := (spair r a.toNat).toNat
    let reads := plotReads s (coreOf s r) ctx r.level va
    if !readsOpen s r reads then .hold
    else
      match readPlot s (coreOf s r) ctx r.level va with
      | .error e => .trap (mkTrap e.cause (batch r) e.addr e.info)
      | .ok d =>
        match firstRejected s (steOf s ctx (rw d.desc 3 % 2 ^ 12)).p d.words with
        | some (i, x) => .trap (mkTrap 0x03 (batch r) ((rd d.desc 0 + 4 * i) % 2 ^ 64) x.toNat)
        | none =>
          if !releaseReady s r then .hold
          else
            let s1 := noteReads (s.setWave k w) k r reads
            .ok (submitPlot { s1 with mem := releaseBytes s1.mem (coreOf s r) } k r ctx va d)

/-! ## The sequencers -/

/-- The cells of a PLOT's region on a stack. -/
def plotCells (p : Plot) (stack : Nat) : List (Nat × Nat) :=
  (List.range p.h).flatMap fun j => ((List.range p.w).map fun i => (p.cx0 + i, p.cy0 + j)).filter fun c => cellStack c.1 c.2 == stack

/-- A cell of a region stands in its bank. -/
def plotResident (s : State) (p : Plot) (c : Nat × Nat) : Bool :=
  ((cellAt s p.ctx p.ste c.1 c.2).map fun x => !x.spilled).getD false

/-- The region cells, of both stacks, that are still to be allocated or fetched back (R315). -/
def plotMissing (s : State) (p : Plot) : List (Nat × Nat) := (plotCells p 0 ++ plotCells p 1).filter fun c => !plotResident s p c

/-- A cell of a region allocated with the clear value, or fetched back, when its pool has room (R286, R315). -/
def bringCell (s : State) (p : Plot) (c : Nat × Nat) : State :=
  if !poolRoom s (cellStack c.1 c.2) (16 * (steOf s p.ctx p.ste).p) then s
  else
    match cellAt s p.ctx p.ste c.1 c.2 with
    | some x => if x.spilled then putCell s { x with spilled := false, used := s.tick } else s
    | none => cellWrite s p.ctx p.ste c.1 c.2 (clearData (steOf s p.ctx p.ste)) [] []

/-- The units of a stack that own a bank of a region cell (R283, R315). -/
def plotUnits (p : Plot) (stack : Nat) : List (Nat × Nat) :=
  ((plotCells p stack).map fun c => (stack, bankOf p.ste c.1 c.2 / 32)).eraseDups

/-- A sequencer has a PLOT to accept, or a cell of it to bring into its bank. -/
def plotAcceptDue (s : State) (p : Plot) (stack : Nat) : Bool :=
  p.onStacks.contains stack &&
    ((p.accepted.look stack).isNone ||
      (plotMissing s p).any fun c => poolRoom s (cellStack c.1 c.2) (16 * (steOf s p.ctx p.ste).p))

/-- Poison of a cell of a region that comes back from its spill area (20_errors R438). -/
def plotPoison (s : State) (p : Plot) : Option Nat :=
  (plotMissing s p).findSome? fun c => (cellAt s p.ctx p.ste c.1 c.2).bind fun x => spilledPoison s x.spilled x.poisoned

/-- PLOT_ACCEPT: a stack's sequencer accepts a PLOT and has the cells of its region, on both stacks, brought into their banks, as far as the
pools have room; it goes on with the rest later (R315). -/
def execPlotAccept (id stack : Nat) (s : State) : Host.Outcome State Fault Refusal :=
  runEvent s (.plotAccept id stack) (((s.base.plots.look id).map fun p => plotAcceptDue s p stack).getD false) fun s =>
    match s.base.plots.look id with
    | none => s
    | some p =>
      let p1 := if (p.accepted.look stack).isSome then p
        else { p with accepted := p.accepted.put stack s.tick, units := p.units ++ plotUnits p stack }
      let s1 := (plotMissing s p1).foldl (fun s c => bringCell s p1 c) { s with base := { s.base with plots := s.base.plots.put id p1 } }
      guardFrame s p.ctx stack (plotPoison s p) (if (plotMissing s1 p1).isEmpty then s1 else s1.post (.plotAccept id stack))

/-- The PLOT that a unit starts next: the first accepted one that has not started there, all of whose cells are in their banks (R315). -/
def unitPlot (s : State) (stack unit : Nat) : Option (Nat × Plot) :=
  (least (fun q => q.2.accepted.get stack 0)
    (s.base.plots.filter fun q => (q.2.accepted.look stack).isSome && q.2.units.contains (stack, unit) && !q.2.started.contains (stack, unit))).filter
    fun q => (plotMissing s q.2).isEmpty

/-- The registers with which a thread starts (R315). -/
def threadRegs (p : Plot) (stack unit t : Nat) : Map Word :=
  ([(0, unit), (1, t), (2, stack), (3, p.threads), (4, p.ste), (5, rw p.desc 4), (6, rw p.desc 5)] ++
    (List.range 8).map fun i => (8 + i, rw p.desc (8 + i))).filterMap fun (q : Nat × Nat) => if q.2 = 0 then none else some (q.1, BitVec.ofNat 32 q.2)

/-- The place of a thread among the threads. -/
def threadKey (stack unit t : Nat) : Nat := 2048 * stack + 16 * unit + t

/-- The place of a unit among the units. -/
def unitKey (stack unit : Nat) : Nat := 128 * stack + unit

/-- The threads of a unit started for a PLOT (R315). -/
def startUnit (s : State) (stack unit id : Nat) (p : Plot) : State :=
  let threads := (List.range p.threads).foldl (fun m t =>
    m.put (threadKey stack unit t)
      { plot := id, v := threadRegs p stack unit t, p := 0, pc := { packet := 0, slot := 0 }, issued := 0, halted := false, taint := [] })
    s.base.threads
  { s with base := { s.base with
      threads := threads
      units := s.base.units.put (unitKey stack unit) id
      plots := s.base.plots.put id { p with started := (stack, unit) :: p.started } } }

/-- PLOT_UNIT_START (R315). -/
def execPlotUnitStart (stack unit : Nat) (s : State) : Host.Outcome State Fault Refusal :=
  runEvent s (.plotUnitStart stack unit) ((s.base.units.look (unitKey stack unit)).isNone && (unitPlot s stack unit).isSome) fun s =>
    match unitPlot s stack unit with
    | some (id, p) => startUnit s stack unit id p
    | none => s

/-! ## Threads -/

/-- A thread changed, if it exists. -/
def mapThread (s : State) (key : Nat) (f : Thread → Thread) : State :=
  { s with base := { s.base with threads := s.base.threads.modify key f } }

/-- A unit whose threads have all halted is idle again (R315). -/
def idleUnit (s : State) (stack unit : Nat) : State :=
  let mine (key : Nat) : Bool := key / 16 == unitKey stack unit
  if s.base.threads.all fun t => !mine t.1 || t.2.halted then
    { s with base := { s.base with
        units := s.base.units.del (unitKey stack unit)
        threads := s.base.threads.filter fun t => !mine t.1 } }
  else s

/-- A thread halts (R312, R316). -/
def haltThread (s : State) (stack unit t : Nat) : State :=
  idleUnit (mapThread s (threadKey stack unit t) fun x => { x with halted := true }) stack unit

/-- The first status word of a fault (R316). -/
def faultWord (cause stack unit t : Nat) (pc : Pc) : Word :=
  BitVec.ofNat 32 (cause + 2 ^ 8 * unit + 2 ^ 15 * stack + 2 ^ 16 * t + 2 ^ 20 * pc.packet + 2 ^ 27 * pc.slot)

/-- A thread faults: it halts with no effect from the word, and its PLOT counts the fault and keeps the first (R316). -/
def faultThread (s : State) (stack unit t : Nat) (x : Thread) (cause : Nat) (addr : DWord) : State :=
  let note (p : Plot) : Plot :=
    { p with faults := min (p.faults + 1) 65535, fault := some (p.fault.getD (faultWord cause stack unit t x.pc, addr)) }
  haltThread { s with base := { s.base with plots := s.base.plots.modify x.plot note } } stack unit t

/-- The address of a fault that has none is free (R316, log 41). -/
def noAddress (s : State) : DWord := (Config.freeWord s.tick 1).zeroExtend 64 <<< 32 ||| (Config.freeWord s.tick 0).zeroExtend 64

/-- The word of a thread's PC; the last packet is filled up with NOP (R312). -/
def threadWord (p : Plot) (pc : Pc) : Nat := (nth p.words (3 * pc.packet + pc.slot)).toNat

/-- The packets of a program. -/
def plotPackets (p : Plot) : Nat := (p.words.length + 2) / 3

/-- A thread goes on to the next word; past the program's last word it halts (R312). -/
def nextWord (s : State) (stack unit t : Nat) (p : Plot) (x : Thread) : State :=
  let pc : Pc := if x.pc.slot = 2 then { packet := x.pc.packet + 1, slot := 0 } else { packet := x.pc.packet, slot := x.pc.slot + 1 }
  let s1 := mapThread s (threadKey stack unit t) fun _ => { x with pc := pc, issued := x.issued + 1 }
  if plotPackets p ≤ pc.packet then haltThread s1 stack unit t else s1

/-- A branch taken by a thread: out of the program it faults with cause 0x01 (R312, R316). -/
def threadJump (s : State) (stack unit t : Nat) (p : Plot) (x : Thread) (d : BitVec 8) : State :=
  let target : Int := (x.pc.packet : Int) + d.toInt
  if target < 0 ∨ (plotPackets p : Int) ≤ target then faultThread s stack unit t { x with issued := x.issued + 1 } 0x01 (noAddress s)
  else mapThread s (threadKey stack unit t) fun _ => { x with pc := { packet := target.toNat, slot := 0 }, issued := x.issued + 1 }

/-- A predicate of a thread: p7 reads true (R311). -/
def threadPred (x : Thread) (p : PReg) (n : Bool) : Bool := (if p = 7 then true else x.p.getLsbD p.toNat) ^^ n

/-- A wave of one fibre with the registers of a thread, for the meanings of the vector words. -/
def threadWave (x : Thread) : Wave :=
  { freshWave 0 0 (BitVec.ofNat 32 (4 * 32 + 512 * 32)) .user 0 [] [(0, { freshFibre 0 0 with preds := x.p })] with vregs := x.v }

/-- What a word leaves of poison in a thread's registers (20_errors R438). -/
def nextTaint (x : Thread) (i : Instr) : List Nat :=
  let rest := x.taint.filter fun v => !(destsOf i).contains v
  if (vReads i).any x.taint.contains then ((destsOf i).filter fun v => v < 32) ++ rest else rest

/-- A vector word in a thread: its registers, its predicates and the conditions raised, by the word's own meaning on a wave of one
fibre (R312, R313). -/
def threadVector (s : State) (x : Thread) (i : Instr) : Option (Thread × BitVec 7) :=
  let s1 := { s with
    work := { s.work with waves := [(0, threadWave x)] }
    issue := { Issue.idle with wave := some 0, pre := some (threadWave x) } }
  match plotVector i s1 with
  | some (.next s2) =>
    (s2.wave 0).map fun w =>
      ({ x with v := w.vregs, p := ((w.fibres.look 0).map Fibre.preds).getD 0, taint := nextTaint x i }, allConds s2.issue.conds)
  | _ => none

/-- A register of a thread. -/
def threadReg (x : Thread) (v : Nat) : Word := x.v.get v 0

/-- A pair of registers of a thread. -/
def threadPair (x : Thread) (v : Nat) : DWord := (threadReg x (v + 1)).zeroExtend 64 <<< 32 ||| (threadReg x v).zeroExtend 64

/-- A thread's access of a pixel lies in the region, in a bank that its unit serves (R316). -/
def threadReaches (p : Plot) (stack unit px py : Nat) : Bool :=
  let cx := px / 4
  let cy := py / 4
  decide (p.cx0 ≤ cx) && decide (cx < p.cx0 + p.w) && decide (p.cy0 ≤ cy) && decide (cy < p.cy0 + p.h) && cellStack cx cy == stack &&
    bankOf p.ste cx cy / 32 == unit

/-- What a thread writes to a pixel, with the poison of its registers (20_errors R438). -/
def threadStore (s : State) (p : Plot) (stack px py v : Nat) (poison : Bool) : State :=
  let s1 := pixelWrite s p.ctx p.ste px py v poison
  if poison then postPoison s1 p.ctx stack p.ste else s1

/-- A loaded pixel as registers of a thread (R200, R312). -/
def loadedWords (p : Nat) (sx : Bool) (v : Nat) : List Word :=
  if p = 8 then [BitVec.ofNat 32 v, BitVec.ofNat 32 (v / 2 ^ 32)]
  else [if sx then wordOfInt (signed (8 * p) v) else BitVec.ofNat 32 v]

/-- A thread with registers written from `d` on, poisoned or not. -/
def threadPut (x : Thread) (d : Nat) (ws : List Word) (poison : Bool) : Thread :=
  let regs := (List.range ws.length).map (d + ·)
  let kept := x.taint.filter fun v => !regs.contains v
  { x with v := (regs.zip ws).foldl (fun m q => m.store q.1 q.2 0) x.v, taint := if poison then regs ++ kept else kept }

/-- A load, store or atomic of a thread at its pixel (R312, R316, R317, R205). -/
def threadMemory (s : State) (stack unit t : Nat) (p : Plot) (x : Thread) (i : Instr) (a : VReg) : State :=
  let xy := threadReg x a.toNat
  let px := xy.toNat % 2 ^ 16
  let py := xy.toNat / 2 ^ 16
  if !threadReaches p stack unit px py then faultThread s stack unit t { x with issued := x.issued + 1 } 0x1A (xy.zeroExtend 64)
  else
    let old := pixelRead s p.ctx p.ste px py
    let bad := pixelPoisoned s p.ctx p.ste px py
    match i with
    | .ld d _ _ w _ _ sx _ => nextWord (touchCell s p.ctx p.ste (px / 4) (py / 4)) stack unit t p (threadPut x d.toNat (loadedWords (widthBytes w) sx old) bad)
    | .st d _ _ w _ _ _ =>
      let v := if w = .w64 then (threadPair x d.toNat).toNat else (threadReg x d.toNat).toNat
      nextWord (threadStore s p stack px py v ((runOf d.toNat (widthRegs w)).any x.taint.contains)) stack unit t p x
    | .atom d _ _ w o ret =>
      let e := if o = .cas then (threadReg x (d.toNat + 1)).toNat else 0
      let new := atomNew o 32 old (threadReg x d.toNat).toNat e
      let poison := bad || (runOf d.toNat (atomRegs o w)).any x.taint.contains
      nextWord (threadStore s p stack px py new poison) stack unit t p
        (if ret then threadPut x d.toNat [BitVec.ofNat 32 old] bad else x)
    | _ => s

/-- BARV.g of a thread: one arrival at an object of device memory (R312, R316). An address that is no multiple of 16 faults as it
does in a wave (log 42). -/
def threadArrive (s : State) (stack unit t : Nat) (p : Plot) (x : Thread) (a : SReg) : State :=
  let va := (threadPair x a.toNat).toNat
  let y := { x with issued := x.issued + 1 }
  if va % 16 != 0 then faultThread s stack unit t y 0x08 (BitVec.ofNat 64 va)
  else
    match arrivalFault s p.ctx p.level va with
    | some c => faultThread s stack unit t y c (BitVec.ofNat 64 va)
    | none =>
      let r := updateObj s (.dev p.ctx va) .arrive
      if r.2 then faultThread r.1 stack unit t y 0x20 (BitVec.ofNat 64 va) else nextWord r.1 stack unit t p x

/-- One word of a thread (R311 to R313, R316). -/
def threadStep (s : State) (stack unit t : Nat) (p : Plot) (x : Thread) : State :=
  match decode (threadWord p x.pc) with
  | .error _ => s
  | .ok i =>
    match i with
    | .nop => nextWord s stack unit t p x
    | .halt => haltThread (mapThread s (threadKey stack unit t) fun y => { y with issued := y.issued + 1 }) stack unit t
    | .bra d => threadJump s stack unit t p x d
    | .br q n d => if threadPred x q n then threadJump s stack unit t p x d else nextWord s stack unit t p x
    | .brall q n d => if threadPred x q n then threadJump s stack unit t p x d else nextWord s stack unit t p x
    | .brany q n d => if threadPred x q n then threadJump s stack unit t p x d else nextWord s stack unit t p x
    | .ld _ a _ _ _ _ _ _ => threadMemory s stack unit t p x i a
    | .st _ a _ _ _ _ _ => threadMemory s stack unit t p x i a
    | .atom _ a _ _ _ _ => threadMemory s stack unit t p x i a
    | .barv _ a => threadArrive s stack unit t p x a
    | _ =>
      match threadVector s x i with
      | some (y, c) =>
        nextWord { s with base := { s.base with plots := s.base.plots.modify x.plot fun p => { p with conds := p.conds ||| c } } } stack unit t p y
      | none => s

/-- A thread that has not halted, with its PLOT. -/
def liveThread (s : State) (stack unit t : Nat) : Option (Thread × Plot) :=
  ((s.base.threads.look (threadKey stack unit t)).filter fun x => !x.halted).bind fun x => (s.base.plots.look x.plot).map fun p => (x, p)

/-- The address of the object at which a thread's next word arrives, while that arrival must wait. -/
def threadWaits (s : State) (p : Plot) (x : Thread) : Option Nat :=
  match decode (threadWord p x.pc) with
  | .ok (.barv _ a) =>
    let va := (threadPair x a.toNat).toNat
    if (arrivalFault s p.ctx p.level va).isNone && !arrivalFree s p.ctx va then some va else none
  | _ => none

/-- The bank of the pixel that a thread's next word names takes operations (20_errors R441). -/
def threadOpen (s : State) (stack : Nat) (p : Plot) (x : Thread) : Bool :=
  let at_ (a : VReg) : Bool :=
    let xy := (threadReg x a.toNat).toNat
    bankOpen s stack (bankOf p.ste (xy % 2 ^ 16 / 4) (xy / 2 ^ 18))
  match decode (threadWord p x.pc) with
  | .ok (.ld _ a _ _ _ _ _ _) => at_ a
  | .ok (.st _ a _ _ _ _ _) => at_ a
  | .ok (.atom _ a _ _ _ _) => at_ a
  | _ => true

/-- PLOT_THREAD_ISSUE (R311, R316). -/
def execPlotThreadIssue (stack unit thread : Nat) (s : State) : Host.Outcome State Fault Refusal :=
  runEvent s (.plotThreadIssue stack unit thread)
    (((liveThread s stack unit thread).map fun q => decide (q.1.issued < 2 ^ 26) && (threadWaits s q.2 q.1).isNone && threadOpen s stack q.2 q.1).getD false) fun s =>
      match liveThread s stack unit thread with
      | some (x, p) => threadStep s stack unit thread p x
      | none => s

/-- PLOT_WORD_LIMIT: a thread that has issued 2^26 words faults (R316). -/
def execPlotWordLimit (stack unit thread : Nat) (s : State) : Host.Outcome State Fault Refusal :=
  runEvent s (.plotWordLimit stack unit thread) (((liveThread s stack unit thread).map fun q => decide (2 ^ 26 ≤ q.1.issued)).getD false) fun s =>
    match liveThread s stack unit thread with
    | some (x, _) => faultThread s stack unit thread x 0 (noAddress s)
    | none => s

/-! ## The end of a PLOT -/

/-- Every thread of a PLOT has halted on its stacks (R316). -/
def plotOver (s : State) (id : Nat) (p : Plot) : Bool :=
  p.onStacks.all (fun t => (p.accepted.look t).isSome) && p.units.all p.started.contains && s.base.units.all fun u => u.2 != id

/-- The status words of a PLOT (R316). -/
def plotStatus (p : Plot) : List (Nat × Nat) :=
  let f := p.fault.getD (0, 0)
  [(0x40, p.conds.toNat + 2 ^ 16 * p.faults), (0x44, f.1.toNat), (0x48, f.2.toNat % 2 ^ 32), (0x4C, f.2.toNat / 2 ^ 32)]

/-- PLOT_COMPLETE: the status is written, and one arrival follows it (R316, R317). A status that cannot be written is lost (log 43). -/
def execPlotComplete (id : Nat) (s : State) : Host.Outcome State Fault Refusal :=
  runEvent s (.plotComplete id) (((s.base.plots.look id).map fun p => plotOver s id p && hwFree s p.ctx (p.va + 0x40) 16).getD false) fun s =>
    match s.base.plots.look id with
    | none => s
    | some p =>
      let s1 := (hwWords s p.ctx p.va (plotStatus p)).getD s
      let s2 := { s1 with base := { s1.base with plots := s1.base.plots.del id } }
      if p.barrier = 0 then s2 else s2.post (.completionArrival p.ctx p.barrier p.va (arrivalSource 2 0 p.level))

end Sys2Proof.Machine
end

