-- ==== Sys2Proof/Machine/Pool.lean ====
section
/-! DEFINITION. The surface pools: what asks for room in them, the evictions, the fetches back of cells, and the waits for room
(13_raster R284 to R286, 14_plot_units R315, R323). -/

namespace Sys2Proof.Machine

/-! ## What asks for a cell -/

/-- An access that has reached a cell: a write also asks for a cell that is not allocated. -/
structure CellAsk where
  ctx : Nat
  ste : Nat
  cx : Nat
  cy : Nat
  write : Bool
deriving DecidableEq, Repr

/-- The asks of a run of places. -/
def runAsks (ctx : Nat) (write : Bool) (q : Space × Nat × Nat) : List CellAsk :=
  match q.1 with
  | .surf e => (runCells q.2.1 q.2.2).map fun c => { ctx := ctx, ste := e, cx := c.1, cy := c.2, write := write }
  | _ => []

/-- An access stores. -/
def Sub.writes (x : Sub) : Bool :=
  match x.acc with
  | .store _ => true
  | _ => false

/-- SRFLD and SRFST accesses that their wave's order allows now (R307). -/
def waveAsks (s : State) : List CellAsk :=
  s.work.waves.flatMap fun p => (p.2.ops.filter fun o => o.kind != .fexp && inOrder p.2 o).flatMap fun o =>
    ((List.range o.subs.length).zip o.subs).flatMap fun x =>
      if x.2.done || (lastMeeting p.2 o x.1 x.2).isSome then [] else runAsks (ctxOf s p.2) x.2.writes (x.2.space, x.2.pa, 8)

/-- The view of the operation at the head of a block's tile queue, and the destinations of those that complete (06_matrix R125, R141). -/
def tileAsks (s : State) : List CellAsk :=
  s.work.blocks.flatMap fun p =>
    (((nextTileOp p.2).toList.flatMap TileOp.reads).flatMap (runAsks p.2.ctx false)) ++
      (p.2.tiles.filter TileOp.consumed).flatMap fun t => t.writes.flatMap (runAsks p.2.ctx true)

/-- The exports at their banks whose turn has come: at the depth entry, then at the colour entry (R299, R301). -/
def exportAsks (s : State) : List CellAsk :=
  s.base.exports.flatMap fun q =>
    let x := q.2
    let at_ (ctx e : Nat) (write : Bool) : CellAsk := { ctx := ctx, ste := e, cx := x.frag.px / 4, cy := x.frag.py / 4, write := write }
    match s.base.batches.look x.frag.batch with
    | none => []
    | some b =>
      if !x.entered || x.discard || !exportOrdered s q.1 x then []
      else
        (match b.depth with
          | some e => if !x.depthDone && turnOfPixel s x.frag true then [at_ b.ctx e (exportPasses s b.ctx e x)] else []
          | none => []) ++
        (match b.colour with
          | some e =>
            if !x.colourDone && (b.depth.isNone || x.verdict == some true) && turnOfPixel s x.frag false then [at_ b.ctx e true] else []
          | none => [])

/-- The cells of the copies between a surface and memory that are under way (11_async_copies R235). -/
def copyAsks (s : State) : List CellAsk :=
  s.work.copies.flatMap fun p =>
    if p.2.form = 5 ∧ p.2.started then
      (List.range (p.2.word 2 / 2 ^ 16)).flatMap fun j => (List.range (p.2.word 2 % 2 ^ 16)).map fun i =>
        { ctx := copyCtx s p.2, ste := p.2.word 0 % 2 ^ 12, cx := p.2.word 1 % 2 ^ 16 + i, cy := p.2.word 1 / 2 ^ 16 + j, write := bitAt (p.2.word 3) 0 }
    else []

/-- The region cells of the PLOTs that a sequencer has accepted (14_plot_units R315). -/
def plotAsks (s : State) : List CellAsk :=
  s.base.plots.flatMap fun p =>
    if p.2.accepted.isEmpty then []
    else (plotCells p.2 0 ++ plotCells p.2 1).map fun c => { ctx := p.2.ctx, ste := p.2.ste, cx := c.1, cy := c.2, write := true }

/-- All that asks for a cell now. -/
def cellAsks (s : State) : List CellAsk := waveAsks s ++ tileAsks s ++ exportAsks s ++ copyAsks s ++ plotAsks s

/-- An ask needs room in its pool: for a spilled cell to come back, or for a new cell (R284, R286). -/
def CellAsk.needs (s : State) (q : CellAsk) : Bool := ((cellAt s q.ctx q.ste q.cx q.cy).map Cell.spilled).getD q.write

/-- The bytes that an ask takes from its pool. -/
def CellAsk.size (s : State) (q : CellAsk) : Nat := 16 * (steOf s q.ctx q.ste).p

/-- An ask finds its pool full (R285). -/
def CellAsk.blocked (s : State) (q : CellAsk) : Bool := q.needs s && !poolRoom s (cellStack q.cx q.cy) (q.size s)

/-! ## Evictions and fetches back -/

/-- An allocation on a stack, of a cell or for a block that returns, finds the pool full (R285, R286, 14_plot_units R323). -/
def poolFull (s : State) (stack : Nat) : Bool :=
  ((cellAsks s).any fun q => cellStack q.cx q.cy == stack && q.blocked s) ||
    (!poolRoom s stack 16384 && s.ctxs.any fun c => fetchWaits s c.1 stack)

/-- CELL_EVICTION: the least recently used cell of a stack goes to its spill area, for an allocation that finds the pool full (R285). The format
of the area is not architectural: the cell keeps its pixels in the model, and the memory bytes of the area stay as they are (DESIGN CHOICE,
log 103). -/
def execCellEviction (stack : Nat) (s : State) : Host.Outcome State Fault Refusal :=
  runEvent s (.cellEviction stack) ((victimCell s stack).isSome && poolFull s stack) fun s =>
    match victimCell s stack with
    | some c => putCell s { c with spilled := true }
    | none => s

/-- CELL_FETCH_BACK: a spilled cell returns before it is accessed (R286); poison found in the spill area stops its context (20_errors R438). -/
def execCellFetchBack (ctx ste cx cy : Nat) (s : State) : Host.Outcome State Fault Refusal :=
  runEvent s (.cellFetchBack ctx ste cx cy)
    (((cellAt s ctx ste cx cy).map Cell.spilled).getD false && poolRoom s (cellStack cx cy) (16 * (steOf s ctx ste).p)) fun s =>
      match cellAt s ctx ste cx cy with
      | some c =>
        guardFrame s ctx (cellStack cx cy) (spilledPoison s c.spilled c.poisoned) (putCell s { c with spilled := false, used := s.tick })
      | none => s

/-! ## Waits for room -/

/-- A request of the block store that waits for room, and nothing can be evicted for it (14_plot_units R323). -/
def bkaStarved (s : State) : List (Nat × Nat × Nat × Nat) :=
  s.pending.filterMap fun e => match e with
    | .blockStoreRequest r =>
      (s.wave r.wave).bind fun w =>
        let stack := stackOf (coreOf s w)
        if r.kind = 1 ∧ bsRoom s w r = false ∧ (victimBlock s (ctxOf s w) stack).isNone then
          some (ctxOf s w, 2 ^ 32 - 1, stack, r.seq.toNat + 2 ^ 32 * r.layer.toNat)
        else none
    | _ => none

/-- The allocations that wait for room while nothing can be evicted: context, entry and cell, or, with entry 2^32 − 1, the stack and the key of a
block (R286, 14_plot_units R323). No cell waits while both pools have room for the largest. -/
def starved (s : State) : List (Nat × Nat × Nat × Nat) :=
  (if poolRoom s 0 128 && poolRoom s 1 128 then []
    else ((cellAsks s).filter fun q => q.blocked s && (victimCell s (cellStack q.cx q.cy)).isNone).map fun q => (q.ctx, q.ste, q.cx, q.cy)) ++
    bkaStarved s

/-- The note of one wait. -/
def PoolWait.is (q : PoolWait) (c : Nat × Nat × Nat × Nat) : Bool := q.ctx == c.1 && q.ste == c.2.1 && q.cx == c.2.2.1 && q.cy == c.2.2.2

/-- The note of a wait that goes on, or a new one. -/
def poolWaitOf (s : State) (c : Nat × Nat × Nat × Nat) : PoolWait :=
  (s.base.poolWaits.find? fun q => q.is c).getD
    { ctx := c.1, ste := c.2.1, cx := c.2.2.1, cy := c.2.2.2, since := s.dev.cycles, posted := false }

/-- The waits for room as they stand now, each with the cycle since which it has lasted (R286). -/
def notePoolWaits (s : State) : State :=
  { s with base := { s.base with poolWaits := (starved s).eraseDups.map (poolWaitOf s) } }

/-- A wait of 2^20 cycles whose event has not been posted (R286). -/
def poolWaitDue (s : State) (c : Nat × Nat × Nat × Nat) : Option PoolWait :=
  s.base.poolWaits.find? fun q => q.is c && !q.posted && decide (q.since + 2 ^ 20 ≤ s.dev.cycles)

/-- The stack and the payload of a wait's event: the entry and the cell, or the sequence of a block's key (17_translation R391). -/
def waitEvent (c : Nat × Nat × Nat × Nat) : Nat × List (Nat × Nat) :=
  if c.2.1 = 2 ^ 32 - 1 then (c.2.2.1 % 2, [(8, 2 ^ 32 - 1), (12, c.2.2.2 % 2 ^ 32)])
  else (cellStack c.2.2.1 c.2.2.2, [(8, c.2.1), (12, c.2.2.1 + 2 ^ 16 * c.2.2.2)])

/-- SURFACE_POOL_WAIT: the one event of a wait, of a cell (R286) or, with entry 2^32 − 1, of a block (14_plot_units R323), whose stack and key
the last two arguments hold; the wait goes on. -/
def execSurfacePoolWait (ctx ste cx cy : Nat) (s : State) : Host.Outcome State Fault Refusal :=
  let c := (ctx, ste, cx, cy)
  runEvent s (.surfacePoolWait ctx ste cx cy) (poolWaitDue s c).isSome fun s =>
    postEvent
      { s with base := { s.base with poolWaits := s.base.poolWaits.map fun q => if q.is c then { q with posted := true } else q } }
      ctx (waitEvent c).1 4 (waitEvent c).2

/-- The steps of the surface pools. -/
def poolSteps (s : State) : List Ev :=
  (((cellAsks s).filter fun q => ((cellAt s q.ctx q.ste q.cx q.cy).map Cell.spilled).getD false).map fun q => .cellFetchBack q.ctx q.ste q.cx q.cy) ++
    (s.base.poolWaits.map fun q => .surfacePoolWait q.ctx q.ste q.cx q.cy) ++
    s.ctxs.flatMap fun p => [.blockEviction p.1 0, .blockEviction p.1 1]

end Sys2Proof.Machine
end

