-- ==== Sys2Proof/Machine/Repair.lean ====
section
/-! DEFINITION. Faults and their repair, the surveyor, the remap table, and thermal and power emergencies (20_errors R437 to R446,
16_scheduling R380). -/

namespace Sys2Proof.Machine

/-! ## Clocks -/

/-- The step k of a stack's clock of 62.5 k MHz (16_scheduling R380). -/
def clockOf (s : State) (stack : Nat) : Nat := s.dev.clockK.get stack 32

/-- A stack's clock at a step. -/
def setClock (s : State) (stack k : Nat) : State := { s with dev := { s.dev with clockK := s.dev.clockK.put stack k } }

/-- The arbiter may set a stack's clock to a step: from 1 to 32, no higher than it is while the stack throttles, 1 in a power emergency, and after
one no more than a step higher than it is, until the clock has returned (16_scheduling R380, R446). -/
def clockAllowed (s : State) (stack k : Nat) : Bool :=
  decide (1 ≤ k) && decide (k ≤ 32) && ((s.dev.throttling.look stack).isNone || decide (k ≤ clockOf s stack)) &&
    (if s.dev.emergency then k == 1 else (s.dev.targetK.look stack).isNone || decide (k ≤ clockOf s stack + 1))

/-- An event is a step of a stack's arbiter. -/
def stepsOf (stack : Nat) (e : Ev) : Bool :=
  match e with
  | .powerArbiterStep t _ => t == stack
  | _ => false

/-- The steps of a stack's arbiter in flight dropped; a clock that is returning after an emergency has one in flight, its next (R446). -/
def nextStep (s : State) (stack : Nat) : State :=
  let s1 := { s with pending := s.pending.filter fun e => !stepsOf stack e }
  match s.dev.targetK.look stack with
  | some t => if s.dev.emergency then s1 else s1.post (.powerArbiterStep stack (min t (clockOf s stack + 1)))
  | none => s1

/-- POWER_ARBITER_STEP: no state is lost. A clock that returns after an emergency goes on step by step (16_scheduling R380, R446). -/
def execPowerArbiterStep (stack k : Nat) (s : State) : Host.Outcome State Fault Refusal :=
  runEvent s (.powerArbiterStep stack k) (serving s && !s.dev.contained.contains stack && clockAllowed s stack k) fun s =>
    let s1 := setClock s stack k
    match s.dev.targetK.look stack with
    | none => s1
    | some t =>
      if s.dev.emergency || decide (k < t) then nextStep s1 stack
      else nextStep { s1 with dev := { s1.dev with targetK := s1.dev.targetK.del stack } } stack

/-- A stack's clock one step lower, its next throttle step due 2,000 cycles on (R446). -/
def throttleDown (s : State) (stack : Nat) : State :=
  let s1 := setClock s stack (max 1 (clockOf s stack - 1))
  nextStep { s1 with dev := { s1.dev with throttling := s1.dev.throttling.put stack (s.dev.cycles + 2000) } } stack

/-- TEMPERATURE_ABOVE_LIMIT: the first step at once, and event 11 with the new k (R445, R446). -/
def execTemperatureAboveLimit (stack : Nat) (s : State) : Host.Outcome State Fault Refusal :=
  runEvent s (.temperatureAboveLimit stack)
    (serving s && !s.dev.contained.contains stack && (s.dev.throttling.look stack).isNone) fun s =>
      let s1 := throttleDown s stack
      postAll s1 stack 11 [(8, stack), (12, clockOf s1 stack)]

/-- The next throttle step of a stack is due. -/
def throttleDue (s : State) (stack : Nat) : Bool :=
  match s.dev.throttling.look stack with
  | some c => decide (c ≤ s.dev.cycles)
  | none => false

/-- THROTTLE_STEP: another step down while the sensor reads above the limit; what it reads is free (R446). -/
def execThrottleStep (stack : Nat) (s : State) : Host.Outcome State Fault Refusal :=
  runEvent s (.throttleStep stack) (throttleDue s stack) fun s =>
    if Config.choose s.tick % 2 = 0 then { s with dev := { s.dev with throttling := s.dev.throttling.del stack } } else throttleDown s stack

/-- THERMAL_TRIP at 110 °C (R443, R446). -/
def execThermalTrip (stack : Nat) (s : State) : Host.Outcome State Fault Refusal :=
  runEvent s (.thermalTrip stack) (serving s) fun s => containStack s stack

/-- REGULATOR_FAULT: both stacks drop to k = 1, and event 12 says so (R445, R446). -/
def execRegulatorFault (s : State) : Host.Outcome State Fault Refusal :=
  runEvent s .regulatorFault (serving s) fun s =>
    if s.dev.emergency then s
    else
      let keep (m : Map Nat) (t : Nat) : Map Nat := m.put t (s.dev.targetK.get t (clockOf s t))
      let s1 := setClock (setClock s 0 1) 1 1
      let s2 := { s1 with dev := { s1.dev with emergency := true, targetK := keep (keep [] 0) 1 } }
      postAll (nextStep (nextStep s2 0) 1) 0 12 [(8, 1)]

/-- REGULATOR_FAULT_CLEARED: the clocks return step by step (R446). -/
def execRegulatorFaultCleared (s : State) : Host.Outcome State Fault Refusal :=
  runEvent s .regulatorFaultCleared s.dev.emergency fun s =>
    nextStep (nextStep { s with dev := { s.dev with emergency := false } } 0) 1

/-! ## The remap table -/

/-- The key of a surface row, and of a lane of a vertical bundle, in a remap table. -/
def rowKey (row : Nat) : Nat := 2 * row
/-- The key of a lane. -/
def laneKey (bundle lane : Nat) : Nat := 128 * bundle + 2 * lane + 1

/-- A row or a lane stands in from now on for the spare of a number, in all three copies, which are then read by majority; a table without a
majority contains the stack (R441, R442). -/
def remapTo (s : State) (stack key spare : Nat) : State :=
  match majority (remapOf s stack) with
  | some m => voteRemap (setRemap s stack (m.put key spare)) stack
  | none => containStack s stack

/-- What stands for an entry in copy i of a remap table where its code no longer corrects it: no spare, and in no two copies the same. -/
def lostEntry (i : Nat) : Nat := 2 ^ 64 + i

/-- One of the three copies of a table changed. -/
def changeCopy (t : Map Nat × Map Nat × Map Nat) (i : Nat) (f : Map Nat → Map Nat) : Map Nat × Map Nat × Map Nat :=
  (if i = 0 then f t.1 else t.1, if i = 1 then f t.2.1 else t.2.1, if i = 2 then f t.2.2 else t.2.2)

/-- An entry of a stack's remap table that fails in some of its three copies (R437, R442). -/
def loseEntry (s : State) (stack entry : Nat) (copies : List Nat) : State :=
  let t := copies.foldl (fun t i => changeCopy t i fun m => m.put entry (lostEntry i)) (remapOf s stack)
  { s with dev := { s.dev with remap := s.dev.remap.put stack t } }

/-- The spare lanes of a bundle in use (R441). -/
def sparesUsed (s : State) (stack bundle : Nat) : Nat :=
  (((majority (remapOf s stack)).getD []).filter fun p => p.1 % 2 == 1 && p.1 / 128 == bundle).length

/-- A bundle can repair no lane more: one is under repair, or its four spares are in use (R441). -/
def noLaneLeft (s : State) (stack bundle : Nat) : Bool :=
  (s.dev.repairing.any fun r => r.1 == stack && r.2.1 == bundle) || decide (4 ≤ sparesUsed s stack bundle)

/-- VERTICAL_BUS_REPAIR of a lasting lane; a second failed lane before the repair, or no spare left, contains the stack. From now on new operations at the banks that the bundle serves wait at their source (R441). -/
def execVerticalBusRepair (stack bundle lane : Nat) (s : State) : Host.Outcome State Fault Refusal :=
  runEvent s (.verticalBusRepair stack bundle lane) (serving s && !s.dev.contained.contains stack) fun s =>
    if noLaneLeft s stack bundle then containStack s stack
    else
      { s with dev := { s.dev with repairing := s.dev.repairing ++ [(stack, bundle, lane)] } }.post (.repairRemap stack bundle lane)

/-- REPAIR_REMAP: every bank operation that was under way is over, since each is one step; the lane goes to the next spare, and the requests that
wait go on (R441, R442). -/
def execRepairRemap (stack bundle lane : Nat) (s : State) : Host.Outcome State Fault Refusal :=
  runEvent s (.repairRemap stack bundle lane) (s.dev.repairing.contains (stack, bundle, lane)) fun s =>
    let s1 := { s with dev := { s.dev with repairing := s.dev.repairing.erase (stack, bundle, lane) } }
    if s.dev.contained.contains stack then s1 else remapTo s1 stack (laneKey bundle lane) (sparesUsed s stack bundle)

/-! ## The surveyor -/

/-- The surveyor of a stack. -/
def surveyOf (s : State) (stack : Nat) : Survey := s.dev.surveys.get stack Survey.reset

/-- The next pass interval after `c` corrected words (R440). -/
def nextInterval (v : Survey) (c : Nat) : Nat := if v.hi < c then max (v.i / 2) v.imin else if c < v.lo then min (2 * v.i) v.imax else v.i

/-- The retry of a corrected word, in a row and in what stands at a position (R439, R440). -/
def retryWord (stack : Nat) (q : Nat × Nat × Bool) : Ev := .faultRetry { stack := stack, place := .surface q.1 q.2.1 0, ok := q.2.2, bad := false }

/-- SURVEYOR_PASS of a stack. Each word that it corrected, given by its row, by what holds it and by whether its retry succeeds, is retried; the
uncorrectable ones, given by what holds them and by their line in it, become poison; the remap table is checked (R440, R442). -/
def execSurveyorPass (stack : Nat) (corrected : List (Nat × Nat × Bool)) (bad : List (Nat × Nat)) (s : State) : Host.Outcome State Fault Refusal :=
  runEvent s (.surveyorPass stack corrected bad) (serving s && !s.dev.contained.contains stack) fun s =>
    let s1 := (bad.foldl (fun s p => poisonSurface s stack p.1 p.2) s).posts (corrected.map (retryWord stack))
    let v := surveyOf s stack
    voteRemap { s1 with dev := { s1.dev with surveys := s1.dev.surveys.put stack { v with i := nextInterval v corrected.length } } } stack

/-! ## Faults -/

/-- The row of the protection table that a place belongs to; that of firmware is free (R437, R444, log 51). -/
def faultMemory (s : State) : FaultPlace → Nat
  | .surface _ _ _ => 0
  | .onCore _ _ => 1
  | .l1 _ _ _ => 2
  | .llcRow _ _ _ => 2
  | .llcWay _ _ _ _ => 2
  | .llcTag _ _ => 3
  | .table _ => 4
  | .gddr _ _ _ _ => 5
  | .vertical _ _ => 6
  | .ucie => 7
  | .link _ => 8
  | .remap _ _ => 4
  | .firmware => Config.choose s.tick % 256

/-- The physical address or the unit index of a place (R444). -/
def faultAddr : FaultPlace → Nat
  | .surface row _ _ => row
  | .onCore core _ => core
  | .l1 _ line _ => 64 * line
  | .llcRow _ line _ => 64 * line
  | .llcWay _ _ line _ => 64 * line
  | .llcTag slice way => 16 * slice + way
  | .table unit => unit
  | .gddr line _ _ _ => 64 * line
  | .vertical bundle lane => 64 * bundle + lane
  | .ucie => 0
  | .link port => port
  | .remap entry _ => entry
  | .firmware => 0

/-- The action that the log names for a lasting fault after which its stack is, or is not, contained: 0 none, 1 spared, 2 fenced, 3 retired,
4 contained. A lane that its bundle cannot repair contains the stack at its repair (R437, R439, R441, R444). -/
def faultAction (s : State) (contained : Bool) (f : FaultReport) : Nat :=
  if contained then 4
  else
    match f.place with
    | .surface _ _ _ => 1
    | .onCore _ _ => 2
    | .l1 _ _ _ => 2
    | .llcRow _ _ _ => 1
    | .llcWay _ _ _ _ => 2
    | .llcTag _ _ => 2
    | .table _ => 0
    | .gddr _ _ _ _ => 3
    | .vertical bundle _ => if noLaneLeft s f.stack bundle then 4 else 1
    | .ucie => 0
    | .link _ => 0
    | .remap _ _ => 0
    | .firmware => 0

/-- The kind of the event that a lasting fault posts, where it posts one itself; its byte in the log is free otherwise (R444, log 51). -/
def faultEvent (s : State) (contained : Bool) (f : FaultReport) : Nat :=
  match f.place with
  | .onCore _ _ => 13
  | .l1 _ _ _ => 13
  | .link _ => 14
  | _ => if faultAction s contained f = 4 then 9 else Config.choose s.tick % 256

/-- The record of a fault after which its stack is, or is not, contained (R444). -/
def faultRecord (s : State) (contained : Bool) (f : FaultReport) : LogRec :=
  { event := if f.ok then Config.choose s.tick % 256 else faultEvent s contained f, stack := f.stack, memory := faultMemory s f.place
    lasting := if f.ok then 0 else 1, action := if f.ok then 0 else faultAction s contained f, addr := faultAddr f.place
    cycle := s.dev.cycles }

/-- The blocks that stand on a core. -/
def blocksOn (s : State) (core : Nat) : List Nat := (residents s core).map Prod.fst

/-- A core fenced: its blocks are contained, event 13 names it, and no block is placed there again (R439, R445). -/
def fenceCore (s : State) (core : Nat) : State :=
  let s1 := (blocksOn s core).foldl (fun s b => containBlock s b 0x101) s
  postAll { s1 with dev := { s1.dev with fencedCores := core :: s1.dev.fencedCores.erase core } } (stackOf core) 13 [(8, core)]

/-- What an uncorrectable error does (R437, R438, R443). -/
def uncorrectable (s : State) (stack : Nat) : FaultPlace → State
  | .surface _ pos line => poisonSurface s stack pos line
  | .onCore _ blk => containBlock s blk 0x101
  | .l1 _ line frame => foundPoison s stack line frame
  | .llcRow _ line frame => foundPoison s stack line frame
  | .llcWay _ _ line frame => foundPoison s stack line frame
  | .llcTag _ _ => containStack s stack
  | .table _ => containStack s stack
  | .gddr line frame _ _ => foundPoison s stack line frame
  | .vertical _ _ => containStack s stack
  | .ucie => containStack s stack
  | .link port => linkLost s port
  | .remap entry copies => voteRemap (loseEntry s stack entry copies) stack
  | .firmware => containDevice s

/-- A way of an LLC slice fenced (R439). -/
def fenceWay (s : State) (stack slice way : Nat) : State :=
  let w := (64 * stack + slice, way)
  { s with dev := { s.dev with fencedWays := w :: s.dev.fencedWays.erase w } }

/-- What the device does about a lasting fault: a row is spared, a way or a core fenced, a lane repaired, a frame retired (R439). -/
def lastingAction (s : State) (stack : Nat) : FaultPlace → State
  | .surface row _ _ => remapTo s stack (rowKey row) (Config.choose s.tick)
  | .onCore core _ => fenceCore s core
  | .l1 core _ _ => fenceCore s core
  | .llcRow row _ _ => remapTo s stack (rowKey row) (Config.choose s.tick)
  | .llcWay slice way _ _ => fenceWay s stack slice way
  | .llcTag slice way => fenceWay s stack slice way
  | .gddr _ _ ctx va => s.post (.pageMigration ctx va true)
  | .vertical bundle lane => s.post (.verticalBusRepair stack bundle lane)
  | _ => s

/-- FAULT_RETRY: a transient fault is logged; a lasting one has its action, and an uncorrectable error its result (R437, R439, R444). -/
def execFaultRetry (f : FaultReport) (s : State) : Host.Outcome State Fault Refusal :=
  runEvent s (.faultRetry f) (serving s) fun s =>
    if f.ok then appendLog s (faultRecord s false f)
    else
      let s1 := if f.bad then uncorrectable s f.stack f.place else s
      let s2 := if s1.dev.contained.contains f.stack then s1 else lastingAction s1 f.stack f.place
      appendLog s2 (faultRecord s (s2.dev.contained.contains f.stack) f)

end Sys2Proof.Machine
end

