-- ==== Sys2Proof/Machine/Stream.lean ====
section
/-! DEFINITION. The queue-stream words, and the fetches and drains of queue streams (08_memory_spaces R178 to R182,
10_memory_instructions R226, R227). -/

namespace Sys2Proof.Machine

/-- A word that starts a stream with the count in a uniform register; a nonzero sA[31:24] gives 0x01 (R226). -/
def startStream (a : SReg) (q : BitVec 2) (f : Wave → Stream → Stream) (s : State) : Host.Outcome State Fault Refusal :=
  runWord s fun k r w =>
    if bits (sreg r a.toNat).toNat 31 24 != 0 then illegalHere r
    else
      .ok (s.setWave k (setStream w q.toNat
        (f w { streamOf w q.toNat with count := (sreg r a.toNat).truncate 24, active := true, underrun := false, overrun := false })))

/-- QLD: held elements are discarded, and the fetches follow the stores issued before it (R226, R180). -/
def execQld (a : SReg) (q : BitVec 2) (s : State) : Host.Outcome State Fault Refusal :=
  startStream a q (fun w x => { x with held := [], since := w.nextOp }) s

/-- QST: pushes already accepted keep draining (R226). -/
def execQst (a : SReg) (q : BitVec 2) (s : State) : Host.Outcome State Fault Refusal := startStream a q (fun _ x => x) s

/-- A stream stopped: a load stream gives back the elements that it holds (R226, R227). -/
def Stream.stop (q : Nat) (x : Stream) : Stream :=
  if q < 2 then
    { x with base := x.base - BitVec.ofNat 64 x.held.length * x.step.signExtend 64, held := [], active := false }
  else { x with active := false }

/-- QSTOP (R226, R227). -/
def execQstop (q : BitVec 2) (s : State) : Host.Outcome State Fault Refusal :=
  uniWord s fun _ w => setStream w q.toNat ((streamOf w q.toNat).stop q.toNat)

/-- QSTAT reads the stream as it was before its chain (R226, 02_encoding R20). -/
def execQstat (d : SReg) (q : BitVec 2) (s : State) : Host.Outcome State Fault Refusal :=
  uniWord s fun r w => setSreg w d.toNat (qstateWord q.toNat (streamOf r q.toNat))

/-! ## Fetches and drains -/

/-- A load stream may fetch its next element: fewer than 8 are held, and fewer than the pops that remain (R180). -/
def mayFetch (x : Stream) : Bool := x.active && decide (x.held.length < 8) && decide (x.held.length < x.count.toNat)

/-- A fetch started: the element keeps its address, and the base moves on (R179, R227). -/
def Stream.start (x : Stream) : Stream :=
  { x with
    held := x.held ++ [{ addr := x.base, step := x.step, lane := x.lanestride, landed := false, taken := false, values := [], faults := [] }]
    base := x.base + x.step.signExtend 64 }

/-- The position of the oldest element whose fetch has not returned. -/
def firstInFlight (x : Stream) : Option Nat := (List.range x.held.length).find? fun i => (x.held[i]?).any StreamElem.inFlight

/-- An element returned for every lane slot of the wave: its words, and fault markers for those that cannot be read (R181). -/
def landElem (s : State) (w : Wave) (e : StreamElem) : StreamElem :=
  let r := fetchElem s w e.addr e.lane (List.range w.width)
  { e with landed := true, values := r.1, faults := r.2 }

/-- A fetch of a load stream can start now. A fetch under way returns whatever has been issued since: a later fence waits for it (R180,
10_memory_instructions R223). -/
def fetchStarts (w : Wave) (q : Nat) : Bool := fetchOrdered w (streamOf w q) && mayFetch (streamOf w q)

/-- The oldest element whose fetch has not returned, with its position, when the home slices of its bytes take requests (12_ordered_sections R276). -/
def landable (s : State) (w : Wave) (q : Nat) : Option (Nat × StreamElem) :=
  (firstInFlight (streamOf w q)).bind fun i => ((streamOf w q).held[i]?).bind fun e =>
    if elemOpen s w e (List.range w.width) then some (i, e) else none

/-- A load stream of a wave can start a fetch, or has one under way that can return. -/
def streamBusy (s : State) (w : Wave) (q : Nat) : Bool := decide (q < 2) && (fetchStarts w q || (landable s w q).isSome)

/-- A fetch started, or the oldest fetch returned: either of the two where both can happen (R180). -/
def fetchStep (s : State) (k : Nat) (w : Wave) (q : Nat) : State :=
  let x := streamOf w q
  match landable s w q with
  | none => s.setWave k (setStream w q x.start)
  | some (i, e) =>
    if fetchStarts w q && Config.choose s.tick % 2 == 0 then s.setWave k (setStream w q x.start)
    else (noteElem s k w e (List.range w.width)).mapWave k fun v => setStream v q { x with held := x.held.modify i (landElem s w) }

/-- QUEUE_STREAM_FETCH (R178, R180, R181). -/
def execQueueStreamFetch (wave q : Nat) (s : State) : Host.Outcome State Fault Refusal :=
  runEvent s (.queueStreamFetch wave q) (((s.wave wave).map fun w => streamBusy s w q).getD false) fun s =>
    match s.wave wave with
    | some w => fetchStep s wave w q
    | none => s

/-- The store queue of an accepted push. -/
def pushOf (o : MemOp) : Option Nat :=
  match o.kind with
  | .push q => some q
  | _ => none

/-- An accepted push that has been performed (R182). -/
def drainable (s : State) (k op : Nat) : Option Nat :=
  ((s.wave k).bind fun w => (opOf w op).filter MemOp.performed).bind pushOf

/-- QUEUE_STREAM_DRAIN: the push leaves the store queue (R182). -/
def execQueueStreamDrain (wave op : Nat) (s : State) : Host.Outcome State Fault Refusal :=
  runEvent s (.queueStreamDrain wave op) (drainable s wave op).isSome fun s =>
    match drainable s wave op with
    | some q =>
      reapWave (s.mapWave wave fun w => setStream (w.dropOp op) q { streamOf w q with pushes := (streamOf w q).pushes - 1 }) wave
    | none => s

end Sys2Proof.Machine
end

