-- ==== Sys2Proof/Machine/Dispatch.lean ====
section
/-! DEFINITION. One arm for each instruction and each step of the device. -/

namespace Sys2Proof.Machine

/-- The meaning of an instruction or of a step of the device. -/
def exec (i : Instr) (s : State) : Host.Outcome State Fault Refusal :=
  match i with
  | .nop => Sys2Proof.Machine.execNop s
  | .halt => Sys2Proof.Machine.execHalt s
  | .exit => Sys2Proof.Machine.execExit s
  | .yield => Sys2Proof.Machine.execYield s
  | .conv => Sys2Proof.Machine.execConv s
  | .tret => Sys2Proof.Machine.execTret s
  | .brk => Sys2Proof.Machine.execBrk s
  | .bra d => Sys2Proof.Machine.execBra d s
  | .br p n d => Sys2Proof.Machine.execBr p n d s
  | .brall p n d => Sys2Proof.Machine.execBrall p n d s
  | .brany p n d => Sys2Proof.Machine.execBrany p n d s
  | .jmps a => Sys2Proof.Machine.execJmps a s
  | .jmpv a => Sys2Proof.Machine.execJmpv a s
  | .call d k im => Sys2Proof.Machine.execCall d k im s
  | .callv d a k => Sys2Proof.Machine.execCallv d a k s
  | .ret a => Sys2Proof.Machine.execRet a s
  | .loopi n e => Sys2Proof.Machine.execLoopi n e s
  | .loops sf e => Sys2Proof.Machine.execLoops sf e s
  | .lbrk => Sys2Proof.Machine.execLbrk s
  | .rep n x y z sf => Sys2Proof.Machine.execRep n x y z sf s
  | .wait l sf p t => Sys2Proof.Machine.execWait l sf p t s
  | .trap k => Sys2Proof.Machine.execTrap k s
  | .spawn d a im => Sys2Proof.Machine.execSpawn d a im s
  | .spawnp d a im => Sys2Proof.Machine.execSpawnp d a im s
  | .regroup a im => Sys2Proof.Machine.execRegroup a im s
  | .flushrg => Sys2Proof.Machine.execFlushrg s
  | .fibrd d im => Sys2Proof.Machine.execFibrd d im s
  | .fibwr a im => Sys2Proof.Machine.execFibwr a im s
  | .sadd d a b => Sys2Proof.Machine.execSadd d a b s
  | .ssub d a b => Sys2Proof.Machine.execSsub d a b s
  | .smul d a b => Sys2Proof.Machine.execSmul d a b s
  | .smulh d a b => Sys2Proof.Machine.execSmulh d a b s
  | .sand d a b => Sys2Proof.Machine.execSand d a b s
  | .sor d a b => Sys2Proof.Machine.execSor d a b s
  | .sxor d a b => Sys2Proof.Machine.execSxor d a b s
  | .sshl d a b => Sys2Proof.Machine.execSshl d a b s
  | .sshr d a b => Sys2Proof.Machine.execSshr d a b s
  | .ssra d a b => Sys2Proof.Machine.execSsra d a b s
  | .smin d a b => Sys2Proof.Machine.execSmin d a b s
  | .smax d a b => Sys2Proof.Machine.execSmax d a b s
  | .sminu d a b => Sys2Proof.Machine.execSminu d a b s
  | .smaxu d a b => Sys2Proof.Machine.execSmaxu d a b s
  | .smov d a => Sys2Proof.Machine.execSmov d a s
  | .saddi d a im => Sys2Proof.Machine.execSaddi d a im s
  | .sandi d a im => Sys2Proof.Machine.execSandi d a im s
  | .sori d a im => Sys2Proof.Machine.execSori d a im s
  | .sxori d a im => Sys2Proof.Machine.execSxori d a im s
  | .sshli d a im => Sys2Proof.Machine.execSshli d a im s
  | .sshri d a im => Sys2Proof.Machine.execSshri d a im s
  | .ssrai d a im => Sys2Proof.Machine.execSsrai d a im s
  | .sbyte d a im => Sys2Proof.Machine.execSbyte d a im s
  | .scmp p a b k => Sys2Proof.Machine.execScmp p a b k s
  | .csrr d im => Sys2Proof.Machine.execCsrr d im s
  | .csrw a im => Sys2Proof.Machine.execCsrw a im s
  | .spr d im => Sys2Proof.Machine.execSpr d im s
  | .rdlane d a im => Sys2Proof.Machine.execRdlane d a im s
  | .movs d a => Sys2Proof.Machine.execMovs d a s
  | .iadd d a b => Sys2Proof.Machine.execIadd d a b s
  | .isub d a b => Sys2Proof.Machine.execIsub d a b s
  | .imul d a b => Sys2Proof.Machine.execImul d a b s
  | .imulh d a b => Sys2Proof.Machine.execImulh d a b s
  | .imulhu d a b => Sys2Proof.Machine.execImulhu d a b s
  | .iand d a b => Sys2Proof.Machine.execIand d a b s
  | .ior d a b => Sys2Proof.Machine.execIor d a b s
  | .ixor d a b => Sys2Proof.Machine.execIxor d a b s
  | .andn d a b => Sys2Proof.Machine.execAndn d a b s
  | .shl d a b => Sys2Proof.Machine.execShl d a b s
  | .shr d a b => Sys2Proof.Machine.execShr d a b s
  | .sra d a b => Sys2Proof.Machine.execSra d a b s
  | .imin d a b => Sys2Proof.Machine.execImin d a b s
  | .imax d a b => Sys2Proof.Machine.execImax d a b s
  | .iminu d a b => Sys2Proof.Machine.execIminu d a b s
  | .imaxu d a b => Sys2Proof.Machine.execImaxu d a b s
  | .iaddi d a im => Sys2Proof.Machine.execIaddi d a im s
  | .andi d a im => Sys2Proof.Machine.execAndi d a im s
  | .ori d a im => Sys2Proof.Machine.execOri d a im s
  | .xori d a im => Sys2Proof.Machine.execXori d a im s
  | .shli d a im => Sys2Proof.Machine.execShli d a im s
  | .shri d a im => Sys2Proof.Machine.execShri d a im s
  | .srai d a im => Sys2Proof.Machine.execSrai d a im s
  | .movi d im => Sys2Proof.Machine.execMovi d im s
  | .iabs d a => Sys2Proof.Machine.execIabs d a s
  | .ineg d a => Sys2Proof.Machine.execIneg d a s
  | .inot d a => Sys2Proof.Machine.execInot d a s
  | .popc d a => Sys2Proof.Machine.execPopc d a s
  | .clz d a => Sys2Proof.Machine.execClz d a s
  | .brev d a => Sys2Proof.Machine.execBrev d a s
  | .bfe d a b => Sys2Proof.Machine.execBfe d a b s
  | .bfeu d a b => Sys2Proof.Machine.execBfeu d a b s
  | .bfi d a b => Sys2Proof.Machine.execBfi d a b s
  | .imad d a b => Sys2Proof.Machine.execImad d a b s
  | .idiv d a b => Sys2Proof.Machine.execIdiv d a b s
  | .idivu d a b => Sys2Proof.Machine.execIdivu d a b s
  | .irem d a b => Sys2Proof.Machine.execIrem d a b s
  | .iremu d a b => Sys2Proof.Machine.execIremu d a b s
  | .iadds d a b => Sys2Proof.Machine.execIadds d a b s
  | .isubs d a b => Sys2Proof.Machine.execIsubs d a b s
  | .icmp p a b k => Sys2Proof.Machine.execIcmp p a b k s
  | .fadd d a b r => Sys2Proof.Machine.execFadd d a b r s
  | .fsub d a b r => Sys2Proof.Machine.execFsub d a b r s
  | .fmul d a b r => Sys2Proof.Machine.execFmul d a b r s
  | .ffma d a b r => Sys2Proof.Machine.execFfma d a b r s
  | .fmin d a b => Sys2Proof.Machine.execFmin d a b s
  | .fmax d a b => Sys2Proof.Machine.execFmax d a b s
  | .fminm d a b => Sys2Proof.Machine.execFminm d a b s
  | .fmaxm d a b => Sys2Proof.Machine.execFmaxm d a b s
  | .fcpys d a b => Sys2Proof.Machine.execFcpys d a b s
  | .fscale d a b => Sys2Proof.Machine.execFscale d a b s
  | .fabs d a => Sys2Proof.Machine.execFabs d a s
  | .fneg d a => Sys2Proof.Machine.execFneg d a s
  | .fclass d a => Sys2Proof.Machine.execFclass d a s
  | .frnd d a x r => Sys2Proof.Machine.execFrnd d a x r s
  | .fsat d a => Sys2Proof.Machine.execFsat d a s
  | .fgete d a => Sys2Proof.Machine.execFgete d a s
  | .fgetm d a => Sys2Proof.Machine.execFgetm d a s
  | .fcmp p a b k => Sys2Proof.Machine.execFcmp p a b k s
  | .hadd2 d a b t => Sys2Proof.Machine.execHadd2 d a b t s
  | .hsub2 d a b t => Sys2Proof.Machine.execHsub2 d a b t s
  | .hmul2 d a b t => Sys2Proof.Machine.execHmul2 d a b t s
  | .hfma2 d a b t => Sys2Proof.Machine.execHfma2 d a b t s
  | .hmin2 d a b t => Sys2Proof.Machine.execHmin2 d a b t s
  | .hmax2 d a b t => Sys2Proof.Machine.execHmax2 d a b t s
  | .dot2h d a b => Sys2Proof.Machine.execDot2h d a b s
  | .dot2b d a b => Sys2Proof.Machine.execDot2b d a b s
  | .dot4e4 d a b => Sys2Proof.Machine.execDot4e4 d a b s
  | .dot4e5 d a b => Sys2Proof.Machine.execDot4e5 d a b s
  | .dot4i d a b => Sys2Proof.Machine.execDot4i d a b s
  | .dot4in d a b => Sys2Proof.Machine.execDot4in d a b s
  | .dot8f d a b => Sys2Proof.Machine.execDot8f d a b s
  | .dot4s d a b => Sys2Proof.Machine.execDot4s d a b s
  | .cvt d a e f r sf => Sys2Proof.Machine.execCvt d a e f r sf s
  | .rcp d a => Sys2Proof.Machine.execRcp d a s
  | .rsq d a => Sys2Proof.Machine.execRsq d a s
  | .sqrt d a => Sys2Proof.Machine.execSqrt d a s
  | .exp2 d a => Sys2Proof.Machine.execExp2 d a s
  | .log2 d a => Sys2Proof.Machine.execLog2 d a s
  | .sin d a => Sys2Proof.Machine.execSin d a s
  | .cos d a => Sys2Proof.Machine.execCos d a s
  | .tanh d a => Sys2Proof.Machine.execTanh d a s
  | .shfli d a b => Sys2Proof.Machine.execShfli d a b s
  | .shflu d a im => Sys2Proof.Machine.execShflu d a im s
  | .shfld d a im => Sys2Proof.Machine.execShfld d a im s
  | .shflx d a im => Sys2Proof.Machine.execShflx d a im s
  | .bcast d a im => Sys2Proof.Machine.execBcast d a im s
  | .voteany d a => Sys2Proof.Machine.execVoteany d a s
  | .voteall d a => Sys2Proof.Machine.execVoteall d a s
  | .ballot d a => Sys2Proof.Machine.execBallot d a s
  | .matchv d a => Sys2Proof.Machine.execMatchv d a s
  | .wredadd d a => Sys2Proof.Machine.execWredadd d a s
  | .wredfadd d a => Sys2Proof.Machine.execWredfadd d a s
  | .wredmin d a => Sys2Proof.Machine.execWredmin d a s
  | .wredmax d a => Sys2Proof.Machine.execWredmax d a s
  | .wredfmax d a => Sys2Proof.Machine.execWredfmax d a s
  | .wscan d a => Sys2Proof.Machine.execWscan d a s
  | .pand d a b => Sys2Proof.Machine.execPand d a b s
  | .por d a b => Sys2Proof.Machine.execPor d a b s
  | .pxor d a b => Sys2Proof.Machine.execPxor d a b s
  | .pandn d a b => Sys2Proof.Machine.execPandn d a b s
  | .pnot d a => Sys2Proof.Machine.execPnot d a s
  | .prdw d => Sys2Proof.Machine.execPrdw d s
  | .pwrw a => Sys2Proof.Machine.execPwrw a s
  | .pk2h d a b sf => Sys2Proof.Machine.execPk2h d a b sf s
  | .pk2b d a b sf => Sys2Proof.Machine.execPk2b d a b sf s
  | .pk4e4 d a b sf => Sys2Proof.Machine.execPk4e4 d a b sf s
  | .pk4e5 d a b sf => Sys2Proof.Machine.execPk4e5 d a b sf s
  | .pk8f d a b sf => Sys2Proof.Machine.execPk8f d a b sf s
  | .unpklo d a t => Sys2Proof.Machine.execUnpklo d a t s
  | .unpkhi d a t => Sys2Proof.Machine.execUnpkhi d a t s
  | .sel d a b p => Sys2Proof.Machine.execSel d a b p s
  | .ld d a sf w q g x m => Sys2Proof.Machine.execLd d a sf w q g x m s
  | .st d a sf w q g m => Sys2Proof.Machine.execSt d a sf w q g m s
  | .lds d a sf w x => Sys2Proof.Machine.execLds d a sf w x s
  | .sts d a sf w => Sys2Proof.Machine.execSts d a sf w s
  | .ldp d a sf w x => Sys2Proof.Machine.execLdp d a sf w x s
  | .stp d a sf w => Sys2Proof.Machine.execStp d a sf w s
  | .rld d a k g => Sys2Proof.Machine.execRld d a k g s
  | .rst d a k g => Sys2Proof.Machine.execRst d a k g s
  | .mcst d a g => Sys2Proof.Machine.execMcst d a g s
  | .atom d a sf w o r => Sys2Proof.Machine.execAtom d a sf w o r s
  | .atoms d a sf w o r => Sys2Proof.Machine.execAtoms d a sf w o r s
  | .mcas d a sf => Sys2Proof.Machine.execMcas d a sf s
  | .fence sf k => Sys2Proof.Machine.execFence sf k s
  | .pref a sf l => Sys2Proof.Machine.execPref a sf l s
  | .clean a sf => Sys2Proof.Machine.execClean a sf s
  | .invs a sf => Sys2Proof.Machine.execInvs a sf s
  | .qld a q => Sys2Proof.Machine.execQld a q s
  | .qst a q => Sys2Proof.Machine.execQst a q s
  | .qstop q => Sys2Proof.Machine.execQstop q s
  | .qstat d q => Sys2Proof.Machine.execQstat d q s
  | .cpy a x => Sys2Proof.Machine.execCpy a x s
  | .cpyt a x => Sys2Proof.Machine.execCpyt a x s
  | .cpyg a v x => Sys2Proof.Machine.execCpyg a v x s
  | .cpyp a x => Sys2Proof.Machine.execCpyp a x s
  | .cpym a x => Sys2Proof.Machine.execCpym a x s
  | .cpys a x => Sys2Proof.Machine.execCpys a x s
  | .cpyb a x => Sys2Proof.Machine.execCpyb a x s
  | .cbcfg a n => Sys2Proof.Machine.execCbcfg a n s
  | .cbcom n => Sys2Proof.Machine.execCbcom n s
  | .cbrel n => Sys2Proof.Machine.execCbrel n s
  | .cbqry d n => Sys2Proof.Machine.execCbqry d n s
  | .binit g a b => Sys2Proof.Machine.execBinit g a b s
  | .barv g a => Sys2Proof.Machine.execBarv g a s
  | .bexp g a b => Sys2Proof.Machine.execBexp g a b s
  | .bwait g a b => Sys2Proof.Machine.execBwait g a b s
  | .btest g p a b => Sys2Proof.Machine.execBtest g p a b s
  | .oent d a b => Sys2Proof.Machine.execOent d a b s
  | .oleave a => Sys2Proof.Machine.execOleave a s
  | .oskip a b => Sys2Proof.Machine.execOskip a b s
  | .oqry d a => Sys2Proof.Machine.execOqry d a s
  | .mma z a b f t m u n => Sys2Proof.Machine.execMma z a b f t m u n s
  | .mmac z sf q b f x t u n => Sys2Proof.Machine.execMmac z sf q b f x t u n s
  | .zclr z sf => Sys2Proof.Machine.execZclr z sf s
  | .zld z sf a => Sys2Proof.Machine.execZld z sf a s
  | .zst z sf a => Sys2Proof.Machine.execZst z sf a s
  | .zdrain z sf a t l => Sys2Proof.Machine.execZdrain z sf a t l s
  | .opfence => Sys2Proof.Machine.execOpfence s
  | .episel a => Sys2Proof.Machine.execEpisel a s
  | .prim a => Sys2Proof.Machine.execPrim a s
  | .fexp a b => Sys2Proof.Machine.execFexp a b s
  | .attr d a p j => Sys2Proof.Machine.execAttr d a p j s
  | .fdisc => Sys2Proof.Machine.execFdisc s
  | .srfset a b => Sys2Proof.Machine.execSrfset a b s
  | .srfqry d a => Sys2Proof.Machine.execSrfqry d a s
  | .srfld d a b => Sys2Proof.Machine.execSrfld d a b s
  | .srfst d a b => Sys2Proof.Machine.execSrfst d a b s
  | .tex2 d a b => Sys2Proof.Machine.execTex2 d a b s
  | .plot a => Sys2Proof.Machine.execPlot a s
  | .bka d a => Sys2Proof.Machine.execBka d a s
  | .bkt d a q => Sys2Proof.Machine.execBkt d a q s
  | .bks d a => Sys2Proof.Machine.execBks d a s
  | .bkf a => Sys2Proof.Machine.execBkf a s
  | .launch d a => Sys2Proof.Machine.execLaunch d a s
  | .tlbinv a b => Sys2Proof.Machine.execTlbinv a b s
  | .keyld a b => Sys2Proof.Machine.execKeyld a b s
  | .reset => Sys2Proof.Machine.execReset s
  | .frstrbEdge => Sys2Proof.Machine.execFrstrbEdge s
  | .create slot => Sys2Proof.Machine.execCreate slot s
  | .update slot => Sys2Proof.Machine.execUpdate slot s
  | .kill slot => Sys2Proof.Machine.execKill slot s
  | .attest slot => Sys2Proof.Machine.execAttest slot s
  | .route slot => Sys2Proof.Machine.execRoute slot s
  | .log slot => Sys2Proof.Machine.execLog slot s
  | .stackreset slot => Sys2Proof.Machine.execStackreset slot s
  | .thermal slot => Sys2Proof.Machine.execThermal slot s
  | .unknownOpcode slot => Sys2Proof.Machine.execUnknownOpcode slot s
  | .launchDoorbell ctx q => Sys2Proof.Machine.execLaunchDoorbell ctx q s
  | .launchQueueEntry ctx q => Sys2Proof.Machine.execLaunchQueueEntry ctx q s
  | .msiXTableEntry v part value => Sys2Proof.Machine.execMsiXTableEntry v part value s
  | .registerWrite off n value => Sys2Proof.Machine.execRegisterWrite off n value s
  | .cxlMemAccess write pa n value => Sys2Proof.Machine.execCxlMemAccess write pa n value s
  | .peerCommand src origin id ctx pa op => Sys2Proof.Machine.execPeerCommand src origin id ctx pa op s
  | .flitForward src dst payload => Sys2Proof.Machine.execFlitForward src dst payload s
  | .replay port => Sys2Proof.Machine.execReplay port s
  | .linkDown port => Sys2Proof.Machine.execLinkDown port s
  | .linkRecovery port => Sys2Proof.Machine.execLinkRecovery port s
  | .temperatureAboveLimit stack => Sys2Proof.Machine.execTemperatureAboveLimit stack s
  | .throttleStep stack => Sys2Proof.Machine.execThrottleStep stack s
  | .thermalTrip stack => Sys2Proof.Machine.execThermalTrip stack s
  | .regulatorFault => Sys2Proof.Machine.execRegulatorFault s
  | .regulatorFaultCleared => Sys2Proof.Machine.execRegulatorFaultCleared s
  | .powerArbiterStep stack k => Sys2Proof.Machine.execPowerArbiterStep stack k s
  | .faultRetry f => Sys2Proof.Machine.execFaultRetry f s
  | .surveyorPass stack corrected bad => Sys2Proof.Machine.execSurveyorPass stack corrected bad s
  | .verticalBusRepair stack bundle lane => Sys2Proof.Machine.execVerticalBusRepair stack bundle lane s
  | .repairRemap stack bundle lane => Sys2Proof.Machine.execRepairRemap stack bundle lane s
  | .blockAdmit stack => Sys2Proof.Machine.execBlockAdmit stack s
  | .admissionWaitExpiry stack launch => Sys2Proof.Machine.execAdmissionWaitExpiry stack launch s
  | .blockRetire blk => Sys2Proof.Machine.execBlockRetire blk s
  | .completionArrival ctx va record source => Sys2Proof.Machine.execCompletionArrival ctx va record source s
  | .waveToPending wave => Sys2Proof.Machine.execWaveToPending wave s
  | .pendingWaveReady wave => Sys2Proof.Machine.execPendingWaveReady wave s
  | .forcedExchange core => Sys2Proof.Machine.execForcedExchange core s
  | .saveOnWait blk => Sys2Proof.Machine.execSaveOnWait blk s
  | .saveComplete blk => Sys2Proof.Machine.execSaveComplete blk s
  | .relaunch blk => Sys2Proof.Machine.execRelaunch blk s
  | .migration blk => Sys2Proof.Machine.execMigration blk s
  | .migrationComplete blk core => Sys2Proof.Machine.execMigrationComplete blk core s
  | .forwardingEntryRelease blk => Sys2Proof.Machine.execForwardingEntryRelease blk s
  | .preemptionRequest blk => Sys2Proof.Machine.execPreemptionRequest blk s
  | .trapEntry wave => Sys2Proof.Machine.execTrapEntry wave s
  | .barrierOverrunReport wave taddr => Sys2Proof.Machine.execBarrierOverrunReport wave taddr s
  | .droppedBarrierRequest wave lanes taddr packet slot dst => Sys2Proof.Machine.execDroppedBarrierRequest wave lanes taddr packet slot dst s
  | .tableFullReport wave lanes key skip => Sys2Proof.Machine.execTableFullReport wave lanes key skip s
  | .blockStoreFailure wave lanes reason => Sys2Proof.Machine.execBlockStoreFailure wave lanes reason s
  | .peerRefusal wave va write => Sys2Proof.Machine.execPeerRefusal wave va write s
  | .poolWaveStart blk => Sys2Proof.Machine.execPoolWaveStart blk s
  | .countedOpComplete wave cls => Sys2Proof.Machine.execCountedOpComplete wave cls s
  | .homeSliceRequest wave op sub => Sys2Proof.Machine.execHomeSliceRequest wave op sub s
  | .l1Eviction core line => Sys2Proof.Machine.execL1Eviction core line s
  | .evictionNotice core line data => Sys2Proof.Machine.execEvictionNotice core line data s
  | .regionNotice cluster region => Sys2Proof.Machine.execRegionNotice cluster region s
  | .noticeAck cluster region => Sys2Proof.Machine.execNoticeAck cluster region s
  | .probe cluster line inval => Sys2Proof.Machine.execProbe cluster line inval s
  | .probeAck cluster line regionEmpty data => Sys2Proof.Machine.execProbeAck cluster line regionEmpty data s
  | .queueStreamFetch wave q => Sys2Proof.Machine.execQueueStreamFetch wave q s
  | .queueStreamDrain wave op => Sys2Proof.Machine.execQueueStreamDrain wave op s
  | .pageWalk core ctx va => Sys2Proof.Machine.execPageWalk core ctx va s
  | .pageMigration ctx va retire => Sys2Proof.Machine.execPageMigration ctx va retire s
  | .pageMigrationComplete ctx va frame => Sys2Proof.Machine.execPageMigrationComplete ctx va frame s
  | .collapseRequest ctx va writer frame => Sys2Proof.Machine.execCollapseRequest ctx va writer frame s
  | .groupRewrite ctx va writer frame lead => Sys2Proof.Machine.execGroupRewrite ctx va writer frame lead s
  | .collapseGrant ctx va => Sys2Proof.Machine.execCollapseGrant ctx va s
  | .copyStart id => Sys2Proof.Machine.execCopyStart id s
  | .sectorLand id k => Sys2Proof.Machine.execSectorLand id k s
  | .barrierUpdate wave obj upd => Sys2Proof.Machine.execBarrierUpdate wave obj upd s
  | .remoteBarrierRequest wave lanes gen addr obj phase test => Sys2Proof.Machine.execRemoteBarrierRequest wave lanes gen addr obj phase test s
  | .bwaitRelease wave obj => Sys2Proof.Machine.execBwaitRelease wave obj s
  | .remoteMessage m => Sys2Proof.Machine.execRemoteMessage m s
  | .tileOpFire blk => Sys2Proof.Machine.execTileOpFire blk s
  | .operandsConsumed blk id => Sys2Proof.Machine.execOperandsConsumed blk id s
  | .tileOpComplete blk id => Sys2Proof.Machine.execTileOpComplete blk id s
  | .waypointRequest r => Sys2Proof.Machine.execWaypointRequest r s
  | .waypointMulticast core ctx key n => Sys2Proof.Machine.execWaypointMulticast core ctx key n s
  | .waypointClaim r => Sys2Proof.Machine.execWaypointClaim r s
  | .waypointAnswer uid key ans => Sys2Proof.Machine.execWaypointAnswer uid key ans s
  | .deadlockWalk uid => Sys2Proof.Machine.execDeadlockWalk uid s
  | .waypointGap uid => Sys2Proof.Machine.execWaypointGap uid s
  | .mcasLockRequest id => Sys2Proof.Machine.execMcasLockRequest id s
  | .mcasLockAck id => Sys2Proof.Machine.execMcasLockAck id s
  | .batchAccept id => Sys2Proof.Machine.execBatchAccept id s
  | .rasterise stack => Sys2Proof.Machine.execRasterise stack s
  | .fragmentWaveLaunch stack => Sys2Proof.Machine.execFragmentWaveLaunch stack s
  | .exportEntry id => Sys2Proof.Machine.execExportEntry id s
  | .ropApply stack bank => Sys2Proof.Machine.execRopApply stack bank s
  | .depthVerdict id pass => Sys2Proof.Machine.execDepthVerdict id pass s
  | .cellEviction stack => Sys2Proof.Machine.execCellEviction stack s
  | .cellFetchBack ctx ste cx cy => Sys2Proof.Machine.execCellFetchBack ctx ste cx cy s
  | .surfacePoolWait ctx ste cx cy => Sys2Proof.Machine.execSurfacePoolWait ctx ste cx cy s
  | .srfsetPerform id => Sys2Proof.Machine.execSrfsetPerform id s
  | .plotAccept id stack => Sys2Proof.Machine.execPlotAccept id stack s
  | .plotUnitStart stack unit => Sys2Proof.Machine.execPlotUnitStart stack unit s
  | .plotThreadIssue stack unit thread => Sys2Proof.Machine.execPlotThreadIssue stack unit thread s
  | .plotWordLimit stack unit thread => Sys2Proof.Machine.execPlotWordLimit stack unit thread s
  | .plotComplete id => Sys2Proof.Machine.execPlotComplete id s
  | .blockStoreRequest r => Sys2Proof.Machine.execBlockStoreRequest r s
  | .blockEviction ctx stack => Sys2Proof.Machine.execBlockEviction ctx stack s
  | .fstat value => Sys2Proof.Machine.execFstat value s
  | .ftrap value => Sys2Proof.Machine.execFtrap value s
  | .qbasehi q value => Sys2Proof.Machine.execQbasehi q value s
  | .qstride q value => Sys2Proof.Machine.execQstride q value s
  | .qstate q value => Sys2Proof.Machine.execQstate q value s
  | .hstatus value => Sys2Proof.Machine.execHstatus value s
  | .shbase high value => Sys2Proof.Machine.execShbase high value s
  | .mailboxDoorbell index => Sys2Proof.Machine.execMailboxDoorbell index s
  | .linkRetrainComplete port => Sys2Proof.Machine.execLinkRetrainComplete port s
  | .ideKeyManagement proto key => Sys2Proof.Machine.execIdeKeyManagement proto key s
  | .collapseAnswer ctx va device => Sys2Proof.Machine.execCollapseAnswer ctx va device s

end Sys2Proof.Machine
end

