-- ==== Sys2Proof/Machine/Events.lean ====
section
/-! DEFINITION. The steps of the device that the state holds, run by the same meanings as `exec` gives them. -/

namespace Sys2Proof.Machine

/-- A step of the device run. -/
def execEv (e : Ev) (s : State) : Host.Outcome State Fault Refusal :=
  match e with
  | .reset => Sys2Proof.Machine.execReset s
  | .frstrbEdge => Sys2Proof.Machine.execFrstrbEdge s
  | .create slot => Sys2Proof.Machine.execCreate slot s
  | .update slot => Sys2Proof.Machine.execUpdate slot s
  | .kill slot => Sys2Proof.Machine.execKill slot s
  | .attest slot => Sys2Proof.Machine.execAttest slot s
  | .route slot => Sys2Proof.Machine.execRoute slot s
  | .log slot => Sys2Proof.Machine.execLog slot s
  | .stackreset slot => Sys2Proof.Machine.execStackreset slot s
  | .thermal slot => Sys2Proof.Machine.execThermal slot s
  | .unknownOpcode slot => Sys2Proof.Machine.execUnknownOpcode slot s
  | .launchDoorbell ctx q => Sys2Proof.Machine.execLaunchDoorbell ctx q s
  | .launchQueueEntry ctx q => Sys2Proof.Machine.execLaunchQueueEntry ctx q s
  | .msiXTableEntry v part value => Sys2Proof.Machine.execMsiXTableEntry v part value s
  | .registerWrite off n value => Sys2Proof.Machine.execRegisterWrite off n value s
  | .cxlMemAccess write pa n value => Sys2Proof.Machine.execCxlMemAccess write pa n value s
  | .peerCommand src origin id ctx pa op => Sys2Proof.Machine.execPeerCommand src origin id ctx pa op s
  | .flitForward src dst payload => Sys2Proof.Machine.execFlitForward src dst payload s
  | .replay port => Sys2Proof.Machine.execReplay port s
  | .linkDown port => Sys2Proof.Machine.execLinkDown port s
  | .linkRecovery port => Sys2Proof.Machine.execLinkRecovery port s
  | .temperatureAboveLimit stack => Sys2Proof.Machine.execTemperatureAboveLimit stack s
  | .throttleStep stack => Sys2Proof.Machine.execThrottleStep stack s
  | .thermalTrip stack => Sys2Proof.Machine.execThermalTrip stack s
  | .regulatorFault => Sys2Proof.Machine.execRegulatorFault s
  | .regulatorFaultCleared => Sys2Proof.Machine.execRegulatorFaultCleared s
  | .powerArbiterStep stack k => Sys2Proof.Machine.execPowerArbiterStep stack k s
  | .faultRetry f => Sys2Proof.Machine.execFaultRetry f s
  | .surveyorPass stack corrected bad => Sys2Proof.Machine.execSurveyorPass stack corrected bad s
  | .verticalBusRepair stack bundle lane => Sys2Proof.Machine.execVerticalBusRepair stack bundle lane s
  | .repairRemap stack bundle lane => Sys2Proof.Machine.execRepairRemap stack bundle lane s
  | .blockAdmit stack => Sys2Proof.Machine.execBlockAdmit stack s
  | .admissionWaitExpiry stack launch => Sys2Proof.Machine.execAdmissionWaitExpiry stack launch s
  | .blockRetire blk => Sys2Proof.Machine.execBlockRetire blk s
  | .completionArrival ctx va record source => Sys2Proof.Machine.execCompletionArrival ctx va record source s
  | .waveToPending wave => Sys2Proof.Machine.execWaveToPending wave s
  | .pendingWaveReady wave => Sys2Proof.Machine.execPendingWaveReady wave s
  | .forcedExchange core => Sys2Proof.Machine.execForcedExchange core s
  | .saveOnWait blk => Sys2Proof.Machine.execSaveOnWait blk s
  | .saveComplete blk => Sys2Proof.Machine.execSaveComplete blk s
  | .relaunch blk => Sys2Proof.Machine.execRelaunch blk s
  | .migration blk => Sys2Proof.Machine.execMigration blk s
  | .migrationComplete blk core => Sys2Proof.Machine.execMigrationComplete blk core s
  | .forwardingEntryRelease blk => Sys2Proof.Machine.execForwardingEntryRelease blk s
  | .preemptionRequest blk => Sys2Proof.Machine.execPreemptionRequest blk s
  | .trapEntry wave => Sys2Proof.Machine.execTrapEntry wave s
  | .barrierOverrunReport wave taddr => Sys2Proof.Machine.execBarrierOverrunReport wave taddr s
  | .droppedBarrierRequest wave lanes taddr packet slot dst => Sys2Proof.Machine.execDroppedBarrierRequest wave lanes taddr packet slot dst s
  | .tableFullReport wave lanes key skip => Sys2Proof.Machine.execTableFullReport wave lanes key skip s
  | .blockStoreFailure wave lanes reason => Sys2Proof.Machine.execBlockStoreFailure wave lanes reason s
  | .peerRefusal wave va write => Sys2Proof.Machine.execPeerRefusal wave va write s
  | .poolWaveStart blk => Sys2Proof.Machine.execPoolWaveStart blk s
  | .countedOpComplete wave cls => Sys2Proof.Machine.execCountedOpComplete wave cls s
  | .homeSliceRequest wave op sub => Sys2Proof.Machine.execHomeSliceRequest wave op sub s
  | .l1Eviction core line => Sys2Proof.Machine.execL1Eviction core line s
  | .evictionNotice core line data => Sys2Proof.Machine.execEvictionNotice core line data s
  | .regionNotice cluster region => Sys2Proof.Machine.execRegionNotice cluster region s
  | .noticeAck cluster region => Sys2Proof.Machine.execNoticeAck cluster region s
  | .probe cluster line inval => Sys2Proof.Machine.execProbe cluster line inval s
  | .probeAck cluster line regionEmpty data => Sys2Proof.Machine.execProbeAck cluster line regionEmpty data s
  | .queueStreamFetch wave q => Sys2Proof.Machine.execQueueStreamFetch wave q s
  | .queueStreamDrain wave op => Sys2Proof.Machine.execQueueStreamDrain wave op s
  | .pageWalk core ctx va => Sys2Proof.Machine.execPageWalk core ctx va s
  | .pageMigration ctx va retire => Sys2Proof.Machine.execPageMigration ctx va retire s
  | .pageMigrationComplete ctx va frame => Sys2Proof.Machine.execPageMigrationComplete ctx va frame s
  | .collapseRequest ctx va writer frame => Sys2Proof.Machine.execCollapseRequest ctx va writer frame s
  | .groupRewrite ctx va writer frame lead => Sys2Proof.Machine.execGroupRewrite ctx va writer frame lead s
  | .collapseGrant ctx va => Sys2Proof.Machine.execCollapseGrant ctx va s
  | .copyStart id => Sys2Proof.Machine.execCopyStart id s
  | .sectorLand id k => Sys2Proof.Machine.execSectorLand id k s
  | .barrierUpdate wave obj upd => Sys2Proof.Machine.execBarrierUpdate wave obj upd s
  | .remoteBarrierRequest wave lanes gen addr obj phase test => Sys2Proof.Machine.execRemoteBarrierRequest wave lanes gen addr obj phase test s
  | .bwaitRelease wave obj => Sys2Proof.Machine.execBwaitRelease wave obj s
  | .remoteMessage m => Sys2Proof.Machine.execRemoteMessage m s
  | .tileOpFire blk => Sys2Proof.Machine.execTileOpFire blk s
  | .operandsConsumed blk id => Sys2Proof.Machine.execOperandsConsumed blk id s
  | .tileOpComplete blk id => Sys2Proof.Machine.execTileOpComplete blk id s
  | .waypointRequest r => Sys2Proof.Machine.execWaypointRequest r s
  | .waypointMulticast core ctx key n => Sys2Proof.Machine.execWaypointMulticast core ctx key n s
  | .waypointClaim r => Sys2Proof.Machine.execWaypointClaim r s
  | .waypointAnswer uid key ans => Sys2Proof.Machine.execWaypointAnswer uid key ans s
  | .deadlockWalk uid => Sys2Proof.Machine.execDeadlockWalk uid s
  | .waypointGap uid => Sys2Proof.Machine.execWaypointGap uid s
  | .mcasLockRequest id => Sys2Proof.Machine.execMcasLockRequest id s
  | .mcasLockAck id => Sys2Proof.Machine.execMcasLockAck id s
  | .batchAccept id => Sys2Proof.Machine.execBatchAccept id s
  | .rasterise stack => Sys2Proof.Machine.execRasterise stack s
  | .fragmentWaveLaunch stack => Sys2Proof.Machine.execFragmentWaveLaunch stack s
  | .exportEntry id => Sys2Proof.Machine.execExportEntry id s
  | .ropApply stack bank => Sys2Proof.Machine.execRopApply stack bank s
  | .depthVerdict id pass => Sys2Proof.Machine.execDepthVerdict id pass s
  | .cellEviction stack => Sys2Proof.Machine.execCellEviction stack s
  | .cellFetchBack ctx ste cx cy => Sys2Proof.Machine.execCellFetchBack ctx ste cx cy s
  | .surfacePoolWait ctx ste cx cy => Sys2Proof.Machine.execSurfacePoolWait ctx ste cx cy s
  | .srfsetPerform id => Sys2Proof.Machine.execSrfsetPerform id s
  | .plotAccept id stack => Sys2Proof.Machine.execPlotAccept id stack s
  | .plotUnitStart stack unit => Sys2Proof.Machine.execPlotUnitStart stack unit s
  | .plotThreadIssue stack unit thread => Sys2Proof.Machine.execPlotThreadIssue stack unit thread s
  | .plotWordLimit stack unit thread => Sys2Proof.Machine.execPlotWordLimit stack unit thread s
  | .plotComplete id => Sys2Proof.Machine.execPlotComplete id s
  | .blockStoreRequest r => Sys2Proof.Machine.execBlockStoreRequest r s
  | .blockEviction ctx stack => Sys2Proof.Machine.execBlockEviction ctx stack s
  | .mailboxDoorbell index => Sys2Proof.Machine.execMailboxDoorbell index s
  | .linkRetrainComplete port => Sys2Proof.Machine.execLinkRetrainComplete port s
  | .ideKeyManagement proto key => Sys2Proof.Machine.execIdeKeyManagement proto key s
  | .collapseAnswer ctx va device => Sys2Proof.Machine.execCollapseAnswer ctx va device s

end Sys2Proof.Machine
end

