-- ==== Sys2Proof/Machine/Standing.lean ====
section
/-! DEFINITION. The steps of the device that its state calls for by itself, apart from the messages in flight, and what holds a wave back
from issuing. Each step looks for itself whether it is due. -/

namespace Sys2Proof.Machine

/-! ## Waves, blocks and the scheduler -/

/-- The steps of a wave: its counters, streams and pushes, its place in the issue order, and traps that it is to take. -/
def waveSteps (k : Nat) (w : Wave) : List Ev :=
  ([OpCls.ld, .st, .cp, .tl].map fun c => .countedOpComplete k c) ++ ((List.range 4).map fun q => .queueStreamFetch k q) ++
    (w.ops.filterMap fun o => match o.kind with
      | .push _ => some (Ev.queueStreamDrain k o.id)
      | _ => none) ++
    [.waveToPending k, .pendingWaveReady k, .trapEntry k]

/-- The steps of a block: its pools and tile operations, and what the scheduler may do with it. -/
def blockSteps (blk : Nat) (b : Block) : List Ev :=
  [.poolWaveStart blk, .tileOpFire blk, .saveOnWait blk, .saveComplete blk, .migration blk, .relaunch blk, .preemptionRequest blk,
    .blockRetire blk] ++
    b.tiles.flatMap fun t => [.operandsConsumed blk t.id, .tileOpComplete blk t.id]

/-- The launches that a stack may have kept waiting. -/
def waitingLaunches (s : State) : List Nat :=
  (s.work.queue ++ (s.work.relaunch.filterMap fun b => (s.block b).map Block.launch) ++
    ((waitingWaves s 0 ++ waitingWaves s 1).map fun q => q.2.1.launch)).eraseDups

/-- The steps of the scheduler of a stack. -/
def stackSteps (s : State) (stack : Nat) : List Ev :=
  [.blockAdmit stack, .rasterise stack, .fragmentWaveLaunch stack, .cellEviction stack, .throttleStep stack] ++
    (waitingLaunches s).map fun l => .admissionWaitExpiry stack l

/-- The steps of a copy: its start, and the landing of one of its sectors, any of them. -/
def copySteps (s : State) (id : Nat) (c : Copy) : List Ev :=
  [.copyStart id, .sectorLand id (c.left.getD (Config.choose s.tick % c.left.length) 0)]

/-! ## Surfaces and plot units -/

/-- The banks that exports wait at. -/
def ropSteps (s : State) : List Ev :=
  s.base.exports.flatMap fun p =>
    match s.base.batches.look p.2.frag.batch with
    | some b => ([b.depth, b.colour].filterMap id).map fun e => .ropApply p.2.frag.stack (bankOf e (p.2.frag.px / 4) (p.2.frag.py / 4))
    | none => []

/-- The steps of the plot units. -/
def plotSteps (s : State) : List Ev :=
  (s.base.plots.flatMap fun p => .plotComplete p.1 :: p.2.units.map fun u => .plotUnitStart u.1 u.2) ++
    s.base.threads.flatMap fun p =>
      [.plotThreadIssue (p.1 / 2048) (p.1 % 2048 / 16) (p.1 % 16), .plotWordLimit (p.1 / 2048) (p.1 % 2048 / 16) (p.1 % 16)]

/-! ## Hardware writes through read-duplicate pages -/

/-- The places to which the hardware is about to write: context, address and bytes (17_translation R388, R390, 13_raster R291,
12_ordered_sections R260, 14_plot_units R316, 19_traps R434). -/
def hwPlaces (s : State) : List (Nat × Nat × Nat) :=
  let queue (c : Nat) : List (Nat × Nat × Nat) := match s.ctxs.look c with
    | some x => [(c, x.cfg.evBase, 16), (c, x.cfg.evBase + 64 + 32 * ((hwRead s c x.cfg.evBase 4).getD 0 % 2 ^ x.cfg.evK), 32)]
    | none => []
  let cfg (c : Nat) (f : CtxRec → List (Nat × Nat × Nat)) : List (Nat × Nat × Nat) := ((s.ctxs.look c).map fun x => f x.cfg).getD []
  (s.dev.postings.flatMap fun p => queue p.ctx) ++
    ((s.base.plots.filter fun p => plotOver s p.1 p.2).map fun p => (p.2.ctx, p.2.va + 0x40, 16)) ++
    (s.base.threads.filterMap fun t => (s.base.plots.look t.2.plot).bind fun p => (threadWaits s p t.2).map fun va => (p.ctx, va, 16)) ++
    ((s.work.blocks.filter fun b => b.2.status != .running || b.2.preempt).map fun b => (b.2.ctx, saveImg s b.1, saveSize s b.1)) ++
    s.pending.flatMap fun e => match e with
      | .completionArrival c va _ _ => [(c, va, 16)]
      | .launchQueueEntry c q => cfg c fun x => [(c, x.lqTable + 32 * q, 32)]
      | .waypointRequest r => cfg r.ctx fun x => (backingSlots x r.key).map fun va => (r.ctx, va, 16)
      | .waypointClaim r => cfg r.ctx fun x => (backingSlots x r.key).map fun va => (r.ctx, va, 16)
      | _ => []

/-- The requests to collapse the read-duplicate groups that those writes wait for (17_translation R403). -/
def hwCollapses (s : State) : List Ev :=
  (hwPlaces s).flatMap fun q => ((pageRuns q.2.1 q.2.2).filter fun r => collapsible s q.1 r.1).map fun r => collapseEv s q.1 r.1

/-! ## All of them -/

/-- The steps that the state calls for by itself. -/
def standing (s : State) : List Ev :=
  (if s.dev.bootStage < 3 then [.reset] else []) ++
    (s.work.waves.flatMap fun p => waveSteps p.1 p.2) ++
    (s.work.blocks.flatMap fun p => blockSteps p.1 p.2) ++
    stackSteps s 0 ++ stackSteps s 1 ++
    (s.work.cores.map fun p => .forcedExchange p.1) ++
    (s.work.forwards.map fun f => .forwardingEntryRelease f.blk) ++
    (s.work.copies.flatMap fun p => copySteps s p.1 p.2) ++
    (s.mem.l1.map fun l => .l1Eviction l.core l.line) ++
    (s.base.gaps.map fun g => .waypointGap g.uid) ++ (s.base.waits.map fun q => .deadlockWalk q.req.uid) ++
    ropSteps s ++ poolSteps s ++ plotSteps s ++ hwCollapses s ++ s.dev.links.map fun p => .linkDown p.1

/-! ## What holds a wave back -/

/-- The block of a wave does not let it issue: it is written out, leaves its core at a packet boundary, or has stopped (16_scheduling R374,
R377). -/
def blockHolds (s : State) (w : Wave) : Bool :=
  match s.block w.blk with
  | some b =>
    match b.status with
    | .running => false
    | .migrating => atBoundary w
    | _ => true
  | none => true

/-- The context of a wave has been stopped, and the wave stands where it stops (17_translation R389, 20_errors R443). -/
def ctxHolds (s : State) (w : Wave) : Bool := ((s.ctxs.look (ctxOf s w)).map fun c => c.stopped && waveStands s w).getD true

/-- A wave waits for what its last word sent: a PRIM's acceptance, the write of an SRFSET, or a PLOT's acceptance by each of its sequencers
(13_raster R282, R289, 14_plot_units R315). -/
def wordHolds (s : State) (k : Nat) : Bool :=
  (s.base.batches.any fun p => p.2.wave == k && p.2.accepted.isNone) || (s.base.sets.any fun p => p.2.wave == k) ||
    s.base.plots.any fun p => p.2.wave == k && p.2.onStacks.any fun t => (p.2.accepted.look t).isNone

/-- A wave does not issue now. -/
def heldBack (s : State) (k : Nat) (w : Wave) : Bool := blockHolds s w || ctxHolds s w || wordHolds s k || testing w || (trapNow s w).isSome

end Sys2Proof.Machine
end

