-- ==== Sys2Proof/Machine/Issue.lean ====
section
/-! DEFINITION. How a wave issues its next chain, which mover takes a step, and the clocks (02_encoding R19 to R24, R43,
R50, 15_execution_model R327, R341, 16_scheduling R369, R381). -/

namespace Sys2Proof.Machine

/-- The latch of the issue stage for a chain of a wave. -/
def latch (s : State) (k : Nat) (pre : Option Wave) (next : NextPc) : State :=
  { s with issue := { wave := some k, pre := pre, next := next, moved := false, held := false, posts := [], traps := [], conds := [] } }

/-- The words of a chain run one after another, until one stops the machine. -/
def runWords (s : State) : List Instr → Host.Outcome State Fault Refusal
  | [] => .next s
  | i :: t =>
    match exec i s with
    | .next s1 => runWords s1 t
    | .fault r => .fault r
    | .refused r => .refused r

/-- The instructions of a chain whose words all decode. -/
def instrsOf (c : List (Nat × Nat)) : List Instr :=
  c.filterMap fun p => match decode p.2 with
    | .ok i => some i
    | .error _ => none

/-- A wave would have more than 63 operations of a class outstanding (02_encoding R34). -/
def overfull (s : State) (k : Nat) : Bool := (s.wave k).any fun w => [OpCls.ld, .st, .cp, .tl].any fun c => decide (63 < opCount w c)

/-- A chain without a decode trap run: alone by its one word, or as several words that read the state before it (R20),
with the traps, the enabled conditions, the wait or the effect of all of them (R23, R43, R70). When one word cannot issue yet and another
raises a trap, the trap is taken at once and not after the wait, which the manual leaves open (DESIGN CHOICE, log 61). -/
def runChain (s : State) (k : Nat) (w : Wave) (next : NextPc) (is : List Instr) : Host.Outcome State Fault Refusal :=
  if is.any fun i => !privileged w.level i then
    .next (endChain (latch s k none next) k (batch w) (.trap (mkTrap 0x07 (batch w) 0 0)))
  else
    match is with
    | [i] => exec i (latch s k none next)
    | _ =>
      let s1 := latch s k (some w) next
      match runWords s1 is with
      | .next s2 =>
        match pickTrap (s2.issue.traps ++ (condTrap w s2.issue.conds).toList) with
        | some t => .next (endChain (s1.withConds s2.issue.conds) k (batch w) (.trap t))
        | none => if s2.issue.held || overfull s2 k then .next (endChain s1 k (batch w) (.stall s2.issue.posts)) else .next (endChain s1 k (batch w) (.ok s2))
      | .fault r => .fault r
      | .refused r => .refused r

/-- The chain that a wave issues next: the repeat of a REP in progress, or the chain at the batch's PC, with where the
batch goes after it: between two repeats it stays at the REP, and after the last it goes past the repeated word (R342). -/
def nextChain (w : Wave) (ws : List Nat) (pc : Pc) : List (Nat × Nat) × NextPc :=
  match w.repAt with
  | some _ =>
    let rep := ws.getD pc.slot 0
    ([(pc.slot + 1, stepWord (ws.getD (pc.slot + 1) 0) w.rep (bits rep 24 19 + 1 - w.rep.remaining.toNat))],
      if w.rep.remaining.toNat ≤ 1 then nextPlace ws (pc.slot + 2) else .stay)
  | none => chainOf ws pc.slot

/-- The checks of R340 for a REP whose repeats go on: those of the REP word that stands there, and the fields that the step flags of repstate
select. They tell something new only where a handler has changed tpc or repstate, or a store the code (DEDUCED, log 91). -/
def repTrap (w : Wave) (ws : List Nat) (pc : Pc) : Option Trap :=
  let rep := ws.getD pc.slot 0
  if isRep rep && ((wordCause ws pc.slot rep true).isSome ||
      badFields (w.rep.steps.getLsbD 2) (w.rep.steps.getLsbD 1) (w.rep.steps.getLsbD 0) (ws.getD (pc.slot + 1) 0)) then
    some (mkTrap 0x01 (batch w) (codeAddr w.codeBase.toNat pc.packet pc.slot) rep).told
  else none

/-- The decode checks of the chain that a wave issues next. A repeat is checked as if it were encoded so (R341), after the REP itself. -/
def chainTrap (w : Wave) (ws : List Nat) (pc : Pc) (c : List (Nat × Nat)) : Option Trap :=
  match w.repAt with
  | some _ =>
    match repTrap w ws pc with
    | some t => some t
    | none => decodeTrap (ws.set (pc.slot + 1) ((c.headD (0, 0)).2)) w.codeBase.toNat pc.packet (batch w) c
  | none => decodeTrap ws w.codeBase.toNat pc.packet (batch w) c

/-- A wave issues its next chain, unless it is held back. -/
def issueWave (s : State) (k : Nat) : Host.Outcome State Fault Refusal :=
  match s.wave k with
  | none => .next { s with issue := { Issue.idle with held := true } }
  | some w =>
    if heldBack s k w then .next { s with issue := { Issue.idle with held := true } }
    else
    match minPc w with
    | none => .next { s with issue := { Issue.idle with held := true } }
    | some pc =>
      if !fetchOpen s w pc.packet then .next { s with issue := { Issue.idle with held := true } }
      else
      match fetchPacket s w pc.packet with
      | .error t => .next (endChain (latch s k none .off) k (batch w) (.trap t))
      | .ok (ws, s1) =>
        let c := nextChain w ws pc
        match chainTrap w ws pc c.1 with
        | some t => .next (endChain (latch s1 k none c.2) k (batch w) (.trap t))
        | none =>
          runChain s1 k w c.2 (instrsOf c.1)

/-- A wave that has issued takes the last place of its core's issue order (16_scheduling R369). -/
def rotate (s : State) (k : Nat) : State :=
  { s with work := { s.work with cores := s.work.cores.map fun p =>
      (p.1, { p.2 with active := p.2.active.filter (fun a => a.1 != k) ++
        (p.2.active.filter fun a => a.1 == k).map fun a => (a.1, a.2.1, s.dev.cycles) }) } }

/-- A wave's chain would issue now: it is not held back, and no fault of the model stops it. -/
def canMove (s : State) (k : Nat) : Bool :=
  match issueWave s k with
  | .next s1 => !s1.issue.held
  | _ => true

/-- The first wave in each core's issue order that can issue (16_scheduling R369). -/
def readyWaves (s : State) : List Nat :=
  s.work.cores.filterMap fun p => (p.2.active.map Prod.fst).find? (canMove s)

/-- A wave as it would stand with its operations and fetches done, but for some. -/
def freed (s : State) (k : Nat) (keep : Dep → Bool) : State :=
  match s.wave k with
  | none => s
  | some w =>
    let done := w.ops.filter fun o => !o.counted && !keep (.op o.id)
    let w1 := done.foldl (landOp s) w
    s.setWave k { w1 with
      ops := w1.ops.filter fun o => !(done.any fun x => x.id == o.id)
      streams := ((List.range 4).zip w1.streams).map fun p =>
        if keep (.fetch p.1) then p.2 else { p.2 with held := p.2.held.map fun e => { e with landed := true } } }

/-- The operations and fetches that hold a wave's chain: each that holds it by itself, or together where none does so (16_scheduling R370). -/
def holding (s : State) (k : Nat) : List Dep :=
  match s.wave k with
  | none => []
  | some w =>
    if canMove s k then []
    else
      let ds := depsOf w
      let alone := ds.filter fun d => !canMove (freed s k fun e => e == d) k
      if alone.isEmpty then ds else alone

/-- What holds the chain of a wave that is to change its set noted (16_scheduling R370). -/
def noteHolds (s : State) : Ev → State
  | .waveToPending k => s.mapWave k fun w => { w with holds := holding s k }
  | .pendingWaveReady k => s.mapWave k fun w => { w with holds := holding s k }
  | _ => s

/-- A wave leaves the active set only when every fibre is parked, or its chain could issue were its operations and fetches done
(16_scheduling R370). -/
def setsMove (s : State) : Ev → Bool
  | .waveToPending k => ((s.wave k).map allParked).getD false || (!canMove s k && canMove (freed s k fun _ => false) k)
  | _ => true

/-- The movers of a step: the steps of the device in flight and those that its state calls for, and one wave for each core. -/
def movers (s : State) : List Mover := ((s.pending ++ standing s).filter (setsMove s)).map Mover.event ++ (readyWaves s).map Mover.wave

/-- A step taken by one mover. -/
def move (s : State) : Mover → Host.Outcome State Fault Refusal
  | .event e => execEv e (noteHolds s e)
  | .wave k =>
    match issueWave s k with
    | .next s1 => if s1.issue.held then .next s else .next (rotate { s1 with issue := Issue.idle } k)
    | .fault r => .fault r
    | .refused r => .refused r

/-- A stack's framecycles after a step; it saturates, and stands while the stack is contained (16_scheduling R381, 20_errors R446). -/
def nextFrame (s : State) (stack n : Nat) : Nat := if s.dev.contained.contains stack then n else min (n + 1) (2 ^ 32 - 1)

/-- The clocks after a step: the core cycle counter, framecycles of both stacks and the time since the last strobe edge (16_scheduling R381, R382), the counter of free values, the park
times of the blocks, the waits that reach their 2^24th cycle, the waits for room in a surface pool, the postings that a home slice now takes, and the saved blocks whose event
has come (log 10, log 18, 12_ordered_sections R269, R276, 16_scheduling R373, R376). -/
def clock (s : State) : State :=
  queueWoken (notePark (notePoolWaits (noteGaps (drainPostings { s with
    tick := s.tick + 1
    dev := { s.dev with
      cycles := s.dev.cycles + 1
      edgeAge := s.dev.edgeAge.map (· + cycleTime s)
      frame0 := nextFrame s 0 s.dev.frame0
      frame1 := nextFrame s 1 s.dev.frame1 } }))))

/-- The mover of a step: the one that is fixed, else a free choice among those that can move. -/
def chooseMover (s : State) : Option Mover :=
  match s.turn with
  | some m => some m
  | none => (movers s)[Config.choose s.tick % (movers s).length]?

/-- One step: a mover moves, and the clocks advance. -/
def stepOnce (s : State) : Host.Outcome State Fault Refusal :=
  match chooseMover s with
  | none => .next (clock s)
  | some m =>
    match move { s with turn := none } m with
    | .next s1 => .next (clock s1)
    | .fault r => .fault r
    | .refused r => .refused r

end Sys2Proof.Machine
end

