-- ==== Sys2Proof/Machine/Step.lean ====
section
/-! DEFINITION. The step of the machine. -/

namespace Sys2Proof.Machine

/-- One step of the machine. -/
def step (s : State) : Host.Outcome State Fault Refusal := stepOnce s

/-- The state with one instruction loaded where the next step fetches (log 23). -/
def State.withFetchWord (s : State) (nbits w : Nat) : State := bootState s (w % 2 ^ nbits)

end Sys2Proof.Machine
end

