-- ==== Sys2Proof/Safety.lean ====
section
/-! DEFINITION. What counts as a safe run, and the words in which claims say what an instruction does. -/

namespace Sys2Proof

open Sys2Proof.Machine

/-! ## Invariants -/

/-- The invariant of a state: both memories have their canonical form. -/
def Inv (s : State) : Prop := Memory.wf s.mem.mem = true ∧ Memory.wf s.mem.far = true

/-- A step that the machine takes: no fault and no refusal. -/
def Runs (s : State) : Prop := ∃ t, step s = .next t

/-! ## Words of a chain -/

/-- Wave `k` issues a word that reads `r` and writes `w` (02_encoding R20). -/
def Issues (s : State) (k : Nat) (r w : Wave) : Prop := issuing s = some (k, r, w)

/-- The state after a word with an outcome: alone it ends its chain, and in a chain of several words its outcome stands in the latch of
the issue stage (R19, R20, R23). -/
def wordEnds (s : State) (k : Nat) (r : Wave) (x : Res) : State :=
  match s.issue.pre with
  | none => endChain s k (batch r) x
  | some _ => noteWord s x

/-- The instruction completes with its own effect, the state `t`. -/
def Completes (i : Instr) (s : State) (k : Nat) (r : Wave) (t : State) : Prop := exec i s = .next (wordEnds s k r (.ok t))

/-- The instruction raises a trap. -/
def Raises (i : Instr) (s : State) (k : Nat) (r : Wave) (x : Trap) : Prop := exec i s = .next (wordEnds s k r (.trap x))

/-- The instruction cannot issue yet. -/
def Waits (i : Instr) (s : State) (k : Nat) (r : Wave) : Prop := exec i s = .next (wordEnds s k r .hold)

/-- A trap of the whole batch. -/
def batchTrap (r : Wave) (cause info : Nat) : Trap := mkTrap cause (batch r) 0 info

/-- The lane slots of a wave rise, and a lane slot has at most 4096 physical registers. -/
def Ordered (r : Wave) : Prop := r.fibres.Pairwise (fun a b => a.1 < b.1) ∧ r.p ≤ 4096

/-- The fibres of the batch with the values of their source fields. -/
def inputs (s : State) (r : Wave) (vals : Map (Map Word)) (srcs : List Nat) : List LaneIn :=
  (fibresOf r (batch r)).map fun p => { lane := p.1, fibre := p.2, vals := srcs.map fun v => srcVal s r vals p.1 p.2 v }

/-- The conditions that the fibres of a batch raise (04_number_formats R69). -/
def raisedBy (ins : List LaneIn) (c : LaneIn → Conds) : List (Nat × BitVec 7) :=
  (ins.filter fun x => c x != 0).map fun x => (x.lane, c x)

/-- The state with conditions noted for its chain. -/
def raising (s : State) (cs : List (Nat × BitVec 7)) : State := { s with issue := { s.issue with conds := s.issue.conds ++ cs } }

/-- Operations that differ at most in what a later write has marked in them (02_encoding R36). -/
def OpsAlike (a b : List MemOp) : Prop := a.map (fun o => { o with clobbered := [] }) = b.map fun o => { o with clobbered := [] }

/-- A word reads its fields: it issues, its register fields pass the checks (02_encoding R29, R30), and each queue that it names gives an
element; `w1` is the wave after the pops. -/
def FieldsRead (s : State) (k : Nat) (r w : Wave) (chk : Option Trap) (srcs : List Nat) (vals : Map (Map Word)) (w1 : Wave) : Prop :=
  Issues s k r w ∧ chk = none ∧ popPorts s r w (portsOf srcs) = .ok (vals, w1)

/-- What a fibre of the batch computes from all of them: register words and conditions. -/
abbrev LaneFn := State → Wave → List LaneIn → LaneIn → List Word × Conds

/-- The instruction writes, in each fibre of its batch and in no other place, the words of `g` to its registers from `d` on; or, where
`d` is a store queue, pushes the first of them. -/
def ComputesRun (i : Instr) (chk : Wave → Option Trap) (srcs : List Nat) (d n : Nat) (g : LaneFn) : Prop :=
  ∀ s k r w vals w1, FieldsRead s k r w (chk r) srcs vals w1 → Ordered r →
    let ins := inputs s r vals srcs
    let c := raisedBy ins fun x => (g s r ins x).2
    (d < 124 → ∃ (V : Map Word) (O : List MemOp), OpsAlike O w1.ops ∧
      Completes i s k r ((raising s c).setWave k { w1 with vregs := V, ops := O }) ∧
      (∀ x ∈ ins, ∀ j < n, V.get (physKey x.lane (x.fibre.base + (d + j))) 0 = nth (g s r ins x).1 j) ∧
      ∀ m, (∀ x ∈ ins, ∀ j < n, m ≠ physKey x.lane (x.fibre.base + (d + j))) → V.get m 0 = w1.vregs.get m 0) ∧
    ∀ q t, d = 124 + q → 2 ≤ q → q ≤ 3 →
      pushQueue (raising s c) k r w1 q (ins.map fun x => (x.lane, nth (g s r ins x).1 0)) = .ok t → Completes i s k r t

/-- The instruction writes one word in each fibre of its batch. -/
def Computes (i : Instr) (srcs : List Nat) (d : Nat) (g : State → Wave → List LaneIn → LaneIn → Word × Conds) : Prop :=
  ComputesRun i (fun r => portCheck r srcs [d]) srcs d 1 fun s r ins x => ([(g s r ins x).1], (g s r ins x).2)

/-- The instruction writes one word computed from the fibre's own sources, without a condition. -/
def Gives (i : Instr) (srcs : List Nat) (d : Nat) (g : LaneIn → Word) : Prop := Computes i srcs d fun _ _ _ x => (g x, 0)

/-- The instruction writes one word computed from the fibre's own sources, with conditions. -/
def GivesFlag (i : Instr) (srcs : List Nat) (d : Nat) (g : LaneIn → Word × Conds) : Prop := Computes i srcs d fun _ _ _ x => g x

/-- The instruction writes one floating-point result. -/
def GivesFloat (i : Instr) (srcs : List Nat) (d : Nat) (g : LaneIn → FRes) : Prop :=
  Computes i srcs d fun _ _ _ x => (BitVec.ofNat 32 (g x).bits, (g x).conds)

/-- The instruction writes predicates in each fibre of its batch and nothing else. -/
def SetsPreds (i : Instr) (srcs : List Nat) (g : List LaneIn → LaneIn → List (PReg × Bool) × Conds) : Prop :=
  ∀ s k r w vals w1, FieldsRead s k r w (portCheck r srcs []) srcs vals w1 → Ordered r →
    let ins := inputs s r vals srcs
    ∃ F : Map Fibre, Completes i s k r ((raising s (raisedBy ins fun x => (g ins x).2)).setWave k { w1 with fibres := F }) ∧
      (∀ x ∈ ins, F.look x.lane = (w1.fibres.look x.lane).map fun f =>
        { f with preds := (g ins x).1.foldl (fun a p => setPred a p.1 p.2) f.preds }) ∧
      ∀ l, (∀ x ∈ ins, x.lane ≠ l) → F.look l = w1.fibres.look l

/-- The instruction writes one uniform register and nothing else (05_vector_scalar R86, R90). -/
def GivesUniform (i : Instr) (d : SReg) (g : Wave → Word) : Prop :=
  ∀ s k r w, Issues s k r w → Completes i s k r (s.setWave k { w with sregs := w.sregs.store d.toNat (g r) 0 })

/-! ## Words that reach memory -/

/-- Every access of a word passes its checks, and its class has room (02_encoding R34, 10_memory_instructions R197). -/
def AccessesPass (r : Wave) (cls : Option OpCls) (ts : List Try) : Prop :=
  (∀ c, cls = some c → classFull r c = false) ∧ ∀ t ∈ ts, t.access.isSome = true

/-- The pages that a word names are all open to it: `pages` is where they lead (17_translation R395 to R397). -/
def PagesOpen (s : State) (r : Wave) (vas : List (Nat × Access)) (pages : Map PageAt) : Prop :=
  let ts := ((List.range vas.length).zip vas).map fun p => pageTry s r p.1 p.2.1 p.2.2
  (∀ t ∈ ts, t.access.isSome = true) ∧ pages = pagesOf (ts.filterMap Try.access)

/-- A copy of a wave may be issued: it has a place and its class has room, its descriptor passes every check, its pages are open, and its
source can be written through (11_async_copies R228 to R234). -/
def CopyReady (s : State) (r : Wave) (x : Bool) (p : Plan) (pages : Map PageAt) : Prop :=
  placesTaken s (coreOf s r) = false ∧ classFull r .cp = false ∧ PagesOpen s r p.pages pages ∧
    (∀ c ∈ commonChecks s r p.desc x p.cbOk ++ slotCheck s r p.desc p :: sectorCheck p.bytes :: p.low ++ p.high ++ destCheck s r p.desc p ++ peerChecks p pages,
      c.1 = false) ∧
    sourceFree s (coreOf s r) pages = true

/-- The state with a copy under way. -/
def copying (s : State) (k : Nat) (r w : Wave) (x : Bool) (p : Plan) (pages : Map PageAt) : State :=
  (enterCopy s k r w x p pages).posts (pageWalks s r (p.pages.map Prod.fst))

/-- A tile word may be issued: its block's queue has room, and its class when it is counted (06_matrix R134). -/
def TileRoom (s : State) (r : Wave) (counted : Bool) : Prop :=
  queueFull s r.blk = false ∧ (counted = true → classFull r .tl = false)

/-! ## What arrays hold -/

/-- No tile operation is queued in any block. -/
abbrev NoTiles (s : State) : Prop := ∀ p ∈ s.work.blocks, p.2.tiles = []

/-- A block stands on its core: its scratchpad is there and not in a save image. -/
def OnCore (s : State) (blk : Nat) : Prop := ∃ b, s.block blk = some b ∧ b.status ≠ .saved

/-- A byte of the scratchpad of a block. -/
def spmAt (s : State) (blk a : Nat) : Byte := ((s.block blk).map fun b => b.spm.get a 0).getD 0

/-- A word of the slabs of a block. -/
def slabAt (s : State) (blk i : Nat) : Word := ((s.block blk).map fun b => b.slabs.get i 0).getD 0

/-- The barrier object at an offset of a block's scratchpad (11_async_copies R244). -/
def objAt (s : State) (blk off : Nat) : BarFields := barOf (leNat ((List.range 16).map fun i => spmAt s blk (off + i)))

/-- A barrier object of device memory, as its line's home slice holds it. -/
def objMem (m : MemSys) (key : Option Nat) (pa : Nat) : BarFields := barOf (leNat (seenBytes m key pa 16))

/-- An access of an operation has been done with a value. -/
def SubDone (t : State) (k op sub : Nat) (w : Wave) (v : Nat) : Prop :=
  ∃ w1, t.wave k = some w1 ∧ w1.ops = w.ops.map (fun o => if o.id = op then
    { o with subs := o.subs.modify sub fun x => { x with done := true, busy := false, value := BitVec.ofNat 64 v } } else o)

/-! ## Steps of the device -/

/-- A step of the device that is due: it is no longer in flight, and its effect is `f` of what is left. -/
def Acts (i : Instr) (e : Ev) (s : State) (f : State → State) : Prop := exec i s = .next (f { s with pending := s.pending.erase e })

/-- A step of the device that is not due changes nothing. -/
def Idles (i : Instr) (s : State) : Prop := exec i s = .next s

/-- The instruction that a step of the device is. -/
def Ev.names (i : Instr) : Ev → Prop
  | .reset => i = .reset
  | .frstrbEdge => i = .frstrbEdge
  | .create slot => i = .create slot
  | .update slot => i = .update slot
  | .kill slot => i = .kill slot
  | .attest slot => i = .attest slot
  | .route slot => i = .route slot
  | .log slot => i = .log slot
  | .stackreset slot => i = .stackreset slot
  | .thermal slot => i = .thermal slot
  | .unknownOpcode slot => i = .unknownOpcode slot
  | .launchDoorbell ctx q => i = .launchDoorbell ctx q
  | .launchQueueEntry ctx q => i = .launchQueueEntry ctx q
  | .msiXTableEntry v part value => i = .msiXTableEntry v part value
  | .registerWrite off n value => i = .registerWrite off n value
  | .cxlMemAccess write pa n value => i = .cxlMemAccess write pa n value
  | .peerCommand src origin id ctx pa op => i = .peerCommand src origin id ctx pa op
  | .flitForward src dst payload => i = .flitForward src dst payload
  | .replay port => i = .replay port
  | .linkDown port => i = .linkDown port
  | .linkRecovery port => i = .linkRecovery port
  | .temperatureAboveLimit stack => i = .temperatureAboveLimit stack
  | .throttleStep stack => i = .throttleStep stack
  | .thermalTrip stack => i = .thermalTrip stack
  | .regulatorFault => i = .regulatorFault
  | .regulatorFaultCleared => i = .regulatorFaultCleared
  | .powerArbiterStep stack k => i = .powerArbiterStep stack k
  | .faultRetry f => i = .faultRetry f
  | .surveyorPass stack corrected bad => i = .surveyorPass stack corrected bad
  | .verticalBusRepair stack bundle lane => i = .verticalBusRepair stack bundle lane
  | .repairRemap stack bundle lane => i = .repairRemap stack bundle lane
  | .blockAdmit stack => i = .blockAdmit stack
  | .admissionWaitExpiry stack launch => i = .admissionWaitExpiry stack launch
  | .blockRetire blk => i = .blockRetire blk
  | .completionArrival ctx va record source => i = .completionArrival ctx va record source
  | .waveToPending wave => i = .waveToPending wave
  | .pendingWaveReady wave => i = .pendingWaveReady wave
  | .forcedExchange core => i = .forcedExchange core
  | .saveOnWait blk => i = .saveOnWait blk
  | .saveComplete blk => i = .saveComplete blk
  | .relaunch blk => i = .relaunch blk
  | .migration blk => i = .migration blk
  | .migrationComplete blk core => i = .migrationComplete blk core
  | .forwardingEntryRelease blk => i = .forwardingEntryRelease blk
  | .preemptionRequest blk => i = .preemptionRequest blk
  | .trapEntry wave => i = .trapEntry wave
  | .barrierOverrunReport wave taddr => i = .barrierOverrunReport wave taddr
  | .droppedBarrierRequest wave lanes taddr packet slot dst => i = .droppedBarrierRequest wave lanes taddr packet slot dst
  | .tableFullReport wave lanes key skip => i = .tableFullReport wave lanes key skip
  | .blockStoreFailure wave lanes reason => i = .blockStoreFailure wave lanes reason
  | .peerRefusal wave va write => i = .peerRefusal wave va write
  | .poolWaveStart blk => i = .poolWaveStart blk
  | .countedOpComplete wave cls => i = .countedOpComplete wave cls
  | .homeSliceRequest wave op sub => i = .homeSliceRequest wave op sub
  | .l1Eviction core line => i = .l1Eviction core line
  | .evictionNotice core line data => i = .evictionNotice core line data
  | .regionNotice cluster region => i = .regionNotice cluster region
  | .noticeAck cluster region => i = .noticeAck cluster region
  | .probe cluster line inval => i = .probe cluster line inval
  | .probeAck cluster line regionEmpty data => i = .probeAck cluster line regionEmpty data
  | .queueStreamFetch wave q => i = .queueStreamFetch wave q
  | .queueStreamDrain wave op => i = .queueStreamDrain wave op
  | .pageWalk core ctx va => i = .pageWalk core ctx va
  | .pageMigration ctx va retire => i = .pageMigration ctx va retire
  | .pageMigrationComplete ctx va frame => i = .pageMigrationComplete ctx va frame
  | .collapseRequest ctx va writer frame => i = .collapseRequest ctx va writer frame
  | .groupRewrite ctx va writer frame lead => i = .groupRewrite ctx va writer frame lead
  | .collapseGrant ctx va => i = .collapseGrant ctx va
  | .copyStart id => i = .copyStart id
  | .sectorLand id k => i = .sectorLand id k
  | .barrierUpdate wave obj upd => i = .barrierUpdate wave obj upd
  | .remoteBarrierRequest wave lanes gen addr obj phase test => i = .remoteBarrierRequest wave lanes gen addr obj phase test
  | .bwaitRelease wave obj => i = .bwaitRelease wave obj
  | .remoteMessage m => i = .remoteMessage m
  | .tileOpFire blk => i = .tileOpFire blk
  | .operandsConsumed blk id => i = .operandsConsumed blk id
  | .tileOpComplete blk id => i = .tileOpComplete blk id
  | .waypointRequest r => i = .waypointRequest r
  | .waypointMulticast core ctx key n => i = .waypointMulticast core ctx key n
  | .waypointClaim r => i = .waypointClaim r
  | .waypointAnswer uid key ans => i = .waypointAnswer uid key ans
  | .deadlockWalk uid => i = .deadlockWalk uid
  | .waypointGap uid => i = .waypointGap uid
  | .mcasLockRequest id => i = .mcasLockRequest id
  | .mcasLockAck id => i = .mcasLockAck id
  | .batchAccept id => i = .batchAccept id
  | .rasterise stack => i = .rasterise stack
  | .fragmentWaveLaunch stack => i = .fragmentWaveLaunch stack
  | .exportEntry id => i = .exportEntry id
  | .ropApply stack bank => i = .ropApply stack bank
  | .depthVerdict id pass => i = .depthVerdict id pass
  | .cellEviction stack => i = .cellEviction stack
  | .cellFetchBack ctx ste cx cy => i = .cellFetchBack ctx ste cx cy
  | .surfacePoolWait ctx ste cx cy => i = .surfacePoolWait ctx ste cx cy
  | .srfsetPerform id => i = .srfsetPerform id
  | .plotAccept id stack => i = .plotAccept id stack
  | .plotUnitStart stack unit => i = .plotUnitStart stack unit
  | .plotThreadIssue stack unit thread => i = .plotThreadIssue stack unit thread
  | .plotWordLimit stack unit thread => i = .plotWordLimit stack unit thread
  | .plotComplete id => i = .plotComplete id
  | .blockStoreRequest r => i = .blockStoreRequest r
  | .blockEviction ctx stack => i = .blockEviction ctx stack
  | .mailboxDoorbell index => i = .mailboxDoorbell index
  | .linkRetrainComplete port => i = .linkRetrainComplete port
  | .ideKeyManagement proto key => i = .ideKeyManagement proto key
  | .collapseAnswer ctx va device => i = .collapseAnswer ctx va device

end Sys2Proof
end

