-- ==== Sys2Proof/Certificates/Slice0/Obligations.lean ====
section
/-! DEFINITION. The statements for the provers. -/

open Sys2Proof Sys2Proof.Machine

/-! ## Encoding -/

/-- Decoding the word of a well-formed instruction gives the instruction back (02_encoding R25 to R31, 03_opcode_map R44 to R56). -/
def Obligations.DecodeOfEncode : Prop := ∀ i : Instr, i.wf = true → decode (encode i) = .ok i

/-- A word below 2^31 that decodes is the one word of its instruction, which is well-formed: no bit of a word is ignored
(03_opcode_map R46). -/
def Obligations.EncodeOfDecode : Prop := ∀ (w : Nat) (i : Instr), w < 2 ^ 31 → decode w = .ok i → encode i = w ∧ i.wf = true

/-- Words of a reserved major give trap 0x03, whatever their fields; the chain bit takes no part in what a word means (03_opcode_map R46, R49, R55,
02_encoding R16, R19). -/
def Obligations.ReservedMajorsRejected : Prop :=
  (∀ w : Nat, w < 2 ^ 32 →
    (0x1C ≤ w / 2 ^ 25 % 64 ∧ w / 2 ^ 25 % 64 ≤ 0x1F ∨ 0x2D ≤ w / 2 ^ 25 % 64 ∧ w / 2 ^ 25 % 64 ≤ 0x2F ∨ 0x37 ≤ w / 2 ^ 25 % 64) →
    decode w = .error .reserved ∧ DecodeTrap.reserved.code = 0x03) ∧
  (∀ w : Nat, w < 2 ^ 31 → decode (w + 2 ^ 31) = decode w)

/-- Words written out from the encoding tables decode to what they stand for. -/
def Obligations.WrittenWordsDecode : Prop :=
  decode 0b00000000000000000000000000000000 = .ok .nop ∧
  decode 0b00011000000011000000100000100000 = .ok (.iadd 3 1 2) ∧
  decode 0b00010000001010000101000010110000 = .ok (.sadd 10 10 11)

/-! ## The S pipe -/

/-- The words of SALU and SALUI write one uniform register with the value of the integer operation table: SADDI sign-extends its immediate, the
others zero-extend it, and SBYTE replaces one byte (05_vector_scalar R90, R86, 02_encoding R40). -/
def Obligations.UniformArithmetic : Prop :=
  (∀ d a b : SReg,
    GivesUniform (.sadd d a b) d (fun r => sreg r a.toNat + sreg r b.toNat) ∧
    GivesUniform (.ssub d a b) d (fun r => sreg r a.toNat - sreg r b.toNat) ∧
    GivesUniform (.smul d a b) d (fun r => sreg r a.toNat * sreg r b.toNat) ∧
    GivesUniform (.smulh d a b) d (fun r => BitVec.ofInt 32 ((sreg r a.toNat).toInt * (sreg r b.toNat).toInt / 2 ^ 32)) ∧
    GivesUniform (.sand d a b) d (fun r => sreg r a.toNat &&& sreg r b.toNat) ∧
    GivesUniform (.sor d a b) d (fun r => sreg r a.toNat ||| sreg r b.toNat) ∧
    GivesUniform (.sxor d a b) d (fun r => sreg r a.toNat ^^^ sreg r b.toNat) ∧
    GivesUniform (.sshl d a b) d (fun r => sreg r a.toNat <<< ((sreg r b.toNat).toNat % 256)) ∧
    GivesUniform (.sshr d a b) d (fun r => sreg r a.toNat >>> ((sreg r b.toNat).toNat % 256)) ∧
    GivesUniform (.ssra d a b) d (fun r => (sreg r a.toNat).sshiftRight ((sreg r b.toNat).toNat % 256)) ∧
    GivesUniform (.smin d a b) d (fun r => if (sreg r a.toNat).toInt ≤ (sreg r b.toNat).toInt then sreg r a.toNat else sreg r b.toNat) ∧
    GivesUniform (.smax d a b) d (fun r => if (sreg r a.toNat).toInt ≤ (sreg r b.toNat).toInt then sreg r b.toNat else sreg r a.toNat) ∧
    GivesUniform (.sminu d a b) d (fun r => if (sreg r a.toNat).toNat ≤ (sreg r b.toNat).toNat then sreg r a.toNat else sreg r b.toNat) ∧
    GivesUniform (.smaxu d a b) d (fun r => if (sreg r a.toNat).toNat ≤ (sreg r b.toNat).toNat then sreg r b.toNat else sreg r a.toNat) ∧
    GivesUniform (.smov d a) d (fun r => sreg r a.toNat)) ∧
  (∀ (d a : SReg) (i : BitVec 8) (c : BitVec 5) (b : BitVec 2),
    GivesUniform (.saddi d a i) d (fun r => sreg r a.toNat + i.signExtend 32) ∧
    GivesUniform (.sandi d a i) d (fun r => sreg r a.toNat &&& i.zeroExtend 32) ∧
    GivesUniform (.sori d a i) d (fun r => sreg r a.toNat ||| i.zeroExtend 32) ∧
    GivesUniform (.sxori d a i) d (fun r => sreg r a.toNat ^^^ i.zeroExtend 32) ∧
    GivesUniform (.sshli d a c) d (fun r => sreg r a.toNat <<< c.toNat) ∧
    GivesUniform (.sshri d a c) d (fun r => sreg r a.toNat >>> c.toNat) ∧
    GivesUniform (.ssrai d a c) d (fun r => (sreg r a.toNat).sshiftRight c.toNat) ∧
    GivesUniform (.sbyte d b i) d (fun r =>
      (sreg r d.toNat &&& ~~~(0xFF#32 <<< (8 * b.toNat))) ||| (i.zeroExtend 32 <<< (8 * b.toNat))))

/-- SCMP gives its predicate the same value in every live fibre of the wave, in the batch or not, and changes nothing else; p7 reads true and
takes no write (05_vector_scalar R91, 02_encoding R28). -/
def Obligations.UniformCompare : Prop :=
  (∀ (p : PReg) (a b : SReg) (c : ICc) (s : State) (k : Nat) (r w : Wave), Issues s k r w →
    Completes (.scmp p a b c) s k r (s.setWave k { w with fibres := w.fibres.map fun q =>
      (q.1, { q.2 with preds := setPred q.2.preds p (icmp c (sreg r a.toNat) (sreg r b.toNat)) }) })) ∧
  (∀ (f : Fibre) (p q : PReg) (b : Bool),
    pred f 7 = true ∧ setPred f.preds 7 b = f.preds ∧ pred { f with preds := setPred f.preds p b } q = if q = p ∧ p ≠ 7 then b else pred f q)

/-- CSRR reads the register that its index names, and RDLANE a lane slot's register; QSTAT reads a queue's state; a write of a control register, by
CSRW or as a register's own write, has the effect of its row. The registers 0x80 and above need supervisor level (05_vector_scalar R92, R93,
02_encoding R32, 10_memory_instructions R226, 08_memory_spaces R178, R179, 19_traps R428). -/
def Obligations.ControlRegisters : Prop :=
  (∀ (d : SReg) (a : VReg) (i : BitVec 8) (q : BitVec 2) (s : State) (k : Nat) (r w : Wave), Issues s k r w →
    (∀ x, (i.toNat < 0x80 ∨ r.level ≠ .user) → csrRead s r i.toNat = some x →
      Completes (.csrr d i) s k r (s.setWave k { w with sregs := w.sregs.store d.toNat x 0 })) ∧
    (i.toNat < r.width → a.toNat < 124 → a.toNat < r.n →
      Completes (.rdlane d a i) s k r (s.setWave k { w with sregs := w.sregs.store d.toNat (laneReg s r i.toNat a.toNat) 0 })) ∧
    Completes (.qstat d q) s k r (s.setWave k { w with sregs := w.sregs.store d.toNat (qstateWord q.toNat (streamOf r q.toNat)) 0 })) ∧
  (∀ (a : SReg) (i : BitVec 8) (q : BitVec 2) (v : Word) (h : Bool) (s s1 : State) (k : Nat) (r w w1 : Wave), Issues s k r w →
    ((i.toNat < 0x80 ∨ r.level ≠ .user) → csrWrite s w i.toNat (sreg r a.toNat) = some (s1, w1) →
      Completes (.csrw a i) s k r (s1.setWave k w1)) ∧
    Completes (.fstat v) s k r (s.setWave k { w with fstat := v.truncate 7 }) ∧
    Completes (.ftrap v) s k r (s.setWave k { w with ftrap := v.truncate 7 }) ∧
    (∀ x, x = streamOf w q.toNat →
      Completes (.qbasehi q v) s k r (s.setWave k (setStream w q.toNat
        { x with base := (v.truncate 16 : BitVec 16).signExtend 64 <<< 32 ||| (x.base.truncate 32 : Word).zeroExtend 64 })) ∧
      (v.toNat % 4 = 0 → v.toNat / 2 ^ 16 % 4 = 0 →
        Completes (.qstride q v) s k r (s.setWave k (setStream w q.toNat
          { x with lanestride := v.truncate 16, step := (v >>> 16).truncate 16 }))) ∧
      Completes (.qstate q v) s k r (s.setWave k (setStream w q.toNat
        { x with count := v.truncate 24, active := v.getLsbD 24, underrun := v.getLsbD 25, overrun := v.getLsbD 26 }))) ∧
    (r.level ≠ .user → Completes (.hstatus v) s k r (s.setWave k { w with savedBit := v.getLsbD 2, step := v.getLsbD 4 })) ∧
    (∀ c, r.level ≠ .user → s.ctxs.look (ctxOf s w) = some c → (h = false → v.toNat % 64 = 0) →
      Completes (.shbase h v) s k r ((s.setCtx (ctxOf s w) { c with shbase := withHalf c.shbase h v }).setWave k w)))

/-! ## The V pipe -/

/-- The two-source integer words (05_vector_scalar R96, R98, R85). -/
def Obligations.VectorInteger : Prop :=
  ∀ d a b : VReg,
    Gives (.iadd d a b) [a.toNat, b.toNat] d.toNat (fun x => x.arg 0 + x.arg 1) ∧
    Gives (.isub d a b) [a.toNat, b.toNat] d.toNat (fun x => x.arg 0 - x.arg 1) ∧
    Gives (.imul d a b) [a.toNat, b.toNat] d.toNat (fun x => x.arg 0 * x.arg 1) ∧
    Gives (.imulh d a b) [a.toNat, b.toNat] d.toNat (fun x => BitVec.ofInt 32 ((x.arg 0).toInt * (x.arg 1).toInt / 2 ^ 32)) ∧
    Gives (.imulhu d a b) [a.toNat, b.toNat] d.toNat (fun x => BitVec.ofNat 32 ((x.arg 0).toNat * (x.arg 1).toNat / 2 ^ 32)) ∧
    Gives (.iand d a b) [a.toNat, b.toNat] d.toNat (fun x => x.arg 0 &&& x.arg 1) ∧
    Gives (.ior d a b) [a.toNat, b.toNat] d.toNat (fun x => x.arg 0 ||| x.arg 1) ∧
    Gives (.ixor d a b) [a.toNat, b.toNat] d.toNat (fun x => x.arg 0 ^^^ x.arg 1) ∧
    Gives (.andn d a b) [a.toNat, b.toNat] d.toNat (fun x => x.arg 0 &&& ~~~x.arg 1) ∧
    Gives (.shl d a b) [a.toNat, b.toNat] d.toNat (fun x => x.arg 0 <<< ((x.arg 1).toNat % 256)) ∧
    Gives (.shr d a b) [a.toNat, b.toNat] d.toNat (fun x => x.arg 0 >>> ((x.arg 1).toNat % 256)) ∧
    Gives (.sra d a b) [a.toNat, b.toNat] d.toNat (fun x => (x.arg 0).sshiftRight ((x.arg 1).toNat % 256)) ∧
    Gives (.imin d a b) [a.toNat, b.toNat] d.toNat (fun x => if (x.arg 0).toInt ≤ (x.arg 1).toInt then x.arg 0 else x.arg 1) ∧
    Gives (.imax d a b) [a.toNat, b.toNat] d.toNat (fun x => if (x.arg 0).toInt ≤ (x.arg 1).toInt then x.arg 1 else x.arg 0) ∧
    Gives (.iminu d a b) [a.toNat, b.toNat] d.toNat (fun x => if (x.arg 0).toNat ≤ (x.arg 1).toNat then x.arg 0 else x.arg 1) ∧
    Gives (.imaxu d a b) [a.toNat, b.toNat] d.toNat (fun x => if (x.arg 0).toNat ≤ (x.arg 1).toNat then x.arg 1 else x.arg 0) ∧
    Gives (.bfe d a b) [a.toNat, b.toNat] d.toNat (fun x => fieldS (x.arg 0) (x.arg 1)) ∧
    Gives (.bfeu d a b) [a.toNat, b.toNat] d.toNat (fun x => fieldU (x.arg 0) (x.arg 1))

/-- The words with an immediate, the one-source words and the words that add to their destination; SPR and MOVS, words of the S pipe, write no
queue port (05_vector_scalar R96 to R98, R87, R92, R94, R117, R118). -/
def Obligations.VectorUnary : Prop :=
  let notPort (d : VReg) (r : Wave) : Option Trap := if 124 ≤ d.toNat then some (batchTrap r 0x05 0) else portCheck r [] [d.toNat]
  ∀ (d a b : VReg) (sa : SReg) (i : BitVec 8) (c : BitVec 5) (p : PReg),
    Gives (.iaddi d a i) [a.toNat] d.toNat (fun x => x.arg 0 + i.signExtend 32) ∧
    Gives (.andi d a i) [a.toNat] d.toNat (fun x => x.arg 0 &&& i.zeroExtend 32) ∧
    Gives (.ori d a i) [a.toNat] d.toNat (fun x => x.arg 0 ||| i.zeroExtend 32) ∧
    Gives (.xori d a i) [a.toNat] d.toNat (fun x => x.arg 0 ^^^ i.zeroExtend 32) ∧
    Gives (.shli d a c) [a.toNat] d.toNat (fun x => x.arg 0 <<< c.toNat) ∧
    Gives (.shri d a c) [a.toNat] d.toNat (fun x => x.arg 0 >>> c.toNat) ∧
    Gives (.srai d a c) [a.toNat] d.toNat (fun x => (x.arg 0).sshiftRight c.toNat) ∧
    Gives (.movi d i) [] d.toNat (fun _ => i.signExtend 32) ∧
    Gives (.inot d a) [a.toNat] d.toNat (fun x => ~~~x.arg 0) ∧
    Gives (.popc d a) [a.toNat] d.toNat (fun x => popcount (x.arg 0)) ∧
    Gives (.clz d a) [a.toNat] d.toNat (fun x => BitVec.ofNat 32 (leadZeros (x.arg 0).toNat 32)) ∧
    Gives (.brev d a) [a.toNat] d.toNat (fun x => bitRev (x.arg 0)) ∧
    Gives (.bfi d a b) [a.toNat, b.toNat, d.toNat] d.toNat (fun x => fieldIns (x.arg 2) (x.arg 0) (x.arg 1)) ∧
    Gives (.imad d a b) [a.toNat, b.toNat, d.toNat] d.toNat (fun x => x.arg 0 * x.arg 1 + x.arg 2) ∧
    Gives (.sel d a b p) [a.toNat, b.toNat] d.toNat (fun x => if pred x.fibre p then x.arg 0 else x.arg 1) ∧
    Gives (.prdw d) [] d.toNat (fun x => x.fibre.preds.zeroExtend 32 ||| 0x80) ∧
    ComputesRun (.spr d i) (notPort d) [] d.toNat 1 (fun _ _ _ x => ([spr i.toNat x.lane x.fibre], 0)) ∧
    ComputesRun (.movs d sa) (notPort d) [] d.toNat 1 (fun _ r _ _ => ([sreg r sa.toNat], 0))

/-- Integer division and remainder, the saturating sums and the two signs raise their conditions (04_number_formats R83,
05_vector_scalar R97). A division by 0 and the overflow of −2^31 / −1 give the division boundary table; every other quotient truncates toward
zero, and its remainder takes the sign of the dividend; a saturating sum out of range is clamped. -/
def Obligations.VectorIntegerConditions : Prop :=
  ∀ d a b : VReg,
    GivesFlag (.idiv d a b) [a.toNat, b.toNat] d.toNat (fun x => sdivFlag (x.arg 0) (x.arg 1)) ∧
    GivesFlag (.idivu d a b) [a.toNat, b.toNat] d.toNat (fun x => udivFlag (x.arg 0) (x.arg 1)) ∧
    GivesFlag (.irem d a b) [a.toNat, b.toNat] d.toNat (fun x => sremFlag (x.arg 0) (x.arg 1)) ∧
    GivesFlag (.iremu d a b) [a.toNat, b.toNat] d.toNat (fun x => uremFlag (x.arg 0) (x.arg 1)) ∧
    GivesFlag (.iadds d a b) [a.toNat, b.toNat] d.toNat (fun x => clampInt ((x.arg 0).toInt + (x.arg 1).toInt)) ∧
    GivesFlag (.isubs d a b) [a.toNat, b.toNat] d.toNat (fun x => clampInt ((x.arg 0).toInt - (x.arg 1).toInt)) ∧
    GivesFlag (.iabs d a) [a.toNat] d.toNat (fun x =>
      (if (x.arg 0).toInt < 0 then -x.arg 0 else x.arg 0, raise intOverflow (x.arg 0 == 0x80000000))) ∧
    GivesFlag (.ineg d a) [a.toNat] d.toNat (fun x => (-x.arg 0, raise intOverflow (x.arg 0 == 0x80000000))) ∧
    (∀ x y : Word, let q := sdivFlag x y
      let r := sremFlag x y
      let u := udivFlag x y
      let v := uremFlag x y
      (y = 0 → q = (if x.toInt < 0 then 0x80000000 else 0x7FFFFFFF, intDivZero) ∧ r = (x, intDivZero) ∧ u = (0xFFFFFFFF, intDivZero) ∧
        v = (x, intDivZero)) ∧
      (x = 0x80000000 → y = 0xFFFFFFFF → q = (0x80000000, intOverflow) ∧ r = (0, intOverflow)) ∧
      (y ≠ 0 → ¬ (x = 0x80000000 ∧ y = 0xFFFFFFFF) → q.2 = 0 ∧ r.2 = 0 ∧ x.toInt = q.1.toInt * y.toInt + r.1.toInt ∧
        r.1.toInt.natAbs < y.toInt.natAbs ∧ (r.1 ≠ 0 → (r.1.toInt < 0 ↔ x.toInt < 0))) ∧
      (y ≠ 0 → u.2 = 0 ∧ v.2 = 0 ∧ x.toNat = u.1.toNat * y.toNat + v.1.toNat ∧ v.1.toNat < y.toNat)) ∧
    (∀ n : Int, (n < -2 ^ 31 → clampInt n = (0x80000000, intOverflow)) ∧ (2 ^ 31 ≤ n → clampInt n = (0x7FFFFFFF, intOverflow)) ∧
      (-2 ^ 31 ≤ n → n < 2 ^ 31 → (clampInt n).1.toInt = n ∧ (clampInt n).2 = 0))

/-- The comparisons and the predicate words write predicates of their batch and nothing else (05_vector_scalar R99, R105, R114, R117). -/
def Obligations.PredicateWords : Prop :=
  ∀ (p a b : PReg) (va vb : VReg) (f : FCc),
    SetsPreds (.fcmp p va vb f) [va.toNat, vb.toNat] (fun _ x =>
      ([(p, (fCompare f (x.arg 0).toNat (x.arg 1).toNat).1)], (fCompare f (x.arg 0).toNat (x.arg 1).toNat).2)) ∧
    SetsPreds (.pand p a b) [] (fun _ x => ([(p, pred x.fibre a && pred x.fibre b)], 0)) ∧
    SetsPreds (.por p a b) [] (fun _ x => ([(p, pred x.fibre a || pred x.fibre b)], 0)) ∧
    SetsPreds (.pxor p a b) [] (fun _ x => ([(p, pred x.fibre a != pred x.fibre b)], 0)) ∧
    SetsPreds (.pandn p a b) [] (fun _ x => ([(p, pred x.fibre a && !pred x.fibre b)], 0)) ∧
    SetsPreds (.pnot p a) [] (fun _ x => ([(p, !pred x.fibre a)], 0)) ∧
    SetsPreds (.pwrw va) [va.toNat] (fun _ x => ((List.range 7).map fun k => (BitVec.ofNat 3 k, (x.arg 0).getLsbD k), 0)) ∧
    SetsPreds (.voteany p a) [] (fun xs _ => ([(p, xs.any fun y => pred y.fibre a)], 0)) ∧
    SetsPreds (.voteall p a) [] (fun xs _ => ([(p, xs.all fun y => pred y.fibre a)], 0))

/-- The words of FALU, FALU2 and FMISC; the packed words work on both halves alike, and the dot products sum their products into the
destination (05_vector_scalar R100 to R104, R106 to R109). What their arithmetic is stands in the clauses after them (04_number_formats R68 to
R72): a NaN operand gives the canonical NaN and invalid where one signals; ∞ − ∞ and 0 × ∞ give it with invalid; a zero product takes the XOR of
the signs and x − x is +0, or −0 in RD; an exact result is cut at its unit in the last place and rounded by its mode there, a value of the format
stays as it is without a condition, and a result above the largest finite value gives infinity or, where the mode rounds toward zero, that value.
FMIN and FMAX give the other operand beside a NaN, and FSAT clamps to 0 and 1. -/
def Obligations.FloatArithmetic : Prop :=
  (∀ (d a b : VReg) (m : Rnd) (e : Bool),
    GivesFloat (.fadd d a b m) [a.toNat, b.toNat] d.toNat (fun x => fAdd fmtF32 m (x.num 0) (x.num 1)) ∧
    GivesFloat (.fsub d a b m) [a.toNat, b.toNat] d.toNat (fun x => fSub fmtF32 m (x.num 0) (x.num 1)) ∧
    GivesFloat (.fmul d a b m) [a.toNat, b.toNat] d.toNat (fun x => fMul fmtF32 m (x.num 0) (x.num 1)) ∧
    GivesFloat (.ffma d a b m) [a.toNat, b.toNat, d.toNat] d.toNat (fun x => fFma fmtF32 m (x.num 0) (x.num 1) (x.num 2)) ∧
    GivesFloat (.fmin d a b) [a.toNat, b.toNat] d.toNat (fun x => fPick fmtF32 false (x.num 0) (x.num 1)) ∧
    GivesFloat (.fmax d a b) [a.toNat, b.toNat] d.toNat (fun x => fPick fmtF32 true (x.num 0) (x.num 1)) ∧
    GivesFloat (.fminm d a b) [a.toNat, b.toNat] d.toNat (fun x => fPickM fmtF32 false (x.num 0) (x.num 1)) ∧
    GivesFloat (.fmaxm d a b) [a.toNat, b.toNat] d.toNat (fun x => fPickM fmtF32 true (x.num 0) (x.num 1)) ∧
    GivesFloat (.fcpys d a b) [a.toNat, b.toNat] d.toNat (fun x => fCopySign (x.num 0) (x.num 1)) ∧
    GivesFloat (.fscale d a b) [a.toNat, b.toNat] d.toNat (fun x => fScale (x.num 0) (x.arg 1).toInt) ∧
    GivesFloat (.fabs d a) [a.toNat] d.toNat (fun x => fUnary fmtF32 (x.num 0) { bits := x.num 0 % 2 ^ 31, conds := 0 }) ∧
    GivesFloat (.fneg d a) [a.toNat] d.toNat (fun x => fUnary fmtF32 (x.num 0) { bits := x.num 0 ^^^ 2 ^ 31, conds := 0 }) ∧
    GivesFloat (.fclass d a) [a.toNat] d.toNat (fun x => { bits := 2 ^ fClass (x.num 0), conds := 0 }) ∧
    GivesFloat (.frnd d a e m) [a.toNat] d.toNat (fun x => fRound m e (x.num 0)) ∧
    GivesFloat (.fsat d a) [a.toNat] d.toNat (fun x => fSaturate (x.num 0)) ∧
    GivesFlag (.fgete d a) [a.toNat] d.toNat (fun x => fGetExp (x.num 0)) ∧
    GivesFloat (.fgetm d a) [a.toNat] d.toNat (fun x => fGetMan (x.num 0))) ∧
  (∀ (d a b : VReg) (t : Half),
    GivesFloat (.hadd2 d a b t) [a.toNat, b.toNat] d.toNat (fun x => packed (fAdd (halfFmt t) .rne) (x.num 0) (x.num 1)) ∧
    GivesFloat (.hsub2 d a b t) [a.toNat, b.toNat] d.toNat (fun x => packed (fSub (halfFmt t) .rne) (x.num 0) (x.num 1)) ∧
    GivesFloat (.hmul2 d a b t) [a.toNat, b.toNat] d.toNat (fun x => packed (fMul (halfFmt t) .rne) (x.num 0) (x.num 1)) ∧
    GivesFloat (.hmin2 d a b t) [a.toNat, b.toNat] d.toNat (fun x => packed (fPick (halfFmt t) false) (x.num 0) (x.num 1)) ∧
    GivesFloat (.hmax2 d a b t) [a.toNat, b.toNat] d.toNat (fun x => packed (fPick (halfFmt t) true) (x.num 0) (x.num 1)) ∧
    GivesFloat (.hfma2 d a b t) [a.toNat, b.toNat, d.toNat] d.toNat (fun x => joinHalves
      (fFma (halfFmt t) .rne (halfOf (x.num 0) 0) (halfOf (x.num 1) 0) (halfOf (x.num 2) 0))
      (fFma (halfFmt t) .rne (halfOf (x.num 0) 1) (halfOf (x.num 1) 1) (halfOf (x.num 2) 1))) ∧
    GivesFloat (.dot2h d a b) [a.toNat, b.toNat, d.toNat] d.toNat (fun x =>
      dotFloat (decodeF fmtF16) (decodeF fmtF16) 16 2 (x.num 0) (x.num 1) (x.num 2)) ∧
    GivesFloat (.dot2b d a b) [a.toNat, b.toNat, d.toNat] d.toNat (fun x =>
      dotFloat (decodeF fmtBf16) (decodeF fmtBf16) 16 2 (x.num 0) (x.num 1) (x.num 2)) ∧
    GivesFloat (.dot4e4 d a b) [a.toNat, b.toNat, d.toNat] d.toNat (fun x =>
      dotFloat (decodeF fmtE4m3) (decodeF fmtE4m3) 8 4 (x.num 0) (x.num 1) (x.num 2)) ∧
    GivesFloat (.dot4e5 d a b) [a.toNat, b.toNat, d.toNat] d.toNat (fun x =>
      dotFloat (decodeF fmtE5m2) (decodeF fmtE5m2) 8 4 (x.num 0) (x.num 1) (x.num 2)) ∧
    GivesFloat (.dot8f d a b) [a.toNat, b.toNat, d.toNat] d.toNat (fun x =>
      dotFloat (decodeF fmtE2m1) (decodeF fmtE2m1) 4 8 (x.num 0) (x.num 1) (x.num 2)) ∧
    GivesFloat (.dot4s d a b) [a.toNat, b.toNat, d.toNat] d.toNat (fun x =>
      dotFloat decodeSp8 (decodeF fmtE4m3) 8 4 (x.num 0) (x.num 1) (x.num 2)) ∧
    Gives (.dot4i d a b) [a.toNat, b.toNat, d.toNat] d.toNat (fun x => dotInt true (x.num 0) (x.num 1) (x.num 2)) ∧
    Gives (.dot4in d a b) [a.toNat, b.toNat, d.toNat] d.toNat (fun x => dotInt false (x.num 0) (x.num 1) (x.num 2))) ∧
  (∀ (r : Rnd) (x y z : Nat) (big : Bool),
    let a := decodeF fmtF32 x
    let b := decodeF fmtF32 y
    let nan : FRes := { bits := 0x7FC00000, conds := sigConds a ||| sigConds b }
    let sig : FRes := { bits := 0x7FC00000, conds := invalid }
    (a.isNan = true ∨ b.isNan = true → fAdd fmtF32 r x y = nan ∧ fSub fmtF32 r x y = nan ∧ fMul fmtF32 r x y = nan ∧ fPickM fmtF32 big x y = nan) ∧
    (a.isNan = true ∨ b.isNan = true ∨ (decodeF fmtF32 z).isNan = true → (fFma fmtF32 r x y z).bits = 0x7FC00000) ∧
    (∀ s, a = .inf s → b = .inf (!s) → fAdd fmtF32 r x y = sig) ∧
    (∀ s, a = .inf s → b = .inf s → fSub fmtF32 r x y = sig) ∧
    (∀ s t e, a = .inf s → b = .fin t 0 e → fMul fmtF32 r x y = sig ∧ fMul fmtF32 r y x = sig ∧
      (fFma fmtF32 r x y z).bits = 0x7FC00000 ∧ (fFma fmtF32 r x y z).conds &&& invalid = invalid) ∧
    (∀ s t n e g, a = .fin s 0 e → b = .fin t n g → fMul fmtF32 r x y = { bits := if s = t then 0 else 2 ^ 31, conds := 0 }) ∧
    (∀ s m e, a = .fin s m e → fSub fmtF32 r x x = { bits := if r = .rd then 2 ^ 31 else 0, conds := 0 }) ∧
    (a.isNan = true → b.isNan = false → fPick fmtF32 big x y = { bits := y, conds := sigConds a } ∧ fPick fmtF32 big y x = { bits := y, conds := sigConds a }) ∧
    (a.isNan = true → b.isNan = true → fPick fmtF32 big x y = nan) ∧
    (a.isNan = false → b.isNan = false → let t := (fPick fmtF32 big x y).bits
      (t = x ∨ t = y) ∧ orderKey fmtF32 t = if big = true then max (orderKey fmtF32 x) (orderKey fmtF32 y) else min (orderKey fmtF32 x) (orderKey fmtF32 y)) ∧
    (x < 2 ^ 32 → (a.isNan = true → fSaturate x = { bits := 0, conds := sigConds a }) ∧
      (a.isNan = false → (2 ^ 31 ≤ x → (fSaturate x).bits = 0) ∧ (x ≤ 0x3F800000 → (fSaturate x).bits = x) ∧
        (0x3F800000 < x → x < 2 ^ 31 → (fSaturate x).bits = 0x3F800000)))) ∧
  (∀ (r : Rnd) (s : Bool) (m : Nat) (e q : Int), let t := roundAt r s m e q
    (q ≤ e → t = (m * 2 ^ (e - q).toNat, false)) ∧
    (e < q → let u := 2 ^ (q - e).toNat
      (t.2 = true ↔ ¬ u ∣ m) ∧
      (r = .rne → 2 * m ≤ 2 * u * t.1 + u ∧ 2 * u * t.1 ≤ 2 * m + u ∧ (2 * m = 2 * u * t.1 + u ∨ 2 * u * t.1 = 2 * m + u → t.1 % 2 = 0)) ∧
      (towardZero r s = true → u * t.1 ≤ m ∧ m < u * (t.1 + 1)) ∧
      (r ≠ .rne → towardZero r s = false → m ≤ u * t.1 ∧ u * t.1 < m + u))) ∧
  (∀ (f : Fmt) (r : Rnd) (s : Bool) (m : Nat) (e : Int), m ≠ 0 → f ∈ [fmtF32, fmtF16, fmtBf16] →
    let q := max (leadExp m e - f.mb) f.low
    let t := roundAt r s m e q
    let c := (q - f.low).toNat * 2 ^ f.mb + t.1
    (c ≤ f.top → deliver f r (.fin s m e) 0 = { bits := f.sign s + c, conds := raise inexact t.2 ||| raise underflow (t.2 && isTiny f r s m e) }) ∧
    (f.top < c → deliver f r (.fin s m e) 0 =
      { bits := f.sign s + (if towardZero r s = true then f.top else f.top + 1), conds := overflow ||| inexact }) ∧
    (∀ n < 2 ^ f.width, decodeF f n = .fin s m e → deliver f r (.fin s m e) 0 = { bits := n, conds := 0 })) ∧
  (towardZero .rne false = false ∧ towardZero .rne true = false ∧ towardZero .rz false = true ∧ towardZero .rz true = true ∧
    towardZero .rd false = true ∧ towardZero .rd true = false ∧ towardZero .ru false = false ∧ towardZero .ru true = true)

/-- The conversions and the special functions (04_number_formats R73 to R82, 05_vector_scalar R110 to R112). A conversion out of range, of a NaN
and with saturation gives what the conversion specials table of R77 says, a value in range is rounded once at the destination's unit in the last
place (R76), an integer is clamped or cut (R76), and the special functions give the SFU specials table (R112). The model's own choices are these: that a
special function may name the queue ports (log 78), the series by which the special functions are computed (log 24), and that a packing word whose
D is a store-queue port takes some value for its old vD (log 59). -/
def Obligations.ConversionsAndSpecialFunctions : Prop :=
  ∀ (d a b : VReg) (e f : NumTy) (m : Rnd) (t : Bool) (u : UnpkTy),
    GivesFlag (.cvt d a e f m t) [a.toNat] d.toNat (fun x => convert e f m t (x.arg 0)) ∧
    GivesFlag (.pk2h d a b t) [a.toNat, b.toNat] d.toNat (fun x => packHalves fmtF16 t (x.arg 0) (x.arg 1)) ∧
    GivesFlag (.pk2b d a b t) [a.toNat, b.toNat] d.toNat (fun x => packHalves fmtBf16 t (x.arg 0) (x.arg 1)) ∧
    (d.toNat < 126 →
      GivesFlag (.pk4e4 d a b t) [a.toNat, b.toNat, d.toNat] d.toNat (fun x => packShift fmtE4m3 t 8 (x.arg 0) (x.arg 1) (x.arg 2)) ∧
      GivesFlag (.pk4e5 d a b t) [a.toNat, b.toNat, d.toNat] d.toNat (fun x => packShift fmtE5m2 t 8 (x.arg 0) (x.arg 1) (x.arg 2)) ∧
      GivesFlag (.pk8f d a b t) [a.toNat, b.toNat, d.toNat] d.toNat (fun x => packShift fmtE2m1 true 4 (x.arg 0) (x.arg 1) (x.arg 2))) ∧
    (126 ≤ d.toNat → ∃ old : State → Nat → Word,
      Computes (.pk4e4 d a b t) [a.toNat, b.toNat] d.toNat (fun s _ _ x => packShift fmtE4m3 t 8 (x.arg 0) (x.arg 1) (old s x.lane)) ∧
      Computes (.pk4e5 d a b t) [a.toNat, b.toNat] d.toNat (fun s _ _ x => packShift fmtE5m2 t 8 (x.arg 0) (x.arg 1) (old s x.lane)) ∧
      Computes (.pk8f d a b t) [a.toNat, b.toNat] d.toNat (fun s _ _ x => packShift fmtE2m1 true 4 (x.arg 0) (x.arg 1) (old s x.lane))) ∧
    ComputesRun (.unpklo d a u)
      (fun r => if unpkCount u = 1 then portCheck r [a.toNat] [d.toNat] else wideCheck r [a.toNat] d.toNat (unpkCount u))
      [a.toNat] d.toNat (unpkCount u) (fun _ _ _ x => unpack u (x.num 0 % 2 ^ 16)) ∧
    ComputesRun (.unpkhi d a u)
      (fun r => if unpkCount u = 1 then portCheck r [a.toNat] [d.toNat] else wideCheck r [a.toNat] d.toNat (unpkCount u))
      [a.toNat] d.toNat (unpkCount u) (fun _ _ _ x => unpack u (x.num 0 / 2 ^ 16 % 2 ^ 16)) ∧
    GivesFloat (.rcp d a) [a.toNat] d.toNat (fun x => sfRcp (x.num 0)) ∧
    GivesFloat (.rsq d a) [a.toNat] d.toNat (fun x => sfRsq (x.num 0)) ∧
    GivesFloat (.sqrt d a) [a.toNat] d.toNat (fun x => sfSqrt (x.num 0)) ∧
    GivesFloat (.exp2 d a) [a.toNat] d.toNat (fun x => sfExp2 (x.num 0)) ∧
    GivesFloat (.log2 d a) [a.toNat] d.toNat (fun x => sfLog2 (x.num 0)) ∧
    GivesFloat (.sin d a) [a.toNat] d.toNat (fun x => sfSin (x.num 0)) ∧
    GivesFloat (.cos d a) [a.toNat] d.toNat (fun x => sfCos (x.num 0)) ∧
    GivesFloat (.tanh d a) [a.toNat] d.toNat (fun x => sfTanh (x.num 0)) ∧
    (let nan (c : Conds) : List (NumTy × Word × Conds) := [(.f16, 0x7E00, c), (.bf16, 0x7FC0, c), (.e4m3, 0x7F, c),
        (.e5m2, 0x7E, c), (.e2m1, 0, invalid), (.sp8, 0x77, invalid), (.e8m0, 0xFF, c), (.i32, 0, invalid), (.n32, 0, invalid),
        (.i16, 0, invalid), (.n16, 0, invalid), (.i8, 0, invalid), (.n8, 0, invalid)];
      (∀ row ∈ nan 0, convert row.1 .f32 m t 0x7FC00000 = row.2) ∧ (∀ row ∈ nan invalid, convert row.1 .f32 m t 0x7F800001 = row.2) ∧
      (∀ row ∈ [(NumTy.f16, (0x7C00 : Word), (0xFC00 : Word), (0 : Conds)), (.bf16, 0x7F80, 0xFF80, 0), (.e4m3, 0x7F, 0x7F, invalid), (.e5m2, 0x7C, 0xFC, 0),
          (.e2m1, 7, 15, 0), (.sp8, 0, 0x88, 0), (.e8m0, 0xFF, 0xFF, invalid), (.i32, 0x7FFFFFFF, 0x80000000, invalid), (.n32, 0xFFFFFFFF, 0, invalid),
          (.i16, 0x7FFF, 0xFFFF8000, invalid), (.n16, 0xFFFF, 0, invalid), (.i8, 0x7F, 0xFFFFFF80, invalid), (.n8, 0xFF, 0, invalid)],
        convert row.1 .f32 m false 0x7F800000 = (row.2.1, row.2.2.2) ∧ convert row.1 .f32 m false 0xFF800000 = (row.2.2.1, row.2.2.2)) ∧
      (∀ row ∈ [(NumTy.f16, (0x7BFF : Word), (0xFBFF : Word)), (.bf16, 0x7F7F, 0xFF7F), (.e4m3, 0x7E, 0xFE), (.e5m2, 0x7B, 0xFB)],
        convert row.1 .f32 m true 0x7F800000 = (row.2.1, 0) ∧ convert row.1 .f32 m true 0xFF800000 = (row.2.2, 0)) ∧
      (∀ row ∈ [(NumTy.f16, (0x7C00 : Word), (0x7BFF : Word)), (.bf16, 0x7F80, 0x7F7F), (.e4m3, 0x7F, 0x7E), (.e5m2, 0x7C, 0x7B), (.e2m1, 7, 7), (.sp8, 0, 0)],
        convert row.1 .f32 .rne false 0x7F7FFFFF = (row.2.1, overflow ||| inexact) ∧
        convert row.1 .f32 .rne true 0x7F7FFFFF = (row.2.2, overflow ||| inexact))) ∧
    (∀ (T U : Nat × Bool) (x : Word), intTy e = some T →
      let lo := intMin T
      let hi := intMax T
      (∀ s n g, decodeF fmtF32 x.toNat = .fin s n g → let y := signInt s (roundAt m s n g 0).1
        convert e .f32 m t x = (wordOfInt (max lo (min y hi)),
          if y < lo ∨ hi < y then invalid else raise inexact (roundAt m s n g 0).2)) ∧
      (intTy f = some U → U.1 = 32 →
        convert e f m true x = (wordOfInt (max lo (min (intOf U x.toNat) hi)), raise intOverflow (intOf U x.toNat < lo ∨ hi < intOf U x.toNat)) ∧
        (convert e f m false x).2 = 0 ∧ (convert e f m false x).1.toNat % 2 ^ T.1 = x.toNat % 2 ^ T.1)) ∧
    (∀ (F : Fmt) (x : Word) (s : Bool) (n : Nat) (g : Int), fmtOf e = some F → decodeF fmtF32 x.toNat = .fin s n g → n ≠ 0 →
      let q := max (leadExp n g - F.mb) F.low
      let u := roundAt m s n g q
      let c := (q - F.low).toNat * 2 ^ F.mb + u.1
      (c ≤ F.top → convert e .f32 m t x = (BitVec.ofNat 32 (F.sign s + c), raise inexact u.2 ||| raise underflow (u.2 && isTiny F m s n g))) ∧
      (F.top < c → convert e .f32 m t x =
        (BitVec.ofNat 32 (if towardZero m s = true then F.sign s + F.top else specialBits F t s), overflow ||| inexact))) ∧
    (let inf : Nat := 0x7F800000
      let sg : Nat := 0x80000000
      let one : Nat := 0x3F800000
      let qn : Nat := 0x7FC00000;
      (∀ row ∈ [(0, inf, inf, 0, one, sg + inf, 0, one, 0), (sg, sg + inf, sg + inf, sg, one, sg + inf, sg, one, sg)],
        sfRcp row.1 = ⟨row.2.1, divZero⟩ ∧ sfRsq row.1 = ⟨row.2.2.1, divZero⟩ ∧ sfSqrt row.1 = ⟨row.2.2.2.1, 0⟩ ∧ sfExp2 row.1 = ⟨row.2.2.2.2.1, 0⟩ ∧
        sfLog2 row.1 = ⟨row.2.2.2.2.2.1, divZero⟩ ∧ sfSin row.1 = ⟨row.2.2.2.2.2.2.1, 0⟩ ∧ sfCos row.1 = ⟨row.2.2.2.2.2.2.2.1, 0⟩ ∧
        sfTanh row.1 = ⟨row.2.2.2.2.2.2.2.2, 0⟩) ∧
      (sfRcp inf = ⟨0, 0⟩ ∧ sfRsq inf = ⟨0, 0⟩ ∧ sfSqrt inf = ⟨inf, 0⟩ ∧ sfExp2 inf = ⟨inf, 0⟩ ∧ sfLog2 inf = ⟨inf, 0⟩ ∧ sfSin inf = ⟨qn, invalid⟩ ∧
        sfCos inf = ⟨qn, invalid⟩ ∧ sfTanh inf = ⟨one, 0⟩) ∧
      (sfRcp (sg + inf) = ⟨sg, 0⟩ ∧ sfRsq (sg + inf) = ⟨qn, invalid⟩ ∧ sfSqrt (sg + inf) = ⟨qn, invalid⟩ ∧ sfExp2 (sg + inf) = ⟨0, 0⟩ ∧
        sfLog2 (sg + inf) = ⟨qn, invalid⟩ ∧ sfSin (sg + inf) = ⟨qn, invalid⟩ ∧ sfCos (sg + inf) = ⟨qn, invalid⟩ ∧ sfTanh (sg + inf) = ⟨sg + one, 0⟩) ∧
      (∀ x, (∀ g, decodeF fmtF32 x = .nan g → let r : FRes := ⟨qn, raise invalid g⟩
          sfRcp x = r ∧ sfRsq x = r ∧ sfSqrt x = r ∧ sfExp2 x = r ∧ sfLog2 x = r ∧ sfSin x = r ∧ sfCos x = r ∧ sfTanh x = r) ∧
        (∀ n g, decodeF fmtF32 x = .fin true n g → n ≠ 0 → sfRsq x = ⟨qn, invalid⟩ ∧ sfSqrt x = ⟨qn, invalid⟩ ∧ sfLog2 x = ⟨qn, invalid⟩)))

/-- A shuffle takes vA of another lane slot: 0 without a live fibre there or outside its window. The votes with a mask and the reductions combine
the fibres of the batch, and every fibre of it gets the value; WSCAN stops at its own lane slot (05_vector_scalar R113 to R115). -/
def Obligations.Shuffles : Prop :=
  (∀ (d a b : VReg) (i : BitVec 7),
    let chk (n : Nat) (srcs : List Nat) (r : Wave) : Option Trap :=
      if r.width ≤ n then some (batchTrap r 0x01 0)
      else if (a.toNat :: srcs).any (fun v => decide (124 ≤ v)) then some (batchTrap r 0x05 0)
      else portCheck r (a.toNat :: srcs) [d.toNat]
    ComputesRun (.shfli d a b) (chk 0 [b.toNat]) [b.toNat] d.toNat 1
      (fun s r _ x => ([laneReg s r ((x.arg 0).toNat % r.width) a.toNat], 0)) ∧
    ComputesRun (.shflu d a i) (chk i.toNat []) [] d.toNat 1
      (fun s r _ x => ([laneReg s r (if x.lane < i.toNat then x.lane else x.lane - i.toNat) a.toNat], 0)) ∧
    ComputesRun (.shfld d a i) (chk i.toNat []) [] d.toNat 1
      (fun s r _ x => ([laneReg s r (if r.width ≤ x.lane + i.toNat then x.lane else x.lane + i.toNat) a.toNat], 0)) ∧
    ComputesRun (.shflx d a i) (chk i.toNat []) [] d.toNat 1 (fun s r _ x => ([laneReg s r (x.lane ^^^ i.toNat) a.toNat], 0)) ∧
    ComputesRun (.bcast d a i) (chk i.toNat []) [] d.toNat 1 (fun s r _ _ => ([laneReg s r i.toNat a.toNat], 0))) ∧
  (∀ (d a : VReg) (p : PReg),
    ComputesRun (.ballot d p) (fun r => wideCheck r [] d.toNat 2) [] d.toNat 2
      (fun _ _ ins _ => (maskRegs (maskOf ((ins.filter fun y => pred y.fibre p).map LaneIn.lane)), 0)) ∧
    ComputesRun (.matchv d a) (fun r => wideCheck r [a.toNat] d.toNat 2) [a.toNat] d.toNat 2
      (fun _ _ ins x => (maskRegs (maskOf ((ins.filter fun y => y.arg 0 == x.arg 0).map LaneIn.lane)), 0)) ∧
    Computes (.wredadd d a) [a.toNat] d.toNat (fun _ _ ins _ => (ins.foldl (fun v y => v + y.arg 0) 0, 0)) ∧
    Computes (.wredmin d a) [a.toNat] d.toNat (fun _ _ ins _ => (reduce minS ins, 0)) ∧
    Computes (.wredmax d a) [a.toNat] d.toNat (fun _ _ ins _ => (reduce maxS ins, 0)) ∧
    Computes (.wredfadd d a) [a.toNat] d.toNat (fun _ r ins _ =>
      (BitVec.ofNat 32 (treeSum r.width ins).bits, (treeSum r.width ins).conds)) ∧
    Computes (.wredfmax d a) [a.toNat] d.toNat (fun _ _ ins _ => (BitVec.ofNat 32 (maxSum ins).bits, (maxSum ins).conds)) ∧
    Computes (.wscan d a) [a.toNat] d.toNat (fun _ _ ins x =>
      ((ins.filter fun y => decide (y.lane ≤ x.lane)).foldl (fun v y => v + y.arg 0) 0, 0)))

/-! ## Control -/

/-- NOP, YIELD, CONV and WAIT: NOP and YIELD change nothing but the batch's place; CONV parks its batch until every live fibre stands
there; a WAIT whose counters are low enough lets the covered results stand in their registers (02_encoding R24, R34 to R36,
15_execution_model R330, R332, R343). -/
def Obligations.QuietControlWords : Prop :=
  ∀ (l st p t : BitVec 6) (s : State) (k : Nat) (r w : Wave), Issues s k r w →
    Completes .nop s k r (s.setWave k w) ∧
    Completes .yield s k r (s.setWave k w) ∧
    Completes .conv s k r (s.moved k (parkAt s w (batch r) fun _ => .conv)) ∧
    ((∀ q ∈ [(OpCls.ld, l), (.st, st), (.cp, p), (.tl, t)], q.2 = 63 ∨ opCount r q.1 ≤ q.2.toNat) →
      Completes (.wait l st p t) s k r (s.setWave k (coverAll s r.nextOp w [(.ld, l), (.st, st), (.cp, p), (.tl, t)]))) ∧
    ((∃ q ∈ [(OpCls.ld, l), (.st, st), (.cp, p), (.tl, t)], q.2 ≠ 63 ∧ q.2.toNat < opCount r q.1) → Waits (.wait l st p t) s k r)

/-- A branch sends the fibres that it chooses to slot 0 of its target packet and the rest of its batch to their next chain; a target below
packet 0 gives trap 0x01; fibres that are sent stand at their target and every other fibre is as before (15_execution_model R333, 02_encoding
R26). -/
def Obligations.BranchesChooseFibres : Prop :=
  (∀ (p : PReg) (n : Bool) (d : BitVec 8) (s : State) (k : Nat) (r w : Wave) (pc : Pc), Issues s k r w → minPc r = some pc →
    let go (sel : List Nat) : State := s.moved k
      ((advance w ((batch r).filter fun l => !sel.contains l) s.issue.next).sendTo sel
        { packet := ((pc.packet : Int) + d.toInt).toNat, slot := 0 })
    let chosen : List Nat := ((fibresOf r (batch r)).filter fun f => pred f.2 p != n).map Prod.fst
    let all : List Nat := (fibresOf r (batch r)).map Prod.fst
    (0 ≤ (pc.packet : Int) + d.toInt →
      Completes (.bra d) s k r (go all) ∧
      Completes (.br p n d) s k r (go chosen) ∧
      Completes (.brall p n d) s k r (go (if chosen = all then all else [])) ∧
      Completes (.brany p n d) s k r (go (if chosen = [] then [] else all))) ∧
    ((pc.packet : Int) + d.toInt < 0 →
      Raises (.bra d) s k r (batchTrap r 0x01 0) ∧ Raises (.br p n d) s k r (batchTrap r 0x01 0) ∧
      Raises (.brall p n d) s k r (batchTrap r 0x01 0) ∧ Raises (.brany p n d) s k r (batchTrap r 0x01 0))) ∧
  (∀ (w : Wave) (ls : List Nat) (pc : Pc),
    (∀ l, (w.sendTo ls pc).fibres.look l =
      if l ∈ ls then (w.fibres.look l).map fun f => { f with pc := pc } else w.fibres.look l) ∧
    { w.sendTo ls pc with fibres := w.fibres } = w)

/-- JMPS and JMPV jump to the packet that a register holds, each fibre with its own vA; CALL and CALLV leave the link word in the new window and
move it; RET goes back by the link word (15_execution_model R334, R335). A call from inside a loop body gives 0x06 with detail 5; a link outside
the window or the lane slot, and a return below base 0, give 0x04 for the fibres it is true of. -/
def Obligations.CallsAndReturns : Prop :=
  (∀ (d a : VReg) (n : BitVec 3) (i : BitVec 8) (s : State) (k : Nat) (r w w1 : Wave) (vals : Map (Map Word)) (pc : Pc),
    minPc r = some pc →
    let fits : Prop := d.toNat < r.n ∧ ∀ p ∈ fibresOf r (batch r), p.2.base + 8 * n.toNat + d.toNat < r.p
    let inLoop : Prop := ∃ e, topEntry r = some e ∧ e.2.holds pc.packet = true
    let linked (w : Wave) : Wave := (fibresOf r (batch r)).foldl (fun w p =>
      writePhys (w.mapFibre p.1 fun f => { f with base := f.base + 8 * n.toNat }) p.1 (p.2.base + 8 * n.toNat + d.toNat)
        (BitVec.ofNat 32 (8 * (pc.packet + 1) + n.toNat))) w
    (Issues s k r w → fits → ¬ inLoop → 0 ≤ (pc.packet : Int) + i.toInt →
      Completes (.call d n i) s k r (s.moved k (jumpLanes (linked w)
        ((batch r).map fun l => (l, ((pc.packet : Int) + i.toInt).toNat))))) ∧
    (FieldsRead s k r w (portCheck r [a.toNat] []) [a.toNat] vals w1 → fits → ¬ inLoop →
      Completes (.callv d a n) s k r (s.moved k (jumpLanes (linked w1)
        ((inputs s r vals [a.toNat]).map fun x => (x.lane, (x.arg 0).toNat))))) ∧
    (FieldsRead s k r w (portCheck r [a.toNat] []) [a.toNat] vals w1 → fits → inLoop →
      Raises (.callv d a n) s k r (batchTrap r 0x06 5)) ∧
    (Issues s k r w → fits → inLoop → 0 ≤ (pc.packet : Int) + i.toInt → Raises (.call d n i) s k r (batchTrap r 0x06 5)) ∧
    (let outside : List Nat :=
        ((fibresOf r (batch r)).filter fun p => decide (r.n ≤ d.toNat ∨ r.p ≤ p.2.base + 8 * n.toNat + d.toNat)).map Prod.fst
     outside ≠ [] →
        (Issues s k r w → 0 ≤ (pc.packet : Int) + i.toInt → Raises (.call d n i) s k r (mkTrap 0x04 outside 0 0)) ∧
        (FieldsRead s k r w (portCheck r [a.toNat] []) [a.toNat] vals w1 → Raises (.callv d a n) s k r (mkTrap 0x04 outside 0 0))) ∧
    (Issues s k r w → (pc.packet : Int) + i.toInt < 0 → Raises (.call d n i) s k r (batchTrap r 0x01 0)) ∧
    (let below : List Nat :=
        ((inputs s r vals [a.toNat]).filter fun x => decide (x.fibre.base < 8 * ((x.arg 0).toNat % 8))).map LaneIn.lane
     FieldsRead s k r w (portCheck r [a.toNat] []) [a.toNat] vals w1 → below ≠ [] → Raises (.ret a) s k r (mkTrap 0x04 below 0 0)) ∧
    (FieldsRead s k r w (portCheck r [a.toNat] []) [a.toNat] vals w1 →
      (∀ x ∈ inputs s r vals [a.toNat], 8 * ((x.arg 0).toNat % 8) ≤ x.fibre.base) →
      Completes (.ret a) s k r (s.moved k (jumpLanes
        ((inputs s r vals [a.toNat]).foldl (fun w x =>
          w.mapFibre x.lane fun f => { f with base := f.base - 8 * ((x.arg 0).toNat % 8) }) w1)
        ((inputs s r vals [a.toNat]).map fun x => (x.lane, (x.arg 0).toNat / 8)))))) ∧
  (∀ (a : SReg) (v : VReg) (s : State) (k : Nat) (r w w1 : Wave) (vals : Map (Map Word)),
    (Issues s k r w → Completes (.jmps a) s k r (s.moved k (w.sendTo (batch r) { packet := (sreg r a.toNat).toNat, slot := 0 }))) ∧
    (FieldsRead s k r w (portCheck r [v.toNat] []) [v.toNat] vals w1 →
      Completes (.jmpv v) s k r (s.moved k ((inputs s r vals [v.toNat]).foldl
        (fun w x => w.sendTo [x.lane] { packet := (x.arg 0).toNat, slot := 0 }) w1))))

/-- LOOPI and LOOPS enter a loop in the first entry above the top of the loop stack, or skip a body of no iterations; LBRK empties the top
entry; REP makes the next issues of its wave the repeats of the next word; in a handler they give trap 0x01 (15_execution_model R336 to R342,
19_traps R427). -/
def Obligations.LoopsAndRepeats : Prop :=
  (∀ (n e : BitVec 8) (a : SReg) (c : BitVec 6) (x y z : Bool) (m : BitVec 2) (s : State) (k : Nat) (r w : Wave) (pc : Pc),
    Issues s k r w → minPc r = some pc → r.inHandler = false →
    let top : Nat := ((topEntry r).map fun p => p.1 + 1).getD 0
    let entry (count : Nat) : LoopEntry :=
      { start := BitVec.ofNat 32 (pc.packet + 1), fin := BitVec.ofNat 32 (pc.packet + e.toNat), count := BitVec.ofNat 9 count }
    let enter (count : Nat) : State :=
      s.moved k ({ w with loops := w.loops.set top (entry count) }.sendTo (batch r) { packet := pc.packet + 1, slot := 0 })
    (converged r = true → top < 4 →
      Completes (.loopi n e) s k r (enter (if n = 0 then 256 else n.toNat)) ∧
      (1 ≤ (sreg r a.toNat).toNat → (sreg r a.toNat).toNat ≤ 511 → Completes (.loops a e) s k r (enter (sreg r a.toNat).toNat))) ∧
    (converged r = true → sreg r a.toNat = 0 →
      Completes (.loops a e) s k r (s.moved k (w.sendTo (batch r) { packet := pc.packet + e.toNat + 1, slot := 0 }))) ∧
    (converged r = true → 4 ≤ top → Raises (.loopi n e) s k r (batchTrap r 0x23 0)) ∧
    (converged r = false → Raises (.loopi n e) s k r (batchTrap r 0x06 0)) ∧
    (∀ q, topEntry w = some q → Completes .lbrk s k r (s.setWave k { w with loops := w.loops.set q.1 LoopEntry.none })) ∧
    Completes (.rep c x y z m) s k r
      (s.moved k ({ w with rep := repStart (c.toNat + 1) x y z m, repAt := some { packet := pc.packet, slot := hereSlot s } }.sendTo
        (batch r) { packet := pc.packet, slot := hereSlot s }))) ∧
  (∀ (n e : BitVec 8) (a : SReg) (c : BitVec 6) (x y z : Bool) (m : BitVec 2) (s : State) (k : Nat) (r w : Wave),
    Issues s k r w → r.inHandler = true →
    Raises (.loopi n e) s k r (batchTrap r 0x01 0) ∧ Raises (.lbrk) s k r (batchTrap r 0x01 0) ∧
    Raises (.rep c x y z m) s k r (batchTrap r 0x01 0) ∧ Raises (.loops a e) s k r (batchTrap r 0x01 0))

/-- HALT ends the fibres of its batch and EXIT its whole wave, in a handler too; an EXIT in a handler entered for trap 0x30 with the saved bit
ends the wave as saved; an ended fibre leaves its lane slot empty and no other changed. An ended wave keeps no fibre, padding and parked ones
included: each section one of them holds is left, by an OLEAVE request that carries its key and sequence number, and none of them waits for a
section any more; a wave ended as saved leaves no section, and its block holds its number among the saved waves (19_traps R430,
15_execution_model R329, R331, 12_ordered_sections R272). -/
def Obligations.FibresEnd : Prop :=
  (∀ (s : State) (k : Nat) (r w : Wave), Issues s k r w →
    Completes .halt s k r ((batch r).foldl (fun s l => endFibre s k l) (s.moved k w)) ∧
    ((w.inHandler = true ∧ w.handlerCause = 0x30 ∧ w.savedBit = true) → Completes .exit s k r (endSaved (s.moved k w) k)) ∧
    (¬ (w.inHandler = true ∧ w.handlerCause = 0x30 ∧ w.savedBit = true) → Completes .exit s k r (endWave (s.moved k w) k))) ∧
  (∀ (s : State) (k l : Nat) (w : Wave), s.wave k = some w →
    ∃ t, (endFibre s k l).wave k = some t ∧ t.fibres.look l = none ∧ (∀ j, j ≠ l → t.fibres.look j = w.fibres.look j) ∧
      (w.fibres.look l = none → endFibre s k l = s) ∧ (∀ j, j ≠ k → (endFibre s k l).wave j = s.wave j) ∧
      (∀ f, w.fibres.look l = some f →
        (∀ q ∈ (endFibre s k l).base.waits, q.req.uid ≠ f.uid) ∧
        (∀ x ∈ f.slots, x.st = .held → ∃ q : WpReq, Ev.waypointRequest q ∈ (endFibre s k l).pending ∧
          q.kind = .oleave ∧ q.ctx = ctxOf s w ∧ q.key = x.key ∧ q.seq = x.seq ∧ q.uid = f.uid))) ∧
  (∀ (s : State) (k : Nat) (w : Wave), s.wave k = some w →
    (∀ v, (endWave s k).wave k = some v → v.fibres = []) ∧ (∀ j, j ≠ k → (endWave s k).wave j = s.wave j) ∧
    (∀ p ∈ w.fibres, w.fibres.look p.1 = some p.2 → ∀ q ∈ (endWave s k).base.waits, q.req.uid ≠ p.2.uid) ∧
    (∀ p ∈ w.fibres, w.fibres.look p.1 = some p.2 → ∀ x ∈ p.2.slots, x.st = .held →
      ∃ q : WpReq, Ev.waypointRequest q ∈ (endWave s k).pending ∧
        q.kind = .oleave ∧ q.ctx = ctxOf s w ∧ q.key = x.key ∧ q.seq = x.seq ∧ q.uid = p.2.uid) ∧
    (∀ v, (endSaved s k).wave k = some v → v.fibres = []) ∧ (∀ j, j ≠ k → (endSaved s k).wave j = s.wave j) ∧
    (∀ b, s.block w.blk = some b → ∃ c, (endSaved s k).block w.blk = some c ∧ c.savedWaves = b.savedWaves ++ [w.num]) ∧
    (∀ q ∈ (endSaved s k).base.waits, ∀ p ∈ w.fibres, q.req.uid ≠ p.2.uid) ∧
    ∀ e ∈ (endSaved s k).pending, e ∈ s.pending ∨ e = .saveComplete w.blk)

/-! ## Traps -/

/-- Taking a trap outside a handler, with a handler installed: the wave's fibres go to the handler packet with their program counters,
predicates, bases and parked states kept in shadow state; the cause, the program counter of the trap batch, the mask, and the address and
the detail as far as they are stated for the cause, stand in the trap registers; s120 to s127 are banked and hold the handler's entry values,
s126 and s127 the block's save-image address, 0 without a save area; each fibre is marked with whether it belongs to the trap batch; the level
and the code base are those of the handler (19_traps R423, R425). -/
def Obligations.TrapEntrySavesState : Prop :=
  ∀ (s : State) (k : Nat) (tb : List Nat) (t : Trap) (w : Wave) (c : Ctx),
    s.wave k = some w → s.ctxs.look (ctxOf s w) = some c → w.inHandler = false → t.cause ≠ 0x30 → t.cause < 256 →
    (toSupervisor s w.blk t = true → c.shpacket ≠ BitVec.allOnes 32) →
    let sup := toSupervisor s w.blk t
    ∃ t', enterTrap s k tb t = s.setWave k t' ∧
      t'.inHandler = true ∧ t'.superHandler = sup ∧ t'.tcause = BitVec.ofNat 8 t.cause ∧ t'.tpc = toTpc (trapPc w tb) ∧
      t'.tmask = t.tmask ∧ (t.addrTold = true → t'.taddr = t.taddr) ∧ t'.tinfo &&& t.infoTold = t.tinfo &&& t.infoTold ∧
      t'.intLevel = w.level ∧ t'.intBase = w.codeBase ∧ t'.handlerCause = t.cause ∧
      t'.ubank = (List.range 8).map (fun i => sreg w (120 + i)) ∧
      (sup = true → t'.level = .supervisor ∧ t'.codeBase = c.shbase) ∧ (sup = false → t'.level = w.level ∧ t'.codeBase = w.codeBase) ∧
      sreg t' 120 = BitVec.ofNat 32 t.cause ∧ sreg t' 121 = toTpc (trapPc w tb) ∧ sreg t' 122 = t'.taddr.truncate 32 ∧
      sreg t' 123 = (t'.taddr >>> 32).truncate 32 ∧ sreg t' 124 = t'.tinfo ∧ sreg t' 125 = BitVec.ofNat 32 w.num ∧
      (let img : Nat := if recDword s w.blk 28 = 0 then 0
        else recDword s w.blk 28 + ((s.block w.blk).map Block.idx).getD 0 * saveSize s w.blk
      sreg t' 126 = BitVec.ofNat 32 img ∧ sreg t' 127 = BitVec.ofNat 32 (img / 2 ^ 32)) ∧
      (∀ n, n < 120 → sreg t' n = sreg w n) ∧
      (∀ l f, w.fibres.look l = some f → ∃ f' sh, t'.fibres.look l = some f' ∧ f'.shadow = some sh ∧ f'.park = none ∧
        f'.pc = { packet := if sup = true then c.shpacket.toNat else (userHandler s w.blk).getD 0, slot := 0 } ∧
        sh.pc = f.pc ∧ sh.preds = f.preds ∧ sh.base = f.base ∧ sh.park = f.park ∧ sh.trapBatch = tb.contains l ∧
        f'.preds = f.preds ∧ f'.base = f.base) ∧
      t'.vregs = w.vregs ∧ t'.fstat = w.fstat ∧ t'.ftrap = w.ftrap ∧ t'.loops = w.loops ∧ t'.streams = w.streams ∧ t'.ops = w.ops

/-- A trap in a handler, or one for the supervisor with no handler installed, contains the block (19_traps R424). -/
def Obligations.TrapWithoutHandlerContains : Prop :=
  ∀ (s : State) (k : Nat) (tb : List Nat) (t : Trap) (w : Wave) (c : Ctx),
    s.wave k = some w → s.ctxs.look (ctxOf s w) = some c →
    (w.inHandler = true ∨ toSupervisor s w.blk t = true ∧ c.shpacket = BitVec.allOnes 32) →
    enterTrap s k tb t = containBlock s w.blk t.cause

/-- The routing of traps: pre-emption, poison, the codes 0x10 to 0x15 with a low byte of detail, the single step, and every trap of a launch
without a user handler go to the supervisor; every other trap goes to the user handler (19_traps R423). -/
def Obligations.TrapRouting : Prop :=
  ∀ (s : State) (b : Nat) (t : Trap),
    toSupervisor s b t = true ↔
      (t.cause = 0x30 ∨ t.cause = 0x40 ∨ (0x10 ≤ t.cause ∧ t.cause ≤ 0x15 ∧ t.tinfo.toNat < 256) ∨ (t.cause = 0x31 ∧ t.tinfo = 1) ∨
        recWord s b 18 = 2 ^ 32 - 1)

/-- TRAP and BRK raise their causes with the next chain as resume point. TRET outside a handler gives trap 0x01 and with a diverged batch 0x06;
otherwise the wave leaves its handler, at a REP whose repeats were interrupted to go on with them: it has the level and the code base of the interrupted program, s120 to s127 as they were banked, every
fibre's predicates, base and parked state out of its shadow state, the trap batch and the fibres started in the handler at tpc, and the others
where they stood (19_traps R429, R426, R425). -/
def Obligations.TrapReturn : Prop :=
  ((∀ (s : State) (k : Nat) (r w : Wave), Issues s k r w →
    (r.inHandler = false → Raises .tret s k r (batchTrap r 0x01 0)) ∧
    (r.inHandler = true → (batch r).length ≠ r.fibres.length → Raises .tret s k r (batchTrap r 0x06 0)) ∧
    (r.inHandler = true → (batch r).length = r.fibres.length → w.preemptPending = false →
      let s1 := enterKept (s.moved k (resumeRep s w.returned (ofTpc w.returned.tpc))) k w
      Completes .tret s k r (if r.handlerCause = 0x30 then resumeBlock s1 r.blk else s1))) ∧
  (∀ (s : State) (w : Wave) (p : Pc), resumeRep s w p = w ∨ resumeRep s w p = { w with repAt := some p } ∧ w.rep.active = true) ∧
  (∀ (w : Wave), (∀ p ∈ w.fibres, ∀ sh, p.2.shadow = some sh → sh.answered = false) →
    convReady { w with fibres := w.fibres.map fun p => (p.1, unshadowed (ofTpc w.tpc) p.2) } = false →
    w.returned.level = w.intLevel ∧ w.returned.codeBase = w.intBase ∧ w.returned.inHandler = false ∧ w.returned.superHandler = false ∧
    (w.ubank.length = 8 → ∀ i < 8, sreg w.returned (120 + i) = nth w.ubank i) ∧ (∀ n, n < 120 → sreg w.returned n = sreg w n) ∧
    (∀ l f sh, w.fibres.look l = some f → f.shadow = some sh → ∃ f', w.returned.fibres.look l = some f' ∧ f'.shadow = none ∧
      f'.pc = (if sh.trapBatch = true then ofTpc w.tpc else sh.pc) ∧ f'.preds = sh.preds ∧ f'.base = sh.base ∧
      f'.park = (if sh.redo = true then none else sh.park)) ∧
    (∀ l f, w.fibres.look l = some f → f.shadow = none →
      w.returned.fibres.look l = some { f with pc := ofTpc w.tpc, park := none }) ∧
    w.returned.vregs = w.vregs ∧ w.returned.fstat = w.fstat ∧ w.returned.ftrap = w.ftrap)) ∧
  (∀ (c : BitVec 8) (s : State) (k : Nat) (r w : Wave), Issues s k r w →
    Raises (.trap c) s k r { batchTrap r 0x3F c.toNat with next := true } ∧
    Raises .brk s k r { batchTrap r 0x31 0 with next := true })

/-! ## Fibres and pools -/

/-- SPAWN and SPAWNP start a fibre in the lowest empty lane slot for each fibre of the batch, whose v0 is the spawner's vD before the spawn and
whose v1 is the spawner's lane slot, and leave that slot's number in vD, or all ones where no slot is empty. REGROUP moves its fibres to
their pools; it waits for the loads under way, and gives 0x06 with detail 2 for the fibres with a window base, 0x06 with detail 3 in the range
of a loop entry, and 0x01 with no regroup capacity or a target below packet 0. FLUSHRG lets partial pools start (15_execution_model R326, R345
to R348). That the registers REGROUP takes along are those the finished loads leave, with no WAIT between (cover), is the model's reading (log
25, DEDUCED). -/
def Obligations.FibresStart : Prop :=
  (∀ (d a : VReg) (i : BitVec 8) (s : State) (k : Nat) (r w w1 : Wave) (vals : Map (Map Word)) (t : Nat) (b : Block),
    target r i = some t →
    (FieldsRead s k r w (portCheck r [a.toNat, d.toNat] [d.toNat]) [a.toNat, d.toNat] vals w1 →
      (∀ x ∈ inputs s r vals [a.toNat, d.toNat], (x.arg 0).toNat + r.n ≤ r.p) →
      let start (pad : Bool) : State :=
        let q := (inputs s r vals [a.toNat, d.toNat]).foldl (fun (q : Wave × Nat) x => spawnOne t pad d.toNat q.1 q.2 x) (w1, s.work.nextUid)
        { s with work := { s.work with waves := s.work.waves.put k q.1, nextUid := q.2 } }
      Completes (.spawn d a i) s k r (start false) ∧ Completes (.spawnp d a i) s k r (start true)) ∧
    (FieldsRead s k r w (portCheck r [a.toNat] []) [a.toNat] vals w1 → s.block r.blk = some b → poolCap s r.blk ≠ 0 →
      opCount r .ld = 0 → (∀ x ∈ inputs s r vals [a.toNat], x.fibre.base = 0) → (∀ e ∈ r.loops, e.holds (herePacket r) = false) →
      Completes (.regroup a i) s k r
        (let q := (inputs s r vals [a.toNat]).foldl (regroupOne s (cover s .ld 0 r.nextOp r) (poolOpen s r.blk) t a.toNat) (cover s .ld 0 r.nextOp w1, b)
        (s.setBlock r.blk q.2).moved k q.1)) ∧
    (FieldsRead s k r w (portCheck r [a.toNat] []) [a.toNat] vals w1 → poolCap s r.blk ≠ 0 →
      (opCount r .ld ≠ 0 → Waits (.regroup a i) s k r) ∧
      (opCount r .ld = 0 →
        let based : List Nat := ((inputs s r vals [a.toNat]).filter fun x => x.fibre.base != 0).map LaneIn.lane
        (based ≠ [] → Raises (.regroup a i) s k r (mkTrap 0x06 based 0 2)) ∧
        (based = [] → (∃ e ∈ r.loops, e.holds (herePacket r) = true) → Raises (.regroup a i) s k r (batchTrap r 0x06 3)))) ∧
    (Issues s k r w → poolCap s r.blk = 0 → Raises (.regroup a i) s k r (batchTrap r 0x01 0)) ∧
    (Issues s k r w → s.block r.blk = some b →
      Completes .flushrg s k r ((s.setBlock r.blk { b with pools := b.pools.map fun p => { p with flush := true } }).setWave k w))) ∧
  (∀ (a : VReg) (i : BitVec 8) (s : State) (k : Nat) (r w : Wave), Issues s k r w → target r i = none →
    Raises (.regroup a i) s k r (batchTrap r 0x01 0)) ∧
  (∀ (t d : Nat) (pad : Bool) (w : Wave) (uid : Nat) (x : LaneIn),
    (∀ l, freeLane w = some l → l ≠ x.lane →
      ∃ f, (spawnOne t pad d w uid x).1.fibres.look l = some f ∧ f.pc = { packet := t, slot := 0 } ∧ f.base = (x.arg 0).toNat ∧
        f.padding = pad ∧ f.spawned = true ∧ f.uid = uid ∧ f.preds = 0 ∧ (spawnOne t pad d w uid x).2 = uid + 1 ∧
        (∀ j, j ≠ l → (spawnOne t pad d w uid x).1.fibres.look j = w.fibres.look j) ∧
        ((x.arg 0).toNat + w.n ≤ w.p → w.p ≤ 4096 → x.fibre.base + d < 4096 →
          (0 < w.n → (spawnOne t pad d w uid x).1.vregs.get (physKey l (x.arg 0).toNat) 0 = x.arg 1) ∧
          (1 < w.n → (spawnOne t pad d w uid x).1.vregs.get (physKey l ((x.arg 0).toNat + 1)) 0 = BitVec.ofNat 32 x.lane) ∧
          (spawnOne t pad d w uid x).1.vregs.get (physKey x.lane (x.fibre.base + d)) 0 = BitVec.ofNat 32 l)) ∧
    (freeLane w = none →
      spawnOne t pad d w uid x = (setVreg w x.lane x.fibre d 0xFFFFFFFF, uid)))

/-- FIBRD reads and FIBWR writes the shadow state of the fibres of a handler (19_traps R431). That a resume PC with slot 3 gives 0x01 is the
model's reading of 02_encoding R17 (log 55). -/
def Obligations.ShadowStateWords : Prop :=
  ∀ (d a : VReg) (i : BitVec 8),
    ComputesRun (.fibrd d i) (fun r => if noShadow r = true then some (batchTrap r 0x01 0) else portCheck r [] [d.toNat]) [] d.toNat 1
      (fun _ r _ x => ([(x.fibre.shadow.map fun sh => shadowWord r.tpc x.fibre sh i.toNat).getD 0], 0)) ∧
    (∀ (s : State) (k : Nat) (r w w1 : Wave) (vals : Map (Map Word)),
      FieldsRead s k r w (portCheck r [a.toNat] []) [a.toNat] vals w1 → r.level ≠ .user → noShadow r = false → i.toNat ≤ 1 →
      ((i.toNat = 0 → ∀ x ∈ inputs s r vals [a.toNat], (x.arg 0).toNat % 4 ≠ 3) →
        Completes (.fibwr a i) s k r (s.setWave k ((inputs s r vals [a.toNat]).foldl
          (fun w x => w.mapFibre x.lane (setShadow i.toNat (x.arg 0))) w1))) ∧
      ((i.toNat = 0 ∧ ∃ x ∈ inputs s r vals [a.toNat], (x.arg 0).toNat % 4 = 3) → Raises (.fibwr a i) s k r (batchTrap r 0x01 0)))

/-! ## Memory words -/

/-- A load, store, atomic or cache word whose accesses pass their checks leaves one operation outstanding with them: nothing in memory has
changed yet. The operation carries the acquire or the release of LD and ST (10_memory_instructions R197 to R209, R225). -/
def Obligations.MemoryWordsIssue : Prop :=
  ∀ (d a : VReg) (sb : BitVec 4) (wd : Width) (aw : AWidth) (o : AtomOp) (q x m ret : Bool) (g : Scope) (s : State) (k : Nat)
    (r w w1 : Wave) (vals : Map (Map Word)),
    let done (i : Instr) (cls : Option OpCls) (kind : OpKind) (acq rel : Option Scope) (w1 : Wave) (ts : List Try) : Prop :=
      AccessesPass r cls ts → Completes i s k r (enterOp s k r w1 cls kind acq rel (ts.filterMap Try.access))
    (FieldsRead s k r w (memCheck [a.toNat] (0, 0) (d.toNat, widthRegs wd) r) [a.toNat] vals w1 →
      let ins := inputs s r vals [a.toNat]
      done (.ld d a sb wd q g x m) (some .ld) .load (if q then some g else none) none w1 (ins.map fun i =>
        (devTry s r i.lane (vaOf r sb (i.arg 0)) (widthBytes wd) Access.load (.load x) fun _ => none).to i.fibre d.toNat (widthRegs wd)) ∧
      done (.lds d a sb wd x) (some .ld) .load none none w1 (ins.map fun i =>
        (coreTry .spm (spmSize s r) 0x18 i.lane (offOf r sb (i.arg 0)) (widthBytes wd) (.load x)).to i.fibre d.toNat (widthRegs wd)) ∧
      done (.ldp d a sb wd x) (some .ld) .load none none w1 (ins.map fun i =>
        ((coreTry .lane (lpSize s r) 0x19 i.lane (offOf r sb (i.arg 0)) (widthBytes wd) (.load x)).loadWindow i.fibre).to i.fibre d.toNat
          (widthRegs wd))) ∧
    (FieldsRead s k r w (memCheck [a.toNat] (d.toNat, widthRegs wd) (0, 0) r) (a.toNat :: runOf d.toNat (widthRegs wd)) vals w1 →
      let ins := inputs s r vals (a.toNat :: runOf d.toNat (widthRegs wd))
      done (.st d a sb wd q g m) (some .st) .store none (if q then some g else none) w1 (ins.map fun i =>
        devTry s r i.lane (vaOf r sb (i.arg 0)) (widthBytes wd) Access.store (.store (i.data 1 (widthBytes wd))) fun _ => none) ∧
      done (.sts d a sb wd) (some .st) .store none none w1 (ins.map fun i =>
        coreTry .spm (spmSize s r) 0x18 i.lane (offOf r sb (i.arg 0)) (widthBytes wd) (.store (i.data 1 (widthBytes wd)))) ∧
      done (.stp d a sb wd) (some .st) .store none none
        (storeWindows w1 (ins.map fun i => (i.lane, offOf r sb (i.arg 0), dataBytes (i.data 1 (widthBytes wd)) (widthBytes wd))))
        (ins.map fun i =>
          (coreTry .lane (lpSize s r) 0x19 i.lane (offOf r sb (i.arg 0)) (widthBytes wd) (.store (i.data 1 (widthBytes wd)))).stored)) ∧
    (FieldsRead s k r w (atomCheck d a o aw ret r) (a.toNat :: runOf d.toNat (atomRegs o aw)) vals w1 →
      let ins := inputs s r vals (a.toNat :: runOf d.toNat (atomRegs o aw))
      done (.atom d a sb aw o ret) (some (if ret then .ld else .st)) .atomic none none w1 (ins.map fun i =>
        (devTry s r i.lane (vaOf r sb (i.arg 0)) (awBytes aw) Access.atom (atomAcc o aw ret i) hostTrap).to i.fibre d.toNat (atomDst aw ret)) ∧
      done (.atoms d a sb aw o ret) (some (if ret then .ld else .st)) .atomic none none w1 (ins.map fun i =>
        (coreTry .spm (spmSize s r) 0x18 i.lane (offOf r sb (i.arg 0)) (awBytes aw) (atomAcc o aw ret i)).to i.fibre d.toNat
          (atomDst aw ret))) ∧
    (FieldsRead s k r w (memCheck [a.toNat] (0, 0) (0, 0) r) [a.toNat] vals w1 →
      let ins := inputs s r vals [a.toNat]
      done (.clean a sb) (some .st) .cache none none w1 (ins.map fun i =>
        (devTry s r i.lane (vaOf r sb (i.arg 0)) 1 Access.load .clean fun _ => none).wholeLine) ∧
      done (.invs a sb) (some .st) .cache none none w1 (ins.map fun i =>
        (devTry s r i.lane (vaOf r sb (i.arg 0)) 1 Access.load .inval fun _ => none).wholeLine))

/-- What a memory word leaves: a new operation at the end of its wave's, with the accesses in lane order; memory, the other waves, the registers
and every other piece of state but the steps in flight are as before. An access whose address is no multiple of its width gives 0x08, one of an
on-core space that lies beyond its bound 0x18 or 0x19 (02_encoding R34, 08_memory_spaces R160, R161). -/
def Obligations.IssuedAccessChangesNoMemory : Prop :=
  (∀ (s : State) (k : Nat) (r w : Wave) (cls : Option OpCls) (kind : OpKind) (acq rel : Option Scope) (subs : List Sub),
    let t := enterOp s k r w cls kind acq rel subs
    (∃ w', t.wave k = some w' ∧ w'.nextOp = w.nextOp + 1 ∧ w'.vregs = w.vregs ∧ w'.sregs = w.sregs ∧
      w'.fibres = w.fibres ∧
      ∃ os o, w'.ops = os ++ [o] ∧ OpsAlike os w.ops ∧ o.id = w.nextOp ∧ o.cls = cls ∧ o.kind = kind ∧ o.acq = acq ∧ o.rel = rel ∧ o.done = false ∧
        o.subs.length = subs.length ∧ o.subs.map Sub.pa = subs.map Sub.pa ∧ o.subs.map Sub.lane = subs.map Sub.lane) ∧
    t.mem = s.mem ∧ t.dev = s.dev ∧ t.ctxs = s.ctxs ∧ t.base = s.base ∧ t.issue = s.issue ∧ t.tick = s.tick ∧
    (∀ j, j ≠ k → t.wave j = s.wave j) ∧ (∀ e ∈ s.pending, e ∈ t.pending)) ∧
  (∀ (s : State) (w : Wave) (lane va n size cause : Nat) (a : Access) (acc : Acc) (sp : Space) (f : Target → Option (Nat × Nat)),
    (va % n ≠ 0 → devTry s w lane va n a acc f = .fail { lane := lane, cause := 0x08, addr := va, info := 0 }) ∧
    (va % n ≠ 0 → coreTry sp size cause lane va n acc = .fail { lane := lane, cause := 0x08, addr := va, info := 0 }) ∧
    (va % n = 0 → size < va + n → coreTry sp size cause lane va n acc = .fail { lane := lane, cause := cause, addr := va, info := n }) ∧
    (va % n = 0 → va + n ≤ size → ∃ x, coreTry sp size cause lane va n acc = .fine x ∧ x.pa = va ∧ x.n = n ∧ x.lane = lane))

/-- FENCE leaves its fence outstanding, an acq-rel fence as an acquire and a release; PREF towards the LLC changes nothing and towards the L1 asks
for the lines that its fibres name in D and S pages, and neither changes memory; the
words of queue streams start and stop them (10_memory_instructions R222 to R224, R226, R227). -/
def Obligations.FencesAndStreams : Prop :=
  ∀ (sc : FScope) (f : FKind) (a : SReg) (va : VReg) (sb : BitVec 4) (q : BitVec 2) (s : State) (k : Nat) (r w w1 : Wave)
    (vals : Map (Map Word)),
    (Issues s k r w →
      (f ≠ .acqrel → Completes (.fence sc f) s k r ((s.setWave k (enterFence w s.tick f sc)).post (.homeSliceRequest k w.nextOp 0))) ∧
      Completes (.fence sc .acqrel) s k r
        (((s.setWave k (enterFence (enterFence w s.tick .acq sc) s.tick .rel sc)).post (.homeSliceRequest k w.nextOp 0)).post
          (.homeSliceRequest k (w.nextOp + 1) 0)) ∧
      ((sreg r a.toNat).toNat < 2 ^ 24 →
        Completes (.qld a q) s k r (s.setWave k (setStream w q.toNat { streamOf w q.toNat with count := (sreg r a.toNat).truncate 24, active := true, underrun := false, overrun := false, held := [], since := w.nextOp })) ∧
        Completes (.qst a q) s k r (s.setWave k (setStream w q.toNat { streamOf w q.toNat with count := (sreg r a.toNat).truncate 24, active := true, underrun := false, overrun := false }))) ∧
      (2 ^ 24 ≤ (sreg r a.toNat).toNat → Raises (.qld a q) s k r (batchTrap r 0x01 0) ∧ Raises (.qst a q) s k r (batchTrap r 0x01 0)) ∧
      Completes (.qstop q) s k r (s.setWave k (setStream w q.toNat ((streamOf w q.toNat).stop q.toNat)))) ∧
    (FieldsRead s k r w (memCheck [va.toNat] (0, 0) (0, 0) r) [va.toNat] vals w1 →
      Completes (.pref va sb .llc) s k r (s.setWave k w1) ∧
      Completes (.pref va sb .l1) s k r
        (enterPrefs s k w1 ((inputs s r vals [va.toNat]).filterMap fun i => prefetchOne s r i.lane (vaOf r sb (i.arg 0))))) ∧
    (∀ subs, (enterPrefs s k w subs).mem = s.mem ∧ ∀ j, j ≠ k → (enterPrefs s k w subs).wave j = s.wave j)

/-- The remote words send one message for each fibre, MCST one for each rank; MCAS hands each fibre's commit to the sequencer; the
block-store words send one request for each fibre (10_memory_instructions R210, R211, R216 to R220, 14_plot_units R320, R322). -/
def Obligations.RemoteAndCommitWords : Prop :=
  ∀ (d a b : VReg) (sb : BitVec 4) (g : BitVec 2) (q : Bool) (s : State) (k : Nat) (r w w1 : Wave) (vals : Map (Map Word)) (ms : List Nat),
    (groupMembers s r.blk g.toNat = some ms →
      (FieldsRead s k r w (memCheck [a.toNat, b.toNat] (0, 0) (d.toNat, 1) r) [a.toNat, b.toNat] vals w1 →
        ∀ subs : List (Sub × Nat), classFull r .ld = false →
          (inputs s r vals [a.toNat, b.toNat]).map (fun i => (((remoteTry s r ms (some (i.arg 1).toNat) i.lane (i.arg 0).toNat (.load false)).to i.fibre
            d.toNat 1).access, ms.getD (i.arg 1).toNat 0)) = subs.map (fun p => (some p.1, p.2)) →
          Completes (.rld d a b g) s k r (sendRemote s k w1 .ld .load subs)) ∧
      (FieldsRead s k r w (memCheck [a.toNat, b.toNat, d.toNat] (0, 0) (0, 0) r) [a.toNat, b.toNat, d.toNat] vals w1 →
        ∀ subs : List (Sub × Nat), classFull r .st = false →
          (inputs s r vals [a.toNat, b.toNat, d.toNat]).map (fun i => ((remoteTry s r ms (some (i.arg 1).toNat) i.lane (i.arg 0).toNat
            (.store ((i.arg 2).zeroExtend 64))).access, ms.getD (i.arg 1).toNat 0)) = subs.map (fun p => (some p.1, p.2)) →
          Completes (.rst d a b g) s k r (sendRemote s k w1 .st .store subs)) ∧
      (FieldsRead s k r w (memCheck [a.toNat, d.toNat] (0, 0) (0, 0) r) [a.toNat, d.toNat] vals w1 →
        ∀ xs : List Sub, classFull r .st = false →
          (inputs s r vals [a.toNat, d.toNat]).map (fun i => (remoteTry s r ms none i.lane (i.arg 0).toNat (.store ((i.arg 1).zeroExtend 64))).access) =
            xs.map some →
          Completes (.mcst d a g) s k r (sendRemote s k w1 .st .store (xs.flatMap fun x => ms.map fun m => (x, m))))) ∧
    (FieldsRead s k r w (memCheck [a.toNat] (0, 0) (d.toNat, 1) r) [a.toNat] vals w1 →
      let ins := inputs s r vals [a.toNat]
      let ts := ins.map fun i => mcasTry s r k w1.nextOp i.lane (vaOf r sb (i.arg 0))
      let reads := ins.flatMap fun i => mcasReads s r (vaOf r sb (i.arg 0))
      classFull r .ld = false → readsOpen s r reads = true → (∀ t ∈ ts, t.fails = [] ∧ t.waits = []) →
      Completes (.mcas d a sb) s k r (noteReads (enterCommits (s.setWave k
        (addOp w1 s.tick (some .ld) .mcas none none (ins.map fun i => mcasSub i d.toNat) (subDests (ins.map fun i => mcasSub i d.toNat))))
        (ts.filterMap McasTry.commit)) k r reads)) ∧
    (a.toNat + 1 < 124 → d.toNat < 124 →
      let asked (w1 : Wave) (kind : Nat) (cls : Option OpCls) (ok : OpKind) (dst : Nat × Nat) (q : Bool) (ins : List LaneIn) : State :=
        (s.setWave k (addOp w1 s.tick cls ok none none (ins.map fun x => bsSub x dst.1 dst.2) (subDests (ins.map fun x => bsSub x dst.1 dst.2)))).posts
          (ins.map fun x => Ev.blockStoreRequest
            { kind := kind, wave := k, lane := x.lane, op := w1.nextOp, seq := x.arg 0, layer := x.arg 1, handle := x.arg 2, quiet := q })
      (FieldsRead s k r w (portCheck r [a.toNat, a.toNat + 1] [d.toNat]) [a.toNat, a.toNat + 1] vals w1 → classFull r .ld = false →
        Completes (.bka d a) s k r (asked w1 1 (some .ld) .load (d.toNat, 1) false (inputs s r vals [a.toNat, a.toNat + 1])) ∧
        Completes (.bkt d a q) s k r (asked w1 2 (some .ld) .load (d.toNat, 1) q (inputs s r vals [a.toNat, a.toNat + 1]))) ∧
      (FieldsRead s k r w (portCheck r [a.toNat, a.toNat + 1, d.toNat] []) [a.toNat, a.toNat + 1, d.toNat] vals w1 →
        Completes (.bks d a) s k r (asked w1 3 none .store (0, 0) false (inputs s r vals [a.toNat, a.toNat + 1, d.toNat]))) ∧
      (FieldsRead s k r w (portCheck r [a.toNat, a.toNat + 1] []) [a.toNat, a.toNat + 1] vals w1 →
        Completes (.bkf a) s k r (asked w1 4 none .store (0, 0) false (inputs s r vals [a.toNat, a.toNat + 1]))))

/-! ## Barrier objects, circular buffers, ordered sections -/

/-- The BAR words at an object of the block's own scratchpad take effect before their chain completes; BWAIT parks while the phase is the
operand, and BTEST tells whether it differs; at an object elsewhere they send their update or request (11_async_copies R247 to R250). -/
def Obligations.BarrierWords : Prop :=
  ∀ (g : Bool) (p : PReg) (a b : SReg) (s : State) (k : Nat) (r w : Wave) (off : Nat), Issues s k r w →
    let own : Prop := off % 16 = 0 ∧ off + 16 ≤ spmSize s r ∧ (sreg r a.toNat).toNat = off ∧ off < 2 ^ 19 ∧ spmQuiet r off = true
    let e := (sreg r b.toNat).toNat
    let sent (rel : Option Scope) (o : BarObj) (u : BarUpd) (x : Sub) : State :=
      (s.setWave k (enterBar w s.tick rel o u [x])).post (.barrierUpdate (some k) o u)
    let asked (kind : Park) (o : BarObj) (gen addr : Nat) (test : Option PReg) : State :=
      (s.moved k (parkAt s w (batch r) fun _ => kind)).post (.remoteBarrierRequest k (maskOf (batch r)).toNat gen addr o e test)
    (own → 1 ≤ e → e < 2 ^ 14 → storeReady r = true →
      Completes (.binit false a b) s k r (updateObj (s.setWave k w) (.spm r.blk off) (.init e)).1) ∧
    (own → releaseReady s r = true →
      let q := updateObj { s.setWave k w with mem := releaseBytes s.mem (coreOf s r) } (.spm r.blk off) .arrive
      (q.2 = false → Completes (.barv false a) s k r q.1) ∧ (q.2 = true → Raises (.barv false a) s k r (mkTrap 0x20 (batch r) off 0))) ∧
    (own → Completes (.bexp false a b) s k r (updateObj (s.setWave k w) (.spm r.blk off) (.expect (sreg r b.toNat).toInt)).1) ∧
    (own → acquiresDone r = true → e < 16 → phaseOf s (.spm r.blk off) ≠ e →
      Completes (.bwait false a b) s k r { s.setWave k w with mem := acquireBytes s.mem (coreOf s r) } ∧
      Completes (.btest false p a b) s k r { s.setWave k (setPreds w (batch r) p true) with mem := acquireBytes s.mem (coreOf s r) }) ∧
    (own → acquiresDone r = true → e < 16 → phaseOf s (.spm r.blk off) = e →
      Completes (.bwait false a b) s k r (s.moved k (parkAt s w (batch r) fun _ => .bwait (.spm r.blk off) e)) ∧
      Completes (.btest false p a b) s k r (s.setWave k (setPreds w (batch r) p false))) ∧
    (∀ dest x, barRef s r true a Access.store false = .ok (.mem dest x) →
      (1 ≤ e → e < 2 ^ 14 → Completes (.binit true a b) s k r (sent none (lineObj x) (.init e) x)) ∧
      Completes (.bexp true a b) s k r (sent none (lineObj x) (.expect (sreg r b.toNat).toInt) x)) ∧
    (∀ dest x, barRef s r true a Access.store true = .ok (.mem dest x) →
      Completes (.barv true a) s k r (sent (some .dev) (lineObj x) .arrive x)) ∧
    (∀ dest x, barRef s r true a Access.load true = .ok (.mem dest x) → e < 16 →
      Completes (.bwait true a b) s k r (asked (.bwait (lineObj x) (32 + e)) (lineObj x) 0 dest none) ∧
      Completes (.btest true p a b) s k r (asked (.btest (lineObj x)) (lineObj x) 0 dest (some p))) ∧
    (∀ blk gen o, barRef s r false a Access.store true = .ok (.remote blk gen o) →
      let subs := if blk = w.blk then [mkSub 0 { space := .spm, pa := o, key := none, dup := none, page := 0 } o 16 .clean] else []
      Completes (.barv false a) s k r
        ((s.setWave k (enterBar { w with nextMsg := w.nextMsg + 1 } s.tick (some .grp) (.spm blk o) .arrive subs)).post
        (.remoteMessage { wave := k, seq := w.nextMsg, core := msgCore s blk, blk := blk, gen := gen, off := o, op := .arrive w.nextOp (sreg r a.toNat).toNat }))) ∧
    (∀ blk gen o, barRef s r false a Access.load true = .ok (.remote blk gen o) → e < 16 →
      Completes (.bwait false a b) s k r (asked (.bwait (.spm blk o) (32 + e)) (.spm blk o) gen (sreg r a.toNat).toNat none) ∧
      Completes (.btest false p a b) s k r (asked (.btest (.spm blk o)) (.spm blk o) gen (sreg r a.toNat).toNat (some p))) ∧
    (16 ≤ e → Raises (.bwait g a b) s k r (batchTrap r 0x01 0) ∧ Raises (.btest g p a b) s k r (batchTrap r 0x01 0)) ∧
    ((e = 0 ∨ 2 ^ 14 ≤ e) → Raises (.binit g a b) s k r (batchTrap r 0x01 0))

/-- The updates of a barrier object with their completion check (11_async_copies R245): S is kept modulo 2^32 (R244), BINIT starts phase 0
(R251), and the fields stand in the object's 128 bits. -/
def Obligations.BarrierObjectCounts : Prop :=
  ∀ (f : BarFields) (n : Nat) (i : Int), f.phase < 16 → f.e < 2 ^ 14 → f.a < 2 ^ 14 → f.sect < 2 ^ 32 →
    let complete (f : BarFields) : BarFields :=
      if f.a = 0 ∧ f.sect = 0 then { f with phase := (f.phase + 1) % 16, a := f.e } else f
    (f.a = 0 → barStep f .arrive = ({ f with overrun := true }, false, true)) ∧
    (f.a ≠ 0 → (barStep f .arrive).1 = complete { f with a := f.a - 1 }) ∧
    (barStep f (.credit n)).1 = complete { f with sect := (((f.sect : Int) - n) % 2 ^ 32).toNat } ∧
    (barStep f (.expect i)).1 = complete { f with sect := (((f.sect : Int) + i) % 2 ^ 32).toNat } ∧
    barStep f (.init n) = ({ phase := 0, overrun := false, e := n, a := n, sect := 0 }, true, false) ∧
    (∀ u : BarUpd, (u = .arrive ∨ u = .credit n ∨ u = .expect i) → ((barStep f u).2.1 = true ↔ (barStep f u).1.phase ≠ f.phase)) ∧
    barOf (barBits f) = f

/-- The circular-buffer words (11_async_copies R253 to R257). That a CBREL also releases a fill not yet COMMITTED, where a tile
operation has named it and a copy is to land it, is the model's reading (log 53). -/
def Obligations.CircularBufferWords : Prop :=
  ∀ (n : BitVec 4) (a d : SReg) (s : State) (k : Nat) (r w : Wave), Issues s k r w → n.toNat < cbufCount s r.blk →
    let q := cbufOf s r.blk n.toNat
    let put (q : Cbuf) : State := mapCbuf (s.setWave k w) w.blk n.toNat fun _ => q
    let x := (sreg r a.toNat).toNat
    let size := (sreg r (a.toNat + 1)).toNat % 2 ^ 16
    let count := (sreg r (a.toNat + 1)).toNat / 2 ^ 16
    (x < 2 ^ 19 → x % 32 = 0 → size % 32 = 0 → 32 ≤ size → size ≤ 65504 → 1 ≤ count → count ≤ 16 → q.quiet = true →
      x + size * count ≤ spmSize s r →
      Completes (.cbcfg a n) s k r
        (put { base := x, size := size, count := count, p := 0, c := 0, slots := List.replicate count freshSlot, copies := 0 })) ∧
    (q.count ≠ 0 → (q.slot q.p).st = .free → (q.slot q.p).rel ≤ (q.slot q.p).fill → slotWaiting s r.blk n.toNat q.p = 0 → releaseReady s r = true →
      Completes (.cbcom n) s k r
        { put { q.setSlot q.p { q.slot q.p with st := .committed } with p := (q.p + 1) % q.count } with mem := releaseBytes s.mem (coreOf s r) }) ∧
    (q.count ≠ 0 → releaseReady s r = true →
      let y := q.slot q.c
      let named : Prop := y.rel ∈ y.refs ∧ y.rel < claimedFills (slotWaiting s r.blk n.toNat q.c) y
      (y.st = .committed → y.rel = y.fill → Completes (.cbrel n) s k r
        { put { q.setSlot q.c { y with st := if y.fill ∈ y.refs then .released else .free, rel := y.rel + 1
                                       fill := if y.fill ∈ y.refs then y.fill else y.fill + 1 } with c := (q.c + 1) % q.count } with
          mem := releaseBytes s.mem (coreOf s r) }) ∧
      (y.st ≠ .committed → ¬ named → Completes (.cbrel n) s k r
        { put { q with c := (q.c + 1) % q.count } with mem := releaseBytes s.mem (coreOf s r) }) ∧
      (y.st = .free ∨ y.st = .claimed → named → Completes (.cbrel n) s k r
        { put { q.setSlot q.c { y with rel := y.rel + 1 } with c := (q.c + 1) % q.count } with mem := releaseBytes s.mem (coreOf s r) })) ∧
    Completes (.cbqry d n) s k r (s.setWave k { w with sregs := w.sregs.store d.toNat (BitVec.ofNat 32 (if q.count = 0 then 0 else q.word)) 0 })

/-- OENT takes a section slot for each fibre and parks it with its request; OLEAVE gives the slot back and sends the leave; OSKIP takes a
slot until its skip has been performed; OQRY parks its fibres. A fibre without a free slot, or without the section that it leaves, gives
trap 0x24 (12_ordered_sections R262 to R264). -/
def Obligations.OrderedSectionWords : Prop :=
  ∀ (d a b : VReg) (s : State) (k : Nat) (r w w1 : Wave) (vals : Map (Map Word)),
    (FieldsRead s k r w (portCheck r [a.toNat, b.toNat] [d.toNat]) [a.toNat, b.toNat] vals w1 →
      let ins := inputs s r vals [a.toNat, b.toNat]
      ((∀ x ∈ ins, freeSect x.fibre = true) →
        Completes (.oent d a b) s k r ((s.moved k (ins.foldl (fun w x =>
          parkOne s (takeSect w x { key := x.arg 0, seq := x.arg 1, st := .awaiting }) x.lane
            (.oent (x.arg 0) (x.arg 1) (x.fibre.base + d.toNat))) w1)).posts
          (ins.map fun x => wpReq s r x .oent (x.arg 0) (x.arg 1) none))) ∧
      ((∃ x ∈ ins, freeSect x.fibre = false) →
        Raises (.oent d a b) s k r (mkTrap 0x24 ((ins.filter fun x => !freeSect x.fibre).map LaneIn.lane) 0 0))) ∧
    (FieldsRead s k r w (portCheck r [a.toNat, b.toNat] []) [a.toNat, b.toNat] vals w1 →
      let ins := inputs s r vals [a.toNat, b.toNat]
      (∀ x ∈ ins, freeSect x.fibre = true) →
        Completes (.oskip a b) s k r ((s.setWave k (ins.foldl (fun w x =>
          takeSect w x { key := x.arg 0, seq := x.arg 1, st := .deferred }) w1)).posts
          (ins.map fun x => wpReq s r x .oskip (x.arg 0) (x.arg 1) (some (k, w1.nextOp))))) ∧
    (FieldsRead s k r w (portCheck r [a.toNat] []) [a.toNat] vals w1 →
      let ins := inputs s r vals [a.toNat]
      (∀ held : List (LaneIn × Sect), ins.map (fun x => (heldSect x.fibre (x.arg 0)).map fun y => (x, y)) = held.map some →
        Completes (.oleave a) s k r ((s.setWave k (held.foldl (fun w q => w.mapFibre q.1.lane (setSlot q.2 Sect.none)) w1)).posts
          (held.map fun q => wpReq s r q.1 .oleave q.2.key q.2.seq (some (k, w1.nextOp))))) ∧
      ((∃ x ∈ ins, heldSect x.fibre (x.arg 0) = none) →
        Raises (.oleave a) s k r (mkTrap 0x24 ((ins.filter fun x => !(heldSect x.fibre (x.arg 0)).isSome).map LaneIn.lane) 0 1))) ∧
    (FieldsRead s k r w (portCheck r [a.toNat] [d.toNat]) [a.toNat] vals w1 →
      let ins := inputs s r vals [a.toNat]
      Completes (.oqry d a) s k r ((s.moved k (ins.foldl (fun w x =>
        parkOne s w x.lane (.oqry (x.arg 0) (x.fibre.base + d.toNat))) w1)).posts (ins.map fun x => wpReq s r x .oqry (x.arg 0) 0 none)))

/-! ## Copies and tiles -/

/-- Each copy word takes a place of the traverse unit for the copy that its descriptor names: a new entry of the copies under way with what the
descriptor says, nothing of it landed, and an operation of class CP at the end of its wave's; the p of a named buffer advances with one copy
more, a copy with .x adds its sectors to its object's expectation, and no memory changes but by the write-through of the core's dirty S bytes
(11_async_copies R228 to R240). -/
def Obligations.CopyWords : Prop :=
  (∀ (a : SReg) (v : VReg) (x : Bool) (s : State) (k : Nat) (r w w1 : Wave) (vals : Map (Map Word)) (pages : Map PageAt) (rec : List Word),
    (Issues s k r w →
      let with' (i : Instr) (p : Plan) : Prop := CopyReady s r x p pages → Completes i s k r (copying s k r w x p pages)
      with' (.cpy a x) (planCpy s r (descWords r a)) ∧
      with' (.cpyp a x) (planCpyp s r (descWords r a)) ∧
      with' (.cpym a x) (planCpym s r (descWords r a)) ∧
      with' (.cpys a x) (planCpys s r (descWords r a)) ∧
      with' (.cpyb a x) (planCpyb s r (descWords r a)) ∧
      (readsOpen s r [(dva (descWords r a) 0, 32)] = true → layoutRecord s r (dva (descWords r a) 0) = .ok rec →
        CopyReady s r x (planCpyt (descWords r a ++ rec)) pages →
        Completes (.cpyt a x) s k r (noteReads (copying s k r w x (planCpyt (descWords r a ++ rec)) pages) k r [(dva (descWords r a) 0, 32)]))) ∧
    (FieldsRead s k r w (portCheck r [v.toNat] []) [v.toNat] vals w1 →
      let p := planCpyg (descWords r a) ((inputs s r vals [v.toNat]).map fun i => (i.lane, i.arg 0))
      CopyReady s r x p pages → Completes (.cpyg a v x) s k r (copying s k r w1 x p pages))) ∧
  (∀ (x : Bool) (p : Plan) (s : State) (k : Nat) (r w : Wave) (b : Block) (pages : Map PageAt), s.block r.blk = some b → b.status ≠ .saved →
    let d := p.desc
    let i := dw d 7 % 16
    let q := b.cbufs.getD i Cbuf.empty
    let obj : Option BarObj := if bitAt (dw d 6) 31 = true then none else some (.spm r.blk (bits (dw d 6) 18 0))
    let dests := if p.form = 4 then cpymTargets s r d else []
    let total := p.bytes / 32 * (if p.form = 4 then dests.length else 1)
    let t := copying s k r w x p pages
    (∃ c, t.work.copies = s.work.copies.put s.work.nextCopy c ∧ c.core = coreOf s r ∧ c.blk = r.blk ∧ c.wave = k ∧ c.op = w.nextOp ∧
      c.form = p.form ∧ c.x = x ∧ c.desc = d ∧ c.idxs = p.idxs ∧ c.total = total ∧ c.left = List.range total ∧ c.started = false ∧ c.bar = obj ∧
      c.cb = (if cbSet d = true then some (i, q.p) else none) ∧ c.targets = dests ∧ c.pages = pages) ∧
    t.work.nextCopy = s.work.nextCopy + 1 ∧
    (∃ v os o, t.wave k = some v ∧ v.ops = os ++ [o] ∧ OpsAlike os w.ops ∧ o.id = w.nextOp ∧ o.cls = some .cp ∧
      o.kind = (if p.form = 4 then OpKind.cpym else OpKind.copy) ∧ o.done = false ∧ o.counted = false ∧ o.subs = [] ∧
      v.nextOp = w.nextOp + 1 ∧ v.vregs = w.vregs ∧ v.sregs = w.sregs) ∧
    (cbSet d = true → i < b.cbufs.length → cbufOf t r.blk i = { q with p := (q.p + 1) % q.count, copies := q.copies + 1 }) ∧
    (cbSet d = false → ∀ n, cbufOf t r.blk n = b.cbufs.getD n Cbuf.empty) ∧
    (dirtyLines s.mem (coreOf s r) = [] → t.mem = s.mem) ∧
    (NoTiles s → x = true → p.form ≠ 4 → ∀ off, obj = some (.spm r.blk off) →
      objAt t r.blk off = (barStep (objAt s r.blk off) (.expect total)).1 ∧
      ∀ n, (n < off ∨ off + 16 ≤ n) → spmAt t r.blk n = spmAt s r.blk n) ∧
    (x = false ∨ p.form = 4 ∨ obj = none → ∀ n, spmAt t r.blk n = spmAt s r.blk n)) ∧
  (∀ (s : State) (r : Wave) (d : List Word) (idxs : List (Nat × Word)),
    ((planCpy s r d).form = 0 ∧ (planCpy s r d).bytes = dw d 4 ∧ (planCpy s r d).desc = d) ∧
    ((planCpyt d).form = 1 ∧ (planCpyt d).bytes = tileW d * esize d * tileH d ∧ (planCpyt d).desc = d) ∧
    ((planCpyg d idxs).form = 2 ∧ (planCpyg d idxs).bytes = dw d 4 * idxs.length ∧ (planCpyg d idxs).desc = d ∧ (planCpyg d idxs).idxs = idxs) ∧
    ((planCpyp s r d).form = 3 ∧ (planCpyp s r d).bytes = dw d 4 ∧ (planCpyp s r d).desc = d) ∧
    ((planCpym s r d).form = 4 ∧ (planCpym s r d).bytes = dw d 4 ∧ (planCpym s r d).desc = d) ∧
    ((planCpys s r d).form = 5 ∧ (planCpys s r d).bytes = dw d 2 % 2 ^ 16 * (dw d 2 / 2 ^ 16) * 16 * (steOf s (ctxOf s r) (dw d 0 % 2 ^ 12)).p ∧
      (planCpys s r d).desc = d) ∧
    ((planCpyb s r d).form = 6 ∧ (planCpyb s r d).bytes = 16384 ∧ (planCpyb s r d).desc = d))

/-- Each tile word enters its operation in the block's tile queue, in program order (06_matrix R119 to R141, 07_cartouche R146 to R148). -/
def Obligations.TileWords : Prop :=
  ∀ (z src : BitVec 5) (c : SlabCnt) (va : VReg) (a : SReg) (b : BitVec 4) (q : BitVec 2) (f : MmaFmt) (mf : MmacFmt) (dst : Dst)
    (x t m u n clr : Bool) (s : State) (k : Nat) (r w : Wave) (pages : Map PageAt) (sel : Sel), Issues s k r w →
    let off := (sreg r a.toNat).toNat
    (TileRoom s r true → z.toNat + slabNum c ≤ slabCount s r.blk →
      Completes (.zclr z c) s k r (pushTile s k w true [] (mkTile s k w z.toNat (slabNum c) 0 .zclr [] [])) ∧
      (off % 16 = 0 → off + 4096 * slabNum c ≤ spmSize s r →
        Completes (.zld z c a) s k r (pushTile s k w true [] (mkTile s k w z.toNat (slabNum c) 0 (.zld off) [(Space.spm, off, 4096 * slabNum c)] [])) ∧
        Completes (.zst z c a) s k r (pushTile s k w true [] (mkTile s k w z.toNat (slabNum c) 0 (.zst off) [] [(Space.spm, off, 4096 * slabNum c)]))) ∧
      ((s.block r.blk).bind selOf = some sel → drainTrap s r (drainOf r a dst c sel) = none →
        PagesOpen s r ((drainPages (drainOf r a dst c sel)).map fun va => (va, Access.store)) pages →
        let d := drainOf r a dst c sel
        Completes (.zdrain z c a dst clr) s k r ((pushTile s k w true [] (mkTile s k w z.toNat (slabNum c) 0
          (.zdrain dst clr d.origin d.view d.x2 (sreg r (a.toNat + 3)) sel pages) [] (drainWrites s r d pages))).posts
          (pageWalks s r (drainPages d))))) ∧
    (TileRoom s r false →
      Completes .opfence s k r (pushTile s k w false [] (mkTile s k w 0 0 0 (.opfence (fenceOps s k r.blk)) [] [])) ∧
      (selCheck s a r = none → Completes (.episel a) s k r (pushTile s k w false []
        (mkTile s k w 0 0 0 (.episel (selWord r a (((s.block r.blk).map Block.nextTile).getD 0))) [] [])))) ∧
    (TileRoom s r true → z.toNat + r.width / 16 ≤ slabCount s r.blk → (batch r).length = r.width →
      memCheck [] (va.toNat, if m = true then 17 else 16) (0, 0) r = none → (∀ p ∈ bChecks s r b f t n m, p.1 = false) →
      let rows := (fibresOf r (batch r)).map fun p => (p.1, p.2.base + va.toNat)
      let s1 := pushTile s k w true (rows.flatMap fun p => (List.range (if m = true then 17 else 16)).map fun j => (p.1, p.2 + j))
        (mkTile s k w z.toNat (r.width / 16) r.width (.mma rows f t m u n b.toNat (cbufOf s r.blk b.toNat).c (nextFill (cbufOf s r.blk b.toNat)) (viewOf r b))
          (if t = true then viewReads s r b f n else slotReads s r b f n m) [])
      Completes (.mma z va b f t m u n) s k r (if t = true then s1 else nameSlot s1 r.blk b)) ∧
    (TileRoom s r true → z.toNat + r.width / 16 ≤ slabCount s r.blk → src.toNat + r.width / 16 ≤ slabCount s r.blk →
      16 * q.toNat + fmtK (mmacFmt mf) ≤ 64 → converged r = true → (∀ p ∈ bChecks s r b (mmacFmt mf) t n false, p.1 = false) →
      let s1 := pushTile s k w true []
        (mkTile s k w z.toNat (r.width / 16) r.width (.mmac src.toNat q.toNat mf x t u n b.toNat (cbufOf s r.blk b.toNat).c (nextFill (cbufOf s r.blk b.toNat)) (viewOf r b))
          (if t = true then viewReads s r b (mmacFmt mf) n else slotReads s r b (mmacFmt mf) n false) [])
      Completes (.mmac z src q b mf x t u n) s k r (if t = true then s1 else nameSlot s1 r.blk b))

/-! ## Graphics, plots and launches -/

/-- The words of surfaces, fragments, textures and plots (13_raster R280 to R310, 14_plot_units R314, R315). -/
def Obligations.GraphicsWords : Prop :=
  ∀ (va vb vd : VReg) (a b d : SReg) (p : Bool) (j : BitVec 3) (s : State) (k : Nat) (r w w1 : Wave) (vals : Map (Map Word)),
    (Issues s k r w →
      (let va := (spair r a.toNat).toNat
        let prims := primReads s (coreOf s r) (ctxOf s r) r.level va
        let plots := plotReads s (coreOf s r) (ctxOf s r) r.level va
        (∀ x, readsOpen s r prims = true → readPrim s (coreOf s r) (ctxOf s r) r.level va = .ok x →
          Completes (.prim a) s k r (submitBatch (noteReads (s.setWave k w) k r prims) k r (ctxOf s r) x)) ∧
        (∀ x, readsOpen s r [(va, 64)] = true → (sreg r b.toNat).toNat < 2 ^ 12 → alignedWords s (coreOf s r) (ctxOf s r) r.level va 64 16 = .ok x →
          imageOk x = true →
          Completes (.srfset a b) s k r
            ({ noteReads (s.setWave k w) k r [(va, 64)] with base := { s.base with sets := s.base.sets.put s.base.nextSet { wave := k, ctx := ctxOf s r, ste := (sreg r b.toNat).toNat, image := x }, nextSet := s.base.nextSet + 1 } }.post (.srfsetPerform s.base.nextSet))) ∧
        (∀ x, readsOpen s r plots = true → readPlot s (coreOf s r) (ctxOf s r) r.level va = .ok x →
          firstRejected s (steOf s (ctxOf s r) (rw x.desc 3 % 2 ^ 12)).p x.words = none → releaseReady s r = true →
          Completes (.plot a) s k r
            (let s1 := noteReads (s.setWave k w) k r plots
            submitPlot { s1 with mem := releaseBytes s1.mem (coreOf s r) } k r (ctxOf s r) va x))) ∧
      ((sreg r a.toNat).toNat < 2 ^ 16 → (sreg r a.toNat).toNat / 2 ^ 12 ≤ 5 →
        Completes (.srfqry d a) s k r (s.setWave k (setSreg w d.toNat
          (queryWord s (ctxOf s r) ((sreg r a.toNat).toNat % 2 ^ 12) ((sreg r a.toNat).toNat / 2 ^ 12))))) ∧
      (fragCheck r = none → Completes .fdisc s k r ((fibresOf r (batch r)).foldl (fun s p =>
        match p.2.frag with
        | some g => discardFrag s k g
        | none => s) (s.setWave k (clearFrag w (batch r)))))) ∧
    (FieldsRead s k r w (fexpCheck va.toNat vb.toNat (exportRegs s) r) (runOf va.toNat (exportRegs s) ++ [vb.toNat]) vals w1 →
      classFull r .st = false →
      let ins := inputs s r vals (runOf va.toNat (exportRegs s) ++ [vb.toNat])
      ∃ t, Completes (.fexp va vb) s k r t ∧ t.base.nextExport = s.base.nextExport + ins.length ∧
        (∀ n x g, ins[n]? = some x → x.fibre.frag = some g →
          t.base.exports.look (s.base.nextExport + n) = some (newExport k w1.nextOp g (exportRegs s) x) ∧
          Ev.exportEntry (s.base.nextExport + n) ∈ t.pending) ∧
        t.mem = s.mem ∧ t.base.cells = s.base.cells ∧ t.base.tickets = s.base.tickets) ∧
    (∀ bt, FieldsRead s k r w (attrCheck s vd.toNat va.toNat j.toNat r) [va.toNat, va.toNat + 1, va.toNat + 4] vals w1 →
      waveBatch s r = some bt →
      (∀ x ∈ inputs s r vals [va.toNat, va.toNat + 1, va.toNat + 4], (x.arg 2).toNat ∈ ((s.block r.blk).map Block.tris).getD []) →
      Completes (.attr vd va p j) s k r (s.setWave k (writeLanes w1 vd.toNat ((inputs s r vals [va.toNat, va.toNat + 1, va.toNat + 4]).map fun i =>
        (i, { regs := (List.range 4).map fun c => attrVal bt p (i.arg 2).toNat j.toNat c (i.arg 0).toNat (i.arg 1).toNat, preds := [], conds := 0 }))))) ∧
    (∀ n, n = pixelRegs s b.toNat →
      (FieldsRead s k r w (pixelCheck vd.toNat b.toNat n (memCheck [va.toNat] (0, 0) (vd.toNat, n)) r) [va.toNat] vals w1 →
        let ts := (inputs s r vals [va.toNat]).map fun i =>
          (pixelTry s (ctxOf s r) (sreg r b.toNat).toNat i.lane (i.arg 0) (.load false)).to i.fibre vd.toNat n
        AccessesPass r (some .ld) ts →
        Completes (.srfld vd va b) s k r (enterOp s k r w1 (some .ld) .load none none (ts.filterMap Try.access))) ∧
      (FieldsRead s k r w (pixelCheck vd.toNat b.toNat n (memCheck [va.toNat] (vd.toNat, n) (0, 0)) r) (va.toNat :: runOf vd.toNat n) vals w1 →
        let ts := (inputs s r vals (va.toNat :: runOf vd.toNat n)).map fun i =>
          pixelTry s (ctxOf s r) (sreg r b.toNat).toNat i.lane (i.arg 0)
            (.store (BitVec.ofNat 64 ((i.data 1 (4 * n)).toNat % 2 ^ (8 * (steOf s (ctxOf s r) (sreg r b.toNat).toNat).p))))
        AccessesPass r (some .st) ts →
        Completes (.srfst vd va b) s k r (enterOp s k r w1 (some .st) .store none none (ts.filterMap Try.access)))) ∧
    (∀ x cs, FieldsRead s k r w (texCheck s vd.toNat va.toNat b.toNat r) (runOf va.toNat 2) vals w1 → texOpen s b.toNat = true →
      texRecord s r b.toNat = .ok x → classFull r .ld = false →
      (inputs s r vals (runOf va.toNat 2)).map (fun i => sample s r i.lane x (i.arg 0) (i.arg 1)) = cs.map Except.ok →
      let reads := texReads r b.toNat x (inputs s r vals (runOf va.toNat 2))
      readsOpen s r reads = true →
      Completes (.tex2 vd va b) s k r (noteReads (enterOp s k r w1 (some .ld) .load none none
        (((inputs s r vals (runOf va.toNat 2)).zip cs).map fun q => sampleSub q.1.lane q.1.fibre vd.toNat q.2)) k r reads))

/-- LAUNCH hands a valid record to the scheduler with sD = 0, or reads sD = 1 when its context's queue is full; TLBINV drops the entries
of its range; KEYLD empties or loads a key slot; the privileged words give trap 0x07 below the level that they need (16_scheduling R362, R363,
17_translation R404 to R406, 03_opcode_map R50). -/
def Obligations.SystemWords : Prop :=
  (∀ (a b d : SReg) (s : State) (k : Nat) (r w : Wave), Issues s k r w →
    let va := (spair r a.toNat).toNat
    let y := (sreg r b.toNat).toNat
    (∀ x c, va % 256 = 0 → readLaunch s (coreOf s r) (ctxOf s r) r.level va = .ok x → s.ctxs.look (ctxOf s r) = some c →
      let reads := launchReads s (coreOf s r) (ctxOf s r) r.level va
      let told (y : Word) : State := noteReads (s.setWave k { w with sregs := w.sregs.store d.toNat y 0 }) k r reads
      readsOpen s r reads = true →
      (64 ≤ c.devQueue.length → Completes (.launch d a) s k r (told 1)) ∧
      (c.devQueue.length < 64 → releaseReady s r = true →
        Completes (.launch d a) s k r
          ({ acceptLaunch (told 0) (ctxOf s r) r.level none 0 va x with
            mem := releaseBytes (told 0).mem (coreOf s r) }.setCtx (ctxOf s r) { c with devQueue := c.devQueue ++ [s.work.nextLaunch] }))) ∧
    (∀ core ctx level tag l, let t := acceptLaunch s ctx level none tag va l
      t.work.queue = s.work.queue ++ [s.work.nextLaunch] ∧ t.work.nextLaunch = s.work.nextLaunch + 1 ∧ t.mem = s.mem ∧ t.pending = s.pending ∧
      (∃ n, t.work.launches.look s.work.nextLaunch = some n ∧ n.ctx = ctx ∧ n.level = level ∧ n.tag = tag ∧ n.recVa = va ∧
        n.record = cappedRecord s ctx l.record ∧ n.groups = l.groups ∧ n.consts = l.consts ∧ n.next = 0 ∧ n.done = 0) ∧
      (seesStores r = true → readsOpen s r [] = true) ∧ noteReads s core r [] = s) ∧
    (∀ q, r.level ≠ .user → invRange va y = some q → releaseReady s r = true → subInRange s q = false → askInRange s q = false →
      walkInRange s q = false → heldInRange s q = false →
      Completes (.tlbinv a b) s k r { dropTlb (s.setWave k w) q with mem := releaseBytes (dropTlb s q).mem (coreOf s r) }) ∧
    (r.level = .machine → slotFree s (y % 256) = true →
      (y / 2 ^ 8 = 1 → Completes (.keyld a b) s k r (setKey (s.setWave k w) (y % 256) none)) ∧
      (y / 2 ^ 8 = 0 → va < 2 ^ 38 → va % 64 = 0 → readsOpen s r [(va, 64)] = true → keyAt s.mem va ≠ keyAt s.mem (va + 32) →
        Completes (.keyld a b) s k r (setKey (noteReads (s.setWave k w) k r [(va, 64)]) (y % 256) (some (keyAt s.mem va, keyAt s.mem (va + 32))))))) ∧
  (∀ (d a b : SReg) (v : VReg) (i : BitVec 8) (s : State) (k : Nat) (r w : Wave), Issues s k r w →
    (r.level = .user → Raises (.tlbinv a b) s k r (batchTrap r 0x07 0)) ∧
    (r.level ≠ .machine → Raises (.keyld a b) s k r (batchTrap r 0x07 0)) ∧
    (r.level = .user → Raises (.fibwr v i) s k r (batchTrap r 0x07 0)) ∧
    (r.level = .user → 0x80 ≤ i.toNat → Raises (.csrr d i) s k r (batchTrap r 0x07 0) ∧ Raises (.csrw a i) s k r (batchTrap r 0x07 0)))

/-! ## Steps of the device -/

/-- Each mailbox command that is due is done with its effect and status 1; one that breaks a rule has status 2 and no effect, an unknown
opcode status 3; KILL first stops its context. That an UPDATE to another surface table frame takes the entries that stand there, and that the
supervisor bits of the queues are taken with the record, are the model's choices (log 81, log 74); so is that a doorbell of the index last
taken, with slots left, asks for all 64 (log 46). A table frame that holds a poisoned line stops the context, an answer to a poisoned record
(20_errors R438; 17_translation R387, R389, 18_host_peers R409, R410, R412, R420, 20_errors R444). -/
def Obligations.MailboxCommands : Prop :=
  ∀ (slot index : Nat) (s : State),
    let a := slotVa s slot
    let n := slotCtx s slot
    let x := slotRead s slot 16 1
    let done (i : Instr) (e : Ev) (f : State → State) : Prop := commandDue s slot e = true → Acts i e s fun s => closeSlot (f s) slot 1
    let refused (i : Instr) (e : Ev) : Prop := commandDue s slot e = true → Acts i e s fun s => closeSlot s slot 2
    (∀ r, n < 64 → s.ctxs.look n = none → goodCtx s slot = some r →
      done (.create slot) (.create slot) fun s =>
        installCtx { s with mem := devWrite s.mem none r.steFrame (List.replicate (2 ^ 18) 0) } n
          { cfg := r, stopped := false, shbase := 0, shpacket := BitVec.allOnes 32, stes := [], devQueue := [], producers := [], superQs := [], poolUsed := 0 }) ∧
    (∀ m c, (installCtx s m c).ctxs.look m = some { c with superQs := superQueues (s.setCtx m c) m } ∧
      (∀ j, j ≠ m → (installCtx s m c).ctxs.look j = s.ctxs.look j) ∧ { installCtx s m c with ctxs := s.ctxs } = s) ∧
    (64 ≤ n ∨ (s.ctxs.look n).isSome = true ∨ goodCtx s slot = none → refused (.create slot) (.create slot)) ∧
    (∀ c r, s.ctxs.look n = some c → goodCtx s slot = some r → c.stopped = false →
      (residentCtx s n = true → r.root = c.cfg.root ∧ r.steFrame = c.cfg.steFrame) →
      let moved (s : State) : State :=
        let q := moveTable s n c r.steFrame
        installCtx q.1 n { c with cfg := r, stes := q.2, poolUsed := if r.poolBase = c.cfg.poolBase then c.poolUsed else 0 }
      (tablePoison s c r.steFrame = none → done (.update slot) (.update slot) moved) ∧
      ∀ line, tablePoison s c r.steFrame = some line →
        done (.update slot) (.update slot) fun s => stopForPoison (moved s) n (homeStack r.steFrame) line) ∧
    (∀ c f, (∀ line, tablePoison s c f = some line → c.cfg.steFrame ≠ f ∧ line ∈ s.mem.poison ∧ line ∈ linesOf f (2 ^ 18)) ∧
      (tablePoison s c f = none → c.cfg.steFrame = f ∨ ∀ line ∈ linesOf f (2 ^ 18), line ∉ s.mem.poison)) ∧
    (∀ c f, (c.cfg.steFrame = f → moveTable s n c f = (s, c.stes)) ∧ (c.cfg.steFrame ≠ f → (moveTable s n c f).2 = tableEntries s.mem f)) ∧
    (∀ c r, s.ctxs.look n = some c → goodCtx s slot = some r → residentCtx s n = true → r.root ≠ c.cfg.root →
      refused (.update slot) (.update slot)) ∧
    (∀ c, s.ctxs.look n = some c → c.stopped = true → ctxAtRest { s with pending := s.pending.erase (.kill slot) } n = true → (∀ i < 4, slotFree s (4 * n + i) = true) →
      done (.kill slot) (.kill slot) fun s => killCtx s n) ∧
    (∀ c, s.ctxs.look n = some c → c.stopped = false → commandDue s slot (.kill slot) = true →
      Acts (.kill slot) (.kill slot) s fun s => (s.setCtx n { c with stopped := true }).post (.kill slot)) ∧
    (∀ body, body = reportBody s (seenBytes s.mem none a 32) → a % 64 = 0 → a + 64 + 17168 ≤ 2 ^ 38 → devRead s.mem (a + 32) 32 = 0 →
      done (.attest slot) (.attest slot) fun s => { s with mem := devWrite s.mem none (a + 64) (body ++ reportSig body) }) ∧
    (a % 64 = 0 → a + 272 ≤ 2 ^ 38 → badRoutes s a = false →
      done (.route slot) (.route slot) fun s =>
        { s with dev := { s.dev with routes := routesOf s a, deviceId := devRead s.mem (a + 256) 1 } }) ∧
    (∀ rs, rs = s.dev.log.take (slotRead s slot 16 8) → a + 32 * rs.length ≤ 2 ^ 38 →
      done (.log slot) (.log slot) fun s =>
        { s with
          mem := devWrite s.mem none a (rs.flatMap logBytes)
          dev := { s.dev with log := s.dev.log.drop rs.length } }) ∧
    (∀ m, x ∈ s.dev.contained → majority (remapOf s x) = some m →
      done (.stackreset slot) (.stackreset slot) fun s =>
        { s with dev := { s.dev with
            contained := s.dev.contained.erase x, throttling := s.dev.throttling.del x, remap := s.dev.remap.put x (m, m, m) } }) ∧
    (majority (remapOf s x) = none → refused (.stackreset slot) (.stackreset slot)) ∧
    (60 ≤ x → x ≤ 100 → done (.thermal slot) (.thermal slot) fun s => { s with dev := { s.dev with tempLimit := x } }) ∧
    (x < 60 ∨ 100 < x → refused (.thermal slot) (.thermal slot)) ∧
    (commandDue s slot (.unknownOpcode slot) = true → Acts (.unknownOpcode slot) (.unknownOpcode slot) s fun s => closeSlot s slot 3) ∧
    (serving s = true → s.dev.mboxLeft = 0 → (index + 1 + 64 - s.dev.mboxNext) % 64 ≠ 0 →
      Acts (.mailboxDoorbell index) (.mailboxDoorbell index) s fun s =>
        postCommand { s with dev := { s.dev with mboxLeft := (index + 1 + 64 - s.dev.mboxNext) % 64 } }) ∧
    (serving s = true → s.dev.mboxLeft ≠ 0 →
      Acts (.mailboxDoorbell index) (.mailboxDoorbell index) s fun s => { s with dev := { s.dev with
        mboxLeft := if (index + 1 + 64 - s.dev.mboxNext) % 64 = 0 then 64 else (index + 1 + 64 - s.dev.mboxNext) % 64 } })

/-- The host's writes of BAR 0, its CXL.mem accesses, the IDE keys, the stages of the boot path and the frame strobe; peer commands in the order of
their source, flits, and the links (18_host_peers R407 to R409, R412 to R416, R418, R421, 16_scheduling R381, R382). That event 14 goes to every
context, once for each device behind the port, is the model's reading (log 45, DEDUCED), and so is that a reset keeps the flash image (log 49,
DEDUCED). -/
def Obligations.HostSteps : Prop :=
  (∀ (s : State) (off n v part pa proto : Nat) (x : DWord) (key : BitVec 256) (y : Word),
    (serving s = true → 0x040 ≤ off → off + n ≤ 0x048 →
      Acts (.registerWrite off n x) (.registerWrite off n x) s fun s => { s with dev := { s.dev with
        mboxBase := BitVec.ofNat 64 (patchBytes s.dev.mboxBase.toNat (off - 0x040) n x.toNat) } }) ∧
    ((serving s = false ∨ off + n ≤ 0x040 ∧ 0 < n ∨ 0x048 ≤ off ∧ 0 < n) → Idles (.registerWrite off n x) s) ∧
    (serving s = true → v < 64 → part < 3 →
      Acts (.msiXTableEntry v part y) (.msiXTableEntry v part y) s fun s =>
        { s with dev := { s.dev with msix := s.dev.msix.put (4 * v + part) y } }) ∧
    (serving s = true → v < 64 → y.getLsbD 0 = false → s.dev.msixPending.getLsbD v = true →
      Acts (.msiXTableEntry v 3 y) (.msiXTableEntry v 3 y) s fun s => { s with dev := { s.dev with
        msix := s.dev.msix.put (4 * v + 3) y
        msixMasked := s.dev.msixMasked &&& ~~~((1 : BitVec 64) <<< v)
        msixPending := s.dev.msixPending &&& ~~~((1 : BitVec 64) <<< v)
        msixSent := s.dev.msixSent ++ [msixMsg s v] } }) ∧
    (serving s = true → pa + n ≤ 2 ^ 38 → hostFree s pa n = true →
      (Acts (.cxlMemAccess true pa n x) (.cxlMemAccess true pa n x) s fun s => agentWrite s none pa (leBytes x.toNat n)) ∧
      Acts (.cxlMemAccess false pa n x) (.cxlMemAccess false pa n x) s fun s =>
        let r := agentRead s none pa n
        { r.1 with dev := { s.dev with cxlReads := s.dev.cxlReads ++ [some (BitVec.ofNat 64 r.2)] } }) ∧
    (∀ bs, (∀ p ∈ s.work.blocks, p.2.tiles = []) →
      agentWrite s none pa bs = { s with mem := devWrite s.mem none pa bs } ∧
      ∃ m, agentRead s none pa n = ({ s with mem := m }, leNat (seenBytes m none pa n)) ∧ m = (linesOf pa n).foldl recallLine s.mem) ∧
    (serving s = false →
      Acts (.cxlMemAccess false pa n x) (.cxlMemAccess false pa n x) s fun s => { s with dev := { s.dev with cxlReads := s.dev.cxlReads ++ [none] } }) ∧
    (proto < 3 → serving s = true → Acts (.ideKeyManagement proto key) (.ideKeyManagement proto key) s fun s =>
      { s with dev := { s.dev with ide := s.dev.ide.put proto key } }) ∧
    (proto < 3 → serving s = false → Acts (.ideKeyManagement proto key) (.ideKeyManagement proto key) s fun s => s) ∧
    (s.dev.bootStage = 0 → Acts .reset .reset s fun s => { s with dev := { s.dev with bootStage := 1 } }) ∧
    (s.dev.bootStage = 1 → Acts .reset .reset s fun s => { s with dev := { s.dev with bootStage := if imageGood s then 2 else 15 } }) ∧
    (s.dev.bootStage = 2 → s.dev.remap = [] → Acts .reset .reset s fun s =>
      let part (off len : Nat) : List Byte := (List.range (flashWord s len)).map fun i => Memory.read s.dev.flash (0x40 + flashWord s off + i)
      { s with dev := { s.dev with bootStage := 3, firmware := [(0, part 0x10 0x14), (1, part 0x18 0x1C)] } }) ∧
    (3 ≤ s.dev.bootStage → ∃ t, exec .reset s = .next t ∧ t.dev.bootStage = State.reset.dev.bootStage ∧ t.ctxs = [] ∧ t.work = State.reset.work ∧
      t.base = State.reset.base ∧ t.pending = [] ∧ t.dev.flash = s.dev.flash) ∧
    ((∀ t, s.dev.edgeAge = some t → strobeGap ≤ t) →
      Acts .frstrbEdge .frstrbEdge s fun s => { s with dev := { s.dev with frame0 := 0, frame1 := 0, edgeAge := some 0 } }) ∧
    (∀ t, s.dev.edgeAge = some t → t < strobeGap → Acts .frstrbEdge .frstrbEdge s fun s => s) ∧
    (∀ k, 1 ≤ k → k ≤ 32 → s.dev.clockK.get 0 32 = k → 6250 * k * cycleTime s = strobeGap)) ∧
  (∀ (src origin id ctx pa port : Nat) (op : PeerOp) (f : Flit) (s : State),
    let e : Ev := .peerCommand src origin id ctx pa op
    let up (s : State) : State := setLink s port { linkOf s port with st := .up }
    let fresh (s : State) : State := setLink s port { linkOf s port with st := .up, replays := [] }
    (∀ v refused, serving s = true → executedAt s src id = some (id, v, refused) →
      Acts (.peerCommand src origin id ctx pa op) e s fun s =>
        { s with dev := { s.dev with peerAnswers := s.dev.peerAnswers ++ [(src, id, v, refused)] } }) ∧
    (serving s = true → executedAt s src id = none → s.dev.nextCmd.look src = some id → (∀ l ∈ linesOf pa (peerBytes op), lineFree s.mem l = true) →
      (inboundOk s src origin ctx = true → pa + peerBytes op ≤ 2 ^ 38 →
        ∃ t, exec (.peerCommand src origin id ctx pa op) s = .next t ∧ t.mem = (performPeer s pa op).1.mem ∧
          t.dev.peerAnswers = s.dev.peerAnswers ++ [(src, id, BitVec.ofNat 64 (performPeer s pa op).2, false)] ∧
          t.dev.nextCmd.look src = some ((id + 1) % 2 ^ 32) ∧ t.work = (performPeer s pa op).1.work ∧ t.ctxs = s.ctxs ∧ t.base = s.base) ∧
      (inboundOk s src origin ctx = false →
        ∃ t, exec (.peerCommand src origin id ctx pa op) s = .next t ∧ t.mem = s.mem ∧
          t.dev.peerAnswers = s.dev.peerAnswers ++ [(src, id, BitVec.allOnes 64, true)] ∧
          t.dev.nextCmd.look src = some ((id + 1) % 2 ^ 32) ∧ t.work = s.work ∧ t.ctxs = s.ctxs ∧ t.base = s.base)) ∧
    (serving s = true → f.dst.toNat ≠ s.dev.deviceId → s.dev.routes.look f.dst.toNat = some port → (linkOf s port).st = .up →
      (∀ a b c, Ev.flitForward a b c ∈ s.pending.takeWhile (fun e => e != .flitForward f.src f.dst f.body) → s.dev.routes.get b.toNat 32 ≠ port) →
      Acts (.flitForward f.src f.dst f.body) (.flitForward f.src f.dst f.body) s fun s => setLink s port { linkOf s port with out := (linkOf s port).out ++ [f] }) ∧
    ((flitBytes f).length = 256 ∧ ((flitBytes f).drop 16).take 224 = leBytes f.body.payload.toNat 224) ∧
    (∀ recent, recent = (linkOf s port).replays.filter (fun c => decide (s.dev.cycles < c + 2 ^ 16)) → serving s = true →
      (linkOf s port).st = .up →
      (recent.length < 3 → Acts (.replay port) (.replay port) s fun s => setLink s port { linkOf s port with replays := recent ++ [s.dev.cycles] }) ∧
      (3 ≤ recent.length → Acts (.replay port) (.replay port) s fun s =>
        setLink s port { linkOf s port with st := .retraining, replays := recent, since := s.dev.cycles })) ∧
    (serving s = true → port < 16 → (linkOf s port).st = .retraining → retrainLate s port = false →
      Acts (.linkRetrainComplete port) (.linkRetrainComplete port) s up) ∧
    (retrainLate s port = true → s.work.copies = [] →
      Acts (.linkDown port) (.linkDown port) s fun s => (portDevices s port).foldl (fun s d => postAll s (port / 8) 14 [(8, port), (12, d)])
        (setLink s port { linkOf s port with st := .down })) ∧
    (serving s = true → (linkOf s port).st = .down →
      Acts (.linkRecovery port) (.linkRecovery port) s fun s =>
        let t := ((fresh s).dev.unresolved.filter fun u => u.port == port).foldl resolveCopy (fresh s)
        { t with dev := { t.dev with unresolved := t.dev.unresolved.filter fun u => u.port != port } }))

/-- Clocks, temperature and power, and faults and their repair (16_scheduling R380, 20_errors R437 to R446). The arbiter sets a step freely where
no clock returns from an emergency; a clock that does goes up by one step at a time, its next step in flight, until it is where it was. That
events 9, 11, 12 and 13 go to every context (postAll) is the model's reading: R445 and R446 name no receiver (log 45, DEDUCED). What the log
holds where the table gives no code is free (log 51). -/
def Obligations.ClockSteps : Prop :=
  (∀ (stack k : Nat) (s : State), serving s = true → stack ∉ s.dev.contained →
    let lower (s : State) : State := nextStep { s with dev := { s.dev with
      clockK := s.dev.clockK.put stack (max 1 (clockOf s stack - 1)), throttling := s.dev.throttling.put stack (s.dev.cycles + 2000) } } stack
    (1 ≤ k → k ≤ 32 → s.dev.throttling.look stack = none → s.dev.emergency = false → s.dev.targetK.look stack = none →
      Acts (.powerArbiterStep stack k) (.powerArbiterStep stack k) s fun s => { s with dev := { s.dev with clockK := s.dev.clockK.put stack k } }) ∧
    (∀ t, 1 ≤ k → k ≤ 32 → k ≤ clockOf s stack + 1 → s.dev.throttling.look stack = none → s.dev.emergency = false → s.dev.targetK.look stack = some t →
      (k < t → Acts (.powerArbiterStep stack k) (.powerArbiterStep stack k) s fun s =>
        nextStep { s with dev := { s.dev with clockK := s.dev.clockK.put stack k } } stack) ∧
      (t ≤ k → Acts (.powerArbiterStep stack k) (.powerArbiterStep stack k) s fun s =>
        nextStep { s with dev := { s.dev with clockK := s.dev.clockK.put stack k, targetK := s.dev.targetK.del stack } } stack)) ∧
    ((∃ rest, nextStep s stack = { s with pending := s.pending.filter (fun e => !stepsOf stack e) ++ rest } ∧
      (∀ t, s.dev.emergency = false → s.dev.targetK.look stack = some t → rest = [.powerArbiterStep stack (min t (clockOf s stack + 1))]) ∧
      (s.dev.emergency = true ∨ s.dev.targetK.look stack = none → rest = [])) ∧
      ∀ e, stepsOf stack e = true ↔ ∃ j, e = .powerArbiterStep stack j) ∧
    ((k < 1 ∨ 32 < k ∨ (s.dev.emergency = true ∧ k ≠ 1) ∨ (s.dev.throttling.look stack ≠ none ∧ clockOf s stack < k) ∨
      (s.dev.targetK.look stack ≠ none ∧ clockOf s stack + 1 < k)) → Idles (.powerArbiterStep stack k) s) ∧
    (s.dev.throttling.look stack = none → Acts (.temperatureAboveLimit stack) (.temperatureAboveLimit stack) s fun s =>
      postAll (lower s) stack 11 [(8, stack), (12, clockOf (lower s) stack)]) ∧
    (∀ c, s.dev.throttling.look stack = some c → c ≤ s.dev.cycles →
      ∃ t, exec (.throttleStep stack) s = .next t ∧ (t = lower { s with pending := s.pending.erase (.throttleStep stack) } ∨
        t = { s with pending := s.pending.erase (.throttleStep stack), dev := { s.dev with throttling := s.dev.throttling.del stack } })) ∧
    Acts (.thermalTrip stack) (.thermalTrip stack) s (fun s => containStack s stack) ∧
    (s.dev.emergency = false → Acts .regulatorFault .regulatorFault s fun s =>
      postAll (nextStep (nextStep { s with dev := { s.dev with
        clockK := (s.dev.clockK.put 0 1).put 1 1, emergency := true
        targetK := (Map.put [] 0 (s.dev.targetK.get 0 (clockOf s 0))).put 1 (s.dev.targetK.get 1 (clockOf s 1)) } } 0) 1) 0 12 [(8, 1)]) ∧
    (s.dev.emergency = true → Acts .regulatorFaultCleared .regulatorFaultCleared s fun s =>
      nextStep (nextStep { s with dev := { s.dev with emergency := false } } 0) 1)) ∧
  (∀ (f : FaultReport) (stack bundle lane : Nat) (corrected : List (Nat × Nat × Bool)) (bad : List (Nat × Nat)) (s : State), serving s = true →
    (f.ok = true → Acts (.faultRetry f) (.faultRetry f) s fun s => appendLog s (faultRecord s false f)) ∧
    (f.ok = false → Acts (.faultRetry f) (.faultRetry f) s fun s =>
      let s1 := if f.bad then uncorrectable s f.stack f.place else s
      let s2 := if f.stack ∈ s1.dev.contained then s1 else lastingAction s1 f.stack f.place
      appendLog s2 (faultRecord s (s2.dev.contained.contains f.stack) f)) ∧
    (∀ m, stack ∉ s.dev.contained → majority (remapOf s stack) = some m →
      ∃ t, exec (.surveyorPass stack corrected []) s = .next t ∧ t.mem = s.mem ∧ t.work = s.work ∧ t.dev.contained = s.dev.contained ∧
        (let v := s.dev.surveys.get stack Survey.reset
         let n := corrected.length
         t.dev.surveys.look stack =
          some { v with i := if v.hi < n then max (v.i / 2) v.imin else if n < v.lo then min (2 * v.i) v.imax else v.i }) ∧
        (s.dev.remap.look stack ≠ none → t.dev.remap.look stack = some (m, m, m)) ∧
        ∀ q ∈ corrected, Ev.faultRetry { stack := stack, place := .surface q.1 q.2.1 0, ok := q.2.2, bad := false } ∈ t.pending) ∧
    (Survey.reset.i = 2 ^ 30 ∧ Survey.reset.imin = 2 ^ 24 ∧ Survey.reset.imax = 2 ^ 34 ∧ Survey.reset.hi = 64 ∧ Survey.reset.lo = 4) ∧
    (stack ∉ s.dev.contained → Acts (.surveyorPass stack corrected bad) (.surveyorPass stack corrected bad) s fun s =>
      let s1 := (bad.foldl (fun s p => poisonSurface s stack p.1 p.2) s).posts (corrected.map (retryWord stack))
      let v := surveyOf s stack
      voteRemap { s1 with dev := { s1.dev with surveys := s1.dev.surveys.put stack { v with i := nextInterval v corrected.length } } } stack) ∧
    (majority (remapOf s stack) = none → voteRemap s stack = containStack s stack) ∧
    (stack ∉ s.dev.contained → (∀ r ∈ s.dev.repairing, ¬ (r.1 = stack ∧ r.2.1 = bundle)) → sparesUsed s stack bundle < 4 →
      Acts (.verticalBusRepair stack bundle lane) (.verticalBusRepair stack bundle lane) s fun s =>
        { s with dev := { s.dev with repairing := s.dev.repairing ++ [(stack, bundle, lane)] } }.post (.repairRemap stack bundle lane)) ∧
    (stack ∉ s.dev.contained → 4 ≤ sparesUsed s stack bundle →
      Acts (.verticalBusRepair stack bundle lane) (.verticalBusRepair stack bundle lane) s fun s => containStack s stack) ∧
    (∀ m, (stack, bundle, lane) ∈ s.dev.repairing → stack ∉ s.dev.contained → majority (remapOf s stack) = some m →
      Acts (.repairRemap stack bundle lane) (.repairRemap stack bundle lane) s fun s =>
        setRemap { s with dev := { s.dev with repairing := s.dev.repairing.erase (stack, bundle, lane) } } stack
          (m.put (laneKey bundle lane) (sparesUsed s stack bundle))))

/-- Host queues, admission, retirement and completion arrivals (16_scheduling R361, R364 to R368, 13_raster R291, 17_translation R388). An
admitted candidate is one of those that wait, and a dispatched block stands on a core of the chosen stack with all its waves fresh at the entry
packet of the level; a queue entry whose record is valid becomes a launch, and another posts event 1; a retired block counts for its launch,
and the last one posts the completion arrival. -/
def Obligations.LaunchSteps : Prop :=
  ∀ (ctx q stack id blk va record source : Nat) (s : State),
    let left (e : Ev) : State := { s with pending := s.pending.erase e }
    (∀ c p, s.ctxs.look ctx = some c → q < 8 → queueField s ctx q 12 4 = some p →
      Acts (.launchDoorbell ctx q) (.launchDoorbell ctx q) s fun s =>
        let s1 := s.setCtx ctx { c with producers := c.producers.put q p }
        if queueDue s1 ctx q = true ∧ Ev.launchQueueEntry ctx q ∉ s1.pending then s1.post (.launchQueueEntry ctx q) else s1) ∧
    (∀ base w cons c rec tag, queueDue s ctx q = true → descFree s ctx q = true → entryOpen s ctx q = true → queueField s ctx q 0 8 = some base → queueField s ctx q 8 4 = some w →
      queueField s ctx q 16 4 = some cons → s.ctxs.look ctx = some c → hwRead s ctx (base + 16 * (cons % 2 ^ (w % 16))) 8 = some rec →
      hwRead s ctx (base + 16 * (cons % 2 ^ (w % 16)) + 8) 4 = some tag →
      Acts (.launchQueueEntry ctx q) (.launchQueueEntry ctx q) s fun s =>
        let s1 := takeEntry s ctx q rec tag
        let s2 := (hwWrite s1 ctx (c.cfg.lqTable + 32 * q + 16) 4 ((cons + 1) % 2 ^ 32)).getD s1
        if queueDue s2 ctx q then s2.post (.launchQueueEntry ctx q) else s2) ∧
    (∀ j k s0 s1, admission s stack = some (.la j, s0) → admission (left (.blockAdmit stack)) stack = some (k, s1) →
      exec (.blockAdmit stack) s = .next s1) ∧
    (∀ b s0 s1, s.block blk = some b → admission s b.stack = some (.re blk, s0) →
      admission (left (.relaunch blk)) b.stack = some (.re blk, s1) → exec (.relaunch blk) s = .next s1) ∧
    (∀ l, s.work.launches.look id = some l → expired s stack id = [.la id] →
      Acts (.admissionWaitExpiry stack id) (.admissionWaitExpiry stack id) s fun s =>
        { s with work := { s.work with launches := s.work.launches.modify id fun l => { l with stopper := true } } }) ∧
    (∀ d, va % 256 = 0 → readLaunch s noCore ctx (queueLevel s ctx q) va = .ok d →
      takeEntry s ctx q va record = acceptLaunch s ctx (queueLevel s ctx q) (some q) (BitVec.ofNat 32 record) va d) ∧
    (∀ fs, va % 256 = 0 → readLaunch s noCore ctx (queueLevel s ctx q) va = .error fs →
      takeEntry s ctx q va record = postEvent s ctx 0 1 [(8, record), (12, firstFailing fs)]) ∧
    (va % 256 ≠ 0 → takeEntry s ctx q va record = postEvent s ctx 0 1 [(8, record), (12, 0)]) ∧
    (∀ c t, admission s stack = some (c, t) → c ∈ candsOf s stack ∧ tryCand s stack c = some t) ∧
    (∀ l idx among t, s.work.launches.look id = some l → dispatchOne s id idx among = some t →
      let new := s.work.nextBlock
      let x := l.record
      let q := levelNow s l
      ∃ core p b, (core, p) ∈ (among.filter (recMask x)).flatMap (fitCores s l.ctx x) ∧
        t.block new = some b ∧ b.launch = id ∧ b.idx = idx ∧ b.ctx = l.ctx ∧ b.core = core ∧ b.status = .running ∧ b.place = p ∧
        t.work.nextBlock = new + 1 ∧ (∀ j, j ≠ new → t.block j = s.block j) ∧
        (∀ n < recWaves x, ∃ w, t.wave (16 * new + n) = some w ∧ w.blk = new ∧ w.num = n ∧ w.level = l.level ∧ w.vregs = [] ∧ w.ops = [] ∧
          w.fibres.length = recWidth x ∧
          ∀ f ∈ w.fibres, f.2.pc = { packet := entryOf x q, slot := 0 } ∧ f.2.base = 0 ∧ f.2.preds = 0 ∧ f.2.park = none) ∧
        (∀ j, j / 16 ≠ new → t.wave j = s.wave j) ∧ t.mem.mem = s.mem.mem ∧ t.base = s.base ∧ t.pending = s.pending) ∧
    (∀ l, s.work.launches.look id = some l → l.batch = none →
      (l.done + 1 < recBlocks l.record →
        countRetired s id stack = { s with work := { s.work with launches := s.work.launches.put id { l with done := l.done + 1 } } }) ∧
      (recBlocks l.record ≤ l.done + 1 →
        let ended : State := { s with work := { s.work with launches := s.work.launches.del id } }
        (rd l.record 16 = 0 → countRetired s id stack = ended) ∧
        (rd l.record 16 ≠ 0 → countRetired s id stack =
          ended.post (.completionArrival l.ctx (rd l.record 16) l.recVa (4 * stack + if l.level = .user then 8 else 0))))) ∧
    (∀ b, retireDue s blk = true → blkEnding s blk = false → s.block blk = some b →
      Acts (.blockRetire blk) (.blockRetire blk) s fun s =>
        let s1 := leaveArrays { s with mem := releaseBytes s.mem b.core } b
        (countRetired (bumpGen { s1 with work := { s1.work with blocks := s1.work.blocks.del blk } } b.core) b.launch b.stack).posts
          (b.heldMsgs.map Ev.remoteMessage)) ∧
    (∀ b, s.block blk = some b → stopDue s blk = true → Acts (.blockRetire blk) (.blockRetire blk) s fun s => finishStop s b.ctx) ∧
    (Ev.completionArrival ctx va record source ∈ s.pending →
      let level : Level := if source / 8 % 2 = 1 then .user else .supervisor
      let told (s : State) (reason : Nat) : State := postEvent s ctx (source / 4 % 2) 16
        [(8, va % 2 ^ 32), (12, va / 2 ^ 32), (0x10, record % 2 ^ 32), (0x14, record / 2 ^ 32), (0x18, reason + 256 * (source % 4))]
      (arrivalFree s ctx va = true → arrivalFault s ctx level va = none → (updateObj s (.dev ctx va) .arrive).2 = false →
        Acts (.completionArrival ctx va record source) (.completionArrival ctx va record source) s fun s => (updateObj s (.dev ctx va) .arrive).1) ∧
      (arrivalFree s ctx va = true → arrivalFault s ctx level va = none → (updateObj s (.dev ctx va) .arrive).2 = true →
        Acts (.completionArrival ctx va record source) (.completionArrival ctx va record source) s fun s =>
          told (updateObj s (.dev ctx va) .arrive).1 0x20) ∧
      ∀ reason, arrivalFault s ctx level va = some reason →
        Acts (.completionArrival ctx va record source) (.completionArrival ctx va record source) s fun s => told s reason)

/-- The active and pending sets, save-on-wait, migration, forwarding entries, pre-emption requests and the waves of regroup pools
(16_scheduling R370 to R378, 15_execution_model R348, 19_traps R432 to R434). A saved block has no waves and no arrays on its core, and no wait
for a section stands for its fibres; a moved one stands on its new core with its arrays, its finished operations and its waits; a pool starts a
wave whose lanes hold its members in their order, with their registers and no state of loops or handlers. -/
def Obligations.PlacementSteps : Prop :=
  ∀ (k core blk : Nat) (s : State),
    (∀ w, s.wave k = some w → toPendingDue s k = true →
      Acts (.waveToPending k) (.waveToPending k) s fun s =>
        let c := schedOf s (coreOf s w)
        setSched (s.setWave k { w with moved := if allParked w then [.parked] else w.holds }) (coreOf s w) (fillPlaces s.dev.cycles 8
          { c with active := c.active.filter (fun a => a.1 != k), pending := c.pending ++ [(k, none)] })) ∧
    (∀ w, s.wave k = some w → (∀ d ∈ w.moved, d.over w = true) → (k, none) ∈ (schedOf s (coreOf s w)).pending →
      Acts (.pendingWaveReady k) (.pendingWaveReady k) s fun s =>
        let c := schedOf s (coreOf s w)
        setSched s (coreOf s w) (fillPlaces s.dev.cycles 8
          { c with pending := c.pending.map fun p => if p.1 = k then (p.1, some (p.2.getD s.dev.cycles)) else p })) ∧
    (∀ p a, forcedDue s core = some (p, a) →
      Acts (.forcedExchange core) (.forcedExchange core) s fun s => setSched (s.mapWave a.1 fun w => { w with moved := [] }) core
        { active := (schedOf s core).active.filter (fun x => x.1 != a.1) ++ [(p.1, s.dev.cycles, s.dev.cycles)]
          pending := ((schedOf s core).pending.filter fun x => x.1 != p.1) ++ [(a.1, none)]
          lastForced := s.dev.cycles }) ∧
    (saveDue s blk = true → coMembers s blk = [blk] →
      Acts (.saveOnWait blk) (.saveOnWait blk) s fun s => (s.mapBlock blk fun b => { b with status := .saving }).post (.saveComplete blk)) ∧
    (∀ b, s.block blk = some b → completeDue s blk = true →
      (handlerSaved s blk b = true → Acts (.saveComplete blk) (.saveComplete blk) s fun s =>
        leaveSaved { s with mem := releaseBytes s.mem b.core } blk [.now] b.savedUids b.holdsSections) ∧
      (handlerSaved s blk b = false → (∀ m ∈ savedWith s blk, blockWaits s m = true) →
        Acts (.saveComplete blk) (.saveComplete blk) s fun s => (savedWith s blk).foldl saveBlock s) ∧
      (handlerSaved s blk b = false → (∃ m ∈ savedWith s blk, blockWaits s m = false) →
        Acts (.saveComplete blk) (.saveComplete blk) s fun s =>
          (savedWith s blk).foldl (fun s m => s.mapBlock m fun b => { b with status := .running }) s)) ∧
    (∀ b, s.block blk = some b → moveDue s blk = true →
      ∃ c p, (c, p) ∈ moveCores { s with pending := s.pending.erase (.migration blk) } blk b ∧
        Acts (.migration blk) (.migration blk) s fun s => (s.setBlock blk { b with status := .migrating }).post (.migrationComplete blk c)) ∧
    (∀ b p, s.block blk = some b → movedDue s blk = true → stranded s blk = false → (moveCores s blk b).find? (fun p => p.1 == core) = some (core, p) →
      Acts (.migrationComplete blk core) (.migrationComplete blk core) s fun s => moveBlock s blk core b p) ∧
    (∀ f, f ∈ s.work.forwards → f.blk = blk → forwardIdle s f = true →
      ∃ t, exec (.forwardingEntryRelease blk) s = .next t ∧ f ∉ t.work.forwards ∧ t.work.forwards ⊆ s.work.forwards ∧ t.mem = s.mem ∧
        t.work.blocks = s.work.blocks ∧ t.work.waves = s.work.waves) ∧
    (∀ b, s.block blk = some b → coMembers s blk = [blk] → preemptable s blk = true → (wantedByHigher s b [blk] || overQuota s b.ctx) = true →
      (untouched s blk = true → Acts (.preemptionRequest blk) (.preemptionRequest blk) s fun s => unplace s blk) ∧
      (untouched s blk = false → Acts (.preemptionRequest blk) (.preemptionRequest blk) s fun s => requestPreempt s blk)) ∧
    (∀ b p n, poolReady s blk = true → s.block blk = some b → nextPool s blk b = some p → freeWave s blk = some n →
      Acts (.poolWaveStart blk) (.poolWaveStart blk) s fun s => startPool s blk n b p) ∧
    (∀ b wakes uids sections, s.block blk = some b → b.heldMsgs = [] →
      let t := leaveSaved s blk wakes uids sections
      (∃ c, t.block blk = some c ∧ c.status = .saved ∧ c.spm = [] ∧ c.slabs = [] ∧ c.tiles = [] ∧ c.wakes = wakes ∧ c.savedUids = uids ∧
        c.holdsSections = sections) ∧
      (∀ j w, t.wave j = some w → w.blk ≠ blk ∧ ∃ v, s.wave j = some v) ∧ (∀ j w, s.wave j = some w → w.blk ≠ blk → t.wave j = some w) ∧
      t.mem = s.mem ∧ t.base = s.base ∧ t.pending = s.pending) ∧
    (∀ b q, s.block blk = some b → b.heldMsgs = [] →
      let s0 := { s with mem := releaseBytes s.mem b.core }
      let s1 := (wavesOf s0 blk).foldl (fun s j => s.mapWave j (landAll s)) s0
      (s1.block blk).bind (fun b => writeImage s1 blk b) = some q → q.work = s1.work → q.base = s1.base →
      (∀ j w, (saveBlock s blk).wave j = some w → w.blk ≠ blk) ∧
      ∀ j w, s.wave j = some w → w.blk = blk → ∀ f ∈ w.fibres, ∀ x ∈ (saveBlock s blk).base.waits, x.req.uid ≠ f.2.uid) ∧
    (∀ b p, s.block blk = some b → (∀ q ∈ s.work.waves, q.2.blk = q.1 / 16) →
      let t := moveBlock s blk core b p
      (∃ c, t.block blk = some c ∧ c.core = core ∧ c.stack = stackOf core ∧ c.status = .running ∧ c.place = p ∧ c.spm = b.spm ∧ c.slabs = b.slabs) ∧
      (∀ j w, s.wave j = some w → w.blk = blk →
        (∃ v, t.wave j = some v ∧ v.ops = []) ∧ ∀ f ∈ w.fibres, ∀ x ∈ t.base.waits, x.req.uid = f.2.uid → x.core = core) ∧
      ∀ j w, s.wave j = some w → w.blk ≠ blk → t.wave j = some w) ∧
    (∀ b p n l, s.work.launches.look b.launch = some l →
      ∃ u, startPool s blk n b p = admitRegroup u blk p.members.length ∧ u.mem = s.mem ∧ u.base = s.base ∧
        (∀ j, j ≠ 16 * blk + n → u.wave j = s.wave j) ∧ u.block blk = some { b with pools := b.pools.erase p } ∧
        ∃ w, u.wave (16 * blk + n) = some w ∧ w.blk = blk ∧ w.num = n ∧ w.level = l.level ∧ w.loops = List.replicate 4 LoopEntry.none ∧
          w.fstat = 0 ∧ w.ops = [] ∧ w.rep.active = false ∧
          ∀ j m, p.members[j]? = some m → w.fibres.look j = some m.fibre ∧
            ((∀ y ∈ p.members, y.regs.length ≤ 4096) → ∀ i x, m.regs[i]? = some x → w.vregs.get (physKey j i) 0 = x))

/-- The traps that reach a wave from outside its chains: each is reported to it with its cause and taken at its entry (19_traps R424,
R425, 11_async_copies R247, 12_ordered_sections R274, 14_plot_units R321, 18_host_peers R414). -/
def Obligations.ReportedTraps : Prop :=
  ∀ (k lanes taddr packet slot reason va : Nat) (key : Word) (skip wr : Bool) (p : PReg) (s : State) (w : Wave), s.wave k = some w →
    (∀ t, (trapNow s w).isSome = true → trapNow { s with pending := s.pending.erase (.trapEntry k) } w = some t →
      (t.cause = 0x30 → Acts (.trapEntry k) (.trapEntry k) s fun s => enterPreempt s k) ∧
      (t.cause ≠ 0x30 → Acts (.trapEntry k) (.trapEntry k) s fun s => takeReported s k w t)) ∧
    (Ev.barrierOverrunReport k taddr ∈ s.pending →
      Acts (.barrierOverrunReport k taddr) (.barrierOverrunReport k taddr) s fun s =>
        report s k
          { cause := 0x20, tmask := 0, taddr := BitVec.ofNat 64 taddr, tinfo := 1, next := true,
            pops := [], addrTold := true, infoTold := 1 }) ∧
    (Ev.droppedBarrierRequest k lanes taddr packet slot none ∈ s.pending →
      Acts (.droppedBarrierRequest k lanes taddr packet slot none) (.droppedBarrierRequest k lanes taddr packet slot none) s fun s =>
        report s k (mkTrap 0x01 ((List.range 64).filter fun l => bitAt lanes l) taddr 2).told) ∧
    (Ev.droppedBarrierRequest k lanes taddr packet slot (some p) ∈ s.pending →
      Acts (.droppedBarrierRequest k lanes taddr packet slot (some p)) (.droppedBarrierRequest k lanes taddr packet slot (some p)) s fun s =>
        report (s.setWave k (((List.range 64).filter fun l => bitAt lanes l).foldl (fun w l => w.mapFibre l (Fibre.droppedPred p)) w)) k
          (mkTrap 0x01 ((List.range 64).filter fun l => bitAt lanes l) taddr 2).told) ∧
    (Ev.tableFullReport k lanes key skip ∈ s.pending →
      Acts (.tableFullReport k lanes key skip) (.tableFullReport k lanes key skip) s fun s =>
        let full : Trap := { cause := 0x22, tmask := BitVec.ofNat 64 lanes, taddr := 0, tinfo := key, next := skip, pops := [],
                             addrTold := false, infoTold := BitVec.allOnes 32 }
        (s.setWave k { w with due := mergeReport w full }).post (.trapEntry k)) ∧
    (Ev.blockStoreFailure k lanes reason ∈ s.pending →
      Acts (.blockStoreFailure k lanes reason) (.blockStoreFailure k lanes reason) s fun s =>
        report s k
          { cause := 0x1C, tmask := BitVec.ofNat 64 lanes, taddr := 0, tinfo := BitVec.ofNat 32 reason,
            next := true, pops := [], addrTold := false, infoTold := BitVec.allOnes 32 }) ∧
    (∀ op j x, peerAccess w va wr = some (op, j, x) →
      Acts (.peerRefusal k va wr) (.peerRefusal k va wr) s fun s => reapWave (refuseSub s k w op j x 13) k) ∧
    (peerAccess w va wr = none → ∀ id j c, peerSector s k va wr = some (id, j, c) →
      Acts (.peerRefusal k va wr) (.peerRefusal k va wr) s fun s => reapWave (refuseSector s id j c 13) k) ∧
    (∀ op j x, ∃ m,
      let t := sendSub s (ctxOf s w) x
      refuseSub s k w op j x 13 = report (doneSub t k op j (2 ^ (8 * x.n) - 1)) k
      { cause := 0x15, tmask := m, taddr := BitVec.ofNat 64 x.va
        tinfo := BitVec.ofNat 32 (xinfo 13 (leafLevel t (ctxOf t w) x.va) (if x.isWrite then Access.store else Access.load)), next := true
        pops := [], addrTold := true, infoTold := BitVec.allOnes 32 })

/-- The caches: an evicted D line sends a notice with its bytes if they are dirty, an S line writes its dirty bytes through; the notices and
probes clear the bits of filters and directory, and dirty bytes come to the home slice (08_memory_spaces R168 to R177). That a region whose
acknowledgement says it is empty stands among those leaving until that has landed is the model's reading (log 67, DEDUCED). -/
def Obligations.CacheSteps : Prop :=
  ∀ (core line cluster region : Nat) (inval : Bool) (data : Option (List Byte)) (l : L1Line) (s : State),
    (victim s.mem core line = some l → l.mode = .d → l.owned = true → l.dirty ≠ 0 →
      Acts (.l1Eviction core line) (.l1Eviction core line) s fun s =>
        { s with mem := putLine s.mem { l with valid := 0, leaving := true } }.post (.evictionNotice l.core l.line (some l.bytes))) ∧
    (victim s.mem core line = some l → l.mode = .d → (l.owned = false ∨ l.dirty = 0) →
      Acts (.l1Eviction core line) (.l1Eviction core line) s fun s => { s with mem := dropLine s.mem l }.post (.evictionNotice l.core l.line none)) ∧
    (victim s.mem core line = some l → l.mode = .s →
      Acts (.l1Eviction core line) (.l1Eviction core line) s fun s => { s with mem := dropLine (storeDirty s.mem l) l }) ∧
    (Ev.evictionNotice core line data ∈ s.pending → ∃ t, exec (.evictionNotice core line data) s = .next t ∧
      (filterOf t.mem (clusterOf core) line).getLsbD (core % 8) = false ∧ (data = none → t.mem.mem = s.mem.mem) ∧
      (∀ bs, data = some bs → (∃ x ∈ s.mem.l1, x.core = core ∧ x.line = line ∧ x.inFlight = true) → t.mem.mem = Memory.writes s.mem.mem (64 * line) bs) ∧
      t.work = s.work ∧ t.dev = s.dev) ∧
    (Ev.regionNotice cluster region ∈ s.pending → cluster < 64 → ∃ t, exec (.regionNotice cluster region) s = .next t ∧
      (dirOf t.mem region).getLsbD cluster = false ∧ (∀ c < 64, c ≠ cluster → (dirOf t.mem region).getLsbD c = (dirOf s.mem region).getLsbD c) ∧
      Ev.noticeAck cluster region ∈ t.pending ∧ t.mem.mem = s.mem.mem ∧ t.mem.l1 = s.mem.l1) ∧
    (Ev.noticeAck cluster region ∈ s.pending → Acts (.noticeAck cluster region) (.noticeAck cluster region) s fun s =>
      { s with mem := { s.mem with leaving := s.mem.leaving.erase (cluster, region) } }) ∧
    (Ev.probe cluster line inval ∈ s.pending → noticeUnderWay s cluster line = false →
      Acts (.probe cluster line inval) (.probe cluster line inval) s fun s =>
        let m := (probed s.mem cluster line).foldl (probeCore inval line) s.mem
        let gone := (probeData m cluster line).isNone && regionEmpty m cluster (regionOf line) && !requested s.mem cluster (regionOf line)
        { s with mem := if gone then { m with leaving := (cluster, regionOf line) :: m.leaving } else m }.post
          (.probeAck cluster line gone (probeData m cluster line))) ∧
    (∀ b, Ev.probeAck cluster line false none ∈ s.pending → busyOf s.mem line = some b → b.acks.erase cluster ≠ [] →
      Acts (.probeAck cluster line false none) (.probeAck cluster line false none) s fun s => settleRegion { s with mem := { s.mem with
        busy := s.mem.busy.map fun q => if q.line = line then { b with acks := b.acks.erase cluster } else q } } cluster (regionOf line)) ∧
    (let settles : Prop := (dirOf s.mem region).getLsbD cluster = true ∧ regionEmpty s.mem cluster region = true ∧
        requested s.mem cluster region = false ∧ (cluster, region) ∉ s.mem.leaving
     (settles → settleRegion s cluster region =
        { s with mem := { s.mem with leaving := (cluster, region) :: s.mem.leaving } }.post (.regionNotice cluster region)) ∧
      (¬ settles → settleRegion s cluster region = s)) ∧
    (∀ b, Ev.probeAck cluster line true data ∈ s.pending → busyOf s.mem line = some b → b.acks = [cluster] →
      Acts (.probeAck cluster line true data) (.probeAck cluster line true data) s fun s =>
        let n := landProbe s.mem cluster line (busyInval s b) data
        let m := { dirClear n cluster (regionOf line) with leaving := n.leaving.erase (cluster, regionOf line) }
        finishBusy (settleRegion { s with mem := { m with busy := m.busy.map fun q => if q.line = line then { b with acks := [] } else q } }
          cluster (regionOf line)) { b with acks := [] })

/-- An access at its place: a U store that no earlier operation, cached copy, filter or tile operation stands before writes its bytes at its
home slice, and a load takes the bytes there (08_memory_spaces R168, R171, 09_consistency R183 to R186). -/
def Obligations.HomeSliceAccess : Prop :=
  ∀ (s : State) (k : Nat) (w : Wave) (o : MemOp) (x : Sub), s.wave k = some w → w.ops = [o] → o.subs = [x] → o.acq = none → o.rel = none →
    x.done = false → x.busy = false → x.space = .dev .u → (∀ p ∈ s.work.blocks, p.2.tiles = []) →
    requestFree s (coreOf s w) (lineOf x.pa) = true →
    lineIn s.mem (coreOf s w) (lineOf x.pa) .s = none → holders s.mem (regionOf (lineOf x.pa)) = [] →
    let m := rekey s.mem (lineOf x.pa) x.key
    let old := lineValue (seenLine m (lineOf x.pa) x.key) x
    (∀ d, o.kind = .store → x.acc = .store d →
      Acts (.homeSliceRequest k o.id 0) (.homeSliceRequest k o.id 0) s fun s =>
        doneSub { s with mem := devWrite m x.key x.pa (dataBytes d x.n) } k o.id 0 old) ∧
    (∀ sx, o.kind = .load → x.acc = .load sx →
      Acts (.homeSliceRequest k o.id 0) (.homeSliceRequest k o.id 0) s fun s =>
        doneSub { s with mem := m } k o.id 0 old)

/-- Counted operations, queue streams, page walks, page moves, and the collapse of a read-duplicate group: request, rewrite, answers and grant
(02_encoding R34 to R36, 08_memory_spaces R178 to R182, 17_translation R398, R399, R402, R403). A collapse request goes out with the next command
id for its target: that the first id of a target is 0 (log 83, DESIGN CHOICE) and that the coordinator asks every device that its
route table leads to (log 48, DESIGN CHOICE) are the model's readings. -/
def Obligations.MemorySteps : Prop :=
  (∀ (k q op core ctx va frame : Nat) (cls : OpCls) (retire : Bool) (s : State),
    (∀ o, countable s k cls = some o → Acts (.countedOpComplete k cls) (.countedOpComplete k cls) s fun s => countOp s k o) ∧
    (∀ w, s.wave k = some w →
      (streamBusy s w q = true → Acts (.queueStreamFetch k q) (.queueStreamFetch k q) s fun s => fetchStep s k w q) ∧
      (landable s w q = none → fetchStep s k w q = s.setWave k (setStream w q (streamOf w q).start)) ∧
      (∀ i e, landable s w q = some (i, e) → fetchStarts w q = false →
        fetchStep s k w q = (noteElem s k w e (List.range w.width)).mapWave k fun v =>
          setStream v q { streamOf w q with held := (streamOf w q).held.modify i (landElem s w) })) ∧
    (∀ w, s.wave k = some w → drainable s k op = some q → Acts (.queueStreamDrain k op) (.queueStreamDrain k op) s fun s =>
      reapWave (s.setWave k (setStream (w.dropOp op) q { streamOf w q with pushes := (streamOf w q).pushes - 1 })) k) ∧
    (Ev.pageWalk core ctx va ∈ walking s (stackOf core) → walkFree s ctx va = true →
      (walkPoison s ctx va = none → Acts (.pageWalk core ctx va) (.pageWalk core ctx va) s fun s => tlbFill s core ctx va) ∧
      ∀ l, walkPoison s ctx va = some l →
        (ctxStopped s ctx = false → Acts (.pageWalk core ctx va) (.pageWalk core ctx va) s fun s =>
          (stopForPoison s ctx (stackOf core) l).post (.pageWalk core ctx va)) ∧
        (ctxStopped s ctx = true → Idles (.pageWalk core ctx va) s)) ∧
    (∀ p, serving s = true → moveLeaf s ctx va = some p →
      ∃ t, exec (.pageMigration ctx va retire) s = .next t ∧ t.ctxs = s.ctxs ∧ t.base = s.base ∧
        t.mem.migrating = s.mem.migrating ++ [{ ctx := ctx, va := p.va, entryPa := p.entryPa, entries := p.entries, oldPage := p.pa / 4096, pages := p.bytes / 4096, retire := retire }]) ∧
    (∀ g, endsAt s ctx va frame = some g →
      let e := devRead s.mem g.entryPa 8
      let key := if bitAt e 7 then some (4 * ctx + bits e 54 53) else none
      Acts (.pageMigrationComplete ctx va frame) (.pageMigrationComplete ctx va frame) s fun s =>
        let m := movePage { s.mem with migrating := s.mem.migrating.erase g } g frame key
        let t := writeEntries m g.entryPa g.entries fun i =>
          let x := devRead m (g.entryPa + 8 * i) 8
          x - 2 ^ 9 - 2 ^ 21 * bits x 52 21 + 2 ^ 21 * (frame / 4096 + i)
        tellMoved { s with
          mem := if g.retire = true then { t with retired := t.retired ++ (List.range g.pages).map (g.oldPage + ·) } else t
          work := Work.moved g frame s.work
          pending := s.pending.map (Ev.moved g frame) } g frame)) ∧
  (∀ (ctx va writer frame lead device : Nat) (s : State),
    let own := s.dev.deviceId
    (serving s = true → collapseOf s ctx va = none → writer ≠ own →
      (dupLeaf s ctx va = none → Acts (.collapseRequest ctx va writer frame) (.collapseRequest ctx va writer frame) s fun s =>
        sendPeer s writer (.grant ctx va)) ∧
      (∀ q, dupLeaf s ctx va = some q → Acts (.collapseRequest ctx va writer frame) (.collapseRequest ctx va writer frame) s fun s =>
        coordinate s ctx va writer frame)) ∧
    (∀ q s0, serving s = true → collapseOf s ctx va = none → dupLeaf s ctx va = some q → splitLeaf s ctx va 3 = some s0 → bits q.leaf 20 13 ≠ own →
      ∃ t, exec (.collapseRequest ctx va own frame) s = .next t ∧
        t.dev.peerSent = s.dev.peerSent ++ [{ target := bits q.leaf 20 13, source := own, id := s.dev.nextOut.get (bits q.leaf 20 13) 0,
                                              body := .page (.request ctx va own frame) }] ∧
        t.mem.collapses = s.mem.collapses ++ [{ ctx := ctx, va := va, writer := own, frame := frame, awaiting := [bits q.leaf 20 13] }]) ∧
    (∀ q s0 s1, serving s = true → dupLeaf s ctx va = some q → splitLeaf s ctx va 3 = some s0 →
      splitLeaf { s with pending := s.pending.erase (.groupRewrite ctx va writer frame lead) } ctx va 3 = some s1 →
      exec (.groupRewrite ctx va writer frame lead) s =
        .next ((dropGroup (rewriteGroup s1 ctx va writer frame) ctx va).post (.groupRewrite ctx va writer frame lead))) ∧
    (serving s = true → dupLeaf s ctx va = none → groupInUse s ctx va = false →
      Acts (.groupRewrite ctx va writer frame lead) (.groupRewrite ctx va writer frame lead) s fun s =>
        if lead = own then s.post (.collapseAnswer ctx va lead) else sendPeer s lead (.answer ctx va)) ∧
    (∀ c, collapseOf s ctx va = some c → device ∈ c.awaiting →
      (c.awaiting.erase device ≠ [] → Acts (.collapseAnswer ctx va device) (.collapseAnswer ctx va device) s fun s =>
        addCollapse (dropCollapse s ctx va) { c with awaiting := c.awaiting.erase device }) ∧
      (c.awaiting.erase device = [] → c.writer ≠ own → Acts (.collapseAnswer ctx va device) (.collapseAnswer ctx va device) s fun s =>
        sendPeer (dropCollapse s ctx va) c.writer (.grant ctx va)) ∧
      (c.awaiting.erase device = [] → c.writer = own → Acts (.collapseAnswer ctx va device) (.collapseAnswer ctx va device) s fun s =>
        (addCollapse (dropCollapse s ctx va) { c with awaiting := [] }).post (.collapseGrant ctx va))) ∧
    (∀ c r, collapseOf s ctx va = some c → c.writer = own → s.ctxs.look ctx = some r → r.cfg.notifyCollapse = false →
      Acts (.collapseGrant ctx va) (.collapseGrant ctx va) s fun s =>
        dropGroup (rewriteGroup (dropCollapse s ctx va) ctx va c.writer c.frame) ctx va))

/-- Copies start and land sector by sector, barrier objects take updates and release their waiters, remote messages arrive, and tile
operations run (11_async_copies R229 to R252, 10_memory_instructions R212 to R215, 06_matrix R132 to R142). A copy alone on its core is ready
once its wave's earlier operations are performed. A landed sector has put the bytes of its source at their places in the scratchpad and credits
its object by one; an update of an object leaves the fields of barStep in its bytes and no other byte changed; a remote store writes its four
bytes and a remote load takes four; a tile operation computes its slab words and bytes when it fires, and they stand in the slabs and the
scratchpad when it completes. -/
def Obligations.UnitSteps : Prop :=
  (∀ (id : Nat) (c : Copy) (s : State), s.work.copies.look id = some c →
    (s.work.copies = [(id, c)] → c.started = false → c.coll = none → c.cb = none → c.form ≠ 6 → c.spans.length ≤ 64 →
      (∀ w, s.wave c.wave = some w → ∀ e ∈ earlier w c.op, e.performed = true) → dirtyLines s.mem c.core = [] → copyReady s id = true) ∧
    (copyReady s id = true → c.coll = none →
      (c.form = 6 → ∀ b, s.base.blocks.look (handleKey (c.word 0)) = some b → b.spilled = true → b.poisoned = []) →
      ∃ t, exec (.copyStart id) s = .next t ∧ t.work.copies.look id = some { c with started := true } ∧
        (∀ n, n ≠ id → t.work.copies.look n = s.work.copies.look n) ∧ t.ctxs = s.ctxs ∧
        (dirtyLines s.mem c.core = [] → t.mem = s.mem) ∧
        (∀ i j b, c.cb = some (i, j) → s.block c.blk = some b → i < b.cbufs.length → j < (b.cbufs.getD i Cbuf.empty).slots.length →
          ((cbufOf t c.blk i).slot j).st = .claimed) ∧
        (c.form = 4 → ∀ n q, c.targets[n]? = some q → ∀ j < c.word 4 / 32, ∃ m, Ev.remoteMessage m ∈ t.pending ∧ m.wave = c.wave ∧
          m.blk = q.1 ∧ m.gen = q.2.1 ∧ m.core = q.2.2 ∧ m.off = c.word 2 + 32 * j ∧ m.op = .sector id (n * (c.word 4 / 32) + j)) ∧
        (c.form = 6 → ∀ b, s.base.blocks.look (handleKey (c.word 0)) = some b →
          t.base.blocks.look (handleKey (c.word 0)) = some { b with spilled := false, used := s.tick })) ∧
    (∀ j, sectorReady s c j = true → sectorPeer c j = none → NoTiles s → OnCore s c.blk →
      (∀ i ∈ sectorBytes j, ∃ off, copyDst s c i = .spm off) →
      (∀ i ∈ sectorBytes j, ∀ n ∈ sectorBytes j, copyDst s c i = copyDst s c n → i = n) →
      (∀ i ∈ sectorBytes j, locPoisoned s c (copySrc s c i) = false) →
      let lands (a : Nat) : Prop := ∃ i ∈ sectorBytes j, copyDst s c i = .spm a
      let barred (a : Nat) : Prop := ∃ o, c.bar = some (.spm c.blk o) ∧ o ≤ a ∧ a < o + 16
      (∀ o, c.bar = some o → ∃ off, o = .spm c.blk off) →
      ∃ t, exec (.sectorLand id j) s = .next t ∧
        (∀ i ∈ sectorBytes j, ∀ a, copyDst s c i = .spm a → ¬ barred a → spmAt t c.blk a = locByte s c (copySrc s c i)) ∧
        (∀ a, ¬ lands a → ¬ barred a → spmAt t c.blk a = spmAt s c.blk a) ∧
        (∀ o, c.bar = some (.spm c.blk o) → (∀ a, lands a → ¬ barred a) → objAt t c.blk o = (barStep (objAt s c.blk o) (.credit 1)).1) ∧
        (c.left.erase j ≠ [] → t.work.copies.look id = some { c with left := c.left.erase j }) ∧
        (c.left.erase j = [] → t.work.copies.look id = none ∧
          ∀ w, s.wave c.wave = some w → ∃ v, t.wave c.wave = some v ∧
            v.ops = w.ops.map fun o => if o.id = c.op then { o with done := true } else o)) ∧
    (c.form = 0 → c.word 5 % 4 = 0 → ∀ i, copySrc s c i = .mem (c.dword 0 + i) ∧ copyDst s c i = .spm (c.base s + c.word 2 + i))) ∧
  (∀ (blk off k pa va : Nat) (key : Option Nat) (upd : BarUpd) (s : State), (∀ e, upd = .init e → e < 2 ^ 14) →
    (Ev.barrierUpdate none (.spm blk off) upd ∈ s.pending → NoTiles s → OnCore s blk →
      ∃ t, exec (.barrierUpdate none (.spm blk off) upd) s = .next t ∧ objAt t blk off = (barStep (objAt s blk off) upd).1 ∧
        (∀ a, (a < off ∨ off + 16 ≤ a) → spmAt t blk a = spmAt s blk a) ∧ t.mem = s.mem ∧
        (∀ j w, s.wave j = some w → ∃ v, t.wave j = some v ∧ v.ops = w.ops ∧ v.vregs = w.vregs) ∧
        ((barStep (objAt s blk off) upd).2.1 = true → ∀ w l f q ph, s.wave k = some w → (l, f) ∈ w.fibres → f.park = some q →
          q.kind = .bwait (.spm blk off) ph → ph < 16 → ph ≠ (barStep (objAt s blk off) upd).1.phase →
          Ev.bwaitRelease k (.spm blk off) ∈ t.pending)) ∧
    (let o : BarObj := .line 0 pa key va
     Ev.barrierUpdate none o upd ∈ s.pending → lineFree s.mem (lineOf pa) = true →
      ∃ t, exec (.barrierUpdate none o upd) s = .next t ∧
        t.mem = devWrite s.mem key pa (leBytes (barBits (barStep (objMem s.mem key pa) upd).1) 16) ∧ t.work.blocks = s.work.blocks) ∧
    (let o : BarObj := .line 0 pa key va
     ∀ w p, Ev.barrierUpdate (some k) o upd ∈ s.pending → lineFree s.mem (lineOf pa) = true → barOpReady s k o upd = true →
      barOp s k o upd = some (w, p) →
      let m := if p.releases = true then releaseBytes s.mem (coreOf s w) else s.mem
      ∃ t, exec (.barrierUpdate (some k) o upd) s = .next t ∧
        t.mem = devWrite m key pa (leBytes (barBits (barStep (objMem m key pa) upd).1) 16) ∧
        (∀ v, t.wave k = some v → ∀ e ∈ v.ops, e.id ≠ p.id) ∧
        ((barStep (objMem m key pa) upd).2.2 = true → Ev.barrierOverrunReport k va ∈ t.pending))) ∧
  (∀ (k lanes gen addr ph : Nat) (obj : BarObj) (test : Option PReg) (s : State) (w : Wave) (ls bs : List Nat) (pc : Pc),
    Ev.remoteBarrierRequest k lanes gen addr obj ph test ∈ s.pending → askOrdered s k obj = true → askTaken s obj = true →
    s.wave k = some w → asking w lanes obj ph test = ls → askingBehind w lanes obj ph test = bs → askPc w ls bs = some pc →
    let e : Ev := .remoteBarrierRequest k lanes gen addr obj ph test
    (askReaches s gen obj = true → (w.fibres.map Prod.fst).Nodup →
      ∃ t v, exec (.remoteBarrierRequest k lanes gen addr obj ph test) s = .next t ∧ t.wave k = some v ∧
        (∀ j, j ≠ k → t.wave j = s.wave j) ∧ t.mem.mem = s.mem.mem ∧ v.vregs = w.vregs ∧ v.ops = w.ops ∧
        (∀ p, test = some p → p ≠ 7 → ∀ l ∈ ls, ∃ f, v.fibres.look l = some f ∧ f.park = none ∧ pred f p = (phaseOf s obj != ph)) ∧
        (test = none → phaseOf s obj ≠ ph → ∀ l ∈ ls, ∃ f, v.fibres.look l = some f ∧ f.park = none) ∧
        (test = none → phaseOf s obj = ph → ∀ l ∈ ls, ∃ f q, v.fibres.look l = some f ∧ f.park = some q ∧ q.kind = .bwait obj ph) ∧
        (∀ l, l ∉ ls → l ∉ bs → v.fibres.look l = w.fibres.look l)) ∧
    (askReaches s gen obj = false → Acts (.remoteBarrierRequest k lanes gen addr obj ph test) e s fun s =>
      (bumpCount s (ctxOf s w) 0x0C).post (.droppedBarrierRequest k (maskOf (ls ++ bs)).toNat addr pc.packet pc.slot test))) ∧
  (∀ (k : Nat) (obj : BarObj) (s : State) (w : Wave), s.wave k = some w → answered obj w = true →
    Acts (.bwaitRelease k obj) (.bwaitRelease k obj) s fun s =>
      { s.setWave k (releaseWhere w (flipped obj)) with
        mem := acquireBytes s.mem (coreOf s w) }) ∧
  (∀ (m : RemoteMsg) (s : State), Ev.remoteMessage m ∈ s.pending → msgFirst s m = true → msgOrdered s m = true → msgTaken s m = true → NoTiles s →
    (∀ b, reaches s m = true → s.block m.blk = some b → b.status = .running → b.preempt = false →
      (∀ d op sub w, m.op = .store d op sub → s.wave m.wave = some w → ∃ t, exec (.remoteMessage m) s = .next t ∧
        (∀ i < 4, spmAt t m.blk (m.off + i) = (leBytes d.toNat 4).getD i 0) ∧
        (∀ a, (a < m.off ∨ m.off + 4 ≤ a) → spmAt t m.blk a = spmAt s m.blk a) ∧ SubDone t m.wave op sub w 0 ∧ t.mem = s.mem) ∧
      (∀ op sub w, m.op = .load op sub → s.wave m.wave = some w → ∃ t, exec (.remoteMessage m) s = .next t ∧
        SubDone t m.wave op sub w (leNat ((List.range 4).map fun i => spmAt s m.blk (m.off + i))) ∧
        (∀ a, spmAt t m.blk a = spmAt s m.blk a) ∧ t.mem = s.mem) ∧
      (∀ op addr, m.op = .arrive op addr → ∃ t, exec (.remoteMessage m) s = .next t ∧
        objAt t m.blk m.off = (barStep (objAt s m.blk m.off) .arrive).1 ∧
        (∀ a, (a < m.off ∨ m.off + 16 ≤ a) → spmAt t m.blk a = spmAt s m.blk a) ∧
        (∀ v, t.wave m.wave = some v → ∀ e ∈ v.ops, e.id ≠ op) ∧
        ((barStep (objAt s m.blk m.off) .arrive).2.2 = true → Ev.barrierOverrunReport m.wave addr ∈ t.pending)) ∧
      (∀ n, m.op = .expect n → ∃ t, exec (.remoteMessage m) s = .next t ∧
        objAt t m.blk m.off = (barStep (objAt s m.blk m.off) (.expect n)).1 ∧
        ∀ a, (a < m.off ∨ m.off + 16 ≤ a) → spmAt t m.blk a = spmAt s m.blk a) ∧
      (∀ id j c, m.op = .sector id j → s.work.copies.look id = some c → c.bar = none → ∃ t, exec (.remoteMessage m) s = .next t ∧
        (∀ i < 32, spmAt t m.blk (m.off + i) = cpymByte s c m.blk (c.word 2) (32 * (j % (c.word 4 / 32)) + i)) ∧
        (∀ a, (a < m.off ∨ m.off + 32 ≤ a) → spmAt t m.blk a = spmAt s m.blk a) ∧
        (c.left.erase j ≠ [] → t.work.copies.look id = some { c with left := c.left.erase j }) ∧
        (c.left.erase j = [] → t.work.copies.look id = none))) ∧
    (∀ b, reaches s m = true → s.block m.blk = some b → b.status = .running → b.preempt = true → (∀ op addr, m.op ≠ .arrive op addr) →
      Acts (.remoteMessage m) (.remoteMessage m) s fun s => s.setBlock m.blk { b with heldMsgs := b.heldMsgs ++ [m] }) ∧
    (reaches s m = false → ∀ op sub w, m.op = .load op sub → s.wave m.wave = some w → ∃ t, exec (.remoteMessage m) s = .next t ∧
      SubDone t m.wave op sub w 0 ∧ t.work.blocks = s.work.blocks)) ∧
  (∀ (blk : Nat) (b : Block) (t : TileOp) (s : State), s.block blk = some b →
    (nextTileOp b = some t → tileReady s blk b t = true → servedFirst s b.core t = true →
      let s0 : State := { s with pending := s.pending.erase (.tileOpFire blk) }
      ∃ s1 c, exec (.tileOpFire blk) s = .next s1 ∧ s1.block blk = some c ∧ c.slabs = b.slabs ∧ c.spm = b.spm ∧
        (∀ ops, t.kind = .opfence ops → c.tiles = b.tiles.filter fun e => e.id != t.id) ∧
        (∀ sel, t.kind = .episel sel → c.tiles = (b.tiles.filter fun e => e.id != t.id) ∧ c.sel = some sel) ∧
        ((∀ ops, t.kind ≠ .opfence ops) → (∀ sel, t.kind ≠ .episel sel) → ∃ u ∈ c.tiles, u.id = t.id ∧ u.running = true ∧ u.kind = t.kind ∧
          (t.kind = .zclr → u.bytes = [] ∧ ∀ i, 1024 * t.z ≤ i → i < 1024 * (t.z + t.cnt) → u.out.look i = some 0) ∧
          (∀ off, t.kind = .zld off → u.bytes = [] ∧ ∀ i < 1024 * t.cnt,
            u.out.look (1024 * t.z + i) = some (BitVec.ofNat 32 (leNat ((List.range 4).map fun n => spmAt s blk (off + 4 * i + n))))) ∧
          (∀ off, t.kind = .zst off → u.out = [] ∧ ∀ i < 1024 * t.cnt, ∀ n < 4,
            (off + 4 * i + n, (leBytes (slabAt s blk (1024 * t.z + i)).toNat 4).getD n 0) ∈ u.bytes) ∧
          (∀ rows f tv mx acc n32 cb slot fill v w, t.kind = .mma rows f tv mx acc n32 cb slot fill v → s.wave t.wave = some w →
            u.bytes = [] ∧ (u.out, u.conds) = runMma (touchPlaces s0 b.ctx t.reads) blk b w t rows f tv mx acc n32 v) ∧
          (∀ src q f sat tv acc n32 cb slot fill v, t.kind = .mmac src q f sat tv acc n32 cb slot fill v →
            u.bytes = [] ∧ (u.out, u.conds) = runMmac (touchPlaces s0 b.ctx t.reads) blk b t src q f sat tv acc n32 v))) ∧
    (tileOf b t.id = some t → t.running = true → t.consumed = false →
      Acts (.operandsConsumed blk t.id) (.operandsConsumed blk t.id) s fun s =>
        let s1 := mapTile s blk t.id fun x => { x with consumed := true }
        match t.slotNamed with
        | some (cb, slot, fill) => unnameSlot s1 blk cb slot fill
        | none => s1) ∧
    (tileOf b t.id = some t → t.running = true → t.consumed = true → destReady s blk b t = true →
      (∀ e ∈ tilesBefore b t.id, e.shares t = false) → t.tainted = false → operandLost s t = false →
      ∃ s1 c, exec (.tileOpComplete blk t.id) s = .next s1 ∧ s1.block blk = some c ∧ (∀ e ∈ c.tiles, e.id ≠ t.id) ∧
        ((t.out.map Prod.fst).Nodup → (∀ q ∈ t.out, slabAt s1 blk q.1 = q.2) ∧
          ∀ i, (∀ q ∈ t.out, q.1 ≠ i) → slabAt s1 blk i = slabAt s blk i) ∧
        (∀ off, t.kind = .zst off → (t.bytes.map Prod.fst).Nodup → (∀ q ∈ t.bytes, spmAt s1 blk q.1 = q.2) ∧
          ∀ a, (∀ q ∈ t.bytes, q.1 ≠ a) → spmAt s1 blk a = spmAt s blk a) ∧
        (∀ w, s.wave t.wave = some w → ∃ v, s1.wave t.wave = some v ∧ v.fstat = w.fstat ||| t.conds ∧
          v.ops = w.ops.map fun o => if o.id = t.op then { o with done := true } else o)))

/-- Requests, multicasts, claims and answers of ordered sections, with their walks and gaps, and the locks of commits (12_ordered_sections
R258 to R276, 10_memory_instructions R216 to R219). A request that is not its key's turn leaves a wait with its core subscribed; a grant makes
its fibre the holder; a commit's lock stands in the list of locked lines with the commit's number until the commit event drops all of them. A
walk starts at the key of the wait it is made for (log 94, DESIGN CHOICE, where a holder has two waits); poison in the backing table stops the
context (20_errors R438). -/
def Obligations.WaypointSteps : Prop :=
  ∀ (r : WpReq) (core ctx uid id : Nat) (key n : Word) (s : State),
    (Ev.waypointRequest r ∈ s.pending → reqFirst s r = true → wpOpen s r.ctx r.key = true → ∀ s1,
      releaseOf { s with pending := s.pending.erase (.waypointRequest r) } r = some s1 → (releaseOf s r).isSome = true →
      (wpPoison s1 r.ctx r.key = none →
        (∀ s2 e, wpEntry s1 r.ctx r.key = some (s2, e) → exec (.waypointRequest r) s = .next (doRequest s2 e r)) ∧
        (wpEntry s1 r.ctx r.key = none → exec (.waypointRequest r) s = .next (tableFull s1 r))) ∧
      (∀ line, wpPoison s1 r.ctx r.key = some line → ctxStopped s1 r.ctx = false →
        exec (.waypointRequest r) s = .next (stopForPoison s1 r.ctx (wpHome r.ctx r.key) line))) ∧
    (∀ e : WpEntry, let d := wpDist e r.seq
      (r.kind = .oqry → doRequest s e r = (wpPut s e).post (.waypointAnswer r.uid r.key (.value e.n))) ∧
      (r.kind = .oent → (d < 0 ∨ 0 < d ∧ d < 256 ∧ e.skip.getLsbD (d.toNat - 1) = true) →
        doRequest s e r = (wpPut s e).post (.waypointAnswer r.uid r.key (.stale r.seq))) ∧
      (r.kind = .oent → d = 0 → e.holder = none →
        doRequest s e r = (wpPut s { e with holder := some r.uid }).post (.waypointAnswer r.uid r.key (.granted r.seq))) ∧
      (r.kind = .oent → (d = 0 ∧ e.holder ≠ none ∨ 0 < d ∧ ¬ (d < 256 ∧ e.skip.getLsbD (d.toNat - 1) = true)) →
        let t := doRequest s e r
        let p := wpPut s (e.subscribe (fibreCore s r.uid))
        (∃ q : WpWait, q.req = r ∧ q.core = fibreCore s r.uid ∧ q.stamp = s.dev.cycles ∧ q.walks = 0 ∧ q.claiming = false ∧
          t.base.waits = q :: p.base.waits) ∧ t.base.wps = p.base.wps ∧ t.pending = s.pending ∧ t.work = s.work ∧ t.mem = s.mem) ∧
      (r.kind = .oleave → e.holder = some r.uid → doRequest s e r = wpRetire s e) ∧
      (r.kind = .oleave → e.holder ≠ some r.uid → doRequest s e r = wpPut s e) ∧
      (r.kind = .oskip → 0 < d → d < 256 →
        doRequest s e r = skipDone (wpPut s { e with skip := e.skip ||| ((1 : BitVec 255) <<< (d.toNat - 1)) }) r) ∧
      (r.kind = .oskip → d = 0 → e.holder = none → doRequest s e r = skipDone (wpRetire s e) r) ∧
      (r.kind = .oskip → (d < 0 ∨ d = 0 ∧ e.holder ≠ none) → doRequest s e r = skipDone (wpPut s e) r)) ∧
    (∀ (e : WpEntry) (q : WpWait), let d := wpDist e q.req.seq
      let gone (e : WpEntry) : State := dropSubs (dropWait (wpPut s e) q) q.core q.req.ctx q.req.key
      (d < 0 → doClaim s e q = (gone e).post (.waypointAnswer q.req.uid q.req.key (.stale q.req.seq))) ∧
      (d = 0 → e.holder = none →
        doClaim s e q = (gone { e with holder := some q.req.uid }).post (.waypointAnswer q.req.uid q.req.key (.granted q.req.seq))) ∧
      (0 < d ∨ d = 0 ∧ e.holder ≠ none → let p := wpPut s (e.subscribe q.core)
        doClaim s e q = { p with base := { p.base with waits := p.base.waits.map fun x => if x = q then { q with claiming := false } else x } })) ∧
    (Ev.waypointMulticast core ctx key n ∈ s.pending →
      Acts (.waypointMulticast core ctx key n) (.waypointMulticast core ctx key n) s fun s =>
        dropSubs ((s.base.waits.filter fun q => q.core == core && q.req.ctx == ctx && q.req.key == key).foldl (hearOne n) s) core ctx key) ∧
    (∀ q s1 e, Ev.waypointClaim r ∈ s.pending → wpOpen s r.ctx r.key = true → s.base.waits.find? (fun q => q.req == r && q.claiming) = some q →
      wpEntry { s with pending := s.pending.erase (.waypointClaim r) } r.ctx r.key = some (s1, e) → wpPoison s r.ctx r.key = none →
      exec (.waypointClaim r) s = .next (doClaim s1 e q)) ∧
    (∀ q line, Ev.waypointClaim r ∈ s.pending → wpOpen s r.ctx r.key = true → s.base.waits.find? (fun q => q.req == r && q.claiming) = some q →
      wpPoison s r.ctx r.key = some line → ctxStopped s r.ctx = false →
      Acts (.waypointClaim r) (.waypointClaim r) s fun s => stopForPoison s r.ctx (wpHome r.ctx r.key) line) ∧
    (∀ k l f d v, fibreAt s uid = some (k, l, f) →
      (Ev.waypointAnswer uid key (.granted n) ∈ s.pending → awaitsKey f key (some n) = some d →
        Acts (.waypointAnswer uid key (.granted n)) (.waypointAnswer uid key (.granted n)) s fun s =>
          grantAcquire (answerFibre (setAwaited s k l key n .held) k l d 0) k) ∧
      (Ev.waypointAnswer uid key (.stale n) ∈ s.pending → awaitsKey f key (some n) = some d →
        Acts (.waypointAnswer uid key (.stale n)) (.waypointAnswer uid key (.stale n)) s fun s =>
          answerFibre (setAwaited s k l key n .free) k l d 1) ∧
      (Ev.waypointAnswer uid key (.value v) ∈ s.pending → awaitsKey f key none = some d →
        Acts (.waypointAnswer uid key (.value v)) (.waypointAnswer uid key (.value v)) s fun s => answerFibre s k l d v)) ∧
    (∀ q, waitOf s uid = some q →
      (walkKeys s uid q.req.ctx 16 q.req.key = true → Acts (.deadlockWalk uid) (.deadlockWalk uid) s fun s => wpWithdraw s q) ∧
      (walkKeys s uid q.req.ctx 16 q.req.key = false → Acts (.deadlockWalk uid) (.deadlockWalk uid) s fun s =>
        { s with base := { s.base with waits := s.base.waits.map fun x => if x = q then { q with walks := q.walks + 1 } else x } })) ∧
    (∀ g, gapFor s uid = some g →
      Acts (.waypointGap uid) (.waypointGap uid) s fun s =>
        postEvent { s with base := { s.base with gaps := s.base.gaps.erase g } } g.ctx (wpHome g.ctx g.key) 2
          [(8, g.key.toNat), (12, g.n.toNat), (0x10, g.seq.toNat)]) ∧
    (∀ c l, Ev.mcasLockRequest id ∈ s.pending → lockReady s id = true → s.mem.commits.look id = some c → c.next = some l →
      Acts (.mcasLockRequest id) (.mcasLockRequest id) s fun s => takeLock s id c l) ∧
    (∀ c, Ev.mcasLockAck id ∈ s.pending → s.mem.commits.look id = some c →
      (c.obs = none → c.next.isSome = true → Acts (.mcasLockAck id) (.mcasLockAck id) s fun s => s.post (.mcasLockRequest id)) ∧
      (c.obs = none → c.next = none → Acts (.mcasLockAck id) (.mcasLockAck id) s fun s => commitEvent s id c) ∧
      (∀ obs, c.obs = some obs → backReady s c obs = true → Acts (.mcasLockAck id) (.mcasLockAck id) s fun s => finishCommit s id c obs)) ∧
    (∀ (c : Commit) (l : Nat), let t := takeLock s id c l
      (∃ rest, t.mem.locked = (l, id) :: rest ∧ (c.locked ≠ [] → rest = s.mem.locked)) ∧
      t.mem.commits.look id = some { c with locked := l :: c.locked } ∧ Ev.mcasLockAck id ∈ t.pending ∧ t.work = s.work ∧ t.ctxs = s.ctxs) ∧
    (∀ (c : Commit) (obs : List Nat),
      (finishCommit s id c obs).mem.commits.look id = none ∧
      (c.nowb = true → (finishCommit s id c obs).mem.mem = s.mem.mem ∧ (finishCommit s id c obs).mem.locked = s.mem.locked)) ∧
    (∀ c : Commit, (c.used s).mismatch ((c.used s).observed s) ≠ 0 → backReady (unlock s id) (c.used s) ((c.used s).observed s) = false →
      let t := commitEvent s id c
      t.mem.mem = s.mem.mem ∧ t.mem.locked = s.mem.locked.filter (fun p => p.2 != id) ∧ Ev.mcasLockAck id ∈ t.pending ∧
        t.mem.commits.look id = some { c.used s with obs := some ((c.used s).observed s) })

/-- Batches, rasterisers, fragment waves, exports and banks, surface pools, plots and the block store (13_raster R281 to R305, 14_plot_units
R311 to R323). An accepted batch takes its tickets from its entry's stream; a rasteriser goes from cell to cell and from triangle to triangle; a
ROP writes its pixel where the depth test lets it, and its ticket and its export are gone when all its parts are done. That a PLOT status that
cannot be written is lost, and the completion arrival follows, is the model's choice (log 43, DESIGN CHOICE); so is what a spilled cell's frame
is called where its poison stops the context (log 105, DESIGN CHOICE). -/
def Obligations.GraphicsSteps : Prop :=
  ∀ (id stack bank ctx ste cx cy unit thread : Nat) (pass : Bool) (r : BsReq) (s : State),
    (∀ b, batchDue s id = some b → Acts (.batchAccept id) (.batchAccept id) s fun s => acceptBatch s id b) ∧
    (∀ j b, rasterDue s stack = true → rasterBatch s stack = some (j, b) → Acts (.rasterise stack) (.rasterise stack) s fun s => rasterStep s j b stack) ∧
    (∀ s1, (nextFragLaunch s stack).isSome = true → nextFragLaunch { s with pending := s.pending.erase (.fragmentWaveLaunch stack) } stack = some s1 →
      exec (.fragmentWaveLaunch stack) s = .next s1) ∧
    (∀ x, s.base.exports.look id = some x → x.entered = false →
      (x.discard = false → Acts (.exportEntry id) (.exportEntry id) s fun s => exportEntered s id x) ∧
      (x.discard = true → Acts (.exportEntry id) (.exportEntry id) s fun s =>
        finishBatch (exportDone (retirePixel (retirePixel s x.frag true) x.frag false) id x) x.frag.batch)) ∧
    (∀ j x b, nextExport s stack bank = some (j, x, b, true) → Acts (.ropApply stack bank) (.ropApply stack bank) s fun s => applyDepth s j b x) ∧
    (∀ j x b, nextExport s stack bank = some (j, x, b, false) → Acts (.ropApply stack bank) (.ropApply stack bank) s fun s => applyColour s j b x) ∧
    (Ev.depthVerdict id pass ∈ s.pending → Acts (.depthVerdict id pass) (.depthVerdict id pass) s fun s =>
      { s with base := { s.base with exports := s.base.exports.modify id fun x => { x with verdict := some pass } } }) ∧
    (∀ c, poolFull s stack = true → victimCell s stack = some c → Acts (.cellEviction stack) (.cellEviction stack) s fun s =>
      putCell s { c with spilled := true }) ∧
    (∀ c, cellAt s ctx ste cx cy = some c → c.spilled = true → poolRoom s (cellStack cx cy) (16 * (steOf s ctx ste).p) = true →
      (c.poisoned = [] →
        Acts (.cellFetchBack ctx ste cx cy) (.cellFetchBack ctx ste cx cy) s fun s => putCell s { c with spilled := false, used := s.tick }) ∧
      (c.poisoned ≠ [] → ctxStopped s ctx = false →
        Acts (.cellFetchBack ctx ste cx cy) (.cellFetchBack ctx ste cx cy) s fun s =>
          stopForPoison s ctx (cellStack cx cy) (Config.choose s.tick))) ∧
    (∀ q, poolWaitDue s (ctx, ste, cx, cy) = some q → ste < 2 ^ 12 →
      Acts (.surfacePoolWait ctx ste cx cy) (.surfacePoolWait ctx ste cx cy) s fun s =>
        postEvent
          { s with base := { s.base with poolWaits := s.base.poolWaits.map fun q => if q.is (ctx, ste, cx, cy) then { q with posted := true } else q } }
          ctx (cellStack cx cy) 4 [(8, ste), (12, cx + 2 ^ 16 * cy)]) ∧
    (∀ p, s.base.sets.look id = some p → steQuiet s p.ctx p.ste = true → plotOn s p.ctx p.ste = false →
      Acts (.srfsetPerform id) (.srfsetPerform id) s fun s =>
        { performSet s p with base := { (performSet s p).base with sets := (performSet s p).base.sets.del id } }) ∧
    (∀ p, s.base.plots.look id = some p → stack ∈ p.onStacks → p.accepted.look stack = none → plotPoison s p = none →
      ∃ t q, exec (.plotAccept id stack) s = .next t ∧ t.base.plots.look id = some q ∧ q.accepted.look stack = some s.tick ∧
        q.units = p.units ++ plotUnits p stack) ∧
    (∀ p, s.base.units.look (unitKey stack unit) = none → unitPlot s stack unit = some (id, p) →
      Acts (.plotUnitStart stack unit) (.plotUnitStart stack unit) s fun s => startUnit s stack unit id p) ∧
    (∀ x p, liveThread s stack unit thread = some (x, p) →
      (x.issued < 2 ^ 26 → threadWaits s p x = none → threadOpen s stack p x = true →
        Acts (.plotThreadIssue stack unit thread) (.plotThreadIssue stack unit thread) s fun s => threadStep s stack unit thread p x) ∧
      (2 ^ 26 ≤ x.issued → Acts (.plotWordLimit stack unit thread) (.plotWordLimit stack unit thread) s fun s =>
        faultThread s stack unit thread x 0 (noAddress s))) ∧
    (∀ p, s.base.plots.look id = some p → plotOver s id p = true → hwFree s p.ctx (p.va + 0x40) 16 = true →
      Acts (.plotComplete id) (.plotComplete id) s fun s =>
        let s1 := (hwWords s p.ctx p.va (plotStatus p)).getD s
        let s2 := { s1 with base := { s1.base with plots := s1.base.plots.del id } }
        if p.barrier = 0 then s2 else s2.post (.completionArrival p.ctx p.barrier p.va (arrivalSource 2 0 p.level))) ∧
    (∀ w o, Ev.blockStoreRequest r ∈ s.pending → bsOp s r = some (w, o) → inOrder w o = true → bsRoom s w r = true →
      let home := keyHome (ctxOf s w) r.seq r.layer
      (keyPoison s (ctxOf s w) home = none → Acts (.blockStoreRequest r) (.blockStoreRequest r) s fun s => bsAnswer s w o r) ∧
      ∀ line, keyPoison s (ctxOf s w) home = some line → ctxStopped s (ctxOf s w) = false →
        Acts (.blockStoreRequest r) (.blockStoreRequest r) s fun s => stopForPoison s (ctxOf s w) home line) ∧
    (∀ w o t v, bsOp s r = some (w, o) → bsStep s (ctxOf s w) (stackOf (coreOf s w)) r = .ok (t, v) → o.cls.isSome = true →
      t.work = s.work →
      (bsAnswer s w o r).base = t.base ∧ (∀ j, j ≠ r.wave → (bsAnswer s w o r).wave j = s.wave j) ∧
      ((∃ x ∈ o.subs, x.lane = r.lane) → ∃ w1 o1 x, (bsAnswer s w o r).wave r.wave = some w1 ∧ o1 ∈ w1.ops ∧ o1.id = r.op ∧
        x ∈ o1.subs ∧ x.lane = r.lane ∧ x.done = true ∧ x.value = v.zeroExtend 64)) ∧
    (∀ b c, s.ctxs.look b.ctx = some c →
      let e := steOf s b.ctx (batchSet b)
      let t := acceptBatch s id b
      steOf t b.ctx (batchSet b) = { e with stream := e.stream + BitVec.ofNat 32 b.tris } ∧
        t.base.batches.look id = some { b with base := e.stream, accepted := some s.tick } ∧
        t.base.cells = s.base.cells ∧ t.base.tickets = s.base.tickets ∧ t.pending = s.pending) ∧
    (∀ b : Batch,
      (∀ new, rasterWork s id b stack = .cell new →
        (rasterStep s id b stack).base.tickets = s.base.tickets ++ new ∧ (rasterStep s id b stack).base.frags = s.base.frags ∧
        (rasterStep s id b stack).base.batches.look id = some (b.moveTo stack ((b.place stack).1, (b.place stack).2 + 1))) ∧
      (∀ new, rasterWork s id b stack = .tri new → ∃ u, rasterStep s id b stack = finishBatch u id ∧
        u.base.tickets = s.base.tickets ∧ u.base.frags = s.base.frags ++ new.map (fun f => (stack, { f with made := s.dev.cycles })) ∧
        u.base.batches.look id = some (b.moveTo stack ((b.place stack).1 + 1, 0)))) ∧
    (∀ x, let t := exportEntered s id x
      t.base.exports.look id = some { x with entered := true } ∧ t.base.cells = s.base.cells ∧ t.base.tickets = s.base.tickets ∧
        t.mem = s.mem ∧ t.pending = s.pending) ∧
    (∀ (b : Batch) (x : Export) (i : Nat),
      (b.depth = some i →
        let t := applyDepth s id b x
        let pass := exportPasses s b.ctx i x
        let old := pixelRead s b.ctx i x.frag.px x.frag.py
        let bad := pixelPoisoned s b.ctx i x.frag.px x.frag.py
        t.base.cells = (if pass = true then pixelWrite s b.ctx i x.frag.px x.frag.py (depthPixel s (steOf s b.ctx i) x old) bad
          else touchCell s b.ctx i (x.frag.px / 4) (x.frag.py / 4)).base.cells ∧
        t.base.exports.look id = (if b.colour = none ∨ x.colourDone = true then none else some { x with depthDone := true }) ∧
        (∀ k ∈ t.base.tickets, ticketOf x.frag true k = true → k.mask.getLsbD (fragBit x.frag) = false) ∧
        (b.colour ≠ none → Ev.depthVerdict id pass ∈ t.pending)) ∧
      (b.colour = some i →
        let t := applyColour s id b x
        let old := pixelRead s b.ctx i x.frag.px x.frag.py
        t.base.exports.look id = (if b.depth = none ∨ x.depthDone = true then none else some { x with colourDone := true }) ∧
        (∀ k ∈ t.base.tickets, ticketOf x.frag false k = true → k.mask.getLsbD (fragBit x.frag) = false) ∧
        (x.verdict = some false → t.base.cells = s.base.cells) ∧
        (x.verdict ≠ some false → ∃ bad, t.base.cells =
          (pixelWrite s b.ctx i x.frag.px x.frag.py (colourPixel s (steOf s b.ctx i) x old) bad).base.cells))) ∧
    (∀ (p : Plot) (x : Thread) (d : BitVec 8), s.base.threads.look (threadKey stack unit thread) = some x → x.pc.packet + 1 < plotPackets p →
      let now (pc : Pc) : State :=
        { s with base := { s.base with threads := s.base.threads.modify (threadKey stack unit thread) fun _ => { x with pc := pc, issued := x.issued + 1 } } }
      (decode (threadWord p x.pc) = .ok .nop → threadStep s stack unit thread p x =
        now (if x.pc.slot = 2 then { packet := x.pc.packet + 1, slot := 0 } else { packet := x.pc.packet, slot := x.pc.slot + 1 })) ∧
      (decode (threadWord p x.pc) = .ok (.bra d) → 0 ≤ (x.pc.packet : Int) + d.toInt → (x.pc.packet : Int) + d.toInt < plotPackets p →
        threadStep s stack unit thread p x = now { packet := ((x.pc.packet : Int) + d.toInt).toNat, slot := 0 })) ∧
    (∀ key b, blockRoom s ctx stack = false → (bkaWaits s ctx stack = true ∨ fetchWaits s ctx stack = true) → victimBlock s ctx stack = some (key, b) →
      Acts (.blockEviction ctx stack) (.blockEviction ctx stack) s fun s => mapBs s key fun b => { b with spilled := true })

/-! ## The step -/

/-- A step runs the decoded instruction: when the mover of the step is a wave whose packet holds, at its program counter, a chain of one word
that decodes to `i`, the step is `exec` of `i` with the issue stage set for it; the wave takes the last place of its core's issue order, and the
clocks advance. A chain that cannot issue leaves all but the clocks. When the mover is a step of the device, the step is `exec` of its
instruction, where a wave that is to leave or join the pending set first has what holds it written down (16_scheduling R370). -/
def Obligations.StepRunsDecodedWord : Prop :=
  ∀ (s : State),
    let s' : State := { s with turn := none }
    (∀ (k : Nat) (w : Wave) (pc : Pc) (ws : List Nat) (s1 s2 : State) (n x : Nat) (next : NextPc) (i : Instr),
      chooseMover s = some (.wave k) → s'.wave k = some w → heldBack s' k w = false → w.repAt = none → minPc w = some pc → fetchOpen s' w pc.packet = true →
      fetchPacket s' w pc.packet = .ok (ws, s1) → chainOf ws pc.slot = ([(n, x)], next) →
      Machine.decodeTrap ws w.codeBase.toNat pc.packet (batch w) [(n, x)] = none → decode x = .ok i → privileged w.level i = true →
      exec i (latch s1 k none next) = .next s2 →
      (s2.issue.held = false → step s = .next (clock (rotate { s2 with issue := Issue.idle } k))) ∧
      (s2.issue.held = true → step s = .next (clock s'))) ∧
    (∀ (e : Ev) (i : Instr) (s2 : State), chooseMover s = some (.event e) → e.names i → exec i (noteHolds s' e) = .next s2 →
      step s = .next (clock s2))

/-- Every instruction runs: a word in the batch of an issuing wave, and a step of the device in any state, answer a next state; there is no
other fault and no refusal. -/
def Obligations.EveryInstructionRuns : Prop :=
  ∀ (i : Instr) (s : State),
    ((issuing s).isSome = true → ∃ t, exec i s = .next t) ∧
    ((∃ e : Ev, e.names i) → ∃ t, exec i s = .next t) ∧
    (∀ f, exec i s = .fault f → f = .noIssuingWave ∧ issuing s = none) ∧
    (∀ r, exec i s ≠ .refused r) ∧ ∀ r, step s ≠ .refused r

/-- The state after reset meets the invariant: both memories are in their canonical form. -/
def Obligations.ResetInv : Prop := Inv State.reset

/-- Every step keeps both memories in their canonical form: addresses strictly rising, and no byte listed that an unlisted address reads as. -/
def Obligations.StepKeepsMemory : Prop := ∀ s t : State, Inv s → step s = .next t → Inv t

/-- What reset leaves: boot stage, device id, mailbox base and pending bits 0, every MSI-X vector masked, unlisted offsets of BAR 0 zero
(18_host_peers R408, R409), the temperature limit 95 (R410), the interval of the surveyors 2^30 (20_errors R440), no context, no block and no
wave. -/
def Obligations.ResetValues : Prop :=
  let up : State := { State.reset with dev := { State.reset.dev with bootStage := 3 } }
  barRead State.reset 0x000 4 = 0 ∧ barRead State.reset 0x008 1 = 0 ∧ barRead up 0x040 8 = 0 ∧ barRead up 0x3000 8 = 0 ∧
  (∀ v < 64, barRead up (0x2000 + 16 * v + 12) 4 % 2 = 1) ∧
  (∀ s : State, serving s = true → ∀ off, 0x048 ≤ off → (off < 0x2000 ∨ 0x2400 ≤ off ∧ off < 0x3000 ∨ 0x3008 ≤ off) → barRead s off 1 = 0) ∧
  State.reset.dev.tempLimit = 95 ∧ (∀ stack < 2, surveyOf State.reset stack = { i := 2 ^ 30, imin := 2 ^ 24, imax := 2 ^ 34, hi := 64, lo := 4 }) ∧
  State.reset.ctxs = [] ∧ State.reset.work.waves = [] ∧ State.reset.work.blocks = []

/-! ## Chains -/

/-- When a fibre raises a condition that ftrap enables, the chain takes trap 0x28: it has no effect on registers, predicates or memory, fstat
receives every condition that it raised, tmask holds the fibres that raised an enabled one and tinfo the enabled ones raised (04_number_formats
R70). Beside words of the chain that raise traps themselves it is the trap taken when their codes are higher, and a lower one is taken in its
place (02_encoding R43). -/
def Obligations.EnabledConditionsTrap : Prop :=
  ∀ (s t : State) (k : Nat) (w0 w1 : Wave), s.wave k = some w0 → t.wave k = some w1 →
    let cs := t.issue.conds
    let hit := (cs.filter fun c => c.2 &&& w0.ftrap != 0).map Prod.fst
    (allConds cs &&& w0.ftrap ≠ 0 →
      endChain s k (batch w0) (.ok t) =
        let u := enterTrap ((s.withConds cs).setWave k { w0 with fstat := w0.fstat ||| allConds cs }) k (batch w0)
          (mkTrap 0x28 hit 0 (allConds cs &&& w0.ftrap).toNat)
        { u with issue := u.issue.clear }) ∧
    (∀ l, l < 64 → ((mkTrap 0x28 hit 0 (allConds cs &&& w0.ftrap).toNat).tmask.getLsbD l = true ↔
      ∃ c, (l, c) ∈ cs ∧ c &&& w0.ftrap ≠ 0)) ∧
    (∀ j, (mkTrap 0x28 hit 0 (allConds cs &&& w0.ftrap).toNat).tinfo.getLsbD j = true ↔
      ∃ l c, (l, c) ∈ cs ∧ c.getLsbD j = true ∧ w0.ftrap.getLsbD j = true) ∧
    (∀ j, (allConds cs).getLsbD j = true ↔ ∃ l c, (l, c) ∈ cs ∧ c.getLsbD j = true) ∧
    (∀ ts : List Trap, allConds cs &&& w0.ftrap ≠ 0 →
      ((∀ x ∈ ts, 0x28 < x.cause) →
        pickTrap (ts ++ (condTrap w0 cs).toList) = some (mkTrap 0x28 hit 0 (allConds cs &&& w0.ftrap).toNat)) ∧
      ∀ x ∈ ts, x.cause < 0x28 → ∃ y ∈ ts, ∃ z, pickTrap (ts ++ (condTrap w0 cs).toList) = some z ∧ z.cause = y.cause ∧ z.cause < 0x28)

/-- A chain without a trap puts its effect in force: the conditions go into fstat, the batch to its next chain, and nothing else of the wave's
registers, of memory, of the device or of the contexts changes after its words (04_number_formats R69, 02_encoding R19, R23). A trapping
chain has no effect but the trap, and a chain that waits has none. -/
def Obligations.ChainTakesEffect : Prop :=
  ∀ (s t : State) (k : Nat) (w0 w1 : Wave), s.wave k = some w0 → t.wave k = some w1 →
    let cs := t.issue.conds
    (allConds cs &&& w0.ftrap = 0 → w1.step = false → (∃ p ∈ w1.fibres, p.2.padding = false) →
      ∃ w2, (endChain s k (batch w0) (.ok t)).wave k = some w2 ∧ w2.fstat = w1.fstat ||| allConds cs ∧ w2.vregs = w1.vregs ∧
        w2.sregs = w1.sregs ∧ w2.ftrap = w1.ftrap ∧ w2.streams = w1.streams ∧ w2.ops = w1.ops ∧
        (∀ l f, w1.fibres.look l = some f → ∃ f', w2.fibres.look l = some f' ∧ f'.preds = f.preds ∧ f'.base = f.base) ∧
        (endChain s k (batch w0) (.ok t)).mem = t.mem ∧ (endChain s k (batch w0) (.ok t)).dev = t.dev ∧
        (endChain s k (batch w0) (.ok t)).ctxs = t.ctxs ∧ (endChain s k (batch w0) (.ok t)).base = t.base) ∧
    endChain s k (batch w0) .hold = { s with issue := { s.issue.clear with held := true } } ∧
    (∀ x : Trap, x.next = false → x.conds = [] → x.cause ≠ 0x20 → x.cause ≠ 0x28 →
      endChain s k (batch w0) (.trap x) =
        let u := enterTrap (s.setWave k (markTaken w0 x)) k (batch w0) x
        { u with issue := u.issue.clear })

/-! ## Memory -/

/-- Bytes written at their home slices read back under the same key slot; the bytes of every other line are as before under any key slot, and
so are the bytes beside them in lines that already stand under that key slot (08_memory_spaces R166 to R170, 17_translation R401). -/
def Obligations.DeviceWritesReadBack : Prop :=
  ∀ (m : MemSys) (key : Option Nat) (a : Nat) (bs : List Byte), (∀ l ∈ m.l1, l.bytes.length = 64) →
    (∀ i, i < bs.length → seenByte (devWrite m key a bs) key (a + i) = bs.getD i 0) ∧
    (∀ key' c, lineOf c ∉ linesOf a bs.length → seenByte (devWrite m key a bs) key' c = seenByte m key' c) ∧
    (∀ c, (c < a ∨ a + bs.length ≤ c) → m.cipher.look (lineOf c) = key → seenByte (devWrite m key a bs) key c = seenByte m key c)

/-! ## Words whose rule is stated whole -/

/-- RDLANE reads register vA of a lane slot as that lane's window maps it: 0 without a live fibre or outside the window, the current register of
a live fibre in the batch or not, some value while a counted operation is to write it; a lane slot at or above the wave width gives trap 0x01
and a queue port trap 0x05 (05_vector_scalar R95). -/
def Obligations.LaneSlotIsRead : Prop :=
  ∀ (d : SReg) (a : VReg) (i : BitVec 8) (s : State) (k : Nat) (r w : Wave), Issues s k r w →
    let gives (x : Word) : Prop := Completes (.rdlane d a i) s k r (s.setWave k { w with sregs := w.sregs.store d.toNat x 0 })
    (r.width ≤ i.toNat → Raises (.rdlane d a i) s k r (batchTrap r 0x01 0)) ∧
    (i.toNat < r.width → 124 ≤ a.toNat → Raises (.rdlane d a i) s k r (batchTrap r 0x05 0)) ∧
    (i.toNat < r.width → a.toNat < r.n → a.toNat < 124 →
      (r.fibres.look i.toNat = none → gives 0) ∧
      (∀ f, r.fibres.look i.toNat = some f → r.p ≤ f.base + a.toNat → gives 0) ∧
      (∀ f, r.fibres.look i.toNat = some f → f.base + a.toNat < r.p →
        (awaited r (physKey i.toNat (f.base + a.toNat)) = false → gives (r.vregs.get (physKey i.toNat (f.base + a.toNat)) 0)) ∧
        (awaited r (physKey i.toNat (f.base + a.toNat)) = true → ∃ x, gives x)))

/-- BFE, BFEU and BFI take the position from y[4:0] and the length from y[13:8], cut at 32 and at bit 31: BFEU and BFE extract the field, with
zeros or with its sign, and BFI replaces it (05_vector_scalar R98). -/
def Obligations.BitFieldWords : Prop :=
  ∀ d a b : VReg,
    let pos (y : Word) : Nat := y.toNat % 32
    let len (y : Word) : Nat := min (min (y.toNat / 2 ^ 8 % 64) 32) (32 - pos y)
    let mask (y : Word) : Word := if len y = 32 then 0xFFFFFFFF else (1#32 <<< len y) - 1
    Gives (.bfeu d a b) [a.toNat, b.toNat] d.toNat (fun x => (x.arg 0 >>> pos (x.arg 1)) &&& mask (x.arg 1)) ∧
    Gives (.bfe d a b) [a.toNat, b.toNat] d.toNat (fun x =>
      (((x.arg 0 >>> pos (x.arg 1)) &&& mask (x.arg 1)).setWidth (len (x.arg 1))).signExtend 32) ∧
    Gives (.bfi d a b) [a.toNat, b.toNat, d.toNat] d.toNat (fun x =>
      (x.arg 2 &&& ~~~(mask (x.arg 1) <<< pos (x.arg 1))) ||| ((x.arg 0 &&& mask (x.arg 1)) <<< pos (x.arg 1)))

/-- ICMP writes its predicate in each fibre of the batch with the integer compare codes of SCMP; D[6:3] nonzero gives trap 0x01, and cc 10 to
15 gives trap 0x03 (05_vector_scalar R99, R91). -/
def Obligations.IntegerCompareWords : Prop :=
  ∀ (p : PReg) (a b : VReg),
    let compares (c : ICc) (f : Word → Word → Bool) : Prop :=
      SetsPreds (.icmp p a b c) [a.toNat, b.toNat] fun _ x => ([(p, f (x.arg 0) (x.arg 1))], 0)
    compares .eq (fun x y => x == y) ∧ compares .ne (fun x y => x != y) ∧
    compares .lt (fun x y => decide (x.toInt < y.toInt)) ∧ compares .le (fun x y => decide (x.toInt ≤ y.toInt)) ∧
    compares .gt (fun x y => decide (y.toInt < x.toInt)) ∧ compares .ge (fun x y => decide (y.toInt ≤ x.toInt)) ∧
    compares .ltu (fun x y => decide (x.toNat < y.toNat)) ∧ compares .leu (fun x y => decide (x.toNat ≤ y.toNat)) ∧
    compares .gtu (fun x y => decide (y.toNat < x.toNat)) ∧ compares .geu (fun x y => decide (y.toNat ≤ x.toNat)) ∧
    (∀ w < 2 ^ 32, w / 2 ^ 25 % 64 = 0x0F →
      (w / 2 ^ 21 % 16 ≠ 0 → decode w = .error .illegal) ∧ (w / 2 ^ 21 % 16 = 0 → 10 ≤ w % 16 → decode w = .error .reserved)) ∧
    DecodeTrap.illegal.code = 0x01 ∧ DecodeTrap.reserved.code = 0x03
end

