-- ==== Sys2Proof/Laws/Map.lean ====
section
/-! SUPPORT. The laws of sparse tables and of memories: what a read gives after a write, and the canonical form of a memory. -/

namespace Sys2Proof

/-! ## Tables -/

@[simp] theorem Map.look_nil {α : Type} (k : Nat) : Map.look ([] : Map α) k = none := rfl

/-- A key that has been put reads as what was put, and every other key as before. -/
theorem Map.look_put {α : Type} (m : Map α) (k j : Nat) (x : α) :
    (Map.put m k x).look j = if j = k then some x else m.look j := by
  induction m with
  | nil => simp only [Map.put, Map.look, eq_comm]
  | cons p t ih =>
    obtain ⟨a, y⟩ := p
    simp only [Map.put]
    split
    · simp only [Map.look, eq_comm]
    · split
      · rename_i hk
        subst hk
        simp only [Map.look]
        by_cases hj : a = j
        · rw [if_pos hj, if_pos hj.symm]
        · rw [if_neg hj, if_neg (Ne.symm hj), if_neg hj]
      · rename_i hk
        simp only [Map.look, ih]
        by_cases hj : a = j
        · rw [if_pos hj, if_pos hj, if_neg fun h => hk (hj.trans h)]
        · rw [if_neg hj, if_neg hj]

@[simp] theorem Map.look_put_self {α : Type} (m : Map α) (k : Nat) (x : α) : (Map.put m k x).look k = some x := by
  simp [Map.look_put]

/-- A key that has been removed is absent, and every other key reads as before. -/
theorem Map.look_del {α : Type} (m : Map α) (k j : Nat) : (Map.del m k).look j = if j = k then none else m.look j := by
  induction m with
  | nil => simp [Map.del, Map.look]
  | cons p t ih =>
    obtain ⟨a, y⟩ := p
    simp only [Map.del, List.filter_cons] at ih ⊢
    by_cases h : a = k
    · subst h
      simp only [bne_self_eq_false, Bool.false_eq_true, if_false, ih, Map.look]
      by_cases hj : j = a
      · simp [hj]
      · simp [hj, Ne.symm hj]
    · simp only [bne_iff_ne, ne_eq, h, not_false_eq_true, if_true, Map.look, ih]
      by_cases hj : a = j
      · subst hj; simp [h]
      · simp [hj]

/-- A table with a changed entry reads as before but for that entry. -/
theorem Map.look_modify {α : Type} (m : Map α) (k j : Nat) (f : α → α) :
    (Map.modify m k f).look j = if j = k then (m.look k).map f else m.look j := by
  unfold Map.modify
  cases h : m.look k with
  | none => by_cases hj : j = k <;> simp_all
  | some x => by_cases hj : j = k <;> simp_all [Map.look_put]

/-- A stored key reads as what was stored, and every other key as before. -/
theorem Map.get_store {α : Type} [DecidableEq α] (m : Map α) (k j : Nat) (x d : α) :
    (Map.store m k x d).get j d = if j = k then x else m.get j d := by
  unfold Map.store Map.get
  by_cases h : x = d <;> by_cases hj : j = k <;> simp [h, hj, Map.look_del, Map.look_put]

/-! ## The canonical form of a memory -/

namespace Machine

/-- The canonical form in words: addresses strictly rising, and no zero byte listed. -/
theorem Memory.wf_iff (m : List Host.Cell) :
    Memory.wf m = true ↔ m.Pairwise (fun p q => p.1 < q.1) ∧ ∀ p ∈ m, p.2 ≠ 0 := by
  induction m with
  | nil => simp [Memory.wf]
  | cons p t ih =>
    obtain ⟨a, b⟩ := p
    cases t with
    | nil => simp [Memory.wf]
    | cons q u =>
      obtain ⟨a', b'⟩ := q
      simp only [Memory.wf, Bool.and_eq_true, bne_iff_ne, ne_eq, decide_eq_true_eq, ih, List.pairwise_cons, List.mem_cons,
        forall_eq_or_imp]
      constructor
      · rintro ⟨⟨h0, h1⟩, ⟨h2, h3⟩, h4, h5⟩
        exact ⟨⟨⟨h1, fun z hz => lt_trans h1 (h2 z hz)⟩, h2, h3⟩, h0, h4, h5⟩
      · rintro ⟨⟨⟨h1, -⟩, h2, h3⟩, h0, h4, h5⟩
        exact ⟨⟨h0, h1⟩, ⟨h2, h3⟩, h4, h5⟩

theorem Memory.mem_put (m : List Host.Cell) (k : Nat) (x : Byte) (p : Host.Cell) (h : p ∈ Map.put m k x) : p = (k, x) ∨ p ∈ m := by
  induction m with
  | nil => simpa [Map.put] using h
  | cons q t ih =>
    obtain ⟨a, y⟩ := q
    simp only [Map.put] at h
    split at h
    · simpa using h
    · split at h
      · rcases List.mem_cons.1 h with h | h
        · exact .inl h
        · exact .inr (List.mem_cons_of_mem _ h)
      · rcases List.mem_cons.1 h with h | h
        · exact .inr (h ▸ List.mem_cons_self ..)
        · exact (ih h).imp id (List.mem_cons_of_mem _)

theorem Memory.pairwise_put (m : List Host.Cell) (k : Nat) (x : Byte) (h : m.Pairwise fun p q => p.1 < q.1) :
    (Map.put m k x).Pairwise fun p q => p.1 < q.1 := by
  induction m with
  | nil => simp [Map.put]
  | cons q t ih =>
    obtain ⟨a, y⟩ := q
    obtain ⟨h1, h2⟩ := List.pairwise_cons.1 h
    simp only [Map.put]
    split
    · rename_i hk
      exact List.pairwise_cons.2 ⟨fun z hz => by
        rcases List.mem_cons.1 hz with rfl | hz
        · exact hk
        · exact lt_trans hk (h1 z hz), h⟩
    · split
      · rename_i hk; subst hk
        exact List.pairwise_cons.2 ⟨h1, h2⟩
      · rename_i h3 h4
        refine List.pairwise_cons.2 ⟨fun z hz => ?_, ih h2⟩
        rcases Memory.mem_put t k x z hz with rfl | hz
        · show a < k
          omega
        · exact h1 z hz

/-- A write of one byte keeps the canonical form. -/
theorem Memory.wf_write (m : List Host.Cell) (a : Nat) (b : Byte) (h : Memory.wf m = true) : Memory.wf (Memory.write m a b) = true := by
  rw [Memory.wf_iff] at h ⊢
  unfold Memory.write Map.store
  split
  · exact ⟨h.1.filter _, fun p hp => h.2 p (List.mem_of_mem_filter hp)⟩
  · rename_i hb
    refine ⟨Memory.pairwise_put m a b h.1, fun p hp => ?_⟩
    rcases Memory.mem_put m a b p hp with rfl | hp
    · exact hb
    · exact h.2 p hp

/-- A write of several bytes keeps the canonical form. -/
theorem Memory.wf_writes (bs : List Byte) (m : List Host.Cell) (a : Nat) (h : Memory.wf m = true) :
    Memory.wf (Memory.writes m a bs) = true := by
  induction bs generalizing m a with
  | nil => exact h
  | cons b t ih => exact ih _ _ (Memory.wf_write m a b h)

/-- A byte reads as what was last written to it, and every other byte as before. -/
theorem Memory.read_write (m : List Host.Cell) (a c : Nat) (b : Byte) :
    Memory.read (Memory.write m a b) c = if c = a then b else Memory.read m c :=
  Map.get_store m a c b 0

/-- After a write of several bytes each of them reads as written, and every other byte as before. -/
theorem Memory.read_writes (bs : List Byte) (m : List Host.Cell) (a c : Nat) :
    Memory.read (Memory.writes m a bs) c = if a ≤ c ∧ c < a + bs.length then bs.getD (c - a) 0 else Memory.read m c := by
  induction bs generalizing m a with
  | nil => simp [Memory.writes]
  | cons b t ih =>
    simp only [Memory.writes, ih, Memory.read_write, List.length_cons]
    by_cases hc : c = a
    · subst hc; simp
    · by_cases h1 : a + 1 ≤ c ∧ c < a + 1 + t.length
      · have h2 : a ≤ c ∧ c < a + (t.length + 1) := by omega
        obtain ⟨n, hn⟩ : ∃ n, c - a = n + 1 := ⟨c - a - 1, by omega⟩
        have h3 : c - (a + 1) = n := by omega
        simp [h1, h2, hn, h3]
      · have h2 : ¬ (a ≤ c ∧ c < a + (t.length + 1)) := by omega
        rw [if_neg h1, if_neg h2, if_neg hc]

end Machine

end Sys2Proof
end

