-- ==== Sys2Proof/Laws/Words.lean ====
section
/-! SUPPORT. What the shared forms of the words can do: a word that issues, a word that reads fields, and the words that write
registers or predicates in the fibres of their batch. -/

namespace Sys2Proof

open Machine

/-! ## A word that issues -/

/-- A word that issues ends with its outcome. -/
theorem runWord_eq {s : State} {k : Nat} {r w : Wave} (h : Issues s k r w) (f : Nat → Wave → Wave → Res) :
    runWord s f = .next (wordEnds s k r (f k r w)) := by
  unfold Issues at h
  unfold runWord wordEnds
  rw [h]
  cases s.issue.pre <;> rfl

/-- A word never refuses, and faults only where no wave issues. -/
theorem runWord_stops (s : State) (f : Nat → Wave → Wave → Res) :
    (∃ t, runWord s f = .next t) ∨ (issuing s = none ∧ runWord s f = .fault .noIssuingWave) := by
  cases h : issuing s with
  | none => exact .inr ⟨rfl, by unfold runWord; rw [h]⟩
  | some p => exact .inl ⟨_, runWord_eq (k := p.1) (r := p.2.1) (w := p.2.2) h f⟩

/-- A step of the device answers a next state: its effect when it is due, else the state as it was. -/
theorem runEvent_eq (s : State) (e : Ev) (due : Bool) (eff : State → State) :
    runEvent s e due eff = .next (if due = true then eff { s with pending := s.pending.erase e } else s) := by
  unfold runEvent
  cases due <;> rfl

/-- A word whose fields are read goes on with the values of its fibres. -/
theorem readWord_eq {s : State} {k : Nat} {r w w1 : Wave} {chk : Wave → Option Trap} {srcs : List Nat} {vals : Map (Map Word)}
    (h : FieldsRead s k r w (chk r) srcs vals w1) (f : Nat → Wave → Wave → List LaneIn → Res) :
    readWord s chk srcs f = .next (wordEnds s k r (f k r w1 (inputs s r vals srcs))) := by
  obtain ⟨h1, h2, h3⟩ := h
  unfold readWord readWordFrom
  rw [runWord_eq h1]
  simp only [h2, h3]
  rfl

/-- A word of the S pipe writes its wave. -/
theorem uniWord_eq {s : State} {k : Nat} {r w : Wave} (h : Issues s k r w) (f : Wave → Wave → Wave) :
    uniWord s f = .next (wordEnds s k r (.ok (s.setWave k (f r w)))) := runWord_eq h _

/-- A word of the S pipe that writes one uniform register. -/
theorem givesUniform_of {i : Instr} {d : SReg} {g : Wave → Word}
    (h : ∀ s, exec i s = uniWord s fun r w => setSreg w d.toNat (g r)) : GivesUniform i d g := by
  intro s k r w hi
  unfold Completes
  rw [h, uniWord_eq hi]
  rfl

/-! ## Writes of registers -/

theorem setVregs_frame (lane : Nat) (f : Fibre) (xs : List Word) (w : Wave) (v : Nat) :
    ∃ (V : Map Word) (O : List MemOp), setVregs w lane f v xs = { w with vregs := V, ops := O } ∧ OpsAlike O w.ops ∧
      (∀ j < xs.length, V.get (physKey lane (f.base + (v + j))) 0 = nth xs j) ∧
      ∀ m, (∀ j < xs.length, m ≠ physKey lane (f.base + (v + j))) → V.get m 0 = w.vregs.get m 0 := by
  induction xs generalizing w v with
  | nil => exact ⟨w.vregs, w.ops, rfl, rfl, fun j hj => absurd hj (Nat.not_lt_zero j), fun _ _ => rfl⟩
  | cons x t ih =>
    obtain ⟨V, O, h1, h2, h3, h4⟩ := ih (setVreg w lane f v x) (v + 1)
    refine ⟨V, O, ?_, ?_, ?_, ?_⟩
    · rw [setVregs, h1]
      rfl
    · refine Eq.trans h2 ?_
      simp only [setVreg, writePhys, List.map_map]
      apply List.map_congr_left
      intro o _
      simp only [Function.comp, MemOp.clobber]
    · intro j hj
      cases j with
      | zero =>
        rw [h4]
        · simp only [setVreg, writePhys, Map.get_store, Nat.add_zero, if_true]
          rfl
        · intro j _ he
          simp only [physKey] at he
          omega
      | succ j =>
        have := h3 j (by simpa using hj)
        rw [show v + (j + 1) = v + 1 + j by omega, this]
        simp [nth]
    · intro m hm
      rw [h4]
      · simp only [setVreg, writePhys, Map.get_store]
        rw [if_neg]
        simpa using hm 0 (by simp)
      · intro j hj he
        exact hm (j + 1) (by simpa using hj) (by rw [he, show v + 1 + j = v + (j + 1) by omega])

/-- What a word leaves when it writes a run of registers in some lane slots, each once. -/
theorem writeLanes_regs (d : Nat) (hd : d < 124) (outs : List (LaneIn × LaneOut)) (n : Nat) (w : Wave)
    (hp : ∀ o ∈ outs, o.2.preds = []) (hn : ∀ o ∈ outs, o.2.regs.length = n)
    (hb : ∀ o ∈ outs, o.1.fibre.base + (d + n) ≤ 4096) (hl : outs.Pairwise fun a b => a.1.lane ≠ b.1.lane) :
    ∃ (V : Map Word) (O : List MemOp), writeLanes w d outs = { w with vregs := V, ops := O } ∧ OpsAlike O w.ops ∧
      (∀ o ∈ outs, ∀ j < n, V.get (physKey o.1.lane (o.1.fibre.base + (d + j))) 0 = nth o.2.regs j) ∧
      ∀ m, (∀ o ∈ outs, ∀ j < n, m ≠ physKey o.1.lane (o.1.fibre.base + (d + j))) → V.get m 0 = w.vregs.get m 0 := by
  induction outs generalizing w with
  | nil => exact ⟨w.vregs, w.ops, rfl, rfl, fun o ho => absurd ho (by simp), fun _ _ => rfl⟩
  | cons o t ih =>
    obtain ⟨hl1, hl2⟩ := List.pairwise_cons.1 hl
    obtain ⟨V1, O1, e1, a1, r1, f1⟩ := setVregs_frame o.1.lane o.1.fibre o.2.regs w d
    obtain ⟨V, O, e, a, rr, ff⟩ := ih { w with vregs := V1, ops := O1 } (fun p hp' => hp p (List.mem_cons_of_mem _ hp'))
      (fun p hp' => hn p (List.mem_cons_of_mem _ hp')) (fun p hp' => hb p (List.mem_cons_of_mem _ hp')) hl2
    have ho : o.2.preds = [] := hp o (List.mem_cons_self ..)
    have hno : o.2.regs.length = n := hn o (List.mem_cons_self ..)
    refine ⟨V, O, ?_, a.trans a1, ?_, ?_⟩
    · have : writeLanes w d (o :: t) = writeLanes (setVregs w o.1.lane o.1.fibre d o.2.regs) d t := by
        simp only [writeLanes, List.foldl_cons, if_pos hd, ho, List.isEmpty_nil, if_true]
      rw [this, e1, e]
    · intro p hp' j hj
      rcases List.mem_cons.1 hp' with rfl | hp'
      · rw [ff]
        · exact r1 j (hno ▸ hj)
        · intro q hq i hi he
          have h1 := hb p (List.mem_cons_self ..)
          have h2 := hb q (List.mem_cons_of_mem _ hq)
          have h3 := hl1 q hq
          simp only [physKey] at he
          omega
      · exact rr p hp' j hj
    · intro m hm
      rw [ff m fun p hp' => hm p (List.mem_cons_of_mem _ hp')]
      exact f1 m fun j hj => hm o (List.mem_cons_self ..) j (hno ▸ hj)

/-- A word whose destination is a port writes no register. -/
theorem writeLanes_port (d : Nat) (hd : ¬ d < 124) (outs : List (LaneIn × LaneOut)) (w : Wave) (hp : ∀ o ∈ outs, o.2.preds = []) :
    writeLanes w d outs = w := by
  induction outs generalizing w with
  | nil => rfl
  | cons o t ih =>
    have : writeLanes w d (o :: t) = writeLanes w d t := by
      simp only [writeLanes, List.foldl_cons, if_neg hd, hp o (List.mem_cons_self ..), List.isEmpty_nil, if_true]
    rw [this, ih w fun q hq => hp q (List.mem_cons_of_mem _ hq)]

/-- What a word leaves when it writes predicates in some lane slots, each once. -/
theorem writeLanes_preds (outs : List (LaneIn × LaneOut)) (w : Wave) (hr : ∀ o ∈ outs, o.2.regs = [])
    (hl : outs.Pairwise fun a b => a.1.lane ≠ b.1.lane) :
    ∃ F : Map Fibre, writeLanes w 0 outs = { w with fibres := F } ∧
      (∀ o ∈ outs, F.look o.1.lane = (w.fibres.look o.1.lane).map fun f =>
        { f with preds := o.2.preds.foldl (fun a p => setPred a p.1 p.2) f.preds }) ∧
      ∀ l, (∀ o ∈ outs, o.1.lane ≠ l) → F.look l = w.fibres.look l := by
  induction outs generalizing w with
  | nil => exact ⟨w.fibres, rfl, fun o ho => absurd ho (by simp), fun _ _ => rfl⟩
  | cons o t ih =>
    obtain ⟨hl1, hl2⟩ := List.pairwise_cons.1 hl
    have hstep : ∃ F1 : Map Fibre, writeLanes w 0 (o :: t) = writeLanes { w with fibres := F1 } 0 t ∧
        ∀ l, F1.look l = if l = o.1.lane then (w.fibres.look o.1.lane).map (fun f =>
          { f with preds := o.2.preds.foldl (fun a p => setPred a p.1 p.2) f.preds }) else w.fibres.look l := by
      cases hp : o.2.preds with
      | nil =>
        refine ⟨w.fibres, ?_, ?_⟩
        · simp only [writeLanes, List.foldl_cons, hr o (List.mem_cons_self ..), hp, List.isEmpty_nil, if_true]
          rfl
        · intro l
          by_cases h : l = o.1.lane
          · subst h; simp
          · simp [h]
      | cons a b =>
        refine ⟨w.fibres.modify o.1.lane fun f =>
          { f with preds := (a :: b).foldl (fun a p => setPred a p.1 p.2) f.preds }, ?_, fun l => Map.look_modify _ _ _ _⟩
        simp only [writeLanes, List.foldl_cons, hr o (List.mem_cons_self ..), hp, List.isEmpty_cons, Bool.false_eq_true, if_false]
        rfl
    obtain ⟨F1, e1, l1⟩ := hstep
    obtain ⟨F, e, h1, h2⟩ := ih { w with fibres := F1 } (fun q hq => hr q (List.mem_cons_of_mem _ hq)) hl2
    refine ⟨F, e1.trans e, ?_, ?_⟩
    · intro q hq
      rcases List.mem_cons.1 hq with rfl | hq
      · rw [h2 _ fun p hp => (hl1 p hp).symm, l1, if_pos rfl]
      · rw [h1 q hq, l1, if_neg (hl1 q hq).symm]
    · intro l h
      rw [h2 l fun p hp => h p (List.mem_cons_of_mem _ hp), l1, if_neg (h o (List.mem_cons_self ..)).symm]

/-- Register fields that pass the checks lie in the window of each fibre of the batch. -/
theorem portCheck_inWindow {r : Wave} {srcs dsts : List Nat} (h : portCheck r srcs dsts = none) (p : Nat × Fibre)
    (hp : p ∈ fibresOf r (batch r)) (v : Nat) (hv : v ∈ srcs ++ dsts) (h124 : v < 124) : inWindow r p.2 v = true := by
  unfold portCheck at h
  by_contra hc
  have hmem : p.1 ∈ ((fibresOf r (batch r)).filter fun p =>
      (srcs ++ dsts).any fun v => decide (v < 124) && !inWindow r p.2 v).map Prod.fst := by
    refine List.mem_map.2 ⟨p, List.mem_filter.2 ⟨hp, ?_⟩, rfl⟩
    exact List.any_eq_true.2 ⟨v, hv, by simp [h124, hc]⟩
  simp only [] at h
  split at h
  · cases h
  · rename_i hne
    rw [Bool.not_eq_true, Bool.not_eq_false', List.isEmpty_iff] at hne
    rw [hne] at hmem
    exact absurd hmem (by simp)

theorem inputs_pairwise {s : State} {r : Wave} {vals : Map (Map Word)} {srcs : List Nat} (h : Ordered r) :
    (inputs s r vals srcs).Pairwise fun a b => a.lane ≠ b.lane := by
  unfold inputs fibresOf
  rw [List.pairwise_map]
  exact (h.1.filter _).imp fun hab => Nat.ne_of_lt hab

/-- A word that computes in each fibre of its batch computes a run of registers there and changes nothing else. -/
theorem computesRun_of {i : Instr} {chk : Wave → Option Trap} {srcs : List Nat} {d n : Nat}
    {f : State → Wave → List LaneIn → LaneIn → LaneOut} {g : LaneFn} (h : ∀ s, exec i s = vecRun s chk srcs (some d) (f s))
    (hf : ∀ s r ins x, f s r ins x = { regs := (g s r ins x).1, preds := [], conds := (g s r ins x).2 })
    (hn : ∀ s r ins x, (g s r ins x).1.length = n)
    (hc : d < 124 → ∀ r, Ordered r → chk r = none → ∀ p ∈ fibresOf r (batch r), p.2.base + (d + n) ≤ 4096) :
    ComputesRun i chk srcs d n g := by
  intro s k r w vals w1 hr ho
  have hex : exec i s = .next (wordEnds s k r _) := (h s).trans (readWord_eq hr _)
  have hconds : (((inputs s r vals srcs).map fun x => (x, f s r (inputs s r vals srcs) x)).filter fun o => o.2.conds != 0).map
      (fun o => (o.1.lane, o.2.conds)) = raisedBy (inputs s r vals srcs) fun x => (g s r (inputs s r vals srcs) x).2 := by
    simp only [raisedBy, List.filter_map, List.map_map]
    simp only [Function.comp_def, hf]
  have hvals : ((inputs s r vals srcs).map fun x => (x, f s r (inputs s r vals srcs) x)).map (fun o => (o.1.lane, nth o.2.regs 0)) =
      (inputs s r vals srcs).map fun x => (x.lane, nth (g s r (inputs s r vals srcs) x).1 0) := by
    simp only [List.map_map, Function.comp_def, hf]
  refine ⟨fun hd => ?_, fun q t hq h2 h3 hpush => ?_⟩
  · obtain ⟨V, O, e, a, rr, ff⟩ := writeLanes_regs d hd
      ((inputs s r vals srcs).map fun x => (x, f s r (inputs s r vals srcs) x)) n w1
      (by simp [hf]) (by simp [hf, hn])
      (by
        simp only [List.mem_map, forall_exists_index, and_imp, forall_apply_eq_imp_iff₂]
        intro x hx
        obtain ⟨p, hp, rfl⟩ := List.mem_map.1 hx
        exact hc hd r ho hr.2.1 p hp)
      (by
        rw [List.pairwise_map]
        exact inputs_pairwise ho)
    refine ⟨V, O, a, ?_, ?_, ?_⟩
    · unfold Completes
      rw [hex]
      have h126 : d ≠ 126 := by omega
      have h127 : d ≠ 127 := by omega
      simp only [Option.getD_some, reduceCtorEq, if_false, e, hconds]
      split
      · rename_i hd'; exact absurd (Option.some.inj hd') h126
      · rename_i hd'; exact absurd (Option.some.inj hd') h127
      · rfl
    · intro x hx j hj
      have := rr _ (List.mem_map.2 ⟨x, hx, rfl⟩) j hj
      simpa only [hf] using this
    · intro m hm
      refine ff m ?_
      simp only [List.mem_map, forall_exists_index, and_imp, forall_apply_eq_imp_iff₂]
      exact hm
  · have hw : writeLanes w1 d ((inputs s r vals srcs).map fun x => (x, f s r (inputs s r vals srcs) x)) = w1 :=
      writeLanes_port d (by omega) _ w1 (by simp [hf])
    unfold Completes
    rw [hex]
    obtain rfl | rfl : q = 2 ∨ q = 3 := by omega
    · subst hq
      simp only [Option.getD_some, reduceCtorEq, if_false, hw, hconds, hvals]
      exact congrArg (fun x => Host.Outcome.next (wordEnds s k r x)) hpush
    · subst hq
      simp only [Option.getD_some, reduceCtorEq, if_false, hw, hconds, hvals]
      exact congrArg (fun x => Host.Outcome.next (wordEnds s k r x)) hpush

/-- A word that writes one register from register fields. -/
theorem computes_of {i : Instr} {srcs : List Nat} {d : Nat} {f : State → Wave → List LaneIn → LaneIn → LaneOut}
    {g : State → Wave → List LaneIn → LaneIn → Word × Conds} (h : ∀ s, exec i s = vecWord s srcs [d] (some d) (f s))
    (hf : ∀ s r ins x, f s r ins x = { regs := [(g s r ins x).1], preds := [], conds := (g s r ins x).2 }) :
    Computes i srcs d g := by
  refine computesRun_of (f := f) h hf (fun _ _ _ _ => rfl) ?_
  intro hd r ho hc p hp
  have hw := portCheck_inWindow hc p hp d (by simp) hd
  simp only [inWindow, Bool.and_eq_true, decide_eq_true_eq] at hw
  have := ho.2
  omega

/-- The words of one result that compute fibre by fibre. -/
theorem gives_lane {i : Instr} {d : VReg} {srcs : List VReg} {g : LaneIn → Word}
    (h : ∀ s, exec i s = laneWord s srcs d fun x => x.reg (g x)) : Gives i (srcs.map BitVec.toNat) d.toNat g :=
  computes_of (f := fun _ _ _ x => x.reg (g x)) h fun _ _ _ _ => rfl

theorem givesFlag_lane {i : Instr} {d : VReg} {srcs : List VReg} {g : LaneIn → Word × Conds}
    (h : ∀ s, exec i s = laneWord s srcs d fun x => x.flag (g x)) : GivesFlag i (srcs.map BitVec.toNat) d.toNat g :=
  computes_of (f := fun _ _ _ x => x.flag (g x)) h fun _ _ _ _ => rfl

theorem givesFloat_lane {i : Instr} {d : VReg} {srcs : List VReg} {g : LaneIn → FRes}
    (h : ∀ s, exec i s = laneWord s srcs d fun x => x.out (g x)) : GivesFloat i (srcs.map BitVec.toNat) d.toNat g :=
  computes_of (f := fun _ _ _ x => x.out (g x)) h fun _ _ _ _ => rfl

/-- The words that also read their destination. -/
theorem gives_acc {i : Instr} {d : VReg} {srcs : List VReg} {g : LaneIn → Word}
    (h : ∀ s, exec i s = laneAcc s srcs d fun x => x.reg (g x)) : Gives i (srcs.map BitVec.toNat ++ [d.toNat]) d.toNat g :=
  computes_of (f := fun _ _ _ x => x.reg (g x)) h fun _ _ _ _ => rfl

theorem givesFlag_acc {i : Instr} {d : VReg} {srcs : List VReg} {g : LaneIn → Word × Conds}
    (h : ∀ s, exec i s = laneAcc s srcs d fun x => x.flag (g x)) : GivesFlag i (srcs.map BitVec.toNat ++ [d.toNat]) d.toNat g :=
  computes_of (f := fun _ _ _ x => x.flag (g x)) h fun _ _ _ _ => rfl

theorem givesFloat_acc {i : Instr} {d : VReg} {srcs : List VReg} {g : LaneIn → FRes}
    (h : ∀ s, exec i s = laneAcc s srcs d fun x => x.out (g x)) : GivesFloat i (srcs.map BitVec.toNat ++ [d.toNat]) d.toNat g :=
  computes_of (f := fun _ _ _ x => x.out (g x)) h fun _ _ _ _ => rfl

/-- A word that writes predicates of its batch. -/
theorem setsPreds_of {i : Instr} {srcs : List Nat} {f : State → Wave → List LaneIn → LaneIn → LaneOut}
    {g : List LaneIn → LaneIn → List (PReg × Bool) × Conds} (h : ∀ s, exec i s = vecWord s srcs [] none (f s))
    (hf : ∀ s r ins x, f s r ins x = { regs := [], preds := (g ins x).1, conds := (g ins x).2 }) :
    SetsPreds i srcs g := by
  have h' : ∀ s, exec i s = vecRun s (fun r => portCheck r srcs []) srcs none (f s) := h
  intro s k r w vals w1 hr ho
  have hex : exec i s = .next (wordEnds s k r _) :=
    (h' s).trans (readWord_eq (chk := fun r => portCheck r srcs []) hr _)
  have hconds : (((inputs s r vals srcs).map fun x => (x, f s r (inputs s r vals srcs) x)).filter fun o => o.2.conds != 0).map
      (fun o => (o.1.lane, o.2.conds)) = raisedBy (inputs s r vals srcs) fun x => (g (inputs s r vals srcs) x).2 := by
    simp only [raisedBy, List.filter_map, List.map_map]
    simp only [Function.comp_def, hf]
  obtain ⟨F, e, h1, h2⟩ := writeLanes_preds
    ((inputs s r vals srcs).map fun x => (x, f s r (inputs s r vals srcs) x)) w1 (by simp [hf])
    (by
      rw [List.pairwise_map]
      exact inputs_pairwise ho)
  refine ⟨F, ?_, ?_, ?_⟩
  · unfold Completes
    rw [hex]
    have hm : ((inputs s r vals srcs).map fun x => (x, f s r (inputs s r vals srcs) x)).map
        (fun o => (o.1, ({ o.2 with regs := [] } : LaneOut))) =
        (inputs s r vals srcs).map fun x => (x, f s r (inputs s r vals srcs) x) := by
      simp only [List.map_map]
      apply List.map_congr_left
      intro x _
      simp only [Function.comp, hf]
    simp only [Option.getD_none, if_true, hm, e, hconds]
    rfl
  · intro x hx
    have := h1 _ (List.mem_map.2 ⟨x, hx, rfl⟩)
    simpa only [hf] using this
  · intro l hl
    refine h2 l ?_
    simpa using hl

end Sys2Proof
end

