-- ==== Sys2Proof/Laws/Access.lean ====
section
/-! SUPPORT. What the shared forms of memory words, copy words, tile words and device steps can do. -/

namespace Sys2Proof

open Machine

/-! ## Checks that pass -/

/-- Where every check of a list of accesses passes, nothing fails and nothing waits. -/
theorem tries_pass {ts : List Try} (h : ∀ t ∈ ts, t.access.isSome = true) :
    ts.filterMap Try.failure = [] ∧ ts.filterMap Try.waiting = [] := by
  refine ⟨List.filterMap_eq_nil_iff.2 fun t ht => ?_, List.filterMap_eq_nil_iff.2 fun t ht => ?_⟩ <;>
    · have := h t ht
      cases t <;> simp_all [Try.access, Try.failure, Try.waiting]

/-- A memory word whose accesses pass their checks leaves its operation outstanding. -/
theorem issueOp_eq {s : State} {k : Nat} {r w : Wave} {cls : Option OpCls} {kind : OpKind} {acq rel : Option Scope} {ts : List Try}
    (h : AccessesPass r cls ts) :
    issueOp s k r w cls kind acq rel ts = .ok (enterOp s k r w cls kind acq rel (ts.filterMap Try.access)) := by
  obtain ⟨hf, hw⟩ := tries_pass h.2
  unfold issueOp
  cases cls with
  | none => simp only [hf, hw]; rfl
  | some c => simp only [h.1 c rfl, hf, hw]; rfl

/-- A word whose pages are open goes on with them. -/
theorem withPages_eq {s : State} {r : Wave} {vas : List (Nat × Access)} {pages : Map PageAt} (h : PagesOpen s r vas pages)
    (f : Map PageAt → Res) : withPages s r vas f = f pages := by
  obtain ⟨ht, hp⟩ := h
  obtain ⟨hf, hw⟩ := tries_pass ht
  unfold withPages
  simp only [hf, hw, mergeFails, least, List.eraseDups_nil]
  rw [hp]

/-- Checks that all hold give no trap. -/
theorem chkTrap_none {r : Wave} {xs : List Chk} (h : ∀ c ∈ xs, c.1 = false) : chkTrap r xs = none := by
  have : xs.filter (fun p => p.1) = [] := List.filter_eq_nil_iff.2 fun c hc => by simp [h c hc]
  unfold chkTrap
  rw [this]
  rfl

/-- A copy that is ready is put under way. -/
theorem issueCopy_eq {s : State} {k : Nat} {r w : Wave} {x : Bool} {p : Plan} {pages : Map PageAt} (h : CopyReady s r x p pages) :
    issueCopy s k r w x p = .ok (copying s k r w x p pages) := by
  obtain ⟨h1, h2, h3, h4, h5⟩ := h
  have hc : ∀ c ∈ commonChecks s r p.desc x p.cbOk ++ slotCheck s r p.desc p :: sectorCheck p.bytes :: p.low ++ p.high ++ destCheck s r p.desc p, c.1 = false :=
    fun c hc => h4 c (List.mem_append_left _ hc)
  unfold issueCopy
  simp only [h1, h2, Bool.or_self, Bool.false_eq_true, if_false]
  rw [chkTrap_none fun c hm => hc c (List.mem_filter.1 hm).1]
  simp only [withPages_eq h3]
  rw [chkTrap_none h4]
  simp only [h5, Bool.not_true, Bool.false_eq_true, if_false]
  rfl

/-- A tile word that has room and passes its checks goes on. -/
theorem tileWord_eq {s : State} {k : Nat} {r w : Wave} {counted : Bool} {chk : Wave → Option Trap} (hi : Issues s k r w)
    (hr : TileRoom s r counted) (hc : chk r = none) (f : Nat → Wave → Wave → Res) :
    tileWord s counted chk f = .next (wordEnds s k r (f k r w)) := by
  unfold tileWord
  rw [runWord_eq hi]
  have : (counted && classFull r .tl) = false := by
    cases hcnt : counted with
    | false => rfl
    | true => rw [hr.2 hcnt]; rfl
  simp only [hr.1, this, Bool.or_self, Bool.false_eq_true, if_false, hc]

/-- Checks of a tile word that all hold give no trap. -/
theorem lowestFail_none {r : Wave} {xs : List (Bool × Nat)} (h : ∀ c ∈ xs, c.1 = false) : lowestFail r xs = none := by
  have : xs.filter (fun p => p.1) = [] := List.filter_eq_nil_iff.2 fun c hc => by simp [h c hc]
  unfold lowestFail
  rw [this]
  rfl

/-! ## Steps of the device -/

/-- A step of the device that is due has its effect. -/
theorem acts_of {i : Instr} {e : Ev} {s : State} {due : Bool} {eff f : State → State} (hx : exec i s = runEvent s e due eff)
    (hd : due = true) (hf : eff { s with pending := s.pending.erase e } = f { s with pending := s.pending.erase e }) : Acts i e s f := by
  unfold Acts
  rw [hx, runEvent_eq, if_pos hd, hf]

/-- A step of the device that is not due leaves the state as it was. -/
theorem idles_of {i : Instr} {e : Ev} {s : State} {due : Bool} {eff : State → State} (hx : exec i s = runEvent s e due eff)
    (hd : due = false) : Idles i s := by
  unfold Idles
  rw [hx, runEvent_eq, hd]
  rfl

end Sys2Proof
end

