-- ==== Sys2Proof/Laws/State.lean ====
section
/-! SUPPORT. What each update of the state changes, field by field, and what it leaves. -/

namespace Sys2Proof.Machine

/-! ## setWave -/

@[simp] theorem State.setWave_dev (s : State) (k : Nat) (w : Wave) : (s.setWave k w).dev = s.dev := rfl

@[simp] theorem State.setWave_ctxs (s : State) (k : Nat) (w : Wave) : (s.setWave k w).ctxs = s.ctxs := rfl

@[simp] theorem State.setWave_mem (s : State) (k : Nat) (w : Wave) : (s.setWave k w).mem = s.mem := rfl

@[simp] theorem State.setWave_base (s : State) (k : Nat) (w : Wave) : (s.setWave k w).base = s.base := rfl

@[simp] theorem State.setWave_issue (s : State) (k : Nat) (w : Wave) : (s.setWave k w).issue = s.issue := rfl

@[simp] theorem State.setWave_pending (s : State) (k : Nat) (w : Wave) : (s.setWave k w).pending = s.pending := rfl

@[simp] theorem State.setWave_turn (s : State) (k : Nat) (w : Wave) : (s.setWave k w).turn = s.turn := rfl

@[simp] theorem State.setWave_tick (s : State) (k : Nat) (w : Wave) : (s.setWave k w).tick = s.tick := rfl

@[simp] theorem State.setWave_launches (s : State) (k : Nat) (w : Wave) : (s.setWave k w).work.launches = s.work.launches := rfl

@[simp] theorem State.setWave_blocks (s : State) (k : Nat) (w : Wave) : (s.setWave k w).work.blocks = s.work.blocks := rfl

@[simp] theorem State.setWave_waves (s : State) (k : Nat) (w : Wave) : (s.setWave k w).work.waves = s.work.waves.put k w := rfl

@[simp] theorem State.setWave_queue (s : State) (k : Nat) (w : Wave) : (s.setWave k w).work.queue = s.work.queue := rfl

@[simp] theorem State.setWave_relaunch (s : State) (k : Nat) (w : Wave) : (s.setWave k w).work.relaunch = s.work.relaunch := rfl

@[simp] theorem State.setWave_gens (s : State) (k : Nat) (w : Wave) : (s.setWave k w).work.gens = s.work.gens := rfl

@[simp] theorem State.setWave_left (s : State) (k : Nat) (w : Wave) : (s.setWave k w).work.left = s.work.left := rfl

@[simp] theorem State.setWave_leftSlabs (s : State) (k : Nat) (w : Wave) : (s.setWave k w).work.leftSlabs = s.work.leftSlabs := rfl

@[simp] theorem State.setWave_forwards (s : State) (k : Nat) (w : Wave) : (s.setWave k w).work.forwards = s.work.forwards := rfl

@[simp] theorem State.setWave_cores (s : State) (k : Nat) (w : Wave) : (s.setWave k w).work.cores = s.work.cores := rfl

@[simp] theorem State.setWave_fetch (s : State) (k : Nat) (w : Wave) : (s.setWave k w).work.fetch = s.work.fetch := rfl

@[simp] theorem State.setWave_copies (s : State) (k : Nat) (w : Wave) : (s.setWave k w).work.copies = s.work.copies := rfl

@[simp] theorem State.setWave_images (s : State) (k : Nat) (w : Wave) : (s.setWave k w).work.images = s.work.images := rfl

@[simp] theorem State.setWave_imageBytes (s : State) (k : Nat) (w : Wave) : (s.setWave k w).work.imageBytes = s.work.imageBytes := rfl

@[simp] theorem State.setWave_nextLaunch (s : State) (k : Nat) (w : Wave) : (s.setWave k w).work.nextLaunch = s.work.nextLaunch := rfl

@[simp] theorem State.setWave_nextBlock (s : State) (k : Nat) (w : Wave) : (s.setWave k w).work.nextBlock = s.work.nextBlock := rfl

@[simp] theorem State.setWave_nextCopy (s : State) (k : Nat) (w : Wave) : (s.setWave k w).work.nextCopy = s.work.nextCopy := rfl

@[simp] theorem State.setWave_nextUid (s : State) (k : Nat) (w : Wave) : (s.setWave k w).work.nextUid = s.work.nextUid := rfl

/-! ## setBlock -/

@[simp] theorem State.setBlock_dev (s : State) (b : Nat) (x : Block) : (s.setBlock b x).dev = s.dev := rfl

@[simp] theorem State.setBlock_ctxs (s : State) (b : Nat) (x : Block) : (s.setBlock b x).ctxs = s.ctxs := rfl

@[simp] theorem State.setBlock_mem (s : State) (b : Nat) (x : Block) : (s.setBlock b x).mem = s.mem := rfl

@[simp] theorem State.setBlock_base (s : State) (b : Nat) (x : Block) : (s.setBlock b x).base = s.base := rfl

@[simp] theorem State.setBlock_issue (s : State) (b : Nat) (x : Block) : (s.setBlock b x).issue = s.issue := rfl

@[simp] theorem State.setBlock_pending (s : State) (b : Nat) (x : Block) : (s.setBlock b x).pending = s.pending := rfl

@[simp] theorem State.setBlock_turn (s : State) (b : Nat) (x : Block) : (s.setBlock b x).turn = s.turn := rfl

@[simp] theorem State.setBlock_tick (s : State) (b : Nat) (x : Block) : (s.setBlock b x).tick = s.tick := rfl

@[simp] theorem State.setBlock_launches (s : State) (b : Nat) (x : Block) : (s.setBlock b x).work.launches = s.work.launches := rfl

@[simp] theorem State.setBlock_blocks (s : State) (b : Nat) (x : Block) : (s.setBlock b x).work.blocks = s.work.blocks.put b x := rfl

@[simp] theorem State.setBlock_waves (s : State) (b : Nat) (x : Block) : (s.setBlock b x).work.waves = s.work.waves := rfl

@[simp] theorem State.setBlock_queue (s : State) (b : Nat) (x : Block) : (s.setBlock b x).work.queue = s.work.queue := rfl

@[simp] theorem State.setBlock_relaunch (s : State) (b : Nat) (x : Block) : (s.setBlock b x).work.relaunch = s.work.relaunch := rfl

@[simp] theorem State.setBlock_gens (s : State) (b : Nat) (x : Block) : (s.setBlock b x).work.gens = s.work.gens := rfl

@[simp] theorem State.setBlock_left (s : State) (b : Nat) (x : Block) : (s.setBlock b x).work.left = s.work.left := rfl

@[simp] theorem State.setBlock_leftSlabs (s : State) (b : Nat) (x : Block) : (s.setBlock b x).work.leftSlabs = s.work.leftSlabs := rfl

@[simp] theorem State.setBlock_forwards (s : State) (b : Nat) (x : Block) : (s.setBlock b x).work.forwards = s.work.forwards := rfl

@[simp] theorem State.setBlock_cores (s : State) (b : Nat) (x : Block) : (s.setBlock b x).work.cores = s.work.cores := rfl

@[simp] theorem State.setBlock_fetch (s : State) (b : Nat) (x : Block) : (s.setBlock b x).work.fetch = s.work.fetch := rfl

@[simp] theorem State.setBlock_copies (s : State) (b : Nat) (x : Block) : (s.setBlock b x).work.copies = s.work.copies := rfl

@[simp] theorem State.setBlock_images (s : State) (b : Nat) (x : Block) : (s.setBlock b x).work.images = s.work.images := rfl

@[simp] theorem State.setBlock_imageBytes (s : State) (b : Nat) (x : Block) : (s.setBlock b x).work.imageBytes = s.work.imageBytes := rfl

@[simp] theorem State.setBlock_nextLaunch (s : State) (b : Nat) (x : Block) : (s.setBlock b x).work.nextLaunch = s.work.nextLaunch := rfl

@[simp] theorem State.setBlock_nextBlock (s : State) (b : Nat) (x : Block) : (s.setBlock b x).work.nextBlock = s.work.nextBlock := rfl

@[simp] theorem State.setBlock_nextCopy (s : State) (b : Nat) (x : Block) : (s.setBlock b x).work.nextCopy = s.work.nextCopy := rfl

@[simp] theorem State.setBlock_nextUid (s : State) (b : Nat) (x : Block) : (s.setBlock b x).work.nextUid = s.work.nextUid := rfl

/-! ## setLaunch -/

@[simp] theorem State.setLaunch_dev (s : State) (l : Nat) (x : Launch) : (s.setLaunch l x).dev = s.dev := rfl

@[simp] theorem State.setLaunch_ctxs (s : State) (l : Nat) (x : Launch) : (s.setLaunch l x).ctxs = s.ctxs := rfl

@[simp] theorem State.setLaunch_mem (s : State) (l : Nat) (x : Launch) : (s.setLaunch l x).mem = s.mem := rfl

@[simp] theorem State.setLaunch_base (s : State) (l : Nat) (x : Launch) : (s.setLaunch l x).base = s.base := rfl

@[simp] theorem State.setLaunch_issue (s : State) (l : Nat) (x : Launch) : (s.setLaunch l x).issue = s.issue := rfl

@[simp] theorem State.setLaunch_pending (s : State) (l : Nat) (x : Launch) : (s.setLaunch l x).pending = s.pending := rfl

@[simp] theorem State.setLaunch_turn (s : State) (l : Nat) (x : Launch) : (s.setLaunch l x).turn = s.turn := rfl

@[simp] theorem State.setLaunch_tick (s : State) (l : Nat) (x : Launch) : (s.setLaunch l x).tick = s.tick := rfl

@[simp] theorem State.setLaunch_launches (s : State) (l : Nat) (x : Launch) : (s.setLaunch l x).work.launches = s.work.launches.put l x := rfl

@[simp] theorem State.setLaunch_blocks (s : State) (l : Nat) (x : Launch) : (s.setLaunch l x).work.blocks = s.work.blocks := rfl

@[simp] theorem State.setLaunch_waves (s : State) (l : Nat) (x : Launch) : (s.setLaunch l x).work.waves = s.work.waves := rfl

@[simp] theorem State.setLaunch_queue (s : State) (l : Nat) (x : Launch) : (s.setLaunch l x).work.queue = s.work.queue := rfl

@[simp] theorem State.setLaunch_relaunch (s : State) (l : Nat) (x : Launch) : (s.setLaunch l x).work.relaunch = s.work.relaunch := rfl

@[simp] theorem State.setLaunch_gens (s : State) (l : Nat) (x : Launch) : (s.setLaunch l x).work.gens = s.work.gens := rfl

@[simp] theorem State.setLaunch_left (s : State) (l : Nat) (x : Launch) : (s.setLaunch l x).work.left = s.work.left := rfl

@[simp] theorem State.setLaunch_leftSlabs (s : State) (l : Nat) (x : Launch) : (s.setLaunch l x).work.leftSlabs = s.work.leftSlabs := rfl

@[simp] theorem State.setLaunch_forwards (s : State) (l : Nat) (x : Launch) : (s.setLaunch l x).work.forwards = s.work.forwards := rfl

@[simp] theorem State.setLaunch_cores (s : State) (l : Nat) (x : Launch) : (s.setLaunch l x).work.cores = s.work.cores := rfl

@[simp] theorem State.setLaunch_fetch (s : State) (l : Nat) (x : Launch) : (s.setLaunch l x).work.fetch = s.work.fetch := rfl

@[simp] theorem State.setLaunch_copies (s : State) (l : Nat) (x : Launch) : (s.setLaunch l x).work.copies = s.work.copies := rfl

@[simp] theorem State.setLaunch_images (s : State) (l : Nat) (x : Launch) : (s.setLaunch l x).work.images = s.work.images := rfl

@[simp] theorem State.setLaunch_imageBytes (s : State) (l : Nat) (x : Launch) : (s.setLaunch l x).work.imageBytes = s.work.imageBytes := rfl

@[simp] theorem State.setLaunch_nextLaunch (s : State) (l : Nat) (x : Launch) : (s.setLaunch l x).work.nextLaunch = s.work.nextLaunch := rfl

@[simp] theorem State.setLaunch_nextBlock (s : State) (l : Nat) (x : Launch) : (s.setLaunch l x).work.nextBlock = s.work.nextBlock := rfl

@[simp] theorem State.setLaunch_nextCopy (s : State) (l : Nat) (x : Launch) : (s.setLaunch l x).work.nextCopy = s.work.nextCopy := rfl

@[simp] theorem State.setLaunch_nextUid (s : State) (l : Nat) (x : Launch) : (s.setLaunch l x).work.nextUid = s.work.nextUid := rfl

/-! ## mapWave -/

@[simp] theorem State.mapWave_dev (s : State) (k : Nat) (f : Wave → Wave) : (s.mapWave k f).dev = s.dev := rfl

@[simp] theorem State.mapWave_ctxs (s : State) (k : Nat) (f : Wave → Wave) : (s.mapWave k f).ctxs = s.ctxs := rfl

@[simp] theorem State.mapWave_mem (s : State) (k : Nat) (f : Wave → Wave) : (s.mapWave k f).mem = s.mem := rfl

@[simp] theorem State.mapWave_base (s : State) (k : Nat) (f : Wave → Wave) : (s.mapWave k f).base = s.base := rfl

@[simp] theorem State.mapWave_issue (s : State) (k : Nat) (f : Wave → Wave) : (s.mapWave k f).issue = s.issue := rfl

@[simp] theorem State.mapWave_pending (s : State) (k : Nat) (f : Wave → Wave) : (s.mapWave k f).pending = s.pending := rfl

@[simp] theorem State.mapWave_turn (s : State) (k : Nat) (f : Wave → Wave) : (s.mapWave k f).turn = s.turn := rfl

@[simp] theorem State.mapWave_tick (s : State) (k : Nat) (f : Wave → Wave) : (s.mapWave k f).tick = s.tick := rfl

@[simp] theorem State.mapWave_launches (s : State) (k : Nat) (f : Wave → Wave) : (s.mapWave k f).work.launches = s.work.launches := rfl

@[simp] theorem State.mapWave_blocks (s : State) (k : Nat) (f : Wave → Wave) : (s.mapWave k f).work.blocks = s.work.blocks := rfl

@[simp] theorem State.mapWave_waves (s : State) (k : Nat) (f : Wave → Wave) : (s.mapWave k f).work.waves = s.work.waves.modify k f := rfl

@[simp] theorem State.mapWave_queue (s : State) (k : Nat) (f : Wave → Wave) : (s.mapWave k f).work.queue = s.work.queue := rfl

@[simp] theorem State.mapWave_relaunch (s : State) (k : Nat) (f : Wave → Wave) : (s.mapWave k f).work.relaunch = s.work.relaunch := rfl

@[simp] theorem State.mapWave_gens (s : State) (k : Nat) (f : Wave → Wave) : (s.mapWave k f).work.gens = s.work.gens := rfl

@[simp] theorem State.mapWave_left (s : State) (k : Nat) (f : Wave → Wave) : (s.mapWave k f).work.left = s.work.left := rfl

@[simp] theorem State.mapWave_leftSlabs (s : State) (k : Nat) (f : Wave → Wave) : (s.mapWave k f).work.leftSlabs = s.work.leftSlabs := rfl

@[simp] theorem State.mapWave_forwards (s : State) (k : Nat) (f : Wave → Wave) : (s.mapWave k f).work.forwards = s.work.forwards := rfl

@[simp] theorem State.mapWave_cores (s : State) (k : Nat) (f : Wave → Wave) : (s.mapWave k f).work.cores = s.work.cores := rfl

@[simp] theorem State.mapWave_fetch (s : State) (k : Nat) (f : Wave → Wave) : (s.mapWave k f).work.fetch = s.work.fetch := rfl

@[simp] theorem State.mapWave_copies (s : State) (k : Nat) (f : Wave → Wave) : (s.mapWave k f).work.copies = s.work.copies := rfl

@[simp] theorem State.mapWave_images (s : State) (k : Nat) (f : Wave → Wave) : (s.mapWave k f).work.images = s.work.images := rfl

@[simp] theorem State.mapWave_imageBytes (s : State) (k : Nat) (f : Wave → Wave) : (s.mapWave k f).work.imageBytes = s.work.imageBytes := rfl

@[simp] theorem State.mapWave_nextLaunch (s : State) (k : Nat) (f : Wave → Wave) : (s.mapWave k f).work.nextLaunch = s.work.nextLaunch := rfl

@[simp] theorem State.mapWave_nextBlock (s : State) (k : Nat) (f : Wave → Wave) : (s.mapWave k f).work.nextBlock = s.work.nextBlock := rfl

@[simp] theorem State.mapWave_nextCopy (s : State) (k : Nat) (f : Wave → Wave) : (s.mapWave k f).work.nextCopy = s.work.nextCopy := rfl

@[simp] theorem State.mapWave_nextUid (s : State) (k : Nat) (f : Wave → Wave) : (s.mapWave k f).work.nextUid = s.work.nextUid := rfl

/-! ## mapBlock -/

@[simp] theorem State.mapBlock_dev (s : State) (b : Nat) (f : Block → Block) : (s.mapBlock b f).dev = s.dev := rfl

@[simp] theorem State.mapBlock_ctxs (s : State) (b : Nat) (f : Block → Block) : (s.mapBlock b f).ctxs = s.ctxs := rfl

@[simp] theorem State.mapBlock_mem (s : State) (b : Nat) (f : Block → Block) : (s.mapBlock b f).mem = s.mem := rfl

@[simp] theorem State.mapBlock_base (s : State) (b : Nat) (f : Block → Block) : (s.mapBlock b f).base = s.base := rfl

@[simp] theorem State.mapBlock_issue (s : State) (b : Nat) (f : Block → Block) : (s.mapBlock b f).issue = s.issue := rfl

@[simp] theorem State.mapBlock_pending (s : State) (b : Nat) (f : Block → Block) : (s.mapBlock b f).pending = s.pending := rfl

@[simp] theorem State.mapBlock_turn (s : State) (b : Nat) (f : Block → Block) : (s.mapBlock b f).turn = s.turn := rfl

@[simp] theorem State.mapBlock_tick (s : State) (b : Nat) (f : Block → Block) : (s.mapBlock b f).tick = s.tick := rfl

@[simp] theorem State.mapBlock_launches (s : State) (b : Nat) (f : Block → Block) : (s.mapBlock b f).work.launches = s.work.launches := rfl

@[simp] theorem State.mapBlock_blocks (s : State) (b : Nat) (f : Block → Block) : (s.mapBlock b f).work.blocks = s.work.blocks.modify b f := rfl

@[simp] theorem State.mapBlock_waves (s : State) (b : Nat) (f : Block → Block) : (s.mapBlock b f).work.waves = s.work.waves := rfl

@[simp] theorem State.mapBlock_queue (s : State) (b : Nat) (f : Block → Block) : (s.mapBlock b f).work.queue = s.work.queue := rfl

@[simp] theorem State.mapBlock_relaunch (s : State) (b : Nat) (f : Block → Block) : (s.mapBlock b f).work.relaunch = s.work.relaunch := rfl

@[simp] theorem State.mapBlock_gens (s : State) (b : Nat) (f : Block → Block) : (s.mapBlock b f).work.gens = s.work.gens := rfl

@[simp] theorem State.mapBlock_left (s : State) (b : Nat) (f : Block → Block) : (s.mapBlock b f).work.left = s.work.left := rfl

@[simp] theorem State.mapBlock_leftSlabs (s : State) (b : Nat) (f : Block → Block) : (s.mapBlock b f).work.leftSlabs = s.work.leftSlabs := rfl

@[simp] theorem State.mapBlock_forwards (s : State) (b : Nat) (f : Block → Block) : (s.mapBlock b f).work.forwards = s.work.forwards := rfl

@[simp] theorem State.mapBlock_cores (s : State) (b : Nat) (f : Block → Block) : (s.mapBlock b f).work.cores = s.work.cores := rfl

@[simp] theorem State.mapBlock_fetch (s : State) (b : Nat) (f : Block → Block) : (s.mapBlock b f).work.fetch = s.work.fetch := rfl

@[simp] theorem State.mapBlock_copies (s : State) (b : Nat) (f : Block → Block) : (s.mapBlock b f).work.copies = s.work.copies := rfl

@[simp] theorem State.mapBlock_images (s : State) (b : Nat) (f : Block → Block) : (s.mapBlock b f).work.images = s.work.images := rfl

@[simp] theorem State.mapBlock_imageBytes (s : State) (b : Nat) (f : Block → Block) : (s.mapBlock b f).work.imageBytes = s.work.imageBytes := rfl

@[simp] theorem State.mapBlock_nextLaunch (s : State) (b : Nat) (f : Block → Block) : (s.mapBlock b f).work.nextLaunch = s.work.nextLaunch := rfl

@[simp] theorem State.mapBlock_nextBlock (s : State) (b : Nat) (f : Block → Block) : (s.mapBlock b f).work.nextBlock = s.work.nextBlock := rfl

@[simp] theorem State.mapBlock_nextCopy (s : State) (b : Nat) (f : Block → Block) : (s.mapBlock b f).work.nextCopy = s.work.nextCopy := rfl

@[simp] theorem State.mapBlock_nextUid (s : State) (b : Nat) (f : Block → Block) : (s.mapBlock b f).work.nextUid = s.work.nextUid := rfl

/-! ## setCtx -/

@[simp] theorem State.setCtx_dev (s : State) (c : Nat) (x : Ctx) : (s.setCtx c x).dev = s.dev := rfl

@[simp] theorem State.setCtx_mem (s : State) (c : Nat) (x : Ctx) : (s.setCtx c x).mem = s.mem := rfl

@[simp] theorem State.setCtx_work (s : State) (c : Nat) (x : Ctx) : (s.setCtx c x).work = s.work := rfl

@[simp] theorem State.setCtx_base (s : State) (c : Nat) (x : Ctx) : (s.setCtx c x).base = s.base := rfl

@[simp] theorem State.setCtx_issue (s : State) (c : Nat) (x : Ctx) : (s.setCtx c x).issue = s.issue := rfl

@[simp] theorem State.setCtx_pending (s : State) (c : Nat) (x : Ctx) : (s.setCtx c x).pending = s.pending := rfl

@[simp] theorem State.setCtx_turn (s : State) (c : Nat) (x : Ctx) : (s.setCtx c x).turn = s.turn := rfl

@[simp] theorem State.setCtx_tick (s : State) (c : Nat) (x : Ctx) : (s.setCtx c x).tick = s.tick := rfl

@[simp] theorem State.setCtx_ctxs (s : State) (c : Nat) (x : Ctx) : (s.setCtx c x).ctxs = s.ctxs.put c x := rfl

/-! ## post -/

@[simp] theorem State.post_dev (s : State) (e : Ev) : (s.post e).dev = s.dev := rfl

@[simp] theorem State.post_ctxs (s : State) (e : Ev) : (s.post e).ctxs = s.ctxs := rfl

@[simp] theorem State.post_mem (s : State) (e : Ev) : (s.post e).mem = s.mem := rfl

@[simp] theorem State.post_work (s : State) (e : Ev) : (s.post e).work = s.work := rfl

@[simp] theorem State.post_base (s : State) (e : Ev) : (s.post e).base = s.base := rfl

@[simp] theorem State.post_issue (s : State) (e : Ev) : (s.post e).issue = s.issue := rfl

@[simp] theorem State.post_turn (s : State) (e : Ev) : (s.post e).turn = s.turn := rfl

@[simp] theorem State.post_tick (s : State) (e : Ev) : (s.post e).tick = s.tick := rfl

@[simp] theorem State.post_pending (s : State) (e : Ev) : (s.post e).pending = s.pending ++ [e] := rfl

/-! ## posts -/

@[simp] theorem State.posts_dev (s : State) (es : List Ev) : (s.posts es).dev = s.dev := rfl

@[simp] theorem State.posts_ctxs (s : State) (es : List Ev) : (s.posts es).ctxs = s.ctxs := rfl

@[simp] theorem State.posts_mem (s : State) (es : List Ev) : (s.posts es).mem = s.mem := rfl

@[simp] theorem State.posts_work (s : State) (es : List Ev) : (s.posts es).work = s.work := rfl

@[simp] theorem State.posts_base (s : State) (es : List Ev) : (s.posts es).base = s.base := rfl

@[simp] theorem State.posts_issue (s : State) (es : List Ev) : (s.posts es).issue = s.issue := rfl

@[simp] theorem State.posts_turn (s : State) (es : List Ev) : (s.posts es).turn = s.turn := rfl

@[simp] theorem State.posts_tick (s : State) (es : List Ev) : (s.posts es).tick = s.tick := rfl

@[simp] theorem State.posts_pending (s : State) (es : List Ev) : (s.posts es).pending = s.pending ++ es := rfl

/-! ## moved -/

@[simp] theorem State.moved_dev (s : State) (k : Nat) (w : Wave) : (s.moved k w).dev = s.dev := rfl

@[simp] theorem State.moved_ctxs (s : State) (k : Nat) (w : Wave) : (s.moved k w).ctxs = s.ctxs := rfl

@[simp] theorem State.moved_mem (s : State) (k : Nat) (w : Wave) : (s.moved k w).mem = s.mem := rfl

@[simp] theorem State.moved_work (s : State) (k : Nat) (w : Wave) : (s.moved k w).work = (s.setWave k w).work := rfl

@[simp] theorem State.moved_base (s : State) (k : Nat) (w : Wave) : (s.moved k w).base = s.base := rfl

@[simp] theorem State.moved_issue (s : State) (k : Nat) (w : Wave) : (s.moved k w).issue = { s.issue with moved := true } := rfl

@[simp] theorem State.moved_pending (s : State) (k : Nat) (w : Wave) : (s.moved k w).pending = s.pending := rfl

@[simp] theorem State.moved_turn (s : State) (k : Nat) (w : Wave) : (s.moved k w).turn = s.turn := rfl

@[simp] theorem State.moved_tick (s : State) (k : Nat) (w : Wave) : (s.moved k w).tick = s.tick := rfl

/-! ## withConds -/

@[simp] theorem State.withConds_dev (s : State) (cs : List (Nat × BitVec 7)) : (s.withConds cs).dev = s.dev := rfl

@[simp] theorem State.withConds_ctxs (s : State) (cs : List (Nat × BitVec 7)) : (s.withConds cs).ctxs = s.ctxs := rfl

@[simp] theorem State.withConds_mem (s : State) (cs : List (Nat × BitVec 7)) : (s.withConds cs).mem = s.mem := rfl

@[simp] theorem State.withConds_work (s : State) (cs : List (Nat × BitVec 7)) : (s.withConds cs).work = s.work := rfl

@[simp] theorem State.withConds_base (s : State) (cs : List (Nat × BitVec 7)) : (s.withConds cs).base = s.base := rfl

@[simp] theorem State.withConds_pending (s : State) (cs : List (Nat × BitVec 7)) : (s.withConds cs).pending = s.pending := rfl

@[simp] theorem State.withConds_turn (s : State) (cs : List (Nat × BitVec 7)) : (s.withConds cs).turn = s.turn := rfl

@[simp] theorem State.withConds_tick (s : State) (cs : List (Nat × BitVec 7)) : (s.withConds cs).tick = s.tick := rfl

@[simp] theorem State.withConds_issue (s : State) (cs : List (Nat × BitVec 7)) : (s.withConds cs).issue = { s.issue with conds := cs } := rfl

/-! ## sendCmd -/

@[simp] theorem sendCmd_ctxs (s : State) (d : Nat) (b : PeerBody) : (sendCmd s d b).ctxs = s.ctxs := rfl

@[simp] theorem sendCmd_mem (s : State) (d : Nat) (b : PeerBody) : (sendCmd s d b).mem = s.mem := rfl

@[simp] theorem sendCmd_work (s : State) (d : Nat) (b : PeerBody) : (sendCmd s d b).work = s.work := rfl

@[simp] theorem sendCmd_base (s : State) (d : Nat) (b : PeerBody) : (sendCmd s d b).base = s.base := rfl

@[simp] theorem sendCmd_issue (s : State) (d : Nat) (b : PeerBody) : (sendCmd s d b).issue = s.issue := rfl

@[simp] theorem sendCmd_pending (s : State) (d : Nat) (b : PeerBody) : (sendCmd s d b).pending = s.pending := rfl

@[simp] theorem sendCmd_turn (s : State) (d : Nat) (b : PeerBody) : (sendCmd s d b).turn = s.turn := rfl

@[simp] theorem sendCmd_tick (s : State) (d : Nat) (b : PeerBody) : (sendCmd s d b).tick = s.tick := rfl

@[simp] theorem sendCmd_peerSent (s : State) (d : Nat) (b : PeerBody) : (sendCmd s d b).dev.peerSent =
    s.dev.peerSent ++ [{ target := d, source := s.dev.deviceId, id := s.dev.nextOut.get d 0, body := b }] := rfl

@[simp] theorem sendCmd_nextOut (s : State) (d : Nat) (b : PeerBody) : (sendCmd s d b).dev.nextOut =
    s.dev.nextOut.put d ((s.dev.nextOut.get d 0 + 1) % 2 ^ 32) := rfl

/-! ## Reads after updates -/

/-- A wave that has been set reads as it was set, and every other wave as before. -/
theorem State.wave_setWave (s : State) (k j : Nat) (w : Wave) : (s.setWave k w).wave j = if j = k then some w else s.wave j :=
  Map.look_put s.work.waves k j w

@[simp] theorem State.wave_setWave_self (s : State) (k : Nat) (w : Wave) : (s.setWave k w).wave k = some w := Map.look_put_self ..

/-- A wave that has been moved reads as it was set, and every other wave as before. -/
theorem State.wave_moved (s : State) (k j : Nat) (w : Wave) : (s.moved k w).wave j = if j = k then some w else s.wave j :=
  Map.look_put s.work.waves k j w

/-- A changed wave reads as it was changed, and every other wave as before. -/
theorem State.wave_mapWave (s : State) (k j : Nat) (f : Wave → Wave) :
    (s.mapWave k f).wave j = if j = k then (s.wave k).map f else s.wave j :=
  Map.look_modify s.work.waves k j f

/-- A block that has been set reads as it was set, and every other block as before. -/
theorem State.block_setBlock (s : State) (b j : Nat) (x : Block) : (s.setBlock b x).block j = if j = b then some x else s.block j :=
  Map.look_put s.work.blocks b j x

/-- A changed block reads as it was changed, and every other block as before. -/
theorem State.block_mapBlock (s : State) (b j : Nat) (f : Block → Block) :
    (s.mapBlock b f).block j = if j = b then (s.block b).map f else s.block j :=
  Map.look_modify s.work.blocks b j f

/-- Changing a wave changes no block. -/
@[simp] theorem State.block_setWave (s : State) (k j : Nat) (w : Wave) : (s.setWave k w).block j = s.block j := rfl

/-- Changing a block changes no wave. -/
@[simp] theorem State.wave_setBlock (s : State) (b j : Nat) (x : Block) : (s.setBlock b x).wave j = s.wave j := rfl

/-- A step put in flight changes no wave. -/
@[simp] theorem State.wave_posts (s : State) (es : List Ev) (j : Nat) : (s.posts es).wave j = s.wave j := rfl

/-- The conditions of the latch change no wave. -/
@[simp] theorem State.wave_withConds (s : State) (cs : List (Nat × BitVec 7)) (j : Nat) : (s.withConds cs).wave j = s.wave j := rfl

/-- A step put in flight changes no wave. -/
@[simp] theorem State.wave_post (s : State) (e : Ev) (j : Nat) : (s.post e).wave j = s.wave j := rfl

/-! ## Trap frames -/

@[simp] theorem Trap.shown_cause (t : Trap) (n k : Nat) : (t.shown n k).cause = t.cause := rfl

@[simp] theorem Trap.shown_tmask (t : Trap) (n k : Nat) : (t.shown n k).tmask = t.tmask := rfl

@[simp] theorem Trap.shown_next (t : Trap) (n k : Nat) : (t.shown n k).next = t.next := rfl

/-- A stated address is what the handler sees. -/
theorem Trap.shown_taddr (t : Trap) (n k : Nat) (h : t.addrTold = true) : (t.shown n k).taddr = t.taddr := by simp [Trap.shown, h]

/-- The stated bits of the detail are what the handler sees. -/
theorem Trap.shown_tinfo (t : Trap) (n k : Nat) : (t.shown n k).tinfo &&& t.infoTold = t.tinfo &&& t.infoTold := by
  ext i hi
  simp [Trap.shown]
  cases t.infoTold[i] <;> simp

end Sys2Proof.Machine
end

