-- ==== Sys2Proof/Laws/Memory.lean ====
section
/-! SUPPORT. The operations that write device memory, host memory or the caches keep both memories in their canonical form. -/

namespace Sys2Proof

open Machine

/-- Both memories of a memory system have their canonical form. -/
def MemOk (m : MemSys) : Prop := Memory.wf m.mem = true ∧ Memory.wf m.far = true

/-- The invariant of a state speaks of its memories alone. -/
theorem inv_iff (s : State) : Inv s ↔ MemOk s.mem := Iff.rfl

/-- A fold of an operation that keeps a property keeps it. -/
theorem foldl_keeps {α β : Type} {P : β → Prop} {f : β → α → β} (hf : ∀ b a, P b → P (f b a)) (xs : List α) (b : β) (h : P b) :
    P (xs.foldl f b) := by
  induction xs generalizing b with
  | nil => exact h
  | cons x t ih => exact ih _ (hf b x h)

/-! ## Home slices -/

theorem MemOk.forgetLine {m : MemSys} (h : MemOk m) (line : Nat) : MemOk (forgetLine m line) := by
  unfold Machine.forgetLine
  split
  · exact h
  · exact foldl_keeps (P := MemOk) (f := fun m c => dirClear m c (regionOf line)) (fun _ _ hm => hm) _ _ h

theorem MemOk.recallLine {m : MemSys} (h : MemOk m) (line : Nat) : MemOk (recallLine m line) := by
  unfold Machine.recallLine
  apply MemOk.forgetLine
  refine ⟨?_, h.2⟩
  dsimp only
  split
  · exact Memory.wf_writes _ _ _ h.1
  · exact h.1

theorem MemOk.rekey {m : MemSys} (h : MemOk m) (line : Nat) (key : Option Nat) : MemOk (rekey m line key) := by
  unfold Machine.rekey
  split
  · exact h
  · exact ⟨Memory.wf_writes _ _ _ (h.recallLine line).1, (h.recallLine line).2⟩

theorem MemOk.devWrite {m : MemSys} (h : MemOk m) (key : Option Nat) (a : Nat) (bs : List Byte) : MemOk (devWrite m key a bs) := by
  have h1 := foldl_keeps (P := MemOk) (f := fun m l => Machine.rekey (Machine.recallLine m l) l key) (fun m l hm => (hm.recallLine l).rekey l key)
    (linesOf a bs.length) m h
  exact ⟨Memory.wf_writes _ _ _ h1.1, h1.2⟩

theorem MemOk.farWrite {m : MemSys} (h : MemOk m) (device a : Nat) (bs : List Byte) : MemOk (farWrite m device a bs) :=
  ⟨h.1, Memory.wf_writes _ _ _ h.2⟩

/-! ## Caches -/

theorem MemOk.storeDirty {m : MemSys} (h : MemOk m) (l : L1Line) : MemOk (storeDirty m l) := by
  unfold Machine.storeDirty
  split
  · exact h.devWrite _ _ _
  · exact foldl_keeps (P := MemOk) (fun m p hm => hm.devWrite _ _ _) _ _ h

theorem MemOk.writeThrough {m : MemSys} (h : MemOk m) (l : L1Line) : MemOk (writeThrough m l) := h.storeDirty l

theorem MemOk.releaseBytes {m : MemSys} (h : MemOk m) (core : Nat) : MemOk (releaseBytes m core) :=
  foldl_keeps (P := MemOk) (fun _ l hm => hm.writeThrough l) _ _ h

theorem MemOk.acquireBytes {m : MemSys} (h : MemOk m) (core : Nat) : MemOk (acquireBytes m core) := h

theorem MemOk.flushS {m : MemSys} (h : MemOk m) (core line : Nat) : MemOk (flushS m core line) := by
  unfold Machine.flushS
  split
  · exact h.storeDirty _
  · exact h

theorem MemOk.landDirty {m : MemSys} (h : MemOk m) (core line : Nat) (bs : List Byte) : MemOk (landDirty m core line bs) := by
  unfold Machine.landDirty
  split
  · exact ⟨Memory.wf_writes _ _ _ h.1, h.2⟩
  · exact h

theorem MemOk.probeCore {m : MemSys} (h : MemOk m) (inval : Bool) (line core : Nat) : MemOk (probeCore inval line m core) := by
  unfold Machine.probeCore
  split
  · exact h
  · split
    · exact h
    · split
      · exact h
      · exact h

theorem inv_evictLine {s : State} (h : Inv s) (l : L1Line) : Inv (evictLine s l) := by
  unfold evictLine
  split
  · split
    · exact h
    · exact h
  · exact MemOk.storeDirty h l

theorem inv_enterLine {s : State} (h : Inv s) (x : L1Line) : Inv (enterLine s x) := by
  unfold enterLine
  split <;> exact h

theorem inv_fillLine {s : State} (h : Inv s) (x : L1Line) : Inv (fillLine s x) := by
  unfold fillLine
  dsimp only
  split
  · exact inv_enterLine h x
  · split
    · exact inv_enterLine (inv_evictLine h _) x
    · exact inv_evictLine (inv_enterLine h x) x

/-! ## Writes of the hardware and event queues -/

theorem inv_hwWrite {s t : State} (h : Inv s) {ctx va n x : Nat} (e : hwWrite s ctx va n x = some t) : Inv t := by
  obtain ⟨a, -, rfl⟩ := Option.map_eq_some_iff.1 e
  split
  · exact MemOk.farWrite h _ _ _
  · exact MemOk.devWrite h _ _ _

theorem inv_hwWords {s t : State} (h : Inv s) {ctx va : Nat} {xs : List (Nat × Nat)} (e : hwWords s ctx va xs = some t) : Inv t := by
  induction xs generalizing s with
  | nil => cases e; exact h
  | cons x r ih =>
    simp only [hwWords] at e
    split at e
    · rename_i hw
      exact ih (inv_hwWrite h hw) e
    · cases e

theorem inv_countNow {s : State} (h : Inv s) (ctx off : Nat) : Inv (countNow s ctx off) := by
  unfold countNow
  split
  · split
    · rename_i n _
      cases hw : hwWrite s ctx _ 4 (min (n + 1) (2 ^ 32 - 1)) with
      | none => exact h
      | some t => exact inv_hwWrite h hw
    · exact h
  · exact h

theorem inv_sendMsix {s : State} (h : Inv s) (v : Nat) : Inv (sendMsix s v) := by
  unfold sendMsix
  split <;> exact h

theorem inv_eventNow {s : State} (h : Inv s) (ctx stack kind : Nat) (payload : List (Nat × Nat)) :
    Inv (eventNow s ctx stack kind payload) := by
  unfold eventNow
  split
  · exact h
  · split
    · dsimp only
      split
      · exact inv_countNow h _ _
      · split
        · rename_i h1
          split
          · rename_i h2
            split
            · exact inv_sendMsix (inv_hwWrite (inv_hwWords h h1) h2) _
            · exact inv_hwWrite (inv_hwWords h h1) h2
          · exact h
        · exact h
    · exact h

theorem inv_posting {s : State} (h : Inv s) (p : Posting) : Inv (p.run s) := by
  cases p with
  | event c a b d => exact inv_eventNow h c a b d
  | count c off => exact inv_countNow h c off

theorem inv_postTo {s : State} (h : Inv s) (p : Posting) : Inv (postTo s p) := by
  unfold postTo
  split
  · exact inv_posting h p
  · exact h

theorem inv_drainPostings {s : State} (h : Inv s) : Inv (drainPostings s) := foldl_keeps (P := Inv) (fun _ p hs => inv_postTo hs p) _ _ h

theorem inv_bumpCount {s : State} (h : Inv s) (ctx off : Nat) : Inv (bumpCount s ctx off) := inv_postTo h _

theorem inv_postEvent {s : State} (h : Inv s) (ctx stack kind : Nat) (payload : List (Nat × Nat)) :
    Inv (postEvent s ctx stack kind payload) := inv_postTo h _

end Sys2Proof
end

