-- ==== Sys2Proof/Laws/PerInstr.lean ====
section
/-! SUPPORT. Statements made of each instruction, one lemma for each constructor. -/

namespace Sys2Proof

/-! ## The fields of a word are bounded -/

/-- A bit is 0 or 1. -/
theorem bit_le (b : Bool) : bit b ≤ 1 := by cases b <;> decide

/-- A code of ICc fits its field. -/
theorem ICc.code_lt (x : ICc) : x.code < 16 := by cases x <;> decide

/-- A code of FCc fits its field. -/
theorem FCc.code_lt (x : FCc) : x.code < 16 := by cases x <;> decide

/-- A code of Rnd fits its field. -/
theorem Rnd.code_lt (x : Rnd) : x.code < 4 := by cases x <;> decide

/-- A code of Half fits its field. -/
theorem Half.code_lt (x : Half) : x.code < 2 := by cases x <;> decide

/-- A code of NumTy fits its field. -/
theorem NumTy.code_lt (x : NumTy) : x.code < 16 := by cases x <;> decide

/-- A code of UnpkTy fits its field. -/
theorem UnpkTy.code_lt (x : UnpkTy) : x.code < 8 := by cases x <;> decide

/-- A code of Width fits its field. -/
theorem Width.code_lt (x : Width) : x.code < 4 := by cases x <;> decide

/-- A code of AWidth fits its field. -/
theorem AWidth.code_lt (x : AWidth) : x.code < 4 := by cases x <;> decide

/-- A code of Scope fits its field. -/
theorem Scope.code_lt (x : Scope) : x.code < 4 := by cases x <;> decide

/-- A code of FScope fits its field. -/
theorem FScope.code_lt (x : FScope) : x.code < 8 := by cases x <;> decide

/-- A code of FKind fits its field. -/
theorem FKind.code_lt (x : FKind) : x.code < 4 := by cases x <;> decide

/-- A code of AtomOp fits its field. -/
theorem AtomOp.code_lt (x : AtomOp) : x.code < 16 := by cases x <;> decide

/-- A code of PLevel fits its field. -/
theorem PLevel.code_lt (x : PLevel) : x.code < 4 := by cases x <;> decide

/-- A code of MmaFmt fits its field. -/
theorem MmaFmt.code_lt (x : MmaFmt) : x.code < 16 := by cases x <;> decide

/-- A code of MmacFmt fits its field. -/
theorem MmacFmt.code_lt (x : MmacFmt) : x.code < 4 := by cases x <;> decide

/-- A code of SlabCnt fits its field. -/
theorem SlabCnt.code_lt (x : SlabCnt) : x.code < 4 := by cases x <;> decide

/-- A code of Dst fits its field. -/
theorem Dst.code_lt (x : Dst) : x.code < 4 := by cases x <;> decide

namespace Laws.Encoding

/-- The encoding of an instruction leaves the chain bit clear: the word fits below bit 31 (02_encoding R16, R25). -/
def Statement (i : Instr) : Prop := encode i < 2 ^ 31

theorem nop : Statement .nop := by
  show a3 0x00 0 0 0 0 < 2 ^ 31
  unfold a3
  omega

theorem halt : Statement .halt := by
  show a3 0x00 0 0 0 1 < 2 ^ 31
  unfold a3
  omega

theorem exit : Statement .exit := by
  show a3 0x00 0 0 0 2 < 2 ^ 31
  unfold a3
  omega

theorem yield : Statement .yield := by
  show a3 0x00 0 0 0 3 < 2 ^ 31
  unfold a3
  omega

theorem conv : Statement .conv := by
  show a3 0x00 0 0 0 4 < 2 ^ 31
  unfold a3
  omega

theorem tret : Statement .tret := by
  show a3 0x00 0 0 0 5 < 2 ^ 31
  unfold a3
  omega

theorem brk : Statement .brk := by
  show a3 0x00 0 0 0 6 < 2 ^ 31
  unfold a3
  omega

theorem bra (d : BitVec 8) : Statement (.bra d) := by
  show bf 0 0 0 d.toNat < 2 ^ 31
  unfold bf
  have h0 := d.isLt
  omega

theorem br (p : PReg) (n : Bool) (d : BitVec 8) : Statement (.br p n d) := by
  show bf 1 p.toNat (bit n) d.toNat < 2 ^ 31
  unfold bf
  have h0 := p.isLt
  have h1 := bit_le n
  have h2 := d.isLt
  omega

theorem brall (p : PReg) (n : Bool) (d : BitVec 8) : Statement (.brall p n d) := by
  show bf 2 p.toNat (bit n) d.toNat < 2 ^ 31
  unfold bf
  have h0 := p.isLt
  have h1 := bit_le n
  have h2 := d.isLt
  omega

theorem brany (p : PReg) (n : Bool) (d : BitVec 8) : Statement (.brany p n d) := by
  show bf 3 p.toNat (bit n) d.toNat < 2 ^ 31
  unfold bf
  have h0 := p.isLt
  have h1 := bit_le n
  have h2 := d.isLt
  omega

theorem jmps (a : SReg) : Statement (.jmps a) := by
  show ai 0x02 0 a.toNat 0 0 < 2 ^ 31
  unfold ai
  have h0 := a.isLt
  omega

theorem jmpv (a : VReg) : Statement (.jmpv a) := by
  show ai 0x02 0 a.toNat 0 1 < 2 ^ 31
  unfold ai
  have h0 := a.isLt
  omega

theorem call (d : VReg) (k : BitVec 3) (i : BitVec 8) : Statement (.call d k i) := by
  show ai 0x02 d.toNat k.toNat i.toNat 2 < 2 ^ 31
  unfold ai
  have h0 := d.isLt
  have h1 := k.isLt
  have h2 := i.isLt
  omega

theorem callv (d : VReg) (a : VReg) (k : BitVec 3) : Statement (.callv d a k) := by
  show ai 0x02 d.toNat a.toNat k.toNat 3 < 2 ^ 31
  unfold ai
  have h0 := d.isLt
  have h1 := a.isLt
  have h2 := k.isLt
  omega

theorem ret (a : VReg) : Statement (.ret a) := by
  show ai 0x02 0 a.toNat 0 4 < 2 ^ 31
  unfold ai
  have h0 := a.isLt
  omega

theorem loopi (n : BitVec 8) (e : BitVec 8) : Statement (.loopi n e) := by
  show lf n.toNat e.toNat 0 < 2 ^ 31
  unfold lf
  have h0 := n.isLt
  have h1 := e.isLt
  omega

theorem loops (s : SReg) (e : BitVec 8) : Statement (.loops s e) := by
  show lf (s.toNat * 2) e.toNat 1 < 2 ^ 31
  unfold lf
  have h0 := s.isLt
  have h1 := e.isLt
  omega

theorem lbrk : Statement .lbrk := by
  show lf 0 0 2 < 2 ^ 31
  unfold lf
  omega

theorem rep (n : BitVec 6) (x : Bool) (y : Bool) (z : Bool) (s : BitVec 2) : Statement (.rep n x y z s) := by
  show pf n.toNat (bit x) (bit y) (bit z) s.toNat < 2 ^ 31
  unfold pf
  have h0 := n.isLt
  have h1 := bit_le x
  have h2 := bit_le y
  have h3 := bit_le z
  have h4 := s.isLt
  omega

theorem wait (l : BitVec 6) (s : BitVec 6) (p : BitVec 6) (t : BitVec 6) : Statement (.wait l s p t) := by
  show wf l.toNat s.toNat p.toNat t.toNat < 2 ^ 31
  unfold wf
  have h0 := l.isLt
  have h1 := s.isLt
  have h2 := p.isLt
  have h3 := t.isLt
  omega

theorem trap (k : BitVec 8) : Statement (.trap k) := by
  show 0x06 * 2 ^ 25 + k.toNat * 2 ^ 17 < 2 ^ 31
  have h0 := k.isLt
  omega

theorem spawn (d : VReg) (a : VReg) (i : BitVec 8) : Statement (.spawn d a i) := by
  show ai 0x07 d.toNat a.toNat i.toNat 0 < 2 ^ 31
  unfold ai
  have h0 := d.isLt
  have h1 := a.isLt
  have h2 := i.isLt
  omega

theorem spawnp (d : VReg) (a : VReg) (i : BitVec 8) : Statement (.spawnp d a i) := by
  show ai 0x07 d.toNat a.toNat i.toNat 1 < 2 ^ 31
  unfold ai
  have h0 := d.isLt
  have h1 := a.isLt
  have h2 := i.isLt
  omega

theorem regroup (a : VReg) (i : BitVec 8) : Statement (.regroup a i) := by
  show ai 0x07 0 a.toNat i.toNat 2 < 2 ^ 31
  unfold ai
  have h0 := a.isLt
  have h1 := i.isLt
  omega

theorem flushrg : Statement .flushrg := by
  show ai 0x07 0 0 0 3 < 2 ^ 31
  unfold ai
  omega

theorem fibrd (d : VReg) (i : BitVec 8) : Statement (.fibrd d i) := by
  show ai 0x07 d.toNat 0 i.toNat 4 < 2 ^ 31
  unfold ai
  have h0 := d.isLt
  have h1 := i.isLt
  omega

theorem fibwr (a : VReg) (i : BitVec 8) : Statement (.fibwr a i) := by
  show ai 0x07 0 a.toNat i.toNat 5 < 2 ^ 31
  unfold ai
  have h0 := a.isLt
  have h1 := i.isLt
  omega

theorem sadd (d : SReg) (a : SReg) (b : SReg) : Statement (.sadd d a b) := by
  show a3 0x08 d.toNat a.toNat b.toNat 0 < 2 ^ 31
  unfold a3
  have h0 := d.isLt
  have h1 := a.isLt
  have h2 := b.isLt
  omega

theorem ssub (d : SReg) (a : SReg) (b : SReg) : Statement (.ssub d a b) := by
  show a3 0x08 d.toNat a.toNat b.toNat 1 < 2 ^ 31
  unfold a3
  have h0 := d.isLt
  have h1 := a.isLt
  have h2 := b.isLt
  omega

theorem smul (d : SReg) (a : SReg) (b : SReg) : Statement (.smul d a b) := by
  show a3 0x08 d.toNat a.toNat b.toNat 2 < 2 ^ 31
  unfold a3
  have h0 := d.isLt
  have h1 := a.isLt
  have h2 := b.isLt
  omega

theorem smulh (d : SReg) (a : SReg) (b : SReg) : Statement (.smulh d a b) := by
  show a3 0x08 d.toNat a.toNat b.toNat 3 < 2 ^ 31
  unfold a3
  have h0 := d.isLt
  have h1 := a.isLt
  have h2 := b.isLt
  omega

theorem sand (d : SReg) (a : SReg) (b : SReg) : Statement (.sand d a b) := by
  show a3 0x08 d.toNat a.toNat b.toNat 4 < 2 ^ 31
  unfold a3
  have h0 := d.isLt
  have h1 := a.isLt
  have h2 := b.isLt
  omega

theorem sor (d : SReg) (a : SReg) (b : SReg) : Statement (.sor d a b) := by
  show a3 0x08 d.toNat a.toNat b.toNat 5 < 2 ^ 31
  unfold a3
  have h0 := d.isLt
  have h1 := a.isLt
  have h2 := b.isLt
  omega

theorem sxor (d : SReg) (a : SReg) (b : SReg) : Statement (.sxor d a b) := by
  show a3 0x08 d.toNat a.toNat b.toNat 6 < 2 ^ 31
  unfold a3
  have h0 := d.isLt
  have h1 := a.isLt
  have h2 := b.isLt
  omega

theorem sshl (d : SReg) (a : SReg) (b : SReg) : Statement (.sshl d a b) := by
  show a3 0x08 d.toNat a.toNat b.toNat 7 < 2 ^ 31
  unfold a3
  have h0 := d.isLt
  have h1 := a.isLt
  have h2 := b.isLt
  omega

theorem sshr (d : SReg) (a : SReg) (b : SReg) : Statement (.sshr d a b) := by
  show a3 0x08 d.toNat a.toNat b.toNat 8 < 2 ^ 31
  unfold a3
  have h0 := d.isLt
  have h1 := a.isLt
  have h2 := b.isLt
  omega

theorem ssra (d : SReg) (a : SReg) (b : SReg) : Statement (.ssra d a b) := by
  show a3 0x08 d.toNat a.toNat b.toNat 9 < 2 ^ 31
  unfold a3
  have h0 := d.isLt
  have h1 := a.isLt
  have h2 := b.isLt
  omega

theorem smin (d : SReg) (a : SReg) (b : SReg) : Statement (.smin d a b) := by
  show a3 0x08 d.toNat a.toNat b.toNat 10 < 2 ^ 31
  unfold a3
  have h0 := d.isLt
  have h1 := a.isLt
  have h2 := b.isLt
  omega

theorem smax (d : SReg) (a : SReg) (b : SReg) : Statement (.smax d a b) := by
  show a3 0x08 d.toNat a.toNat b.toNat 11 < 2 ^ 31
  unfold a3
  have h0 := d.isLt
  have h1 := a.isLt
  have h2 := b.isLt
  omega

theorem sminu (d : SReg) (a : SReg) (b : SReg) : Statement (.sminu d a b) := by
  show a3 0x08 d.toNat a.toNat b.toNat 12 < 2 ^ 31
  unfold a3
  have h0 := d.isLt
  have h1 := a.isLt
  have h2 := b.isLt
  omega

theorem smaxu (d : SReg) (a : SReg) (b : SReg) : Statement (.smaxu d a b) := by
  show a3 0x08 d.toNat a.toNat b.toNat 13 < 2 ^ 31
  unfold a3
  have h0 := d.isLt
  have h1 := a.isLt
  have h2 := b.isLt
  omega

theorem smov (d : SReg) (a : SReg) : Statement (.smov d a) := by
  show a3 0x08 d.toNat a.toNat 0 14 < 2 ^ 31
  unfold a3
  have h0 := d.isLt
  have h1 := a.isLt
  omega

theorem saddi (d : SReg) (a : SReg) (i : BitVec 8) : Statement (.saddi d a i) := by
  show ai 0x09 d.toNat a.toNat i.toNat 0 < 2 ^ 31
  unfold ai
  have h0 := d.isLt
  have h1 := a.isLt
  have h2 := i.isLt
  omega

theorem sandi (d : SReg) (a : SReg) (i : BitVec 8) : Statement (.sandi d a i) := by
  show ai 0x09 d.toNat a.toNat i.toNat 1 < 2 ^ 31
  unfold ai
  have h0 := d.isLt
  have h1 := a.isLt
  have h2 := i.isLt
  omega

theorem sori (d : SReg) (a : SReg) (i : BitVec 8) : Statement (.sori d a i) := by
  show ai 0x09 d.toNat a.toNat i.toNat 2 < 2 ^ 31
  unfold ai
  have h0 := d.isLt
  have h1 := a.isLt
  have h2 := i.isLt
  omega

theorem sxori (d : SReg) (a : SReg) (i : BitVec 8) : Statement (.sxori d a i) := by
  show ai 0x09 d.toNat a.toNat i.toNat 3 < 2 ^ 31
  unfold ai
  have h0 := d.isLt
  have h1 := a.isLt
  have h2 := i.isLt
  omega

theorem sshli (d : SReg) (a : SReg) (i : BitVec 5) : Statement (.sshli d a i) := by
  show ai 0x09 d.toNat a.toNat i.toNat 4 < 2 ^ 31
  unfold ai
  have h0 := d.isLt
  have h1 := a.isLt
  have h2 := i.isLt
  omega

theorem sshri (d : SReg) (a : SReg) (i : BitVec 5) : Statement (.sshri d a i) := by
  show ai 0x09 d.toNat a.toNat i.toNat 5 < 2 ^ 31
  unfold ai
  have h0 := d.isLt
  have h1 := a.isLt
  have h2 := i.isLt
  omega

theorem ssrai (d : SReg) (a : SReg) (i : BitVec 5) : Statement (.ssrai d a i) := by
  show ai 0x09 d.toNat a.toNat i.toNat 6 < 2 ^ 31
  unfold ai
  have h0 := d.isLt
  have h1 := a.isLt
  have h2 := i.isLt
  omega

theorem sbyte (d : SReg) (a : BitVec 2) (i : BitVec 8) : Statement (.sbyte d a i) := by
  show ai 0x09 d.toNat a.toNat i.toNat 7 < 2 ^ 31
  unfold ai
  have h0 := d.isLt
  have h1 := a.isLt
  have h2 := i.isLt
  omega

theorem scmp (p : PReg) (a : SReg) (b : SReg) (k : ICc) : Statement (.scmp p a b k) := by
  show a3 0x0A p.toNat a.toNat b.toNat k.code < 2 ^ 31
  unfold a3
  have h0 := p.isLt
  have h1 := a.isLt
  have h2 := b.isLt
  have h3 := ICc.code_lt k
  omega

theorem csrr (d : SReg) (i : BitVec 8) : Statement (.csrr d i) := by
  show ai 0x0B d.toNat 0 i.toNat 0 < 2 ^ 31
  unfold ai
  have h0 := d.isLt
  have h1 := i.isLt
  omega

theorem csrw (a : SReg) (i : BitVec 8) : Statement (.csrw a i) := by
  show ai 0x0B 0 a.toNat i.toNat 1 < 2 ^ 31
  unfold ai
  have h0 := a.isLt
  have h1 := i.isLt
  omega

theorem spr (d : VReg) (i : BitVec 8) : Statement (.spr d i) := by
  show ai 0x0B d.toNat 0 i.toNat 2 < 2 ^ 31
  unfold ai
  have h0 := d.isLt
  have h1 := i.isLt
  omega

theorem rdlane (d : SReg) (a : VReg) (i : BitVec 8) : Statement (.rdlane d a i) := by
  show ai 0x0B d.toNat a.toNat i.toNat 3 < 2 ^ 31
  unfold ai
  have h0 := d.isLt
  have h1 := a.isLt
  have h2 := i.isLt
  omega

theorem movs (d : VReg) (a : SReg) : Statement (.movs d a) := by
  show ai 0x0B d.toNat a.toNat 0 4 < 2 ^ 31
  unfold ai
  have h0 := d.isLt
  have h1 := a.isLt
  omega

theorem iadd (d : VReg) (a : VReg) (b : VReg) : Statement (.iadd d a b) := by
  show a3 0x0C d.toNat a.toNat b.toNat 0 < 2 ^ 31
  unfold a3
  have h0 := d.isLt
  have h1 := a.isLt
  have h2 := b.isLt
  omega

theorem isub (d : VReg) (a : VReg) (b : VReg) : Statement (.isub d a b) := by
  show a3 0x0C d.toNat a.toNat b.toNat 1 < 2 ^ 31
  unfold a3
  have h0 := d.isLt
  have h1 := a.isLt
  have h2 := b.isLt
  omega

theorem imul (d : VReg) (a : VReg) (b : VReg) : Statement (.imul d a b) := by
  show a3 0x0C d.toNat a.toNat b.toNat 2 < 2 ^ 31
  unfold a3
  have h0 := d.isLt
  have h1 := a.isLt
  have h2 := b.isLt
  omega

theorem imulh (d : VReg) (a : VReg) (b : VReg) : Statement (.imulh d a b) := by
  show a3 0x0C d.toNat a.toNat b.toNat 3 < 2 ^ 31
  unfold a3
  have h0 := d.isLt
  have h1 := a.isLt
  have h2 := b.isLt
  omega

theorem imulhu (d : VReg) (a : VReg) (b : VReg) : Statement (.imulhu d a b) := by
  show a3 0x0C d.toNat a.toNat b.toNat 4 < 2 ^ 31
  unfold a3
  have h0 := d.isLt
  have h1 := a.isLt
  have h2 := b.isLt
  omega

theorem iand (d : VReg) (a : VReg) (b : VReg) : Statement (.iand d a b) := by
  show a3 0x0C d.toNat a.toNat b.toNat 5 < 2 ^ 31
  unfold a3
  have h0 := d.isLt
  have h1 := a.isLt
  have h2 := b.isLt
  omega

theorem ior (d : VReg) (a : VReg) (b : VReg) : Statement (.ior d a b) := by
  show a3 0x0C d.toNat a.toNat b.toNat 6 < 2 ^ 31
  unfold a3
  have h0 := d.isLt
  have h1 := a.isLt
  have h2 := b.isLt
  omega

theorem ixor (d : VReg) (a : VReg) (b : VReg) : Statement (.ixor d a b) := by
  show a3 0x0C d.toNat a.toNat b.toNat 7 < 2 ^ 31
  unfold a3
  have h0 := d.isLt
  have h1 := a.isLt
  have h2 := b.isLt
  omega

theorem andn (d : VReg) (a : VReg) (b : VReg) : Statement (.andn d a b) := by
  show a3 0x0C d.toNat a.toNat b.toNat 8 < 2 ^ 31
  unfold a3
  have h0 := d.isLt
  have h1 := a.isLt
  have h2 := b.isLt
  omega

theorem shl (d : VReg) (a : VReg) (b : VReg) : Statement (.shl d a b) := by
  show a3 0x0C d.toNat a.toNat b.toNat 9 < 2 ^ 31
  unfold a3
  have h0 := d.isLt
  have h1 := a.isLt
  have h2 := b.isLt
  omega

theorem shr (d : VReg) (a : VReg) (b : VReg) : Statement (.shr d a b) := by
  show a3 0x0C d.toNat a.toNat b.toNat 10 < 2 ^ 31
  unfold a3
  have h0 := d.isLt
  have h1 := a.isLt
  have h2 := b.isLt
  omega

theorem sra (d : VReg) (a : VReg) (b : VReg) : Statement (.sra d a b) := by
  show a3 0x0C d.toNat a.toNat b.toNat 11 < 2 ^ 31
  unfold a3
  have h0 := d.isLt
  have h1 := a.isLt
  have h2 := b.isLt
  omega

theorem imin (d : VReg) (a : VReg) (b : VReg) : Statement (.imin d a b) := by
  show a3 0x0C d.toNat a.toNat b.toNat 12 < 2 ^ 31
  unfold a3
  have h0 := d.isLt
  have h1 := a.isLt
  have h2 := b.isLt
  omega

theorem imax (d : VReg) (a : VReg) (b : VReg) : Statement (.imax d a b) := by
  show a3 0x0C d.toNat a.toNat b.toNat 13 < 2 ^ 31
  unfold a3
  have h0 := d.isLt
  have h1 := a.isLt
  have h2 := b.isLt
  omega

theorem iminu (d : VReg) (a : VReg) (b : VReg) : Statement (.iminu d a b) := by
  show a3 0x0C d.toNat a.toNat b.toNat 14 < 2 ^ 31
  unfold a3
  have h0 := d.isLt
  have h1 := a.isLt
  have h2 := b.isLt
  omega

theorem imaxu (d : VReg) (a : VReg) (b : VReg) : Statement (.imaxu d a b) := by
  show a3 0x0C d.toNat a.toNat b.toNat 15 < 2 ^ 31
  unfold a3
  have h0 := d.isLt
  have h1 := a.isLt
  have h2 := b.isLt
  omega

theorem iaddi (d : VReg) (a : VReg) (i : BitVec 8) : Statement (.iaddi d a i) := by
  show ai 0x0D d.toNat a.toNat i.toNat 0 < 2 ^ 31
  unfold ai
  have h0 := d.isLt
  have h1 := a.isLt
  have h2 := i.isLt
  omega

theorem andi (d : VReg) (a : VReg) (i : BitVec 8) : Statement (.andi d a i) := by
  show ai 0x0D d.toNat a.toNat i.toNat 1 < 2 ^ 31
  unfold ai
  have h0 := d.isLt
  have h1 := a.isLt
  have h2 := i.isLt
  omega

theorem ori (d : VReg) (a : VReg) (i : BitVec 8) : Statement (.ori d a i) := by
  show ai 0x0D d.toNat a.toNat i.toNat 2 < 2 ^ 31
  unfold ai
  have h0 := d.isLt
  have h1 := a.isLt
  have h2 := i.isLt
  omega

theorem xori (d : VReg) (a : VReg) (i : BitVec 8) : Statement (.xori d a i) := by
  show ai 0x0D d.toNat a.toNat i.toNat 3 < 2 ^ 31
  unfold ai
  have h0 := d.isLt
  have h1 := a.isLt
  have h2 := i.isLt
  omega

theorem shli (d : VReg) (a : VReg) (i : BitVec 5) : Statement (.shli d a i) := by
  show ai 0x0D d.toNat a.toNat i.toNat 4 < 2 ^ 31
  unfold ai
  have h0 := d.isLt
  have h1 := a.isLt
  have h2 := i.isLt
  omega

theorem shri (d : VReg) (a : VReg) (i : BitVec 5) : Statement (.shri d a i) := by
  show ai 0x0D d.toNat a.toNat i.toNat 5 < 2 ^ 31
  unfold ai
  have h0 := d.isLt
  have h1 := a.isLt
  have h2 := i.isLt
  omega

theorem srai (d : VReg) (a : VReg) (i : BitVec 5) : Statement (.srai d a i) := by
  show ai 0x0D d.toNat a.toNat i.toNat 6 < 2 ^ 31
  unfold ai
  have h0 := d.isLt
  have h1 := a.isLt
  have h2 := i.isLt
  omega

theorem movi (d : VReg) (i : BitVec 8) : Statement (.movi d i) := by
  show ai 0x0D d.toNat 0 i.toNat 7 < 2 ^ 31
  unfold ai
  have h0 := d.isLt
  have h1 := i.isLt
  omega

theorem iabs (d : VReg) (a : VReg) : Statement (.iabs d a) := by
  show a3 0x0E d.toNat a.toNat 0 0 < 2 ^ 31
  unfold a3
  have h0 := d.isLt
  have h1 := a.isLt
  omega

theorem ineg (d : VReg) (a : VReg) : Statement (.ineg d a) := by
  show a3 0x0E d.toNat a.toNat 0 1 < 2 ^ 31
  unfold a3
  have h0 := d.isLt
  have h1 := a.isLt
  omega

theorem inot (d : VReg) (a : VReg) : Statement (.inot d a) := by
  show a3 0x0E d.toNat a.toNat 0 2 < 2 ^ 31
  unfold a3
  have h0 := d.isLt
  have h1 := a.isLt
  omega

theorem popc (d : VReg) (a : VReg) : Statement (.popc d a) := by
  show a3 0x0E d.toNat a.toNat 0 3 < 2 ^ 31
  unfold a3
  have h0 := d.isLt
  have h1 := a.isLt
  omega

theorem clz (d : VReg) (a : VReg) : Statement (.clz d a) := by
  show a3 0x0E d.toNat a.toNat 0 4 < 2 ^ 31
  unfold a3
  have h0 := d.isLt
  have h1 := a.isLt
  omega

theorem brev (d : VReg) (a : VReg) : Statement (.brev d a) := by
  show a3 0x0E d.toNat a.toNat 0 5 < 2 ^ 31
  unfold a3
  have h0 := d.isLt
  have h1 := a.isLt
  omega

theorem bfe (d : VReg) (a : VReg) (b : VReg) : Statement (.bfe d a b) := by
  show a3 0x0E d.toNat a.toNat b.toNat 6 < 2 ^ 31
  unfold a3
  have h0 := d.isLt
  have h1 := a.isLt
  have h2 := b.isLt
  omega

theorem bfeu (d : VReg) (a : VReg) (b : VReg) : Statement (.bfeu d a b) := by
  show a3 0x0E d.toNat a.toNat b.toNat 7 < 2 ^ 31
  unfold a3
  have h0 := d.isLt
  have h1 := a.isLt
  have h2 := b.isLt
  omega

theorem bfi (d : VReg) (a : VReg) (b : VReg) : Statement (.bfi d a b) := by
  show a3 0x0E d.toNat a.toNat b.toNat 8 < 2 ^ 31
  unfold a3
  have h0 := d.isLt
  have h1 := a.isLt
  have h2 := b.isLt
  omega

theorem imad (d : VReg) (a : VReg) (b : VReg) : Statement (.imad d a b) := by
  show a3 0x0E d.toNat a.toNat b.toNat 9 < 2 ^ 31
  unfold a3
  have h0 := d.isLt
  have h1 := a.isLt
  have h2 := b.isLt
  omega

theorem idiv (d : VReg) (a : VReg) (b : VReg) : Statement (.idiv d a b) := by
  show a3 0x0E d.toNat a.toNat b.toNat 10 < 2 ^ 31
  unfold a3
  have h0 := d.isLt
  have h1 := a.isLt
  have h2 := b.isLt
  omega

theorem idivu (d : VReg) (a : VReg) (b : VReg) : Statement (.idivu d a b) := by
  show a3 0x0E d.toNat a.toNat b.toNat 11 < 2 ^ 31
  unfold a3
  have h0 := d.isLt
  have h1 := a.isLt
  have h2 := b.isLt
  omega

theorem irem (d : VReg) (a : VReg) (b : VReg) : Statement (.irem d a b) := by
  show a3 0x0E d.toNat a.toNat b.toNat 12 < 2 ^ 31
  unfold a3
  have h0 := d.isLt
  have h1 := a.isLt
  have h2 := b.isLt
  omega

theorem iremu (d : VReg) (a : VReg) (b : VReg) : Statement (.iremu d a b) := by
  show a3 0x0E d.toNat a.toNat b.toNat 13 < 2 ^ 31
  unfold a3
  have h0 := d.isLt
  have h1 := a.isLt
  have h2 := b.isLt
  omega

theorem iadds (d : VReg) (a : VReg) (b : VReg) : Statement (.iadds d a b) := by
  show a3 0x0E d.toNat a.toNat b.toNat 14 < 2 ^ 31
  unfold a3
  have h0 := d.isLt
  have h1 := a.isLt
  have h2 := b.isLt
  omega

theorem isubs (d : VReg) (a : VReg) (b : VReg) : Statement (.isubs d a b) := by
  show a3 0x0E d.toNat a.toNat b.toNat 15 < 2 ^ 31
  unfold a3
  have h0 := d.isLt
  have h1 := a.isLt
  have h2 := b.isLt
  omega

theorem icmp (p : PReg) (a : VReg) (b : VReg) (k : ICc) : Statement (.icmp p a b k) := by
  show a3 0x0F p.toNat a.toNat b.toNat k.code < 2 ^ 31
  unfold a3
  have h0 := p.isLt
  have h1 := a.isLt
  have h2 := b.isLt
  have h3 := ICc.code_lt k
  omega

theorem fadd (d : VReg) (a : VReg) (b : VReg) (r : Rnd) : Statement (.fadd d a b r) := by
  show a3 0x10 d.toNat a.toNat b.toNat (r.code * 4) < 2 ^ 31
  unfold a3
  have h0 := d.isLt
  have h1 := a.isLt
  have h2 := b.isLt
  have h3 := Rnd.code_lt r
  omega

theorem fsub (d : VReg) (a : VReg) (b : VReg) (r : Rnd) : Statement (.fsub d a b r) := by
  show a3 0x10 d.toNat a.toNat b.toNat (r.code * 4 + 1) < 2 ^ 31
  unfold a3
  have h0 := d.isLt
  have h1 := a.isLt
  have h2 := b.isLt
  have h3 := Rnd.code_lt r
  omega

theorem fmul (d : VReg) (a : VReg) (b : VReg) (r : Rnd) : Statement (.fmul d a b r) := by
  show a3 0x10 d.toNat a.toNat b.toNat (r.code * 4 + 2) < 2 ^ 31
  unfold a3
  have h0 := d.isLt
  have h1 := a.isLt
  have h2 := b.isLt
  have h3 := Rnd.code_lt r
  omega

theorem ffma (d : VReg) (a : VReg) (b : VReg) (r : Rnd) : Statement (.ffma d a b r) := by
  show a3 0x10 d.toNat a.toNat b.toNat (r.code * 4 + 3) < 2 ^ 31
  unfold a3
  have h0 := d.isLt
  have h1 := a.isLt
  have h2 := b.isLt
  have h3 := Rnd.code_lt r
  omega

theorem fmin (d : VReg) (a : VReg) (b : VReg) : Statement (.fmin d a b) := by
  show a3 0x11 d.toNat a.toNat b.toNat 0 < 2 ^ 31
  unfold a3
  have h0 := d.isLt
  have h1 := a.isLt
  have h2 := b.isLt
  omega

theorem fmax (d : VReg) (a : VReg) (b : VReg) : Statement (.fmax d a b) := by
  show a3 0x11 d.toNat a.toNat b.toNat 1 < 2 ^ 31
  unfold a3
  have h0 := d.isLt
  have h1 := a.isLt
  have h2 := b.isLt
  omega

theorem fminm (d : VReg) (a : VReg) (b : VReg) : Statement (.fminm d a b) := by
  show a3 0x11 d.toNat a.toNat b.toNat 2 < 2 ^ 31
  unfold a3
  have h0 := d.isLt
  have h1 := a.isLt
  have h2 := b.isLt
  omega

theorem fmaxm (d : VReg) (a : VReg) (b : VReg) : Statement (.fmaxm d a b) := by
  show a3 0x11 d.toNat a.toNat b.toNat 3 < 2 ^ 31
  unfold a3
  have h0 := d.isLt
  have h1 := a.isLt
  have h2 := b.isLt
  omega

theorem fcpys (d : VReg) (a : VReg) (b : VReg) : Statement (.fcpys d a b) := by
  show a3 0x11 d.toNat a.toNat b.toNat 4 < 2 ^ 31
  unfold a3
  have h0 := d.isLt
  have h1 := a.isLt
  have h2 := b.isLt
  omega

theorem fscale (d : VReg) (a : VReg) (b : VReg) : Statement (.fscale d a b) := by
  show a3 0x11 d.toNat a.toNat b.toNat 5 < 2 ^ 31
  unfold a3
  have h0 := d.isLt
  have h1 := a.isLt
  have h2 := b.isLt
  omega

theorem fabs (d : VReg) (a : VReg) : Statement (.fabs d a) := by
  show a3 0x12 d.toNat a.toNat 0 0 < 2 ^ 31
  unfold a3
  have h0 := d.isLt
  have h1 := a.isLt
  omega

theorem fneg (d : VReg) (a : VReg) : Statement (.fneg d a) := by
  show a3 0x12 d.toNat a.toNat 1 0 < 2 ^ 31
  unfold a3
  have h0 := d.isLt
  have h1 := a.isLt
  omega

theorem fclass (d : VReg) (a : VReg) : Statement (.fclass d a) := by
  show a3 0x12 d.toNat a.toNat 2 0 < 2 ^ 31
  unfold a3
  have h0 := d.isLt
  have h1 := a.isLt
  omega

theorem frnd (d : VReg) (a : VReg) (x : Bool) (r : Rnd) : Statement (.frnd d a x r) := by
  show a3 0x12 d.toNat a.toNat (bit x * 64 + r.code * 16 + 3) 0 < 2 ^ 31
  unfold a3
  have h0 := d.isLt
  have h1 := a.isLt
  have h2 := bit_le x
  have h3 := Rnd.code_lt r
  omega

theorem fsat (d : VReg) (a : VReg) : Statement (.fsat d a) := by
  show a3 0x12 d.toNat a.toNat 4 0 < 2 ^ 31
  unfold a3
  have h0 := d.isLt
  have h1 := a.isLt
  omega

theorem fgete (d : VReg) (a : VReg) : Statement (.fgete d a) := by
  show a3 0x12 d.toNat a.toNat 5 0 < 2 ^ 31
  unfold a3
  have h0 := d.isLt
  have h1 := a.isLt
  omega

theorem fgetm (d : VReg) (a : VReg) : Statement (.fgetm d a) := by
  show a3 0x12 d.toNat a.toNat 6 0 < 2 ^ 31
  unfold a3
  have h0 := d.isLt
  have h1 := a.isLt
  omega

theorem fcmp (p : PReg) (a : VReg) (b : VReg) (k : FCc) : Statement (.fcmp p a b k) := by
  show a3 0x13 p.toNat a.toNat b.toNat k.code < 2 ^ 31
  unfold a3
  have h0 := p.isLt
  have h1 := a.isLt
  have h2 := b.isLt
  have h3 := FCc.code_lt k
  omega

theorem hadd2 (d : VReg) (a : VReg) (b : VReg) (t : Half) : Statement (.hadd2 d a b t) := by
  show a3 0x14 d.toNat a.toNat b.toNat (t.code * 8) < 2 ^ 31
  unfold a3
  have h0 := d.isLt
  have h1 := a.isLt
  have h2 := b.isLt
  have h3 := Half.code_lt t
  omega

theorem hsub2 (d : VReg) (a : VReg) (b : VReg) (t : Half) : Statement (.hsub2 d a b t) := by
  show a3 0x14 d.toNat a.toNat b.toNat (t.code * 8 + 1) < 2 ^ 31
  unfold a3
  have h0 := d.isLt
  have h1 := a.isLt
  have h2 := b.isLt
  have h3 := Half.code_lt t
  omega

theorem hmul2 (d : VReg) (a : VReg) (b : VReg) (t : Half) : Statement (.hmul2 d a b t) := by
  show a3 0x14 d.toNat a.toNat b.toNat (t.code * 8 + 2) < 2 ^ 31
  unfold a3
  have h0 := d.isLt
  have h1 := a.isLt
  have h2 := b.isLt
  have h3 := Half.code_lt t
  omega

theorem hfma2 (d : VReg) (a : VReg) (b : VReg) (t : Half) : Statement (.hfma2 d a b t) := by
  show a3 0x14 d.toNat a.toNat b.toNat (t.code * 8 + 3) < 2 ^ 31
  unfold a3
  have h0 := d.isLt
  have h1 := a.isLt
  have h2 := b.isLt
  have h3 := Half.code_lt t
  omega

theorem hmin2 (d : VReg) (a : VReg) (b : VReg) (t : Half) : Statement (.hmin2 d a b t) := by
  show a3 0x14 d.toNat a.toNat b.toNat (t.code * 8 + 4) < 2 ^ 31
  unfold a3
  have h0 := d.isLt
  have h1 := a.isLt
  have h2 := b.isLt
  have h3 := Half.code_lt t
  omega

theorem hmax2 (d : VReg) (a : VReg) (b : VReg) (t : Half) : Statement (.hmax2 d a b t) := by
  show a3 0x14 d.toNat a.toNat b.toNat (t.code * 8 + 5) < 2 ^ 31
  unfold a3
  have h0 := d.isLt
  have h1 := a.isLt
  have h2 := b.isLt
  have h3 := Half.code_lt t
  omega

theorem dot2h (d : VReg) (a : VReg) (b : VReg) : Statement (.dot2h d a b) := by
  show a3 0x15 d.toNat a.toNat b.toNat 0 < 2 ^ 31
  unfold a3
  have h0 := d.isLt
  have h1 := a.isLt
  have h2 := b.isLt
  omega

theorem dot2b (d : VReg) (a : VReg) (b : VReg) : Statement (.dot2b d a b) := by
  show a3 0x15 d.toNat a.toNat b.toNat 1 < 2 ^ 31
  unfold a3
  have h0 := d.isLt
  have h1 := a.isLt
  have h2 := b.isLt
  omega

theorem dot4e4 (d : VReg) (a : VReg) (b : VReg) : Statement (.dot4e4 d a b) := by
  show a3 0x15 d.toNat a.toNat b.toNat 2 < 2 ^ 31
  unfold a3
  have h0 := d.isLt
  have h1 := a.isLt
  have h2 := b.isLt
  omega

theorem dot4e5 (d : VReg) (a : VReg) (b : VReg) : Statement (.dot4e5 d a b) := by
  show a3 0x15 d.toNat a.toNat b.toNat 3 < 2 ^ 31
  unfold a3
  have h0 := d.isLt
  have h1 := a.isLt
  have h2 := b.isLt
  omega

theorem dot4i (d : VReg) (a : VReg) (b : VReg) : Statement (.dot4i d a b) := by
  show a3 0x15 d.toNat a.toNat b.toNat 4 < 2 ^ 31
  unfold a3
  have h0 := d.isLt
  have h1 := a.isLt
  have h2 := b.isLt
  omega

theorem dot4in (d : VReg) (a : VReg) (b : VReg) : Statement (.dot4in d a b) := by
  show a3 0x15 d.toNat a.toNat b.toNat 5 < 2 ^ 31
  unfold a3
  have h0 := d.isLt
  have h1 := a.isLt
  have h2 := b.isLt
  omega

theorem dot8f (d : VReg) (a : VReg) (b : VReg) : Statement (.dot8f d a b) := by
  show a3 0x15 d.toNat a.toNat b.toNat 6 < 2 ^ 31
  unfold a3
  have h0 := d.isLt
  have h1 := a.isLt
  have h2 := b.isLt
  omega

theorem dot4s (d : VReg) (a : VReg) (b : VReg) : Statement (.dot4s d a b) := by
  show a3 0x15 d.toNat a.toNat b.toNat 7 < 2 ^ 31
  unfold a3
  have h0 := d.isLt
  have h1 := a.isLt
  have h2 := b.isLt
  omega

theorem cvt (d : VReg) (a : VReg) (e : NumTy) (f : NumTy) (r : Rnd) (s : Bool) : Statement (.cvt d a e f r s) := by
  show cf d.toNat a.toNat e.code f.code r.code (bit s) < 2 ^ 31
  unfold cf
  have h0 := d.isLt
  have h1 := a.isLt
  have h2 := NumTy.code_lt e
  have h3 := NumTy.code_lt f
  have h4 := Rnd.code_lt r
  have h5 := bit_le s
  omega

theorem rcp (d : VReg) (a : VReg) : Statement (.rcp d a) := by
  show a3 0x17 d.toNat a.toNat 0 0 < 2 ^ 31
  unfold a3
  have h0 := d.isLt
  have h1 := a.isLt
  omega

theorem rsq (d : VReg) (a : VReg) : Statement (.rsq d a) := by
  show a3 0x17 d.toNat a.toNat 0 1 < 2 ^ 31
  unfold a3
  have h0 := d.isLt
  have h1 := a.isLt
  omega

theorem sqrt (d : VReg) (a : VReg) : Statement (.sqrt d a) := by
  show a3 0x17 d.toNat a.toNat 0 2 < 2 ^ 31
  unfold a3
  have h0 := d.isLt
  have h1 := a.isLt
  omega

theorem exp2 (d : VReg) (a : VReg) : Statement (.exp2 d a) := by
  show a3 0x17 d.toNat a.toNat 0 3 < 2 ^ 31
  unfold a3
  have h0 := d.isLt
  have h1 := a.isLt
  omega

theorem log2 (d : VReg) (a : VReg) : Statement (.log2 d a) := by
  show a3 0x17 d.toNat a.toNat 0 4 < 2 ^ 31
  unfold a3
  have h0 := d.isLt
  have h1 := a.isLt
  omega

theorem sin (d : VReg) (a : VReg) : Statement (.sin d a) := by
  show a3 0x17 d.toNat a.toNat 0 5 < 2 ^ 31
  unfold a3
  have h0 := d.isLt
  have h1 := a.isLt
  omega

theorem cos (d : VReg) (a : VReg) : Statement (.cos d a) := by
  show a3 0x17 d.toNat a.toNat 0 6 < 2 ^ 31
  unfold a3
  have h0 := d.isLt
  have h1 := a.isLt
  omega

theorem tanh (d : VReg) (a : VReg) : Statement (.tanh d a) := by
  show a3 0x17 d.toNat a.toNat 0 7 < 2 ^ 31
  unfold a3
  have h0 := d.isLt
  have h1 := a.isLt
  omega

theorem shfli (d : VReg) (a : VReg) (b : VReg) : Statement (.shfli d a b) := by
  show a3 0x18 d.toNat a.toNat b.toNat 0 < 2 ^ 31
  unfold a3
  have h0 := d.isLt
  have h1 := a.isLt
  have h2 := b.isLt
  omega

theorem shflu (d : VReg) (a : VReg) (i : BitVec 7) : Statement (.shflu d a i) := by
  show a3 0x18 d.toNat a.toNat i.toNat 1 < 2 ^ 31
  unfold a3
  have h0 := d.isLt
  have h1 := a.isLt
  have h2 := i.isLt
  omega

theorem shfld (d : VReg) (a : VReg) (i : BitVec 7) : Statement (.shfld d a i) := by
  show a3 0x18 d.toNat a.toNat i.toNat 2 < 2 ^ 31
  unfold a3
  have h0 := d.isLt
  have h1 := a.isLt
  have h2 := i.isLt
  omega

theorem shflx (d : VReg) (a : VReg) (i : BitVec 7) : Statement (.shflx d a i) := by
  show a3 0x18 d.toNat a.toNat i.toNat 3 < 2 ^ 31
  unfold a3
  have h0 := d.isLt
  have h1 := a.isLt
  have h2 := i.isLt
  omega

theorem bcast (d : VReg) (a : VReg) (i : BitVec 7) : Statement (.bcast d a i) := by
  show a3 0x18 d.toNat a.toNat i.toNat 4 < 2 ^ 31
  unfold a3
  have h0 := d.isLt
  have h1 := a.isLt
  have h2 := i.isLt
  omega

theorem voteany (d : PReg) (a : PReg) : Statement (.voteany d a) := by
  show a3 0x18 d.toNat a.toNat 0 5 < 2 ^ 31
  unfold a3
  have h0 := d.isLt
  have h1 := a.isLt
  omega

theorem voteall (d : PReg) (a : PReg) : Statement (.voteall d a) := by
  show a3 0x18 d.toNat a.toNat 0 6 < 2 ^ 31
  unfold a3
  have h0 := d.isLt
  have h1 := a.isLt
  omega

theorem ballot (d : VReg) (a : PReg) : Statement (.ballot d a) := by
  show a3 0x18 d.toNat a.toNat 0 7 < 2 ^ 31
  unfold a3
  have h0 := d.isLt
  have h1 := a.isLt
  omega

theorem matchv (d : VReg) (a : VReg) : Statement (.matchv d a) := by
  show a3 0x18 d.toNat a.toNat 0 8 < 2 ^ 31
  unfold a3
  have h0 := d.isLt
  have h1 := a.isLt
  omega

theorem wredadd (d : VReg) (a : VReg) : Statement (.wredadd d a) := by
  show a3 0x18 d.toNat a.toNat 0 9 < 2 ^ 31
  unfold a3
  have h0 := d.isLt
  have h1 := a.isLt
  omega

theorem wredfadd (d : VReg) (a : VReg) : Statement (.wredfadd d a) := by
  show a3 0x18 d.toNat a.toNat 0 10 < 2 ^ 31
  unfold a3
  have h0 := d.isLt
  have h1 := a.isLt
  omega

theorem wredmin (d : VReg) (a : VReg) : Statement (.wredmin d a) := by
  show a3 0x18 d.toNat a.toNat 0 11 < 2 ^ 31
  unfold a3
  have h0 := d.isLt
  have h1 := a.isLt
  omega

theorem wredmax (d : VReg) (a : VReg) : Statement (.wredmax d a) := by
  show a3 0x18 d.toNat a.toNat 0 12 < 2 ^ 31
  unfold a3
  have h0 := d.isLt
  have h1 := a.isLt
  omega

theorem wredfmax (d : VReg) (a : VReg) : Statement (.wredfmax d a) := by
  show a3 0x18 d.toNat a.toNat 0 13 < 2 ^ 31
  unfold a3
  have h0 := d.isLt
  have h1 := a.isLt
  omega

theorem wscan (d : VReg) (a : VReg) : Statement (.wscan d a) := by
  show a3 0x18 d.toNat a.toNat 0 14 < 2 ^ 31
  unfold a3
  have h0 := d.isLt
  have h1 := a.isLt
  omega

theorem pand (d : PReg) (a : PReg) (b : PReg) : Statement (.pand d a b) := by
  show a3 0x19 d.toNat a.toNat b.toNat 0 < 2 ^ 31
  unfold a3
  have h0 := d.isLt
  have h1 := a.isLt
  have h2 := b.isLt
  omega

theorem por (d : PReg) (a : PReg) (b : PReg) : Statement (.por d a b) := by
  show a3 0x19 d.toNat a.toNat b.toNat 1 < 2 ^ 31
  unfold a3
  have h0 := d.isLt
  have h1 := a.isLt
  have h2 := b.isLt
  omega

theorem pxor (d : PReg) (a : PReg) (b : PReg) : Statement (.pxor d a b) := by
  show a3 0x19 d.toNat a.toNat b.toNat 2 < 2 ^ 31
  unfold a3
  have h0 := d.isLt
  have h1 := a.isLt
  have h2 := b.isLt
  omega

theorem pandn (d : PReg) (a : PReg) (b : PReg) : Statement (.pandn d a b) := by
  show a3 0x19 d.toNat a.toNat b.toNat 3 < 2 ^ 31
  unfold a3
  have h0 := d.isLt
  have h1 := a.isLt
  have h2 := b.isLt
  omega

theorem pnot (d : PReg) (a : PReg) : Statement (.pnot d a) := by
  show a3 0x19 d.toNat a.toNat 0 4 < 2 ^ 31
  unfold a3
  have h0 := d.isLt
  have h1 := a.isLt
  omega

theorem prdw (d : VReg) : Statement (.prdw d) := by
  show a3 0x19 d.toNat 0 0 5 < 2 ^ 31
  unfold a3
  have h0 := d.isLt
  omega

theorem pwrw (a : VReg) : Statement (.pwrw a) := by
  show a3 0x19 0 a.toNat 0 6 < 2 ^ 31
  unfold a3
  have h0 := a.isLt
  omega

theorem pk2h (d : VReg) (a : VReg) (b : VReg) (s : Bool) : Statement (.pk2h d a b s) := by
  show a3 0x1A d.toNat a.toNat b.toNat (bit s * 8) < 2 ^ 31
  unfold a3
  have h0 := d.isLt
  have h1 := a.isLt
  have h2 := b.isLt
  have h3 := bit_le s
  omega

theorem pk2b (d : VReg) (a : VReg) (b : VReg) (s : Bool) : Statement (.pk2b d a b s) := by
  show a3 0x1A d.toNat a.toNat b.toNat (bit s * 8 + 1) < 2 ^ 31
  unfold a3
  have h0 := d.isLt
  have h1 := a.isLt
  have h2 := b.isLt
  have h3 := bit_le s
  omega

theorem pk4e4 (d : VReg) (a : VReg) (b : VReg) (s : Bool) : Statement (.pk4e4 d a b s) := by
  show a3 0x1A d.toNat a.toNat b.toNat (bit s * 8 + 2) < 2 ^ 31
  unfold a3
  have h0 := d.isLt
  have h1 := a.isLt
  have h2 := b.isLt
  have h3 := bit_le s
  omega

theorem pk4e5 (d : VReg) (a : VReg) (b : VReg) (s : Bool) : Statement (.pk4e5 d a b s) := by
  show a3 0x1A d.toNat a.toNat b.toNat (bit s * 8 + 3) < 2 ^ 31
  unfold a3
  have h0 := d.isLt
  have h1 := a.isLt
  have h2 := b.isLt
  have h3 := bit_le s
  omega

theorem pk8f (d : VReg) (a : VReg) (b : VReg) (s : Bool) : Statement (.pk8f d a b s) := by
  show a3 0x1A d.toNat a.toNat b.toNat (bit s * 8 + 4) < 2 ^ 31
  unfold a3
  have h0 := d.isLt
  have h1 := a.isLt
  have h2 := b.isLt
  have h3 := bit_le s
  omega

theorem unpklo (d : VReg) (a : VReg) (t : UnpkTy) : Statement (.unpklo d a t) := by
  show a3 0x1A d.toNat a.toNat t.code 5 < 2 ^ 31
  unfold a3
  have h0 := d.isLt
  have h1 := a.isLt
  have h2 := UnpkTy.code_lt t
  omega

theorem unpkhi (d : VReg) (a : VReg) (t : UnpkTy) : Statement (.unpkhi d a t) := by
  show a3 0x1A d.toNat a.toNat t.code 6 < 2 ^ 31
  unfold a3
  have h0 := d.isLt
  have h1 := a.isLt
  have h2 := UnpkTy.code_lt t
  omega

theorem sel (d : VReg) (a : VReg) (b : VReg) (p : PReg) : Statement (.sel d a b p) := by
  show a3 0x1B d.toNat a.toNat b.toNat (p.toNat * 2) < 2 ^ 31
  unfold a3
  have h0 := d.isLt
  have h1 := a.isLt
  have h2 := b.isLt
  have h3 := p.isLt
  omega

theorem ld (d : VReg) (a : VReg) (s : BitVec 4) (w : Width) (q : Bool) (g : Scope) (x : Bool) (m : Bool) : Statement (.ld d a s w q g x m) := by
  show mf 0x20 d.toNat a.toNat s.toNat w.code (bit q * 16 + g.code * 4 + bit x * 2 + bit m) < 2 ^ 31
  unfold mf
  have h0 := d.isLt
  have h1 := a.isLt
  have h2 := s.isLt
  have h3 := Width.code_lt w
  have h4 := bit_le q
  have h5 := Scope.code_lt g
  have h6 := bit_le x
  have h7 := bit_le m
  omega

theorem st (d : VReg) (a : VReg) (s : BitVec 4) (w : Width) (q : Bool) (g : Scope) (m : Bool) : Statement (.st d a s w q g m) := by
  show mf 0x21 d.toNat a.toNat s.toNat w.code (bit q * 16 + g.code * 4 + bit m) < 2 ^ 31
  unfold mf
  have h0 := d.isLt
  have h1 := a.isLt
  have h2 := s.isLt
  have h3 := Width.code_lt w
  have h4 := bit_le q
  have h5 := Scope.code_lt g
  have h6 := bit_le m
  omega

theorem lds (d : VReg) (a : VReg) (s : BitVec 4) (w : Width) (x : Bool) : Statement (.lds d a s w x) := by
  show mf 0x22 d.toNat a.toNat s.toNat w.code (bit x * 2) < 2 ^ 31
  unfold mf
  have h0 := d.isLt
  have h1 := a.isLt
  have h2 := s.isLt
  have h3 := Width.code_lt w
  have h4 := bit_le x
  omega

theorem sts (d : VReg) (a : VReg) (s : BitVec 4) (w : Width) : Statement (.sts d a s w) := by
  show mf 0x22 d.toNat a.toNat s.toNat w.code 8 < 2 ^ 31
  unfold mf
  have h0 := d.isLt
  have h1 := a.isLt
  have h2 := s.isLt
  have h3 := Width.code_lt w
  omega

theorem ldp (d : VReg) (a : VReg) (s : BitVec 4) (w : Width) (x : Bool) : Statement (.ldp d a s w x) := by
  show mf 0x23 d.toNat a.toNat s.toNat w.code (bit x * 2) < 2 ^ 31
  unfold mf
  have h0 := d.isLt
  have h1 := a.isLt
  have h2 := s.isLt
  have h3 := Width.code_lt w
  have h4 := bit_le x
  omega

theorem stp (d : VReg) (a : VReg) (s : BitVec 4) (w : Width) : Statement (.stp d a s w) := by
  show mf 0x23 d.toNat a.toNat s.toNat w.code 8 < 2 ^ 31
  unfold mf
  have h0 := d.isLt
  have h1 := a.isLt
  have h2 := s.isLt
  have h3 := Width.code_lt w
  omega

theorem rld (d : VReg) (a : VReg) (k : VReg) (g : BitVec 2) : Statement (.rld d a k g) := by
  show a3 0x24 d.toNat a.toNat k.toNat (g.toNat * 4) < 2 ^ 31
  unfold a3
  have h0 := d.isLt
  have h1 := a.isLt
  have h2 := k.isLt
  have h3 := g.isLt
  omega

theorem rst (d : VReg) (a : VReg) (k : VReg) (g : BitVec 2) : Statement (.rst d a k g) := by
  show a3 0x24 d.toNat a.toNat k.toNat (g.toNat * 4 + 1) < 2 ^ 31
  unfold a3
  have h0 := d.isLt
  have h1 := a.isLt
  have h2 := k.isLt
  have h3 := g.isLt
  omega

theorem mcst (d : VReg) (a : VReg) (g : BitVec 2) : Statement (.mcst d a g) := by
  show a3 0x24 d.toNat a.toNat 0 (g.toNat * 4 + 2) < 2 ^ 31
  unfold a3
  have h0 := d.isLt
  have h1 := a.isLt
  have h2 := g.isLt
  omega

theorem atom (d : VReg) (a : VReg) (s : BitVec 4) (w : AWidth) (o : AtomOp) (r : Bool) : Statement (.atom d a s w o r) := by
  show mf 0x25 d.toNat a.toNat s.toNat w.code (o.code * 2 + bit r) < 2 ^ 31
  unfold mf
  have h0 := d.isLt
  have h1 := a.isLt
  have h2 := s.isLt
  have h3 := AWidth.code_lt w
  have h4 := AtomOp.code_lt o
  have h5 := bit_le r
  omega

theorem atoms (d : VReg) (a : VReg) (s : BitVec 4) (w : AWidth) (o : AtomOp) (r : Bool) : Statement (.atoms d a s w o r) := by
  show mf 0x26 d.toNat a.toNat s.toNat w.code (o.code * 2 + bit r) < 2 ^ 31
  unfold mf
  have h0 := d.isLt
  have h1 := a.isLt
  have h2 := s.isLt
  have h3 := AWidth.code_lt w
  have h4 := AtomOp.code_lt o
  have h5 := bit_le r
  omega

theorem mcas (d : VReg) (a : VReg) (s : BitVec 4) : Statement (.mcas d a s) := by
  show mf 0x27 d.toNat a.toNat s.toNat 0 0 < 2 ^ 31
  unfold mf
  have h0 := d.isLt
  have h1 := a.isLt
  have h2 := s.isLt
  omega

theorem fence (s : FScope) (k : FKind) : Statement (.fence s k) := by
  show a3 0x27 (s.code * 16 + k.code * 4) 0 0 1 < 2 ^ 31
  unfold a3
  have h0 := FScope.code_lt s
  have h1 := FKind.code_lt k
  omega

theorem pref (a : VReg) (s : BitVec 4) (l : PLevel) : Statement (.pref a s l) := by
  show mf 0x27 0 a.toNat s.toNat l.code 2 < 2 ^ 31
  unfold mf
  have h0 := a.isLt
  have h1 := s.isLt
  have h2 := PLevel.code_lt l
  omega

theorem clean (a : VReg) (s : BitVec 4) : Statement (.clean a s) := by
  show mf 0x27 0 a.toNat s.toNat 0 3 < 2 ^ 31
  unfold mf
  have h0 := a.isLt
  have h1 := s.isLt
  omega

theorem invs (a : VReg) (s : BitVec 4) : Statement (.invs a s) := by
  show mf 0x27 0 a.toNat s.toNat 0 4 < 2 ^ 31
  unfold mf
  have h0 := a.isLt
  have h1 := s.isLt
  omega

theorem qld (a : SReg) (q : BitVec 2) : Statement (.qld a q) := by
  show a3 0x28 0 a.toNat (q.toNat * 32) 0 < 2 ^ 31
  unfold a3
  have h0 := a.isLt
  have h1 := q.isLt
  omega

theorem qst (a : SReg) (q : BitVec 2) : Statement (.qst a q) := by
  show a3 0x28 0 a.toNat (q.toNat * 32) 1 < 2 ^ 31
  unfold a3
  have h0 := a.isLt
  have h1 := q.isLt
  omega

theorem qstop (q : BitVec 2) : Statement (.qstop q) := by
  show a3 0x28 0 0 (q.toNat * 32) 2 < 2 ^ 31
  unfold a3
  have h0 := q.isLt
  omega

theorem qstat (d : SReg) (q : BitVec 2) : Statement (.qstat d q) := by
  show a3 0x28 d.toNat 0 (q.toNat * 32) 3 < 2 ^ 31
  unfold a3
  have h0 := d.isLt
  have h1 := q.isLt
  omega

theorem cpy (a : SReg) (x : Bool) : Statement (.cpy a x) := by
  show a3 0x29 a.toNat 0 (bit x) 0 < 2 ^ 31
  unfold a3
  have h0 := a.isLt
  have h1 := bit_le x
  omega

theorem cpyt (a : SReg) (x : Bool) : Statement (.cpyt a x) := by
  show a3 0x29 a.toNat 0 (bit x) 1 < 2 ^ 31
  unfold a3
  have h0 := a.isLt
  have h1 := bit_le x
  omega

theorem cpyg (a : SReg) (v : VReg) (x : Bool) : Statement (.cpyg a v x) := by
  show a3 0x29 a.toNat v.toNat (bit x) 2 < 2 ^ 31
  unfold a3
  have h0 := a.isLt
  have h1 := v.isLt
  have h2 := bit_le x
  omega

theorem cpyp (a : SReg) (x : Bool) : Statement (.cpyp a x) := by
  show a3 0x29 a.toNat 0 (bit x) 3 < 2 ^ 31
  unfold a3
  have h0 := a.isLt
  have h1 := bit_le x
  omega

theorem cpym (a : SReg) (x : Bool) : Statement (.cpym a x) := by
  show a3 0x29 a.toNat 0 (bit x) 4 < 2 ^ 31
  unfold a3
  have h0 := a.isLt
  have h1 := bit_le x
  omega

theorem cpys (a : SReg) (x : Bool) : Statement (.cpys a x) := by
  show a3 0x29 a.toNat 0 (bit x) 5 < 2 ^ 31
  unfold a3
  have h0 := a.isLt
  have h1 := bit_le x
  omega

theorem cpyb (a : SReg) (x : Bool) : Statement (.cpyb a x) := by
  show a3 0x29 a.toNat 0 (bit x) 6 < 2 ^ 31
  unfold a3
  have h0 := a.isLt
  have h1 := bit_le x
  omega

theorem cbcfg (a : SReg) (n : BitVec 4) : Statement (.cbcfg a n) := by
  show ai 0x2A 0 a.toNat n.toNat 0 < 2 ^ 31
  unfold ai
  have h0 := a.isLt
  have h1 := n.isLt
  omega

theorem cbcom (n : BitVec 4) : Statement (.cbcom n) := by
  show ai 0x2A 0 0 n.toNat 1 < 2 ^ 31
  unfold ai
  have h0 := n.isLt
  omega

theorem cbrel (n : BitVec 4) : Statement (.cbrel n) := by
  show ai 0x2A 0 0 n.toNat 2 < 2 ^ 31
  unfold ai
  have h0 := n.isLt
  omega

theorem cbqry (d : SReg) (n : BitVec 4) : Statement (.cbqry d n) := by
  show ai 0x2A d.toNat 0 n.toNat 3 < 2 ^ 31
  unfold ai
  have h0 := d.isLt
  have h1 := n.isLt
  omega

theorem binit (g : Bool) (a : SReg) (b : SReg) : Statement (.binit g a b) := by
  show a3 0x2B (bit g * 64) a.toNat b.toNat 0 < 2 ^ 31
  unfold a3
  have h0 := bit_le g
  have h1 := a.isLt
  have h2 := b.isLt
  omega

theorem barv (g : Bool) (a : SReg) : Statement (.barv g a) := by
  show a3 0x2B (bit g * 64) a.toNat 0 1 < 2 ^ 31
  unfold a3
  have h0 := bit_le g
  have h1 := a.isLt
  omega

theorem bexp (g : Bool) (a : SReg) (b : SReg) : Statement (.bexp g a b) := by
  show a3 0x2B (bit g * 64) a.toNat b.toNat 2 < 2 ^ 31
  unfold a3
  have h0 := bit_le g
  have h1 := a.isLt
  have h2 := b.isLt
  omega

theorem bwait (g : Bool) (a : SReg) (b : SReg) : Statement (.bwait g a b) := by
  show a3 0x2B (bit g * 64) a.toNat b.toNat 3 < 2 ^ 31
  unfold a3
  have h0 := bit_le g
  have h1 := a.isLt
  have h2 := b.isLt
  omega

theorem btest (g : Bool) (p : PReg) (a : SReg) (b : SReg) : Statement (.btest g p a b) := by
  show a3 0x2B (bit g * 64 + p.toNat) a.toNat b.toNat 4 < 2 ^ 31
  unfold a3
  have h0 := bit_le g
  have h1 := p.isLt
  have h2 := a.isLt
  have h3 := b.isLt
  omega

theorem oent (d : VReg) (a : VReg) (b : VReg) : Statement (.oent d a b) := by
  show a3 0x2C d.toNat a.toNat b.toNat 0 < 2 ^ 31
  unfold a3
  have h0 := d.isLt
  have h1 := a.isLt
  have h2 := b.isLt
  omega

theorem oleave (a : VReg) : Statement (.oleave a) := by
  show a3 0x2C 0 a.toNat 0 1 < 2 ^ 31
  unfold a3
  have h0 := a.isLt
  omega

theorem oskip (a : VReg) (b : VReg) : Statement (.oskip a b) := by
  show a3 0x2C 0 a.toNat b.toNat 2 < 2 ^ 31
  unfold a3
  have h0 := a.isLt
  have h1 := b.isLt
  omega

theorem oqry (d : VReg) (a : VReg) : Statement (.oqry d a) := by
  show a3 0x2C d.toNat a.toNat 0 3 < 2 ^ 31
  unfold a3
  have h0 := d.isLt
  have h1 := a.isLt
  omega

theorem mma (z : BitVec 5) (a : VReg) (b : BitVec 4) (f : MmaFmt) (t : Bool) (m : Bool) (u : Bool) (n : Bool) : Statement (.mma z a b f t m u n) := by
  show xf 0x30 z.toNat a.toNat b.toNat f.code (bit t * 8 + bit m * 4 + bit u * 2 + bit n) < 2 ^ 31
  unfold xf
  have h0 := z.isLt
  have h1 := a.isLt
  have h2 := b.isLt
  have h3 := MmaFmt.code_lt f
  have h4 := bit_le t
  have h5 := bit_le m
  have h6 := bit_le u
  have h7 := bit_le n
  omega

theorem mmac (z : BitVec 5) (s : BitVec 5) (q : BitVec 2) (b : BitVec 4) (f : MmacFmt) (x : Bool) (t : Bool) (u : Bool) (n : Bool) : Statement (.mmac z s q b f x t u n) := by
  show xf 0x31 z.toNat (s.toNat * 4 + q.toNat) b.toNat f.code (bit x * 16 + bit t * 8 + bit u * 2 + bit n) < 2 ^ 31
  unfold xf
  have h0 := z.isLt
  have h1 := s.isLt
  have h2 := q.isLt
  have h3 := b.isLt
  have h4 := MmacFmt.code_lt f
  have h5 := bit_le x
  have h6 := bit_le t
  have h7 := bit_le u
  have h8 := bit_le n
  omega

theorem zclr (z : BitVec 5) (s : SlabCnt) : Statement (.zclr z s) := by
  show zf z.toNat s.code 0 0 0 0 < 2 ^ 31
  unfold zf
  have h0 := z.isLt
  have h1 := SlabCnt.code_lt s
  omega

theorem zld (z : BitVec 5) (s : SlabCnt) (a : SReg) : Statement (.zld z s a) := by
  show zf z.toNat s.code a.toNat 0 0 1 < 2 ^ 31
  unfold zf
  have h0 := z.isLt
  have h1 := SlabCnt.code_lt s
  have h2 := a.isLt
  omega

theorem zst (z : BitVec 5) (s : SlabCnt) (a : SReg) : Statement (.zst z s a) := by
  show zf z.toNat s.code a.toNat 0 0 2 < 2 ^ 31
  unfold zf
  have h0 := z.isLt
  have h1 := SlabCnt.code_lt s
  have h2 := a.isLt
  omega

theorem zdrain (z : BitVec 5) (s : SlabCnt) (a : SReg) (t : Dst) (l : Bool) : Statement (.zdrain z s a t l) := by
  show zf z.toNat s.code a.toNat t.code (bit l) 3 < 2 ^ 31
  unfold zf
  have h0 := z.isLt
  have h1 := SlabCnt.code_lt s
  have h2 := a.isLt
  have h3 := Dst.code_lt t
  have h4 := bit_le l
  omega

theorem opfence : Statement .opfence := by
  show zf 0 0 0 0 0 4 < 2 ^ 31
  unfold zf
  omega

theorem episel (a : SReg) : Statement (.episel a) := by
  show zf 0 0 a.toNat 0 0 5 < 2 ^ 31
  unfold zf
  have h0 := a.isLt
  omega

theorem prim (a : SReg) : Statement (.prim a) := by
  show a3 0x33 0 a.toNat 0 0 < 2 ^ 31
  unfold a3
  have h0 := a.isLt
  omega

theorem fexp (a : VReg) (b : VReg) : Statement (.fexp a b) := by
  show a3 0x33 0 a.toNat b.toNat 1 < 2 ^ 31
  unfold a3
  have h0 := a.isLt
  have h1 := b.isLt
  omega

theorem attr (d : VReg) (a : VReg) (p : Bool) (j : BitVec 3) : Statement (.attr d a p j) := by
  show a3 0x33 d.toNat a.toNat (bit p * 64 + j.toNat) 2 < 2 ^ 31
  unfold a3
  have h0 := d.isLt
  have h1 := a.isLt
  have h2 := bit_le p
  have h3 := j.isLt
  omega

theorem fdisc : Statement .fdisc := by
  show a3 0x33 0 0 0 3 < 2 ^ 31
  unfold a3
  omega

theorem srfset (a : SReg) (b : SReg) : Statement (.srfset a b) := by
  show a3 0x33 0 a.toNat b.toNat 4 < 2 ^ 31
  unfold a3
  have h0 := a.isLt
  have h1 := b.isLt
  omega

theorem srfqry (d : SReg) (a : SReg) : Statement (.srfqry d a) := by
  show a3 0x33 d.toNat a.toNat 0 5 < 2 ^ 31
  unfold a3
  have h0 := d.isLt
  have h1 := a.isLt
  omega

theorem srfld (d : VReg) (a : VReg) (b : SReg) : Statement (.srfld d a b) := by
  show a3 0x33 d.toNat a.toNat b.toNat 6 < 2 ^ 31
  unfold a3
  have h0 := d.isLt
  have h1 := a.isLt
  have h2 := b.isLt
  omega

theorem srfst (d : VReg) (a : VReg) (b : SReg) : Statement (.srfst d a b) := by
  show a3 0x33 d.toNat a.toNat b.toNat 7 < 2 ^ 31
  unfold a3
  have h0 := d.isLt
  have h1 := a.isLt
  have h2 := b.isLt
  omega

theorem tex2 (d : VReg) (a : VReg) (b : SReg) : Statement (.tex2 d a b) := by
  show a3 0x34 d.toNat a.toNat b.toNat 0 < 2 ^ 31
  unfold a3
  have h0 := d.isLt
  have h1 := a.isLt
  have h2 := b.isLt
  omega

theorem plot (a : SReg) : Statement (.plot a) := by
  show a3 0x35 0 a.toNat 0 0 < 2 ^ 31
  unfold a3
  have h0 := a.isLt
  omega

theorem bka (d : VReg) (a : VReg) : Statement (.bka d a) := by
  show a3 0x35 d.toNat a.toNat 0 1 < 2 ^ 31
  unfold a3
  have h0 := d.isLt
  have h1 := a.isLt
  omega

theorem bkt (d : VReg) (a : VReg) (q : Bool) : Statement (.bkt d a q) := by
  show a3 0x35 d.toNat a.toNat (bit q) 2 < 2 ^ 31
  unfold a3
  have h0 := d.isLt
  have h1 := a.isLt
  have h2 := bit_le q
  omega

theorem bks (d : VReg) (a : VReg) : Statement (.bks d a) := by
  show a3 0x35 d.toNat a.toNat 0 3 < 2 ^ 31
  unfold a3
  have h0 := d.isLt
  have h1 := a.isLt
  omega

theorem bkf (a : VReg) : Statement (.bkf a) := by
  show a3 0x35 0 a.toNat 0 4 < 2 ^ 31
  unfold a3
  have h0 := a.isLt
  omega

theorem launch (d : SReg) (a : SReg) : Statement (.launch d a) := by
  show a3 0x36 d.toNat a.toNat 0 0 < 2 ^ 31
  unfold a3
  have h0 := d.isLt
  have h1 := a.isLt
  omega

theorem tlbinv (a : SReg) (b : SReg) : Statement (.tlbinv a b) := by
  show a3 0x36 0 a.toNat b.toNat 1 < 2 ^ 31
  unfold a3
  have h0 := a.isLt
  have h1 := b.isLt
  omega

theorem keyld (a : SReg) (b : SReg) : Statement (.keyld a b) := by
  show a3 0x36 0 a.toNat b.toNat 2 < 2 ^ 31
  unfold a3
  have h0 := a.isLt
  have h1 := b.isLt
  omega

theorem reset : Statement .reset := by
  show 0 < 2 ^ 31
  decide

theorem frstrbEdge : Statement .frstrbEdge := by
  show 0 < 2 ^ 31
  decide

theorem create (slot : Nat) : Statement (.create slot) := by
  show 0 < 2 ^ 31
  decide

theorem update (slot : Nat) : Statement (.update slot) := by
  show 0 < 2 ^ 31
  decide

theorem kill (slot : Nat) : Statement (.kill slot) := by
  show 0 < 2 ^ 31
  decide

theorem attest (slot : Nat) : Statement (.attest slot) := by
  show 0 < 2 ^ 31
  decide

theorem route (slot : Nat) : Statement (.route slot) := by
  show 0 < 2 ^ 31
  decide

theorem log (slot : Nat) : Statement (.log slot) := by
  show 0 < 2 ^ 31
  decide

theorem stackreset (slot : Nat) : Statement (.stackreset slot) := by
  show 0 < 2 ^ 31
  decide

theorem thermal (slot : Nat) : Statement (.thermal slot) := by
  show 0 < 2 ^ 31
  decide

theorem unknownOpcode (slot : Nat) : Statement (.unknownOpcode slot) := by
  show 0 < 2 ^ 31
  decide

theorem launchDoorbell (ctx : Nat) (q : Nat) : Statement (.launchDoorbell ctx q) := by
  show 0 < 2 ^ 31
  decide

theorem launchQueueEntry (ctx : Nat) (q : Nat) : Statement (.launchQueueEntry ctx q) := by
  show 0 < 2 ^ 31
  decide

theorem msiXTableEntry (v : Nat) (part : Nat) (value : Word) : Statement (.msiXTableEntry v part value) := by
  show 0 < 2 ^ 31
  decide

theorem registerWrite (off : Nat) (n : Nat) (value : DWord) : Statement (.registerWrite off n value) := by
  show 0 < 2 ^ 31
  decide

theorem cxlMemAccess (write : Bool) (pa : Nat) (n : Nat) (value : DWord) : Statement (.cxlMemAccess write pa n value) := by
  show 0 < 2 ^ 31
  decide

theorem peerCommand (src : Nat) (origin : Nat) (id : Nat) (ctx : Nat) (pa : Nat) (op : PeerOp) : Statement (.peerCommand src origin id ctx pa op) := by
  show 0 < 2 ^ 31
  decide

theorem flitForward (src : BitVec 8) (dst : BitVec 8) (payload : FlitBody) : Statement (.flitForward src dst payload) := by
  show 0 < 2 ^ 31
  decide

theorem replay (port : Nat) : Statement (.replay port) := by
  show 0 < 2 ^ 31
  decide

theorem linkDown (port : Nat) : Statement (.linkDown port) := by
  show 0 < 2 ^ 31
  decide

theorem linkRecovery (port : Nat) : Statement (.linkRecovery port) := by
  show 0 < 2 ^ 31
  decide

theorem temperatureAboveLimit (stack : Nat) : Statement (.temperatureAboveLimit stack) := by
  show 0 < 2 ^ 31
  decide

theorem throttleStep (stack : Nat) : Statement (.throttleStep stack) := by
  show 0 < 2 ^ 31
  decide

theorem thermalTrip (stack : Nat) : Statement (.thermalTrip stack) := by
  show 0 < 2 ^ 31
  decide

theorem regulatorFault : Statement .regulatorFault := by
  show 0 < 2 ^ 31
  decide

theorem regulatorFaultCleared : Statement .regulatorFaultCleared := by
  show 0 < 2 ^ 31
  decide

theorem powerArbiterStep (stack : Nat) (k : Nat) : Statement (.powerArbiterStep stack k) := by
  show 0 < 2 ^ 31
  decide

theorem faultRetry (f : FaultReport) : Statement (.faultRetry f) := by
  show 0 < 2 ^ 31
  decide

theorem surveyorPass (stack : Nat) (corrected : List (Nat × Nat × Bool)) (bad : List (Nat × Nat)) : Statement (.surveyorPass stack corrected bad) := by
  show 0 < 2 ^ 31
  decide

theorem verticalBusRepair (stack : Nat) (bundle : Nat) (lane : Nat) : Statement (.verticalBusRepair stack bundle lane) := by
  show 0 < 2 ^ 31
  decide

theorem repairRemap (stack : Nat) (bundle : Nat) (lane : Nat) : Statement (.repairRemap stack bundle lane) := by
  show 0 < 2 ^ 31
  decide

theorem blockAdmit (stack : Nat) : Statement (.blockAdmit stack) := by
  show 0 < 2 ^ 31
  decide

theorem admissionWaitExpiry (stack : Nat) (launch : Nat) : Statement (.admissionWaitExpiry stack launch) := by
  show 0 < 2 ^ 31
  decide

theorem blockRetire (blk : Nat) : Statement (.blockRetire blk) := by
  show 0 < 2 ^ 31
  decide

theorem completionArrival (ctx : Nat) (va : Nat) (record : Nat) (source : Nat) : Statement (.completionArrival ctx va record source) := by
  show 0 < 2 ^ 31
  decide

theorem waveToPending (wave : Nat) : Statement (.waveToPending wave) := by
  show 0 < 2 ^ 31
  decide

theorem pendingWaveReady (wave : Nat) : Statement (.pendingWaveReady wave) := by
  show 0 < 2 ^ 31
  decide

theorem forcedExchange (core : Nat) : Statement (.forcedExchange core) := by
  show 0 < 2 ^ 31
  decide

theorem saveOnWait (blk : Nat) : Statement (.saveOnWait blk) := by
  show 0 < 2 ^ 31
  decide

theorem saveComplete (blk : Nat) : Statement (.saveComplete blk) := by
  show 0 < 2 ^ 31
  decide

theorem relaunch (blk : Nat) : Statement (.relaunch blk) := by
  show 0 < 2 ^ 31
  decide

theorem migration (blk : Nat) : Statement (.migration blk) := by
  show 0 < 2 ^ 31
  decide

theorem migrationComplete (blk : Nat) (core : Nat) : Statement (.migrationComplete blk core) := by
  show 0 < 2 ^ 31
  decide

theorem forwardingEntryRelease (blk : Nat) : Statement (.forwardingEntryRelease blk) := by
  show 0 < 2 ^ 31
  decide

theorem preemptionRequest (blk : Nat) : Statement (.preemptionRequest blk) := by
  show 0 < 2 ^ 31
  decide

theorem trapEntry (wave : Nat) : Statement (.trapEntry wave) := by
  show 0 < 2 ^ 31
  decide

theorem barrierOverrunReport (wave : Nat) (taddr : Nat) : Statement (.barrierOverrunReport wave taddr) := by
  show 0 < 2 ^ 31
  decide

theorem droppedBarrierRequest (wave : Nat) (lanes : Nat) (taddr : Nat) (packet : Nat) (slot : Nat) (dst : Option PReg) : Statement (.droppedBarrierRequest wave lanes taddr packet slot dst) := by
  show 0 < 2 ^ 31
  decide

theorem tableFullReport (wave : Nat) (lanes : Nat) (key : Word) (skip : Bool) : Statement (.tableFullReport wave lanes key skip) := by
  show 0 < 2 ^ 31
  decide

theorem blockStoreFailure (wave : Nat) (lanes : Nat) (reason : Nat) : Statement (.blockStoreFailure wave lanes reason) := by
  show 0 < 2 ^ 31
  decide

theorem peerRefusal (wave : Nat) (va : Nat) (write : Bool) : Statement (.peerRefusal wave va write) := by
  show 0 < 2 ^ 31
  decide

theorem poolWaveStart (blk : Nat) : Statement (.poolWaveStart blk) := by
  show 0 < 2 ^ 31
  decide

theorem countedOpComplete (wave : Nat) (cls : OpCls) : Statement (.countedOpComplete wave cls) := by
  show 0 < 2 ^ 31
  decide

theorem homeSliceRequest (wave : Nat) (op : Nat) (sub : Nat) : Statement (.homeSliceRequest wave op sub) := by
  show 0 < 2 ^ 31
  decide

theorem l1Eviction (core : Nat) (line : Nat) : Statement (.l1Eviction core line) := by
  show 0 < 2 ^ 31
  decide

theorem evictionNotice (core : Nat) (line : Nat) (data : Option (List Byte)) : Statement (.evictionNotice core line data) := by
  show 0 < 2 ^ 31
  decide

theorem regionNotice (cluster : Nat) (region : Nat) : Statement (.regionNotice cluster region) := by
  show 0 < 2 ^ 31
  decide

theorem noticeAck (cluster : Nat) (region : Nat) : Statement (.noticeAck cluster region) := by
  show 0 < 2 ^ 31
  decide

theorem probe (cluster : Nat) (line : Nat) (inval : Bool) : Statement (.probe cluster line inval) := by
  show 0 < 2 ^ 31
  decide

theorem probeAck (cluster : Nat) (line : Nat) (regionEmpty : Bool) (data : Option (List Byte)) : Statement (.probeAck cluster line regionEmpty data) := by
  show 0 < 2 ^ 31
  decide

theorem queueStreamFetch (wave : Nat) (q : Nat) : Statement (.queueStreamFetch wave q) := by
  show 0 < 2 ^ 31
  decide

theorem queueStreamDrain (wave : Nat) (op : Nat) : Statement (.queueStreamDrain wave op) := by
  show 0 < 2 ^ 31
  decide

theorem pageWalk (core : Nat) (ctx : Nat) (va : Nat) : Statement (.pageWalk core ctx va) := by
  show 0 < 2 ^ 31
  decide

theorem pageMigration (ctx : Nat) (va : Nat) (retire : Bool) : Statement (.pageMigration ctx va retire) := by
  show 0 < 2 ^ 31
  decide

theorem pageMigrationComplete (ctx : Nat) (va : Nat) (frame : Nat) : Statement (.pageMigrationComplete ctx va frame) := by
  show 0 < 2 ^ 31
  decide

theorem collapseRequest (ctx : Nat) (va : Nat) (writer : Nat) (frame : Nat) : Statement (.collapseRequest ctx va writer frame) := by
  show 0 < 2 ^ 31
  decide

theorem groupRewrite (ctx : Nat) (va : Nat) (writer : Nat) (frame : Nat) (lead : Nat) : Statement (.groupRewrite ctx va writer frame lead) := by
  show 0 < 2 ^ 31
  decide

theorem collapseGrant (ctx : Nat) (va : Nat) : Statement (.collapseGrant ctx va) := by
  show 0 < 2 ^ 31
  decide

theorem copyStart (id : Nat) : Statement (.copyStart id) := by
  show 0 < 2 ^ 31
  decide

theorem sectorLand (id : Nat) (k : Nat) : Statement (.sectorLand id k) := by
  show 0 < 2 ^ 31
  decide

theorem barrierUpdate (wave : Option Nat) (obj : BarObj) (upd : BarUpd) : Statement (.barrierUpdate wave obj upd) := by
  show 0 < 2 ^ 31
  decide

theorem remoteBarrierRequest (wave : Nat) (lanes : Nat) (gen : Nat) (addr : Nat) (obj : BarObj) (phase : Nat) (test : Option PReg) : Statement (.remoteBarrierRequest wave lanes gen addr obj phase test) := by
  show 0 < 2 ^ 31
  decide

theorem bwaitRelease (wave : Nat) (obj : BarObj) : Statement (.bwaitRelease wave obj) := by
  show 0 < 2 ^ 31
  decide

theorem remoteMessage (m : RemoteMsg) : Statement (.remoteMessage m) := by
  show 0 < 2 ^ 31
  decide

theorem tileOpFire (blk : Nat) : Statement (.tileOpFire blk) := by
  show 0 < 2 ^ 31
  decide

theorem operandsConsumed (blk : Nat) (id : Nat) : Statement (.operandsConsumed blk id) := by
  show 0 < 2 ^ 31
  decide

theorem tileOpComplete (blk : Nat) (id : Nat) : Statement (.tileOpComplete blk id) := by
  show 0 < 2 ^ 31
  decide

theorem waypointRequest (r : WpReq) : Statement (.waypointRequest r) := by
  show 0 < 2 ^ 31
  decide

theorem waypointMulticast (core : Nat) (ctx : Nat) (key : Word) (n : Word) : Statement (.waypointMulticast core ctx key n) := by
  show 0 < 2 ^ 31
  decide

theorem waypointClaim (r : WpReq) : Statement (.waypointClaim r) := by
  show 0 < 2 ^ 31
  decide

theorem waypointAnswer (uid : Nat) (key : Word) (ans : WpAns) : Statement (.waypointAnswer uid key ans) := by
  show 0 < 2 ^ 31
  decide

theorem deadlockWalk (uid : Nat) : Statement (.deadlockWalk uid) := by
  show 0 < 2 ^ 31
  decide

theorem waypointGap (uid : Nat) : Statement (.waypointGap uid) := by
  show 0 < 2 ^ 31
  decide

theorem mcasLockRequest (id : Nat) : Statement (.mcasLockRequest id) := by
  show 0 < 2 ^ 31
  decide

theorem mcasLockAck (id : Nat) : Statement (.mcasLockAck id) := by
  show 0 < 2 ^ 31
  decide

theorem batchAccept (id : Nat) : Statement (.batchAccept id) := by
  show 0 < 2 ^ 31
  decide

theorem rasterise (stack : Nat) : Statement (.rasterise stack) := by
  show 0 < 2 ^ 31
  decide

theorem fragmentWaveLaunch (stack : Nat) : Statement (.fragmentWaveLaunch stack) := by
  show 0 < 2 ^ 31
  decide

theorem exportEntry (id : Nat) : Statement (.exportEntry id) := by
  show 0 < 2 ^ 31
  decide

theorem ropApply (stack : Nat) (bank : Nat) : Statement (.ropApply stack bank) := by
  show 0 < 2 ^ 31
  decide

theorem depthVerdict (id : Nat) (pass : Bool) : Statement (.depthVerdict id pass) := by
  show 0 < 2 ^ 31
  decide

theorem cellEviction (stack : Nat) : Statement (.cellEviction stack) := by
  show 0 < 2 ^ 31
  decide

theorem cellFetchBack (ctx : Nat) (ste : Nat) (cx : Nat) (cy : Nat) : Statement (.cellFetchBack ctx ste cx cy) := by
  show 0 < 2 ^ 31
  decide

theorem surfacePoolWait (ctx : Nat) (ste : Nat) (cx : Nat) (cy : Nat) : Statement (.surfacePoolWait ctx ste cx cy) := by
  show 0 < 2 ^ 31
  decide

theorem srfsetPerform (id : Nat) : Statement (.srfsetPerform id) := by
  show 0 < 2 ^ 31
  decide

theorem plotAccept (id : Nat) (stack : Nat) : Statement (.plotAccept id stack) := by
  show 0 < 2 ^ 31
  decide

theorem plotUnitStart (stack : Nat) (unit : Nat) : Statement (.plotUnitStart stack unit) := by
  show 0 < 2 ^ 31
  decide

theorem plotThreadIssue (stack : Nat) (unit : Nat) (thread : Nat) : Statement (.plotThreadIssue stack unit thread) := by
  show 0 < 2 ^ 31
  decide

theorem plotWordLimit (stack : Nat) (unit : Nat) (thread : Nat) : Statement (.plotWordLimit stack unit thread) := by
  show 0 < 2 ^ 31
  decide

theorem plotComplete (id : Nat) : Statement (.plotComplete id) := by
  show 0 < 2 ^ 31
  decide

theorem blockStoreRequest (r : BsReq) : Statement (.blockStoreRequest r) := by
  show 0 < 2 ^ 31
  decide

theorem blockEviction (ctx : Nat) (stack : Nat) : Statement (.blockEviction ctx stack) := by
  show 0 < 2 ^ 31
  decide

theorem fstat (value : Word) : Statement (.fstat value) := by
  show 0 < 2 ^ 31
  decide

theorem ftrap (value : Word) : Statement (.ftrap value) := by
  show 0 < 2 ^ 31
  decide

theorem qbasehi (q : BitVec 2) (value : Word) : Statement (.qbasehi q value) := by
  show 0 < 2 ^ 31
  decide

theorem qstride (q : BitVec 2) (value : Word) : Statement (.qstride q value) := by
  show 0 < 2 ^ 31
  decide

theorem qstate (q : BitVec 2) (value : Word) : Statement (.qstate q value) := by
  show 0 < 2 ^ 31
  decide

theorem hstatus (value : Word) : Statement (.hstatus value) := by
  show 0 < 2 ^ 31
  decide

theorem shbase (high : Bool) (value : Word) : Statement (.shbase high value) := by
  show 0 < 2 ^ 31
  decide

theorem mailboxDoorbell (index : Nat) : Statement (.mailboxDoorbell index) := by
  show 0 < 2 ^ 31
  decide

theorem linkRetrainComplete (port : Nat) : Statement (.linkRetrainComplete port) := by
  show 0 < 2 ^ 31
  decide

theorem ideKeyManagement (proto : Nat) (key : BitVec 256) : Statement (.ideKeyManagement proto key) := by
  show 0 < 2 ^ 31
  decide

theorem collapseAnswer (ctx : Nat) (va : Nat) (device : Nat) : Statement (.collapseAnswer ctx va device) := by
  show 0 < 2 ^ 31
  decide

end Laws.Encoding

end Sys2Proof
end

