-- ==== Sys2Proof/Laws/Units.lean ====
section
/-! SUPPORT. What the units write: the bytes of a scratchpad and the fields of a barrier object after an update of its block's arrays. -/

namespace Sys2Proof

open Machine

/-! ## Bytes and fields -/

/-- The little-endian bytes of a number give it back, as far as they reach. -/
theorem leNat_leBytes (n x : Nat) : leNat (leBytes x n) = x % 256 ^ n := by
  induction n generalizing x with
  | zero => simp [leBytes, leNat, Nat.mod_one]
  | succ n ih =>
    simp only [leBytes, leNat, ih, BitVec.toNat_ofNat]
    rw [show (256 : Nat) ^ (n + 1) = 256 * 256 ^ n from pow_succ' .., Nat.mod_mul]

theorem leBytes_length (n x : Nat) : (leBytes x n).length = n := by
  induction n generalizing x with
  | zero => rfl
  | succ n ih => simp [leBytes, ih]

/-- A write of bytes reads back as those bytes, and every other address as before. -/
theorem Memory.read_writes (bs : List Byte) (m : List Host.Cell) (a j : Nat) :
    Map.get (Memory.writes m a bs) j 0 = if a ≤ j ∧ j < a + bs.length then bs.getD (j - a) 0 else Map.get m j 0 := by
  induction bs generalizing m a with
  | nil => 
    have : ¬ (a ≤ j ∧ j < a + ([] : List Byte).length) := by simp
    rw [if_neg this]; rfl
  | cons b t ih =>
    simp only [Memory.writes, ih, Memory.write, Map.get_store, List.length_cons]
    by_cases h1 : j = a
    · subst h1; simp
    · rw [if_neg h1]
      by_cases h2 : a + 1 ≤ j ∧ j < a + 1 + t.length
      · rw [if_pos h2, if_pos (by omega)]
        obtain ⟨k, rfl⟩ : ∃ k, j = a + 1 + k := ⟨j - (a+1), by omega⟩
        have e1 : a + 1 + k - (a + 1) = k := by omega
        have e2 : a + 1 + k - a = k + 1 := by omega
        rw [e1, e2]; rfl
      · rw [if_neg h2, if_neg (by omega)]

/-- The fields fit their places. -/
def BarFits (f : BarFields) : Prop := f.phase < 16 ∧ f.e < 2 ^ 14 ∧ f.a < 2 ^ 14 ∧ f.sect < 2 ^ 32

theorem barOf_fits (x : Nat) : BarFits (barOf x) := by
  simp only [barOf, bits, BarFits]
  refine ⟨?_, ?_, ?_, ?_⟩ <;> omega

/-- Fields that fit their places are read back from their bits (11_async_copies R244). -/
theorem barOf_barBits (f : BarFields) (h : BarFits f) : barOf (barBits f) = f := by
  obtain ⟨p, o, e, a, q⟩ := f
  obtain ⟨h1, h2, h3, h4⟩ := h
  simp only at h1 h2 h3 h4
  have hb : barBits ⟨p, o, e, a, q⟩ = p + 16 * ((if o then 1 else 0) + 16 * (e + 2 ^ 14 * (a + 2 ^ 42 * q))) := by
    simp only [barBits, Nat.mod_eq_of_lt h1, Nat.mod_eq_of_lt h2, Nat.mod_eq_of_lt h3, Nat.mod_eq_of_lt h4]
    cases o <;> simp <;> ring
  rw [hb]
  generalize hw : a + 2 ^ 42 * q = w
  have e0 : (p + 16 * ((if o then 1 else 0) + 16 * (e + 2 ^ 14 * w))) % 16 = p := by omega
  have e1 : (p + 16 * ((if o then 1 else 0) + 16 * (e + 2 ^ 14 * w))) / 16 = (if o then 1 else 0) + 16 * (e + 2 ^ 14 * w) := by omega
  have e2 : (p + 16 * ((if o then 1 else 0) + 16 * (e + 2 ^ 14 * w))) / 256 = e + 2 ^ 14 * w := by cases o <;> simp <;> omega
  have e3 : (p + 16 * ((if o then 1 else 0) + 16 * (e + 2 ^ 14 * w))) / 2 ^ 22 = w := by
    rw [show (2 : Nat) ^ 22 = 256 * 2 ^ 14 from rfl, ← Nat.div_div_eq_div_mul, e2]; omega
  have e4 : (p + 16 * ((if o then 1 else 0) + 16 * (e + 2 ^ 14 * w))) / 2 ^ 64 = q := by
    rw [show (2 : Nat) ^ 64 = 2 ^ 22 * 2 ^ 42 from rfl, ← Nat.div_div_eq_div_mul, e3]; omega
  have e5 : (e + 2 ^ 14 * w) % 2 ^ 14 = e := by omega
  have e6 : w % 2 ^ 14 = a := by omega
  simp only [barOf, bits, bitAt, BarFields.mk.injEq]
  refine ⟨by simpa using e0, ?_, ?_, ?_, ?_⟩
  · rw [show (2 : Nat) ^ 4 = 16 from rfl, e1]; cases o <;> simp <;> omega
  · rw [show (2 : Nat) ^ 8 = 256 from rfl, e2]; exact e5
  · rw [e3]; exact e6
  · rw [e4]; exact Nat.mod_eq_of_lt h4

theorem barBits_lt (f : BarFields) : barBits f < 256 ^ 16 := by
  unfold barBits; split <;> omega

theorem complete_fits (f : BarFields) (h : BarFits f) : BarFits f.complete.1 := by
  unfold BarFields.complete
  split
  · exact ⟨Nat.mod_lt _ (by decide), h.2.1, h.2.1, h.2.2.2⟩
  · exact h

theorem barStep_fits (f : BarFields) (u : BarUpd) (h : BarFits f) (hu : ∀ e, u = .init e → e < 2 ^ 14) : BarFits (barStep f u).1 := by
  cases u with
  | init e => exact ⟨Nat.two_pow_pos 4, hu e rfl, hu e rfl, Nat.two_pow_pos 32⟩
  | arrive =>
    simp only [barStep]
    split
    · exact h
    · exact complete_fits _ ⟨h.1, h.2.1, lt_of_le_of_lt (Nat.sub_le ..) h.2.2.1, h.2.2.2⟩
  | credit k => exact complete_fits _ ⟨h.1, h.2.1, h.2.2.1, Nat.mod_lt _ (Nat.two_pow_pos 32)⟩
  | expect k =>
    refine complete_fits _ ⟨h.1, h.2.1, h.2.2.1, ?_⟩
    have h1 := Int.emod_lt_of_pos ((f.sect : Int) + k) (b := 2 ^ 32) (by positivity)
    have h2 := Int.emod_nonneg ((f.sect : Int) + k) (b := 2 ^ 32) (by positivity)
    show (((f.sect : Int) + k) % 2 ^ 32).toNat < 2 ^ 32
    zify
    rwa [Int.toNat_of_nonneg h2]

/-! ## Writes of a scratchpad with an empty tile queue -/

theorem taintTiles_none {s : State} (h : NoTiles s) (blk : Nat) (x : Sub) : taintTiles s blk x = s := by
  unfold taintTiles
  have : (s.work.blocks.map fun p => if inReach blk x p.1 then (p.1, { p.2 with tiles := p.2.tiles.map (TileOp.taint x) }) else p) = s.work.blocks := by
    conv_rhs => rw [← List.map_id s.work.blocks]
    refine List.map_congr_left fun p hp => ?_
    have := h p hp
    split
    · obtain ⟨a, b⟩ := p
      simp only at this
      simp only [this, List.map_nil, id]
      rw [← this]
    · rfl
  simp only [this]

theorem storedData_none {s : State} (h : NoTiles s) (blk : Nat) (x : Sub) (bs : List Byte) : storedData s blk x bs = bs := by
  unfold storedData
  rw [if_neg]
  simp only [List.any_eq_true, not_exists, not_and]
  intro p hp
  simp [h p hp]

theorem Map.mem_put {α : Type} (m : Map α) (k : Nat) (x : α) (p : Nat × α) (h : p ∈ Map.put m k x) : p = (k, x) ∨ p ∈ m := by
  induction m with
  | nil => simpa [Map.put] using h
  | cons q t ih =>
    obtain ⟨a, y⟩ := q
    simp only [Map.put] at h
    split at h
    · simpa using h
    · split at h
      · rcases List.mem_cons.1 h with h | h
        · exact .inl h
        · exact .inr (List.mem_cons_of_mem _ h)
      · rcases List.mem_cons.1 h with h | h
        · exact .inr (h ▸ List.mem_cons_self ..)
        · exact (ih h).imp id (List.mem_cons_of_mem _)

theorem Map.mem_of_look {α : Type} (m : Map α) (k : Nat) (x : α) (h : m.look k = some x) : (k, x) ∈ m := by
  induction m with
  | nil => cases h
  | cons q t ih =>
    obtain ⟨a, y⟩ := q
    simp only [Map.look] at h
    split at h
    · rename_i hk; subst hk; cases h; exact List.mem_cons_self ..
    · exact List.mem_cons_of_mem _ (ih h)

theorem spmWrite_eq {s : State} {blk : Nat} {b : Block} (h : s.block blk = some b) (off : Nat) (bs : List Byte) :
    spmWrite s blk off bs = s.setBlock blk { b with spm := Memory.writes b.spm off bs } := by
  unfold spmWrite State.mapBlock State.setBlock Map.modify
  have h' : s.work.blocks.look blk = some b := h
  simp only [h']

theorem noTiles_setBlock {s : State} (h : NoTiles s) (blk : Nat) (b : Block) (hb : b.tiles = []) : NoTiles (s.setBlock blk b) := by
  intro p hp
  rcases Map.mem_put _ _ _ _ hp with rfl | hp
  · exact hb
  · exact h p hp

theorem arrayWriteFrom_eq {s : State} {blk : Nat} {b : Block} (hn : NoTiles s) (h : s.block blk = some b) (hs : b.status ≠ .saved)
    (since off : Nat) (bs : List Byte) :
    arrayWriteFrom s since blk off bs = s.setBlock blk { b with spm := Memory.writes b.spm off bs } := by
  unfold arrayWriteFrom
  rw [h]
  have : (b.status == BlkStatus.saved) = false := by simpa using hs
  simp only [this, Bool.false_eq_true, if_false, storedData_none hn, spmWrite_eq h]
  exact taintTiles_none (noTiles_setBlock hn _ { b with spm := Memory.writes b.spm off bs } (hn _ (Map.mem_of_look _ _ _ h))) _ _

@[simp] theorem block_setBlock (s : State) (blk : Nat) (b : Block) (j : Nat) :
    (s.setBlock blk b).block j = if j = blk then some b else s.block j := Map.look_put ..

theorem spmAt_block {s : State} {blk : Nat} {b : Block} (h : s.block blk = some b) (a : Nat) : spmAt s blk a = b.spm.get a 0 := by
  simp [spmAt, h]

/-- A write of a scratchpad of a block on its core leaves the written bytes there and every other byte as it was. -/
theorem arrayWriteFrom_spm {s : State} {blk : Nat} (hn : NoTiles s) (ho : OnCore s blk) (since off : Nat) (bs : List Byte) :
    let t := arrayWriteFrom s since blk off bs
    (∀ a, spmAt t blk a = if off ≤ a ∧ a < off + bs.length then bs.getD (a - off) 0 else spmAt s blk a) ∧
      NoTiles t ∧ OnCore t blk ∧ (∃ w, t = { s with work := { s.work with blocks := w } }) := by
  obtain ⟨b, hb, hs⟩ := ho
  simp only [arrayWriteFrom_eq hn hb hs]
  refine ⟨fun a => ?_, noTiles_setBlock hn _ _ (hn _ (Map.mem_of_look _ _ _ hb)),
    ⟨{ b with spm := Memory.writes b.spm off bs }, by simp, hs⟩, _, rfl⟩
  rw [spmAt_block (b := { b with spm := Memory.writes b.spm off bs }) (by simp), Memory.read_writes, spmAt_block hb]

theorem arrayWrite_spm {s : State} {blk : Nat} (hn : NoTiles s) (ho : OnCore s blk) (off : Nat) (bs : List Byte) :
    let t := arrayWrite s blk off bs
    (∀ a, spmAt t blk a = if off ≤ a ∧ a < off + bs.length then bs.getD (a - off) 0 else spmAt s blk a) ∧
      NoTiles t ∧ OnCore t blk ∧ (∃ w, t = { s with work := { s.work with blocks := w } }) := arrayWriteFrom_spm hn ho s.tick off bs

theorem arrayBytes_eq {s : State} {blk : Nat} (ho : OnCore s blk) (off n : Nat) :
    arrayBytes s blk off n = (List.range n).map fun i => spmAt s blk (off + i) := by
  obtain ⟨b, hb, hs⟩ := ho
  unfold arrayBytes
  rw [hb]
  have : (b.status == BlkStatus.saved) = false := by simpa using hs
  simp only [this, Bool.false_eq_true, if_false, spmAt_block hb]


/-! ## Updates of objects -/

theorem notify_frame (s : State) (o : BarObj) (ph : Nat) :
    let t := notify s o ph
    t.mem = s.mem ∧ t.base = s.base ∧ t.work = { s.work with waves := t.work.waves } ∧ (∃ es, t.pending = s.pending ++ es) ∧
      (∀ j w, s.wave j = some w → ∃ v, t.wave j = some v ∧ v = { w with fibres := v.fibres }) ∧
      ({ t with work := s.work, pending := s.pending } : State) = s := by
  refine ⟨rfl, rfl, rfl, ⟨_, rfl⟩, fun j w h => ?_, rfl⟩
  unfold State.wave at h ⊢
  simp only [notify, State.posts]
  generalize s.work.waves = m at h ⊢
  induction m with
  | nil => cases h
  | cons q r ih =>
    obtain ⟨a, y⟩ := q
    simp only [List.map_cons, Map.look] at h ⊢
    split at h
    · rename_i hk; cases h; rw [if_pos hk]; exact ⟨_, rfl, rfl⟩
    · rename_i hk; rw [if_neg hk]; exact ih h

theorem objRead_spm {s : State} {blk : Nat} (ho : OnCore s blk) (off : Nat) :
    (objRead s (.spm blk off)).map barOf = some (objAt s blk off) := by
  obtain ⟨b, hb, hs⟩ := ho
  simp only [objRead, hb, Option.map_some, arrayBytes_eq ⟨b, hb, hs⟩]
  rfl

theorem objAt_congr {s t : State} {blk off : Nat} (h : ∀ a, off ≤ a → a < off + 16 → spmAt s blk a = spmAt t blk a) :
    objAt s blk off = objAt t blk off := by
  unfold objAt
  congr 2
  refine List.map_congr_left fun i hi => h _ (by omega) ?_
  have := List.mem_range.1 hi
  omega

theorem objAt_bytes {t : State} {blk off x : Nat} (hx : x < 256 ^ 16)
    (h : ∀ a, off ≤ a → a < off + 16 → spmAt t blk a = (leBytes x 16).getD (a - off) 0) : objAt t blk off = barOf x := by
  unfold objAt
  have : (List.range 16).map (fun i => spmAt t blk (off + i)) = leBytes x 16 := by
    apply List.ext_getElem
    · simp [leBytes_length]
    · intro i h1 h2
      have hi : i < 16 := by simpa using h1
      have e : off + i - off = i := by omega
      simp only [List.getElem_map, List.getElem_range, h (off + i) (by omega) (by omega), e]
      simp [h2]
  rw [this, leNat_leBytes, Nat.mod_eq_of_lt hx]

/-- An update of an object in a scratchpad leaves the fields of the update there, every other byte as it was, and no memory changed. -/
theorem updateObj_spm {s : State} {blk off : Nat} (hn : NoTiles s) (ho : OnCore s blk) (u : BarUpd)
    (hu : ∀ e, u = .init e → e < 2 ^ 14) :
    let t := (updateObj s (.spm blk off) u).1
    objAt t blk off = (barStep (objAt s blk off) u).1 ∧ (∀ a, (a < off ∨ off + 16 ≤ a) → spmAt t blk a = spmAt s blk a) ∧
      NoTiles t ∧ OnCore t blk ∧ t.mem = s.mem ∧ t.base = s.base ∧ t.work.copies = s.work.copies ∧
      (∀ j w, s.wave j = some w → ∃ v, t.wave j = some v ∧ v = { w with fibres := v.fibres }) ∧
      (updateObj s (.spm blk off) u).2 = (barStep (objAt s blk off) u).2.2 ∧ ∃ es, t.pending = s.pending ++ es := by
  have h1 := objRead_spm ho off
  obtain ⟨x, hx, hb⟩ : ∃ x, objRead s (.spm blk off) = some x ∧ barOf x = objAt s blk off := by
    cases h : objRead s (.spm blk off) with
    | none => rw [h] at h1; cases h1
    | some x => rw [h] at h1; exact ⟨x, rfl, by simpa using h1⟩
  obtain ⟨a1, a2, a3, w, a4⟩ := arrayWrite_spm hn ho off (leBytes (barBits (barStep (barOf x) u).1) 16)
  have fits := barStep_fits (barOf x) u (barOf_fits x) hu
  have e : objAt (arrayWrite s blk off (leBytes (barBits (barStep (barOf x) u).1) 16)) blk off = (barStep (objAt s blk off) u).1 := by
    rw [objAt_bytes (barBits_lt _) fun a h1 h2 => ?_, barOf_barBits _ fits, hb]
    rw [a1, leBytes_length, if_pos ⟨h1, h2⟩]
  have f : ∀ a, (a < off ∨ off + 16 ≤ a) → spmAt (arrayWrite s blk off (leBytes (barBits (barStep (barOf x) u).1) 16)) blk a = spmAt s blk a := by
    intro a ha; rw [a1, leBytes_length, if_neg (by omega)]
  simp only [updateObj, hx, objWrite]
  split
  · obtain ⟨n1, n2, n3, n4, n5, n6⟩ := notify_frame (arrayWrite s blk off (leBytes (barBits (barStep (barOf x) u).1) 16)) (.spm blk off) (barStep (barOf x) u).1.phase
    refine ⟨e, f, a2, a3, by rw [n1, a4], by rw [n2, a4], by rw [n3, a4], fun j v hv => n5 j v (by rw [a4]; exact hv), by rw [hb], ?_⟩
    obtain ⟨es, he⟩ := n4
    exact ⟨es, by rw [he, a4]⟩
  · exact ⟨e, f, a2, a3, by rw [a4], by rw [a4], by rw [a4], fun j v hv => ⟨v, by rw [a4]; exact hv, rfl⟩, by rw [hb], [], by rw [a4]; simp⟩

/-! ## Releases of waiting fibres -/

theorem nodup_eraseDups {α : Type} [DecidableEq α] : ∀ (n : Nat) (l : List α), l.length ≤ n → l.eraseDups.Nodup
  | 0, l, h => by
    have : l = [] := List.eq_nil_of_length_eq_zero (by omega)
    subst this; simp
  | n + 1, [], _ => by simp
  | n + 1, a :: l, h => by
    rw [List.eraseDups_cons, List.nodup_cons]
    refine ⟨?_, nodup_eraseDups n _ ?_⟩
    · rw [List.mem_eraseDups]; simp
    · exact le_trans (List.length_filter_le ..) (by simpa using h)

/-- A wave whose fibres changed, with its loops. -/
def Moved (w v : Wave) : Prop := v = { w with fibres := v.fibres, loops := v.loops }

theorem Moved.refl (w : Wave) : Moved w w := rfl
theorem Moved.trans {a b c : Wave} (h1 : Moved a b) (h2 : Moved b c) : Moved a c := by
  unfold Moved at *; rw [h2, h1]

theorem look_mapFibre (w : Wave) (l j : Nat) (f : Fibre → Fibre) :
    (w.mapFibre l f).fibres.look j = if j = l then (w.fibres.look l).map f else w.fibres.look j := Map.look_modify ..

/-- A fold of fibre maps: fibres outside are as they were, fibres inside keep what each map keeps. -/
theorem look_fold (ls : List Nat) (f : Fibre → Fibre) (w : Wave) :
    let v := ls.foldl (fun w l => w.mapFibre l f) w
    Moved w v ∧ v.loops = w.loops ∧ (∀ j, j ∉ ls → v.fibres.look j = w.fibres.look j) ∧
      (∀ (P : Fibre → Prop), (∀ x, P x → P (f x)) → ∀ j, (∀ x, w.fibres.look j = some x → P x) → ∀ x, v.fibres.look j = some x → P x) ∧
      (∀ (P : Fibre → Prop), (∀ x, P (f x)) → ∀ j ∈ ls, ∀ x, v.fibres.look j = some x → P x) ∧
      (∀ j, (v.fibres.look j).isSome = (w.fibres.look j).isSome) := by
  induction ls generalizing w with
  | nil => exact ⟨rfl, rfl, fun _ _ => rfl, fun P _ j h => h, fun P _ j hj => by simp at hj, fun j => rfl⟩
  | cons l r ih =>
    obtain ⟨h1, h2, h3, h4, h5, h6⟩ := ih (w.mapFibre l f)
    have hl : ∀ (P : Fibre → Prop), (∀ x, P x → P (f x)) → ∀ j, (∀ x, w.fibres.look j = some x → P x) → ∀ x, (w.mapFibre l f).fibres.look j = some x → P x := by
      intro P hP j hj x hx
      rw [look_mapFibre] at hx
      split at hx
      · rename_i e; subst e
        cases hw : w.fibres.look j with
        | none => rw [hw] at hx; cases hx
        | some y => rw [hw] at hx; cases hx; exact hP _ (hj y hw)
      · exact hj x hx
    refine ⟨Moved.trans (by rfl) h1, h2, ?_, ?_, ?_, ?_⟩
    · intro j hj
      rw [List.foldl_cons, h3 j (fun h => hj (List.mem_cons_of_mem _ h)), look_mapFibre, if_neg (fun h => hj (by rw [h]; exact List.mem_cons_self ..))]
    · intro P hP j hj
      exact h4 P hP j (hl P hP j hj)
    · intro P hP j hj
      rcases List.mem_cons.1 hj with rfl | hj
      · refine h4 P (fun x _ => hP x) j ?_
        intro x hx
        rw [look_mapFibre, if_pos rfl] at hx
        cases hw : w.fibres.look j with
        | none => rw [hw] at hx; cases hx
        | some y => rw [hw] at hx; cases hx; exact hP _
      · exact h5 P hP j hj
    · intro j
      rw [List.foldl_cons, h6, look_mapFibre]
      split
      · rename_i e; subst e; simp
      · rfl

/-- What a move of lanes keeps: everything outside, and in each fibre all but its place and its park. -/
structure Sent (w v : Wave) (ls : List Nat) : Prop where
  moved : Moved w v
  out : ∀ j, j ∉ ls → v.fibres.look j = w.fibres.look j
  keep : ∀ (P : Fibre → Prop), (∀ x pc, P x → P { x with pc := pc }) → (∀ x, P x → P { x with park := none }) →
    ∀ j, (∀ x, w.fibres.look j = some x → P x) → ∀ x, v.fibres.look j = some x → P x
  live : ∀ j, (v.fibres.look j).isSome = (w.fibres.look j).isSome

theorem Sent.refl (w : Wave) (ls : List Nat) : Sent w w ls := ⟨rfl, fun _ _ => rfl, fun _ _ _ _ h => h, fun _ => rfl⟩

theorem sendTo_sent (w : Wave) (ls : List Nat) (p : Pc) : Sent w (w.sendTo ls p) ls := by
  obtain ⟨h1, h2, h3, h4, h5, h6⟩ := look_fold ls (fun f => { f with pc := p }) w
  exact ⟨h1, h3, fun P a b j h => h4 P (fun x hx => a x p hx) j h, h6⟩

theorem advance_sent (w : Wave) (ls : List Nat) (n : NextPc) : Sent w (advance w ls n) ls := by
  unfold advance
  split
  · exact Sent.refl _ _
  · split
    · exact Sent.refl _ _
    · exact sendTo_sent _ _ _
    · split
      · exact sendTo_sent _ _ _
      · rename_i f _ _ _
        have := sendTo_sent { w with loops := (unwind f.pc.packet w.loops.reverse).2.reverse } ls { packet := (unwind f.pc.packet w.loops.reverse).1, slot := 0 }
        exact ⟨Moved.trans (by rfl) this.moved, this.out, this.keep, this.live⟩

theorem releaseAll_sent (w : Wave) (ls : List Nat) : Sent w (releaseAll w ls) ls ∧
    ((∃ p, (ls.head?.bind fun l => (w.fibres.look l).bind Fibre.park) = some p) → ∀ j ∈ ls, ∀ x, (releaseAll w ls).fibres.look j = some x → x.park = none) := by
  unfold releaseAll
  split
  · rename_i p hp
    obtain ⟨h1, h2, h3, h4, h5, h6⟩ := look_fold ls (fun f => { f with park := none }) w
    have s := advance_sent (ls.foldl (fun w l => w.mapFibre l fun f => { f with park := none }) w) ls p.next
    refine ⟨⟨h1.trans s.moved, fun j hj => (s.out j hj).trans (h3 j hj), fun P a b j h => s.keep P a b j (h4 P b j h), fun j => (s.live j).trans (h6 j)⟩, ?_⟩
    intro _ j hj
    exact s.keep (fun x => x.park = none) (fun x _ h => h) (fun _ _ => rfl) j (h5 (fun x => x.park = none) (fun _ => rfl) j hj)
  · rename_i h; exact ⟨Sent.refl _ _, fun ⟨p, hp⟩ => absurd hp (by rw [h]; simp)⟩

theorem releaseLanes_sent (w : Wave) (ls : List Nat) (hp : ∀ l ∈ ls, ∃ f p, w.fibres.look l = some f ∧ f.park = some p)
    (hk : ∀ l ∈ ls, ∀ f, w.fibres.look l = some f → (l, f) ∈ w.fibres) :
    Sent w (releaseLanes w ls) ls ∧ ∀ j ∈ ls, ∀ x, (releaseLanes w ls).fibres.look j = some x → x.park = none := by
  let grp (pc : Pc) := ls.filter fun l => ((w.fibres.look l).map fun f => f.pc == pc).getD false
  have key : ∀ (pcs : List Pc), pcs.Nodup → ∀ v, Sent w v ls → (∀ pc ∈ pcs, ∀ l ∈ grp pc, v.fibres.look l = w.fibres.look l) →
      (∀ l ∈ ls, (∀ pc ∈ pcs, l ∉ grp pc) → ∀ x, v.fibres.look l = some x → x.park = none) →
      let u := pcs.foldl (fun v pc => releaseAll v (grp pc)) v
      Sent w u ls ∧ ∀ j ∈ ls, ∀ x, u.fibres.look j = some x → x.park = none := by
    intro pcs
    induction pcs with
    | nil => intro _ v hv _ h; exact ⟨hv, fun j hj => h j hj (by simp)⟩
    | cons pc r ih =>
      intro hnd v hv hsame hdone
      obtain ⟨hnot, hnd⟩ := List.nodup_cons.1 hnd
      obtain ⟨a1, a2⟩ := releaseAll_sent v (grp pc)
      have sub : ∀ j, j ∈ grp pc → j ∈ ls := fun j hj => (List.mem_filter.1 hj).1
      refine ih hnd (releaseAll v (grp pc)) ⟨hv.moved.trans a1.moved, fun j hj => (a1.out j fun h => hj (sub j h)).trans (hv.out j hj),
        fun P a b j h => a1.keep P a b j (hv.keep P a b j h), fun j => (a1.live j).trans (hv.live j)⟩ ?_ ?_
      · intro pc' hpc' l hl
        rw [a1.out l ?_]
        · exact hsame pc' (List.mem_cons_of_mem _ hpc') l hl
        · intro hl2
          have e1 := (List.mem_filter.1 hl).2
          have e2 := (List.mem_filter.1 hl2).2
          cases hw : w.fibres.look l with
          | none => simp [hw] at e1
          | some f =>
            simp [hw] at e1 e2
            exact hnot (by rw [← e2, e1]; exact hpc')
      · intro l hl hno x hx
        by_cases hm : l ∈ grp pc
        · refine a2 ?_ l hm x hx
          cases hg : grp pc with
          | nil => rw [hg] at hm; simp at hm
          | cons a t =>
            have ha : a ∈ grp pc := by rw [hg]; exact List.mem_cons_self ..
            obtain ⟨f, p, e1, e2⟩ := hp a (sub a ha)
            exact ⟨p, by simp [hsame pc (List.mem_cons_self ..) a ha, e1, e2]⟩
        · rw [a1.out l hm] at hx
          refine hdone l hl ?_ x hx
          intro pc' h'
          rcases List.mem_cons.1 h' with rfl | h'
          · exact hm
          · exact hno pc' h'
  refine key (chainsOf w ls) (nodup_eraseDups _ _ le_rfl) w (Sent.refl _ _) (fun _ _ _ _ => rfl) ?_
  intro l hl hno
  obtain ⟨f, p, e1, e2⟩ := hp l hl
  exfalso
  refine hno f.pc ?_ ?_
  · unfold chainsOf
    rw [List.mem_eraseDups, List.mem_map]
    exact ⟨(l, f), List.mem_filter.2 ⟨hk l hl f e1, by simpa using hl⟩, rfl⟩
  · exact List.mem_filter.2 ⟨hl, by simp [e1]⟩

theorem look_of_mem {m : Map Fibre} (h : (m.map Prod.fst).Nodup) {l : Nat} {f : Fibre} (hm : (l, f) ∈ m) : m.look l = some f := by
  induction m with
  | nil => cases hm
  | cons q r ih =>
    obtain ⟨a, y⟩ := q
    simp only [List.map_cons, List.nodup_cons] at h
    simp only [Map.look]
    rcases List.mem_cons.1 hm with e | e
    · cases e; simp
    · rw [if_neg, ih h.2 e]
      rintro rfl
      exact h.1 (List.mem_map_of_mem (f := Prod.fst) e)

theorem setPred_get (x : BitVec 7) (p : PReg) (hp : p ≠ 7) (b : Bool) : (setPred x p b).getLsbD p.toNat = b := by
  revert x p b hp
  unfold setPred
  intro x p hp b
  rw [if_neg hp]
  have : p.toNat < 7 := by
    have h1 := p.isLt
    have : p.toNat ≠ 7 := fun h => hp (BitVec.eq_of_toNat_eq h)
    omega
  cases b
  · simp [this]
  · simp [this]

/-! ## What the notices, the reports and the sectors leave -/

theorem notify_posts (s : State) (o : BarObj) (n k : Nat) (w : Wave) (l : Nat) (f : Fibre) (q : Parked) (ph : Nat)
    (h : s.wave k = some w) (hl : (l, f) ∈ w.fibres) (hq : f.park = some q) (hk : q.kind = .bwait o ph) (h1 : ph < 16) (h2 : ph ≠ n) :
    Ev.bwaitRelease k o ∈ (notify s o n).pending := by
  have hs : sameObj s o o = true := by simp [sameObj]
  by_cases hc : Ev.bwaitRelease k o ∈ s.pending
  · exact List.mem_append_left _ hc
  · refine List.mem_append_right _ ?_
    rw [List.mem_filter]
    refine ⟨?_, by simpa using hc⟩
    rw [List.mem_flatMap]
    refine ⟨(k, { w with fibres := w.fibres.map fun q => (q.1, answerWait (sameObj s o) n q.2) }), List.mem_map_of_mem (Map.mem_of_look _ _ _ h), ?_⟩
    rw [List.mem_map]
    refine ⟨o, ?_, rfl⟩
    rw [List.mem_filter]
    refine ⟨?_, hs⟩
    unfold answeredObjs
    rw [List.mem_eraseDups, List.mem_flatMap]
    refine ⟨(l, answerWait (sameObj s o) n f), List.mem_map_of_mem hl, ?_⟩
    rw [List.mem_filterMap]
    refine ⟨some (q.withPhase 16), ?_, ?_⟩
    · simp [answerWait, hq, answerParked, hk, hs, h1, h2]
    · unfold Parked.withPhase
      simp [hk]

theorem updateObj_posts {s : State} {blk off : Nat} (u : BarUpd) (hn : NoTiles s) (ho : OnCore s blk)
    (hc : (barStep (objAt s blk off) u).2.1 = true) : 
    ∀ k w l f q ph, s.wave k = some w → (l, f) ∈ w.fibres → f.park = some q →
          q.kind = .bwait (.spm blk off) ph → ph < 16 → ph ≠ (barStep (objAt s blk off) u).1.phase →
          Ev.bwaitRelease k (.spm blk off) ∈ (updateObj s (.spm blk off) u).1.pending := by
  have h1 := objRead_spm ho off
  obtain ⟨x, hx, hb⟩ : ∃ x, objRead s (.spm blk off) = some x ∧ barOf x = objAt s blk off := by
    cases h : objRead s (.spm blk off) with
    | none => rw [h] at h1; cases h1
    | some x => rw [h] at h1; exact ⟨x, rfl, by simpa using h1⟩
  intro k w l f q ph e1 e2 e3 e4 e5 e6
  simp only [updateObj, hx, hb, hc, if_true]
  obtain ⟨-, -, -, w', a4⟩ := arrayWrite_spm hn ho off (leBytes (barBits (barStep (barOf x) u).1) 16)
  refine notify_posts _ _ _ k w l f q ph ?_ e2 e3 e4 e5 e6
  simp only [objWrite]
  rw [← hb, a4]
  exact e1

theorem updateObj_line (s : State) (pa va : Nat) (key : Option Nat) (u : BarUpd) :
    let r := updateObj s (.line 0 pa key va) u
    r.1.mem = devWrite s.mem key pa (leBytes (barBits (barStep (objMem s.mem key pa) u).1) 16) ∧ r.1.work.blocks = s.work.blocks ∧
      (∀ j w, s.wave j = some w → ∃ v, r.1.wave j = some v ∧ v = { w with fibres := v.fibres }) ∧
      r.2 = (barStep (objMem s.mem key pa) u).2.2 ∧ r.1.work = { s.work with waves := r.1.work.waves } := by
  simp only [updateObj, objRead, placeOf, Option.map_some, if_true, objWrite]
  split
  · obtain ⟨n1, n2, n3, n4, n5, n6⟩ := notify_frame ({ s with mem := devWrite s.mem key pa (leBytes (barBits (barStep (barOf (leNat (seenBytes s.mem key pa 16))) u).1) 16) }) (.line 0 pa key va) (barStep (barOf (leNat (seenBytes s.mem key pa 16))) u).1.phase
    exact ⟨n1, by rw [n3], n5, rfl, n3⟩
  · exact ⟨rfl, rfl, fun j w h => ⟨w, h, rfl⟩, rfl, rfl⟩

theorem reapWave_frame (s : State) (k : Nat) : (reapWave s k).mem = s.mem ∧ (reapWave s k).work.blocks = s.work.blocks ∧
    (∀ v, (reapWave s k).wave k = some v → s.wave k = some v) ∧ (∀ e ∈ s.pending, reportsTo k e = false → e ∈ (reapWave s k).pending) := by
  unfold reapWave
  split
  · split
    · refine ⟨rfl, rfl, ?_, ?_⟩
      · intro v hv; simp [State.wave, Map.look_del] at hv
      · intro e he h; exact List.mem_filter.2 ⟨he, by simp [h]⟩
    · exact ⟨rfl, rfl, fun v h => h, fun e h _ => h⟩
  · exact ⟨rfl, rfl, fun v h => h, fun e h _ => h⟩

theorem spmAt_work {s t : State} (h : t.work.blocks = s.work.blocks) (blk a : Nat) : spmAt t blk a = spmAt s blk a := by
  unfold spmAt State.block; rw [h]

theorem doneSub_done (s : State) (k op sub v : Nat) (w : Wave) (h : s.wave k = some w) : SubDone (doneSub s k op sub v) k op sub w v := by
  refine ⟨w.mapOp op fun o => { o with subs := o.subs.modify sub fun x => { x with done := true, busy := false, value := BitVec.ofNat 64 v } }, ?_, rfl⟩
  have : s.work.waves.look k = some w := h
  simp [doneSub, mapSub, State.wave, State.mapWave, Map.look_modify, this]

theorem sectorDone_frame (s : State) (id k blk a : Nat) (c : Copy) (h : s.work.copies.look id = some c) :
   spmAt (sectorDone s id k) blk a = spmAt s blk a ∧
   (c.left.erase k ≠ [] → (sectorDone s id k).work.copies.look id = some { c with left := c.left.erase k }) ∧
   (c.left.erase k = [] → (sectorDone s id k).work.copies.look id = none) := by
  have hl : (s.work.copies.modify id fun c => { c with left := c.left.erase k }).look id = some { c with left := c.left.erase k } := by
    rw [Map.look_modify, if_pos rfl, h]; rfl
  unfold sectorDone endCopy
  simp only [hl]
  by_cases he : c.left.erase k = []
  · simp only [he, List.isEmpty_nil, if_true]
    refine ⟨?_, fun h => absurd trivial (by simp at h), fun _ => ?_⟩
    · simp only [spmAt, State.block, State.mapWave, commitSlot]
      cases c.cb with
      | none => rfl
      | some p =>
        simp only [mapCbuf, State.mapBlock, Map.look_modify]
        split
        · rename_i e; rw [e]; cases s.work.blocks.look c.blk <;> rfl
        · rfl
    · simp [State.mapWave, Map.look_del]
  · have : (c.left.erase k).isEmpty = false := by simpa using he
    simp only [this, Bool.false_eq_true, if_false, he]
    exact ⟨rfl, fun _ => hl, fun h => absurd h (by simp)⟩

/-- Writes of single bytes at places that differ leave each of them there, and every other byte as it was. -/
theorem foldWrites (c : Copy) (l : List (Nat × Nat × Byte × Bool)) (s : State) (hn : NoTiles s) (ho : OnCore s c.blk)
    (hd : (l.map fun q => q.2.1).Nodup) :
    let t := l.foldl (fun s q => locWrite s c q.2.2.1 q.2.2.2 (.spm q.2.1)) s
    (∀ q ∈ l, spmAt t c.blk q.2.1 = q.2.2.1) ∧ (∀ a, (∀ q ∈ l, q.2.1 ≠ a) → spmAt t c.blk a = spmAt s c.blk a) ∧ NoTiles t ∧ OnCore t c.blk ∧
      ∃ w, t = { s with work := { s.work with blocks := w } } := by
  induction l generalizing s with
  | nil => exact ⟨by simp, by simp, hn, ho, _, rfl⟩
  | cons q r ih =>
    simp only [List.map_cons, List.nodup_cons] at hd
    obtain ⟨a1, a2, a3, w, a4⟩ := arrayWriteFrom_spm hn ho c.since q.2.1 [q.2.2.1]
    obtain ⟨b1, b2, b3, b4, w2, b5⟩ := ih _ a2 a3 hd.2
    refine ⟨?_, ?_, b3, b4, w2, ?_⟩
    · intro p hp
      rcases List.mem_cons.1 hp with rfl | hp
      · refine (b2 _ fun z hz he => hd.1 ?_).trans ?_
        · rw [← he]; exact List.mem_map_of_mem hz
        · rw [a1]; simp
      · exact b1 p hp
    · intro a ha
      refine (b2 a fun z hz => ha z (List.mem_cons_of_mem _ hz)).trans ?_
      rw [a1, if_neg]
      have := ha q (List.mem_cons_self ..)
      simp; omega
    · refine b5.trans ?_
      rw [a4]

theorem unpinCopy_base (s : State) (c : Copy) : ∃ b, unpinCopy s c = { s with base := b } := by
  unfold unpinCopy
  split
  · exact ⟨_, rfl⟩
  · exact ⟨_, rfl⟩

theorem settle (s1 : State) (id j : Nat) (c : Copy) (h : s1.work.copies.look id = some c) (f3 : c.form ≠ 3) (w3 : NoTiles s1) (w4 : OnCore s1 c.blk)
   (hbar : ∀ o, c.bar = some o → ∃ off, o = .spm c.blk off) :
      let barred (a : Nat) : Prop := ∃ o, c.bar = some (.spm c.blk o) ∧ o ≤ a ∧ a < o + 16
      let t := settleSector s1 id j c
      (∀ a, ¬ barred a → spmAt t c.blk a = spmAt s1 c.blk a) ∧
      (∀ o, c.bar = some (.spm c.blk o) → objAt t c.blk o = (barStep (objAt s1 c.blk o) (.credit 1)).1) ∧
      (t.work.copies.look id = (if c.left.erase j = [] then none else some { c with left := c.left.erase j })) ∧
      (c.left.erase j = [] → ∀ w, s1.wave c.wave = some w → ∃ v, t.wave c.wave = some v ∧
            v.ops = w.ops.map fun o => if o.id = c.op then { o with done := true } else o) := by
  intro barred t
  obtain ⟨b3, hb3⟩ : ∃ b, (if (c.left.length == 1) = true then unpinCopy s1 c else s1) = { s1 with base := b } := by
    split
    · exact unpinCopy_base _ _
    · exact ⟨_, rfl⟩
  have ht : t = sectorDone (creditSector { s1 with base := b3 } c) id j := by
    have : (decide (c.form = 3) && c.left.length == 1) = false := by simp [f3]
    simp only [t, settleSector, this, Bool.false_eq_true, if_false, hb3]
  clear_value t
  subst ht
  generalize hs3 : ({ s1 with base := b3 } : State) = s3
  have hs3n : NoTiles s3 := by rw [← hs3]; exact w3
  have hs3o : OnCore s3 c.blk := by rw [← hs3]; exact w4
  have hs3a : ∀ a, spmAt s3 c.blk a = spmAt s1 c.blk a := fun a => by rw [← hs3]; rfl
  have hcop : s3.work.copies = s1.work.copies := by rw [← hs3]
  have hwav : ∀ k, s3.wave k = s1.wave k := by intro k; rw [← hs3]; rfl
  clear hs3 hb3
  -- the credit
  have hcr : let t := creditSector s3 c
      (∀ a, ¬ barred a → spmAt t c.blk a = spmAt s3 c.blk a) ∧ t.work.copies = s3.work.copies ∧
      (∀ j w, s3.wave j = some w → ∃ v, t.wave j = some v ∧ v = { w with fibres := v.fibres }) ∧
      (∀ o, c.bar = some (.spm c.blk o) → objAt t c.blk o = (barStep (objAt s3 c.blk o) (.credit 1)).1) := by
    unfold creditSector
    cases hb : c.bar with
    | none => exact ⟨fun _ _ => rfl, rfl, fun j w h => ⟨w, h, rfl⟩, fun o ho => by cases ho⟩
    | some o =>
      obtain ⟨off, rfl⟩ := hbar o hb
      obtain ⟨u1, u2, u3, u4, u5, u6, u7, u8, -, -⟩ := updateObj_spm (off := off) hs3n hs3o (.credit 1) (by intro e he; cases he)
      refine ⟨fun a ha => u2 a ?_, u7, u8, ?_⟩
      · by_contra hc
        exact ha ⟨off, hb, by omega, by omega⟩
      · intro o ho; cases ho; exact u1
  obtain ⟨c1, c2, c3, c4⟩ := hcr
  generalize creditSector s3 c = s4 at *
  have hblk : (sectorDone s4 id j).work.copies.look id = (if c.left.erase j = [] then none else some { c with left := c.left.erase j }) ∧
      (∀ a, spmAt (sectorDone s4 id j) c.blk a = spmAt s4 c.blk a) ∧
      (c.left.erase j = [] → ∀ w, s4.wave c.wave = some w → ∃ v, (sectorDone s4 id j).wave c.wave = some v ∧
            v.ops = w.ops.map fun o => if o.id = c.op then { o with done := true } else o) := by
    have hl : (s4.work.copies.modify id fun c => { c with left := c.left.erase j }).look id = some { c with left := c.left.erase j } := by
      rw [Map.look_modify, if_pos rfl, c2, hcop, h]; rfl
    unfold sectorDone endCopy
    simp only [hl]
    by_cases he : c.left.erase j = []
    · simp only [he, List.isEmpty_nil, if_true]
      refine ⟨?_, ?_, ?_⟩
      · simp [State.mapWave, Map.look_del]
      · intro a
        simp only [spmAt, State.block, State.mapWave, commitSlot]
        cases c.cb with
        | none => rfl
        | some p =>
          simp only [mapCbuf, State.mapBlock, Map.look_modify]
          split
          · cases s4.work.blocks.look c.blk <;> rfl
          · rename_i hx; exact absurd trivial hx
      · intro _ w hw
        refine ⟨w.mapOp c.op fun o => { o with done := true }, ?_, rfl⟩
        simp only [State.wave, State.mapWave, commitSlot]
        cases c.cb <;> (simp only [mapCbuf, State.mapBlock, Map.look_modify, if_true]; rw [show s4.work.waves.look c.wave = some w from hw]; rfl)
    · have : (c.left.erase j).isEmpty = false := by simpa using he
      simp only [this, Bool.false_eq_true, if_false, he]
      exact ⟨hl, fun _ => rfl, fun h => absurd h (by simp)⟩
  obtain ⟨k1, k2, k3⟩ := hblk
  refine ⟨fun a ha => by rw [k2, c1 a ha, hs3a], fun o ho => ?_, k1, fun he w hw => ?_⟩
  · rw [objAt_congr (fun a _ _ => k2 a), c4 o ho, objAt_congr (fun a _ _ => hs3a a)]
  · obtain ⟨v, v1, v2⟩ := c3 c.wave w ((hwav _).trans hw)
    obtain ⟨u, u1, u2⟩ := k3 he v v1
    refine ⟨u, u1, u2.trans ?_⟩
    rw [v2]

theorem foldBase {α : Type} (f : State → α → State) (hf : ∀ s a, ∃ b, f s a = { s with base := b }) (l : List α) (s : State) :
    ∃ b, l.foldl f s = { s with base := b } := by
  induction l generalizing s with
  | nil => exact ⟨_, rfl⟩
  | cons a r ih =>
    obtain ⟨b, hb⟩ := hf s a
    obtain ⟨b2, hb2⟩ := ih (f s a)
    exact ⟨b2, by rw [List.foldl_cons, hb2, hb]⟩

theorem touchPlaces_base (s : State) (ctx : Nat) (qs : List (Space × Nat × Nat)) : ∃ b, touchPlaces s ctx qs = { s with base := b } := by
  refine foldBase _ (fun s q => ?_) qs s
  split
  · exact foldBase _ (fun s c => ⟨_, rfl⟩) _ _
  · exact ⟨_, rfl⟩

end Sys2Proof
end

