-- ==== Sys2Proof/Tests/Slice0.lean ====
section
/-! SUPPORT. Tests: ill-formed terms, words written out from the spec's encodings, worked examples of the spec, and a witness for the
hypotheses of each statement. -/

namespace Sys2Proof.Tests

set_option Elab.async false

open Sys2Proof.Machine

/-! ## Ill-formed terms, one for each check of WellFormed -/

theorem test_wf_loops : (Instr.loopi 3 0).wf = false ∧ (Instr.loops 3 0).wf = false ∧ (Instr.loopi 0 1).wf = true := by decide

theorem test_wf_selectors :
    (Instr.fibrd 5 16).wf = false ∧ (Instr.fibwr 4 2).wf = false ∧ (Instr.spr 1 5).wf = false ∧ (Instr.fibrd 5 15).wf = true := by decide

theorem test_wf_conversions :
    (Instr.cvt 1 2 .f32 .f32 .rne false).wf = false ∧ (Instr.cvt 1 2 .f32 .f16 .rz false).wf = false ∧
    (Instr.cvt 1 2 .f32 .i32 .rne true).wf = false ∧ (Instr.cvt 1 2 .i8 .f16 .rne false).wf = false ∧
    (Instr.cvt 1 2 .i32 .f32 .rz true).wf = true := by decide

theorem test_wf_pairs :
    (Instr.ballot 3 1).wf = false ∧ (Instr.matchv 3 1).wf = false ∧ (Instr.unpklo 1 2 .e4m3).wf = false ∧
    (Instr.unpkhi 2 2 .e2m1).wf = false ∧ (Instr.unpklo 1 2 .f16).wf = true := by decide

theorem test_wf_accesses :
    (Instr.ld 3 1 0 .w64 false .blk false false).wf = false ∧ (Instr.ld 2 1 0 .w32 false .dev false false).wf = false ∧
    (Instr.ld 2 1 0 .w32 false .blk true false).wf = false ∧ (Instr.st 3 1 0 .w64 false .blk false).wf = false ∧
    (Instr.st 2 1 0 .w8 false .sys false).wf = false ∧ (Instr.lds 3 1 0 .w64 false).wf = false ∧
    (Instr.sts 3 1 0 .w64).wf = false ∧ (Instr.ldp 2 1 0 .w32 true).wf = false ∧ (Instr.stp 5 1 0 .w64).wf = false := by decide

theorem test_wf_atomics :
    (Instr.atom 6 1 0 .w64 .cas true).wf = false ∧ (Instr.atom 5 1 0 .w32 .cas true).wf = false ∧
    (Instr.atom 2 1 0 .w64 .fadd false).wf = false ∧ (Instr.atoms 2 1 0 .w32 .incw false).wf = false ∧
    (Instr.atom 2 1 0 .w32 .incw false).wf = true := by decide

theorem test_wf_streams : (Instr.qld 1 2).wf = false ∧ (Instr.qst 1 1).wf = false ∧ (Instr.qst 1 2).wf = true := by decide

theorem test_wf_descriptors :
    (Instr.cpy 12 false).wf = false ∧ (Instr.cpyt 4 false).wf = false ∧ (Instr.cpyg 1 3 false).wf = false ∧ (Instr.cpyp 2 true).wf = false ∧
    (Instr.cpym 9 true).wf = false ∧ (Instr.cpys 20 true).wf = false ∧ (Instr.cpyb 31 true).wf = false ∧ (Instr.zdrain 0 .one 6 .mem false).wf = false := by
  decide

theorem test_wf_objects :
    (Instr.binit true 3 1).wf = false ∧ (Instr.barv true 3).wf = false ∧ (Instr.bexp true 3 1).wf = false ∧
    (Instr.bwait true 3 1).wf = false ∧ (Instr.btest true 2 3 1).wf = false ∧ (Instr.barv false 3).wf = true := by decide

theorem test_wf_sections : (Instr.oent 124 1 2).wf = false ∧ (Instr.oqry 126 1).wf = false := by decide

theorem test_wf_matrix :
    (Instr.mma 0 1 0 .f16 false true false false).wf = false ∧ (Instr.mma 0 1 0 .e4m3 true true false false).wf = false ∧
    (Instr.mmac 0 0 1 0 .e4m3 false false false false).wf = false ∧ (Instr.mmac 0 0 3 0 .f16 false false false false).wf = false := by decide

theorem test_wf_even :
    (Instr.episel 1).wf = false ∧ (Instr.prim 3).wf = false ∧ (Instr.srfset 5 2).wf = false ∧ (Instr.tex2 16 10 21).wf = false ∧
    (Instr.plot 7).wf = false ∧ (Instr.bka 1 3).wf = false ∧ (Instr.bkt 1 3 false).wf = false ∧ (Instr.bks 2 3).wf = false ∧
    (Instr.bkf 3).wf = false ∧ (Instr.launch 4 11).wf = false ∧ (Instr.tlbinv 11 12).wf = false ∧ (Instr.keyld 5 6).wf = false := by decide

theorem test_wf_steps : Instr.reset.wf = false ∧ (Instr.homeSliceRequest 0 0 0).wf = false := by decide

/-! ## Words of the spec's own examples -/

/-- The words of 15_execution_model (R330, R333 to R345) and of 19_traps (R429, R431). -/
theorem test_decode_control :
    decode 0x00000004 = .ok .conv ∧ decode 0x02000C00 = .ok (.bra 3) ∧ decode 0x02480800 = .ok (.br 1 false 2) ∧
    decode 0x0297FC00 = .ok (.brall 2 true 0xFF) ∧ decode 0x02C3FC00 = .ok (.brany 0 false 0xFF) ∧
    decode 0x0450102A = .ok (.call 20 2 5) ∧ decode 0x0400A004 = .ok (.ret 20) ∧ decode 0x04006000 = .ok (.jmps 12) ∧
    decode 0x06060400 = .ok (.loopi 3 2) ∧ decode 0x06140801 = .ok (.loops 5 4) ∧ decode 0x06000002 = .ok .lbrk ∧
    decode 0x0A07FFFE = .ok (.wait 0 63 63 63) ∧ decode 0x081E0000 = .ok (.rep 3 true true false 0) ∧
    decode 0x0E242018 = .ok (.spawn 9 4 3) ∧ decode 0x0E002812 = .ok (.regroup 5 2) ∧ decode 0x0C240000 = .ok (.trap 0x12) ∧
    decode 0x0E140024 = .ok (.fibrd 5 4) ∧ decode 0x0E00200D = .ok (.fibwr 4 1) ∧ decode 0x00000005 = .ok .tret := by decide

/-- The words of 02_encoding, 04_number_formats and 05_vector_scalar. -/
theorem test_decode_scalar_vector :
    decode 0x902850B0 = .ok (.sadd 10 10 11) ∧ decode 0x024BFC00 = .ok (.br 1 false 0xFF) ∧ decode 0x14081842 = .ok (.scmp 2 3 4 .lt) ∧
    decode 0x201C1037 = .ok (.ffma 7 2 3 .rz) ∧ decode 0x240C1330 = .ok (.frnd 3 2 false .rd) ∧ decode 0x2A282052 = .ok (.dot4e4 10 4 5) ∧
    decode 0x2C142280 = .ok (.cvt 5 4 .e2m1 .f32 .rne false) ∧ decode 0x2C1C3290 = .ok (.cvt 7 6 .e2m1 .bf16 .rne false) ∧
    decode 0x3420082A = .ok (.pk4e4 8 1 2 true) ∧ decode 0x3024080A = .ok (.wredfadd 9 1) ∧ decode 0x36100826 = .ok (.sel 4 1 2 3) ∧
    decode 0x20200140 = .ok (.fadd 8 0 20 .rne) := by decide

/-- The words of 10_memory_instructions, 11_async_copies and 12_ordered_sections. -/
theorem test_decode_memory :
    decode 0x40201158 = .ok (.ld 8 2 2 .w32 true .dev false false) ∧ decode 0x42241158 = .ok (.st 9 2 2 .w32 true .dev false) ∧
    decode 0x441011C0 = .ok (.lds 4 2 3 .w32 false) ∧ decode 0x441011C8 = .ok (.sts 4 2 3 .w32) ∧
    decode 0x4A181155 = .ok (.atom 6 2 2 .w32 .cas true) ∧ decode 0x481C1855 = .ok (.rst 7 3 5 1) ∧
    decode 0x4E501100 = .ok (.mcas 20 2 2) ∧ decode 0x4EE00001 = .ok (.fence .dev .acqrel) ∧ decode 0x50006000 = .ok (.qld 12 0) ∧
    decode 0x52400010 = .ok (.cpy 16 true) ∧ decode 0x52601802 = .ok (.cpyg 24 3 false) ∧ decode 0x560050B3 = .ok (.bwait false 10 11) ∧
    decode 0x560850B4 = .ok (.btest false 2 10 11) ∧ decode 0x56005001 = .ok (.barv false 10) ∧ decode 0x5400A010 = .ok (.cbcfg 20 2) ∧
    decode 0x54240013 = .ok (.cbqry 9 2) ∧ decode 0x58100820 = .ok (.oent 4 1 2) ∧ decode 0x58000822 = .ok (.oskip 1 2) ∧
    decode 0x581C0803 = .ok (.oqry 7 1) := by decide

/-- The words of 06_matrix, 07_cartouche, 13_raster, 14_plot_units, 16_scheduling and 17_translation. -/
theorem test_decode_units :
    decode 0x60010421 = .ok (.mma 0 8 2 .f16 false false false true) ∧ decode 0x62400623 = .ok (.mmac 4 0 0 3 .f16 false false true true) ∧
    decode 0x60828264 = .ok (.mma 8 20 1 .e4m3 false true false false) ∧ decode 0x64084303 = .ok (.zdrain 0 .four 8 .mem true) ∧
    decode 0x64000004 = .ok .opfence ∧ decode 0x64003005 = .ok (.episel 6) ∧ decode 0x66004000 = .ok (.prim 8) ∧
    decode 0x66004041 = .ok (.fexp 8 4) ∧ decode 0x66301412 = .ok (.attr 12 2 true 1) ∧ decode 0x68405140 = .ok (.tex2 16 10 20) ∧
    decode 0x6A004000 = .ok (.plot 8) ∧ decode 0x6A181012 = .ok (.bkt 6 2 true) ∧ decode 0x6A201003 = .ok (.bks 8 2) ∧
    decode 0x6C105000 = .ok (.launch 4 10) ∧ decode 0x6C0050C1 = .ok (.tlbinv 10 12) ∧ decode 0x6C002062 = .ok (.keyld 4 6) := by decide

/-- Words that the decode fate table rejects (03_opcode_map R46). -/
theorem test_decode_rejects :
    decode 0x7E000000 = .error .reserved ∧ decode 0x00000020 = .error .illegal ∧ decode 0x00000007 = .error .reserved ∧
    decode 0x1E200001 = .error .illegal ∧ decode 0x1E00000A = .error .reserved := by decide

/-- The first word of the mnemonic NOP in the opcode table, and its encoding. -/
theorem test_encode_back : encode (.call 20 2 5) = 0x0450102A ∧ decodeTableWord 32 0x0450102A = some (.call 20 2 5) := by decide

/-! ## A machine whose wave issues -/

/-- The machine with a program loaded. -/
def s0 : State := State.reset.withFetchWord 32 0

/-- The wave of the loaded program: sixteen fibres at packet 0. -/
def w0 : Wave := freshWave 0 0 (nth bootRecord 3) .supervisor 0x20000 [] ((List.range 16).map fun l => (l, freshFibre l 0))

/-- That machine with another wave in place of it. -/
def sw (w : Wave) : State := s0.setWave 0 w

/-- That machine with the wave about to run one word. -/
def si (w : Wave) : State := latch (sw w) 0 none .off

/-- The wave at user level. -/
def wu : Wave := { w0 with level := .user }

/-- The wave at machine level. -/
def wm : Wave := { w0 with level := .machine }

/-- The wave in its user handler, with shadow state in every fibre. -/
def wh : Wave := w0.trapped (batch w0) (mkTrap 0x3F (batch w0) 0 7) 0 1 .supervisor 0x20000 false

/-- The wave with a fibre at another packet. -/
def wd : Wave := w0.mapFibre 3 fun f => { f with pc := { packet := 5, slot := 0 } }

/-- The wave with a uniform register set. -/
def ws (n : Nat) (x : Word) : Wave := setSreg w0 n x

/-- The wave with a vector register set in every fibre. -/
def wv (v : Nat) (x : Word) : Wave := w0.fibres.foldl (fun w p => setVreg w p.1 p.2 v x) w0

theorem issues_si (w : Wave) : Issues (si w) 0 w w := by
  have h : (si w).wave 0 = some w := State.wave_setWave_self s0 0 w
  unfold Issues issuing
  show (match (si w).wave 0 with
    | none => none
    | some x => some (0, x, x)) = some (0, w, w)
  rw [h]

/-- A word whose registers pass their checks and that names no queue port reads its fields. -/
theorem reads {w : Wave} {chk : Option Trap} {srcs : List Nat} (hc : chk = none) (hp : portsOf srcs = []) :
    FieldsRead (si w) 0 w w chk srcs [] w := ⟨issues_si w, hc, by rw [hp]; rfl⟩

theorem ordered_w0 : Ordered w0 := ⟨by decide +kernel, by decide⟩

/-! ## Witnesses: encoding -/

theorem wit_DecodeOfEncode : (Instr.iadd 127 127 127).wf = true ∧ (Instr.unpkhi 124 127 .e2m1).wf = true := by decide

theorem wit_EncodeOfDecode : 0x7BFFFFFF < 2 ^ 31 ∧ 0x0450102A < 2 ^ 31 ∧ decode 0x0450102A = .ok (.call 20 2 5) := by decide

theorem wit_ReservedMajorsRejected :
    0x38000000 / 2 ^ 25 % 64 = 0x1C ∧ 0x3FFFFFFF / 2 ^ 25 % 64 = 0x1F ∧ 0x5A000000 / 2 ^ 25 % 64 = 0x2D ∧ 0x5FFFFFFF / 2 ^ 25 % 64 = 0x2F ∧
    0x6E000000 / 2 ^ 25 % 64 = 0x37 ∧ 0xFFFFFFFF / 2 ^ 25 % 64 = 0x3F ∧ 0xFFFFFFFF < 2 ^ 32 := by decide

/-! ## Witnesses: uniform words -/

theorem wit_UniformArithmetic : Issues (si w0) 0 w0 w0 := rfl

theorem wit_UniformCompare : Issues (si wd) 0 wd wd := rfl

theorem wit_ControlRegisters_csrr :
    Issues (si wu) 0 wu wu ∧ (csrRead (si wu) wu 0x32).isSome ∧ Issues (si w0) 0 w0 w0 ∧ w0.level ≠ .user ∧ (csrRead (si w0) w0 0x80).isSome := by
  refine ⟨rfl, by decide +kernel, rfl, by decide, by decide +kernel⟩

theorem wit_ControlRegisters_rdlane : (15#8).toNat < w0.width ∧ (123#7).toNat < 124 ∧ (123#7).toNat < w0.n := by decide +kernel

theorem wit_ControlRegisters_csrw :
    (csrWrite (si wu) wu 0x00 (sreg wu 1)).isSome = true ∧ (csrWrite (si w0) w0 0x80 (sreg w0 1)).isSome = true ∧
    (4#32).toNat % 4 = 0 ∧ (4#32).toNat / 2 ^ 16 % 4 = 0 ∧ (0x00040004#32).toNat / 2 ^ 16 % 4 = 0 ∧
    ((si w0).ctxs.look (ctxOf (si w0) w0)).isSome = true ∧ (64#32).toNat % 64 = 0 := by decide +kernel

theorem wit_LaneSlotIsRead :
    w0.width ≤ (16#8).toNat ∧ (15#8).toNat < w0.width ∧ 124 ≤ (124#7).toNat ∧ (123#7).toNat < w0.n ∧
    (w0.fibres.del 15).look 15 = none ∧ (∃ f, w0.fibres.look 15 = some f ∧ f.base + (123#7).toNat < w0.p ∧ awaited w0 (physKey 15 (f.base + 123)) = false) ∧
    (∃ f, (w0.mapFibre 15 fun f => { f with base := 400 }).fibres.look 15 = some f ∧ w0.p ≤ f.base + (123#7).toNat) ∧
    awaited (addOp w0 0 (some .ld) .load none none [] [(15, 123)]) (physKey 15 123) = true := by
  refine ⟨by decide, by decide, by decide, by decide, by decide +kernel, ⟨_, rfl, by decide +kernel, by decide +kernel⟩, ⟨_, rfl, by decide +kernel⟩, by decide +kernel⟩

/-! ## Witnesses: vector words -/

theorem wit_fields (w : Wave) (h : w = w0) : FieldsRead (si w) 0 w w (portCheck w [1, 2] [3]) [1, 2] [] w ∧ Ordered w := by
  subst h
  exact ⟨reads (by decide +kernel) (by decide), ordered_w0⟩

/-- A load port as source: queue 0 has ended, so that its elements are 0. -/
theorem wit_fields_port :
    FieldsRead (si w0) 0 w0 w0 (portCheck w0 [124, 2] [3]) [124, 2] [(0, [])] (setStream w0 0 { streamOf w0 0 with underrun := true }) :=
  ⟨issues_si w0, by decide +kernel, rfl⟩

/-- A store port as destination. -/
theorem wit_fields_push :
    FieldsRead (si w0) 0 w0 w0 (portCheck w0 [1, 2] [126]) [1, 2] [] w0 ∧
    (match pushQueue (si w0) 0 w0 w0 2 [(0, 5)] with
      | .ok _ => true
      | _ => false) = true ∧
    (match pushQueue (si w0) 0 w0 w0 3 [(0, 5)] with
      | .ok _ => true
      | _ => false) = true := ⟨reads (by decide +kernel) (by decide), by decide +kernel, by decide +kernel⟩

theorem wit_VectorInteger : FieldsRead (si w0) 0 w0 w0 (portCheck w0 [1, 2] [3]) [1, 2] [] w0 ∧ Ordered w0 ∧ 3 < 124 :=
  ⟨(wit_fields _ rfl).1, ordered_w0, by decide⟩

theorem wit_VectorUnary :
    FieldsRead (si w0) 0 w0 w0 (portCheck w0 [1] [3]) [1] [] w0 ∧ FieldsRead (si w0) 0 w0 w0 (portCheck w0 [] [3]) [] [] w0 ∧
    FieldsRead (si w0) 0 w0 w0 (portCheck w0 [1, 2, 3] [3]) [1, 2, 3] [] w0 :=
  ⟨reads (by decide +kernel) (by decide), reads (by decide +kernel) (by decide), reads (by decide +kernel) (by decide)⟩

theorem wit_VectorIntegerConditions : FieldsRead (si w0) 0 w0 w0 (portCheck w0 [1, 2] [123]) [1, 2] [] w0 := reads (by decide +kernel) (by decide)

/-- Operands of each row of the division table, and a sum on each side of each bound. -/
theorem wit_VectorIntegerConditions_values :
    (0 : Word) = 0 ∧ (0x80000000 : Word) = 0x80000000 ∧ (0xFFFFFFFF : Word) = 0xFFFFFFFF ∧
    (1 : Word) ≠ 0 ∧ ¬ ((0x80000001 : Word) = 0x80000000 ∧ (0xFFFFFFFF : Word) = 0xFFFFFFFF) ∧
    (-2 ^ 31 - 1 : Int) < -2 ^ 31 ∧ (2 ^ 31 : Int) ≤ 2 ^ 31 ∧ (-2 ^ 31 : Int) ≤ -2 ^ 31 ∧ (2 ^ 31 - 1 : Int) < 2 ^ 31 := by decide

theorem wit_PredicateWords : FieldsRead (si w0) 0 w0 w0 (portCheck w0 [1, 2] []) [1, 2] [] w0 ∧ Ordered w0 ∧
    FieldsRead (si w0) 0 w0 w0 (portCheck w0 [] []) [] [] w0 := ⟨reads (by decide +kernel) (by decide), ordered_w0, reads (by decide +kernel) (by decide)⟩

theorem wit_FloatArithmetic : FieldsRead (si w0) 0 w0 w0 (portCheck w0 [1, 2, 3] [3]) [1, 2, 3] [] w0 := wit_VectorUnary.2.2

/-- A signalling NaN, a quiet one, both infinities, both zeros and the ends of FSAT's range. -/
theorem wit_FloatArithmetic_values :
    (decodeF fmtF32 0x7F800001).isNan = true ∧ (decodeF fmtF32 0x7FC00000).isNan = true ∧ (decodeF fmtF32 0x3F800000).isNan = false ∧
    decodeF fmtF32 0x7F800000 = .inf false ∧ decodeF fmtF32 0xFF800000 = .inf (!false) ∧
    (∃ e, decodeF fmtF32 0 = .fin false 0 e) ∧ (∃ n e, decodeF fmtF32 0x80000001 = .fin true n e ∧ n ≠ 0) ∧
    (2 ^ 32 - 1 < 2 ^ 32 ∧ 2 ^ 31 ≤ 0x80000000 ∧ (decodeF fmtF32 0x80000000).isNan = false) ∧
    (0x3F800000 < 0x3F800001 ∧ (decodeF fmtF32 0x3F800001).isNan = false) :=
  ⟨by decide, by decide, by decide, by decide, by decide, ⟨_, rfl⟩, ⟨_, _, rfl, by decide⟩, by decide, by decide⟩

/-- A cut that keeps every bit and one that drops some, a value that fits a format, the largest one and one past it. -/
theorem wit_FloatArithmetic_rounding :
    (0 : Int) ≤ 0 ∧ (0 : Int) < 1 ∧ towardZero .rz true = true ∧ (Rnd.ru ≠ .rne ∧ towardZero .ru false = false) ∧ (1 : Nat) ≠ 0 ∧ fmtF16 ∈ [fmtF32, fmtF16, fmtBf16] ∧
    (let c (m : Nat) (e : Int) := (max (leadExp m e - fmtF16.mb) fmtF16.low - fmtF16.low).toNat * 2 ^ fmtF16.mb + (roundAt .rne false m e (max (leadExp m e - fmtF16.mb) fmtF16.low)).1
     c 65504 0 = fmtF16.top ∧ fmtF16.top < c 65520 0) ∧
    (∃ m e, decodeF fmtF16 0x7BFF = .fin false m e ∧ m ≠ 0) :=
  ⟨by decide, by decide, by decide, by decide, by decide, List.mem_cons_of_mem _ List.mem_cons_self, by decide, ⟨_, _, rfl, by decide⟩⟩

theorem wit_ConversionsAndSpecialFunctions :
    FieldsRead (si w0) 0 w0 w0 (portCheck w0 [1] [4]) [1] [] w0 ∧ FieldsRead (si w0) 0 w0 w0 (wideCheck w0 [1] 120 4) [1] [] w0 :=
  ⟨reads (by decide +kernel) (by decide), reads (by decide +kernel) (by decide)⟩

/-- Finite values, a 32-bit integer type and floating formats that the conversions take. -/
theorem wit_ConversionsAndSpecialFunctions_values :
    intTy .i8 = some (8, true) ∧ intTy .n32 = some (32, false) ∧ (32, false).1 = 32 ∧ (∃ s n g, decodeF fmtF32 0x4F000000 = .fin s n g) ∧
    fmtOf .f16 = some fmtF16 ∧ (∃ s n g, decodeF fmtF32 0x477FF000 = .fin s n g ∧ n ≠ 0) ∧ (∃ g, decodeF fmtF32 0x7F800001 = .nan g) ∧
    (∃ n g, decodeF fmtF32 0x80000001 = .fin true n g ∧ n ≠ 0) ∧ (125#7).toNat < 126 ∧ 126 ≤ (126#7).toNat :=
  ⟨by decide, by decide, by decide, ⟨_, _, _, rfl⟩, rfl, ⟨_, _, _, rfl, by decide⟩, ⟨_, rfl⟩, ⟨_, _, rfl, by decide⟩, by decide, by decide⟩

theorem wit_ConversionsAndSpecialFunctions_push :
    FieldsRead (si w0) 0 w0 w0 (portCheck w0 [1, 2] [126]) [1, 2] [] w0 := reads (by decide +kernel) (by decide)

theorem wit_Shuffles :
    FieldsRead (si w0) 0 w0 w0 (if w0.width ≤ 15 ∨ 124 ≤ (1#7).toNat then some (batchTrap w0 0x01 0) else portCheck w0 [1] [3]) [] [] w0 ∧
    FieldsRead (si w0) 0 w0 w0 (wideCheck w0 [] 122 2) [] [] w0 ∧ FieldsRead (si w0) 0 w0 w0 (wideCheck w0 [1] 2 2) [1] [] w0 :=
  ⟨reads (by decide +kernel) (by decide), reads (by decide +kernel) (by decide), reads (by decide +kernel) (by decide)⟩

theorem wit_BitFieldWords : FieldsRead (si w0) 0 w0 w0 (portCheck w0 [1, 2] [3]) [1, 2] [] w0 := wit_VectorInteger.1

theorem wit_IntegerCompareWords :
    FieldsRead (si w0) 0 w0 w0 (portCheck w0 [1, 2] []) [1, 2] [] w0 ∧ 0x1E200001 / 2 ^ 25 % 64 = 0x0F ∧ 0x1E200001 / 2 ^ 21 % 16 ≠ 0 ∧
    0x1E00000A / 2 ^ 21 % 16 = 0 ∧ 10 ≤ 0x1E00000A % 16 ∧ 0x1E00000F % 16 = 15 := ⟨wit_PredicateWords.1, by decide⟩

/-! ## Witnesses: control words -/

/-- The wave with a load outstanding. -/
def wl : Wave := addOp w0 0 (some .ld) .load none none [] [(0, 4)]

theorem wit_QuietControlWords :
    Issues (si wl) 0 wl wl ∧
    (∀ q ∈ [(OpCls.ld, (1#6)), (.st, 0), (.cp, 0), (.tl, 63)], q.2 = 63 ∨ opCount wl q.1 ≤ q.2.toNat) ∧
    (∃ q ∈ [(OpCls.ld, (0#6)), (.st, 63), (.cp, 63), (.tl, 63)], q.2 ≠ 63 ∧ q.2.toNat < opCount wl q.1) :=
  ⟨rfl, by decide, by decide⟩

theorem wit_BranchesChooseFibres :
    Issues (si wd) 0 wd wd ∧ minPc wd = some { packet := 0, slot := 0 } ∧ 0 ≤ ((0 : Nat) : Int) + (0#8).toInt ∧
    ((0 : Nat) : Int) + (0xFF#8).toInt < 0 := ⟨rfl, by decide, by decide, by decide⟩

/-- The wave with loop entries. -/
def wloops (n : Nat) : Wave :=
  { w0 with loops := (List.range 4).map fun i => if i < n then { start := 0, fin := 2, count := 3 } else LoopEntry.none }

theorem wit_CallsAndReturns_fits :
    Issues (si w0) 0 w0 w0 ∧ minPc w0 = some { packet := 0, slot := 0 } ∧ (123#7).toNat < w0.n ∧
    (∀ p ∈ fibresOf w0 (batch w0), p.2.base + 8 * (7#3).toNat + (123#7).toNat < w0.p) ∧ topEntry w0 = none ∧
    0 ≤ ((0 : Nat) : Int) + (0#8).toInt := ⟨rfl, by decide, by decide, by decide +kernel, by decide, by decide⟩

theorem wit_CallsAndReturns_inLoop :
    FieldsRead (si (wloops 1)) 0 (wloops 1) (wloops 1) (portCheck (wloops 1) [5] []) [5] [] (wloops 1) ∧
    minPc (wloops 1) = some { packet := 0, slot := 0 } ∧ (∃ e, topEntry (wloops 1) = some e ∧ e.2.holds 0 = true) :=
  ⟨reads (by decide +kernel) (by decide), by decide, ⟨_, rfl, by decide⟩⟩

theorem wit_CallsAndReturns_callInLoop :
    Issues (si (wloops 1)) 0 (wloops 1) (wloops 1) ∧ (0#7).toNat < (wloops 1).n ∧
    (∀ p ∈ fibresOf (wloops 1) (batch (wloops 1)), p.2.base + 8 * (0#3).toNat + (0#7).toNat < (wloops 1).p) ∧
    (∃ e, topEntry (wloops 1) = some e ∧ e.2.holds 0 = true) := ⟨rfl, by decide, by decide +kernel, _, rfl, by decide⟩

/-- A link register past the window, and an offset that leads below packet 0. -/
theorem wit_CallsAndReturns_outside :
    (((fibresOf w0 (batch w0)).filter fun p => decide (w0.n ≤ (124#7).toNat ∨ w0.p ≤ p.2.base + 8 * (0#3).toNat + (124#7).toNat)).map Prod.fst ≠ []) ∧
    FieldsRead (si w0) 0 w0 w0 (portCheck w0 [5] []) [5] [] w0 ∧ ((0 : Nat) : Int) + (0xFF#8).toInt < 0 :=
  ⟨by decide +kernel, reads (by decide +kernel) (by decide), by decide⟩

/-- A return of one more than the fibres' windows leave. -/
theorem wit_CallsAndReturns_below :
    FieldsRead (si (wv 5 1)) 0 (wv 5 1) (wv 5 1) (portCheck (wv 5 1) [5] []) [5] [] (wv 5 1) ∧
    ((inputs (si (wv 5 1)) (wv 5 1) [] [5]).filter fun x => decide (x.fibre.base < 8 * ((x.arg 0).toNat % 8))).map LaneIn.lane ≠ [] :=
  ⟨reads (by decide +kernel) (by decide), by decide +kernel⟩

theorem wit_CallsAndReturns_ret :
    FieldsRead (si w0) 0 w0 w0 (portCheck w0 [5] []) [5] [] w0 ∧
    (∀ x ∈ inputs (si w0) w0 [] [5], 8 * ((x.arg 0).toNat % 8) ≤ x.fibre.base) := ⟨reads (by decide +kernel) (by decide), by decide +kernel⟩

theorem wit_LoopsAndRepeats_enter :
    Issues (si (ws 3 511)) 0 (ws 3 511) (ws 3 511) ∧ minPc (ws 3 511) = some { packet := 0, slot := 0 } ∧ (ws 3 511).inHandler = false ∧
    converged (ws 3 511) = true ∧ ((topEntry (ws 3 511)).map fun p => p.1 + 1).getD 0 < 4 ∧ 1 ≤ (sreg (ws 3 511) (3#7).toNat).toNat ∧
    (sreg (ws 3 511) (3#7).toNat).toNat ≤ 511 ∧ sreg (ws 3 511) (4#7).toNat = 0 ∧
    ((topEntry (wloops 3)).map fun p => p.1 + 1).getD 0 = 3 :=
  ⟨rfl, by decide, by decide, by decide, by decide, by decide, by decide, by decide, by decide⟩

theorem wit_LoopsAndRepeats_full :
    Issues (si (wloops 4)) 0 (wloops 4) (wloops 4) ∧ converged (wloops 4) = true ∧
    4 ≤ ((topEntry (wloops 4)).map fun p => p.1 + 1).getD 0 ∧ (topEntry (wloops 4)).isSome = true := ⟨rfl, by decide, by decide, by decide⟩

theorem wit_LoopsAndRepeats_diverged :
    Issues (si wd) 0 wd wd ∧ minPc wd = some { packet := 0, slot := 0 } ∧ wd.inHandler = false ∧ converged wd = false :=
  ⟨rfl, by decide, by decide, by decide⟩

theorem wit_LoopsAndRepeats_handler : Issues (si wh) 0 wh wh ∧ wh.inHandler = true := ⟨rfl, by decide⟩

/-! ## Witnesses: fibres and traps -/

/-- The wave in a pre-emption handler that has set the saved bit. -/
def wp : Wave := { wh with handlerCause := 0x30, savedBit := true }

theorem wit_FibresEnd :
    Issues (si wp) 0 wp wp ∧ (wp.inHandler = true ∧ wp.handlerCause = 0x30 ∧ wp.savedBit = true) ∧
    Issues (si wh) 0 wh wh ∧ ¬ (wh.inHandler = true ∧ wh.handlerCause = 0x30 ∧ wh.savedBit = true) ∧ (sw w0).wave 0 = some w0 ∧
    ({ w0 with fibres := w0.fibres.del 15 } : Wave).fibres.look 15 = none :=
  ⟨rfl, by decide, rfl, by decide, rfl, by decide⟩

/-- A fibre in an ordered section, a lane with no fibre, and the block of an ended wave. -/
theorem wit_FibresEnd_sections :
    let w := w0.mapFibre 3 fun f => { f with slots := [{ key := 3, seq := 1, st := .held }] }
    (sw w).wave 0 = some w ∧ (∃ f, w.fibres.look 3 = some f ∧ ∃ x ∈ f.slots, x.st = .held) ∧ (∃ p ∈ w.fibres, w.fibres.look p.1 = some p.2) ∧
    w.fibres.look 16 = none ∧ ∃ b, (sw w).block w.blk = some b :=
  ⟨rfl, ⟨_, rfl, _, List.mem_cons_self, rfl⟩, ⟨_, List.mem_cons_self, rfl⟩, by decide, ⟨_, rfl⟩⟩

/-- The loaded context without a supervisor handler. -/
def s0bare : State := s0.setCtx 0 { bootCtx with shpacket := BitVec.allOnes 32 }

theorem wit_TrapEntrySavesState :
    (sw w0).wave 0 = some w0 ∧ (sw w0).ctxs.look (ctxOf (sw w0) w0) = some bootCtx ∧ w0.inHandler = false ∧
    (mkTrap 0x01 (batch w0) 0 0).cause ≠ 0x30 ∧ (mkTrap 0x01 (batch w0) 0 0).cause < 256 ∧
    toSupervisor (sw w0) w0.blk (mkTrap 0x01 (batch w0) 0 0) = false ∧ toSupervisor (sw w0) w0.blk (mkTrap 0x10 (batch w0) 0 0) = true ∧
    bootCtx.shpacket ≠ BitVec.allOnes 32 :=
  ⟨rfl, by decide, by decide, by decide, by decide, by decide +kernel, by decide +kernel, by decide⟩

theorem wit_TrapWithoutHandlerContains :
    (sw wh).wave 0 = some wh ∧ ((sw wh).ctxs.look (ctxOf (sw wh) wh)).isSome = true ∧ wh.inHandler = true ∧
    toSupervisor s0bare w0.blk (mkTrap 0x30 [] 0 0) = true ∧
    ((s0bare.ctxs.look (ctxOf s0bare w0)).map Ctx.shpacket) = some (BitVec.allOnes 32) :=
  ⟨rfl, by decide, by decide, by decide +kernel, by decide⟩

theorem wit_TrapReturn :
    Issues (si w0) 0 w0 w0 ∧ w0.inHandler = false ∧
    (∃ w : Wave, Issues (si w) 0 w w ∧ w.inHandler = true ∧ (batch w).length ≠ w.fibres.length) ∧
    Issues (si wh) 0 wh wh ∧ wh.inHandler = true ∧ (batch wh).length = wh.fibres.length ∧ wh.preemptPending = false :=
  ⟨rfl, by decide, ⟨wh.mapFibre 3 fun f => { f with pc := { packet := 9, slot := 0 } }, rfl, by decide, by decide⟩, rfl, by decide, by decide, by decide⟩

/-- The wave in its handler with a fibre that was started there. -/
def wspawned : Wave := { wh with fibres := wh.fibres.put 15 (freshFibre 99 1) }

theorem wit_TrapReturn_restores :
    (∀ p ∈ wspawned.fibres, ∀ sh, p.2.shadow = some sh → sh.answered = false) ∧
    convReady { wspawned with fibres := wspawned.fibres.map fun p => (p.1, unshadowed (ofTpc wspawned.tpc) p.2) } = false ∧
    wspawned.ubank.length = 8 ∧ (∃ f sh, wspawned.fibres.look 0 = some f ∧ f.shadow = some sh) ∧
    (∃ f, wspawned.fibres.look 15 = some f ∧ f.shadow = none) := by
  refine ⟨?_, by decide, by decide, ⟨_, _, rfl, rfl⟩, ⟨_, rfl, rfl⟩⟩
  have : wspawned.fibres.all (fun p => (p.2.shadow.map Shadow.answered).getD false == false) = true := by decide
  intro p hp sh hs
  have := List.all_eq_true.1 this p hp
  rw [hs] at this
  simpa using this

/-- The wave with the upper eight lane slots empty. -/
def whalf : Wave := { w0 with fibres := w0.fibres.filter fun p => p.1 < 8 }

theorem wit_FibresStart_spawn :
    target whalf 3 = some 3 ∧ FieldsRead (si whalf) 0 whalf whalf (portCheck whalf [4, 9] [9]) [4, 9] [] whalf ∧
    (∀ x ∈ inputs (si whalf) whalf [] [4, 9], (x.arg 0).toNat + whalf.n ≤ whalf.p) ∧ ((si whalf).block whalf.blk).isSome = true ∧
    freeLane whalf = some 8 ∧ freeLane w0 = none :=
  ⟨by decide, reads (by decide +kernel) (by decide), by decide +kernel, by decide, by decide, by decide⟩

theorem wit_FibresStart_regroup :
    target w0 0 = some 0 ∧ FieldsRead (si w0) 0 w0 w0 (portCheck w0 [5] []) [5] [] w0 ∧ ((si w0).block w0.blk).isSome = true ∧
    poolCap (si w0) w0.blk ≠ 0 ∧ opCount w0 .ld = 0 ∧ (∀ x ∈ inputs (si w0) w0 [] [5], x.fibre.base = 0) ∧ (∀ e ∈ w0.loops, e.holds (herePacket w0) = false) :=
  ⟨by decide, reads (by decide +kernel) (by decide), by decide, by decide +kernel, by decide, by decide +kernel, by decide⟩

/-- The wave whose fibres have left window 0, and the wave in a loop. -/
def wbased : Wave := { w0 with fibres := w0.fibres.map fun p => (p.1, { p.2 with base := 8 }) }

theorem wit_FibresStart_regroupTraps :
    (FieldsRead (si wbased) 0 wbased wbased (portCheck wbased [5] []) [5] [] wbased ∧ poolCap (si wbased) wbased.blk ≠ 0 ∧ opCount wbased .ld = 0 ∧
      ((inputs (si wbased) wbased [] [5]).filter fun x => x.fibre.base != 0).map LaneIn.lane ≠ []) ∧
    (FieldsRead (si (wloops 1)) 0 (wloops 1) (wloops 1) (portCheck (wloops 1) [5] []) [5] [] (wloops 1) ∧
      poolCap (si (wloops 1)) (wloops 1).blk ≠ 0 ∧ opCount (wloops 1) .ld = 0 ∧
      ((inputs (si (wloops 1)) (wloops 1) [] [5]).filter fun x => x.fibre.base != 0).map LaneIn.lane = [] ∧
      (∃ e ∈ (wloops 1).loops, e.holds (herePacket (wloops 1)) = true)) ∧
    (FieldsRead (si wl) 0 wl wl (portCheck wl [5] []) [5] [] wl ∧ opCount wl .ld ≠ 0) ∧
    (Issues (si w0) 0 w0 w0 ∧ target w0 0xFF = none) :=
  ⟨⟨reads (by decide +kernel) (by decide), by decide +kernel, by decide, by decide +kernel⟩,
    ⟨reads (by decide +kernel) (by decide), by decide +kernel, by decide, by decide +kernel, ⟨_, List.mem_cons_self, by decide⟩⟩,
    ⟨reads (by decide +kernel) (by decide), by decide⟩, rfl, by decide⟩

/-- The machine whose blocks have no regroup pools. -/
def snopool : State :=
  let s := si w0
  { s with work := { s.work with launches := s.work.launches.modify 0 fun l => { l with record := l.record.set 9 0 } } }

theorem wit_FibresStart_noPools : Issues snopool 0 w0 w0 ∧ poolCap snopool w0.blk = 0 := ⟨rfl, by decide +kernel⟩

/-- A started fibre's window and its two first registers lie in its registers. -/
theorem wit_FibresStart_started :
    freeLane whalf = some 8 ∧ (∃ x ∈ inputs (si whalf) whalf [] [4, 9], 8 ≠ x.lane ∧ (x.arg 0).toNat + whalf.n ≤ whalf.p ∧ x.fibre.base + 9 < 4096) ∧
    whalf.p ≤ 4096 ∧ 1 < whalf.n := by
  refine ⟨by decide, ?_, by decide, by decide⟩
  have h : (inputs (si whalf) whalf [] [4, 9]).any (fun x => decide (8 ≠ x.lane ∧ (x.arg 0).toNat + whalf.n ≤ whalf.p ∧ x.fibre.base + 9 < 4096)) = true := by
    decide +kernel
  obtain ⟨x, hx, hp⟩ := List.any_eq_true.1 h
  exact ⟨x, hx, of_decide_eq_true hp⟩

theorem wit_ShadowStateWords :
    FieldsRead (si wh) 0 wh wh (if noShadow wh = true then some (batchTrap wh 0x01 0) else portCheck wh [] [5]) [] [] wh ∧
    FieldsRead (si wh) 0 wh wh (portCheck wh [4] []) [4] [] wh ∧ wh.level ≠ .user ∧ noShadow wh = false ∧ (1#8).toNat ≤ 1 :=
  ⟨reads (by decide +kernel) (by decide), reads (by decide +kernel) (by decide), by decide, by decide, by decide⟩

/-! ## Witnesses: memory words -/

/-- Registers v1 = 0x40000 and v4 = 0x80. -/
def wa : Wave := (wv 1 0x40000).fibres.foldl (fun w p => setVreg w p.1 p.2 4 0x80) (wv 1 0x40000)

/-- Every try of a list passes. -/
def pass (ts : List Try) : Bool := ts.all fun t => t.access.isSome

theorem accessesPass_of {r : Wave} {c : OpCls} {ts : List Try} (h : classFull r c = false) (hp : pass ts = true) : AccessesPass r (some c) ts :=
  ⟨fun _ hc => by cases hc; exact h, fun t ht => List.all_eq_true.1 hp t ht⟩

theorem wit_MemoryWordsIssue_ld :
    FieldsRead (si wa) 0 wa wa (memCheck [1] (0, 0) (8, widthRegs .w64) wa) [1] [] wa ∧ classFull wa .ld = false ∧
    pass ((inputs (si wa) wa [] [1]).map fun i =>
      (devTry (si wa) wa i.lane (vaOf wa 2 (i.arg 0)) (widthBytes .w64) Access.load (.load false) fun _ => none).to i.fibre 8 (widthRegs .w64)) = true :=
  ⟨reads (by decide +kernel) (by decide), by decide, by decide +kernel⟩

theorem wit_MemoryWordsIssue_onCore :
    FieldsRead (si wa) 0 wa wa (memCheck [4] (0, 0) (8, widthRegs .w32) wa) [4] [] wa ∧
    pass ((inputs (si wa) wa [] [4]).map fun i =>
      (coreTry .spm (spmSize (si wa) wa) 0x18 i.lane (offOf wa 2 (i.arg 0)) (widthBytes .w32) (.load false)).to i.fibre 8 (widthRegs .w32)) = true ∧
    pass ((inputs (si wa) wa [] [4]).map fun i =>
      ((coreTry .lane (lpSize (si wa) wa) 0x19 i.lane (offOf wa 2 (i.arg 0)) (widthBytes .w32) (.load false)).loadWindow i.fibre).to i.fibre 8
        (widthRegs .w32)) = true :=
  ⟨reads (by decide +kernel) (by decide), by decide +kernel, by decide +kernel⟩

theorem wit_MemoryWordsIssue_st :
    FieldsRead (si wa) 0 wa wa (memCheck [1] (8, widthRegs .w32) (0, 0) wa) (1 :: runOf 8 (widthRegs .w32)) [] wa ∧ classFull wa .st = false ∧
    pass ((inputs (si wa) wa [] (1 :: runOf 8 (widthRegs .w32))).map fun i =>
      devTry (si wa) wa i.lane (vaOf wa 2 (i.arg 0)) (widthBytes .w32) Access.store (.store (i.data 1 (widthBytes .w32))) fun _ => none) = true ∧
    pass ((inputs (si wa) wa [] (4 :: runOf 8 (widthRegs .w32))).map fun i =>
      coreTry .spm (spmSize (si wa) wa) 0x18 i.lane (offOf wa 2 (i.arg 0)) (widthBytes .w32) (.store (i.data 1 (widthBytes .w32)))) = true ∧
    pass ((inputs (si wa) wa [] (4 :: runOf 8 (widthRegs .w32))).map fun i =>
      (coreTry .lane (lpSize (si wa) wa) 0x19 i.lane (offOf wa 2 (i.arg 0)) (widthBytes .w32) (.store (i.data 1 (widthBytes .w32)))).stored) = true :=
  ⟨reads (by decide +kernel) (by decide), by decide, by decide +kernel, by decide +kernel, by decide +kernel⟩

theorem wit_MemoryWordsIssue_atom :
    FieldsRead (si wa) 0 wa wa (atomCheck 6 1 .cas .w32 true wa) (1 :: runOf 6 (atomRegs .cas .w32)) [] wa ∧
    pass ((inputs (si wa) wa [] (1 :: runOf 6 (atomRegs .cas .w32))).map fun i =>
      (devTry (si wa) wa i.lane (vaOf wa 2 (i.arg 0)) (awBytes .w32) Access.atom (atomAcc .cas .w32 true i) hostTrap).to i.fibre 6
        (atomDst .w32 true)) = true ∧
    pass ((inputs (si wa) wa [] (4 :: runOf 6 (atomRegs .add .w32))).map fun i =>
      (coreTry .spm (spmSize (si wa) wa) 0x18 i.lane (offOf wa 2 (i.arg 0)) (awBytes .w32) (atomAcc .add .w32 false i)).to i.fibre 6
        (atomDst .w32 false)) = true :=
  ⟨reads (by decide +kernel) (by decide), by decide +kernel, by decide +kernel⟩

theorem wit_MemoryWordsIssue_cache :
    FieldsRead (si wa) 0 wa wa (memCheck [1] (0, 0) (0, 0) wa) [1] [] wa ∧
    pass ((inputs (si wa) wa [] [1]).map fun i =>
      (devTry (si wa) wa i.lane (vaOf wa 2 (i.arg 0)) 1 Access.load .clean fun _ => none).wholeLine) = true ∧
    pass ((inputs (si wa) wa [] [1]).map fun i =>
      (devTry (si wa) wa i.lane (vaOf wa 2 (i.arg 0)) 1 Access.load .inval fun _ => none).wholeLine) = true :=
  ⟨reads (by decide +kernel) (by decide), by decide +kernel, by decide +kernel⟩

theorem wit_IssuedAccessChangesNoMemory :
    1 % 2 ≠ 0 ∧ 7 % 8 ≠ 0 ∧ 8 % 8 = 0 ∧ 15 < 8 + 8 ∧ 8 + 8 ≤ 16 := by decide

theorem wit_FencesAndStreams :
    Issues (si (ws 3 0xFFFFFF)) 0 (ws 3 0xFFFFFF) (ws 3 0xFFFFFF) ∧ FKind.full ≠ .acqrel ∧ (sreg (ws 3 0xFFFFFF) (3#7).toNat).toNat < 2 ^ 24 ∧
    Issues (si (ws 3 0x1000000)) 0 (ws 3 0x1000000) (ws 3 0x1000000) ∧ 2 ^ 24 ≤ (sreg (ws 3 0x1000000) (3#7).toNat).toNat ∧
    FieldsRead (si wa) 0 wa wa (memCheck [1] (0, 0) (0, 0) wa) [1] [] wa :=
  ⟨rfl, by decide, by decide, rfl, by decide, wit_MemoryWordsIssue_cache.1⟩


/-! ## Witnesses: remote access, commits, barriers, buffers, sections -/

theorem exists_some {α : Type} {o : Option α} (h : o.isSome = true) : ∃ x, o = some x := Option.isSome_iff_exists.1 h

theorem exists_ok {ε α : Type} {e : Except ε α} (h : e.toOption.isSome = true) : ∃ x, e = .ok x := by
  cases e with
  | error _ => cases h
  | ok x => exact ⟨x, rfl⟩

theorem exists_subs {α β γ : Type} {f : α → Option β × γ} (xs : List α) (h : xs.all (fun x => (f x).1.isSome) = true) :
    ∃ ys : List (β × γ), xs.map f = ys.map fun p => (some p.1, p.2) := by
  induction xs with
  | nil => exact ⟨[], rfl⟩
  | cons x xs ih =>
    rw [List.all_cons, Bool.and_eq_true] at h
    obtain ⟨ys, hy⟩ := ih h.2
    obtain ⟨y, hx⟩ := exists_some h.1
    exact ⟨(y, (f x).2) :: ys, by rw [List.map_cons, hy, List.map_cons, ← hx]⟩

theorem exists_accs {α β : Type} {f : α → Option β} (xs : List α) (h : xs.all (fun x => (f x).isSome) = true) : ∃ ys : List β, xs.map f = ys.map some := by
  induction xs with
  | nil => exact ⟨[], rfl⟩
  | cons x xs ih =>
    rw [List.all_cons, Bool.and_eq_true] at h
    obtain ⟨ys, hy⟩ := ih h.2
    obtain ⟨y, hx⟩ := exists_some h.1
    exact ⟨y :: ys, by rw [List.map_cons, hy, List.map_cons, hx]⟩

theorem exists_oks {α β ε : Type} {f : α → Except ε β} (xs : List α) (h : xs.all (fun x => (f x).toOption.isSome) = true) :
    ∃ ys : List β, xs.map f = ys.map Except.ok := by
  induction xs with
  | nil => exact ⟨[], rfl⟩
  | cons x xs ih =>
    rw [List.all_cons, Bool.and_eq_true] at h
    obtain ⟨ys, hy⟩ := ih h.2
    obtain ⟨y, hx⟩ := exists_ok h.1
    exact ⟨y :: ys, by rw [List.map_cons, hy, List.map_cons, hx]⟩

/-- A state with a wave about to run one word. -/
def sg (s : State) (w : Wave) : State := latch (s.setWave 0 w) 0 none .off

theorem issues_sg (s : State) (w : Wave) : Issues (sg s w) 0 w w := by
  have h : (sg s w).wave 0 = some w := State.wave_setWave_self s 0 w
  unfold Issues issuing
  show (match (sg s w).wave 0 with
    | none => none
    | some x => some (0, x, x)) = some (0, w, w)
  rw [h]

theorem reads_sg {s : State} {w : Wave} {chk : Option Trap} {srcs : List Nat} (hc : chk = none) (hp : portsOf srcs = []) :
    FieldsRead (sg s w) 0 w w chk srcs [] w := ⟨issues_sg s w, hc, by rw [hp]; rfl⟩

/-- The loaded machine with its launch's block as the one member of a group. -/
def s0group : State :=
  { s0 with work := { s0.work with launches := s0.work.launches.modify 0 fun l => { l with groups := [{ co := true, home0 := false, members := [0] }] } } }

theorem wit_RemoteAndCommitWords_rld :
    groupMembers (sg s0group (wv 1 0x40)) 0 (0#2).toNat = some [0] ∧
    FieldsRead (sg s0group (wv 1 0x40)) 0 (wv 1 0x40) (wv 1 0x40) (memCheck [1, 2] (0, 0) (3, 1) (wv 1 0x40)) [1, 2] [] (wv 1 0x40) ∧
    classFull (wv 1 0x40) .ld = false ∧
    ∃ subs : List (Sub × Nat), (inputs (sg s0group (wv 1 0x40)) (wv 1 0x40) [] [1, 2]).map (fun i =>
      (((remoteTry (sg s0group (wv 1 0x40)) (wv 1 0x40) [0] (some (i.arg 1).toNat) i.lane (i.arg 0).toNat (.load false)).to i.fibre 3 1).access,
        [0].getD (i.arg 1).toNat 0)) = subs.map fun p => (some p.1, p.2) :=
  ⟨by decide +kernel, reads_sg (by decide +kernel) (by decide), by decide +kernel, exists_subs _ (by decide +kernel)⟩

theorem wit_RemoteAndCommitWords_stores :
    FieldsRead (sg s0group w0) 0 w0 w0 (memCheck [1, 2, 3] (0, 0) (0, 0) w0) [1, 2, 3] [] w0 ∧ classFull w0 .st = false ∧
    (∃ subs : List (Sub × Nat), (inputs (sg s0group w0) w0 [] [1, 2, 3]).map (fun i =>
      ((remoteTry (sg s0group w0) w0 [0] (some (i.arg 1).toNat) i.lane (i.arg 0).toNat (.store ((i.arg 2).zeroExtend 64))).access,
        [0].getD (i.arg 1).toNat 0)) = subs.map fun p => (some p.1, p.2)) ∧
    FieldsRead (sg s0group w0) 0 w0 w0 (memCheck [1, 3] (0, 0) (0, 0) w0) [1, 3] [] w0 ∧
    ∃ xs : List Sub, (inputs (sg s0group w0) w0 [] [1, 3]).map (fun i =>
      (remoteTry (sg s0group w0) w0 [0] none i.lane (i.arg 0).toNat (.store ((i.arg 1).zeroExtend 64))).access) = xs.map some :=
  ⟨reads_sg (by decide +kernel) (by decide), by decide, exists_subs _ (by decide +kernel), reads_sg (by decide +kernel) (by decide),
    exists_accs _ (by decide +kernel)⟩

/-- Memory with a parameter block of one entry at 0x40000: the 32-bit word at 0x40100 from 0 to 7. -/
def s0mcas : State :=
  { s0 with mem := devWrite s0.mem none 0x40000 (leBytes 1 8 ++ leBytes 0x40100 8 ++ leBytes 0 8 ++ leBytes 7 8) }

theorem wit_RemoteAndCommitWords_mcas :
    FieldsRead (sg s0mcas (wv 1 0x40000)) 0 (wv 1 0x40000) (wv 1 0x40000) (memCheck [1] (0, 0) (3, 1) (wv 1 0x40000)) [1] [] (wv 1 0x40000) ∧
    classFull (wv 1 0x40000) .ld = false ∧ seesStores (wv 1 0x40000) = true ∧
    ∀ t ∈ (inputs (sg s0mcas (wv 1 0x40000)) (wv 1 0x40000) [] [1]).map fun i =>
      mcasTry (sg s0mcas (wv 1 0x40000)) (wv 1 0x40000) 0 (wv 1 0x40000).nextOp i.lane (vaOf (wv 1 0x40000) 2 (i.arg 0)), t.fails = [] ∧ t.waits = [] :=
  ⟨reads_sg (by decide +kernel) (by decide), by decide +kernel, by decide +kernel, by decide +kernel⟩

theorem wit_RemoteAndCommitWords_blocks :
    122 + 1 < 124 ∧ FieldsRead (si w0) 0 w0 w0 (portCheck w0 [122, 122 + 1] [3]) [122, 122 + 1] [] w0 ∧ classFull w0 .ld = false ∧
    FieldsRead (si w0) 0 w0 w0 (portCheck w0 [122, 122 + 1, 3] []) [122, 122 + 1, 3] [] w0 ∧
    FieldsRead (si w0) 0 w0 w0 (portCheck w0 [122, 122 + 1] []) [122, 122 + 1] [] w0 :=
  ⟨by decide, reads (by decide +kernel) (by decide), by decide, reads (by decide +kernel) (by decide), reads (by decide +kernel) (by decide)⟩

/-- The wave with s2 = x and s3 = y. -/
def wxy (x y : Word) : Wave := setSreg (ws 2 x) 3 y

theorem wit_BarrierWords_own :
    let w := wxy 0x40 1
    Issues (si w) 0 w w ∧ 0x40 % 16 = 0 ∧ 0x40 + 16 ≤ spmSize (si w) w ∧ (sreg w (2#7).toNat).toNat = 0x40 ∧ spmQuiet w 0x40 = true ∧
    1 ≤ (sreg w (3#7).toNat).toNat ∧ (sreg w (3#7).toNat).toNat < 16 ∧ storeReady w = true ∧ acquiresDone w = true ∧ releaseReady (si w) w = true ∧
    phaseOf (si w) (.spm w.blk 0x40) ≠ 1 ∧ phaseOf (si w) (.spm w.blk 0x40) = 0 ∧
    (updateObj { (si w).setWave 0 w with mem := releaseBytes (si w).mem (coreOf (si w) w) } (.spm w.blk 0x40) .arrive).2 = true ∧
    (updateObj (updateObj (si w) (.spm w.blk 0x40) (.init 2)).1 (.spm w.blk 0x40) .arrive).2 = false ∧ (16383#32).toNat < 2 ^ 14 :=
  ⟨rfl, by decide, by decide +kernel, by decide, by decide, by decide, by decide, by decide, by decide, by decide +kernel, by decide +kernel,
    by decide +kernel, by decide +kernel, by decide +kernel, by decide⟩

/-- An object in device memory at an address. -/
def inMemory (va : Nat) : Except (Option Trap) BarRef → Bool
  | .ok (.mem a _) => a == va
  | _ => false

theorem exists_mem {x : Except (Option Trap) BarRef} {va : Nat} (h : inMemory va x = true) : ∃ y, x = .ok (.mem va y) := by
  unfold inMemory at h
  split at h
  · exact ⟨_, by rw [beq_iff_eq.1 h]⟩
  · cases h

theorem wit_BarrierWords_memory :
    let w := wxy 0x40010 0
    Issues (si w) 0 w w ∧ (∃ x, barRef (si w) w true 2 Access.store false = .ok (.mem 0x40010 x)) ∧
    (∃ x, barRef (si w) w true 2 Access.store true = .ok (.mem 0x40010 x)) ∧
    (∃ x, barRef (si w) w true 2 Access.load true = .ok (.mem 0x40010 x)) ∧ (sreg w (3#7).toNat).toNat < 16 :=
  ⟨rfl, exists_mem (by decide +kernel), exists_mem (by decide +kernel), exists_mem (by decide +kernel), by decide⟩

theorem wit_BarrierWords_remote :
    let w := wxy 0x80000040 15
    Issues (sg s0group w) 0 w w ∧ barRef (sg s0group w) w false 2 Access.store true = .ok (.remote 0 0 0x40) ∧
    barRef (sg s0group w) w false 2 Access.load true = .ok (.remote 0 0 0x40) ∧ (sreg w (3#7).toNat).toNat < 16 ∧
    16 ≤ (sreg (wxy 0 16) (3#7).toNat).toNat ∧ (sreg (wxy 0 0) (3#7).toNat).toNat = 0 ∧ 2 ^ 14 ≤ (sreg (wxy 0 0x4000) (3#7).toNat).toNat :=
  ⟨issues_sg _ _, by decide +kernel, by decide +kernel, by decide, by decide, by decide, by decide⟩

theorem wit_BarrierObjectCounts :
    let f : BarFields := { phase := 15, overrun := false, e := 16383, a := 1, sect := 0 }
    f.phase < 16 ∧ f.e < 2 ^ 14 ∧ f.a < 2 ^ 14 ∧ f.sect < 2 ^ 32 ∧ f.a ≠ 0 ∧ ({ f with a := 0 } : BarFields).a = 0 := by decide

/-- Buffer 0 with two slots, the one at p free and the one at c in a given state. -/
def s0cb (x : CbSlot) : State :=
  mapCbuf s0 0 0 fun _ => { base := 0, size := 32, count := 2, p := 0, c := 1, slots := [freshSlot, x], copies := 0 }

theorem wit_CircularBufferWords_cbcfg :
    let w := wxy (BitVec.ofNat 32 (spmSize s0 w0 - 64)) 0x20020
    Issues (si w) 0 w w ∧ (15#4).toNat < cbufCount (si w) w.blk ∧ (sreg w 2).toNat < 2 ^ 19 ∧ (sreg w 2).toNat % 32 = 0 ∧
    (sreg w (2 + 1)).toNat % 2 ^ 16 % 32 = 0 ∧ 32 ≤ (sreg w (2 + 1)).toNat % 2 ^ 16 ∧ (sreg w (2 + 1)).toNat % 2 ^ 16 ≤ 65504 ∧
    1 ≤ (sreg w (2 + 1)).toNat / 2 ^ 16 ∧ (sreg w (2 + 1)).toNat / 2 ^ 16 ≤ 16 ∧ (cbufOf (si w) w.blk 15).quiet = true ∧
    (sreg w 2).toNat + (sreg w (2 + 1)).toNat % 2 ^ 16 * ((sreg w (2 + 1)).toNat / 2 ^ 16) ≤ spmSize (si w) w :=
  ⟨rfl, by decide +kernel, by decide +kernel, by decide +kernel, by decide, by decide, by decide, by decide, by decide, by decide +kernel, by decide +kernel⟩

/-- The slot at c committed; claimed with a tile operation that has named its fill. -/
def cbDone : CbSlot := { freshSlot with st := .committed }
def cbNamed : CbSlot := { freshSlot with st := .claimed, refs := [0] }

theorem wit_CircularBufferWords_slots :
    (∀ x : CbSlot, Issues (sg (s0cb x) w0) 0 w0 w0) ∧ 0 < cbufCount (sg (s0cb cbDone) w0) w0.blk ∧
    (cbufOf (sg (s0cb cbDone) w0) w0.blk 0).count ≠ 0 ∧
    ((cbufOf (sg (s0cb cbDone) w0) w0.blk 0).slot 0).st = .free ∧ slotWaiting (sg (s0cb cbDone) w0) w0.blk 0 0 = 0 ∧
    releaseReady (sg (s0cb cbDone) w0) w0 = true ∧ (cbufOf (sg (s0cb cbDone) w0) w0.blk 0).slot 1 = cbDone ∧
    (cbufOf (sg (s0cb freshSlot) w0) w0.blk 0).slot 1 = freshSlot ∧ (cbufOf (sg (s0cb cbNamed) w0) w0.blk 0).slot 1 = cbNamed ∧
    cbNamed.rel < claimedFills 0 cbNamed :=
  ⟨fun x => issues_sg _ _, by decide +kernel, by decide +kernel, by decide +kernel, by decide +kernel, by decide +kernel, by decide +kernel,
    by decide +kernel, by decide +kernel, by decide +kernel⟩

/-- The wave whose fibres hold section 0 in every slot. -/
def wfull : Wave := w0.fibres.foldl (fun w p => w.mapFibre p.1 fun f => { f with slots := f.slots.map fun _ => { key := 0, seq := 0, st := .held } }) w0

theorem wit_OrderedSectionWords :
    FieldsRead (si w0) 0 w0 w0 (portCheck w0 [1, 2] [3]) [1, 2] [] w0 ∧ (∀ x ∈ inputs (si w0) w0 [] [1, 2], freeSect x.fibre = true) ∧
    FieldsRead (si wfull) 0 wfull wfull (portCheck wfull [1, 2] [3]) [1, 2] [] wfull ∧ (∃ x ∈ inputs (si wfull) wfull [] [1, 2], freeSect x.fibre = false) ∧
    FieldsRead (si w0) 0 w0 w0 (portCheck w0 [1, 2] []) [1, 2] [] w0 ∧ FieldsRead (si w0) 0 w0 w0 (portCheck w0 [1] [3]) [1] [] w0 :=
  ⟨reads (by decide +kernel) (by decide), by decide +kernel, reads (by decide +kernel) (by decide), by decide +kernel,
    reads (by decide +kernel) (by decide), reads (by decide +kernel) (by decide)⟩

theorem wit_OrderedSectionWords_oleave :
    FieldsRead (si wfull) 0 wfull wfull (portCheck wfull [1] []) [1] [] wfull ∧
    (∃ held : List (LaneIn × Sect), (inputs (si wfull) wfull [] [1]).map (fun x => (heldSect x.fibre (x.arg 0)).map fun y => (x, y)) = held.map some) ∧
    FieldsRead (si w0) 0 w0 w0 (portCheck w0 [1] []) [1] [] w0 ∧ (∃ x ∈ inputs (si w0) w0 [] [1], heldSect x.fibre (x.arg 0) = none) :=
  ⟨reads (by decide +kernel) (by decide), exists_accs _ (by decide +kernel), reads (by decide +kernel) (by decide), by decide +kernel⟩

/-! ## Witnesses: copies and tiles -/

/-- Words as bytes, up to the last that is not zero. -/
def wordBytesOf (ws : List Nat) : List Byte := ws.flatMap fun x => leBytes x 4

/-- A surface entry of 16 by 16 pixels of 8 bytes. -/
def entry0 : Ste := { Ste.zero with w0 := 0x701, w1 := 0x00100010 }

/-- The entries of the loaded context: 0 a colour surface, 1 a depth surface, 2 a tensor surface of fp8. -/
def dataCtx : Ctx :=
  { bootCtx with
    cfg := { bootCtx.cfg with peerTable := 0x60800 }
    stes := [(0, entry0), (1, { entry0 with w0 := 0xF11 }), (2, { entry0 with w0 := 0x743, w1 := 0x01000100 })] }

/-- The loaded machine with a layout record, a page of device 5 and its peer table entry, surfaces, a block of the store, and a group. -/
def s0data : State :=
  let put (s : State) (a : Nat) (ws : List Nat) : State := { s with mem := { s.mem with mem := Memory.writes s.mem.mem a (wordBytesOf ws) } }
  let s8 := put (put s0 0x60340 [0x61C00, 0, 64, 4, 64]) 0x60828 [7]
  let s9 := { s8 with mem := { s8.mem with mem := Memory.writes s8.mem.mem 0x11008 (leBytes (0x81F + 5 * 2 ^ 13) 8) } }
  let t := s9.setCtx 0 dataCtx
  { t with
    dev := { t.dev with routes := [(5, 0)] }
    base := { t.base with
    keys := [{ ctx := 0, seq := 0, layer := 0, handle := 0 }]
    blocks := [(0, { ctx := 0, count := 1, gen := 0, pins := 0, live := true, spilled := false, poisoned := [], used := 0, data := [] })] }
    work := { t.work with launches := t.work.launches.modify 0 fun l => { l with groups := [{ co := true, home0 := false, members := [0] }] } } }

/-- The wave with uniform registers from s8 on. -/
def wlist (xs : List Word) : Wave := ((List.range xs.length).zip xs).foldl (fun w p => setSreg w (8 + p.1) p.2) w0

/-- The translation of a copy's pages. -/
def pagesFor (s : State) (r : Wave) (p : Plan) : Map PageAt :=
  pagesOf ((((List.range p.pages.length).zip p.pages).map fun q => pageTry s r q.1 q.2.1 q.2.2).filterMap Try.access)

/-- A copy may be issued. -/
def ready (s : State) (r : Wave) (x : Bool) (p : Plan) : Bool :=
  !placesTaken s (coreOf s r) && !classFull r .cp &&
    (((List.range p.pages.length).zip p.pages).map fun q => pageTry s r q.1 q.2.1 q.2.2).all (fun t => t.access.isSome) &&
    (commonChecks s r p.desc x p.cbOk ++ slotCheck s r p.desc p :: sectorCheck p.bytes :: p.low ++ p.high ++ destCheck s r p.desc p ++ peerChecks p (pagesFor s r p)).all
      (fun c => !c.1) && sourceFree s (coreOf s r) (pagesFor s r p)

theorem ready_of {s : State} {r : Wave} {x : Bool} {p : Plan} (h : ready s r x p = true) : ∃ pages, CopyReady s r x p pages := by
  simp only [ready, Bool.and_eq_true, Bool.not_eq_true', List.all_eq_true] at h
  exact ⟨pagesFor s r p, h.1.1.1.1, h.1.1.1.2, ⟨h.1.1.2, rfl⟩, h.1.2, h.2⟩

/-- A CPY from memory to scratchpad with a barrier object, and one from scratchpad to memory. -/
theorem wit_CopyWords_cpy :
    let w := wlist [0x60000, 0, 0x100, 0, 64, 0, 0x40, 0]
    let v := wlist [0x100, 0, 0x60000, 0, 32, 1, 0x80000000, 0]
    Issues (sg s0data w) 0 w w ∧ (∃ pages, CopyReady (sg s0data w) w true (planCpy (sg s0data w) w (descWords w 8)) pages) ∧
    Issues (sg s0data v) 0 v v ∧ ∃ pages, CopyReady (sg s0data v) v false (planCpy (sg s0data v) v (descWords v 8)) pages :=
  ⟨issues_sg _ _, ready_of (by decide +kernel), issues_sg _ _, ready_of (by decide +kernel)⟩

theorem wit_CopyWords_forms :
    let p := wlist [0x60000, 0, 0x40000000, 0, 32, 0, 0x80000000, 0]
    let m := wlist [0x100, 0, 0x200, 0, 32, 0, 0x40, 0]
    let c := wlist [0, 0, 0x10001, 0, 0, 0, 0x80000000, 0]
    let b := wlist [0, 0, 0, 0, 0, 0, 0x80000000, 0]
    (Issues (sg s0data p) 0 p p ∧ ∃ pages, CopyReady (sg s0data p) p false (planCpyp (sg s0data p) p (descWords p 8)) pages) ∧
    (Issues (sg s0data m) 0 m m ∧ ∃ pages, CopyReady (sg s0data m) m true (planCpym (sg s0data m) m (descWords m 8)) pages) ∧
    (Issues (sg s0data c) 0 c c ∧ ∃ pages, CopyReady (sg s0data c) c false (planCpys (sg s0data c) c (descWords c 8)) pages) ∧
    (Issues (sg s0data b) 0 b b ∧ ∃ pages, CopyReady (sg s0data b) b false (planCpyb (sg s0data b) b (descWords b 8)) pages) :=
  ⟨⟨issues_sg _ _, ready_of (by decide +kernel)⟩, ⟨issues_sg _ _, ready_of (by decide +kernel)⟩, ⟨issues_sg _ _, ready_of (by decide +kernel)⟩,
    issues_sg _ _, ready_of (by decide +kernel)⟩

/-- A CPYT of a tile of 32 by 1 bytes, and a CPYG of one row of 32 bytes per fibre. -/
theorem wit_CopyWords_tile_gather :
    let w := wlist [0x60340, 0, 0x100, 32, 0, 0x10020, 0x80000000, 0]
    let v := wlist [0x60000, 0, 0x100, 32, 32, 1, 0x80000000, 0]
    (seesStores w = true ∧ ∃ rec pages, layoutRecord (sg s0data w) w (dva (descWords w 8) 0) = .ok rec ∧
      CopyReady (sg s0data w) w false (planCpyt (descWords w 8 ++ rec)) pages) ∧
    FieldsRead (sg s0data v) 0 v v (portCheck v [1] []) [1] [] v ∧
    ∃ pages, CopyReady (sg s0data v) v false (planCpyg (descWords v 8) ((inputs (sg s0data v) v [] [1]).map fun i => (i.lane, i.arg 0))) pages := by
  refine ⟨⟨by decide +kernel, ?_⟩, reads_sg (by decide +kernel) (by decide), ready_of (by decide +kernel)⟩
  have h : layoutRecord (sg s0data (wlist [0x60340, 0, 0x100, 32, 0, 0x10020, 0x80000000, 0])) (wlist [0x60340, 0, 0x100, 32, 0, 0x10020, 0x80000000, 0])
      (dva (descWords (wlist [0x60340, 0, 0x100, 32, 0, 0x10020, 0x80000000, 0]) 8) 0) = .ok [0x61C00, 0, 64, 4, 64, 0, 0, 0] := by
    decide +kernel
  obtain ⟨p, hp⟩ := ready_of (s := sg s0data (wlist [0x60340, 0, 0x100, 32, 0, 0x10020, 0x80000000, 0])) (r := wlist [0x60340, 0, 0x100, 32, 0, 0x10020, 0x80000000, 0])
    (x := false) (p := planCpyt (descWords (wlist [0x60340, 0, 0x100, 32, 0, 0x10020, 0x80000000, 0]) 8 ++ [0x61C00, 0, 64, 4, 64, 0, 0, 0])) (by decide +kernel)
  exact ⟨_, p, h, hp⟩

/-- The loaded block is on its core, has a buffer to take a slot of and holds no S line with bytes of its own. -/
theorem wit_CopyWords_entries :
    (∃ b, (sg s0data w0).block w0.blk = some b ∧ b.status ≠ .saved ∧ 0 < b.cbufs.length) ∧ NoTiles (sg s0data w0) ∧
    dirtyLines (sg s0data w0).mem (coreOf (sg s0data w0) w0) = [] ∧ cbSet [0, 0, 0, 0, 0, 0, 0, 0x10] = true ∧ (0x10 % 16 : Nat) = 0 ∧
    cbSet [0, 0, 0, 0, 0, 0, 0x40, 0] = false ∧ bitAt (dw [0, 0, 0, 0, 0, 0, 0x40, 0] 6) 31 = false := by
  refine ⟨⟨_, rfl, by decide, by decide⟩, by decide +kernel, by decide +kernel, by decide, by decide, by decide, by decide⟩

/-- The loaded machine with a selection and with buffer 1 of two slots of 16 KiB. -/
def s0tile : State :=
  let s := mapCbuf s0data 0 1 fun _ => { base := 0, size := 16384, count := 2, p := 0, c := 0, slots := [{ freshSlot with st := .committed }, freshSlot], copies := 0 }
  s.mapBlock 0 fun b => { b with sel := some { o := 0, n := 64, kc := 16, b := 32, id := 0 } }

/-- A drain's destination passes its checks and its pages are open. -/
def drains (s : State) (r : Wave) (a : SReg) (t : Dst) (c : SlabCnt) : Bool :=
  match (s.block r.blk).bind selOf with
  | some sel => (drainTrap s r (drainOf r a t c sel)).isNone &&
      (((List.range (drainPages (drainOf r a t c sel)).length).zip (drainPages (drainOf r a t c sel))).map fun p =>
        pageTry s r p.1 p.2 Access.store).all fun t => t.access.isSome
  | none => false

theorem wit_TileWords_moves :
    let w := wlist [0, 0x100040, 32, 0]
    Issues (sg s0tile w) 0 w w ∧ TileRoom (sg s0tile w) w true ∧ TileRoom (sg s0tile w) w false ∧
    (28#5).toNat + slabNum .four ≤ slabCount (sg s0tile w) w.blk ∧
    (sreg w (8#7).toNat).toNat % 16 = 0 ∧ (sreg w (8#7).toNat).toNat + 4096 * slabNum .four ≤ spmSize (sg s0tile w) w ∧
    selCheck (sg s0tile w) 8 w = none ∧ drains (sg s0tile (wlist [0, 0, 32, 0])) (wlist [0, 0, 32, 0]) 8 .spm .four = true ∧
    drains (sg s0tile (wlist [0x60000, 0, 32, 0])) (wlist [0x60000, 0, 32, 0]) 8 .mem .one = true ∧
    drains (sg s0tile (wlist [0, 0, 0, 0])) (wlist [0, 0, 0, 0]) 8 .srf .one = true :=
  ⟨issues_sg _ _, ⟨by decide +kernel, by decide +kernel⟩, ⟨by decide +kernel, by decide⟩, by decide +kernel, by decide, by decide +kernel, by decide +kernel,
    by decide +kernel, by decide +kernel, by decide +kernel⟩

theorem wit_TileWords_mma :
    let w := wlist [2, 0, 0, 0]
    Issues (sg s0tile w) 0 w w ∧ TileRoom (sg s0tile w) w true ∧ (31#5).toNat + w.width / 16 ≤ slabCount (sg s0tile w) w.blk ∧
    (batch w).length = w.width ∧ converged w = true ∧ memCheck [] (32, 16) (0, 0) w = none ∧ memCheck [] (32, 17) (0, 0) w = none ∧
    (∀ p ∈ bChecks (sg s0tile w) w 1 .f16 false false false, p.1 = false) ∧ (∀ p ∈ bChecks (sg s0tile w) w 1 .e4m3 false false true, p.1 = false) ∧
    (∀ p ∈ bChecks (sg s0tile w) w 2 .e4m3 true false false, p.1 = false) ∧ 16 * (2#2).toNat + fmtK (mmacFmt .f16) ≤ 64 ∧
    16 * (0#2).toNat + fmtK (mmacFmt .e4m3) ≤ 64 ∧ (∀ p ∈ bChecks (sg s0tile w) w 1 (mmacFmt .e4m3) false false false, p.1 = false) :=
  ⟨issues_sg _ _, ⟨by decide +kernel, by decide +kernel⟩, by decide +kernel, by decide, by decide, by decide +kernel, by decide +kernel, by decide +kernel,
    by decide +kernel, by decide +kernel, by decide, by decide, by decide +kernel⟩

/-! ## Witnesses: graphics, plots, launches, system -/

/-- A wave of two fibres at machine level with the pair s8:s9 = va and s10 = y. -/
def wrec (va y : Word) : Wave := { wlist [va, 0, y] with level := .machine, fibres := w0.fibres.take 2 }

/-- The data machine with only the given records in memory, which a wave at machine level reads. -/
def srec (xs : List (Nat × List Nat)) : State :=
  { s0data with mem := { s0.mem with mem := xs.foldl (fun m p => Memory.writes m p.1 (wordBytesOf p.2)) [] } }

/-- A launch record. -/
def sLaunch : State := srec [(0x60000, bootRecord.map BitVec.toNat)]

/-- A batch descriptor with its fragment record. -/
def sPrim : State := srec [(0x60100, (bootRecord.map BitVec.toNat).set 9 0x80040), (0x60200, [0x61000, 0, 1, 0x8000, 0x60100, 0])]

/-- A surface image. -/
def sImage : State := srec [(0x60240, [0x701, 0x00100010])]

/-- A PLOT descriptor. -/
def sPlot : State := srec [(0x60280, [0x61400, 0, 0x6001, 0, 0, 0x10001])]

/-- A texture record. -/
def sTex : State := srec [(0x60300, [0x61800, 0, 0x00100010, 64])]

theorem wit_GraphicsWords_records :
    Issues (sg sPrim (wrec 0x60200 0)) 0 (wrec 0x60200 0) (wrec 0x60200 0) ∧ seesStores (wrec 0x60200 0) = true ∧
    (∃ x, readPrim (sg sPrim (wrec 0x60200 0)) 0 0 .machine (spair (wrec 0x60200 0) 8).toNat = .ok x) ∧
    Issues (sg sImage (wrec 0x60240 3)) 0 (wrec 0x60240 3) (wrec 0x60240 3) ∧ (sreg (wrec 0x60240 3) 10).toNat < 2 ^ 12 ∧
    ((alignedWords (sg sImage (wrec 0x60240 3)) 0 0 .machine (spair (wrec 0x60240 3) 8).toNat 64 16).toOption.map imageOk) = some true ∧
    Issues (sg sPlot (wrec 0x60280 0)) 0 (wrec 0x60280 0) (wrec 0x60280 0) ∧
    ((readPlot (sg sPlot (wrec 0x60280 0)) 0 0 .machine (spair (wrec 0x60280 0) 8).toNat).toOption.map fun x =>
      firstRejected (sg sPlot (wrec 0x60280 0)) (steOf (sg sPlot (wrec 0x60280 0)) 0 (rw x.desc 3 % 2 ^ 12)).p x.words) = some none ∧
    releaseReady (sg sPlot (wrec 0x60280 0)) (wrec 0x60280 0) = true ∧
    coreOf (sg sPlot (wrec 0x60280 0)) (wrec 0x60280 0) = 0 ∧ ctxOf (sg sPlot (wrec 0x60280 0)) (wrec 0x60280 0) = 0 ∧
    (sreg (wrec 0x5FFF 0) 8).toNat < 2 ^ 16 ∧ (sreg (wrec 0x5FFF 0) 8).toNat / 2 ^ 12 ≤ 5 :=
  ⟨issues_sg _ _, by decide, exists_ok (by decide +kernel), issues_sg _ _, by decide, by decide +kernel, issues_sg _ _, by decide +kernel, by decide +kernel,
    by decide +kernel, by decide +kernel, by decide, by decide⟩

/-- A fragment wave of two fibres: each with the pixel of its lane slot. -/
def wfrag : Wave := (w0.fibres.take 2).foldl (fun w p => w.mapFibre p.1 fun f =>
  { f with fragment := true, frag := some { batch := 0, stack := 0, tri := 0, seq := 0, px := p.1 % 4, py := p.1 / 4 } }) { w0 with fibres := w0.fibres.take 2 }

/-- A batch of one triangle with one attribute on surface 0. -/
def batch0 : Batch :=
  { ctx := 0, wave := 0, level := .supervisor, colour := some 0, depth := none, tris := 1, attrs := 1, cull := 0,
    verts := List.replicate 24 0, launch := 0, recVa := 0x60200, base := 0, accepted := some 0, tri0 := 0, tri1 := 0, cell0 := 0, cell1 := 0,
    sent := true }

/-- The loaded machine whose launch is the fragment launch of batch 0, with one attribute. -/
def s0frag : State :=
  { s0data with
    work := { s0data.work with
      launches := s0data.work.launches.modify 0 fun l => { l with batch := some 0 }
      blocks := s0data.work.blocks.modify 0 fun b => { b with tris := [0] } }
    base := { s0data.base with batches := [(0, batch0)] } }

theorem wit_GraphicsWords_fragments :
    Issues (sg s0frag wfrag) 0 wfrag wfrag ∧ fragCheck wfrag = none ∧ exportRegs (sg s0frag wfrag) = 4 ∧
    FieldsRead (sg s0frag wfrag) 0 wfrag wfrag (fexpCheck 4 9 (exportRegs (sg s0frag wfrag)) wfrag) (runOf 4 (exportRegs (sg s0frag wfrag)) ++ [9]) [] wfrag ∧
    classFull wfrag .st = false ∧ (∃ g, ((inputs (sg s0frag wfrag) wfrag [] [4, 5, 6, 7, 9]).map fun x => x.fibre.frag).head? = some (some g)) ∧
    FieldsRead (sg s0frag wfrag) 0 wfrag wfrag (attrCheck (sg s0frag wfrag) 8 0 (0#3).toNat wfrag) [0, 1, 4] [] wfrag ∧
    (∃ bt, waveBatch (sg s0frag wfrag) wfrag = some bt) ∧
    ∀ x ∈ inputs (sg s0frag wfrag) wfrag [] [0, 1, 4], (x.arg 2).toNat ∈ (((sg s0frag wfrag).block wfrag.blk).map Block.tris).getD [] := by
  have h : exportRegs (sg s0frag wfrag) = 4 := by decide +kernel
  refine ⟨issues_sg _ _, by decide +kernel, h, ?_, by decide +kernel, ⟨_, rfl⟩, reads_sg (by decide +kernel) (by decide), exists_some (by decide +kernel), by decide +kernel⟩
  rw [h]
  exact reads_sg (by decide +kernel) (by decide)

theorem wit_GraphicsWords_pixels :
    let r : Wave := { wv 2 0x000F000F with fibres := w0.fibres.take 2 }
    let s := sg s0data r
    pixelRegs s 10 = 2 ∧ FieldsRead s 0 r r (pixelCheck 4 10 2 (memCheck [2] (0, 0) (4, 2)) r) [2] [] r ∧ classFull r .ld = false ∧
    pass ((inputs s r [] [2]).map fun i => (pixelTry s (ctxOf s r) (sreg r 10).toNat i.lane (i.arg 0) (.load false)).to i.fibre 4 2) = true ∧
    FieldsRead s 0 r r (pixelCheck 4 10 2 (memCheck [2] (4, 2) (0, 0)) r) (2 :: runOf 4 2) [] r ∧ classFull r .st = false ∧
    pass ((inputs s r [] (2 :: runOf 4 2)).map fun i => pixelTry s (ctxOf s r) (sreg r 10).toNat i.lane (i.arg 0)
      (.store (BitVec.ofNat 64 ((i.data 1 (4 * 2)).toNat % 2 ^ (8 * (steOf s (ctxOf s r) (sreg r 10).toNat).p))))) = true :=
  ⟨by decide +kernel, reads_sg (by decide +kernel) (by decide), by decide +kernel, by decide +kernel, reads_sg (by decide +kernel) (by decide),
    by decide +kernel, by decide +kernel⟩

theorem wit_GraphicsWords_texture :
    let r := wrec 0x60300 0
    let s := sg sTex r
    FieldsRead s 0 r r (texCheck s 8 4 (8#7).toNat r) (runOf 4 2) [] r ∧ seesStores r = true ∧ classFull r .ld = false ∧
    ∃ (x : List Word) (cs : List (List Nat)), texRecord s r (8#7).toNat = .ok x ∧
      (inputs s r [] (runOf 4 2)).map (fun i => sample s r i.lane x (i.arg 0) (i.arg 1)) = cs.map Except.ok := by
  have h : texRecord (sg sTex (wrec 0x60300 0)) (wrec 0x60300 0) (8#7).toNat = .ok [0x61800, 0, 0x00100010, 64, 0, 0, 0, 0] := by decide +kernel
  obtain ⟨cs, hc⟩ := exists_oks (f := fun i : LaneIn =>
    sample (sg sTex (wrec 0x60300 0)) (wrec 0x60300 0) i.lane [0x61800, 0, 0x00100010, 64, 0, 0, 0, 0] (i.arg 0) (i.arg 1))
    (inputs (sg sTex (wrec 0x60300 0)) (wrec 0x60300 0) [] (runOf 4 2)) (by decide +kernel)
  exact ⟨reads_sg (by decide +kernel) (by decide), by decide +kernel, by decide +kernel, _, cs, h, hc⟩

/-- Two keys. -/
def sKeys : State := srec [(0x60400, [1])]

/-- The data machine with 64 launches in the device queue of its context. -/
def s0full : State := sLaunch.setCtx 0 { dataCtx with devQueue := List.replicate 64 1 }

theorem wit_SystemWords_launch :
    let r := wrec 0x60000 0
    Issues (sg sLaunch r) 0 r r ∧ (spair r 8).toNat % 256 = 0 ∧ seesStores r = true ∧
    (∃ x, readLaunch (sg sLaunch r) (coreOf (sg sLaunch r) r) (ctxOf (sg sLaunch r) r) r.level (spair r 8).toNat = .ok x) ∧
    ((sg sLaunch r).ctxs.look (ctxOf (sg sLaunch r) r)).map (fun c => c.devQueue.length) = some 0 ∧ releaseReady (sg sLaunch r) r = true ∧
    ((sg s0full r).ctxs.look (ctxOf (sg s0full r) r)).map (fun c => c.devQueue.length) = some 64 ∧
    (∃ x, readLaunch (sg s0full r) (coreOf (sg s0full r) r) (ctxOf (sg s0full r) r) r.level (spair r 8).toNat = .ok x) :=
  ⟨issues_sg _ _, by decide, by decide, exists_ok (by decide +kernel), by decide +kernel, by decide +kernel, by decide +kernel, exists_ok (by decide +kernel)⟩

theorem wit_SystemWords_privileged :
    let r := wrec 0x60000 0x100
    let m := wrec 0x60400 0xFF
    let e := wrec 0 0x1FF
    Issues (sg sKeys r) 0 r r ∧ r.level ≠ .user ∧ (∃ q, invRange (spair r 8).toNat (sreg r 10).toNat = some q ∧
      subInRange (sg sKeys r) q = false ∧ walkInRange (sg sKeys r) q = false ∧ heldInRange (sg sKeys r) q = false) ∧
    Issues (sg sKeys m) 0 m m ∧ m.level = .machine ∧ slotFree (sg sKeys m) 0xFF = true ∧ (sreg m 10).toNat / 2 ^ 8 = 0 ∧
    (spair m 8).toNat % 64 = 0 ∧ seesStores m = true ∧ keyAt (sg sKeys m).mem 0x60400 ≠ keyAt (sg sKeys m).mem (0x60400 + 32) ∧
    Issues (sg sKeys e) 0 e e ∧ (sreg e 10).toNat / 2 ^ 8 = 1 :=
  ⟨issues_sg _ _, by decide, ⟨_, rfl, by decide +kernel, by decide +kernel, by decide +kernel⟩, issues_sg _ _, rfl, by decide +kernel, by decide, by decide,
    by decide, by decide +kernel, issues_sg _ _, by decide⟩

theorem wit_SystemWords_traps : Issues (si wu) 0 wu wu ∧ wu.level = .user ∧ wu.level ≠ .machine ∧ Issues (si w0) 0 w0 w0 ∧ w0.level ≠ .machine ∧
    0x80 ≤ (0x80#8).toNat := ⟨rfl, rfl, by decide, rfl, by decide, by decide⟩

/-! ## Witnesses: steps of the device -/

/-- The device in service after reset, with nothing loaded. -/
def sup : State := { State.reset with dev := { State.reset.dev with bootStage := 3 } }

/-- A state with one mailbox command written: opcode, context, address and first argument. -/
def mbox (s : State) (op ctx va x : Nat) : State :=
  { s with
    dev := { s.dev with bootStage := 3, mboxLeft := 1 }
    mem := { s.mem with mem := Memory.writes s.mem.mem 0 (leBytes (op + 256 * ctx) 8 ++ leBytes va 8 ++ leBytes x 8) } }

/-- A state with a context record with a root at 0x1000. -/
def recordAt (s : State) (root : Nat) : State :=
  { s with mem := { s.mem with mem := Memory.writes s.mem.mem 0x1000 (wordBytesOf
      [root, 0, 0x40000, 0, 0x100000, 0, 0x190, 1024, 0x300000, 0, 0, 0, 0x80000, 0, 0x0E000004, 0, 0x90000]) } }

/-- The data machine's memory left out. -/
def sbare : State := { s0 with mem := State.reset.mem }

/-- The context of the loaded machine, stopped. -/
def sstopped : State := { sbare.setCtx 0 { bootCtx with stopped := true } with work := State.reset.work }

theorem wit_MailboxCommands_contexts :
    let a := mbox (recordAt sup 0x10000) 1 63 0x1000 0
    let b := mbox sup 1 64 0 0
    let c := mbox (recordAt sbare 0x10000) 2 0 0x1000 0
    let d := mbox (recordAt sbare 0x20000) 2 0 0x1000 0
    let e := mbox sstopped 3 0 0 0
    let f := mbox sbare 3 0 0 0
    (slotCtx a 0 < 64 ∧ a.ctxs.look (slotCtx a 0) = none ∧ (goodCtx a 0).isSome = true ∧ commandDue a 0 (.create 0) = true) ∧
    (64 ≤ slotCtx b 0 ∧ commandDue b 0 (.create 0) = true) ∧
    (((c.ctxs.look (slotCtx c 0)).map Ctx.stopped) = some false ∧ (goodCtx c 0).isSome = true ∧ residentCtx c 0 = true ∧
      ((goodCtx c 0).map fun r => (r.root, r.steFrame)) = some (bootCtx.cfg.root, bootCtx.cfg.steFrame) ∧ commandDue c 0 (.update 0) = true) ∧
    (residentCtx d (slotCtx d 0) = true ∧ ((goodCtx d 0).map fun r => r.root) ≠ some bootCtx.cfg.root ∧ (goodCtx d 0).isSome = true ∧
      commandDue d 0 (.update 0) = true) ∧
    (((e.ctxs.look (slotCtx e 0)).map Ctx.stopped) = some true ∧ ctxAtRest { e with pending := e.pending.erase (.kill 0) } (slotCtx e 0) = true ∧
      (∀ i < 4, slotFree e (4 * slotCtx e 0 + i) = true) ∧ commandDue e 0 (.kill 0) = true) ∧
    (((f.ctxs.look (slotCtx f 0)).map Ctx.stopped) = some false ∧ commandDue f 0 (.kill 0) = true) := by
  decide +kernel

/-- Context 0 with no block resident, and a new surface table frame that holds poison or not. -/
def smoved (poison : List Nat) : State :=
  let s := mbox (recordAt { sbare with work := State.reset.work } 0x10000) 2 0 0x1000 0
  { s with mem := { s.mem with mem := Memory.writes s.mem.mem 0x1008 (wordBytesOf [0x80000, 0]), poison := poison } }

theorem wit_MailboxCommands_tables :
    let r (p : List Nat) := goodCtx (smoved p) 0
    (∀ p ∈ [[], [0x2000]], (((smoved p).ctxs.look (slotCtx (smoved p) 0)).map Ctx.stopped) = some false ∧ (r p).isSome = true ∧
      residentCtx (smoved p) 0 = false ∧ ((r p).map fun r => r.steFrame) = some 0x80000 ∧ commandDue (smoved p) 0 (.update 0) = true) ∧
    0x80000 ≠ bootCtx.cfg.steFrame := by
  decide +kernel

/-- A poisoned line of the new frame is found there. -/
theorem wit_MailboxCommands_poisoned : tablePoison (smoved []) bootCtx 0x80000 = none ∧ tablePoison (smoved [0x2000]) bootCtx 0x80000 = some 0x2000 := by
  have h : bootCtx.cfg.steFrame ≠ 0x80000 := by decide
  have hl (l : Nat) : l ∈ linesOf 0x80000 (2 ^ 18) ↔ 0x2000 ≤ l ∧ l < 0x3000 := by
    simp only [linesOf, lineOf]
    constructor
    · intro hm
      obtain ⟨i, hi, rfl⟩ := List.mem_map.1 hm
      have := List.mem_range.1 hi
      omega
    · intro hm
      exact List.mem_map.2 ⟨l - 0x2000, List.mem_range.2 (by omega), by omega⟩
  rw [tablePoison, tablePoison, if_neg h, if_neg h]
  refine ⟨List.find?_eq_none.2 fun l _ h => Bool.noConfusion (show false = true from h), ?_⟩
  have hm : (0x2000 : Nat) ∈ linesOf 0x80000 (2 ^ 18) := (hl _).2 ⟨Nat.le_refl _, by decide⟩
  cases e : (linesOf 0x80000 (2 ^ 18)).find? (smoved [0x2000]).mem.poison.contains with
  | none => exact absurd (List.find?_eq_none.1 e _ hm) (by decide)
  | some l =>
    have := List.find?_some e
    rw [List.contains_iff_mem, show (smoved [0x2000]).mem.poison = [0x2000] from rfl, List.mem_singleton] at this
    rw [this]

theorem wit_MailboxCommands_others :
    let a := mbox sup 4 0 0x40 0
    let b := mbox sup 5 0 0x40 0
    let c := mbox { sup with dev := { sup.dev with log := [{ event := 9, stack := 1, memory := 0, lasting := 0, action := 0, addr := 0, cycle := 0 }] } } 6 0 0x40 1
    let d := mbox { sup with dev := { sup.dev with contained := [1] } } 7 0 0 1
    let e := mbox { sup with dev := { sup.dev with contained := [1], remap := [(1, ([(0, 1)], [(0, 2)], [(0, 3)]))] } } 7 0 0 1
    let f (x : Nat) := mbox sup 8 0 0 x
    let g := mbox sup 9 0 0 0
    (slotVa a 0 % 64 = 0 ∧ slotVa a 0 + 64 + 17168 ≤ 2 ^ 38 ∧ devRead a.mem (slotVa a 0 + 32) 32 = 0 ∧ commandDue a 0 (.attest 0) = true) ∧
    (slotVa b 0 % 64 = 0 ∧ slotVa b 0 + 272 ≤ 2 ^ 38 ∧ badRoutes b (slotVa b 0) = false ∧ commandDue b 0 (.route 0) = true) ∧
    ((c.dev.log.take (slotRead c 0 16 8)).length = 1 ∧ slotVa c 0 + 32 * 1 ≤ 2 ^ 38 ∧ commandDue c 0 (.log 0) = true) ∧
    (slotRead d 0 16 1 ∈ d.dev.contained ∧ (majority (remapOf d (slotRead d 0 16 1))).isSome = true ∧ commandDue d 0 (.stackreset 0) = true) ∧
    (majority (remapOf e (slotRead e 0 16 1)) = none ∧ commandDue e 0 (.stackreset 0) = true) ∧
    (60 ≤ slotRead (f 60) 0 16 1 ∧ slotRead (f 100) 0 16 1 ≤ 100 ∧ slotRead (f 59) 0 16 1 < 60 ∧ 100 < slotRead (f 101) 0 16 1 ∧
      commandDue (f 60) 0 (.thermal 0) = true ∧ commandDue (f 101) 0 (.thermal 0) = true) ∧
    commandDue g 0 (.unknownOpcode 0) = true ∧ (serving sup = true ∧ sup.dev.mboxLeft = 0 ∧ (62 + 1 + 64 - sup.dev.mboxNext) % 64 ≠ 0) ∧
    (serving g = true ∧ g.dev.mboxLeft ≠ 0) := by
  decide +kernel

/-- The device in service with changes to its own state. -/
def sdev (f : Dev → Dev) : State := { sup with dev := f sup.dev }

theorem wit_HostSteps_port :
    let m := sdev fun d => { d with msixPending := 1 <<< 63 }
    let t (n : Nat) := sdev fun d => { d with bootStage := n }
    let e := sdev fun d => { d with edgeAge := some strobeGap }
    let f := sdev fun d => { d with edgeAge := some (strobeGap - 1) }
    (serving sup = true ∧ 0x040 ≤ 0x041 ∧ 0x041 + 7 ≤ 0x048) ∧ (serving State.reset = false) ∧ (0x03F + 1 ≤ 0x040 ∧ 0x048 ≤ 0x048) ∧
    (63 < 64 ∧ 2 < 3 ∧ serving m = true ∧ (2#32).getLsbD 0 = false ∧ m.dev.msixPending.getLsbD 63 = true) ∧
    ((2 ^ 38 - 8) + 8 ≤ 2 ^ 38 ∧ hostFree sup (2 ^ 38 - 8) 8 = true ∧ sup.work.blocks = []) ∧
    ((t 0).dev.bootStage = 0 ∧ (t 1).dev.bootStage = 1 ∧ (t 2).dev.bootStage = 2 ∧ (t 2).dev.remap = [] ∧ 3 ≤ (t 15).dev.bootStage) ∧
    (e.dev.edgeAge = some strobeGap ∧ strobeGap ≤ strobeGap) ∧
    (f.dev.edgeAge = some (strobeGap - 1) ∧ strobeGap - 1 < strobeGap ∧ 1 ≤ 32 ∧ f.dev.clockK.get 0 32 = 32) := by
  decide +kernel

/-- Peer 7 has sent command 5, behind route port 9; context 0 has a peer table entry for it. -/
def speer : State :=
  let s := { s0data with mem := { s0data.mem with mem := Memory.writes s0data.mem.mem 0x60838 (leBytes (8 + 7 * 2 ^ 10) 8) } }
  { s with dev := { s.dev with routes := [(7, 9)], nextCmd := [(7, 5)], links := [(9, { st := .up, replays := [0], since := 0, out := [] })] } }

/-- A port in a given state, with the device on cycle 2^20. -/
def slink (l : LinkState) (replays : List Nat) (since : Nat) : State :=
  sdev fun d => { d with cycles := 2 ^ 20, routes := [(7, 9)], links := [(9, { st := l, replays := replays, since := since, out := [] })] }

theorem wit_HostSteps_peer :
    let x : State := { speer with dev := { speer.dev with executed := [(7, [(5, 1, false)])] } }
    let y : State := { speer with ctxs := [] }
    executedAt x 7 5 = some (5, 1, false) ∧ serving speer = true ∧ executedAt speer 7 5 = none ∧ speer.dev.nextCmd.look 7 = some 5 ∧
    (∀ l ∈ linesOf 0x1000 (peerBytes (.read 8)), lineFree speer.mem l = true) ∧
    inboundOk speer 7 7 0 = true ∧ 0x1000 + peerBytes (.read 8) ≤ 2 ^ 38 ∧ inboundOk y 7 7 0 = false ∧
    (7 ≠ speer.dev.deviceId ∧ speer.dev.routes.look 7 = some 9 ∧ (linkOf speer 9).st = .up ∧ speer.pending = []) ∧
    (((linkOf (slink .up [2 ^ 20, 1, 2 ^ 20 - 1] 0) 9).replays.filter fun c => decide (2 ^ 20 < c + 2 ^ 16)).length < 3) ∧
    3 ≤ ((linkOf (slink .up [2 ^ 20, 2 ^ 20 - 65535, 2 ^ 20 - 1] 0) 9).replays.filter fun c => decide (2 ^ 20 < c + 2 ^ 16)).length ∧
    ((linkOf (slink .retraining [] (2 ^ 20)) 9).st = .retraining ∧ retrainLate (slink .retraining [] (2 ^ 20)) 9 = false) ∧
    (retrainLate (slink .retraining [] 0) 9 = true ∧ (slink .retraining [] 0).work.copies = []) ∧
    (linkOf (slink .down [] 0) 9).st = .down := by
  decide +kernel

theorem wit_ClockSteps_clocks :
    let th := sdev fun d => { d with throttling := [(1, 100)], cycles := 100 }
    let em := sdev fun d => { d with emergency := true }
    (serving sup = true ∧ 1 ∉ sup.dev.contained ∧ sup.dev.throttling.look 1 = none ∧ sup.dev.emergency = false ∧ sup.dev.targetK.look 1 = none) ∧
    (serving th = true ∧ 1 ∉ th.dev.contained ∧ th.dev.throttling.look 1 = some 100 ∧ 100 ≤ th.dev.cycles) ∧
    (serving em = true ∧ 1 ∉ em.dev.contained ∧ em.dev.emergency = true) ∧
    (let back := sdev fun d => { d with clockK := [(1, 4)], targetK := [(1, 5)] };
      serving back = true ∧ 1 ∉ back.dev.contained ∧ back.dev.targetK.look 1 = some 5 ∧ 5 ≤ clockOf back 1 + 1 ∧ 4 < 5 ∧ back.dev.throttling.look 1 = none ∧
        back.dev.emergency = false ∧ back.dev.targetK.look 1 ≠ none ∧ clockOf back 1 + 1 < 6) ∧ (clockOf th 1 < 33) ∧ (1 ≤ 32 ∧ 32 ≤ 32 ∧ 0 < 1 ∧ 32 < 33 ∧ 2 ≠ 1) := by
  decide +kernel

theorem wit_ClockSteps_repair :
    let torn := sdev fun d => { d with remap := [(0, ([(0, 1)], [(0, 2)], [(0, 3)]))] }
    let worn := sdev fun d => { d with remap := [(0, ([(1, 0), (3, 1), (5, 2), (7, 3)], [(1, 0), (3, 1), (5, 2), (7, 3)], []))] }
    let mid := sdev fun d => { d with repairing := [(0, 1, 2)] }
    (serving sup = true ∧ 0 ∉ sup.dev.contained ∧ (majority (remapOf sup 0)).isSome = true ∧ (∀ r ∈ sup.dev.repairing, ¬ (r.1 = 0 ∧ r.2.1 = 0)) ∧
      sparesUsed sup 0 0 < 4) ∧
    (serving torn = true ∧ 0 ∉ torn.dev.contained ∧ majority (remapOf torn 0) = none) ∧
    (let r := sdev fun d => { d with remap := [(0, ([(0, 1)], [(0, 2)], [(0, 1)]))] };
      (majority (remapOf r 0)).isSome = true ∧ 0 ∉ r.dev.contained ∧ r.dev.remap.look 0 ≠ none) ∧
    (serving worn = true ∧ 0 ∉ worn.dev.contained ∧ 4 ≤ sparesUsed worn 0 0) ∧
    (serving mid = true ∧ (0, 1, 2) ∈ mid.dev.repairing ∧ 0 ∉ mid.dev.contained ∧ (majority (remapOf mid 0)).isSome = true) := by
  decide +kernel

/-- Queue 7 of context 0 enabled with one entry, and its producer index read. -/
def squeue : State :=
  let m := Memory.writes (Memory.writes s0.mem.mem 0x900E0 (wordBytesOf [0x91000, 0, 0x14, 1, 0])) 0x91000 (wordBytesOf [0x60000, 0, 9])
  ({ s0 with mem := { s0.mem with mem := m } }).setCtx 0 { bootCtx with producers := [(7, 1)] }

/-- The machine with one launch queued and nothing placed: its block fits on one core. -/
def sadmit : State :=
  let l (s : State) : State := { s with work := { s.work with
    launches := s.work.launches.modify 0 fun l => { l with next := 0, record := l.record.set 12 0x00400000 }
    blocks := [], waves := [], cores := [], queue := [0] } }
  { l sbare with dev := { sbare.dev with cycles := 2 ^ 20, fencedCores := (List.range 255).map (· + 1) } }

theorem wit_LaunchSteps_queues :
    (∃ c, squeue.ctxs.look 0 = some c) ∧ 7 < 8 ∧ queueField squeue 0 7 12 4 = some 1 ∧ queueDue squeue 0 7 = true ∧
    descFree squeue 0 7 = true ∧ queueField squeue 0 7 0 8 = some 0x91000 ∧ queueField squeue 0 7 8 4 = some 0x14 ∧ queueField squeue 0 7 16 4 = some 0 ∧
    hwRead squeue 0 (0x91000 + 16 * (0 % 2 ^ (0x14 % 16))) 8 = some 0x60000 ∧
    hwRead squeue 0 (0x91000 + 16 * (0 % 2 ^ (0x14 % 16)) + 8) 4 = some 9 ∧ entryOpen squeue 0 7 = true ∧ 0x60000 % 256 = 0 ∧ 0x60001 % 256 ≠ 0 :=
  ⟨⟨_, rfl⟩, by decide, by decide +kernel, by decide +kernel, by decide +kernel, by decide +kernel, by decide +kernel, by decide +kernel, by decide +kernel,
    by decide +kernel, by decide +kernel, by decide, by decide⟩

/-- A launch record that reads whole, and one that breaks its limits. -/
theorem wit_LaunchSteps_records :
    let good := { squeue with mem := { squeue.mem with mem := Memory.writes squeue.mem.mem 0x60000 (wordBytesOf (bootRecord.map BitVec.toNat)) } }
    (readLaunch good noCore 0 (queueLevel good 0 7) 0x60000).toOption.isSome = true ∧
    (readLaunch squeue noCore 0 (queueLevel squeue 0 7) 0x60000).toOption.isSome = false := by
  decide +kernel

/-- What a block of a record needs of a core is there. -/
def canFit (s : State) (x : List Word) (core : Nat) : Bool :=
  let rs := residents s core
  !decide (65536 < coreRegs s core + recP x * recWidth x * recWaves x) && (pickSlots (recWidth x) (recL x) (recWaves x) (coreSlots s core)).isSome &&
    !(placesFor 524288 256 (arrayNeed x) (rs.map fun p => (p.2.place.spm, arrayNeed (recordOf s p.2)))).isEmpty &&
    !(placesFor 32 1 (recSlabs x) (rs.map fun p => (p.2.place.slab, recSlabs (recordOf s p.2)))).isEmpty

theorem pick_some {α : Type} (l : List α) (n : Nat) (h : l.isEmpty = false) : ∃ x, l[n % l.length]? = some x := by
  cases l with
  | nil => cases h
  | cons a l => exact ⟨_, List.getElem?_eq_getElem (l := a :: l) (Nat.mod_lt n (Nat.succ_pos l.length))⟩

theorem fitPlace_some {s : State} {x : List Word} {core : Nat} (h : canFit s x core = true) : ∃ p, fitPlace s x core = some p := by
  simp only [canFit, Bool.and_eq_true, Bool.not_eq_true', decide_eq_false_iff_not] at h
  obtain ⟨⟨⟨h1, h2⟩, h3⟩, h4⟩ := h
  obtain ⟨a, ha⟩ := exists_some h2
  obtain ⟨b, hb⟩ := pick_some _ (Config.arrival s.tick (2 * core)) h3
  obtain ⟨c, hc⟩ := pick_some _ (Config.arrival s.tick (2 * core + 1)) h4
  simp only [fitPlace, pick, if_neg h1, ha, hb, hc]
  exact ⟨_, rfl⟩

/-- A core of a stack is open to a context and can take a block. -/
def opens (s : State) (ctx : Nat) (x : List Word) (stack core : Nat) : Bool :=
  stackRuns s stack && ((s.ctxs.look ctx).map fun c => !c.stopped).getD false &&
    ((openCores s stack).filter (coreOpen s ctx x)).contains core && canFit s x core

theorem fits_on {s : State} {ctx : Nat} {x : List Word} {stack core : Nat} (h : opens s ctx x stack core = true) : ∃ p, (core, p) ∈ fitCores s ctx x stack := by
  rw [opens, Bool.and_eq_true, Bool.and_eq_true, List.contains_iff_mem] at h
  obtain ⟨p, hp⟩ := fitPlace_some h.2
  exact ⟨p, by rw [fitCores, if_pos h.1.1]; exact List.mem_filterMap.2 ⟨core, h.1.2, by rw [hp]; rfl⟩⟩

theorem launches_on {s : State} {stack id idx core : Nat} {l : Launch} (hl : s.work.launches.look id = some l) (hu : nextSets l = [[idx]])
    (hc : recCoAll l.record = false ∧ recReplica l.record = false ∧ l.sent idx = false ∧ blockAt s id idx = none)
    (hm : recMask l.record stack = true) (h : opens s l.ctx l.record stack core = true) :
    ∃ t, tryLaunch s stack id = some t := by
  obtain ⟨p, hp⟩ := fits_on h
  have hf : [stack].filter (recMask l.record) = [stack] := by rw [List.filter_cons_of_pos hm, List.filter_nil]
  obtain ⟨q, hq⟩ := pick_some ([stack].flatMap (fitCores s l.ctx l.record)) (Config.arrival s.tick idx) (by
    cases e : [stack].flatMap (fitCores s l.ctx l.record) with
    | nil => rw [List.flatMap_cons, List.flatMap_nil, List.append_nil] at e; rw [e] at hp; cases hp
    | cons _ _ => rfl)
  obtain ⟨h1, h2, h3, h4⟩ := hc
  have ht : setStack s id [idx] = none := by simp only [setStack, List.filterMap_cons, h4, Option.map_none, List.filterMap_nil, List.head?_nil]
  have hs : (if Config.arrival s.tick 2048 % 2 = 0 then [stack] else [stack].reverse) = [stack] := by split <;> rfl
  simp only [tryLaunch, hl, hu, h1, Bool.false_eq_true, if_false, List.foldl_cons, List.foldl_nil, Option.bind_some, placeTogether, ht, stacksFor, h2,
    hs, placeSet, placeMember, h4, Option.map_some, Option.getD_some, h3, dispatchOne, hf, hq, List.findSome?_cons]
  exact ⟨_, rfl⟩

theorem wit_LaunchSteps_admission :
    (∃ j s1, admission sadmit 0 = some (.la j, s1)) ∧ (∃ k s1, admission { sadmit with pending := sadmit.pending.erase (.blockAdmit 0) } 0 = some (k, s1)) ∧
    (∃ l, sadmit.work.launches.look 0 = some l) ∧ expired sadmit 0 0 = [.la 0] := by
  obtain ⟨t, ht⟩ := launches_on (s := sadmit) (stack := 0) (id := 0) (idx := 0) (core := 0) rfl (by decide +kernel) (by decide +kernel) (by decide +kernel)
    (by decide +kernel)
  have e : admission sadmit 0 = some (.la 0, t) := by
    rw [admission, show candsOf sadmit 0 = [.la 0] by decide +kernel]
    simp only [firstFit, List.contains_nil, Bool.false_eq_true, if_false, tryCand, ht]
  have p : { sadmit with pending := sadmit.pending.erase (.blockAdmit 0) } = sadmit := rfl
  exact ⟨⟨0, t, e⟩, ⟨.la 0, t, by rw [p]; exact e⟩, ⟨_, rfl⟩, by decide +kernel⟩

/-- The only open core of `sadmit`, a block in its save image and a candidate again. -/
def srelaunch : State :=
  let s := sbare.mapBlock 0 fun b => { b with status := .saved }
  { s with work := { s.work with waves := [], cores := [], queue := [], relaunch := [0] }
           dev := { s.dev with cycles := 2 ^ 20, fencedCores := (List.range 255).map (· + 1) } }

theorem wit_LaunchSteps_relaunch :
    ∃ b s1, srelaunch.block 0 = some b ∧ admission srelaunch b.stack = some (.re 0, s1) ∧
      admission { srelaunch with pending := srelaunch.pending.erase (.relaunch 0) } b.stack = some (.re 0, s1) := by
  obtain ⟨b, hb⟩ : ∃ b, srelaunch.block 0 = some b := ⟨_, rfl⟩
  obtain ⟨l, hl⟩ : ∃ l, srelaunch.launchOf 0 = some l := ⟨_, rfl⟩
  have hd : (srelaunch.block 0).map (fun b => (b.stack, b.idx, b.ctx, b.status == .saved, b.leaves, b.launch)) = some (0, 0, 0, true, false, 0) := by decide +kernel
  have hg : (srelaunch.launchOf 0).map (fun l => (coSet l [0] l.groups.length, opens srelaunch 0 l.record 0 0)) = some ([0], true) := by decide +kernel
  have ha : blockAt srelaunch 0 0 = some (0, b) := by rw [← Option.some.inj hb]; rfl
  have hs : imageSettled srelaunch 0 b = true ∧ imageFree srelaunch 0 = true := by
    have h : (srelaunch.block 0).map (imageSettled srelaunch 0) = some true := by decide +kernel
    rw [hb] at h
    exact ⟨Option.some.inj h, by decide +kernel⟩
  rw [hb] at hd
  rw [hl] at hg
  simp only [Option.map_some, Option.some.injEq, Prod.mk.injEq] at hd hg
  obtain ⟨d1, d2, d3, d4, d5, d6⟩ := hd
  obtain ⟨p, hp⟩ := fits_on hg.2
  have hc : (relaunchCores srelaunch b l.record).isEmpty = false := by
    rw [relaunchCores, d1, d3]
    cases (fitCores srelaunch 0 l.record 0).find? (fun p => p.1 == b.core) with
    | some q => rfl
    | none =>
      cases e : fitCores srelaunch 0 l.record 0 with
      | nil => rw [e] at hp; cases hp
      | cons _ _ => rfl
  obtain ⟨q, hq⟩ := pick_some (relaunchCores srelaunch b l.record) (Config.arrival srelaunch.tick 0) hc
  have hr : ∃ t, tryRelaunch srelaunch 0 = some t := by
    simp only [tryRelaunch, hb, hl, placeSet, d1, d2, d6, hg.1, List.foldl_cons, List.foldl_nil, Option.bind_some, placeMember, ha, d5, Bool.false_eq_true,
      if_false, d4, if_true, List.contains_cons, beq_self_eq_true, Bool.true_or, relaunchOne, hs.1, hs.2, Bool.and_self, hq]
    cases readImage srelaunch (saveImg srelaunch 0) b l.record <;> exact ⟨_, rfl⟩
  obtain ⟨t, ht⟩ := hr
  have e : admission srelaunch b.stack = some (.re 0, t) := by
    rw [admission, d1, show candsOf srelaunch 0 = [.re 0] by decide +kernel]
    simp only [firstFit, List.contains_nil, Bool.false_eq_true, if_false, tryCand, hb, Option.map_some, d1, beq_self_eq_true, if_true, ht]
  exact ⟨b, t, hb, e, by rw [show { srelaunch with pending := srelaunch.pending.erase (.relaunch 0) } = srelaunch from rfl]; exact e⟩

theorem wit_LaunchSteps_dispatch : (∃ l, sadmit.work.launches.look 0 = some l) ∧ ∃ t, dispatchOne sadmit 0 0 [0] = some t := by
  obtain ⟨l, hl⟩ : ∃ l, sadmit.work.launches.look 0 = some l := ⟨_, rfl⟩
  have hg : (sadmit.work.launches.look 0).map (fun l => (recMask l.record 0, opens sadmit l.ctx l.record 0 0)) = some (true, true) := by decide +kernel
  rw [hl] at hg
  simp only [Option.map_some, Option.some.injEq, Prod.mk.injEq] at hg
  obtain ⟨p, hp⟩ := fits_on hg.2
  have hf : [0].filter (recMask l.record) = [0] := by rw [List.filter_cons_of_pos hg.1, List.filter_nil]
  obtain ⟨q, hq⟩ := pick_some ([0].flatMap (fitCores sadmit l.ctx l.record)) (Config.arrival sadmit.tick 0) (by
    cases e : [0].flatMap (fitCores sadmit l.ctx l.record) with
    | nil => rw [List.flatMap_cons, List.flatMap_nil, List.append_nil] at e; rw [e] at hp; cases hp
    | cons _ _ => rfl)
  simp only [dispatchOne, hl, hf, hq]
  exact ⟨⟨_, rfl⟩, _, rfl⟩

/-- A launch with more blocks to come, and its last block, with an arrival to post or none. -/
theorem wit_LaunchSteps_retired :
    let s (n a : Nat) : State := { sbare with work := { sbare.work with launches := sbare.work.launches.modify 0 fun l => { l with
      record := (l.record.set 4 (BitVec.ofNat 32 n)).set 16 (BitVec.ofNat 32 a) } } }
    (∀ n ∈ [1, 2], ∀ a ∈ [0, 0x50000], ((s n a).work.launches.look 0).map (fun l => (l.batch, decide (l.done + 1 < recBlocks l.record), rd l.record 16)) =
      some (none, n == 2, a)) := by
  decide +kernel

/-- The loaded machine whose wave has ended. -/
def sended : State := { sbare with work := { sbare.work with waves := [], cores := [] } }

/-- An arrival of context 0 at an object with A = a, on a page that is open to it or past the end of its table. -/
def sarrive (a va : Nat) : State :=
  { s0 with mem := devWrite s0.mem none 0x50000 (leBytes (barBits { phase := 0, overrun := false, e := 1, a := a, sect := 0 }) 16), pending := [.completionArrival 0 va 0x60000 0] }

theorem wit_LaunchSteps_arrivals :
    (retireDue sended 0 = true ∧ blkEnding sended 0 = false) ∧ (∃ b, sended.block 0 = some b) ∧
    stopDue (sended.setCtx 0 { bootCtx with stopped := true, ending := true }) 0 = true ∧
    (∀ a < 2, Ev.completionArrival 0 0x50000 0x60000 0 ∈ (sarrive a 0x50000).pending ∧ arrivalFree (sarrive a 0x50000) 0 0x50000 = true ∧
      arrivalFault (sarrive a 0x50000) 0 .supervisor 0x50000 = none) ∧
    (updateObj (sarrive 1 0x50000) (.dev 0 0x50000) .arrive).2 = false ∧ (updateObj (sarrive 0 0x50000) (.dev 0 0x50000) .arrive).2 = true ∧
    arrivalFree (sarrive 1 (2 ^ 40)) 0 (2 ^ 40) = true ∧ (arrivalFault (sarrive 1 (2 ^ 40)) 0 .supervisor (2 ^ 40)).isSome = true :=
  ⟨by decide +kernel, ⟨_, rfl⟩, by decide +kernel, by decide +kernel, by decide +kernel, by decide +kernel, by decide +kernel, by decide +kernel⟩

/-- The wave with every fibre parked at a barrier object of its block. -/
def wparked : Wave := { w0 with fibres := w0.fibres.map fun p => (p.1, { p.2 with park := some { kind := .bwait (.spm 0 0) 0, next := .off } }) }

/-- The loaded machine without memory, with a wave and an issue order. -/
def splace (w : Wave) (c : CoreSched) : State :=
  let s := sbare.setWave 0 w
  { s with work := { s.work with cores := s.work.cores.put 0 c }, dev := { s.dev with cycles := 1024 } }

theorem wit_PlacementSteps_sets :
    let a := splace wparked { active := [(0, 0, 0)], pending := [], lastForced := 0 }
    let b := splace w0 { active := [], pending := [(0, none)], lastForced := 0 }
    let c := splace w0 { active := [(0, 0, 0)], pending := [(1, some 512)], lastForced := 960 }
    (a.wave 0 = some wparked ∧ toPendingDue a 0 = true) ∧ (b.wave 0 = some w0 ∧ (∀ d ∈ w0.moved, d.over w0 = true) ∧ (0, none) ∈ (schedOf b (coreOf b w0)).pending) ∧
    forcedDue c 0 = some ((1, some 512), (0, 0, 0)) := by
  decide +kernel

/-- A launch of the boot record with some words changed. -/
def launchWith (r : List (Nat × Word)) (next : Nat) : Launch :=
  { ctx := 0, level := .supervisor, queue := none, tag := 0, recVa := 0x50000, record := r.foldl (fun x p => x.set p.1 p.2) bootRecord,
    groups := [], consts := [], next := next, early := [], done := 0, level0 := 0, frame0 := 0, accepted := 0, batch := none, waiting := none,
    stopper := false }

/-- The loaded machine without memory, with changes to its block and its record. -/
def sblock (s : State) (r : List (Nat × Word)) (f : Block → Block) : State := (s.mapBlock 0 f).setLaunch 0 (launchWith r 1)

theorem wit_PlacementSteps_saves :
    let p := sbare.setWave 0 wparked
    let a := sblock p [] fun b => { b with status := .saving }
    let c := sblock sbare [] fun b => { b with status := .saving }
    let d := sblock sended [] fun b => { b with liveAtPreempt := [0], savedWaves := [0] }
    (completeDue a 0 = true ∧ (∃ b, a.block 0 = some b ∧ handlerSaved a 0 b = false) ∧ blockWaits a 0 = true) ∧
    (completeDue c 0 = true ∧ (∃ b, c.block 0 = some b ∧ handlerSaved c 0 b = false) ∧ blockWaits c 0 = false) ∧
    (completeDue d 0 = true ∧ ∃ b, d.block 0 = some b ∧ handlerSaved d 0 b = true) :=
  ⟨⟨by decide +kernel, ⟨_, rfl, by decide +kernel⟩, by decide +kernel⟩, ⟨by decide +kernel, ⟨_, rfl, by decide +kernel⟩, by decide +kernel⟩,
    by decide +kernel, ⟨_, rfl, by decide +kernel⟩⟩

/-- The parked block with leave to be saved, on the only open core, and another launch that waits for the core. -/
def ssave : State :=
  let r : List (Nat × Word) := [(9, 0x00100040), (12, 0x00400600), (28, 0x70000), (7, 0x40100)]
  let s := sblock (sbare.setWave 0 wparked) r fun b => { b with parkStart := some 0, size := 0x40100 }
  { s with
    dev := { s.dev with cycles := 4097, fencedCores := (List.range 255).map (· + 1) }
    work := { s.work with queue := [1], launches := s.work.launches.put 1 (launchWith r 0) } }

theorem wit_PlacementSteps_saveDue : saveDue ssave 0 = true ∧ coMembers ssave 0 = [0] := by
  have hm : coMembers ssave 0 = [0] := by decide +kernel
  have hr : saveReady ssave 0 = true := by decide +kernel
  obtain ⟨t, ht⟩ := launches_on (s := { removeWaves ssave 0 with work := { (removeWaves ssave 0).work with blocks := ssave.work.blocks.del 0 } }) (stack := 0)
    (id := 1) (idx := 0) (core := 0) rfl (by decide +kernel) (by decide +kernel) (by decide +kernel) (by decide +kernel)
  have hs : someFits ssave 0 [0] = true := by
    rw [someFits, List.foldl_cons, List.foldl_nil]
    refine List.any_eq_true.2 ⟨.la 1, by decide +kernel, ?_⟩
    rw [tryCand, ht]
    rfl
  refine ⟨?_, hm⟩
  rw [saveDue, hm, show ((ssave.block 0).map Block.stack).getD 0 = 0 by decide +kernel, hs, Bool.and_true, List.all_cons, hr]
  rfl

/-- The block with leave to move to stack 1, where no block stands. -/
def smove (f : Block → Block) : State := sblock sbare [(9, 0x00200040), (12, 0x00800000), (28, 0x70000)] f

theorem wit_PlacementSteps_moves :
    let a := smove id
    let b := smove fun b => { b with status := .migrating }
    let f : Forward := { core := 0, blk := 0, gen := 0 }
    (∃ x, a.block 0 = some x ∧ moveDue a 0 = true) ∧ (∃ x p, b.block 0 = some x ∧ movedDue b 0 = true ∧ stranded b 0 = false ∧
      (moveCores b 0 x).find? (fun p => p.1 == 256) = some (256, p)) ∧ forwardIdle { a with work := { a.work with forwards := [f] } } f = true := by
  have key : ∀ f : Block → Block, ∀ x, (smove f).block 0 = some x → recordOf (smove f) x = (launchWith [(9, 0x00200040), (12, 0x00800000), (28, 0x70000)] 1).record →
      x.core = 0 → opens (smove f) x.ctx (recordOf (smove f) x) 1 256 = true → ∃ p, (256, p) ∈ moveCores (smove f) 0 x := by
    intro f x hb hx hk h
    obtain ⟨p, hp⟩ := fits_on h
    refine ⟨p, List.mem_filter.2 ⟨List.mem_flatMap.2 ⟨1, ?_, hp⟩, by rw [hb, hk]; rfl⟩⟩
    rw [hx]
    decide +kernel
  obtain ⟨p, hp⟩ := key id _ rfl (by decide +kernel) (by decide +kernel) (by decide +kernel)
  obtain ⟨q, hq⟩ := key (fun b => { b with status := .migrating }) _ rfl (by decide +kernel) (by decide +kernel) (by decide +kernel)
  have look : ∀ l : List (Nat × Place), (256, q) ∈ l → ∃ p, l.find? (fun p => p.1 == 256) = some (256, p) := by
    intro l h
    cases e : l.find? (fun p => p.1 == 256) with
    | none => exact absurd (List.find?_eq_none.1 e _ h) (by simp)
    | some r =>
      obtain ⟨c, p⟩ := r
      have hc : c = 256 := by simpa using List.find?_some e
      subst hc
      exact ⟨p, rfl⟩
  obtain ⟨r, hr⟩ := look _ hq
  refine ⟨⟨_, rfl, ?_⟩, ⟨_, r, rfl, by decide +kernel, by decide +kernel, hr⟩, by decide +kernel⟩
  have due : ∀ (s : State) (b : Block) (l : Launch), s.block 0 = some b → s.launchOf 0 = some l → (256, p) ∈ moveCores s 0 b →
      (b.status == .running && !b.preempt && recMoves l.record && l.batch.isNone && !coGrouped s 0 && !stranded s 0 && forwardRoom s 0 b.core) = true →
      moveDue s 0 = true := by
    intro s b l hb hl hm h
    cases e : moveCores s 0 b with
    | nil => exact absurd (e ▸ hm) List.not_mem_nil
    | cons _ _ => simp only [moveDue, hb, hl, h, e, List.isEmpty_cons, Bool.not_false, Bool.and_true]
  exact due (smove id) _ _ rfl rfl hp (by decide +kernel)

/-- A context over its quota of cores, whose supervisor has a handler; its wave has issued or not. -/
def sover (issued : Bool) : State :=
  let s := sblock (sbare.setWave 0 { w0 with issued := issued }) [(28, 0x70000)] id
  s.setCtx 0 { bootCtx with cfg := { bootCtx.cfg with coreQuota := 0 } }

theorem wit_PlacementSteps_preemption :
    ∀ i : Bool, (∃ b, (sover i).block 0 = some b ∧ (wantedByHigher (sover i) b [0] || overQuota (sover i) b.ctx) = true) ∧
      coMembers (sover i) 0 = [0] ∧ preemptable (sover i) 0 = true ∧ untouched (sover i) 0 = !i := by
  intro i
  cases i <;> exact ⟨⟨_, rfl, by decide +kernel⟩, by decide +kernel, by decide +kernel, by decide +kernel⟩

theorem wit_PlacementSteps_pools :
    let s := sblock sended [] fun b => { b with pools := [{ target := 0, key := 0, members := [{ fibre := freshFibre 0 0, regs := [], after := (0, 0), owed := [] }], flush := true, filled := 0 }] }
    poolReady s 0 = true ∧ ∃ b p, s.block 0 = some b ∧ nextPool s 0 b = some p ∧ freeWave s 0 = some 0 :=
  ⟨by decide +kernel, _, _, rfl, rfl, by decide +kernel⟩

/-- The block with an image area and nothing in its arrays, and one wave all of whose fibres have ended. -/
def simage : State := sblock (s0.setWave 0 { w0 with fibres := [] }) [(7, 0), (8, 2048 + 16 * 262144), (9, 0), (28, 0x70000)] fun b => { b with size := 0 }

theorem wit_PlacementSteps_left :
    (∃ b, simage.block 0 = some b ∧ b.heldMsgs = []) ∧ (∃ w, simage.wave 0 = some w ∧ w.blk = 0) ∧ (∀ q ∈ simage.work.waves, q.2.blk = q.1 / 16) ∧
    (let s0 := { simage with mem := releaseBytes simage.mem 0 }
     let s1 := (wavesOf s0 0).foldl (fun s j => s.mapWave j (landAll s)) s0
     (((s1.block 0).bind (fun b => writeImage s1 0 b)).map fun q => (q.work == s1.work, q.base == s1.base)) = some (true, true)) ∧
    (((simage.block 0).map Block.launch).bind simage.work.launches.look).isSome = true :=
  ⟨⟨_, rfl, rfl⟩, ⟨_, rfl, rfl⟩, by decide +kernel,
    by decide +kernel,
    by decide +kernel⟩

/-- The wave with a reported trap, and with pre-emption pending. -/
def wdue (t : List Trap) (p : Bool) : Wave := { w0 with due := t, preemptPending := p, firstPacket := false }

/-- The wave with a load of a peer's memory outstanding. -/
def wpeer : Wave := { w0 with ops := [{ id := 0, cls := some .ld, kind := .load, acq := none, rel := none, subs := [{ lane := 0, space := .far 5, va := 0x40000000, pa := 0, n := 4, key := none, acc := .load false, dst := 4, dstN := 1, stamp := 0, busy := true, done := false, value := 0, extra := 0 }], dests := [(0, 4)], clobbered := [], done := false, counted := false }] }

/-- The machine with a CPYP of one sector to a page of device 5 under way. -/
def scopyp : State :=
  { sbare with work := { sbare.work with copies := [(3,
    { core := 0, blk := 0, wave := 0, op := 0, form := 3, x := false, desc := [0x100, 0, 0x40000000, 0, 32, 1, 0, 0], idxs := [], total := 1
      left := [0], started := true, bar := none, cb := none, coll := none, spans := []
      pages := [(0x40000, { space := .far 5, pa := 0x1000, key := none })], reads := [], targets := [] })] } }

theorem wit_ReportedTraps :
    let a := sbare.setWave 0 (wdue [mkTrap 0x22 [0] 0 0] false)
    let b := { sbare.setWave 0 (wdue [] true) with pending := [.trapEntry 0] }
    let es : List Ev := [.barrierOverrunReport 0 64, .droppedBarrierRequest 0 1 64 0 0 none, .droppedBarrierRequest 0 1 64 0 0 (some 0), .tableFullReport 0 1 7 false, .blockStoreFailure 0 1 3]
    (a.wave 0 = some (wdue [mkTrap 0x22 [0] 0 0] false) ∧ (trapNow a (wdue [mkTrap 0x22 [0] 0 0] false)).isSome = true) ∧
    (b.wave 0 = some (wdue [] true) ∧ ((trapNow { b with pending := [] } (wdue [] true)).map Trap.cause) = some 0x30) ∧
    (∀ e ∈ es, e ∈ ({ sbare with pending := es } : State).pending) ∧ sbare.wave 0 = some w0 ∧
    (sbare.setWave 0 wpeer).wave 0 = some wpeer ∧ ((peerAccess wpeer 0x40000000 false).map fun q => (q.1, q.2.1)) = some (0, 0) ∧ peerAccess w0 0x40000000 false = none ∧
    (peerSector (scopyp) 0 0x40000000 true).isSome = true := by
  decide +kernel

/-! ## Witnesses: caches, memory, pages -/

/-- A line of core 0. -/
def lineL1 (m : Mode) (owned : Bool) (dirty : BitVec 64) : L1Line :=
  { core := 0, line := 16, mode := m, owned := owned, bytes := List.replicate 64 7, valid := BitVec.allOnes 64, dirty := dirty, key := none }

/-- A memory system with changes. -/
def smem (f : MemSys → MemSys) (pending : List Ev) : State := { sbare with mem := f sbare.mem, pending := pending }

/-- The machine whose level-1 caches hold one line. -/
def sline (l : L1Line) (pending : List Ev) : State := smem (fun m => { m with l1 := [l] }) pending

/-- What the cache of core 0 gives up for line 16. -/
def victimOf (l : L1Line) : Option (Mode × Bool × BitVec 64) :=
  (victim (sline l []).mem 0 16).map fun l => (l.mode, l.owned, l.dirty)

theorem wit_CacheSteps_lines :
    victimOf (lineL1 .d true 1) = some (.d, true, 1) ∧ victimOf (lineL1 .d false 1) = some (.d, false, 1) ∧
    victimOf (lineL1 .d true 0) = some (.d, true, 0) ∧ victimOf (lineL1 .s false 1) = some (.s, false, 1) ∧
    ((sline { lineL1 .d true 1 with valid := 0 } [.evictionNotice 0 16 (some [])]).mem.l1.map
      fun x => (x.core, x.line, x.inFlight)) = [(0, 16, true)] := by
  decide +kernel

/-- A request of the wave for line 16 that waits for acknowledgements. -/
def sbusy (acks : List Nat) (pending : List Ev) : State :=
  smem (fun m => { m with busy := [{ line := 16, core := 0, wave := 0, op := 0, sub := 0, acks := acks }] }) pending

theorem wit_CacheSteps_messages :
    let es : List Ev := [.evictionNotice 0 16 none, .regionNotice 63 2, .noticeAck 0 2, .probe 0 16 true]
    (∀ e ∈ es, e ∈ (smem id es).pending) ∧ 63 < 64 ∧ noticeUnderWay (smem id es) 0 16 = false ∧
    (Ev.probeAck 0 16 false none ∈ (sbusy [0, 1] [.probeAck 0 16 false none]).pending ∧
      (busyOf (sbusy [0, 1] [.probeAck 0 16 false none]).mem 16).map BusyLine.acks = some [0, 1] ∧ [0, 1].erase 0 ≠ [] ∧ [0, 1] ≠ [0]) ∧
    (Ev.probeAck 0 16 true none ∈ (sbusy [0] [.probeAck 0 16 true none]).pending ∧
      (busyOf (sbusy [0] [.probeAck 0 16 true none]).mem 16).map BusyLine.acks = some [0]) := by
  decide +kernel

/-- A region whose directory bit stands over an empty filter. -/
theorem wit_CacheSteps_settles :
    let m := (smem (fun m => { m with dir := [(2, 1)] }) []).mem
    (dirOf m 2).getLsbD 0 = true ∧ regionEmpty m 0 2 = true ∧ requested m 0 2 = false ∧ (0, 2) ∉ m.leaving := by
  decide +kernel

/-- A wave with one access of a U page outstanding. -/
def waccess (k : OpKind) (a : Acc) : Wave :=
  { w0 with ops := [{ id := 0, cls := some .ld, kind := k, acq := none, rel := none, subs := [{ lane := 0, space := .dev .u, va := 0x400, pa := 0x400, n := 4, key := none, acc := a, dst := 4, dstN := 1, stamp := 0, busy := false, done := false, value := 0, extra := 0 }], dests := [], clobbered := [], done := false, counted := false }] }

theorem wit_HomeSliceAccess : ∀ w ∈ [waccess .store (.store 5), waccess .load (.load true)],
    (sbare.setWave 0 w).wave 0 = some w ∧ (∃ o x, w.ops = [o] ∧ o.subs = [x] ∧ o.acq = none ∧ o.rel = none ∧ x.done = false ∧ x.busy = false ∧
      x.space = .dev .u ∧ requestFree (sbare.setWave 0 w) 0 (lineOf x.pa) = true ∧ lineIn (sbare.setWave 0 w).mem 0 (lineOf x.pa) .s = none ∧
      holders (sbare.setWave 0 w).mem (regionOf (lineOf x.pa)) = []) ∧ (∀ p ∈ (sbare.setWave 0 w).work.blocks, p.2.tiles = []) ∧
    coreOf (sbare.setWave 0 w) w = 0 := by
  intro w hw
  rcases List.mem_cons.1 hw with rfl | hw
  · exact ⟨by decide, ⟨_, _, rfl, rfl, rfl, rfl, rfl, rfl, rfl, by decide +kernel, by decide +kernel, by decide +kernel⟩, by decide +kernel, by decide +kernel⟩
  · obtain rfl := List.mem_singleton.1 hw
    exact ⟨by decide, ⟨_, _, rfl, rfl, rfl, rfl, rfl, rfl, rfl, by decide +kernel, by decide +kernel, by decide +kernel⟩, by decide +kernel, by decide +kernel⟩

/-- A wave with a store counted no more, a push performed, and stream 0 active or with an element in flight. -/
def wstream (held : Bool) : Wave :=
  { w0 with
    ops := [{ id := 0, cls := some .st, kind := .push 2, acq := none, rel := none, subs := [], dests := [], clobbered := [], done := true, counted := false }]
    streams := { Stream.idle with active := !held, count := 4, held := if held then [{ addr := 0, step := 0, lane := 0, landed := false, taken := false, values := [], faults := [] }] else [] } :: List.replicate 3 Stream.idle }

theorem wit_MemorySteps_streams :
    let a := sbare.setWave 0 (wstream false)
    let b := sbare.setWave 0 (wstream true)
    (countable a 0 .st).isSome = true ∧ a.wave 0 = some (wstream false) ∧ streamBusy a (wstream false) 0 = true ∧ firstInFlight (streamOf (wstream false) 0) = none ∧
    b.wave 0 = some (wstream true) ∧ streamBusy b (wstream true) 0 = true ∧ firstInFlight (streamOf (wstream true) 0) = some 0 ∧
    fetchStarts (wstream true) 0 = false ∧ drainable a 0 0 = some 2 ∧ landable a (wstream false) 0 = none ∧ (landable b (wstream true) 0).isSome = true := by
  decide +kernel

/-- The loaded machine with a table of 4 KiB pages at 2 GiB: sixteen pages of one 64 KiB group, with some flags. -/
def spages (flags : Nat) : State :=
  let m := Memory.writes s0.mem.mem 0x11010 (leBytes (1 + 0x12 * 2 ^ 21) 8)
  let m1 := Memory.writes (Memory.writes m 0x12000 (leBytes (1 + 0x13 * 2 ^ 21) 8)) 0x13000
    ((List.range 16).flatMap fun i => leBytes (0x41F + flags + (0x100 + i) * 2 ^ 21) 8)
  { s0 with mem := { s0.mem with mem := m1 } }

theorem wit_MemorySteps_pages :
    let w := { s0 with pending := [.pageWalk 0 0 0x60000] }
    let p := { w with mem := { w.mem with poison := [lineOf 0x11000] } }
    let g : Migrating := { ctx := 0, va := 0x80000000, entryPa := 0x13000, entries := 16, oldPage := 0x100, pages := 16, retire := false }
    let moving := { spages (2 ^ 9) with mem := { (spages (2 ^ 9)).mem with migrating := [g] } }
    (Ev.pageWalk 0 0 0x60000 ∈ walking w 0 ∧ walkPoison w 0 0x60000 = none) ∧ (Ev.pageWalk 0 0 0x60000 ∈ walking p 0 ∧ (walkPoison p 0 0x60000).isSome = true) ∧
    (walkFree w 0 0x60000 = true ∧ walkFree p 0 0x60000 = true ∧ ctxStopped p 0 = false ∧
      (let q := p.setCtx 0 { bootCtx with stopped := true }
       Ev.pageWalk 0 0 0x60000 ∈ walking q 0 ∧ walkFree q 0 0x60000 = true ∧ (walkPoison q 0 0x60000).isSome = true ∧ ctxStopped q 0 = true)) ∧
    (serving (spages 0) = true ∧ (moveLeaf (spages 0) 0 0x8000F000).isSome = true) ∧ endsAt moving 0 0x80000000 0x200000 = some g := by
  decide +kernel

/-- The group of `spages` as a read-duplicate mapping with a coordinator. -/
def sdup (coord : Nat) : State := spages (2 ^ 8 + coord * 2 ^ 13)

/-- A collapse of that group under way, for a writer. -/
def scollapse (writer : Nat) (awaiting : List Nat) : State :=
  { sdup 0 with mem := { (sdup 0).mem with collapses := [{ ctx := 0, va := 0x80000000, writer := writer, frame := 0x200000, awaiting := awaiting }] } }

theorem wit_MemorySteps_collapse :
    (serving (spages 0) = true ∧ collapseOf (spages 0) 0 0x80000000 = none ∧ 5 ≠ (spages 0).dev.deviceId ∧ dupLeaf (spages 0) 0 0x80000000 = none ∧
      groupInUse (spages 0) 0 0x80000000 = false) ∧
    (collapseOf (sdup 0) 0 0x80000000 = none ∧ (dupLeaf (sdup 0) 0 0x80000000).isSome = true) ∧
    ((dupLeaf (sdup 3) 0 0x80000000).map fun q => bits q.leaf 20 13) = some 3 ∧ (splitLeaf (sdup 3) 0 0x80000000 3).isSome = true ∧
    (splitLeaf { sdup 3 with pending := (sdup 3).pending.erase (.groupRewrite 0 0x80000000 0 0 0) } 0 0x80000000 3).isSome = true ∧
    (∀ w ∈ [0, 5], (collapseOf (scollapse w [2]) 0 0x80000000).map (fun c => (c.writer, c.awaiting)) = some (w, [2])) ∧
    (collapseOf (scollapse 5 [2, 3]) 0 0x80000000).map Collapse.awaiting = some [2, 3] ∧
    ((scollapse 0 []).ctxs.look 0).map (fun r => r.cfg.notifyCollapse) = some false := by
  decide +kernel

/-! ## Witnesses: copies, barriers, tiles, waypoints, commits -/

/-- The copy of 32 bytes from 0x100 to 0x200 of the scratchpad of block 0. -/
def copy0 (started : Bool) : Copy :=
  { core := 0, blk := 0, wave := 0, op := 0, form := 0, x := false, desc := [0x100, 0, 0x200, 0, 32, 1, 0x80000000, 0], idxs := [], total := 1
    left := [0], started := started, bar := none, cb := none, coll := none, spans := [], pages := [], reads := [], targets := [] }

/-- A state with that copy. -/
def scopy (started : Bool) : State := { sbare with work := { sbare.work with copies := [(3, copy0 started)] } }

theorem wit_UnitSteps_copies :
    copyReady (scopy false) 3 = true ∧ (scopy false).work.copies.look 3 = some (copy0 false) ∧ (copy0 false).coll = none ∧
    (scopy true).work.copies.look 3 = some (copy0 true) ∧ sectorReady (scopy true) (copy0 true) 0 = true := by
  decide +kernel

/-- The copy whose one sector fills scratchpad bytes 0x200 to 0x21F of block 0 with zeros: a gather of one row past the end of its table. -/
def fill0 (bar : Option BarObj) : Copy :=
  { copy0 true with form := 2, desc := [0, 0, 0x200, 32, 32, 0, 0x80000000, 0], idxs := [(0, 5)], bar := bar }

/-- A state with that copy alone. -/
def sfill (bar : Option BarObj) : State := { sbare with work := { sbare.work with copies := [(3, fill0 bar)] } }

theorem wit_UnitSteps_ready :
    let s := scopy false
    s.work.copies = [(3, copy0 false)] ∧ (copy0 false).started = false ∧ (copy0 false).coll = none ∧ (copy0 false).cb = none ∧ (copy0 false).form ≠ 6 ∧
    (copy0 false).spans.length ≤ 64 ∧ (∀ w, s.wave (copy0 false).wave = some w → ∀ e ∈ earlier w (copy0 false).op, e.performed = true) ∧
    dirtyLines s.mem (copy0 false).core = [] := by
  refine ⟨rfl, rfl, rfl, rfl, by decide, by decide, ?_, by decide +kernel⟩
  intro w hw e he
  have h : ((scopy false).wave 0).all (fun w => (earlier w 0).isEmpty) = true := by decide +kernel
  rw [show (copy0 false).wave = 0 from rfl] at hw
  rw [hw] at h
  rw [show (copy0 false).op = 0 from rfl, List.isEmpty_iff.1 h] at he
  cases he

theorem wit_UnitSteps_sectors : ∀ bar ∈ [none, some (BarObj.spm 0 0x40)],
    let s := sfill bar
    let c := fill0 bar
    s.work.copies.look 3 = some c ∧ sectorReady s c 0 = true ∧ sectorPeer c 0 = none ∧ NoTiles s ∧ OnCore s c.blk ∧
    (∀ i ∈ sectorBytes 0, ∃ off, copyDst s c i = .spm off) ∧ (∀ i ∈ sectorBytes 0, ∀ n ∈ sectorBytes 0, copyDst s c i = copyDst s c n → i = n) ∧
    (∀ i ∈ sectorBytes 0, locPoisoned s c (copySrc s c i) = false) ∧ (∀ o, c.bar = some o → ∃ off, o = .spm c.blk off) := by
  intro bar hb
  rcases List.mem_cons.1 hb with rfl | hb
  · exact ⟨rfl, by decide +kernel, by decide +kernel, by decide +kernel, ⟨_, rfl, by decide⟩, fun i _ => ⟨_, rfl⟩, by decide +kernel, by decide +kernel,
      fun o h => by cases h⟩
  · rw [List.mem_singleton.1 hb]
    exact ⟨rfl, by decide +kernel, by decide +kernel, by decide +kernel, ⟨_, rfl, by decide⟩, fun i _ => ⟨_, rfl⟩, by decide +kernel, by decide +kernel,
      fun o h => by cases h; exact ⟨_, rfl⟩⟩

/-- A copy out of a block of the store, and a copy to the blocks of a group, not yet started. -/
def store0 : Copy := { copy0 false with form := 6, desc := [0, 0, 0x200, 0, 0, 0, 0x80000000, 0], total := 512, left := List.range 512 }

def group0 : Copy := { copy0 false with form := 4, targets := [(0, 0, 0)] }

theorem wit_UnitSteps_starts :
    let s (c : Copy) : State := { sbare with
      work := { sbare.work with copies := [(3, c)] }
      base := { sbare.base with blocks := [(0, { ctx := 0, count := 1, gen := 0, pins := 0, live := true, spilled := false, poisoned := [], used := 0, data := [] })] } }
    (copyReady (s store0) 3 = true ∧ store0.coll = none ∧ store0.form = 6 ∧ ((s store0).base.blocks.look (handleKey (store0.word 0))).isSome = true) ∧
    (copyReady (s group0) 3 = true ∧ group0.coll = none ∧ group0.form = 4 ∧ group0.targets[0]? = some (0, 0, 0) ∧ 0 < group0.word 4 / 32) := by
  decide +kernel

/-- A wave with one operation outstanding. -/
def wop (k : OpKind) : Wave :=
  { w0 with ops := [{ id := 0, cls := none, kind := k, acq := none, rel := none, subs := [], dests := [], clobbered := [], done := false, counted := false }] }

/-- A wave whose fibre 3 waits at an object. -/
def wparkedAt (p : Park) : Wave := w0.mapFibre 3 fun f => { f with park := some { kind := p, next := .off } }

theorem wit_UnitSteps_barriers :
    let o : BarObj := .spm 0 0x40
    let a := { sbare with pending := [.barrierUpdate none o .arrive] }
    let b := { sbare.setWave 0 (wop (.bar o .arrive)) with pending := [.barrierUpdate (some 0) o .arrive] }
    let w := wparkedAt (.bwait o 16)
    (Ev.barrierUpdate none o .arrive ∈ a.pending ∧ objFree a o = true) ∧
    (Ev.barrierUpdate (some 0) o .arrive ∈ b.pending ∧ objFree b o = true ∧ barOpReady b 0 o .arrive = true) ∧
    ((sbare.setWave 0 w).wave 0 = some w ∧ answered o w = true) := by
  decide +kernel

/-- A barrier object in memory, updated by a completion and by a wave's BARV. -/
theorem wit_UnitSteps_lines :
    let o : BarObj := .line 0 0x40100 none 0x40100
    let a := { sbare with pending := [.barrierUpdate none o .arrive] }
    let b := { sbare.setWave 0 (wop (.bar o .arrive)) with pending := [.barrierUpdate (some 0) o .arrive] }
    (∀ e, BarUpd.arrive = .init e → e < 2 ^ 14) ∧ NoTiles a ∧ OnCore a 0 ∧ Ev.barrierUpdate none o .arrive ∈ a.pending ∧ lineFree a.mem (lineOf 0x40100) = true ∧
    Ev.barrierUpdate (some 0) o .arrive ∈ b.pending ∧ lineFree b.mem (lineOf 0x40100) = true ∧ barOpReady b 0 o .arrive = true ∧
    (barOp b 0 o .arrive).isSome = true :=
  ⟨fun e h => (nomatch h), by decide +kernel, ⟨_, rfl, by decide⟩, by decide +kernel, by decide +kernel, by decide +kernel, by decide +kernel, by decide +kernel,
    by decide +kernel⟩

theorem wit_UnitSteps_requests :
    let o : BarObj := .spm 0 0x40
    ∀ q ∈ [(wparkedAt (.bwait o 33), (none : Option PReg)), (wparkedAt (.btest o), some 2)],
      ∀ g ∈ [(0, true), (1, false)],
      let s := { sbare.setWave 0 q.1 with pending := [.remoteBarrierRequest 0 8 g.1 0x80000040 o 1 q.2] }
      Ev.remoteBarrierRequest 0 8 g.1 0x80000040 o 1 q.2 ∈ s.pending ∧ askOrdered s 0 o = true ∧ askTaken s o = true ∧ s.wave 0 = some q.1 ∧
        asking q.1 8 o 1 q.2 = [3] ∧ askingBehind q.1 8 o 1 q.2 = [] ∧ (askPc q.1 [3] []).isSome = true ∧ askReaches s g.1 o = g.2 := by
  decide +kernel

/-- A remote store of the wave's first operation to its own block, with one generation. -/
def msg0 (gen : Nat) : RemoteMsg := { wave := 0, seq := 0, core := 0, blk := 0, gen := gen, off := 0x80, op := .store 5 0 0 }

theorem wit_UnitSteps_messages : ∀ g ∈ [0, 1],
    let s := { sbare.setWave 0 (wop .store) with pending := [.remoteMessage (msg0 g)] }
    Ev.remoteMessage (msg0 g) ∈ s.pending ∧ msgFirst s (msg0 g) = true ∧ msgOrdered s (msg0 g) = true ∧ msgTaken s (msg0 g) = true := by
  decide +kernel

/-- Each kind of message, at a block that runs or is about to be pre-empted, or that has gone. -/
theorem wit_UnitSteps_kinds :
    let s (op : RemoteOp) (gen : Nat) (p : Bool) : State :=
      let s := (sbare.mapBlock 0 fun b => { b with preempt := p }).setWave 0 (wop .store)
      { s with work := { s.work with copies := [(3, { group0 with started := true })] }, pending := [.remoteMessage { msg0 gen with op := op }] }
    (∀ op ∈ [RemoteOp.store 5 0 0, .load 0 0, .arrive 0 0x80000080, .expect 1, .sector 3 0], ∀ p : Bool, ∀ g ∈ [0, 1],
      let m : RemoteMsg := { msg0 g with op := op }
      Ev.remoteMessage m ∈ (s op g p).pending ∧ msgFirst (s op g p) m = true ∧ msgOrdered (s op g p) m = true ∧ NoTiles (s op g p) ∧
      msgTaken (s op g p) m = true ∧ (g = 0 → reaches (s op g p) m = true) ∧ (g = 1 → reaches (s op g p) m = false) ∧
      (((s op g p).block 0).map fun b => (b.status == .running, b.preempt)) = some (true, p) ∧ ((s op g p).wave 0).isSome = true) ∧
    group0.bar = none := by
  decide +kernel

/-- A ZCLR of slab 0 in the queue, with its state. -/
def tile0 (running consumed : Bool) : TileOp :=
  { id := 4, wave := 0, op := 0, z := 0, cnt := 1, m := 16, kind := .zclr, reads := [], writes := [], stamp := 0, running := running
    consumed := consumed, tainted := false, conds := 0, out := [], bytes := [] }

/-- Block 0 with that operation in its queue. -/
def stile (t : TileOp) : State := sbare.mapBlock 0 fun b => { b with tiles := [t] }

theorem wit_UnitSteps_tiles :
    (((stile (tile0 false false)).block 0).map fun b => (nextTileOp b, tileReady (stile (tile0 false false)) 0 b (tile0 false false))) =
      some (some (tile0 false false), true) ∧
    servedFirst (stile (tile0 false false)) 0 (tile0 false false) = true ∧ ((sbare.block 0).map Block.core) = some 0 ∧
    (((stile (tile0 true false)).block 0).map fun b => tileOf b 4) = some (some (tile0 true false)) ∧
    (((stile (tile0 true true)).block 0).map fun b => (tileOf b 4, destReady (stile (tile0 true true)) 0 b (tile0 true true), tilesBefore b 4)) =
      some (some (tile0 true true), true, []) := by
  decide +kernel

/-- A view of no entry. -/
def view0 : View := { ste := 0, col := 0, row := 0 }

/-- One operation of each kind in the queue. -/
def kinds0 : List TileKind :=
  [.zclr, .zld 0, .zst 0, .mma [(0, 1)] .i8 false false false true 0 0 0 view0, .mmac 0 0 .f16 true false false true 0 0 0 view0, .opfence [], .episel { o := 0, n := 64, kc := 16, b := 32, id := 0 }]

/-- Block 0 with an operation in its queue and slot 0 of its buffer 0 committed. -/
def sfilled (t : TileOp) : State :=
  mapCbuf (stile t) 0 0 fun _ => { base := 0, size := 16384, count := 2, p := 0, c := 0, slots := [{ freshSlot with st := .committed }, freshSlot], copies := 0 }

theorem wit_UnitSteps_kinds_fire : ∀ k ∈ kinds0,
    let t : TileOp := { tile0 false false with kind := k }
    (((sfilled t).block 0).map fun b => (nextTileOp b, tileReady (sfilled t) 0 b t, servedFirst (sfilled t) b.core t)) = some (some t, true, true) ∧
    ((sfilled t).wave t.wave).isSome = true := by
  decide +kernel

theorem wit_UnitSteps_kinds_complete : ∀ k ∈ [TileKind.zclr, .zst 0],
    let t : TileOp := { tile0 true true with kind := k, out := [(0, 5)], bytes := [(4, 1), (5, 2)] }
    (((stile t).block 0).map fun b => (tileOf b t.id, destReady (stile t) 0 b t)) = some (some t, true) ∧
    (t.running = true ∧ t.consumed = true ∧ t.tainted = false) ∧ operandLost (stile t) t = false ∧
    (((stile t).block 0).map fun b => (tilesBefore b t.id).all fun e => !e.shares t) = some true ∧ (t.out.map Prod.fst).Nodup ∧ (t.bytes.map Prod.fst).Nodup := by
  decide +kernel

/-- A request of a fibre for number 1 of key 3. -/
def req0 (k : WpKind) : WpReq := { kind := k, ctx := 0, key := 3, seq := 1, uid := 3, after := none }

/-- A state with waypoint entries, waiting requests and steps. -/
def swp (wps : List WpEntry) (waits : List WpWait) (pending : List Ev) : State :=
  { sbare with base := { sbare.base with wps := wps, waits := waits }, pending := pending }

/-- The waiting request, since cycle 0. -/
def wait0 (claiming : Bool) : WpWait := { req := req0 .oent, core := 0, stamp := 0, walks := 0, gap := .before, claiming := claiming }

theorem wit_WaypointSteps_requests :
    (∀ k ∈ [WpKind.oent, .oleave, .oskip, .oqry], let s := swp [WpEntry.fresh 0 3 0] [] [.waypointRequest (req0 k)];
      Ev.waypointRequest (req0 k) ∈ s.pending ∧ reqFirst s (req0 k) = true ∧ wpOpen s 0 3 = true ∧ (releaseOf s (req0 k)).isSome = true ∧
      ((releaseOf { s with pending := s.pending.erase (.waypointRequest (req0 k)) } (req0 k)).bind fun s1 => wpEntry s1 0 3).isSome = true) ∧
    Ev.waypointMulticast 0 0 3 1 ∈ (swp [] [wait0 false] [.waypointMulticast 0 0 3 1]).pending ∧
    (let s := swp [WpEntry.fresh 0 3 1] [wait0 true] [.waypointClaim (req0 .oent)];
      Ev.waypointClaim (req0 .oent) ∈ s.pending ∧ wpOpen s 0 3 = true ∧ s.base.waits.find? (fun q => q.req == req0 .oent && q.claiming) = some (wait0 true) ∧
      (wpEntry { s with pending := s.pending.erase (.waypointClaim (req0 .oent)) } 0 3).isSome = true) := by
  decide +kernel

/-- A context whose backing table is one slot, which holds poison, with waiting requests and steps. -/
def spoison (es : List Ev) (ws : List WpWait) : State :=
  let s := { swp [] ws es with mem := { s0.mem with poison := [0x4000] } }
  s.setCtx 0 { bootCtx with cfg := { bootCtx.cfg with wpK := 0 } }

theorem spoison_slots (es : List Ev) (ws : List WpWait) :
    ((spoison es ws).ctxs.look 0).map (fun c => backingSlots c.cfg 3) = some (List.replicate 8 0x100000) := by
  show some (backingSlots { bootCtx.cfg with wpK := 0 } 3) = _
  simp only [backingSlots, Nat.pow_zero, Nat.mod_one]
  rfl

theorem wit_WaypointSteps_poison :
    (let s := spoison [.waypointRequest (req0 .oent)] []
     Ev.waypointRequest (req0 .oent) ∈ s.pending ∧ reqFirst s (req0 .oent) = true ∧ wpOpen s 0 3 = true ∧ (releaseOf s (req0 .oent)).isSome = true ∧
      releaseOf { s with pending := s.pending.erase (.waypointRequest (req0 .oent)) } (req0 .oent) = some (spoison [] []) ∧
      (wpPoison (spoison [] []) 0 3).isSome = true ∧ ctxStopped (spoison [] []) 0 = false) ∧
    (let s := spoison [.waypointClaim (req0 .oent)] [wait0 true]
     Ev.waypointClaim (req0 .oent) ∈ s.pending ∧ wpOpen s 0 3 = true ∧ s.base.waits.find? (fun q => q.req == req0 .oent && q.claiming) = some (wait0 true) ∧
      (wpPoison s 0 3).isSome = true ∧ ctxStopped s 0 = false) := by
  have ho : ∀ es ∈ [[Ev.waypointRequest (req0 .oent)], [.waypointClaim (req0 .oent)]], ∀ ws ∈ [[], [wait0 true]], wpOpen (spoison es ws) 0 3 = true := by
    intro es he ws hw
    unfold wpOpen slotsFree
    rw [spoison_slots]
    revert es ws
    decide +kernel
  have hp : ∀ es ∈ [[], [Ev.waypointClaim (req0 .oent)]], ∀ ws ∈ [[], [wait0 true]], (wpPoison (spoison es ws) 0 3).isSome = true := by
    intro es he ws hw
    unfold wpPoison
    rw [spoison_slots]
    revert es ws
    decide +kernel
  refine ⟨⟨by decide +kernel, by decide +kernel, ho _ (by decide) _ (by decide), by decide +kernel, rfl, hp _ (by decide) _ (by decide), by decide +kernel⟩,
    by decide +kernel, ho _ (by decide) _ (by decide), by decide +kernel, hp _ (by decide) _ (by decide), by decide +kernel⟩

/-- Numbers behind, at, ahead of and skipped by an entry, and its holder. -/
theorem wit_WaypointSteps_numbers :
    let e : WpEntry := WpEntry.fresh 0 3 1
    let h : WpEntry := { e with holder := some 3 }
    let k : WpEntry := { e with skip := 1 }
    wpDist e 0 < 0 ∧ (wpDist e 1 = 0 ∧ e.holder = none) ∧ (wpDist h 1 = 0 ∧ h.holder ≠ none ∧ h.holder = some 3 ∧ e.holder ≠ some 3) ∧
    (0 < wpDist k 2 ∧ wpDist k 2 < 256 ∧ k.skip.getLsbD ((wpDist k 2).toNat - 1) = true) ∧
    (0 < wpDist e 256 ∧ wpDist e 256 < 256 ∧ ¬ (wpDist e 256 < 256 ∧ e.skip.getLsbD ((wpDist e 256).toNat - 1) = true)) ∧ ¬ wpDist e 257 < 256 := by
  decide

/-- An active table of 8192 held entries in the stack that is key 3's home, and a context without a backing table. -/
def sfull : State := { swp (List.replicate 8192 { WpEntry.fresh 0 0 1 with holder := some 9 }) [] [.waypointRequest (req0 .oent)] with ctxs := [] }

theorem wit_WaypointSteps_full : wpOpen sfull 0 3 = true ∧ wpEntry sfull 0 3 = none := by
  have ha : wpActive sfull 0 3 = none := List.find?_eq_none.2 fun e he => by
    rw [List.eq_of_mem_replicate he]; decide
  have hf : (sfull.base.wps.filter fun e => wpHome e.ctx e.key == wpHome 0 3) = sfull.base.wps :=
    List.filter_eq_self.2 fun e he => by rw [List.eq_of_mem_replicate he]; decide
  have hl : sfull.base.wps.length = 8192 := List.length_replicate
  have hi : (sfull.base.wps.filter fun e => wpHome e.ctx e.key == wpHome 0 3 && e.idle && (backingFree sfull e.ctx e.key).isSome) = [] :=
    List.filter_eq_nil_iff.2 (fun e he => by rw [List.eq_of_mem_replicate he]; decide)
  have hj : (sfull.base.wps.filter fun e => wpHome e.ctx e.key == wpHome 0 3 && e.idle) = [] :=
    List.filter_eq_nil_iff.2 (fun e he => by rw [List.eq_of_mem_replicate he]; decide)
  have hs : slotsFree sfull 0 3 = true := rfl
  constructor
  · unfold wpOpen
    rw [hs, hj]
    simp only [List.all_nil, Bool.or_true, Bool.and_true]
  · unfold wpEntry wpCount wpSpill
    rw [ha, hf, hl, hi]
    rfl

theorem wit_WaypointSteps_answers :
    let w := wparkedAt (.oent 3 1 (4096 * 3 + 4))
    let v := wparkedAt (.oqry 3 (4096 * 3 + 4))
    let u := (w0.fibres.look 3).map Fibre.uid
    (∀ x ∈ [(w, some 1), (v, none)], ((fibreAt (sbare.setWave 0 x.1) (u.getD 0)).map fun p => (p.1, p.2.1, awaitsKey p.2.2 3 x.2)) =
      some (0, 3, some (4096 * 3 + 4, false))) ∧
    ∀ a ∈ [WpAns.granted 1, .stale 1, .value 7], Ev.waypointAnswer (u.getD 0) 3 a ∈ [Ev.waypointAnswer (u.getD 0) 3 a] := by
  decide +kernel

/-- The machine after many cycles, with a fibre that waits for key 3, held by itself or by nobody. -/
def swalk (holder : Option Nat) : State :=
  let w := w0.mapFibre 3 fun f =>
    { f with uid := 3, park := some { kind := .oent 3 1 0, next := .off }, slots := [{ key := 3, seq := 1, st := .awaiting }] }
  let s := swp [{ WpEntry.fresh 0 3 0 with holder := holder }] [wait0 false] []
  { s.setWave 0 w with dev := { s.dev with cycles := 2 ^ 24 } }

theorem wit_WaypointSteps_walks : ∀ h ∈ [some 3, none],
    waitOf (swalk h) 3 = some (wait0 false) ∧ (wait0 false).walks < ((swalk h).dev.cycles - (wait0 false).stamp) / 2 ^ 16 ∧
    walkKeys (swalk h) 3 0 16 3 = h.isSome ∧ (gapFor (noteGaps (swalk h)) 3).isSome = h.isNone := by
  decide +kernel

/-- A commit of one entry at 0x40100 with its line locked or not. -/
def scommit (locked : List Nat) (pending : List Ev) : State :=
  { sbare with
    mem := { sbare.mem with commits := [(2,
      { wave := 0, op := 0, lane := 0, pb := 0x40000, image := [], obs := none, pages := [], w64 := true, nowb := false, entries := [(0x40100, 0, 7, none)], lines := [0x1004], locked := locked })] }
    pending := pending }

theorem wit_WaypointSteps_commits :
    (Ev.mcasLockRequest 2 ∈ (scommit [] [.mcasLockRequest 2]).pending ∧ lockReady (scommit [] [.mcasLockRequest 2]) 2 = true ∧
      ((scommit [] [.mcasLockRequest 2]).mem.commits.look 2).bind Commit.next = some 0x1004) ∧
    (Ev.mcasLockAck 2 ∈ (scommit [] [.mcasLockAck 2]).pending ∧ (((scommit [] [.mcasLockAck 2]).mem.commits.look 2).bind Commit.next).isSome = true) ∧
    (((scommit [0x1004] [.mcasLockAck 2]).mem.commits.look 2).map fun c => (c.obs, c.next)) = some (none, none) ∧
    (let s := scommit [0x1004] [.mcasLockAck 2]
     let t := { s with mem := { s.mem with commits := s.mem.commits.modify 2 fun c => { c with obs := some [0] } } }
     Ev.mcasLockAck 2 ∈ t.pending ∧ ((t.mem.commits.look 2).map fun c => (c.obs, backReady t c [0])) = some (some [0], true)) := by
  decide +kernel

/-- A failed commit whose parameter block lies in a line that another commit holds. -/
theorem wit_WaypointSteps_writeBack :
    let s : State := { sbare with mem := { sbare.mem with locked := [(0x1000, 9)] } }
    let c : Commit := { wave := 0, op := 0, lane := 0, pb := 0x40000, image := [], obs := none, pages := [(0x40, { space := .dev .u, pa := 0x40000, key := none })],
                        w64 := true, nowb := false, entries := [(0x40100, 5, 7, none)], lines := [0x1004], locked := [0x1004] }
    (c.used s).mismatch ((c.used s).observed s) ≠ 0 ∧ backReady (unlock s 2) (c.used s) ((c.used s).observed s) = false := by
  decide +kernel

/-! ## Witnesses: graphics, plots, the block store -/

/-- The machine with the data machine's entries, and with changes to its surfaces, batches, plots and blocks. -/
def sgfx (f : Base → Base) : State := { sbare.setCtx 0 dataCtx with base := f sbare.base }

/-- A batch with the triangle (0, 0), (8, 0), (0, 8) on surface 0, with depth in entry 1. -/
def batch1 : Batch :=
  { batch0 with attrs := 0, accepted := none, depth := some 1, sent := false, verts := [0, 0, 0, 0x3F800000, 0x41000000, 0, 0, 0x3F800000, 0, 0x41000000, 0, 0x3F800000] }

theorem wit_GraphicsSteps_batches :
    batchDue (sgfx fun b => { b with batches := [(0, batch1)] }) 0 = some batch1 ∧
    rasterBatch (sgfx fun b => { b with batches := [(0, { batch1 with accepted := some 0 })] }) 0 = some (0, { batch1 with accepted := some 0 }) ∧
    rasterDue (sgfx fun b => { b with batches := [(0, { batch1 with accepted := some 0 })] }) 0 = true ∧
    (match rasterWork (sgfx fun b => { b with batches := [(0, { batch1 with accepted := some 0 })] }) 0 { batch1 with accepted := some 0 } 0 with
      | .cell ts => ts.map fun t => (t.cx, t.cy, t.mask.getLsbD 0, t.depth)
      | .tri _ => []) = [(0, 0, true, false), (0, 0, true, true)] ∧
    rasterDue (sgfx fun b => { b with batches := [(0, { batch1 with accepted := some 0, cell0 := 64 })] }) 0 = true := by
  decide +kernel

/-- The fragment of pixel (1, 2) of that triangle. -/
def frag0 : Frag := { batch := 0, stack := 0, tri := 0, seq := 0, px := 1, py := 2 }

/-- An export of that fragment. -/
def export0 (discard entered : Bool) : Export :=
  { wave := 0, op := none, frag := frag0, discard := discard, colour := [7, 0], z := 0, entered := entered, depthDone := false, colourDone := false, verdict := none }

/-- The machine with that export, with its tickets, in a batch with or without a depth entry. -/
def sexport (depth : Option Nat) (x : Export) : State :=
  let t (e : Nat) (d : Bool) : Ticket := { stack := 0, bank := bankOf e 0 0, ctx := 0, ste := e, cx := 0, cy := 0, batch := 0, seq := 0, mask := 0xFFFF, depth := d }
  sgfx fun b => { b with batches := [(0, { batch1 with accepted := some 0, depth := depth })], exports := [(5, x)], tickets := [t 0 false, t 1 true] }

theorem wit_GraphicsSteps_exports :
    (∀ d ∈ [true, false], (sexport none (export0 d false)).base.exports.look 5 = some (export0 d false)) ∧
    ((nextExport (sexport (some 1) (export0 false true)) 0 (bankOf 1 0 0)).map fun q => (q.1, q.2.2.2)) = some (5, true) ∧
    ((nextExport (sexport none (export0 false true)) 0 (bankOf 0 0 0)).map fun q => (q.1, q.2.2.2)) = some (5, false) ∧
    Ev.depthVerdict 5 true ∈ ({ sexport none (export0 false true) with pending := [Ev.depthVerdict 5 true] } : State).pending := by
  decide +kernel

/-- The machine with a waiting fragment of a batch that has ended on stack 0, and a core that can take its wave. -/
def sfrags : State :=
  { sadmit with work := { sadmit.work with queue := [] }, base := { sadmit.base with
      batches := [(0, { batch1 with accepted := some 0, tri0 := 1, tri1 := 1 })], frags := [(0, { frag := frag0, b1 := 0, b2 := 0, z := 0 })] } }

theorem wit_GraphicsSteps_waves :
    (nextFragLaunch sfrags 0).isSome = true ∧ ∃ s1, nextFragLaunch { sfrags with pending := sfrags.pending.erase (.fragmentWaveLaunch 0) } 0 = some s1 := by
  have key : ∃ s1, nextFragLaunch sfrags 0 = some s1 := by
    obtain ⟨p, hp⟩ := fits_on (s := sfrags) (ctx := 0) (x := ((sfrags.work.launches.look 0).map Launch.record).getD []) (stack := 0) (core := 0) (by decide +kernel)
    have hh : candsOf sfrags 0 = [.fr 0 0] := by decide +kernel
    have hb : sfrags.base.batches.look 0 = some { batch1 with accepted := some 0, tri0 := 1, tri1 := 1 } := by decide +kernel
    obtain ⟨l, hl⟩ : ∃ l, sfrags.work.launches.look 0 = some l := ⟨_, rfl⟩
    have hr : ((sfrags.work.launches.look 0).map Launch.record).getD [] = l.record := by rw [hl]; rfl
    have hc : l.ctx = 0 := by
      have h : (sfrags.work.launches.look 0).map Launch.ctx = some 0 := by decide +kernel
      rw [hl] at h
      exact Option.some.inj h
    have hn : ((sfrags.work.launches.look 0).bind fun l => nextFrags sfrags 0 0 { batch1 with accepted := some 0, tri0 := 1, tri1 := 1 } l).isSome = true := by
      decide +kernel
    rw [hl] at hn
    obtain ⟨fs, hf⟩ := exists_some hn
    rw [hr] at hp
    have hx' : fitCores sfrags l.ctx l.record 0 = fitCores sfrags 0 l.record 0 := by rw [hc]
    have hq : ∃ t, launchFrags sfrags 0 0 = some t := by
      cases e : fitCores sfrags 0 l.record 0 with
      | nil => rw [e] at hp; cases hp
      | cons c cs =>
        have hx : (c :: cs)[Config.arrival sfrags.tick 0 % (cs.length + 1)]? = some ((c :: cs)[Config.arrival sfrags.tick 0 % (cs.length + 1)]'(Nat.mod_lt _ (Nat.succ_pos _))) :=
          List.getElem?_eq_getElem _
        have hf' : nextFrags sfrags 0 0 { batch1 with accepted := some 0, tri0 := 1, tri1 := 1 } l = some fs := hf
        have hl' : sfrags.work.launches.look ({ batch1 with accepted := some 0, tri0 := 1, tri1 := 1 } : Batch).launch = some l := hl
        simp only [launchFrags, hb, hl', hf', hx', e, hx]
        exact ⟨_, rfl⟩
    obtain ⟨t, ht⟩ := hq
    have ha : admission sfrags 0 = some (.fr 0 0, t) := by
      rw [admission, hh, firstFit, if_neg (by simp)]
      simp only [tryCand, if_true, ht]
    exact ⟨t, by rw [nextFragLaunch, ha]⟩
  have p : { sfrags with pending := sfrags.pending.erase (.fragmentWaveLaunch 0) } = sfrags := rfl
  obtain ⟨t, ht⟩ := key
  exact ⟨by rw [ht]; rfl, t, by rw [p]; exact ht⟩

/-- A cell of entry 0. -/
def cell0 (spilled : Bool) : Cell := { ctx := 0, ste := 0, cx := 0, cy := 0, data := 0, spilled := spilled, poisoned := [], used := 4, keys := [] }

/-- A block of the store with one reference. -/
def block0 : BsBlock := { ctx := 0, count := 1, gen := 0, pins := 0, live := true, spilled := false, poisoned := [], used := 0, data := [] }

/-- The machine whose pool of stack 0 the blocks of the store fill, with some cells, entry 0 having a spill area. -/
def spooled (n : Nat) (cells : List Cell) : State :=
  let s := sgfx fun b => { b with cells := cells, blocks := (List.range n).map fun i => (i, block0) }
  s.setCtx 0 { dataCtx with stes := [(0, { entry0 with spill := 0x80000 })] }

theorem blocks_resident (n : Nat) (h : n ≤ 2 ^ 20) :
    (((List.range n).map fun i => (i, block0)).filter fun b => bsStack b.1 == 0 && b.2.live && !b.2.spilled).length = n := by
  rw [List.filter_eq_self.2, List.length_map, List.length_range]
  intro b hb
  obtain ⟨i, hi, rfl⟩ := List.mem_map.1 hb
  have hz : bsStack i = 0 := Nat.div_eq_of_lt (Nat.lt_of_lt_of_le (List.mem_range.1 hi) h)
  show (bsStack i == 0 && block0.live && !block0.spilled) = true
  rw [hz]
  rfl

theorem pool_full {s : State} {n k : Nat} (hb : s.base.blocks = (List.range n).map fun i => (i, block0)) (hn : n = 196608) (h : 0 < k) :
    poolRoom s 0 k = false := by
  subst hn
  have hl := blocks_resident 196608 (by decide)
  unfold poolRoom poolBytes
  rw [hb, hl, decide_eq_false_iff_not, poolLimit]
  omega

/-- That machine with a store of the wave to a pixel of a cell that is not allocated. -/
def spoolAsked (n : Nat) (cells : List Cell) : State :=
  let x := mkSub 0 { space := .surf 0, pa := pixelAddr 8 0, key := none, dup := none, page := 0 } 0 4 (.store 5)
  (spooled n cells).setWave 0 { w0 with ops := (wop .store).ops.map fun o => { o with subs := [x] } }

theorem spoolAsked_blocks (n : Nat) (cells : List Cell) : (spoolAsked n cells).base.blocks = (List.range n).map fun i => (i, block0) := rfl

/-- What that store asks for. -/
def ask0 : CellAsk := { ctx := 0, ste := 0, cx := 2, cy := 0, write := true }

theorem wit_GraphicsSteps_pool :
    poolFull (spoolAsked 196608 [cell0 false]) 0 = true ∧ victimCell (spoolAsked 196608 [cell0 false]) 0 = some (cell0 false) ∧
    (cellAt (sgfx fun b => { b with cells := [cell0 true] }) 0 0 0 0 = some (cell0 true) ∧ poolRoom (sgfx fun b => { b with cells := [cell0 true] }) 0 128 = true) ∧
    (let s := sgfx fun b => { b with poolWaits := [{ ctx := 0, ste := 0, cx := 0, cy := 0, since := 0, posted := false }] }
     (poolWaitDue { s with dev := { s.dev with cycles := 2 ^ 20 } } (0, 0, 0, 0)).isSome = true ∧ 0 < 2 ^ 12) := by
  refine ⟨?_, by decide +kernel, ⟨by decide +kernel, by decide +kernel⟩, by decide +kernel, by decide⟩
  have hm : ask0 ∈ cellAsks (spoolAsked 196608 [cell0 false]) := by decide +kernel
  have hp : poolRoom (spoolAsked 196608 [cell0 false]) (cellStack 2 0) (ask0.size (spoolAsked 196608 [cell0 false])) = false := pool_full (spoolAsked_blocks 196608 _) rfl (by decide +kernel)
  have hb : ask0.blocked (spoolAsked 196608 [cell0 false]) = true := by
    show (ask0.needs (spoolAsked 196608 [cell0 false]) && !poolRoom (spoolAsked 196608 [cell0 false]) (cellStack 2 0) _) = true
    rw [hp, show ask0.needs (spoolAsked 196608 [cell0 false]) = true by decide +kernel]
    rfl
  rw [poolFull, Bool.or_eq_true]
  exact Or.inl (List.any_eq_true.2 ⟨ask0, hm, by rw [hb]; decide⟩)

theorem wit_GraphicsSteps_cells :
    let c : Cell := { cell0 true with poisoned := [0] }
    let s := sgfx fun b => { b with cells := [c] }
    (cellAt s 0 0 0 0 = some c ∧ c.spilled = true ∧ c.poisoned ≠ [] ∧ ctxStopped s 0 = false) ∧ (s.ctxs.look batch1.ctx).isSome = true ∧
    (batch1.depth = some 1 ∧ batch1.colour = some 0 ∧ (export0 false true).verdict ≠ some false) ∧
    (match rasterWork (sgfx fun b => { b with batches := [(0, { batch1 with accepted := some 0, cell0 := 64 })] }) 0 { batch1 with accepted := some 0, cell0 := 64 } 0 with
      | .tri fs => !fs.isEmpty
      | .cell _ => false) = true := by
  decide +kernel

/-- A PLOT of one thread on the cell (0, 0) of entry 0, whose program is one HALT. -/
def plot0 : Plot :=
  { ctx := 0, wave := 0, level := .machine, va := 0x60280, words := [0x00000001], threads := 1, onStacks := [0], ste := 0, cx0 := 0, cy0 := 0, w := 1, h := 1,
    desc := [0, 0, 0, 0, 0, 0x10001], barrier := 0, accepted := [], units := [], started := [], conds := 0, faults := 0, fault := none }

/-- The machine with that PLOT in a stage. -/
def splot (p : Plot) (f : Base → Base) : State := sgfx fun b => f { b with plots := [(2, p)] }

/-- The PLOT accepted with its unit. -/
def plot1 : Plot := { plot0 with accepted := [(0, 3)], units := [(0, bankOf 0 0 0 / 32)] }

/-- A thread of that PLOT after some words. -/
def thread0 (n : Nat) : Thread := { plot := 2, v := [], p := 0, pc := { packet := 0, slot := 0 }, issued := n, halted := false, taint := [] }

theorem wit_GraphicsSteps_plots :
    ((splot plot0 id).base.plots.look 2 = some plot0 ∧ 0 ∈ plot0.onStacks ∧ plot0.accepted.look 0 = none) ∧
    (let s := splot plot1 fun b => { b with cells := [cell0 false] };
      s.base.units.look (unitKey 0 0) = none ∧ unitPlot s 0 0 = some (2, plot1)) ∧
    (∀ n ∈ [0, 2 ^ 26], let s := splot plot1 fun b => { b with threads := [(0, thread0 n)] };
      liveThread s 0 0 0 = some (thread0 n, plot1) ∧ threadWaits s plot1 (thread0 n) = none ∧ threadOpen s 0 plot1 (thread0 n) = true) ∧
    plotPoison (splot plot0 id) plot0 = none ∧
    (let p : Plot := { plot1 with words := [0, 0x04000000, 0, 0] };
      (thread0 0).pc.packet + 1 < plotPackets p ∧ (decode (threadWord p (thread0 0).pc)).toOption.isSome = true) ∧
    (let p : Plot := { plot1 with started := [(0, 0)] };
      (splot p id).base.plots.look 2 = some p ∧ plotOver (splot p id) 2 p = true ∧ hwFree (splot p id) p.ctx (p.va + 0x40) 16 = true) ∧
    (let s := sgfx fun b => { b with sets := [(1, { wave := 0, ctx := 0, ste := 0, image := [] })] };
      (s.base.sets.look 1).isSome = true ∧ steQuiet s 0 0 = true ∧ plotOn s 0 0 = false) := by
  decide +kernel

/-- A block-store request of the wave's one operation. -/
def bsr (kind : Nat) : BsReq := { kind := kind, wave := 0, lane := 0, op := 0, seq := 1, layer := 2, handle := 0, quiet := false }

/-- The machine with one block of the store, all that its context may hold there, and a BKA that waits. -/
def squota : State :=
  let s := sgfx fun b => { b with blocks := [(0, block0)] }
  { (s.setCtx 0 { dataCtx with cfg := { dataCtx.cfg with bkQuota := 1, bkSpill := 0x400000 } }).setWave 0 (wop .load) with pending := [.blockStoreRequest (bsr 1)] }

theorem wit_GraphicsSteps_blocks :
    (∀ k ∈ [1, 2, 3, 4], let s := { (sgfx id).setWave 0 (wop .load) with pending := [.blockStoreRequest (bsr k)] };
      Ev.blockStoreRequest (bsr k) ∈ s.pending ∧ (bsOp s (bsr k)).isSome = true ∧
        ((bsOp s (bsr k)).map fun p => (inOrder p.1 p.2, bsRoom s p.1 (bsr k))) = some (true, true)) ∧
    (let s := { (sgfx id).setWave 0 (wop .load) with pending := [.blockStoreRequest (bsr 1)] };
      ((bsOp s (bsr 1)).map fun p => (keyPoison s (ctxOf s p.1) (keyHome (ctxOf s p.1) 1 2), (bsStep s (ctxOf s p.1) (stackOf (coreOf s p.1)) (bsr 1)).toOption.map
        fun q => q.1.work == s.work)) = some (none, some true)) ∧
    blockRoom squota 0 0 = false ∧ bkaWaits squota 0 0 = true ∧ victimBlock squota 0 0 = some (0, block0) := by
  decide +kernel

/-! ## Witnesses: the step, reset, chains, memory -/

/-- What the first step of a loaded machine finds for a wave: the decoded word, its privilege, and whether the chain is held. -/
def firstWord (s : State) (w : Wave) : Option (Instr × Bool × Option Bool) :=
  match fetchPacket { s with turn := none } w 0 with
  | .ok (ws, s1) =>
    match chainOf ws 0 with
    | ([(n, x)], next) =>
      match Machine.decodeTrap ws w.codeBase.toNat 0 (batch w) [(n, x)], decode x with
      | none, .ok i =>
        some (i, privileged w.level i, match exec i (latch s1 0 none next) with
          | .next s2 => some s2.issue.held
          | _ => none)
      | _, _ => none
    | _ => none
  | .error _ => none

/-- A PRIM of a wave that has a store outstanding. -/
def sheld : State := (State.reset.withFetchWord 32 0x66004000).setWave 0 (wop .store)

theorem wit_StepRunsDecodedWord_wave :
    (∀ q ∈ [(State.reset.withFetchWord 32 0x102850B0, w0), (sheld, wop .store)],
      let s' : State := { q.1 with turn := none }
      chooseMover q.1 = some (.wave 0) ∧ s'.wave 0 = some q.2 ∧ heldBack s' 0 q.2 = false ∧ q.2.repAt = none ∧
        minPc q.2 = some { packet := 0, slot := 0 } ∧ fetchOpen s' q.2 0 = true) ∧
    firstWord (State.reset.withFetchWord 32 0x102850B0) w0 = some (.sadd 10 10 11, true, some false) ∧
    firstWord sheld (wop .store) = some (.prim 8, true, some true) := by
  decide +kernel

theorem wit_StepRunsDecodedWord_device :
    let s : State := { sup with turn := some (.event .frstrbEdge) }
    chooseMover s = some (.event .frstrbEdge) ∧ Ev.names Instr.frstrbEdge .frstrbEdge ∧
    ∃ t, exec .frstrbEdge { s with turn := none } = .next t :=
  ⟨rfl, rfl, _, rfl⟩

theorem wit_EveryInstructionRuns :
    (issuing (si w0)).isSome = true ∧ (∃ e : Ev, e.names .frstrbEdge) ∧ exec .nop State.reset = .fault .noIssuingWave :=
  ⟨rfl, ⟨.frstrbEdge, rfl⟩, rfl⟩

theorem wit_StepKeepsMemory : Inv s0 ∧ ∃ t, step s0 = .next t := ⟨⟨by decide +kernel, by decide +kernel⟩, by
  have h : (match step s0 with
    | .next _ => true
    | _ => false) = true := by decide +kernel
  cases e : step s0 with
  | next t => exact ⟨t, rfl⟩
  | fault _ => rw [e] at h; cases h
  | refused _ => rw [e] at h; cases h⟩

theorem wit_ResetValues : serving sup = true ∧ 0x048 ≤ 0x048 ∧ 0x2000 ≤ 0x2400 ∧ 0x2400 < 0x3000 ∧ 0x3008 ≤ 0x3008 := by decide

/-- The state after a word that raised inexact in fibre 3, with an enable mask. -/
def sraised (mask : BitVec 7) : State × State :=
  let s := si { w0 with ftrap := mask }
  (s, { s with issue := { s.issue with conds := [(3, 1)] } })

theorem wit_EnabledConditionsTrap : ∀ m ∈ [1, (0x7E : BitVec 7)],
    ((sraised m).1.wave 0).isSome = true ∧ ((sraised m).2.wave 0).isSome = true ∧ (3 : Nat) < 64 ∧
    (allConds (sraised m).2.issue.conds &&& m != 0) = (m == 1) ∧ (∀ x ∈ [mkTrap 0x3F [0] 0 0], 0x28 < x.cause) ∧
    mkTrap 0x08 [0] 0 0 ∈ [mkTrap 0x08 [0] 0 0] ∧ (mkTrap 0x08 [0] 0 0).cause < 0x28 := by
  decide +kernel

theorem wit_ChainTakesEffect :
    let q := sraised 0x7E
    q.1.wave 0 = some { w0 with ftrap := 0x7E } ∧ q.2.wave 0 = some { w0 with ftrap := 0x7E } ∧ allConds q.2.issue.conds &&& 0x7E = 0 ∧ w0.step = false ∧
    (∃ p ∈ w0.fibres, p.2.padding = false) ∧ (mkTrap 0x01 [] 0 0).next = false ∧ (mkTrap 0x01 [] 0 0).cause ≠ 0x20 ∧ (mkTrap 0x01 [] 0 0).conds = [] ∧
    (mkTrap 0x01 [] 0 0).cause ≠ 0x28 := by
  decide +kernel

theorem wit_DeviceWritesReadBack :
    (∀ l ∈ (sline (lineL1 .d true 1) []).mem.l1, l.bytes.length = 64) ∧ 7 < [1, 2, 3, 4, 5, 6, 7, (8 : Byte)].length ∧ lineOf 0x2000 ∉ linesOf 0x1000 8 ∧
    (0x0FFF < 0x1000 ∧ 0x1000 + 8 ≤ 0x1008) ∧ (sline (lineL1 .d true 1) []).mem.cipher.look (lineOf 0x1008) = none := by
  decide +kernel

/-! ## Worked examples of the spec -/

/-- What the wave holds after its word: a view of it, when the word's chain ends with an effect. -/
def after {α : Type} (i : Instr) (w : Wave) (f : Wave → α) : Option α :=
  match exec i (si w) with
  | .next t => (t.wave 0).map f
  | _ => none

/-- The program counter and a vector register of lane slot 0. -/
def lane0 (v : Nat) (w : Wave) : Word := w.vregs.get (physKey 0 (((w.fibres.look 0).map Fibre.base).getD 0 + v)) 0

/-- A wave of the lane slots below n, with registers set in every fibre. -/
def wset (n : Nat) (xs : List (Nat × Word)) : Wave :=
  let w := { w0 with fibres := w0.fibres.take n }
  w.fibres.foldl (fun w p => xs.foldl (fun w x => setVreg w p.1 p.2 x.1 x.2) w) w

/-- 04_number_formats, after R80: 1.0 gives 0x38 and 500 saturates to 0x7E, with overflow and inexact. -/
theorem test_pk4e4 : after (.pk4e4 8 1 2 true) (wset 1 [(1, 0x3F800000), (2, 0x43FA0000), (8, 0x12345678)]) (fun w => (lane0 8 w, w.fstat)) =
    some (0x7E381234, 0b101) := by decide +kernel

/-- 04_number_formats, after R79: one rounding gives 3, and through bf16 2. -/
theorem test_cvt_e2m1 :
    after (.cvt 5 4 .e2m1 .f32 .rne false) (wset 1 [(4, 0x40200001)]) (fun w => (lane0 5 w, w.fstat)) = some (5, 1) ∧
    after (.cvt 6 4 .bf16 .f32 .rne false) (wset 1 [(4, 0x40200001)]) (fun w => (lane0 6 w, w.fstat)) = some (0x4020, 1) ∧
    after (.cvt 7 6 .e2m1 .bf16 .rne false) (wset 1 [(6, 0x4020)]) (fun w => (lane0 7 w, w.fstat)) = some (4, 1) := by decide +kernel

/-- 04_number_formats, after R77: 456 converts to 448, and 470 to 0x7F without saturation and 0x7E with it. -/
theorem test_cvt_e4m3 :
    after (.cvt 5 4 .e4m3 .f32 .rne false) (wset 1 [(4, 0x43E40000)]) (fun w => (lane0 5 w, w.fstat)) = some (0x7E, 1) ∧
    after (.cvt 5 4 .e4m3 .f32 .rne false) (wset 1 [(4, 0x43EB0000)]) (lane0 5) = some 0x7F ∧
    after (.cvt 5 4 .e4m3 .f32 .rne true) (wset 1 [(4, 0x43EB0000)]) (lane0 5) = some 0x7E := by decide +kernel

/-- 04_number_formats, after R80: the quotient of 0x80000000 and −1, with bit 6 raised; a divisor of 0 raises bit 5. -/
theorem test_idiv :
    after (.idiv 3 1 2) (wset 1 [(1, 0x80000000), (2, 0xFFFFFFFF)]) (fun w => (lane0 3 w, w.fstat)) = some (0x80000000, 0x40) ∧
    after (.idiv 3 1 2) (wset 1 [(1, 5), (2, 0)]) (fun w => (lane0 3 w, w.fstat)) = some (0x7FFFFFFF, 0x20) := by decide +kernel

/-- 05_vector_scalar, the table of minimum forms. -/
theorem test_fmin :
    after (.fmin 3 1 2) (wset 1 [(1, 0), (2, 0x80000000)]) (lane0 3) = some 0x80000000 ∧
    after (.fminm 3 1 2) (wset 1 [(1, 0x7FC00000), (2, 0x40400000)]) (lane0 3) = some 0x7FC00000 ∧
    after (.fmin 3 1 2) (wset 1 [(1, 0x7F800001), (2, 0x40400000)]) (fun w => (lane0 3 w, w.fstat)) = some (0x40400000, 0x10) := by decide +kernel

/-- 05_vector_scalar, after R110: the order of the sums gives +0, with inexact. -/
theorem test_dot4e4 : after (.dot4e4 10 4 5) (wset 1 [(4, 0x01F80178), (5, 0x38783878)]) (fun w => (lane0 10 w, w.fstat)) = some (0, 1) := by decide +kernel

/-- 05_vector_scalar, the sum of lane slots 0, 1, 2 and 5 by the tree: 1.0, although the exact sum is 2. -/
theorem test_wredfadd :
    let xs : List (Nat × Word) := [(0, 0x4B800000), (1, 0x3F800000), (2, 0xCB800000), (5, 0x3F800000)]
    let lanes : Wave := { w0 with fibres := w0.fibres.filter fun p => [0, 1, 2, 5].contains p.1 }
    let w : Wave := xs.foldl (fun w p => ((w.fibres.look p.1).map fun f => setVreg w p.1 f 1 p.2).getD w) lanes
    after (.wredfadd 9 1) w (fun w => (lane0 9 w, w.fstat)) = some (0x3F800000, 1) := by decide +kernel

/-- 15_execution_model, after R335: a CALL of two units at packet 40 leaves the link 0x14A in the callee's v20, and RET goes back. -/
theorem test_call :
    let w := { w0 with fibres := (w0.fibres.take 1).map fun (p : Nat × Fibre) => (p.1, { p.2 with pc := { packet := 40, slot := 0 } }) }
    after (.call 20 2 5) w (fun w => (lane0 20 w, (w.fibres.look 0).map fun f => (f.base, f.pc.packet))) = some (0x14A, some (16, 45)) := by decide +kernel

theorem test_ret :
    let w := { w0 with fibres := (w0.fibres.take 1).map fun (p : Nat × Fibre) => (p.1, { p.2 with base := 16 }) }
    after (.ret 20) (w.fibres.foldl (fun w p => setVreg w p.1 p.2 20 0x14A) w) (fun w => (w.fibres.look 0).map fun f => (f.base, f.pc.packet)) =
      some (some (0, 41)) := by decide +kernel

/-- 10_memory_instructions, after R227: count 2, active, 2 held. -/
theorem test_qstat :
    let e : StreamElem := { addr := 0, step := 0, lane := 0, landed := true, taken := false, values := [], faults := [] }
    after (.qstat 20 0) { w0 with streams := { Stream.idle with active := true, count := 2, held := [e, e] } :: List.replicate 3 Stream.idle }
      (fun w => w.sregs.get 20 0) = some 0x21000002 := by decide +kernel

/-- 11_async_copies, after R257: a buffer of 2 slots, both COMMITTED, reads back as 0x40. -/
theorem test_cbqry :
    let s := mapCbuf s0 0 2 fun _ => { base := 0, size := 16384, count := 2, p := 0, c := 0, slots := List.replicate 2 { freshSlot with st := .committed }, copies := 0 }
    (match exec (.cbqry 9 2) (sg s w0) with
      | .next t => (t.wave 0).map fun w => w.sregs.get 9 0
      | _ => none) = some 0x40 := by decide +kernel

/-- 12_ordered_sections R258, 14_plot_units and 13_raster R283: the homes of keys, and the bank of a cell. -/
theorem test_homes : wpHome 3 0x51 = 1 ∧ wpHome 3 0x10 = 1 ∧ wpHome 3 0x21 = 0 ∧ bankOf 9 0 0 = 1421 ∧ homeStack 0x02000040 = 0 ∧ homeStack 0x02001040 = 1 := by
  decide

/-- 11_async_copies, the two mirrors with n = 5. -/
theorem test_mirrors :
    ([-3, -2, -1, 0, 1, 2, 3, 4, 5, 6, 7].map fun i => mirror i 5) = [3, 2, 1, 0, 1, 2, 3, 4, 3, 2, 1] ∧
    ([-3, -2, -1, 0, 1, 2, 3, 4, 5, 6, 7].map fun i => mirrorRep i 5) = [2, 1, 0, 0, 1, 2, 3, 4, 4, 3, 2] := by decide

/-- 13_raster, after R293: pixel (1, 2) belongs to the second of two triangles that share its edge. -/
theorem test_shared_edge :
    let b := { batch0 with attrs := 0, verts := [0, 0, 0, 0, 0x40800000, 0, 0, 0, 0, 0x40800000, 0, 0, 0x40800000, 0, 0, 0, 0x40800000, 0x40800000, 0, 0, 0, 0x40800000, 0, 0] }
    ((triOf b 0).map fun t => t.covers (centre 1 2)) = some false ∧ ((triOf b 1).map fun t => t.covers (centre 1 2)) = some true := by decide +kernel

/-- 15_execution_model, after R342: repstate with remaining 2, active, and the flags D and A. -/
theorem test_repstate :
    after (.csrr 4 0x1C) { w0 with rep := { remaining := 2, active := true, steps := 0b110, stride := 0 } } (fun w => w.sregs.get 4 0) =
      some 0x682 := by decide +kernel

end Sys2Proof.Tests
end

section
/-! SUPPORT. The fields of a word read back: a word is its fields side by side, and a slice of it is the field that stands there. -/

namespace Sys2Proof.Encoding

/-! ## Numbers side by side -/

/-- A number above the `n` bits of another. -/
def cat (x n y : Nat) : Nat := x * 2 ^ n + y

/-- Pieces that stand side by side can be bracketed from the top. -/
@[simp] theorem cat_cat {x k y n z : Nat} (h : n ≤ k) : cat x k (cat y n z) = cat (cat x (k - n) y) n z := by
  obtain ⟨j, rfl⟩ := Nat.exists_eq_add_of_le h
  rw [Nat.add_sub_cancel_left]
  unfold cat
  ring

@[simp] theorem zero_cat (n y : Nat) : cat 0 n y = y := by simp [cat]

theorem cat_div {x n y : Nat} (hy : y < 2 ^ n) : cat x n y / 2 ^ n = x := by
  unfold cat
  rw [Nat.add_comm, Nat.add_mul_div_right _ _ (Nat.two_pow_pos n), Nat.div_eq_of_lt hy, Nat.zero_add]

theorem cat_mod {x n y : Nat} (hy : y < 2 ^ n) : cat x n y % 2 ^ n = y := by
  unfold cat
  rw [Nat.mul_comm, Nat.mul_add_mod, Nat.mod_eq_of_lt hy]

/-- A slice that begins above the lower number is a slice of the upper one. -/
@[simp] theorem bits_cat_above {x n y hi lo : Nat} (h : n ≤ lo) (hl : lo ≤ hi) (hy : y < 2 ^ n) :
    bits (cat x n y) hi lo = bits x (hi - n) (lo - n) := by
  obtain ⟨k, rfl⟩ := Nat.exists_eq_add_of_le h
  unfold bits
  rw [Nat.pow_add, ← Nat.div_div_eq_div_mul, cat_div hy, Nat.add_sub_cancel_left, show hi + 1 - (n + k) = hi - n + 1 - k by omega]

/-- A slice that ends below the upper number is a slice of the lower one. -/
@[simp] theorem bits_cat_below {x n y hi lo : Nat} (h : hi < n) : bits (cat x n y) hi lo = bits y hi lo := by
  have split (z : Nat) : bits z hi lo = z % 2 ^ (hi + 1) / 2 ^ lo := by
    rcases Nat.le_total lo (hi + 1) with hl | hl
    · rw [bits, ← Nat.mod_mul_right_div_self, ← Nat.pow_add, Nat.add_sub_cancel' hl]
    · rw [bits, Nat.sub_eq_zero_of_le hl, Nat.pow_zero, Nat.mod_one,
        Nat.div_eq_of_lt ((Nat.mod_lt _ (Nat.two_pow_pos _)).trans_le (Nat.pow_le_pow_right (by decide) hl))]
  obtain ⟨k, rfl⟩ := Nat.exists_eq_add_of_le (Nat.succ_le_of_lt h)
  rw [split, split, cat, Nat.succ_eq_add_one, Nat.pow_add, Nat.mul_left_comm, Nat.mul_add_mod]

/-- A slice over the place where two numbers meet is a slice of each, side by side. -/
@[simp] theorem bits_cat_across {x n y hi lo : Nat} (hl : lo < n) (h : n ≤ hi) (hy : y < 2 ^ n) :
    bits (cat x n y) hi lo = cat (bits x (hi - n) 0) (n - lo) (bits y (n - 1) lo) := by
  obtain ⟨k, rfl⟩ := Nat.exists_eq_add_of_lt hl
  have hq : cat x (lo + k + 1) y / 2 ^ lo = cat x (k + 1) (y / 2 ^ lo) := by
    rw [cat, cat, Nat.add_assoc, Nat.pow_add, Nat.mul_left_comm, Nat.mul_add_div (Nat.two_pow_pos lo)]
  have hr : y / 2 ^ lo < 2 ^ (k + 1) := by
    rw [Nat.div_lt_iff_lt_mul (Nat.two_pow_pos lo), ← Nat.pow_add, Nat.add_comm, ← Nat.add_assoc]
    exact hy
  unfold bits
  rw [hq, show hi + 1 - lo = k + 1 + (hi - (lo + k + 1) + 1 - 0) by omega, Nat.pow_add, Nat.mod_mul, cat_div hr, cat_mod hr, Nat.pow_zero, Nat.div_one,
    show lo + k + 1 - lo = k + 1 by omega, show lo + k + 1 - 1 + 1 - lo = k + 1 by omega, Nat.mod_eq_of_lt hr, Nat.add_comm, Nat.mul_comm, ← cat]

/-- A number is the slice that it fits. -/
@[simp] theorem bits_of_lt {x hi : Nat} (h : x < 2 ^ (hi + 1)) : bits x hi 0 = x := by
  rw [bits, Nat.pow_zero, Nat.div_one]
  exact Nat.mod_eq_of_lt h

/-- Above the bits of a number there are zeros. -/
@[simp] theorem bits_eq_zero_of_lt {x hi lo : Nat} (h : x < 2 ^ lo) : bits x hi lo = 0 := by
  rw [bits, Nat.div_eq_of_lt h, Nat.zero_mod]

theorem bitAt_eq (x i : Nat) : bitAt x i = (bits x i i == 1) := by
  rw [bitAt, bits, Nat.add_sub_cancel_left, Nat.pow_one]

/-! ## The contents of fields -/

@[simp] theorem toNat_lt_of_le {m n : Nat} (x : BitVec m) (h : 2 ^ m ≤ n) : x.toNat < n := x.isLt.trans_le h

@[simp] theorem bit_lt_of_lt {n : Nat} (b : Bool) (h : 1 < n) : bit b < n := (bit_le b).trans_lt h

@[simp] theorem bit_le_one (b : Bool) : bit b ≤ 1 := bit_le b

@[simp] theorem bit_beq_one (b : Bool) : (bit b == 1) = b := by cases b <;> rfl

@[simp] theorem ICc.ofCode_code (x : ICc) : ICc.ofCode x.code = some x := by cases x <;> rfl

@[simp] theorem FCc.ofCode_code (x : FCc) : FCc.ofCode x.code = some x := by cases x <;> rfl

@[simp] theorem Rnd.ofCode_code (x : Rnd) : Rnd.ofCode x.code = some x := by cases x <;> rfl

@[simp] theorem Half.ofCode_code (x : Half) : Half.ofCode x.code = some x := by cases x <;> rfl

@[simp] theorem NumTy.ofCode_code (x : NumTy) : NumTy.ofCode x.code = some x := by cases x <;> rfl

@[simp] theorem UnpkTy.ofCode_code (x : UnpkTy) : UnpkTy.ofCode x.code = some x := by cases x <;> rfl

@[simp] theorem Width.ofCode_code (x : Width) : Width.ofCode x.code = some x := by cases x <;> rfl

@[simp] theorem AWidth.ofCode_code (x : AWidth) : AWidth.ofCode x.code = some x := by cases x <;> rfl

@[simp] theorem Scope.ofCode_code (x : Scope) : Scope.ofCode x.code = some x := by cases x <;> rfl

@[simp] theorem FScope.ofCode_code (x : FScope) : FScope.ofCode x.code = some x := by cases x <;> rfl

@[simp] theorem FKind.ofCode_code (x : FKind) : FKind.ofCode x.code = some x := by cases x <;> rfl

@[simp] theorem AtomOp.ofCode_code (x : AtomOp) : AtomOp.ofCode x.code = some x := by cases x <;> rfl

@[simp] theorem PLevel.ofCode_code (x : PLevel) : PLevel.ofCode x.code = some x := by cases x <;> rfl

@[simp] theorem MmaFmt.ofCode_code (x : MmaFmt) : MmaFmt.ofCode x.code = some x := by cases x <;> rfl

@[simp] theorem MmacFmt.ofCode_code (x : MmacFmt) : MmacFmt.ofCode x.code = some x := by cases x <;> rfl

@[simp] theorem SlabCnt.ofCode_code (x : SlabCnt) : SlabCnt.ofCode x.code = some x := by cases x <;> rfl

@[simp] theorem Dst.ofCode_code (x : Dst) : Dst.ofCode x.code = some x := by cases x <;> rfl

/-! ## The layouts (02_encoding R25) -/

@[simp] theorem bits_a3 (m d a b f hi lo : Nat) : bits (a3 m d a b f) hi lo = bits (cat (cat (cat (cat m 7 d) 7 a) 7 b) 4 f) hi lo := by
  rw [show a3 m d a b f = cat (cat (cat (cat m 7 d) 7 a) 7 b) 4 f by unfold a3 cat; omega]

@[simp] theorem bits_ai (m d a i f hi lo : Nat) : bits (ai m d a i f) hi lo = bits (cat (cat (cat (cat m 7 d) 7 a) 8 i) 3 f) hi lo := by
  rw [show ai m d a i f = cat (cat (cat (cat m 7 d) 7 a) 8 i) 3 f by unfold ai cat; omega]

@[simp] theorem bits_mf (m d a s w f hi lo : Nat) :
    bits (mf m d a s w f) hi lo = bits (cat (cat (cat (cat (cat m 7 d) 7 a) 4 s) 2 w) 5 f) hi lo := by
  rw [show mf m d a s w f = cat (cat (cat (cat (cat m 7 d) 7 a) 4 s) 2 w) 5 f by unfold mf cat; omega]

@[simp] theorem bits_bf (k p n d hi lo : Nat) : bits (bf k p n d) hi lo = bits (cat (cat (cat (cat (cat 0x01 3 k) 3 p) 1 n) 8 d) 10 0) hi lo := by
  rw [show bf k p n d = cat (cat (cat (cat (cat 0x01 3 k) 3 p) 1 n) 8 d) 10 0 by unfold bf cat; omega]

@[simp] theorem bits_xf (m z a b f l hi lo : Nat) :
    bits (xf m z a b f l) hi lo = bits (cat (cat (cat (cat (cat m 5 z) 7 a) 4 b) 4 f) 5 l) hi lo := by
  rw [show xf m z a b f l = cat (cat (cat (cat (cat m 5 z) 7 a) 4 b) 4 f) 5 l by unfold xf cat; omega]

@[simp] theorem bits_zf (z s a t l f hi lo : Nat) :
    bits (zf z s a t l f) hi lo = bits (cat (cat (cat (cat (cat (cat 0x32 5 z) 2 s) 7 a) 2 t) 1 l) 8 f) hi lo := by
  rw [show zf z s a t l f = cat (cat (cat (cat (cat (cat 0x32 5 z) 2 s) 7 a) 2 t) 1 l) 8 f by unfold zf cat; omega]

@[simp] theorem bits_lf (n e f hi lo : Nat) : bits (lf n e f) hi lo = bits (cat (cat (cat 0x03 8 n) 8 e) 9 f) hi lo := by
  rw [show lf n e f = cat (cat (cat 0x03 8 n) 8 e) 9 f by unfold lf cat; omega]

@[simp] theorem bits_pf (n x y z s hi lo : Nat) :
    bits (pf n x y z s) hi lo = bits (cat (cat (cat (cat (cat (cat 0x04 6 n) 1 x) 1 y) 1 z) 2 s) 14 0) hi lo := by
  rw [show pf n x y z s = cat (cat (cat (cat (cat (cat 0x04 6 n) 1 x) 1 y) 1 z) 2 s) 14 0 by unfold pf cat; omega]

@[simp] theorem bits_wf (l s c t hi lo : Nat) : bits (wf l s c t) hi lo = bits (cat (cat (cat (cat (cat 0x05 6 l) 6 s) 6 c) 6 t) 1 0) hi lo := by
  rw [show wf l s c t = cat (cat (cat (cat (cat 0x05 6 l) 6 s) 6 c) 6 t) 1 0 by unfold wf cat; omega]

@[simp] theorem bits_cf (d a e f r s hi lo : Nat) :
    bits (cf d a e f r s) hi lo = bits (cat (cat (cat (cat (cat (cat 0x16 7 d) 7 a) 4 e) 4 f) 2 r) 1 s) hi lo := by
  rw [show cf d a e f r s = cat (cat (cat (cat (cat (cat 0x16 7 d) 7 a) 4 e) 4 f) 2 r) 1 s by unfold cf cat; omega]

/-- The flags of an LD word (10_memory_instructions R200). -/
theorem ldFlags_eq (q g x m : Nat) : q * 16 + g * 4 + x * 2 + m = cat (cat (cat q 2 g) 1 x) 1 m := by
  unfold cat; omega

/-- The flags of an ST word (10_memory_instructions R200). -/
theorem stFlags_eq (q g m : Nat) : q * 16 + g * 4 + m = cat (cat q 2 g) 2 m := by
  unfold cat; omega

/-- The flags of an MMA word (06_matrix R129). -/
theorem mmaFlags_eq (t m u n : Nat) : t * 8 + m * 4 + u * 2 + n = cat (cat (cat t 1 m) 1 u) 1 n := by
  unfold cat; omega

/-- The flags of an MMAC word (06_matrix R130). -/
theorem mmacFlags_eq (x t u n : Nat) : x * 16 + t * 8 + u * 2 + n = cat (cat (cat x 1 t) 2 u) 1 n := by
  unfold cat; omega

/-- The mode bits of an FRND word (05_vector_scalar R102). -/
theorem frndFields_eq (x r : Nat) : x * 64 + r * 16 + 3 = cat (cat x 2 r) 4 3 := by
  unfold cat; omega

/-- Scope and kind of a FENCE word (09_consistency R188). -/
theorem fenceFields_eq (s k : Nat) : s * 16 + k * 4 = cat (cat s 2 k) 2 0 := by
  unfold cat; omega

end Sys2Proof.Encoding
end

section
/-! SUPPORT. The words of each major read by its decoder: tables of function codes and instructions. -/

namespace Sys2Proof.Encoding

/-- The decoder of a major (03_opcode_map R46, R49). -/
def decoderOf (m w : Nat) : Except DecodeTrap Instr :=
  match m with
  | 0x00 => decodeCtl w
  | 0x01 => decodeBr w
  | 0x02 => decodeJmp w
  | 0x03 => decodeLoop w
  | 0x04 => decodeRep w
  | 0x05 => decodeWait w
  | 0x06 => decodeTrap w
  | 0x07 => decodeFib w
  | 0x08 => decodeSalu w
  | 0x09 => decodeSalui w
  | 0x0A => decodeScmp w
  | 0x0B => decodeCsr w
  | 0x0C => decodeIalu w
  | 0x0D => decodeIalui w
  | 0x0E => decodeImisc w
  | 0x0F => decodeIcmp w
  | 0x10 => decodeFalu w
  | 0x11 => decodeFalu2 w
  | 0x12 => decodeFmisc w
  | 0x13 => decodeFcmp w
  | 0x14 => decodePkf w
  | 0x15 => decodeDot w
  | 0x16 => decodeCvt w
  | 0x17 => decodeSfu w
  | 0x18 => decodeXlane w
  | 0x19 => decodePred w
  | 0x1A => decodeCvtpk w
  | 0x1B => decodeSel w
  | 0x20 => decodeLd w
  | 0x21 => decodeSt w
  | 0x22 => decodeSpm w
  | 0x23 => decodeLpv w
  | 0x24 => decodeRmt w
  | 0x25 => decodeAtom w
  | 0x26 => decodeAtoms w
  | 0x27 => decodeMemx w
  | 0x28 => decodeQstr w
  | 0x29 => decodeCpy w
  | 0x2A => decodeCb w
  | 0x2B => decodeBar w
  | 0x2C => decodeOrd w
  | 0x30 => decodeMma w
  | 0x31 => decodeMmac w
  | 0x32 => decodeZop w
  | 0x33 => decodeGfx w
  | 0x34 => decodeTex w
  | 0x35 => decodePlot w
  | 0x36 => decodeSys w
  | _ => .error .reserved

/-- The fields of a word are read by the decoder of its major. -/
theorem decodeFields_eq (w : Nat) : decodeFields w = decoderOf (bits w 30 25) w := rfl

/-- Rows of a table of function codes: the words of the codes are the words of the instructions, each lies in the major `m`, and the decoder `f` of
that major reads its instruction. -/
structure Rows (m : Nat) (f : Nat → Except DecodeTrap Instr) (word : Nat → Nat) (rows : List (Nat × Instr)) : Prop where
  words : rows.map (fun p => word p.1) = rows.map (fun p => encode p.2)
  major : decoderOf m = f
  reads : ∀ p ∈ rows, bits (word p.1) 30 25 = m ∧ f (word p.1) = .ok p.2

/-- Each instruction of a table is read back from its word. The membership is of an instruction in a table written out. -/
theorem Rows.decodes {m : Nat} {f : Nat → Except DecodeTrap Instr} {word : Nat → Nat} {rows : List (Nat × Instr)} (h : Rows m f word rows) {i : Instr}
    (hi : i ∈ rows.map Prod.snd := by simp only [List.map_cons, List.mem_cons, true_or, or_true]) : decodeFields (encode i) = .ok i := by
  obtain ⟨p, hp, rfl⟩ := List.mem_map.mp hi
  obtain ⟨hm, hd⟩ := h.reads p hp
  rw [List.map_inj_left.mp h.words p hp] at hm hd
  rw [decodeFields_eq, hm, h.major]
  exact hd

/-! ## Control -/

theorem ctl_rows : Rows 0x00 decodeCtl (a3 0x00 0 0 0) [(0, .nop), (1, .halt), (2, .exit), (3, .yield), (4, .conv), (5, .tret), (6, .brk)] := by
  refine ⟨rfl, rfl, ?_⟩
  simp [decodeCtl, need]

theorem bra_row (d : BitVec 8) : Rows 0x01 decodeBr (fun k => bf k 0 0 d.toNat) [(0, .bra d)] := by
  refine ⟨rfl, rfl, ?_⟩
  simp [decodeBr, need]

theorem br_rows (p : PReg) (n : Bool) (d : BitVec 8) :
    Rows 0x01 decodeBr (fun k => bf k p.toNat (bit n) d.toNat) [(1, .br p n d), (2, .brall p n d), (3, .brany p n d)] := by
  refine ⟨rfl, rfl, ?_⟩
  simp [decodeBr, need, bitAt_eq]

theorem jmp_rows (a : BitVec 7) : Rows 0x02 decodeJmp (ai 0x02 0 a.toNat 0) [(0, .jmps a), (1, .jmpv a), (4, .ret a)] := by
  refine ⟨rfl, rfl, ?_⟩
  simp [decodeJmp, need]

theorem call_row (d : VReg) (k : BitVec 3) (i : BitVec 8) : Rows 0x02 decodeJmp (ai 0x02 d.toNat k.toNat i.toNat) [(2, .call d k i)] := by
  refine ⟨rfl, rfl, ?_⟩
  simp [decodeJmp, need]

theorem callv_row (d a : VReg) (k : BitVec 3) : Rows 0x02 decodeJmp (ai 0x02 d.toNat a.toNat k.toNat) [(3, .callv d a k)] := by
  refine ⟨rfl, rfl, ?_⟩
  simp [decodeJmp, need]

theorem loopi_row (n e : BitVec 8) : Rows 0x03 decodeLoop (lf n.toNat e.toNat) [(0, .loopi n e)] := by
  refine ⟨rfl, rfl, ?_⟩
  simp [decodeLoop, need]

theorem loops_row (s : SReg) (e : BitVec 8) : Rows 0x03 decodeLoop (lf (cat s.toNat 1 0) e.toNat) [(1, .loops s e)] := by
  refine ⟨rfl, rfl, ?_⟩
  simp [decodeLoop, need]

theorem lbrk_row : Rows 0x03 decodeLoop (lf 0 0) [(2, .lbrk)] := by
  refine ⟨rfl, rfl, ?_⟩
  simp [decodeLoop, need]

theorem rep_row (n : BitVec 6) (x y z : Bool) (s : BitVec 2) :
    Rows 0x04 decodeRep (fun s => pf n.toNat (bit x) (bit y) (bit z) s) [(s.toNat, .rep n x y z s)] := by
  refine ⟨rfl, rfl, ?_⟩
  simp [decodeRep, need, bitAt_eq]

theorem wait_row (l s p t : BitVec 6) : Rows 0x05 decodeWait (wf l.toNat s.toNat p.toNat) [(t.toNat, .wait l s p t)] := by
  refine ⟨rfl, rfl, ?_⟩
  simp [decodeWait, need]

theorem trap_row (k : BitVec 8) : Rows 0x06 decodeTrap (fun k => 0x06 * 2 ^ 25 + k * 2 ^ 17) [(k.toNat, .trap k)] := by
  have h : 0x06 * 2 ^ 25 + k.toNat * 2 ^ 17 = cat (cat 0x06 8 k.toNat) 17 0 := by unfold cat; omega
  refine ⟨rfl, rfl, ?_⟩
  simp only [List.forall_mem_singleton, h]
  simp [decodeTrap, need]

theorem spawn_rows (d a : VReg) (i : BitVec 8) : Rows 0x07 decodeFib (ai 0x07 d.toNat a.toNat i.toNat) [(0, .spawn d a i), (1, .spawnp d a i)] := by
  refine ⟨rfl, rfl, ?_⟩
  simp [decodeFib]

theorem regroup_rows (a : VReg) (i : BitVec 8) : Rows 0x07 decodeFib (ai 0x07 0 a.toNat i.toNat) [(2, .regroup a i), (5, .fibwr a i)] := by
  refine ⟨rfl, rfl, ?_⟩
  simp [decodeFib, need]

theorem flushrg_row : Rows 0x07 decodeFib (ai 0x07 0 0 0) [(3, .flushrg)] := by
  refine ⟨rfl, rfl, ?_⟩
  simp [decodeFib, need]

theorem fibrd_row (d : VReg) (i : BitVec 8) : Rows 0x07 decodeFib (ai 0x07 d.toNat 0 i.toNat) [(4, .fibrd d i)] := by
  refine ⟨rfl, rfl, ?_⟩
  simp [decodeFib, need]

/-! ## The S pipe -/

theorem salu_rows (d a b : SReg) : Rows 0x08 decodeSalu (a3 0x08 d.toNat a.toNat b.toNat)
    [(0, .sadd d a b), (1, .ssub d a b), (2, .smul d a b), (3, .smulh d a b), (4, .sand d a b), (5, .sor d a b), (6, .sxor d a b),
      (7, .sshl d a b), (8, .sshr d a b), (9, .ssra d a b), (10, .smin d a b), (11, .smax d a b), (12, .sminu d a b), (13, .smaxu d a b)] := by
  refine ⟨rfl, rfl, ?_⟩
  simp [decodeSalu]

theorem smov_row (d a : SReg) : Rows 0x08 decodeSalu (a3 0x08 d.toNat a.toNat 0) [(14, .smov d a)] := by
  refine ⟨rfl, rfl, ?_⟩
  simp [decodeSalu, need]

theorem salui_rows (d a : SReg) (i : BitVec 8) : Rows 0x09 decodeSalui (ai 0x09 d.toNat a.toNat i.toNat)
    [(0, .saddi d a i), (1, .sandi d a i), (2, .sori d a i), (3, .sxori d a i)] := by
  refine ⟨rfl, rfl, ?_⟩
  simp [decodeSalui]

theorem sshift_rows (d a : SReg) (i : BitVec 5) : Rows 0x09 decodeSalui (ai 0x09 d.toNat a.toNat i.toNat)
    [(4, .sshli d a i), (5, .sshri d a i), (6, .ssrai d a i)] := by
  refine ⟨rfl, rfl, ?_⟩
  simp [decodeSalui, need]

theorem sbyte_row (d : SReg) (a : BitVec 2) (i : BitVec 8) : Rows 0x09 decodeSalui (ai 0x09 d.toNat a.toNat i.toNat) [(7, .sbyte d a i)] := by
  refine ⟨rfl, rfl, ?_⟩
  simp [decodeSalui, need]

theorem scmp_row (p : PReg) (a b : SReg) (k : ICc) : Rows 0x0A decodeScmp (a3 0x0A p.toNat a.toNat b.toNat) [(k.code, .scmp p a b k)] := by
  refine ⟨rfl, rfl, ?_⟩
  simp [decodeScmp, need, ICc.code_lt]

theorem csrr_rows (d : SReg) (i : BitVec 8) : Rows 0x0B decodeCsr (ai 0x0B d.toNat 0 i.toNat) [(0, .csrr d i), (2, .spr d i)] := by
  refine ⟨rfl, rfl, ?_⟩
  simp [decodeCsr, need]

theorem csrw_row (a : SReg) (i : BitVec 8) : Rows 0x0B decodeCsr (ai 0x0B 0 a.toNat i.toNat) [(1, .csrw a i)] := by
  refine ⟨rfl, rfl, ?_⟩
  simp [decodeCsr, need]

theorem rdlane_row (d : SReg) (a : VReg) (i : BitVec 8) : Rows 0x0B decodeCsr (ai 0x0B d.toNat a.toNat i.toNat) [(3, .rdlane d a i)] := by
  refine ⟨rfl, rfl, ?_⟩
  simp [decodeCsr]

theorem movs_row (d : VReg) (a : SReg) : Rows 0x0B decodeCsr (ai 0x0B d.toNat a.toNat 0) [(4, .movs d a)] := by
  refine ⟨rfl, rfl, ?_⟩
  simp [decodeCsr, need]

/-! ## The V pipe -/

theorem ialu_rows (d a b : VReg) : Rows 0x0C decodeIalu (a3 0x0C d.toNat a.toNat b.toNat)
    [(0, .iadd d a b), (1, .isub d a b), (2, .imul d a b), (3, .imulh d a b), (4, .imulhu d a b), (5, .iand d a b), (6, .ior d a b),
      (7, .ixor d a b), (8, .andn d a b), (9, .shl d a b), (10, .shr d a b), (11, .sra d a b), (12, .imin d a b), (13, .imax d a b),
      (14, .iminu d a b), (15, .imaxu d a b)] := by
  refine ⟨rfl, rfl, ?_⟩
  simp [decodeIalu]

theorem ialui_rows (d a : VReg) (i : BitVec 8) : Rows 0x0D decodeIalui (ai 0x0D d.toNat a.toNat i.toNat)
    [(0, .iaddi d a i), (1, .andi d a i), (2, .ori d a i), (3, .xori d a i)] := by
  refine ⟨rfl, rfl, ?_⟩
  simp [decodeIalui]

theorem shift_rows (d a : VReg) (i : BitVec 5) : Rows 0x0D decodeIalui (ai 0x0D d.toNat a.toNat i.toNat)
    [(4, .shli d a i), (5, .shri d a i), (6, .srai d a i)] := by
  refine ⟨rfl, rfl, ?_⟩
  simp [decodeIalui, need]

theorem movi_row (d : VReg) (i : BitVec 8) : Rows 0x0D decodeIalui (ai 0x0D d.toNat 0 i.toNat) [(7, .movi d i)] := by
  refine ⟨rfl, rfl, ?_⟩
  simp [decodeIalui, need]

theorem imisc_unary_rows (d a : VReg) : Rows 0x0E decodeImisc (a3 0x0E d.toNat a.toNat 0)
    [(0, .iabs d a), (1, .ineg d a), (2, .inot d a), (3, .popc d a), (4, .clz d a), (5, .brev d a)] := by
  refine ⟨rfl, rfl, ?_⟩
  simp [decodeImisc, need]

theorem imisc_rows (d a b : VReg) : Rows 0x0E decodeImisc (a3 0x0E d.toNat a.toNat b.toNat)
    [(6, .bfe d a b), (7, .bfeu d a b), (8, .bfi d a b), (9, .imad d a b), (10, .idiv d a b), (11, .idivu d a b), (12, .irem d a b),
      (13, .iremu d a b), (14, .iadds d a b), (15, .isubs d a b)] := by
  refine ⟨rfl, rfl, ?_⟩
  simp [decodeImisc]

theorem icmp_row (p : PReg) (a b : VReg) (k : ICc) : Rows 0x0F decodeIcmp (a3 0x0F p.toNat a.toNat b.toNat) [(k.code, .icmp p a b k)] := by
  refine ⟨rfl, rfl, ?_⟩
  simp [decodeIcmp, need, ICc.code_lt]

theorem falu_rows (d a b : VReg) (r : Rnd) : Rows 0x10 decodeFalu (fun f => a3 0x10 d.toNat a.toNat b.toNat (cat r.code 2 f))
    [(0, .fadd d a b r), (1, .fsub d a b r), (2, .fmul d a b r), (3, .ffma d a b r)] := by
  refine ⟨rfl, rfl, ?_⟩
  simp [decodeFalu, Rnd.code_lt]

theorem falu2_rows (d a b : VReg) : Rows 0x11 decodeFalu2 (a3 0x11 d.toNat a.toNat b.toNat)
    [(0, .fmin d a b), (1, .fmax d a b), (2, .fminm d a b), (3, .fmaxm d a b), (4, .fcpys d a b), (5, .fscale d a b)] := by
  refine ⟨rfl, rfl, ?_⟩
  simp [decodeFalu2]

theorem fmisc_rows (d a : VReg) : Rows 0x12 decodeFmisc (fun f => a3 0x12 d.toNat a.toNat f 0)
    [(0, .fabs d a), (1, .fneg d a), (2, .fclass d a), (4, .fsat d a), (5, .fgete d a), (6, .fgetm d a)] := by
  refine ⟨rfl, rfl, ?_⟩
  simp [decodeFmisc, need]

theorem frnd_row (d a : VReg) (x : Bool) (r : Rnd) :
    Rows 0x12 decodeFmisc (a3 0x12 d.toNat a.toNat (bit x * 64 + r.code * 16 + 3)) [(0, .frnd d a x r)] := by
  refine ⟨rfl, rfl, ?_⟩
  simp [decodeFmisc, need, bitAt_eq, frndFields_eq, Rnd.code_lt]

theorem fcmp_row (p : PReg) (a b : VReg) (k : FCc) : Rows 0x13 decodeFcmp (a3 0x13 p.toNat a.toNat b.toNat) [(k.code, .fcmp p a b k)] := by
  refine ⟨rfl, rfl, ?_⟩
  simp [decodeFcmp, need, FCc.code_lt]

theorem pkf_rows (d a b : VReg) (t : Half) : Rows 0x14 decodePkf (fun f => a3 0x14 d.toNat a.toNat b.toNat (cat t.code 3 f))
    [(0, .hadd2 d a b t), (1, .hsub2 d a b t), (2, .hmul2 d a b t), (3, .hfma2 d a b t), (4, .hmin2 d a b t), (5, .hmax2 d a b t)] := by
  refine ⟨rfl, rfl, ?_⟩
  simp [decodePkf, Nat.le_of_lt_succ t.code_lt]

theorem dot_rows (d a b : VReg) : Rows 0x15 decodeDot (a3 0x15 d.toNat a.toNat b.toNat)
    [(0, .dot2h d a b), (1, .dot2b d a b), (2, .dot4e4 d a b), (3, .dot4e5 d a b), (4, .dot4i d a b), (5, .dot4in d a b), (6, .dot8f d a b),
      (7, .dot4s d a b)] := by
  refine ⟨rfl, rfl, ?_⟩
  simp [decodeDot]

theorem cvt_row (d a : VReg) (e f : NumTy) (r : Rnd) (s : Bool) (h : f.pair e = true) :
    Rows 0x16 decodeCvt (cf d.toNat a.toNat e.code f.code r.code) [(bit s, .cvt d a e f r s)] := by
  refine ⟨rfl, rfl, ?_⟩
  simp [decodeCvt, bitAt_eq, NumTy.code_lt, Rnd.code_lt, h]

theorem sfu_rows (d a : VReg) : Rows 0x17 decodeSfu (a3 0x17 d.toNat a.toNat 0)
    [(0, .rcp d a), (1, .rsq d a), (2, .sqrt d a), (3, .exp2 d a), (4, .log2 d a), (5, .sin d a), (6, .cos d a), (7, .tanh d a)] := by
  refine ⟨rfl, rfl, ?_⟩
  simp [decodeSfu, need]

theorem shuffle_rows (d a : VReg) (b : BitVec 7) : Rows 0x18 decodeXlane (a3 0x18 d.toNat a.toNat b.toNat)
    [(0, .shfli d a b), (1, .shflu d a b), (2, .shfld d a b), (3, .shflx d a b), (4, .bcast d a b)] := by
  refine ⟨rfl, rfl, ?_⟩
  simp [decodeXlane]

theorem vote_rows (d a : PReg) : Rows 0x18 decodeXlane (a3 0x18 d.toNat a.toNat 0) [(5, .voteany d a), (6, .voteall d a)] := by
  refine ⟨rfl, rfl, ?_⟩
  simp [decodeXlane, need]

theorem ballot_row (d : VReg) (a : PReg) : Rows 0x18 decodeXlane (a3 0x18 d.toNat a.toNat 0) [(7, .ballot d a)] := by
  refine ⟨rfl, rfl, ?_⟩
  simp [decodeXlane, need]

theorem wred_rows (d a : VReg) : Rows 0x18 decodeXlane (a3 0x18 d.toNat a.toNat 0)
    [(8, .matchv d a), (9, .wredadd d a), (10, .wredfadd d a), (11, .wredmin d a), (12, .wredmax d a), (13, .wredfmax d a), (14, .wscan d a)] := by
  refine ⟨rfl, rfl, ?_⟩
  simp [decodeXlane, need]

theorem pred_rows (d a b : PReg) : Rows 0x19 decodePred (a3 0x19 d.toNat a.toNat b.toNat)
    [(0, .pand d a b), (1, .por d a b), (2, .pxor d a b), (3, .pandn d a b)] := by
  refine ⟨rfl, rfl, ?_⟩
  simp [decodePred, need]

theorem pnot_row (d a : PReg) : Rows 0x19 decodePred (a3 0x19 d.toNat a.toNat 0) [(4, .pnot d a)] := by
  refine ⟨rfl, rfl, ?_⟩
  simp [decodePred, need]

theorem prdw_row (d : VReg) : Rows 0x19 decodePred (a3 0x19 d.toNat 0 0) [(5, .prdw d)] := by
  refine ⟨rfl, rfl, ?_⟩
  simp [decodePred, need]

theorem pwrw_row (a : VReg) : Rows 0x19 decodePred (a3 0x19 0 a.toNat 0) [(6, .pwrw a)] := by
  refine ⟨rfl, rfl, ?_⟩
  simp [decodePred, need]

theorem cvtpk_rows (d a b : VReg) (s : Bool) : Rows 0x1A decodeCvtpk (fun f => a3 0x1A d.toNat a.toNat b.toNat (cat (bit s) 3 f))
    [(0, .pk2h d a b s), (1, .pk2b d a b s), (2, .pk4e4 d a b s), (3, .pk4e5 d a b s), (4, .pk8f d a b s)] := by
  refine ⟨rfl, rfl, ?_⟩
  simp [decodeCvtpk, bitAt_eq]

theorem unpk_rows (d a : VReg) (t : UnpkTy) : Rows 0x1A decodeCvtpk (a3 0x1A d.toNat a.toNat t.code) [(5, .unpklo d a t), (6, .unpkhi d a t)] := by
  have h : t.code < 16 := t.code_lt.trans (by decide)
  have h' : t.code < 128 := t.code_lt.trans (by decide)
  refine ⟨rfl, rfl, ?_⟩
  simp [decodeCvtpk, need, h, h']

theorem sel_row (d a b : VReg) (p : PReg) : Rows 0x1B decodeSel (fun x => a3 0x1B d.toNat a.toNat b.toNat (cat x 1 0)) [(p.toNat, .sel d a b p)] := by
  refine ⟨rfl, rfl, ?_⟩
  simp [decodeSel, need]

/-! ## Memory -/

theorem ld_row (d a : VReg) (s : BitVec 4) (w : Width) (q : Bool) (g : Scope) (x m : Bool) :
    Rows 0x20 decodeLd (fun f => mf 0x20 d.toNat a.toNat s.toNat w.code (bit q * 16 + g.code * 4 + bit x * 2 + f)) [(bit m, .ld d a s w q g x m)] := by
  refine ⟨rfl, rfl, ?_⟩
  simp [decodeLd, bitAt_eq, ldFlags_eq, Width.code_lt, Scope.code_lt]

theorem st_row (d a : VReg) (s : BitVec 4) (w : Width) (q : Bool) (g : Scope) (m : Bool) :
    Rows 0x21 decodeSt (fun f => mf 0x21 d.toNat a.toNat s.toNat w.code (bit q * 16 + g.code * 4 + f)) [(bit m, .st d a s w q g m)] := by
  refine ⟨rfl, rfl, ?_⟩
  simp [decodeSt, need, bitAt_eq, stFlags_eq, Width.code_lt, Scope.code_lt]

theorem lds_row (d a : VReg) (s : BitVec 4) (w : Width) (x : Bool) :
    Rows 0x22 decodeSpm (mf 0x22 d.toNat a.toNat s.toNat w.code) [(bit x * 2, .lds d a s w x)] := by
  refine ⟨rfl, rfl, ?_⟩
  simp [decodeSpm, need, bitAt_eq, Width.code_lt, show bit x * 2 = cat (bit x) 1 0 from rfl]

theorem sts_row (d a : VReg) (s : BitVec 4) (w : Width) : Rows 0x22 decodeSpm (mf 0x22 d.toNat a.toNat s.toNat w.code) [(8, .sts d a s w)] := by
  refine ⟨rfl, rfl, ?_⟩
  simp [decodeSpm, need, Width.code_lt, show bits 8 4 3 = 1 from rfl, show bits 8 2 0 = 0 from rfl]

theorem ldp_row (d a : VReg) (s : BitVec 4) (w : Width) (x : Bool) :
    Rows 0x23 decodeLpv (mf 0x23 d.toNat a.toNat s.toNat w.code) [(bit x * 2, .ldp d a s w x)] := by
  refine ⟨rfl, rfl, ?_⟩
  simp [decodeLpv, need, bitAt_eq, Width.code_lt, show bit x * 2 = cat (bit x) 1 0 from rfl]

theorem stp_row (d a : VReg) (s : BitVec 4) (w : Width) : Rows 0x23 decodeLpv (mf 0x23 d.toNat a.toNat s.toNat w.code) [(8, .stp d a s w)] := by
  refine ⟨rfl, rfl, ?_⟩
  simp [decodeLpv, need, Width.code_lt, show bits 8 4 3 = 1 from rfl, show bits 8 2 0 = 0 from rfl]

theorem rmt_rows (d a k : VReg) (g : BitVec 2) :
    Rows 0x24 decodeRmt (fun f => a3 0x24 d.toNat a.toNat k.toNat (cat g.toNat 2 f)) [(0, .rld d a k g), (1, .rst d a k g)] := by
  refine ⟨rfl, rfl, ?_⟩
  simp [decodeRmt]

theorem mcst_row (d a : VReg) (g : BitVec 2) : Rows 0x24 decodeRmt (fun f => a3 0x24 d.toNat a.toNat 0 (cat g.toNat 2 f)) [(2, .mcst d a g)] := by
  refine ⟨rfl, rfl, ?_⟩
  simp [decodeRmt, need]

theorem atom_row (d a : VReg) (s : BitVec 4) (w : AWidth) (o : AtomOp) (r : Bool) :
    Rows 0x25 decodeAtom (fun f => mf 0x25 d.toNat a.toNat s.toNat w.code (cat o.code 1 f)) [(bit r, .atom d a s w o r)] := by
  refine ⟨rfl, rfl, ?_⟩
  simp [decodeAtom, bitAt_eq, AWidth.code_lt, AtomOp.code_lt]

/-- The two operations that ATOMS does not have are those of the last two codes (10_memory_instructions R209). -/
theorem AtomOp.code_lt_of_ne (o : AtomOp) : o ≠ .incw → o ≠ .decw → o.code < 14 := by
  cases o <;> decide

theorem atoms_row (d a : VReg) (s : BitVec 4) (w : AWidth) (o : AtomOp) (r : Bool) (h : o.code < 14) :
    Rows 0x26 decodeAtoms (fun f => mf 0x26 d.toNat a.toNat s.toNat w.code (cat o.code 1 f)) [(bit r, .atoms d a s w o r)] := by
  refine ⟨rfl, rfl, ?_⟩
  simp [decodeAtoms, bitAt_eq, AWidth.code_lt, AtomOp.code_lt, h]

theorem mcas_row (d a : VReg) (s : BitVec 4) : Rows 0x27 decodeMemx (mf 0x27 d.toNat a.toNat s.toNat 0) [(0, .mcas d a s)] := by
  refine ⟨rfl, rfl, ?_⟩
  simp [decodeMemx, need]

theorem fence_row (s : FScope) (k : FKind) : Rows 0x27 decodeMemx (a3 0x27 (s.code * 16 + k.code * 4) 0 0) [(1, .fence s k)] := by
  refine ⟨rfl, rfl, ?_⟩
  simp [decodeMemx, need, fenceFields_eq, FScope.code_lt, FKind.code_lt]

theorem pref_row (a : VReg) (s : BitVec 4) (l : PLevel) : Rows 0x27 decodeMemx (mf 0x27 0 a.toNat s.toNat l.code) [(2, .pref a s l)] := by
  refine ⟨rfl, rfl, ?_⟩
  simp [decodeMemx, need, PLevel.code_lt]

theorem clean_rows (a : VReg) (s : BitVec 4) : Rows 0x27 decodeMemx (mf 0x27 0 a.toNat s.toNat 0) [(3, .clean a s), (4, .invs a s)] := by
  refine ⟨rfl, rfl, ?_⟩
  simp [decodeMemx, need]

theorem qld_rows (a : SReg) (q : BitVec 2) : Rows 0x28 decodeQstr (a3 0x28 0 a.toNat (cat q.toNat 5 0)) [(0, .qld a q), (1, .qst a q)] := by
  refine ⟨rfl, rfl, ?_⟩
  simp [decodeQstr, need]

theorem qstop_row (q : BitVec 2) : Rows 0x28 decodeQstr (a3 0x28 0 0 (cat q.toNat 5 0)) [(2, .qstop q)] := by
  refine ⟨rfl, rfl, ?_⟩
  simp [decodeQstr, need]

theorem qstat_row (d : SReg) (q : BitVec 2) : Rows 0x28 decodeQstr (a3 0x28 d.toNat 0 (cat q.toNat 5 0)) [(3, .qstat d q)] := by
  refine ⟨rfl, rfl, ?_⟩
  simp [decodeQstr, need]

/-! ## Copies, barriers and ordered sections -/

theorem cpy_rows (a : SReg) (x : Bool) : Rows 0x29 decodeCpy (a3 0x29 a.toNat 0 (bit x))
    [(0, .cpy a x), (1, .cpyt a x), (3, .cpyp a x), (4, .cpym a x), (5, .cpys a x), (6, .cpyb a x)] := by
  refine ⟨rfl, rfl, ?_⟩
  simp [decodeCpy, need, bitAt_eq]

theorem cpyg_row (a : SReg) (v : VReg) (x : Bool) : Rows 0x29 decodeCpy (a3 0x29 a.toNat v.toNat (bit x)) [(2, .cpyg a v x)] := by
  refine ⟨rfl, rfl, ?_⟩
  simp [decodeCpy, need, bitAt_eq]

theorem cbcfg_row (a : SReg) (n : BitVec 4) : Rows 0x2A decodeCb (ai 0x2A 0 a.toNat n.toNat) [(0, .cbcfg a n)] := by
  refine ⟨rfl, rfl, ?_⟩
  simp [decodeCb, need]

theorem cbcom_rows (n : BitVec 4) : Rows 0x2A decodeCb (ai 0x2A 0 0 n.toNat) [(1, .cbcom n), (2, .cbrel n)] := by
  refine ⟨rfl, rfl, ?_⟩
  simp [decodeCb, need]

theorem cbqry_row (d : SReg) (n : BitVec 4) : Rows 0x2A decodeCb (ai 0x2A d.toNat 0 n.toNat) [(3, .cbqry d n)] := by
  refine ⟨rfl, rfl, ?_⟩
  simp [decodeCb, need]

theorem bar_rows (g : Bool) (a b : SReg) : Rows 0x2B decodeBar (a3 0x2B (cat (bit g) 6 0) a.toNat b.toNat)
    [(0, .binit g a b), (2, .bexp g a b), (3, .bwait g a b)] := by
  refine ⟨rfl, rfl, ?_⟩
  simp [decodeBar, need, bitAt_eq]

theorem barv_row (g : Bool) (a : SReg) : Rows 0x2B decodeBar (a3 0x2B (cat (bit g) 6 0) a.toNat 0) [(1, .barv g a)] := by
  refine ⟨rfl, rfl, ?_⟩
  simp [decodeBar, need, bitAt_eq]

theorem btest_row (g : Bool) (p : PReg) (a b : SReg) : Rows 0x2B decodeBar (a3 0x2B (cat (bit g) 6 p.toNat) a.toNat b.toNat) [(4, .btest g p a b)] := by
  refine ⟨rfl, rfl, ?_⟩
  simp [decodeBar, need, bitAt_eq]

theorem oent_row (d a b : VReg) : Rows 0x2C decodeOrd (a3 0x2C d.toNat a.toNat b.toNat) [(0, .oent d a b)] := by
  refine ⟨rfl, rfl, ?_⟩
  simp [decodeOrd]

theorem oleave_row (a : VReg) : Rows 0x2C decodeOrd (a3 0x2C 0 a.toNat 0) [(1, .oleave a)] := by
  refine ⟨rfl, rfl, ?_⟩
  simp [decodeOrd, need]

theorem oskip_row (a b : VReg) : Rows 0x2C decodeOrd (a3 0x2C 0 a.toNat b.toNat) [(2, .oskip a b)] := by
  refine ⟨rfl, rfl, ?_⟩
  simp [decodeOrd, need]

theorem oqry_row (d a : VReg) : Rows 0x2C decodeOrd (a3 0x2C d.toNat a.toNat 0) [(3, .oqry d a)] := by
  refine ⟨rfl, rfl, ?_⟩
  simp [decodeOrd, need]

/-! ## The engines -/

theorem mma_row (z : BitVec 5) (a : VReg) (b : BitVec 4) (f : MmaFmt) (t m u n : Bool) :
    Rows 0x30 decodeMma (fun l => xf 0x30 z.toNat a.toNat b.toNat f.code (bit t * 8 + bit m * 4 + bit u * 2 + l)) [(bit n, .mma z a b f t m u n)] := by
  refine ⟨rfl, rfl, ?_⟩
  simp [decodeMma, need, bitAt_eq, mmaFlags_eq, MmaFmt.code_lt]

theorem mmac_row (z s : BitVec 5) (q : BitVec 2) (b : BitVec 4) (f : MmacFmt) (x t u n : Bool) :
    Rows 0x31 decodeMmac (fun l => xf 0x31 z.toNat (cat s.toNat 2 q.toNat) b.toNat f.code (bit x * 16 + bit t * 8 + bit u * 2 + l))
      [(bit n, .mmac z s q b f x t u n)] := by
  have h : f.code < 16 := f.code_lt.trans (by decide)
  refine ⟨rfl, rfl, ?_⟩
  simp [decodeMmac, need, bitAt_eq, mmacFlags_eq, h]

theorem zclr_row (z : BitVec 5) (s : SlabCnt) : Rows 0x32 decodeZop (zf z.toNat s.code 0 0 0) [(0, .zclr z s)] := by
  refine ⟨rfl, rfl, ?_⟩
  simp [decodeZop, need, SlabCnt.code_lt]

theorem zld_rows (z : BitVec 5) (s : SlabCnt) (a : SReg) : Rows 0x32 decodeZop (zf z.toNat s.code a.toNat 0 0) [(1, .zld z s a), (2, .zst z s a)] := by
  refine ⟨rfl, rfl, ?_⟩
  simp [decodeZop, need, SlabCnt.code_lt]

theorem zdrain_row (z : BitVec 5) (s : SlabCnt) (a : SReg) (t : Dst) (l : Bool) :
    Rows 0x32 decodeZop (zf z.toNat s.code a.toNat t.code (bit l)) [(3, .zdrain z s a t l)] := by
  refine ⟨rfl, rfl, ?_⟩
  simp [decodeZop, need, bitAt_eq, SlabCnt.code_lt, Dst.code_lt]

theorem opfence_row : Rows 0x32 decodeZop (zf 0 0 0 0 0) [(4, .opfence)] := by
  refine ⟨rfl, rfl, ?_⟩
  simp [decodeZop, need]

theorem episel_row (a : SReg) : Rows 0x32 decodeZop (zf 0 0 a.toNat 0 0) [(5, .episel a)] := by
  refine ⟨rfl, rfl, ?_⟩
  simp [decodeZop, need]

theorem prim_row (a : SReg) : Rows 0x33 decodeGfx (a3 0x33 0 a.toNat 0) [(0, .prim a)] := by
  refine ⟨rfl, rfl, ?_⟩
  simp [decodeGfx, need]

theorem fexp_rows (a b : BitVec 7) : Rows 0x33 decodeGfx (a3 0x33 0 a.toNat b.toNat) [(1, .fexp a b), (4, .srfset a b)] := by
  refine ⟨rfl, rfl, ?_⟩
  simp [decodeGfx, need]

theorem attr_row (d a : VReg) (p : Bool) (j : BitVec 3) : Rows 0x33 decodeGfx (a3 0x33 d.toNat a.toNat (cat (bit p) 6 j.toNat)) [(2, .attr d a p j)] := by
  refine ⟨rfl, rfl, ?_⟩
  simp [decodeGfx, need, bitAt_eq]

theorem fdisc_row : Rows 0x33 decodeGfx (a3 0x33 0 0 0) [(3, .fdisc)] := by
  refine ⟨rfl, rfl, ?_⟩
  simp [decodeGfx, need]

theorem srfqry_row (d a : SReg) : Rows 0x33 decodeGfx (a3 0x33 d.toNat a.toNat 0) [(5, .srfqry d a)] := by
  refine ⟨rfl, rfl, ?_⟩
  simp [decodeGfx, need]

theorem srfld_rows (d a : VReg) (b : SReg) : Rows 0x33 decodeGfx (a3 0x33 d.toNat a.toNat b.toNat) [(6, .srfld d a b), (7, .srfst d a b)] := by
  refine ⟨rfl, rfl, ?_⟩
  simp [decodeGfx]

theorem tex2_row (d a : VReg) (b : SReg) : Rows 0x34 decodeTex (a3 0x34 d.toNat a.toNat b.toNat) [(0, .tex2 d a b)] := by
  refine ⟨rfl, rfl, ?_⟩
  simp [decodeTex]

theorem plot_rows (a : BitVec 7) : Rows 0x35 decodePlot (a3 0x35 0 a.toNat 0) [(0, .plot a), (4, .bkf a)] := by
  refine ⟨rfl, rfl, ?_⟩
  simp [decodePlot, need]

theorem bka_rows (d a : VReg) : Rows 0x35 decodePlot (a3 0x35 d.toNat a.toNat 0) [(1, .bka d a), (3, .bks d a)] := by
  refine ⟨rfl, rfl, ?_⟩
  simp [decodePlot, need]

theorem bkt_row (d a : VReg) (q : Bool) : Rows 0x35 decodePlot (a3 0x35 d.toNat a.toNat (bit q)) [(2, .bkt d a q)] := by
  refine ⟨rfl, rfl, ?_⟩
  simp [decodePlot, need, bitAt_eq]

theorem launch_row (d a : SReg) : Rows 0x36 decodeSys (a3 0x36 d.toNat a.toNat 0) [(0, .launch d a)] := by
  refine ⟨rfl, rfl, ?_⟩
  simp [decodeSys, need]

theorem tlbinv_rows (a b : SReg) : Rows 0x36 decodeSys (a3 0x36 0 a.toNat b.toNat) [(1, .tlbinv a b), (2, .keyld a b)] := by
  refine ⟨rfl, rfl, ?_⟩
  simp [decodeSys, need]

end Sys2Proof.Encoding
end

section
/-! PROOF. Decoding the word of every well-formed instruction gives the instruction back (02_encoding R25 to R31). -/

namespace Sys2Proof.Encoding

/-- The limits of ATOMS leave out the two codes that it does not have. -/
theorem atoms_code_lt {d a : VReg} {s : BitVec 4} {w : AWidth} {o : AtomOp} {r : Bool} (h : (Instr.atoms d a s w o r).wf = true) : o.code < 14 := by
  simp only [Instr.wf, Bool.and_eq_true, bne_iff_ne] at h
  obtain ⟨⟨-, hi⟩, hd⟩ := h
  exact AtomOp.code_lt_of_ne o hi hd

/-- The limits of CVT hold its pair of types to those that it converts. -/
theorem cvt_pair {d a : VReg} {e f : NumTy} {r : Rnd} {s : Bool} (h : (Instr.cvt d a e f r s).wf = true) : f.pair e = true := by
  simp only [Instr.wf, Bool.and_eq_true] at h
  exact h.1.1

/-- The decoder of the fields reads back the word of every well-formed instruction: each stands in a row of its major's table. -/
theorem decodeFields_encode (i : Instr) (h : i.wf = true) : decodeFields (encode i) = .ok i := by
  cases i
  case nop | halt | exit | yield | conv | tret | brk => exact ctl_rows.decodes
  case bra d => exact (bra_row d).decodes
  case br p n d | brall p n d | brany p n d => exact (br_rows p n d).decodes
  case jmps a | jmpv a | ret a => exact (jmp_rows a).decodes
  case call d k i => exact (call_row d k i).decodes
  case callv d a k => exact (callv_row d a k).decodes
  case loopi n e => exact (loopi_row n e).decodes
  case loops s e => exact (loops_row s e).decodes
  case lbrk => exact lbrk_row.decodes
  case rep n x y z s => exact (rep_row n x y z s).decodes
  case wait l s p t => exact (wait_row l s p t).decodes
  case trap k => exact (trap_row k).decodes
  case spawn d a i | spawnp d a i => exact (spawn_rows d a i).decodes
  case regroup a i | fibwr a i => exact (regroup_rows a i).decodes
  case flushrg => exact flushrg_row.decodes
  case fibrd d i => exact (fibrd_row d i).decodes
  case sadd d a b | ssub d a b | smul d a b | smulh d a b | sand d a b | sor d a b | sxor d a b | sshl d a b | sshr d a b | ssra d a b |
      smin d a b | smax d a b | sminu d a b | smaxu d a b => exact (salu_rows d a b).decodes
  case smov d a => exact (smov_row d a).decodes
  case saddi d a i | sandi d a i | sori d a i | sxori d a i => exact (salui_rows d a i).decodes
  case sshli d a i | sshri d a i | ssrai d a i => exact (sshift_rows d a i).decodes
  case sbyte d a i => exact (sbyte_row d a i).decodes
  case scmp p a b k => exact (scmp_row p a b k).decodes
  case csrr d i | spr d i => exact (csrr_rows d i).decodes
  case csrw a i => exact (csrw_row a i).decodes
  case rdlane d a i => exact (rdlane_row d a i).decodes
  case movs d a => exact (movs_row d a).decodes
  case iadd d a b | isub d a b | imul d a b | imulh d a b | imulhu d a b | iand d a b | ior d a b | ixor d a b | andn d a b | shl d a b |
      shr d a b | sra d a b | imin d a b | imax d a b | iminu d a b | imaxu d a b => exact (ialu_rows d a b).decodes
  case iaddi d a i | andi d a i | ori d a i | xori d a i => exact (ialui_rows d a i).decodes
  case shli d a i | shri d a i | srai d a i => exact (shift_rows d a i).decodes
  case movi d i => exact (movi_row d i).decodes
  case iabs d a | ineg d a | inot d a | popc d a | clz d a | brev d a => exact (imisc_unary_rows d a).decodes
  case bfe d a b | bfeu d a b | bfi d a b | imad d a b | idiv d a b | idivu d a b | irem d a b | iremu d a b | iadds d a b | isubs d a b =>
    exact (imisc_rows d a b).decodes
  case icmp p a b k => exact (icmp_row p a b k).decodes
  case fadd d a b r => exact (falu_rows d a b r).decodes
  case fsub d a b r | fmul d a b r | ffma d a b r => exact (falu_rows d a b r).decodes
  case fmin d a b | fmax d a b | fminm d a b | fmaxm d a b | fcpys d a b | fscale d a b => exact (falu2_rows d a b).decodes
  case fabs d a | fneg d a | fclass d a | fsat d a | fgete d a | fgetm d a => exact (fmisc_rows d a).decodes
  case frnd d a x r => exact (frnd_row d a x r).decodes
  case fcmp p a b k => exact (fcmp_row p a b k).decodes
  case hadd2 d a b t => exact (pkf_rows d a b t).decodes
  case hsub2 d a b t | hmul2 d a b t | hfma2 d a b t | hmin2 d a b t | hmax2 d a b t => exact (pkf_rows d a b t).decodes
  case dot2h d a b | dot2b d a b | dot4e4 d a b | dot4e5 d a b | dot4i d a b | dot4in d a b | dot8f d a b | dot4s d a b =>
    exact (dot_rows d a b).decodes
  case cvt d a e f r s => exact (cvt_row d a e f r s (cvt_pair h)).decodes
  case rcp d a | rsq d a | sqrt d a | exp2 d a | log2 d a | sin d a | cos d a | tanh d a => exact (sfu_rows d a).decodes
  case shfli d a b | shflu d a b | shfld d a b | shflx d a b | bcast d a b => exact (shuffle_rows d a b).decodes
  case voteany d a | voteall d a => exact (vote_rows d a).decodes
  case ballot d a => exact (ballot_row d a).decodes
  case matchv d a | wredadd d a | wredfadd d a | wredmin d a | wredmax d a | wredfmax d a | wscan d a =>
    exact (wred_rows d a).decodes
  case pand d a b | por d a b | pxor d a b | pandn d a b => exact (pred_rows d a b).decodes
  case pnot d a => exact (pnot_row d a).decodes
  case prdw d => exact (prdw_row d).decodes
  case pwrw a => exact (pwrw_row a).decodes
  case pk2h d a b s => exact (cvtpk_rows d a b s).decodes
  case pk2b d a b s | pk4e4 d a b s | pk4e5 d a b s | pk8f d a b s => exact (cvtpk_rows d a b s).decodes
  case unpklo d a t | unpkhi d a t => exact (unpk_rows d a t).decodes
  case sel d a b p => exact (sel_row d a b p).decodes
  case ld d a s w q g x m => exact (ld_row d a s w q g x m).decodes
  case st d a s w q g m => exact (st_row d a s w q g m).decodes
  case lds d a s w x => exact (lds_row d a s w x).decodes
  case sts d a s w => exact (sts_row d a s w).decodes
  case ldp d a s w x => exact (ldp_row d a s w x).decodes
  case stp d a s w => exact (stp_row d a s w).decodes
  case rld d a k g => exact (rmt_rows d a k g).decodes
  case rst d a k g => exact (rmt_rows d a k g).decodes
  case mcst d a g => exact (mcst_row d a g).decodes
  case atom d a s w o r => exact (atom_row d a s w o r).decodes
  case atoms d a s w o r => exact (atoms_row d a s w o r (atoms_code_lt h)).decodes
  case mcas d a s => exact (mcas_row d a s).decodes
  case fence s k => exact (fence_row s k).decodes
  case pref a s l => exact (pref_row a s l).decodes
  case clean a s | invs a s => exact (clean_rows a s).decodes
  case qld a q | qst a q => exact (qld_rows a q).decodes
  case qstop q => exact (qstop_row q).decodes
  case qstat d q => exact (qstat_row d q).decodes
  case cpy a x | cpyt a x | cpyp a x | cpym a x | cpys a x | cpyb a x => exact (cpy_rows a x).decodes
  case cpyg a v x => exact (cpyg_row a v x).decodes
  case cbcfg a n => exact (cbcfg_row a n).decodes
  case cbcom n | cbrel n => exact (cbcom_rows n).decodes
  case cbqry d n => exact (cbqry_row d n).decodes
  case binit g a b | bexp g a b | bwait g a b => exact (bar_rows g a b).decodes
  case barv g a => exact (barv_row g a).decodes
  case btest g p a b => exact (btest_row g p a b).decodes
  case oent d a b => exact (oent_row d a b).decodes
  case oleave a => exact (oleave_row a).decodes
  case oskip a b => exact (oskip_row a b).decodes
  case oqry d a => exact (oqry_row d a).decodes
  case mma z a b f t m u n => exact (mma_row z a b f t m u n).decodes
  case mmac z s q b f x t u n => exact (mmac_row z s q b f x t u n).decodes
  case zclr z s => exact (zclr_row z s).decodes
  case zld z s a | zst z s a => exact (zld_rows z s a).decodes
  case zdrain z s a t l => exact (zdrain_row z s a t l).decodes
  case opfence => exact opfence_row.decodes
  case episel a => exact (episel_row a).decodes
  case prim a => exact (prim_row a).decodes
  case fexp a b | srfset a b => exact (fexp_rows a b).decodes
  case attr d a p j => exact (attr_row d a p j).decodes
  case fdisc => exact fdisc_row.decodes
  case srfqry d a => exact (srfqry_row d a).decodes
  case srfld d a b | srfst d a b => exact (srfld_rows d a b).decodes
  case tex2 d a b => exact (tex2_row d a b).decodes
  case plot a | bkf a => exact (plot_rows a).decodes
  case bka d a | bks d a => exact (bka_rows d a).decodes
  case bkt d a q => exact (bkt_row d a q).decodes
  case launch d a => exact (launch_row d a).decodes
  case tlbinv a b | keyld a b => exact (tlbinv_rows a b).decodes
  -- A step of the device is no word.
  all_goals cases h

/-- Settles O1: the fields are read back, and a well-formed instruction passes the limits that the decoder checks after them. -/
theorem decodeOfEncode : Obligations.DecodeOfEncode := by
  intro i h
  simp only [decode, decodeFields_encode i h, h, if_true]

/-- Settles O4: each of the three words is the word of its instruction, so it decodes to it. -/
theorem writtenWordsDecode : Obligations.WrittenWordsDecode :=
  ⟨decodeOfEncode .nop rfl, decodeOfEncode (.iadd 3 1 2) rfl, decodeOfEncode (.sadd 10 10 11) rfl⟩

end Sys2Proof.Encoding
end

section
/-! PROOF. The quiet control words: NOP, YIELD, CONV and WAIT (15_execution_model R330, R332, R343). -/

namespace Sys2Proof.Control

open Machine

/-- A counter meets a field of WAIT (02_encoding R35). -/
theorem waitDone_iff (w : Wave) (c : OpCls) (x : BitVec 6) : waitDone w c x = true ↔ x = 63 ∨ opCount w c ≤ x.toNat := by
  simp only [waitDone, Bool.or_eq_true, beq_iff_eq, decide_eq_true_eq]

/-- A WAIT that issues covers what its fields name when every counter meets its field, and waits else. -/
theorem exec_wait {s : State} {k : Nat} {r w : Wave} (h : Issues s k r w) (l st p t : BitVec 6) :
    exec (.wait l st p t) s = .next (wordEnds s k r
      (if ∀ q ∈ [(OpCls.ld, l), (.st, st), (.cp, p), (.tl, t)], waitDone r q.1 q.2 = true then
        .ok (s.setWave k (coverAll s r.nextOp w [(.ld, l), (.st, st), (.cp, p), (.tl, t)])) else .hold)) := by
  refine (runWord_eq h _).trans ?_
  simp only [List.forall_mem_cons, List.not_mem_nil, false_imp_iff, implies_true, and_true, Bool.and_eq_true, and_assoc]

/-- Settles O15: NOP and YIELD write the wave back as it was, CONV parks its batch, and a WAIT asks each of its four counters. -/
theorem quietControlWords : Obligations.QuietControlWords := by
  intro l st p t s k r w h
  refine ⟨uniWord_eq h fun _ w => w, uniWord_eq h fun _ w => w, runWord_eq h _, fun hall => ?_, fun ⟨q, hq, hne, hlt⟩ => ?_⟩
  · exact (exec_wait h l st p t).trans (by rw [if_pos fun q hq => (waitDone_iff r q.1 q.2).2 (hall q hq)])
  · have hnot : ¬ waitDone r q.1 q.2 = true := by
      rw [waitDone_iff]
      rintro (h63 | hle)
      · exact hne h63
      · exact absurd hle (Nat.not_le.2 hlt)
    exact (exec_wait h l st p t).trans (by rw [if_neg fun hall => hnot (hall q hq)])

end Sys2Proof.Control
end

section
/-! PROOF. One step of the machine: the word that a wave issues, or a step of the device (02_encoding R17, R19, 16_scheduling R369). -/

namespace Sys2Proof.Stepping

open Machine

/-- A step of the device runs as the instruction that it is. -/
theorem execEv_of_names {e : Ev} {i : Instr} (h : e.names i) (s : State) : execEv e s = exec i s := by
  cases e <;> cases h <;> rfl

/-- A step is the move of its mover, and then the clocks. -/
theorem step_of_move {s s1 : State} {m : Mover} (hm : chooseMover s = some m) (h : move { s with turn := none } m = .next s1) :
    step s = .next (clock s1) := by
  simp only [step, stepOnce, hm, h]

/-- A wave's move is what its issue leaves; a chain that cannot issue leaves all as it was. -/
theorem move_of_issue {s s1 : State} {k : Nat} (h : issueWave s k = .next s1) :
    move s (.wave k) = .next (if s1.issue.held = true then s else rotate { s1 with issue := Issue.idle } k) := by
  simp only [move, h]
  split <;> rfl

/-- A chain of one word that decodes and is allowed at its wave's level is the run of that word. -/
theorem runChain_single {s : State} {k : Nat} {w : Wave} {next : NextPc} {i : Instr} (h : privileged w.level i = true) :
    runChain s k w next [i] = exec i (latch s k none next) := by
  simp [runChain, h]

/-- A wave that is not held back, whose packet is fetched and whose next chain is one word without a decode trap, issues that word. -/
theorem issueWave_single {s s1 : State} {k n x : Nat} {w : Wave} {pc : Pc} {ws : List Nat} {next : NextPc} {i : Instr}
    (hw : s.wave k = some w) (hback : heldBack s k w = false) (hrep : w.repAt = none) (hpc : minPc w = some pc)
    (hopen : fetchOpen s w pc.packet = true) (hfetch : fetchPacket s w pc.packet = .ok (ws, s1)) (hchain : chainOf ws pc.slot = ([(n, x)], next))
    (htrap : Machine.decodeTrap ws w.codeBase.toNat pc.packet (batch w) [(n, x)] = none) (hdec : decode x = .ok i)
    (hpriv : privileged w.level i = true) : issueWave s k = exec i (latch s1 k none next) := by
  have hnext : nextChain w ws pc = ([(n, x)], next) := by simp only [nextChain, hrep, hchain]
  have hclear : chainTrap w ws pc [(n, x)] = none := by simp only [chainTrap, hrep, htrap]
  have hinstr : instrsOf [(n, x)] = [i] := by simp [instrsOf, hdec]
  simp [issueWave, hw, hback, hpc, hopen, hfetch, hnext, hclear, hinstr, runChain_single hpriv]

/-- Settles O50: the mover of a step is a wave, whose move is its issue, or a step of the device, which runs as its instruction. -/
theorem stepRunsDecodedWord : Obligations.StepRunsDecodedWord := by
  intro s s'
  refine ⟨fun k w pc ws s1 s2 n x next i hm hw hback hrep hpc hopen hfetch hchain htrap hdec hpriv hexec => ?_,
    fun e i s2 hm hnames hexec => step_of_move hm ((execEv_of_names hnames _).trans hexec)⟩
  have hissue : issueWave s' k = .next s2 :=
    (issueWave_single hw hback hrep hpc hopen hfetch hchain htrap hdec hpriv).trans hexec
  have hstep := step_of_move hm (move_of_issue hissue)
  refine ⟨fun hheld => ?_, fun hheld => ?_⟩
  · rw [hstep, hheld]
    rfl
  · rw [hstep, if_pos hheld]

end Sys2Proof.Stepping
end

section
/-! SUPPORT. What the steps in flight do not decide, and what a write of the home slices leaves of the page service. -/

namespace Sys2Proof.MemorySteps

open Machine

/-! ## The steps in flight -/

/-- The state with other steps in flight. -/
abbrev withPending (s : State) (es : List Ev) : State := { s with pending := es }

/-- A split of a leaf neither reads nor changes the steps in flight. -/
theorem splitLeaf_withPending (es : List Ev) (ctx va n : Nat) (s : State) :
    splitLeaf (withPending s es) ctx va n = (splitLeaf s ctx va n).map fun t => withPending t es := by
  induction n generalizing s with
  | zero => rfl
  | succ n ih =>
    simp only [splitLeaf, show walk (withPending s es) ctx va = walk s ctx va from rfl]
    split
    · split
      · rfl
      · split
        · rfl
        · rw [← ih]
          rfl
    · rfl

/-! ## The page service's own records -/

/-- Two memory systems with the same moves and collapses under way. -/
def SameService (m m' : MemSys) : Prop := m'.migrating = m.migrating ∧ m'.collapses = m.collapses

theorem SameService.refl (m : MemSys) : SameService m m := ⟨rfl, rfl⟩

theorem SameService.trans {a b c : MemSys} (h : SameService a b) (h' : SameService b c) : SameService a c :=
  ⟨h'.1.trans h.1, h'.2.trans h.2⟩

/-- A fold of writes that each keep the records keeps them. -/
theorem SameService.foldl {α : Type} {f : MemSys → α → MemSys} (hf : ∀ m x, SameService m (f m x)) (xs : List α) (m : MemSys) :
    SameService m (xs.foldl f m) :=
  foldl_keeps (P := SameService m) (fun b x hb => hb.trans (hf b x)) xs m (.refl m)

theorem forgetLine_service (m : MemSys) (line : Nat) : SameService m (forgetLine m line) := by
  unfold forgetLine
  split
  · exact .refl m
  · exact (show SameService m _ from ⟨rfl, rfl⟩).trans (.foldl (f := fun m c => dirClear m c (regionOf line)) (fun _ _ => ⟨rfl, rfl⟩) _ _)

theorem recallLine_service (m : MemSys) (line : Nat) : SameService m (recallLine m line) :=
  (show SameService m _ from ⟨rfl, rfl⟩).trans (forgetLine_service _ line)

theorem rekey_service (m : MemSys) (line : Nat) (key : Option Nat) : SameService m (rekey m line key) := by
  unfold rekey
  split
  · exact .refl m
  · exact (recallLine_service m line).trans ⟨rfl, rfl⟩

theorem devWrite_service (m : MemSys) (key : Option Nat) (a : Nat) (bs : List Byte) : SameService m (devWrite m key a bs) :=
  (SameService.foldl (fun m l => (recallLine_service m l).trans (rekey_service _ l key)) (linesOf a bs.length) m).trans ⟨rfl, rfl⟩

theorem writeEntries_service (m : MemSys) (a n : Nat) (f : Nat → Nat) : SameService m (writeEntries m a n f) :=
  .foldl (fun m _ => devWrite_service m _ _ _) _ m

theorem recallPages_service (m : MemSys) (page pages : Nat) : SameService m (recallPages m page pages) :=
  .foldl recallLine_service _ m

/-- A split of a leaf keeps the device and the records of the page service. -/
theorem splitLeaf_frame {ctx va n : Nat} {s t : State} (h : splitLeaf s ctx va n = some t) : t.dev = s.dev ∧ SameService s.mem t.mem := by
  induction n generalizing s with
  | zero =>
    cases h
    exact ⟨rfl, .refl _⟩
  | succ n ih =>
    unfold splitLeaf at h
    split at h
    · split at h
      · cases h
        exact ⟨rfl, .refl _⟩
      · split at h
        · cases h
        · obtain ⟨hdev, hmem⟩ := ih h
          exact ⟨hdev, ((writeEntries_service _ _ _ _).trans (devWrite_service _ _ _ _)).trans hmem⟩
    · cases h

end Sys2Proof.MemorySteps
end

section
/-! PROOF. Counters, queue streams, walks, page moves and collapses, one step of the device after another. -/

namespace Sys2Proof.MemorySteps

open Machine

/-- A step of the device that is due takes its effect on what is left in flight. -/
theorem runEvent_due {s : State} {e : Ev} {due : Bool} (h : due = true) (eff : State → State) :
    runEvent s e due eff = .next (eff (withPending s (s.pending.erase e))) := by
  rw [runEvent_eq, if_pos h]

/-! ## Counters and queue streams (02_encoding R34 to R36, 08_memory_spaces R178 to R182) -/

theorem countedOpComplete_acts {s : State} {k : Nat} {cls : OpCls} {o : MemOp} (h : countable s k cls = some o) :
    Acts (.countedOpComplete k cls) (.countedOpComplete k cls) s fun s => countOp s k o := by
  have h' : countable (withPending s (s.pending.erase (.countedOpComplete k cls))) k cls = some o := h
  exact acts_of (show execCountedOpComplete k cls s = _ from rfl) (by rw [h]; rfl) (by simp only [h'])

theorem queueStreamFetch_acts {s : State} {k q : Nat} {w : Wave} (hw : s.wave k = some w) (h : streamBusy s w q = true) :
    Acts (.queueStreamFetch k q) (.queueStreamFetch k q) s fun s => fetchStep s k w q := by
  have hw' : (withPending s (s.pending.erase (.queueStreamFetch k q))).wave k = some w := hw
  exact acts_of (show execQueueStreamFetch k q s = _ from rfl) (by rw [hw]; exact h) (by simp only [hw'])

theorem fetchStep_start {s : State} {k q : Nat} {w : Wave} (h : landable s w q = none) :
    fetchStep s k w q = s.setWave k (setStream w q (streamOf w q).start) := by
  simp only [fetchStep, h]

theorem fetchStep_land {s : State} {k q i : Nat} {w : Wave} {e : StreamElem} (h : landable s w q = some (i, e)) (hs : fetchStarts w q = false) :
    fetchStep s k w q = (noteElem s k w e (List.range w.width)).mapWave k fun v =>
      setStream v q { streamOf w q with held := (streamOf w q).held.modify i (landElem s w) } := by
  simp only [fetchStep, h, hs, Bool.false_and, Bool.false_eq_true, if_false]

/-- A change of a wave that exists sets it. -/
theorem mapWave_eq {s : State} {k : Nat} {w : Wave} (h : s.wave k = some w) (f : Wave → Wave) : s.mapWave k f = s.setWave k (f w) := by
  simp only [State.mapWave, State.setWave, Map.modify, show s.work.waves.look k = some w from h]

theorem queueStreamDrain_acts {s : State} {k op q : Nat} {w : Wave} (hw : s.wave k = some w) (h : drainable s k op = some q) :
    Acts (.queueStreamDrain k op) (.queueStreamDrain k op) s fun s =>
      reapWave (s.setWave k (setStream (w.dropOp op) q { streamOf w q with pushes := (streamOf w q).pushes - 1 })) k := by
  have hw' : (withPending s (s.pending.erase (.queueStreamDrain k op))).wave k = some w := hw
  have h' : drainable (withPending s (s.pending.erase (.queueStreamDrain k op))) k op = some q := h
  exact acts_of (show execQueueStreamDrain k op s = _ from rfl) (by rw [h]; rfl) (by simp only [h', mapWave_eq hw'])

/-! ## Page walks (17_translation R398, R399) -/

section Walks
variable {s : State} {core ctx va : Nat}

/-- What makes a walk due, beside its place among the walkers and its open home slices: its context is not stopped, or it meets no poison. -/
theorem pageWalk_due (hin : Ev.pageWalk core ctx va ∈ walking s (stackOf core)) (hfree : walkFree s ctx va = true) :
    ((walking s (stackOf core)).contains (.pageWalk core ctx va) && walkFree s ctx va && !(ctxStopped s ctx && (walkPoison s ctx va).isSome)) =
      !(ctxStopped s ctx && (walkPoison s ctx va).isSome) := by
  rw [List.contains_iff_mem.2 hin, hfree, Bool.true_and, Bool.true_and]

theorem pageWalk_fills (hin : Ev.pageWalk core ctx va ∈ walking s (stackOf core)) (hfree : walkFree s ctx va = true)
    (h : walkPoison s ctx va = none) : Acts (.pageWalk core ctx va) (.pageWalk core ctx va) s fun s => tlbFill s core ctx va := by
  have h' : walkPoison (withPending s (s.pending.erase (.pageWalk core ctx va))) ctx va = none := h
  exact acts_of (show execPageWalk core ctx va s = _ from rfl) (by rw [pageWalk_due hin hfree, h]; simp) (by simp only [h'])

theorem pageWalk_stops {l : Nat} (hin : Ev.pageWalk core ctx va ∈ walking s (stackOf core)) (hfree : walkFree s ctx va = true)
    (h : walkPoison s ctx va = some l) (hc : ctxStopped s ctx = false) :
    Acts (.pageWalk core ctx va) (.pageWalk core ctx va) s fun s => (stopForPoison s ctx (stackOf core) l).post (.pageWalk core ctx va) := by
  have h' : walkPoison (withPending s (s.pending.erase (.pageWalk core ctx va))) ctx va = some l := h
  exact acts_of (show execPageWalk core ctx va s = _ from rfl) (by rw [pageWalk_due hin hfree, hc]; rfl) (by simp only [h'])

theorem pageWalk_idles {l : Nat} (hin : Ev.pageWalk core ctx va ∈ walking s (stackOf core)) (hfree : walkFree s ctx va = true)
    (h : walkPoison s ctx va = some l) (hc : ctxStopped s ctx = true) : Idles (.pageWalk core ctx va) s :=
  idles_of (show execPageWalk core ctx va s = _ from rfl) (by rw [pageWalk_due hin hfree, h, hc]; rfl)

end Walks

/-! ## Page moves (17_translation R402) -/

theorem pageMigration_begins {s : State} {ctx va : Nat} {p : LeafAt} (retire : Bool) (hs : serving s = true) (h : moveLeaf s ctx va = some p) :
    ∃ t, exec (.pageMigration ctx va retire) s = .next t ∧ t.ctxs = s.ctxs ∧ t.base = s.base ∧
      t.mem.migrating = s.mem.migrating ++
        [{ ctx := ctx, va := p.va, entryPa := p.entryPa, entries := p.entries, oldPage := p.pa / 4096, pages := p.bytes / 4096, retire := retire }] := by
  have h' : moveLeaf (withPending s (s.pending.erase (.pageMigration ctx va retire))) ctx va = some p := h
  have hdue : (serving s && (moveLeaf s ctx va).isSome) = true := by rw [hs, h]; rfl
  refine ⟨_, (show execPageMigration ctx va retire s = _ from runEvent_due hdue _), ?_⟩
  simp only [h']
  exact ⟨rfl, rfl, congrArg (· ++ _) ((writeEntries_service s.mem _ _ _).trans (recallPages_service _ _ _)).1⟩

theorem pageMigrationComplete_acts {s : State} {ctx va frame : Nat} {g : Migrating} (h : endsAt s ctx va frame = some g) :
    let e := devRead s.mem g.entryPa 8
    let key := if bitAt e 7 then some (4 * ctx + bits e 54 53) else none
    Acts (.pageMigrationComplete ctx va frame) (.pageMigrationComplete ctx va frame) s fun s =>
      let m := movePage { s.mem with migrating := s.mem.migrating.erase g } g frame key
      let t := writeEntries m g.entryPa g.entries fun i =>
        let x := devRead m (g.entryPa + 8 * i) 8
        x - 2 ^ 9 - 2 ^ 21 * bits x 52 21 + 2 ^ 21 * (frame / 4096 + i)
      tellMoved { s with
        mem := if g.retire = true then { t with retired := t.retired ++ (List.range g.pages).map (g.oldPage + ·) } else t
        work := Work.moved g frame s.work
        pending := s.pending.map (Ev.moved g frame) } g frame := by
  have h' : endsAt (withPending s (s.pending.erase (.pageMigrationComplete ctx va frame))) ctx va frame = some g := h
  exact acts_of (show execPageMigrationComplete ctx va frame s = _ from rfl) (by rw [h]; rfl) (by simp only [h', retireFrames])

/-! ## Read-duplicate groups (17_translation R403) -/

section Groups
variable {s : State} {ctx va writer frame lead device : Nat}

/-- A request of another device that finds its group collapsed is granted at once. -/
theorem collapseRequest_grants (hs : serving s = true) (hc : collapseOf s ctx va = none) (hw : writer ≠ s.dev.deviceId)
    (h : dupLeaf s ctx va = none) :
    Acts (.collapseRequest ctx va writer frame) (.collapseRequest ctx va writer frame) s fun s => sendPeer s writer (.grant ctx va) := by
  have h' : dupLeaf (withPending s (s.pending.erase (.collapseRequest ctx va writer frame))) ctx va = none := h
  exact acts_of (show execCollapseRequest ctx va writer frame s = _ by unfold execCollapseRequest; rfl) (by simp [hs, hc, hw]) (by simp only [h', if_neg hw])

/-- A request of another device reaches this one as coordinator. -/
theorem collapseRequest_coordinates {q : LeafAt} (hs : serving s = true) (hc : collapseOf s ctx va = none) (hw : writer ≠ s.dev.deviceId)
    (h : dupLeaf s ctx va = some q) :
    Acts (.collapseRequest ctx va writer frame) (.collapseRequest ctx va writer frame) s fun s => coordinate s ctx va writer frame := by
  have h' : dupLeaf (withPending s (s.pending.erase (.collapseRequest ctx va writer frame))) ctx va = some q := h
  exact acts_of (show execCollapseRequest ctx va writer frame s = _ by unfold execCollapseRequest; rfl)
    (by simp [hs, hc, hw]) (by simp only [h', bne_iff_ne.2 hw, if_true])

/-- A write of this device splits its leaf, notes the collapse and sends its request to the group's coordinator. -/
theorem collapseRequest_sends {q : LeafAt} {s0 : State} (hs : serving s = true) (hc : collapseOf s ctx va = none) (h : dupLeaf s ctx va = some q)
    (hsplit : splitLeaf s ctx va 3 = some s0) (hlead : bits q.leaf 20 13 ≠ s.dev.deviceId) :
    ∃ t, exec (.collapseRequest ctx va s.dev.deviceId frame) s = .next t ∧
      t.dev.peerSent = s.dev.peerSent ++
        [{ target := bits q.leaf 20 13, source := s.dev.deviceId, id := s.dev.nextOut.get (bits q.leaf 20 13) 0,
           body := .page (.request ctx va s.dev.deviceId frame) }] ∧
      t.mem.collapses = s.mem.collapses ++ [{ ctx := ctx, va := va, writer := s.dev.deviceId, frame := frame, awaiting := [bits q.leaf 20 13] }] := by
  generalize hes : s.pending.erase (.collapseRequest ctx va s.dev.deviceId frame) = es
  have h' : dupLeaf (withPending s es) ctx va = some q := h
  have hsplit' : splitLeaf (withPending s es) ctx va 3 = some (withPending s0 es) := by
    rw [splitLeaf_withPending, hsplit]; rfl
  obtain ⟨hdev, -, hcollapses⟩ := splitLeaf_frame hsplit
  refine ⟨_, (show execCollapseRequest ctx va s.dev.deviceId frame s = _ by
    unfold execCollapseRequest
    exact runEvent_due (by simp [hs, hc, hsplit]) _), ?_⟩
  simp only [hes, h', hsplit', hlead, bne_self_eq_false, Bool.false_eq_true, if_false]
  refine ⟨?_, ?_⟩
  · rw [sendPeer, sendCmd_peerSent, ← hdev]
    rfl
  · rw [sendPeer, sendCmd_mem, ← hcollapses]
    rfl

/-- A device that is told to rewrite a group splits its leaf, rewrites the group and stays under way until its answer. -/
theorem groupRewrite_rewrites {q : LeafAt} {s0 s1 : State} (hs : serving s = true) (h : dupLeaf s ctx va = some q)
    (hsplit : splitLeaf s ctx va 3 = some s0)
    (hsplit1 : splitLeaf { s with pending := s.pending.erase (.groupRewrite ctx va writer frame lead) } ctx va 3 = some s1) :
    exec (.groupRewrite ctx va writer frame lead) s =
      .next ((dropGroup (rewriteGroup s1 ctx va writer frame) ctx va).post (.groupRewrite ctx va writer frame lead)) := by
  have h' : dupLeaf (withPending s (s.pending.erase (.groupRewrite ctx va writer frame lead))) ctx va = some q := h
  refine (show execGroupRewrite ctx va writer frame lead s = _ by
    unfold execGroupRewrite
    exact runEvent_due (by simp [hs, h, hsplit]) _).trans ?_
  simp only [h', hsplit1, Option.isSome_some, if_true]

/-- A device whose group is rewritten answers when no access uses the old entries any more. -/
theorem groupRewrite_answers (hs : serving s = true) (h : dupLeaf s ctx va = none) (hu : groupInUse s ctx va = false) :
    Acts (.groupRewrite ctx va writer frame lead) (.groupRewrite ctx va writer frame lead) s fun t =>
      if lead = s.dev.deviceId then t.post (.collapseAnswer ctx va lead) else sendPeer t lead (.answer ctx va) := by
  have h' : dupLeaf (withPending s (s.pending.erase (.groupRewrite ctx va writer frame lead))) ctx va = none := h
  exact acts_of (show execGroupRewrite ctx va writer frame lead s = _ by unfold execGroupRewrite; rfl)
    (by simp [hs, h, hu]) (by simp only [h', Option.isSome_none, Bool.false_eq_true, if_false, answerGroup])

/-- The answer of a device that a collapse waits for. -/
theorem collapseAnswer_acts {c : Collapse} (h : collapseOf s ctx va = some c) (hd : device ∈ c.awaiting) :
    Acts (.collapseAnswer ctx va device) (.collapseAnswer ctx va device) s fun t =>
      if c.awaiting.erase device ≠ [] then addCollapse (dropCollapse t ctx va) { c with awaiting := c.awaiting.erase device }
      else if c.writer = s.dev.deviceId then
        (addCollapse (dropCollapse t ctx va) { c with awaiting := c.awaiting.erase device }).post (.collapseGrant ctx va)
      else sendPeer (dropCollapse t ctx va) c.writer (.grant ctx va) := by
  have h' : collapseOf (withPending s (s.pending.erase (.collapseAnswer ctx va device))) ctx va = some c := h
  refine acts_of (show execCollapseAnswer ctx va device s = _ from rfl) (by simp [h, hd]) ?_
  simp only [h', Bool.not_eq_true', List.isEmpty_eq_false_iff]

/-- The grant of a collapse of this device's own maps the group to its frames. -/
theorem collapseGrant_acts {c : Collapse} {r : Ctx} (h : collapseOf s ctx va = some c) (hw : c.writer = s.dev.deviceId)
    (hr : s.ctxs.look ctx = some r) (hn : r.cfg.notifyCollapse = false) :
    Acts (.collapseGrant ctx va) (.collapseGrant ctx va) s fun s =>
      dropGroup (rewriteGroup (dropCollapse s ctx va) ctx va c.writer c.frame) ctx va := by
  have h' : collapseOf (withPending s (s.pending.erase (.collapseGrant ctx va))) ctx va = some c := h
  exact acts_of (show execCollapseGrant ctx va s = _ from rfl) (by simp [grantDue, h, hw]) (by simp [h', hr, hn])

end Groups

/-- Settles O46: each clause is what one step of the device does, and the three ends of a collapse are the branches of its answer. -/
theorem memorySteps : Obligations.MemorySteps := by
  refine ⟨fun k q op core ctx va frame cls retire s => ?_, fun ctx va writer frame lead device s => ?_⟩
  · refine ⟨fun o h => countedOpComplete_acts h, fun w hw => ?_, fun w hw h => queueStreamDrain_acts hw h, fun hin hfree => ?_,
      fun p hs h => pageMigration_begins retire hs h, fun g h => pageMigrationComplete_acts h⟩
    · exact ⟨fun h => queueStreamFetch_acts hw h, fun h => fetchStep_start h, fun i e h hs => fetchStep_land h hs⟩
    · exact ⟨fun h => pageWalk_fills hin hfree h,
        fun l h => ⟨fun hc => pageWalk_stops hin hfree h hc, fun hc => pageWalk_idles hin hfree h hc⟩⟩
  · refine ⟨fun hs hc hw => ⟨fun h => collapseRequest_grants hs hc hw h, fun q h => collapseRequest_coordinates hs hc hw h⟩,
      fun q s0 hs hc h hsplit hlead => collapseRequest_sends hs hc h hsplit hlead,
      fun q s0 s1 hs h hsplit hsplit1 => groupRewrite_rewrites hs h hsplit hsplit1,
      fun hs h hu => groupRewrite_answers hs h hu, fun c h hd => ?_, fun c r h hw hr hn => collapseGrant_acts h hw hr hn⟩
    have hacts := collapseAnswer_acts h hd
    refine ⟨fun hne => ?_, fun hnil hw => ?_, fun hnil hw => ?_⟩
    · simpa only [if_pos hne] using hacts
    · simpa only [if_neg (not_not.2 hnil), if_neg hw] using hacts
    · simpa only [hnil, ne_eq, not_true_eq_false, if_false, if_pos hw] using hacts

end Sys2Proof.MemorySteps
end

section
/-! SUPPORT. The word that the decoder reads is written back: slices of a word that meet, codes of fields, and the layouts as slices of their word
(02_encoding R25). -/

namespace Sys2Proof.Encoding

/-! ## Slices of a word -/

theorem bits_lt (w : Nat) {hi lo n : Nat} (h : 2 ^ (hi + 1 - lo) ≤ n) : bits w hi lo < n :=
  (Nat.mod_lt _ (Nat.two_pow_pos _)).trans_le h

/-- A field that holds a slice is the slice. -/
theorem toNat_ofNat_bits {n w hi lo : Nat} (h : hi + 1 - lo ≤ n) : (BitVec.ofNat n (bits w hi lo)).toNat = bits w hi lo := by
  rw [BitVec.toNat_ofNat]
  exact Nat.mod_eq_of_lt (bits_lt w (Nat.pow_le_pow_right (by decide) h))

theorem bit_bitAt (w i : Nat) : bit (bitAt w i) = bits w i i := by
  rw [bitAt_eq]
  have h : bits w i i < 2 := bits_lt w (by simp)
  interval_cases bits w i i <;> rfl

/-! ## A code that names a value is the code of that value -/

theorem ICc.ofCode_eq_some {n : Nat} {x : ICc} : ICc.ofCode n = some x ↔ n = x.code := by
  refine ⟨?_, fun h => h ▸ ICc.ofCode_code x⟩
  fun_cases ICc.ofCode n <;> rintro ⟨⟩ <;> rfl

theorem FCc.ofCode_eq_some {n : Nat} {x : FCc} : FCc.ofCode n = some x ↔ n = x.code := by
  refine ⟨?_, fun h => h ▸ FCc.ofCode_code x⟩
  fun_cases FCc.ofCode n <;> rintro ⟨⟩ <;> rfl

theorem Rnd.ofCode_eq_some {n : Nat} {x : Rnd} : Rnd.ofCode n = some x ↔ n = x.code := by
  refine ⟨?_, fun h => h ▸ Rnd.ofCode_code x⟩
  fun_cases Rnd.ofCode n <;> rintro ⟨⟩ <;> rfl

theorem Half.ofCode_eq_some {n : Nat} {x : Half} : Half.ofCode n = some x ↔ n = x.code := by
  refine ⟨?_, fun h => h ▸ Half.ofCode_code x⟩
  fun_cases Half.ofCode n <;> rintro ⟨⟩ <;> rfl

theorem NumTy.ofCode_eq_some {n : Nat} {x : NumTy} : NumTy.ofCode n = some x ↔ n = x.code := by
  refine ⟨?_, fun h => h ▸ NumTy.ofCode_code x⟩
  fun_cases NumTy.ofCode n <;> rintro ⟨⟩ <;> rfl

theorem UnpkTy.ofCode_eq_some {n : Nat} {x : UnpkTy} : UnpkTy.ofCode n = some x ↔ n = x.code := by
  refine ⟨?_, fun h => h ▸ UnpkTy.ofCode_code x⟩
  fun_cases UnpkTy.ofCode n <;> rintro ⟨⟩ <;> rfl

theorem Width.ofCode_eq_some {n : Nat} {x : Width} : Width.ofCode n = some x ↔ n = x.code := by
  refine ⟨?_, fun h => h ▸ Width.ofCode_code x⟩
  fun_cases Width.ofCode n <;> rintro ⟨⟩ <;> rfl

theorem AWidth.ofCode_eq_some {n : Nat} {x : AWidth} : AWidth.ofCode n = some x ↔ n = x.code := by
  refine ⟨?_, fun h => h ▸ AWidth.ofCode_code x⟩
  fun_cases AWidth.ofCode n <;> rintro ⟨⟩ <;> rfl

theorem Scope.ofCode_eq_some {n : Nat} {x : Scope} : Scope.ofCode n = some x ↔ n = x.code := by
  refine ⟨?_, fun h => h ▸ Scope.ofCode_code x⟩
  fun_cases Scope.ofCode n <;> rintro ⟨⟩ <;> rfl

theorem FScope.ofCode_eq_some {n : Nat} {x : FScope} : FScope.ofCode n = some x ↔ n = x.code := by
  refine ⟨?_, fun h => h ▸ FScope.ofCode_code x⟩
  fun_cases FScope.ofCode n <;> rintro ⟨⟩ <;> rfl

theorem FKind.ofCode_eq_some {n : Nat} {x : FKind} : FKind.ofCode n = some x ↔ n = x.code := by
  refine ⟨?_, fun h => h ▸ FKind.ofCode_code x⟩
  fun_cases FKind.ofCode n <;> rintro ⟨⟩ <;> rfl

theorem AtomOp.ofCode_eq_some {n : Nat} {x : AtomOp} : AtomOp.ofCode n = some x ↔ n = x.code := by
  refine ⟨?_, fun h => h ▸ AtomOp.ofCode_code x⟩
  fun_cases AtomOp.ofCode n <;> rintro ⟨⟩ <;> rfl

theorem PLevel.ofCode_eq_some {n : Nat} {x : PLevel} : PLevel.ofCode n = some x ↔ n = x.code := by
  refine ⟨?_, fun h => h ▸ PLevel.ofCode_code x⟩
  fun_cases PLevel.ofCode n <;> rintro ⟨⟩ <;> rfl

theorem MmaFmt.ofCode_eq_some {n : Nat} {x : MmaFmt} : MmaFmt.ofCode n = some x ↔ n = x.code := by
  refine ⟨?_, fun h => h ▸ MmaFmt.ofCode_code x⟩
  fun_cases MmaFmt.ofCode n <;> rintro ⟨⟩ <;> rfl

theorem MmacFmt.ofCode_eq_some {n : Nat} {x : MmacFmt} : MmacFmt.ofCode n = some x ↔ n = x.code := by
  refine ⟨?_, fun h => h ▸ MmacFmt.ofCode_code x⟩
  fun_cases MmacFmt.ofCode n <;> rintro ⟨⟩ <;> rfl

theorem SlabCnt.ofCode_eq_some {n : Nat} {x : SlabCnt} : SlabCnt.ofCode n = some x ↔ n = x.code := by
  refine ⟨?_, fun h => h ▸ SlabCnt.ofCode_code x⟩
  fun_cases SlabCnt.ofCode n <;> rintro ⟨⟩ <;> rfl

theorem Dst.ofCode_eq_some {n : Nat} {x : Dst} : Dst.ofCode n = some x ↔ n = x.code := by
  refine ⟨?_, fun h => h ▸ Dst.ofCode_code x⟩
  fun_cases Dst.ofCode n <;> rintro ⟨⟩ <;> rfl

/-! ## The word of a layout whose fields are the slices of a word (02_encoding R25) -/

section
variable {w : Nat} (hw : w < 2 ^ 31)
include hw

theorem a3_eq {m d a b f : Nat} (hm : bits w 30 25 = m) (h : bits w 24 18 = d ∧ bits w 17 11 = a ∧ bits w 10 4 = b ∧ bits w 3 0 = f) :
    a3 m d a b f = w := by
  obtain ⟨rfl, rfl, rfl, rfl⟩ := h
  subst hm
  simp only [a3, bits]
  omega

theorem ai_eq {m d a i f : Nat} (hm : bits w 30 25 = m) (h : bits w 24 18 = d ∧ bits w 17 11 = a ∧ bits w 10 3 = i ∧ bits w 2 0 = f) :
    ai m d a i f = w := by
  obtain ⟨rfl, rfl, rfl, rfl⟩ := h
  subst hm
  simp only [ai, bits]
  omega

theorem mf_eq {m d a s k f : Nat} (hm : bits w 30 25 = m)
    (h : bits w 24 18 = d ∧ bits w 17 11 = a ∧ bits w 10 7 = s ∧ bits w 6 5 = k ∧ bits w 4 0 = f) :
    mf m d a s k f = w := by
  obtain ⟨rfl, rfl, rfl, rfl, rfl⟩ := h
  subst hm
  simp only [mf, bits]
  omega

theorem bf_eq {k p n d : Nat} (hm : bits w 30 25 = 0x01)
    (h : bits w 24 22 = k ∧ bits w 21 19 = p ∧ bits w 18 18 = n ∧ bits w 17 10 = d ∧ bits w 9 0 = 0) :
    bf k p n d = w := by
  obtain ⟨rfl, rfl, rfl, rfl, hz⟩ := h
  simp only [bf, bits] at hm hz ⊢
  omega

theorem xf_eq {m z a b f l : Nat} (hm : bits w 30 25 = m)
    (h : bits w 24 20 = z ∧ bits w 19 13 = a ∧ bits w 12 9 = b ∧ bits w 8 5 = f ∧ bits w 4 0 = l) :
    xf m z a b f l = w := by
  obtain ⟨rfl, rfl, rfl, rfl, rfl⟩ := h
  subst hm
  simp only [xf, bits]
  omega

theorem zf_eq {z s a t l f : Nat} (hm : bits w 30 25 = 0x32)
    (h : bits w 24 20 = z ∧ bits w 19 18 = s ∧ bits w 17 11 = a ∧ bits w 10 9 = t ∧ bits w 8 8 = l ∧ bits w 7 0 = f) :
    zf z s a t l f = w := by
  obtain ⟨rfl, rfl, rfl, rfl, rfl, rfl⟩ := h
  simp only [zf, bits] at hm ⊢
  omega

theorem lf_eq {n e f : Nat} (hm : bits w 30 25 = 0x03) (h : bits w 24 17 = n ∧ bits w 16 9 = e ∧ bits w 8 0 = f) :
    lf n e f = w := by
  obtain ⟨rfl, rfl, rfl⟩ := h
  simp only [lf, bits] at hm ⊢
  omega

theorem pf_eq {n x y z s : Nat} (hm : bits w 30 25 = 0x04)
    (h : bits w 24 19 = n ∧ bits w 18 18 = x ∧ bits w 17 17 = y ∧ bits w 16 16 = z ∧ bits w 15 14 = s ∧ bits w 13 0 = 0) :
    pf n x y z s = w := by
  obtain ⟨rfl, rfl, rfl, rfl, rfl, hz⟩ := h
  simp only [pf, bits] at hm hz ⊢
  omega

theorem wf_eq {l s c t : Nat} (hm : bits w 30 25 = 0x05)
    (h : bits w 24 19 = l ∧ bits w 18 13 = s ∧ bits w 12 7 = c ∧ bits w 6 1 = t ∧ bits w 0 0 = 0) :
    wf l s c t = w := by
  obtain ⟨rfl, rfl, rfl, rfl, hz⟩ := h
  simp only [wf, bits] at hm hz ⊢
  omega

theorem cf_eq {d a e f r s : Nat} (hm : bits w 30 25 = 0x16)
    (h : bits w 24 18 = d ∧ bits w 17 11 = a ∧ bits w 10 7 = e ∧ bits w 6 3 = f ∧ bits w 2 1 = r ∧ bits w 0 0 = s) :
    cf d a e f r s = w := by
  obtain ⟨rfl, rfl, rfl, rfl, rfl, rfl⟩ := h
  simp only [cf, bits] at hm ⊢
  omega

theorem trap_eq {k : Nat} (hm : bits w 30 25 = 0x06) (h : bits w 24 17 = k ∧ bits w 16 0 = 0) : 0x06 * 2 ^ 25 + k * 2 ^ 17 = w := by
  obtain ⟨rfl, hz⟩ := h
  simp only [bits] at hm hz ⊢
  omega

end

/-! ## Results of the decoder that keep the word -/

/-- A result of the decoder keeps the word `w`: the instruction that it gives, if any, has that word. -/
def Keeps (w : Nat) (r : Except DecodeTrap Instr) : Prop := ∀ i, r = .ok i → encode i = w

section
variable {w : Nat}

theorem keeps_error (e : DecodeTrap) : Keeps w (.error e) := fun _ h => nomatch h

theorem keeps_ok {i : Instr} : Keeps w (.ok i) ↔ encode i = w :=
  ⟨fun h => h i rfl, fun h _ e => Except.ok.inj e ▸ h⟩

theorem keeps_need {c : Bool} {r : Except DecodeTrap Instr} : Keeps w (need c r) ↔ (c = true → Keeps w r) := by
  cases c <;> simp [need, keeps_error]

theorem keeps_ite {c : Prop} [Decidable c] {r r' : Except DecodeTrap Instr} :
    Keeps w (if c then r else r') ↔ (c → Keeps w r) ∧ (¬ c → Keeps w r') := by
  split <;> simp [*]

theorem keeps_elim {α : Type} {o : Option α} {r : Except DecodeTrap Instr} {g : α → Except DecodeTrap Instr} :
    Keeps w (o.elim r g) ↔ (o = none → Keeps w r) ∧ ∀ x, o = some x → Keeps w (g x) := by
  cases o <;> simp

end

end Sys2Proof.Encoding
end

section
/-! PROOF. A word that decodes is the word of its instruction, the words of reserved majors give trap 0x03, and the chain bit is not read
(03_opcode_map R46, R49, 02_encoding R16, R19). -/

namespace Sys2Proof.Encoding

/-! ## The decoders keep the words of their majors

A decoder's branch is followed in three steps: what it asks of the word, the layout of the word that it gives, and the fields of that layout. Most
fields are slices that the decoder reads. The rest is arithmetic of slices: a must-be-zero slice is a part of a field or covers several, or a
function code shares its field with another code. -/

section
variable {w m : Nat} (hw : w < 2 ^ 31) (hm : bits w 30 25 = m)
include hw hm

/-- Format A3 with a function code: the words of the S and V pipes. -/
theorem keeps_pipeWord (h : m ∈ [0x08, 0x0C, 0x0E, 0x10, 0x11, 0x12, 0x14, 0x15, 0x17, 0x18, 0x19, 0x1A]) : Keeps w (decoderOf m w) := by
  fin_cases h <;>
    simp only [decoderOf, decodeSalu, decodeIalu, decodeImisc, decodeFalu, decodeFalu2, decodeFmisc, decodePkf, decodeDot, decodeSfu, decodeXlane,
      decodePred, decodeCvtpk] <;> split
  all_goals
    simp only [keeps_error, keeps_ok, keeps_need, keeps_ite, keeps_elim, Bool.and_eq_true, beq_iff_eq, implies_true, true_and, and_true,
      Rnd.ofCode_eq_some, Half.ofCode_eq_some, UnpkTy.ofCode_eq_some]
  all_goals
    intros
    refine a3_eq hw hm ?_
    simp only [toNat_ofNat_bits, bit_bitAt, Nat.reduceAdd, Nat.reduceSub, le_refl, true_and, and_true, and_self, *]
  all_goals
    clear hw hm
    unfold bits at *
    omega

/-- Format A3 with a function code: the words of the units. -/
theorem keeps_unitWord (h : m ∈ [0x24, 0x28, 0x29, 0x2B, 0x2C, 0x33, 0x34, 0x35, 0x36]) : Keeps w (decoderOf m w) := by
  fin_cases h <;>
    simp only [decoderOf, decodeRmt, decodeQstr, decodeCpy, decodeBar, decodeOrd, decodeGfx, decodeTex, decodePlot, decodeSys] <;> split
  all_goals
    simp only [keeps_error, keeps_ok, keeps_need, Bool.and_eq_true, beq_iff_eq, implies_true]
  all_goals
    intros
    refine a3_eq hw hm ?_
    simp only [toNat_ofNat_bits, bit_bitAt, Nat.reduceAdd, Nat.reduceSub, le_refl, true_and, and_true, and_self, *]
  all_goals
    clear hw hm
    unfold bits at *
    omega

/-- Format A3 without a function code: the compares and SEL. -/
theorem keeps_compare (h : m ∈ [0x0A, 0x0F, 0x13, 0x1B]) : Keeps w (decoderOf m w) := by
  fin_cases h <;> simp only [decoderOf, decodeScmp, decodeIcmp, decodeFcmp, decodeSel]
  all_goals
    simp only [keeps_error, keeps_ok, keeps_need, keeps_elim, beq_iff_eq, implies_true, true_and, ICc.ofCode_eq_some, FCc.ofCode_eq_some]
    intros
    refine a3_eq hw hm ?_
    simp only [toNat_ofNat_bits, Nat.reduceAdd, Nat.reduceSub, le_refl, true_and, and_true, and_self, *]
  all_goals
    clear hw hm
    unfold bits at *
    omega

/-- Format AI. -/
theorem keeps_immediate (h : m ∈ [0x02, 0x07, 0x09, 0x0B, 0x0D, 0x2A]) : Keeps w (decoderOf m w) := by
  fin_cases h <;> simp only [decoderOf, decodeJmp, decodeFib, decodeSalui, decodeCsr, decodeIalui, decodeCb] <;> split
  all_goals
    simp only [keeps_error, keeps_ok, keeps_need, Bool.and_eq_true, beq_iff_eq, implies_true]
  all_goals
    intros
    refine ai_eq hw hm ?_
    simp only [toNat_ofNat_bits, Nat.reduceAdd, Nat.reduceSub, le_refl, true_and, and_true, and_self, *]
  all_goals
    clear hw hm
    unfold bits at *
    omega

/-- Format M without a function code: the words of memory. -/
theorem keeps_access (h : m ∈ [0x20, 0x21, 0x25, 0x26]) : Keeps w (decoderOf m w) := by
  fin_cases h <;> simp only [decoderOf, decodeLd, decodeSt, decodeAtom, decodeAtoms]
  all_goals
    simp only [keeps_error, keeps_ok, keeps_need, keeps_ite, keeps_elim, beq_iff_eq, implies_true, true_and, Width.ofCode_eq_some,
      Scope.ofCode_eq_some, AWidth.ofCode_eq_some, AtomOp.ofCode_eq_some]
    intros
    refine mf_eq hw hm ?_
    simp only [toNat_ofNat_bits, bit_bitAt, Nat.reduceAdd, Nat.reduceSub, le_refl, true_and, *]
  all_goals
    clear hw hm
    unfold bits at *
    omega

/-- Format M with a function code: the words of the scratchpad and of the window of a lane. -/
theorem keeps_onCore (h : m ∈ [0x22, 0x23]) : Keeps w (decoderOf m w) := by
  fin_cases h <;> simp only [decoderOf, decodeSpm, decodeLpv] <;> split
  all_goals
    simp only [keeps_error, keeps_ok, keeps_need, keeps_elim, Bool.and_eq_true, beq_iff_eq, implies_true, true_and, Width.ofCode_eq_some]
  all_goals
    intros
    refine mf_eq hw hm ?_
    simp only [toNat_ofNat_bits, bit_bitAt, Nat.reduceAdd, Nat.reduceSub, le_refl, true_and, *]
  all_goals
    clear hw hm
    unfold bits at *
    omega

/-- Format X. -/
theorem keeps_matrix (h : m ∈ [0x30, 0x31]) : Keeps w (decoderOf m w) := by
  fin_cases h <;> simp only [decoderOf, decodeMma, decodeMmac]
  all_goals
    simp only [keeps_error, keeps_ok, keeps_need, keeps_elim, beq_iff_eq, implies_true, true_and, MmaFmt.ofCode_eq_some, MmacFmt.ofCode_eq_some]
    intros
    refine xf_eq hw hm ?_
    simp only [toNat_ofNat_bits, bit_bitAt, Nat.reduceAdd, Nat.reduceSub, le_refl, true_and, *]
  all_goals
    clear hw hm
    unfold bits at *
    omega

end

/-! ### Majors with a layout of their own -/

section
variable {w : Nat} (hw : w < 2 ^ 31)
include hw

/-- A CTL word is its function code alone. -/
theorem keeps_ctl (hm : bits w 30 25 = 0x00) : Keeps w (decodeCtl w) := by
  unfold decodeCtl
  split
  all_goals
    simp only [keeps_error, keeps_ok, keeps_need, beq_iff_eq, implies_true]
  all_goals
    intro hz
    refine a3_eq hw hm ?_
    clear hw hm
    unfold bits at *
    omega

theorem keeps_br (hm : bits w 30 25 = 0x01) : Keeps w (decodeBr w) := by
  unfold decodeBr
  split
  all_goals
    simp only [keeps_error, keeps_ok, keeps_need, Bool.and_eq_true, beq_iff_eq, implies_true]
  all_goals
    intros
    refine bf_eq hw hm ?_
    simp only [toNat_ofNat_bits, bit_bitAt, Nat.reduceAdd, Nat.reduceSub, le_refl, true_and, and_true, and_self, *]
  clear hw hm
  unfold bits at *
  omega

theorem keeps_loop (hm : bits w 30 25 = 0x03) : Keeps w (decodeLoop w) := by
  unfold decodeLoop
  split
  all_goals
    simp only [keeps_error, keeps_ok, keeps_need, Bool.and_eq_true, beq_iff_eq, implies_true]
  case h_1 | h_2 =>
    intro hz
    refine lf_eq hw hm ?_
    clear hw hm
    simp only [toNat_ofNat_bits, Nat.reduceAdd, Nat.reduceSub, le_refl, true_and]
    unfold bits at *
    omega
  case h_3 =>
    intro hz
    refine lf_eq hw hm ?_
    clear hw hm
    unfold bits at *
    omega

theorem keeps_rep (hm : bits w 30 25 = 0x04) : Keeps w (decodeRep w) := by
  simp only [decodeRep, keeps_need, beq_iff_eq, keeps_ok]
  intro hz
  exact pf_eq hw hm (by simp only [toNat_ofNat_bits, bit_bitAt, Nat.reduceAdd, Nat.reduceSub, le_refl, and_self, hz])

theorem keeps_wait (hm : bits w 30 25 = 0x05) : Keeps w (decodeWait w) := by
  simp only [decodeWait, keeps_need, beq_iff_eq, keeps_ok]
  intro hz
  exact wf_eq hw hm (by simp only [toNat_ofNat_bits, Nat.reduceAdd, Nat.reduceSub, le_refl, and_self, hz])

theorem keeps_trap (hm : bits w 30 25 = 0x06) : Keeps w (decodeTrap w) := by
  simp only [decodeTrap, keeps_need, beq_iff_eq, keeps_ok]
  intro hz
  exact trap_eq hw hm ⟨(toNat_ofNat_bits (le_refl 8)).symm, hz⟩

theorem keeps_cvt (hm : bits w 30 25 = 0x16) : Keeps w (decodeCvt w) := by
  simp only [decodeCvt, keeps_elim, keeps_ite, keeps_error, keeps_ok, implies_true, true_and, and_true, NumTy.ofCode_eq_some, Rnd.ofCode_eq_some]
  intro e he f hf r hr _
  exact cf_eq hw hm (by simp only [toNat_ofNat_bits, bit_bitAt, Nat.reduceAdd, Nat.reduceSub, le_refl, and_self, he, hf, hr])

/-- MEMX words have format M, but for FENCE, whose two codes stand at the top of the word. -/
theorem keeps_memx (hm : bits w 30 25 = 0x27) : Keeps w (decodeMemx w) := by
  unfold decodeMemx
  split
  all_goals
    simp only [keeps_error, keeps_ok, keeps_need, keeps_elim, Bool.and_eq_true, beq_iff_eq, implies_true, true_and, FScope.ofCode_eq_some,
      FKind.ofCode_eq_some, PLevel.ofCode_eq_some]
  case h_2 =>
    intro hz s hs k hk
    refine a3_eq hw hm ?_
    clear hw hm
    unfold bits at *
    omega
  all_goals
    intros
    refine mf_eq hw hm ?_
    simp only [toNat_ofNat_bits, Nat.reduceAdd, Nat.reduceSub, le_refl, true_and, *]
  all_goals
    clear hw hm
    unfold bits at *
    omega

theorem keeps_zop (hm : bits w 30 25 = 0x32) : Keeps w (decodeZop w) := by
  unfold decodeZop
  split
  all_goals
    simp only [keeps_error, keeps_ok, keeps_need, keeps_elim, Bool.and_eq_true, beq_iff_eq, implies_true, true_and, SlabCnt.ofCode_eq_some,
      Dst.ofCode_eq_some]
  case h_5 =>
    intro hz
    refine zf_eq hw hm ?_
    clear hw hm
    unfold bits at *
    omega
  all_goals
    intros
    refine zf_eq hw hm ?_
    clear hw hm
    simp only [toNat_ofNat_bits, bit_bitAt, Nat.reduceAdd, Nat.reduceSub, le_refl, true_and, *]
    unfold bits at *
    omega

end

/-! ## The decoder of the fields -/

/-- The majors (03_opcode_map R49), by the layouts of their words, and the reserved ones. -/
theorem major_cases {m : Nat} (hm : m < 64) :
    m ∈ [0x08, 0x0C, 0x0E, 0x10, 0x11, 0x12, 0x14, 0x15, 0x17, 0x18, 0x19, 0x1A] ∨ m ∈ [0x24, 0x28, 0x29, 0x2B, 0x2C, 0x33, 0x34, 0x35, 0x36] ∨
      m ∈ [0x0A, 0x0F, 0x13, 0x1B] ∨ m ∈ [0x02, 0x07, 0x09, 0x0B, 0x0D, 0x2A] ∨ m ∈ [0x20, 0x21, 0x25, 0x26] ∨ m ∈ [0x22, 0x23] ∨
      m ∈ [0x30, 0x31] ∨ m = 0x00 ∨ m = 0x01 ∨ m = 0x03 ∨ m = 0x04 ∨ m = 0x05 ∨ m = 0x06 ∨ m = 0x16 ∨ m = 0x27 ∨ m = 0x32 ∨
      (0x1C ≤ m ∧ m ≤ 0x1F ∨ 0x2D ≤ m ∧ m ≤ 0x2F ∨ 0x37 ≤ m) := by
  simp only [List.mem_cons, List.not_mem_nil, or_false]
  omega

theorem major_lt (w : Nat) : bits w 30 25 < 64 := bits_lt w (by decide)

theorem decoderOf_reserved {m : Nat} (w : Nat) (hm : m < 64) (h : 0x1C ≤ m ∧ m ≤ 0x1F ∨ 0x2D ≤ m ∧ m ≤ 0x2F ∨ 0x37 ≤ m) :
    decoderOf m w = .error .reserved := by
  obtain ⟨hl, hu⟩ | ⟨hl, hu⟩ | hl := h <;> interval_cases m <;> rfl

/-- The decoder of the fields keeps every word without a chain bit. -/
theorem keeps_decodeFields {w : Nat} (hw : w < 2 ^ 31) : Keeps w (decodeFields w) := by
  obtain ⟨m, hm⟩ : ∃ m, bits w 30 25 = m := ⟨_, rfl⟩
  have hlt : m < 64 := hm ▸ major_lt w
  rw [decodeFields_eq, hm]
  rcases major_cases hlt with h | h | h | h | h | h | h | rfl | rfl | rfl | rfl | rfl | rfl | rfl | rfl | rfl | h
  · exact keeps_pipeWord hw hm h
  · exact keeps_unitWord hw hm h
  · exact keeps_compare hw hm h
  · exact keeps_immediate hw hm h
  · exact keeps_access hw hm h
  · exact keeps_onCore hw hm h
  · exact keeps_matrix hw hm h
  · exact keeps_ctl hw hm
  · exact keeps_br hw hm
  · exact keeps_loop hw hm
  · exact keeps_rep hw hm
  · exact keeps_wait hw hm
  · exact keeps_trap hw hm
  · exact keeps_cvt hw hm
  · exact keeps_memx hw hm
  · exact keeps_zop hw hm
  · exact decoderOf_reserved w hlt h ▸ keeps_error _

/-- Every slice that a decoder reads ends below the chain bit. -/
theorem decodeFields_cat_one (w : Nat) : decodeFields (cat 1 31 w) = decodeFields w := by
  simp only [decodeFields, decodeCtl, decodeBr, decodeJmp, decodeLoop, decodeRep, decodeWait, decodeTrap, decodeFib, decodeSalu, decodeSalui,
    decodeScmp, decodeCsr, decodeIalu, decodeIalui, decodeImisc, decodeIcmp, decodeFalu, decodeFalu2, decodeFmisc, decodeFcmp, decodePkf, decodeDot,
    decodeCvt, decodeSfu, decodeXlane, decodePred, decodeCvtpk, decodeSel, decodeLd, decodeSt, decodeSpm, decodeLpv, decodeRmt, decodeAtom,
    decodeAtoms, decodeMemx, decodeQstr, decodeCpy, decodeCb, decodeBar, decodeOrd, decodeMma, decodeMmac, decodeZop, decodeGfx, decodeTex,
    decodePlot, decodeSys, bitAt_eq, bits_cat_below, Nat.reduceLT]

/-! ## The decoder -/

/-- The decoder lets through what the fields give and what is well-formed. -/
theorem decode_eq_ok {w : Nat} {i : Instr} (h : decode w = .ok i) : decodeFields w = .ok i ∧ i.wf = true := by
  unfold decode at h
  split at h
  next j hj =>
    split at h
    · next hwf =>
      cases h
      exact ⟨hj, hwf⟩
    · cases h
  next => cases h

/-- A word with its chain bit set decodes as the word without it. -/
theorem decode_of_eq_cat_one {v w : Nat} (h : v = cat 1 31 w) : decode v = decode w := by
  subst h
  rw [decode, decodeFields_cat_one, ← decode]

/-- Settles O2: the decoder of the fields keeps the word, and the decoder lets through only what is well-formed. -/
theorem encodeOfDecode : Obligations.EncodeOfDecode := by
  intro w i hw h
  obtain ⟨hf, hwf⟩ := decode_eq_ok h
  exact ⟨keeps_decodeFields hw i hf, hwf⟩

/-- Settles O3: the decoder of a reserved major rejects all its words, and no decoder reads the chain bit. -/
theorem reservedMajorsRejected : Obligations.ReservedMajorsRejected := by
  refine ⟨fun w _ h => ⟨?_, rfl⟩, fun w _ => ?_⟩
  · have hf : decodeFields w = .error .reserved := (decodeFields_eq w).trans (decoderOf_reserved w (major_lt w) h)
    rw [decode, hf]
  · exact decode_of_eq_cat_one (by unfold cat; omega)

end Sys2Proof.Encoding
end

section
/-! SUPPORT. The words of one and of two sources that write one register of each fibre, with conditions or a floating-point result
(05_vector_scalar R85, R97, R110). -/

namespace Sys2Proof

open Machine

theorem givesFlag_unary {i : Instr} {d a : VReg} {g : LaneIn → Word × Conds} (h : ∀ s, exec i s = laneWord s [a] d fun x => x.flag (g x)) :
    GivesFlag i [a.toNat] d.toNat g := givesFlag_lane h

theorem givesFlag_binary {i : Instr} {d a b : VReg} {g : LaneIn → Word × Conds}
    (h : ∀ s, exec i s = laneWord s [a, b] d fun x => x.flag (g x)) : GivesFlag i [a.toNat, b.toNat] d.toNat g := givesFlag_lane h

theorem givesFloat_unary {i : Instr} {d a : VReg} {g : Nat → FRes} (h : ∀ s, exec i s = floatUn g d a s) :
    GivesFloat i [a.toNat] d.toNat (fun x => g (x.num 0)) := givesFloat_lane h

end Sys2Proof
end

section
/-! PROOF. Integer division, saturating sums and the two signs: the division boundary table, the remainders and the clamps
(04_number_formats R83, 05_vector_scalar R97). -/

namespace Sys2Proof.Integer

open Machine

/-- A quotient that does not overflow is the word's. -/
theorem toInt_ofInt_tdiv {x y : Word} (h : ¬ (x = 0x80000000 ∧ y = 0xFFFFFFFF)) :
    (BitVec.ofInt 32 (x.toInt.tdiv y.toInt)).toInt = x.toInt.tdiv y.toInt := by
  rw [BitVec.toInt_ofInt, ← BitVec.toInt_sdiv, BitVec.toInt_sdiv_of_ne_or_ne _ _ (not_and_or.1 h)]

/-- A remainder fits a word. -/
theorem toInt_ofInt_tmod (x y : Word) : (BitVec.ofInt 32 (x.toInt.tmod y.toInt)).toInt = x.toInt.tmod y.toInt := by
  rw [← BitVec.toInt_srem, BitVec.ofInt_toInt]

theorem natAbs_tmod_lt (x : Int) {y : Int} (h : y ≠ 0) : (x.tmod y).natAbs < y.natAbs := by
  rw [Int.natAbs_tmod]
  exact Nat.mod_lt _ (Int.natAbs_pos.2 h)

/-- A remainder other than 0 takes the sign of the dividend. -/
theorem tmod_neg_iff {x y : Int} (h : x.tmod y ≠ 0) : x.tmod y < 0 ↔ x < 0 := by
  rw [← Int.sign_eq_neg_one_iff_neg, Int.sign_tmod, if_neg fun hdvd => h (Int.tmod_eq_zero_of_dvd hdvd), Int.sign_eq_neg_one_iff_neg]

section
variable {x y : Word}

theorem sdivFlag_eq (hy : y ≠ 0) (ho : ¬ (x = 0x80000000 ∧ y = 0xFFFFFFFF)) :
    sdivFlag x y = (BitVec.ofInt 32 (x.toInt.tdiv y.toInt), 0) := by
  rw [sdivFlag, if_neg hy, if_neg ho]

theorem sremFlag_eq (hy : y ≠ 0) (ho : ¬ (x = 0x80000000 ∧ y = 0xFFFFFFFF)) :
    sremFlag x y = (BitVec.ofInt 32 (x.toInt.tmod y.toInt), 0) := by
  rw [sremFlag, if_neg hy, if_neg ho]

theorem udivFlag_eq (hy : y ≠ 0) : udivFlag x y = (x / y, 0) := by
  rw [udivFlag, if_neg hy, ← BitVec.toNat_udiv, BitVec.ofNat_toNat, BitVec.setWidth_eq]

theorem uremFlag_eq (hy : y ≠ 0) : uremFlag x y = (x % y, 0) := by
  rw [uremFlag, if_neg hy, ← BitVec.toNat_umod, BitVec.ofNat_toNat, BitVec.setWidth_eq]

/-- The division boundary table: a division by 0 (04_number_formats R83). -/
theorem divFlags_zero (x : Word) :
    sdivFlag x 0 = (if x.toInt < 0 then 0x80000000 else 0x7FFFFFFF, intDivZero) ∧ sremFlag x 0 = (x, intDivZero) ∧
      udivFlag x 0 = (0xFFFFFFFF, intDivZero) ∧ uremFlag x 0 = (x, intDivZero) := by
  refine ⟨?_, rfl, rfl, rfl⟩
  rw [sdivFlag, if_pos rfl]
  split <;> rfl

/-- A signed quotient truncates toward zero, and its remainder takes the sign of the dividend (04_number_formats R83). -/
theorem sdiv_srem (hy : y ≠ 0) (ho : ¬ (x = 0x80000000 ∧ y = 0xFFFFFFFF)) :
    (sdivFlag x y).2 = 0 ∧ (sremFlag x y).2 = 0 ∧
      x.toInt = (sdivFlag x y).1.toInt * y.toInt + (sremFlag x y).1.toInt ∧
      (sremFlag x y).1.toInt.natAbs < y.toInt.natAbs ∧ ((sremFlag x y).1 ≠ 0 → ((sremFlag x y).1.toInt < 0 ↔ x.toInt < 0)) := by
  have hr : (sremFlag x y).1.toInt = x.toInt.tmod y.toInt := by rw [sremFlag_eq hy ho, toInt_ofInt_tmod]
  have hq : (sdivFlag x y).1.toInt = x.toInt.tdiv y.toInt := by rw [sdivFlag_eq hy ho, toInt_ofInt_tdiv ho]
  refine ⟨by rw [sdivFlag_eq hy ho], by rw [sremFlag_eq hy ho], ?_, ?_, fun hne => ?_⟩
  · rw [hq, hr, Int.tdiv_mul_add_tmod]
  · rw [hr]
    exact natAbs_tmod_lt _ (BitVec.toInt_ne.2 hy)
  · rw [hr]
    exact tmod_neg_iff (hr ▸ BitVec.toInt_ne.2 hne)

/-- An unsigned quotient with its remainder. -/
theorem udiv_urem (hy : y ≠ 0) :
    (udivFlag x y).2 = 0 ∧ (uremFlag x y).2 = 0 ∧ x.toNat = (udivFlag x y).1.toNat * y.toNat + (uremFlag x y).1.toNat ∧
      (uremFlag x y).1.toNat < y.toNat := by
  rw [udivFlag_eq hy, uremFlag_eq hy]
  refine ⟨rfl, rfl, ?_, ?_⟩
  · rw [BitVec.toNat_udiv, BitVec.toNat_umod, Nat.div_add_mod']
  · rw [BitVec.toNat_umod]
    exact Nat.mod_lt _ (Nat.pos_of_ne_zero (BitVec.toNat_ne.1 hy))

end

theorem clampInt_below {n : Int} (h : n < -2 ^ 31) : clampInt n = (0x80000000, intOverflow) := if_pos h

theorem clampInt_above {n : Int} (h : 2 ^ 31 ≤ n) : clampInt n = (0x7FFFFFFF, intOverflow) := by
  rw [clampInt, if_neg (by omega), if_pos h]

theorem clampInt_between {n : Int} (hl : -2 ^ 31 ≤ n) (hu : n < 2 ^ 31) : clampInt n = (BitVec.ofInt 32 n, 0) := by
  rw [clampInt, if_neg (by omega), if_neg (by omega)]

/-- Settles O10: each word is one computation in each fibre, and the three functions are what their equations say. -/
theorem vectorIntegerConditions : Obligations.VectorIntegerConditions := by
  intro d a b
  refine ⟨givesFlag_binary fun _ => rfl, givesFlag_binary fun _ => rfl, givesFlag_binary fun _ => rfl, givesFlag_binary fun _ => rfl,
    givesFlag_binary fun _ => rfl, givesFlag_binary fun _ => rfl, givesFlag_unary fun _ => rfl, givesFlag_unary fun _ => rfl,
    fun x y => ⟨?_, ?_, sdiv_srem, udiv_urem⟩, fun n => ⟨clampInt_below, clampInt_above, fun hl hu => ?_⟩⟩
  · rintro rfl
    exact divFlags_zero x
  · rintro rfl rfl
    exact ⟨rfl, rfl⟩
  · rw [clampInt_between hl hu]
    exact ⟨BitVec.toInt_ofInt_eq_self (by decide) hl hu, rfl⟩

end Sys2Proof.Integer
end

section
/-! PROOF. The trap that stands for several: the order of traps, and the trap of the conditions that ftrap enables (02_encoding R43,
04_number_formats R70). -/

namespace Sys2Proof.Conditions

open Machine

/-! ## Unions of bit sets -/

/-- A union has the bits that one of its parts has. -/
theorem getLsbD_foldl_or {α : Type} {n : Nat} (f : α → BitVec n) (xs : List α) (m : BitVec n) (i : Nat) :
    (xs.foldl (fun m x => m ||| f x) m).getLsbD i = true ↔ m.getLsbD i = true ∨ ∃ x ∈ xs, (f x).getLsbD i = true := by
  induction xs generalizing m with
  | nil => simp only [List.foldl_nil, List.not_mem_nil, false_and, exists_false, or_false]
  | cons x xs ih => simp only [List.foldl_cons, ih, BitVec.getLsbD_or, Bool.or_eq_true, List.mem_cons, exists_eq_or_imp, or_assoc]

theorem getLsbD_laneBit {l : Nat} (hl : l < 64) (j : Nat) : ((1 <<< j : Nat) : DWord).getLsbD l = true ↔ j = l := by
  simp only [BitVec.natCast_eq_ofNat, BitVec.getLsbD_ofNat, Nat.one_shiftLeft, Nat.testBit_two_pow, hl, decide_true, Bool.true_and,
    decide_eq_true_eq]

/-- A mask has the bits of the lane slots of its list. -/
theorem getLsbD_maskOf (lanes : List Nat) {l : Nat} (hl : l < 64) : (maskOf lanes).getLsbD l = true ↔ l ∈ lanes := by
  rw [maskOf, getLsbD_foldl_or]
  simp only [getLsbD_laneBit hl, exists_eq_right, BitVec.ofNat_eq_ofNat, BitVec.getLsbD_zero, Bool.false_eq_true, false_or]

/-- The conditions of a chain are those that one of its fibres raised. -/
theorem getLsbD_allConds (cs : List (Nat × BitVec 7)) (j : Nat) :
    (allConds cs).getLsbD j = true ↔ ∃ l c, (l, c) ∈ cs ∧ c.getLsbD j = true := by
  rw [allConds, getLsbD_foldl_or]
  simp only [BitVec.ofNat_eq_ofNat, BitVec.getLsbD_zero, Bool.false_eq_true, false_or, Prod.exists]

/-- The lane slots of a trap of the conditions are those that raised an enabled one. -/
theorem mem_hitLanes (ft : BitVec 7) (cs : List (Nat × BitVec 7)) (l : Nat) :
    l ∈ hitLanes ft cs ↔ ∃ c, (l, c) ∈ cs ∧ c &&& ft ≠ 0 := by
  simp only [hitLanes, List.mem_map, List.mem_filter, bne_iff_ne, Prod.exists, exists_and_right, exists_eq_right]

/-! ## The first of several traps -/

/-- A list with an element has a least one. -/
theorem exists_least {α : Type} (key : α → Nat) {x : α} {xs : List α} (hx : x ∈ xs) :
    ∃ y ∈ xs, least key xs = some y ∧ ∀ z ∈ xs, key y ≤ key z := by
  induction xs generalizing x with
  | nil => cases hx
  | cons a xs ih =>
    cases xs with
    | nil => exact ⟨a, by simp, rfl, by simp⟩
    | cons b xs =>
      obtain ⟨y, hy, hleast, hle⟩ := ih (List.mem_cons_self ..)
      have hstep : least key (a :: b :: xs) = if key y < key a then some y else some a := by rw [least, hleast]
      by_cases hya : key y < key a
      · exact ⟨y, List.mem_cons_of_mem a hy, hstep.trans (if_pos hya), List.forall_mem_cons.2 ⟨hya.le, hle⟩⟩
      · exact ⟨a, List.mem_cons_self .., hstep.trans (if_neg hya),
          List.forall_mem_cons.2 ⟨le_rfl, fun z hz => (not_lt.1 hya).trans (hle z hz)⟩⟩

/-- The order in which the traps of a chain are taken: the privilege cause, then the lower code, then the lower lane slot (02_encoding R43). -/
def trapKey (t : Trap) : Nat := 128 * (if t.cause = 0x07 then 0 else t.cause) + lowLane t.tmask

theorem lowLane_le (m : DWord) : lowLane m ≤ 64 := by
  rw [lowLane]
  cases h : (List.range 64).find? fun i => m.getLsbD i with
  | none => exact le_refl 64
  | some i => exact (List.mem_range.1 (List.mem_of_find?_eq_some h)).le

/-- Above the privilege cause, the order of traps is the order of their codes. -/
theorem trapKey_lt_iff {n : Nat} (hn : 0x07 < n) (t : Trap) : trapKey t < 128 * n ↔ t.cause < n := by
  have := lowLane_le t.tmask
  unfold trapKey
  split <;> omega

/-- A trap that stands for all traps of its cause: their lane slots and their queues. -/
def mergedTrap (ts : List Trap) (b : Trap) : Trap :=
  let mine := ts.filter fun t => t.cause == b.cause
  { b with tmask := mine.foldl (fun m t => m ||| t.tmask) 0, pops := mine.flatMap Trap.pops }

/-- Of several traps a first one is taken, for all that raised its code. -/
theorem exists_pickTrap {ts : List Trap} {t : Trap} (ht : t ∈ ts) :
    ∃ b ∈ ts, pickTrap ts = some (mergedTrap ts b) ∧ ∀ x ∈ ts, trapKey b ≤ trapKey x := by
  obtain ⟨b, hb, hleast, hle⟩ := exists_least trapKey ht
  exact ⟨b, hb, congrArg (Option.map (mergedTrap ts)) hleast, hle⟩

/-- A trap below all others in code is taken as it is. -/
theorem pickTrap_append_of_lt {ts : List Trap} {c : Trap} (hc : 0x07 ≤ c.cause) (h : ∀ x ∈ ts, c.cause < x.cause) :
    pickTrap (ts ++ [c]) = some c := by
  obtain ⟨b, hb, hpick, hle⟩ := exists_pickTrap (List.mem_append_right ts (List.mem_singleton_self c))
  have hbc : b.cause < c.cause + 1 := (trapKey_lt_iff (by omega) b).1
    ((hle c (by simp)).trans_lt ((trapKey_lt_iff (by omega) c).2 (by omega)))
  have hts : ∀ x ∈ ts, (x.cause == c.cause) = false := fun x hx => beq_false_of_ne (h x hx).ne'
  obtain hb | hb := List.mem_append.1 hb
  · have := h b hb
    omega
  · obtain rfl := List.mem_singleton.1 hb
    rw [hpick, mergedTrap, List.filter_append, List.filter_eq_nil_iff.2 fun x hx => by simp [hts x hx]]
    simp

/-- A trap of a lower code is taken before a given one. -/
theorem pickTrap_append_of_gt {ts : List Trap} {c x : Trap} (hc : 0x07 < c.cause) (hx : x ∈ ts) (h : x.cause < c.cause) :
    ∃ y ∈ ts, pickTrap (ts ++ [c]) = some (mergedTrap (ts ++ [c]) y) ∧ y.cause < c.cause := by
  obtain ⟨b, hb, hpick, hle⟩ := exists_pickTrap (List.mem_append_left [c] hx)
  have hbc : b.cause < c.cause := (trapKey_lt_iff hc b).1
    ((hle x (List.mem_append_left _ hx)).trans_lt ((trapKey_lt_iff hc x).2 h))
  obtain hb | hb := List.mem_append.1 hb
  · exact ⟨b, hb, hpick, hbc⟩
  · rw [List.mem_singleton.1 hb] at hbc
    exact absurd hbc (lt_irrefl _)

/-! ## The trap of enabled conditions -/

section
variable {w : Wave} {cs : List (Nat × BitVec 7)}

theorem condTrap_of_enabled (h : allConds cs &&& w.ftrap ≠ 0) :
    condTrap w cs = some (mkTrap 0x28 (hitLanes w.ftrap cs) 0 (allConds cs &&& w.ftrap).toNat) := by
  rw [condTrap, if_pos (bne_iff_ne.2 h)]

/-- The trap of the conditions stands above the privilege cause. -/
theorem privilege_lt_conditions (lanes : List Nat) (addr info : Nat) : 0x07 < (mkTrap 0x28 lanes addr info).cause :=
  show 0x07 < 0x28 by decide

/-- The detail of the trap has a bit for each enabled condition that was raised. -/
theorem getLsbD_condInfo (lanes : List Nat) (addr j : Nat) :
    (mkTrap 0x28 lanes addr (allConds cs &&& w.ftrap).toNat).tinfo.getLsbD j = true ↔
      ∃ l c, (l, c) ∈ cs ∧ c.getLsbD j = true ∧ w.ftrap.getLsbD j = true := by
  have hj : w.ftrap.getLsbD j = true → j < 32 := fun h => (BitVec.lt_of_getLsbD h).trans (by decide)
  simp only [mkTrap, BitVec.ofNat_toNat, BitVec.getLsbD_setWidth, BitVec.getLsbD_and, Bool.and_eq_true, decide_eq_true_eq, getLsbD_allConds]
  constructor
  · rintro ⟨-, ⟨l, c, hmem, hc⟩, hf⟩
    exact ⟨l, c, hmem, hc, hf⟩
  · rintro ⟨l, c, hmem, hc, hf⟩
    exact ⟨hj hf, ⟨l, c, hmem, hc⟩, hf⟩

/-- With trap 0x28, fstat receives every condition of the chain, and no barrier object is marked (04_number_formats R70). -/
theorem takeTrap_conditions {s : State} {k : Nat} (hw : s.wave k = some w) (lanes : List Nat) {t : Trap} (hn : t.next = false)
    (hc : t.cause = 0x28) :
    takeTrap s k lanes t = enterTrap (s.setWave k { w with fstat := w.fstat ||| allConds s.issue.conds }) k lanes t := by
  have hmark : markOverrun s w.blk t = s := by
    rw [markOverrun, hc]
    cases s.block w.blk <;> rfl
  simp only [takeTrap, hw, hn, hc, hmark, Bool.false_eq_true, if_false, if_true]

/-- A chain that raises an enabled condition has no effect but its trap. -/
theorem endChain_conditions {s t : State} {k : Nat} (hw : s.wave k = some w) (lanes : List Nat) (h : allConds t.issue.conds &&& w.ftrap ≠ 0) :
    endChain s k lanes (.ok t) =
      let u := enterTrap ((s.withConds t.issue.conds).setWave k { w with fstat := w.fstat ||| allConds t.issue.conds }) k lanes
        (mkTrap 0x28 (hitLanes w.ftrap t.issue.conds) 0 (allConds t.issue.conds &&& w.ftrap).toNat)
      { u with issue := u.issue.clear } := by
  simp only [endChain, hw, Option.bind_some, condTrap_of_enabled h]
  rw [takeTrap_conditions ((s.wave_withConds _ k).trans hw) lanes rfl rfl]
  rfl

end

/-- Settles O55: the chain ends with the trap of its conditions, and of several traps the first in their order is taken. -/
theorem enabledConditionsTrap : Obligations.EnabledConditionsTrap := by
  intro s t k w0 w1 hw _
  refine ⟨endChain_conditions hw _, fun l hl => ?_, fun j => getLsbD_condInfo _ 0 j, getLsbD_allConds _, fun ts he => ?_⟩
  · exact (getLsbD_maskOf _ hl).trans (mem_hitLanes w0.ftrap t.issue.conds l)
  · rw [condTrap_of_enabled he]
    refine ⟨pickTrap_append_of_lt (privilege_lt_conditions _ _ _).le, fun x hx hlt => ?_⟩
    obtain ⟨y, hy, hpick, hlow⟩ := pickTrap_append_of_gt (privilege_lt_conditions _ _ _) hx hlt
    exact ⟨y, hy, _, hpick, rfl, hlow⟩

end Sys2Proof.Conditions
end

section
/-! SUPPORT. The words that pack and widen, in each fibre of their batch (04_number_formats R80 to R82). -/

namespace Sys2Proof.Conversions

open Machine

/-! ## Widening -/

theorem wideCheck_eq_none {r : Wave} {srcs : List Nat} {d n : Nat} (h : wideCheck r srcs d n = none) :
    d + n ≤ 124 ∧ portCheck r srcs ((List.range n).map (d + ·)) = none := by
  unfold wideCheck at h
  split at h
  · cases h
  · exact ⟨by omega, h⟩

/-- The registers of a run that pass the checks lie in the physical file. -/
theorem run_lt_of_portCheck {r : Wave} {srcs dsts : List Nat} {v : Nat} (ho : Ordered r) (h : portCheck r srcs dsts = none) (hv : v ∈ dsts)
    (hd : v < 124) {p : Nat × Fibre} (hp : p ∈ fibresOf r (batch r)) : p.2.base + v < 4096 := by
  have hw := portCheck_inWindow h p hp v (List.mem_append_right _ hv) hd
  simp only [inWindow, Bool.and_eq_true, decide_eq_true_eq] at hw
  exact hw.2.trans_le ho.2

/-- The register checks of a widening into `n` registers (04_number_formats R82). -/
def unpackCheck (u : UnpkTy) (a d : VReg) (r : Wave) : Option Trap :=
  if unpkCount u = 1 then portCheck r [a.toNat] [d.toNat] else wideCheck r [a.toNat] d.toNat (unpkCount u)

theorem unpackOp_eq (h : Nat) (d a : VReg) (u : UnpkTy) (s : State) :
    unpackOp h d a u s = vecRun s (unpackCheck u a d) [a.toNat] (some d.toNat) fun _ _ x =>
      { regs := (unpack u (halfOf (x.num 0) h)).1, preds := [], conds := (unpack u (halfOf (x.num 0) h)).2 } := by
  cases u <;> rfl

theorem unpackCheck_bound {u : UnpkTy} {a d : VReg} {r : Wave} (ho : Ordered r) (h : unpackCheck u a d r = none) (hd : d.toNat < 124)
    {p : Nat × Fibre} (hp : p ∈ fibresOf r (batch r)) : p.2.base + (d.toNat + unpkCount u) ≤ 4096 := by
  unfold unpackCheck at h
  split at h
  next hone =>
    have := run_lt_of_portCheck ho h (List.mem_singleton_self _) hd hp
    omega
  next =>
    obtain ⟨hfit, hport⟩ := wideCheck_eq_none h
    have hpos : 0 < unpkCount u := by cases u <;> decide
    have hlast : d.toNat + (unpkCount u - 1) ∈ (List.range (unpkCount u)).map (d.toNat + ·) :=
      List.mem_map_of_mem (List.mem_range.2 (Nat.sub_lt hpos Nat.one_pos))
    have := run_lt_of_portCheck ho hport hlast (by omega) hp
    omega

theorem length_unpack (u : UnpkTy) (x : Nat) : (unpack u x).1.length = unpkCount u := by
  simp only [unpack, List.length_map, List.length_range]

theorem halfOf_zero (x : Nat) : halfOf x 0 = x % 2 ^ 16 := by rw [halfOf, Nat.mul_zero, Nat.pow_zero, Nat.div_one]

theorem halfOf_one (x : Nat) : halfOf x 1 = x / 2 ^ 16 % 2 ^ 16 := rfl

/-- A word that widens a half of vA computes the elements of that half. -/
theorem computesRun_unpack {i : Instr} {h : Nat} {d a : VReg} {u : UnpkTy} (half : Nat → Nat) (hhalf : ∀ x, halfOf x h = half x)
    (hi : ∀ s, exec i s = unpackOp h d a u s) :
    ComputesRun i (unpackCheck u a d) [a.toNat] d.toNat (unpkCount u) (fun _ _ _ x => unpack u (half (x.num 0))) :=
  computesRun_of (fun s => (hi s).trans (unpackOp_eq h d a u s)) (fun _ _ _ x => by rw [hhalf]) (fun _ _ _ _ => length_unpack u _)
    fun hd _ ho hc _ hp => unpackCheck_bound ho hc hd hp

/-! ## Packing -/

/-- A packing word whose D is a register shifts into that register (04_number_formats R80). -/
theorem givesFlag_pack {i : Instr} {d a b : VReg} {g : Word → Word → Word → Word × Conds} (hd : d.toNat < 126)
    (h : ∀ s, exec i s = lanePack s [a, b] d fun x old => x.flag (g (x.arg 0) (x.arg 1) old)) :
    GivesFlag i [a.toNat, b.toNat, d.toNat] d.toNat (fun x => g (x.arg 0) (x.arg 1) (x.arg 2)) :=
  givesFlag_acc (srcs := [a, b]) fun s => (h s).trans (if_neg (by omega))

/-- The value that a packing word shifts when its D is a store queue (log 59). -/
def freeOld (s : State) (lane : Nat) : Word := Config.freeWord s.tick (2 ^ 41 + lane)

theorem computes_pack {i : Instr} {d a b : VReg} {g : Word → Word → Word → Word × Conds} (hd : 126 ≤ d.toNat)
    (h : ∀ s, exec i s = lanePack s [a, b] d fun x old => x.flag (g (x.arg 0) (x.arg 1) old)) :
    Computes i [a.toNat, b.toNat] d.toNat (fun s _ _ x => g (x.arg 0) (x.arg 1) (freeOld s x.lane)) :=
  computes_of (f := fun s _ _ x => x.flag (g (x.arg 0) (x.arg 1) (freeOld s x.lane)))
    (fun s => (h s).trans (if_pos (by have := d.isLt; omega))) fun _ _ _ _ => rfl

end Sys2Proof.Conversions
end

section
/-! SUPPORT. What a conversion makes of a value: an integer clamped, cut or rounded, and a value rounded once in a float format
(04_number_formats R76, R77). -/

namespace Sys2Proof.Conversions

open Machine

/-! ## Integers -/

theorem intMin_le_intMax (T : Nat × Bool) : intMin T ≤ intMax T := by
  unfold intMin intMax
  have h1 := Nat.two_pow_pos (T.1 - 1)
  have h2 := Nat.two_pow_pos T.1
  split <;> omega

theorem intTy_width {e : NumTy} {T : Nat × Bool} (h : intTy e = some T) : T.1 ≤ 32 := by
  cases e <;> cases h <;> decide

/-- The integer that the low bits of a register hold is the register's value modulo their number. -/
theorem intOf_emod (T : Nat × Bool) (x : Nat) : intOf T x % 2 ^ T.1 = x % 2 ^ T.1 := by
  unfold intOf signed
  split
  · split <;> simp
  · simp

theorem intOf_emod_of_le {T : Nat × Bool} {n : Nat} (h : n ≤ T.1) (x : Nat) : intOf T x % 2 ^ n = x % 2 ^ n := by
  have hdvd : (2 : Int) ^ n ∣ 2 ^ T.1 := pow_dvd_pow 2 h
  rw [← Int.emod_emod_of_dvd _ hdvd, intOf_emod, Int.emod_emod_of_dvd _ hdvd]

/-- The low bits of a word that holds an integer. -/
theorem wordOfInt_emod (y : Int) {n : Nat} (h : n ≤ 32) : ((wordOfInt y).toNat : Int) % 2 ^ n = y % 2 ^ n := by
  rw [wordOfInt, BitVec.toNat_ofInt, Int.toNat_of_nonneg (Int.emod_nonneg _ (by decide)), Int.emod_emod_of_dvd]
  exact_mod_cast pow_dvd_pow 2 h

/-- An integer cut to a type keeps the low bits (04_number_formats R76). -/
theorem narrowInt_cut {T : Nat × Bool} (h : T.1 ≤ 32) (y : Int) : ((narrowInt T false y).1.toNat : Int) % 2 ^ T.1 = y % 2 ^ T.1 :=
  calc ((narrowInt T false y).1.toNat : Int) % 2 ^ T.1
      = intOf T (y % 2 ^ T.1).toNat % 2 ^ T.1 := wordOfInt_emod _ h
    _ = y % 2 ^ T.1 := by rw [intOf_emod, Int.toNat_of_nonneg (Int.emod_nonneg y (by positivity)), Int.emod_emod]

theorem narrowInt_cut_conds (T : Nat × Bool) (y : Int) : (narrowInt T false y).2 = 0 := rfl

/-- An integer clamped to a type raises int-overflow when it lay outside (04_number_formats R76). -/
theorem narrowInt_clamp (T : Nat × Bool) (y : Int) :
    narrowInt T true y =
      (wordOfInt (max (intMin T) (min y (intMax T))), raise intOverflow (decide (y < intMin T ∨ intMax T < y))) := by
  have h := intMin_le_intMax T
  have hiff : max (intMin T) (min y (intMax T)) ≠ y ↔ y < intMin T ∨ intMax T < y := by omega
  simp only [narrowInt, if_true, placeInt, hiff]

/-- A finite value converted to an integer is rounded at the units and clamped (04_number_formats R76, R77). -/
theorem toInt_fin (T : Nat × Bool) (r : Rnd) (s : Bool) (n : Nat) (g : Int) :
    let y := signInt s (roundAt r s n g 0).1
    toInt T r (.fin s n g) = (wordOfInt (max (intMin T) (min y (intMax T))),
      if y < intMin T ∨ intMax T < y then invalid else raise inexact (roundAt r s n g 0).2) := by
  have h := intMin_le_intMax T
  intro y
  have hfin : toInt T r (.fin s n g) = if y < intMin T then (wordOfInt (intMin T), invalid)
      else if intMax T < y then (wordOfInt (intMax T), invalid) else (wordOfInt y, raise inexact (roundAt r s n g 0).2) := rfl
  rw [hfin]
  by_cases hlo : y < intMin T
  · rw [if_pos hlo, if_pos (.inl hlo), max_eq_left ((min_le_left y _).trans hlo.le)]
  · by_cases hhi : intMax T < y
    · rw [if_neg hlo, if_pos hhi, if_pos (.inr hhi), min_eq_right hhi.le, max_eq_right h]
    · rw [if_neg hlo, if_neg hhi, if_neg (not_or.2 ⟨hlo, hhi⟩), min_eq_left (not_lt.1 hhi), max_eq_right (not_lt.1 hlo)]

/-! ## Conversion of a value -/

/-- CVT of a value that is no integer of a register (04_number_formats R76). -/
def convertVal (e : NumTy) (r : Rnd) (sat : Bool) (v : FVal) : Word × Conds :=
  match intTy e, fmtOf e with
  | some T, _ => toInt T r v
  | none, some F => (BitVec.ofNat 32 (toFmt F r sat v).bits, (toFmt F r sat v).conds)
  | none, none =>
    let t := if e = .sp8 then anySp8 r v else anyE8m0 r sat v
    (BitVec.ofNat 32 t.bits, t.conds)

theorem decodeNum_f32 (x : Word) : decodeNum .f32 x.toNat = decodeF fmtF32 x.toNat :=
  congrArg (decodeF fmtF32) (Nat.mod_eq_of_lt x.isLt)

theorem convert_f32 {x : Word} {v : FVal} (h : decodeF fmtF32 x.toNat = v) (e : NumTy) (r : Rnd) (sat : Bool) :
    convert e .f32 r sat x = convertVal e r sat v := by
  rw [← h, ← decodeNum_f32]
  cases e <;> rfl

theorem convertVal_int {e : NumTy} {T : Nat × Bool} (he : intTy e = some T) (r : Rnd) (sat : Bool) (v : FVal) :
    convertVal e r sat v = toInt T r v := by
  simp only [convertVal, he]

theorem convertVal_float {e : NumTy} {F : Fmt} (he : fmtOf e = some F) (r : Rnd) (sat : Bool) (v : FVal) :
    convertVal e r sat v = (BitVec.ofNat 32 (toFmt F r sat v).bits, (toFmt F r sat v).conds) := by
  cases e <;> cases he <;> rfl

theorem convert_int {e f : NumTy} {T U : Nat × Bool} (he : intTy e = some T) (hf : intTy f = some U) (r : Rnd) (sat : Bool) (x : Word) :
    convert e f r sat x = narrowInt T sat (intOf U x.toNat) := by
  simp only [convert, he, hf]

/-- An integer of 32 bits that is converted without saturation keeps its low bits (04_number_formats R76). -/
theorem convert_int_low {e f : NumTy} {T U : Nat × Bool} (he : intTy e = some T) (hf : intTy f = some U) (hU : U.1 = 32) (r : Rnd) (x : Word) :
    (convert e f r false x).1.toNat % 2 ^ T.1 = x.toNat % 2 ^ T.1 := by
  have hcut : ((convert e f r false x).1.toNat : Int) % 2 ^ T.1 = x.toNat % 2 ^ T.1 := by
    rw [convert_int he hf, narrowInt_cut (intTy_width he), intOf_emod_of_le (hU ▸ intTy_width he)]
  exact_mod_cast hcut

/-- A finite value other than 0 in a float format is rounded once at the format's unit in the last place (04_number_formats R76). -/
theorem toFmt_fin (F : Fmt) (r : Rnd) (sat s : Bool) {n : Nat} (g : Int) (hn : n ≠ 0) :
    let q := max (leadExp n g - F.mb) F.low
    let u := roundAt r s n g q
    let c := (q - F.low).toNat * 2 ^ F.mb + u.1
    (c ≤ F.top → toFmt F r sat (.fin s n g) =
      { bits := F.sign s + c, conds := raise inexact u.2 ||| raise underflow (u.2 && isTiny F r s n g) }) ∧
    (F.top < c → toFmt F r sat (.fin s n g) =
      { bits := if towardZero r s = true then F.sign s + F.top else specialBits F sat s, conds := overflow ||| inexact }) := by
  intro q u c
  have h : toFmt F r sat (.fin s n g) = roundFin F r s n g (specialBits F sat s) := if_neg hn
  refine ⟨fun hc => h.trans (if_neg (Nat.not_lt.2 hc)), fun hc => h.trans (if_pos hc)⟩

end Sys2Proof.Conversions
end

section
/-! PROOF. The conversions, the packing words and the special functions, with their tables of special results (04_number_formats R73 to R82,
05_vector_scalar R110 to R112). -/

namespace Sys2Proof.Conversions

open Machine

/-! ## Special functions -/

section
variable {x : Nat}

theorem special_nan {g : Bool} (h : decodeF fmtF32 x = .nan g) :
    let r := nan32 (raise invalid g)
    sfRcp x = r ∧ sfRsq x = r ∧ sfSqrt x = r ∧ sfExp2 x = r ∧ sfLog2 x = r ∧ sfSin x = r ∧ sfCos x = r ∧ sfTanh x = r := by
  simp only [sfRcp, sfRsq, sfSqrt, sfExp2, sfLog2, sfSin, sfCos, sfTanh, h, and_self]

theorem special_inf {s : Bool} (h : decodeF fmtF32 x = .inf s) :
    sfRcp x = special (fmtF32.sign s) 0 ∧ sfRsq x = (if s then nan32 invalid else special 0 0) ∧
      sfSqrt x = (if s then nan32 invalid else special 0x7F800000 0) ∧ sfExp2 x = special (if s then 0 else 0x7F800000) 0 ∧
      sfLog2 x = (if s then nan32 invalid else special 0x7F800000 0) ∧ sfSin x = nan32 invalid ∧ sfCos x = nan32 invalid ∧
      sfTanh x = special (fmtF32.sign s + 0x3F800000) 0 := by
  simp only [sfRcp, sfRsq, sfSqrt, sfExp2, sfLog2, sfSin, sfCos, sfTanh, h, and_self]

theorem special_negative {n : Nat} {g : Int} (h : decodeF fmtF32 x = .fin true n g) (hn : n ≠ 0) :
    sfRsq x = nan32 invalid ∧ sfSqrt x = nan32 invalid ∧ sfLog2 x = nan32 invalid := by
  simp only [sfRsq, sfSqrt, sfLog2, h, hn, if_true, if_false, and_self]

theorem toFix_zero (s : Bool) (g : Int) : toFix s 0 g = 0 := by cases s <;> simp [toFix, signInt]

/-- The cosine of no turn. -/
theorem turnOf_quarter : turnOf false 0 1 = special 0x3F800000 0 := by simp [turnOf, Fmt.sign]

theorem deliver_one : deliver fmtF32 .rne (.fin false 1 0) 0#7 = special 0x3F800000 0#7 := rfl

theorem sfExp2_zero {s : Bool} {g : Int} (h : decodeF fmtF32 x = .fin s 0 g) : sfExp2 x = special 0x3F800000 0 := by
  simp [sfExp2, h, toFix_zero, deliver_one]

theorem sfCos_zero {s : Bool} {g : Int} (h : decodeF fmtF32 x = .fin s 0 g) : sfCos x = special 0x3F800000 0 := by
  simp [sfCos, h, toFix_zero, turnOf_quarter]

theorem special_zero {s : Bool} {g : Int} (h : decodeF fmtF32 x = .fin s 0 g) :
    sfRcp x = special (fmtF32.infBits s) divZero ∧ sfRsq x = special (fmtF32.infBits s) divZero ∧ sfSqrt x = special (fmtF32.sign s) 0 ∧
      sfExp2 x = special 0x3F800000 0 ∧ sfLog2 x = special 0xFF800000 divZero ∧ sfSin x = special (fmtF32.sign s) 0 ∧
      sfCos x = special 0x3F800000 0 ∧ sfTanh x = special (fmtF32.sign s) 0 := by
  simp only [sfRcp, sfRsq, sfSqrt, sfLog2, sfSin, sfTanh, h, sfExp2_zero h, sfCos_zero h, if_true, and_self]

end

/-! ## The statement -/

/-- Settles O13: each word is one computation in each fibre, the tables are read off from the values of their inputs, and every other
value is rounded, clamped or cut as the lemmas of the conversions say. -/
theorem conversionsAndSpecialFunctions : Obligations.ConversionsAndSpecialFunctions := by
  have hqnan : decodeF fmtF32 (0x7FC00000 : Word).toNat = .nan false := by decide
  have hsnan : decodeF fmtF32 (0x7F800001 : Word).toNat = .nan true := by decide
  have hinf : decodeF fmtF32 (0x7F800000 : Word).toNat = .inf false := by decide
  have hninf : decodeF fmtF32 (0xFF800000 : Word).toNat = .inf true := by decide
  have htop : decodeF fmtF32 (0x7F7FFFFF : Word).toNat = .fin false 0xFFFFFF 104 := by decide
  have hzero : decodeF fmtF32 0 = .fin false 0 (-149) := by decide
  have hnzero : decodeF fmtF32 0x80000000 = .fin true 0 (-149) := by decide
  intro d a b e f m t u
  refine ⟨givesFlag_unary fun _ => rfl, givesFlag_binary fun _ => rfl, givesFlag_binary fun _ => rfl,
    fun hd => ⟨givesFlag_pack hd fun _ => rfl, givesFlag_pack hd fun _ => rfl, givesFlag_pack hd fun _ => rfl⟩,
    fun hd => ⟨freeOld, computes_pack hd fun _ => rfl, computes_pack hd fun _ => rfl, computes_pack hd fun _ => rfl⟩,
    computesRun_unpack (fun v => v % 2 ^ 16) halfOf_zero fun _ => rfl,
    computesRun_unpack (fun v => v / 2 ^ 16 % 2 ^ 16) halfOf_one fun _ => rfl,
    givesFloat_unary fun _ => rfl, givesFloat_unary fun _ => rfl, givesFloat_unary fun _ => rfl, givesFloat_unary fun _ => rfl,
    givesFloat_unary fun _ => rfl, givesFloat_unary fun _ => rfl, givesFloat_unary fun _ => rfl, givesFloat_unary fun _ => rfl,
    ⟨fun row hrow => ?_, fun row hrow => ?_, fun row hrow => ?_, fun row hrow => ?_, fun row hrow => ?_⟩,
    fun T U x he => ⟨fun s n g hx => ?_, fun hf hU => ⟨?_, ?_, convert_int_low he hf hU m x⟩⟩,
    fun F x s n g he hx hn => ?_,
    fun row hrow => ?_, special_inf hinf, special_inf hninf, fun x => ⟨fun g h => special_nan h, fun n g h hn => special_negative h hn⟩⟩
  · rw [convert_f32 hqnan]
    fin_cases hrow <;> rfl
  · rw [convert_f32 hsnan]
    fin_cases hrow <;> rfl
  · rw [convert_f32 hinf, convert_f32 hninf]
    fin_cases hrow <;> exact ⟨rfl, rfl⟩
  · rw [convert_f32 hinf, convert_f32 hninf]
    fin_cases hrow <;> exact ⟨rfl, rfl⟩
  · rw [convert_f32 htop, convert_f32 htop]
    fin_cases hrow <;> exact ⟨rfl, rfl⟩
  · rw [convert_f32 hx, convertVal_int he]
    exact toInt_fin T m s n g
  · rw [convert_int he hf, narrowInt_clamp]
  · rw [convert_int he hf, narrowInt_cut_conds]
  · obtain ⟨hin, hout⟩ := toFmt_fin F m t s g hn
    rw [convert_f32 hx, convertVal_float he]
    exact ⟨fun hc => by rw [hin hc], fun hc => by rw [hout hc]⟩
  · fin_cases hrow
    · exact special_zero hzero
    · exact special_zero hnzero

end Sys2Proof.Conversions
end

section
/-! SUPPORT. The shared shapes of the integer words, and the functions of the integer operation table that the model writes by cases
(05_vector_scalar R90, R96, R98). -/

namespace Sys2Proof

open Machine

/-! ## Shapes -/

theorem gives_const {i : Instr} {d : VReg} {g : LaneIn → Word} (h : ∀ s, exec i s = laneWord s [] d fun x => x.reg (g x)) :
    Gives i [] d.toNat g := gives_lane h

theorem gives_unary {i : Instr} {d a : VReg} {g : LaneIn → Word} (h : ∀ s, exec i s = laneWord s [a] d fun x => x.reg (g x)) :
    Gives i [a.toNat] d.toNat g := gives_lane h

theorem gives_binary {i : Instr} {d a b : VReg} {g : LaneIn → Word} (h : ∀ s, exec i s = laneWord s [a, b] d fun x => x.reg (g x)) :
    Gives i [a.toNat, b.toNat] d.toNat g := gives_lane h

/-- The words that read vA, vB and vD. -/
theorem gives_ternary {i : Instr} {d a b : VReg} {g : LaneIn → Word} (h : ∀ s, exec i s = laneAcc s [a, b] d fun x => x.reg (g x)) :
    Gives i [a.toNat, b.toNat, d.toNat] d.toNat g := gives_acc (srcs := [a, b]) h

end Sys2Proof

namespace Sys2Proof.Integer

open Machine

/-! ## Shifts -/

/-- A shift by 32 or more leaves no bit of the word, as a shift of bit vectors has it. -/
theorem shlW_eq (x y : Word) : shlW x y = x <<< (y.toNat % 256) := by
  unfold shlW shiftCount
  split
  next h => exact (BitVec.shiftLeft_eq_zero h).symm
  next => rfl

theorem shrW_eq (x y : Word) : shrW x y = x >>> (y.toNat % 256) := by
  unfold shrW shiftCount
  split
  next h => exact (BitVec.ushiftRight_eq_zero h).symm
  next => rfl

theorem sraW_eq (x y : Word) : sraW x y = x.sshiftRight (y.toNat % 256) := by
  unfold sraW shiftCount
  split
  next h =>
    refine BitVec.eq_of_getLsbD_eq fun j hj => ?_
    have hout : ¬ y.toNat % 256 + j < 32 := by omega
    simp only [BitVec.getLsbD_sshiftRight, hout, if_false]
    have hbit : (!decide (32 ≤ j)) = true := by simpa using hj
    rw [hbit, Bool.true_and]
    cases x.msb
    · exact BitVec.getLsbD_zero
    · exact BitVec.getLsbD_allOnes.trans (decide_eq_true hj)
  next => rfl

/-- An immediate shift count is its field. -/
theorem immZ_count (c : BitVec 5) : (immZ c).toNat % 256 = c.toNat := by
  have := c.isLt
  simp only [immZ, BitVec.truncate_eq_setWidth, BitVec.toNat_setWidth]
  omega

theorem shlW_immZ (x : Word) (c : BitVec 5) : shlW x (immZ c) = x <<< c.toNat := by rw [shlW_eq, immZ_count]

theorem shrW_immZ (x : Word) (c : BitVec 5) : shrW x (immZ c) = x >>> c.toNat := by rw [shrW_eq, immZ_count]

theorem sraW_immZ (x : Word) (c : BitVec 5) : sraW x (immZ c) = x.sshiftRight c.toNat := by rw [sraW_eq, immZ_count]

end Sys2Proof.Integer
end

section
/-! PROOF. The words of the S pipe that compute on uniform registers, and SCMP (05_vector_scalar R90, R91). -/

namespace Sys2Proof.Uniform

open Machine Integer

/-- Settles O5: each word is one operation on uniform registers, where the model cuts shift counts of 32 and above by cases. -/
theorem uniformArithmetic : Obligations.UniformArithmetic := by
  refine ⟨fun d a b => ?_, fun d a i c b => ?_⟩
  · simp only [← shlW_eq, ← shrW_eq, ← sraW_eq]
    exact ⟨givesUniform_of fun _ => rfl, givesUniform_of fun _ => rfl, givesUniform_of fun _ => rfl, givesUniform_of fun _ => rfl,
      givesUniform_of fun _ => rfl, givesUniform_of fun _ => rfl, givesUniform_of fun _ => rfl, givesUniform_of fun _ => rfl,
      givesUniform_of fun _ => rfl, givesUniform_of fun _ => rfl, givesUniform_of fun _ => rfl, givesUniform_of fun _ => rfl,
      givesUniform_of fun _ => rfl, givesUniform_of fun _ => rfl, givesUniform_of fun _ => rfl⟩
  · simp only [← shlW_immZ _ c, ← shrW_immZ _ c, ← sraW_immZ _ c]
    exact ⟨givesUniform_of fun _ => rfl, givesUniform_of fun _ => rfl, givesUniform_of fun _ => rfl, givesUniform_of fun _ => rfl,
      givesUniform_of fun _ => rfl, givesUniform_of fun _ => rfl, givesUniform_of fun _ => rfl, givesUniform_of fun _ => rfl⟩

/-- A write of a predicate leaves every other predicate (02_encoding R28). -/
theorem setPred_get_ne (x : BitVec 7) {p q : PReg} (h : q ≠ p) (b : Bool) : (setPred x p b).getLsbD q.toNat = x.getLsbD q.toNat := by
  have hne : p.toNat ≠ q.toNat := fun e => h (BitVec.eq_of_toNat_eq e.symm)
  unfold setPred
  split
  · rfl
  · have hbit : ((1 : BitVec 7) <<< p.toNat).getLsbD q.toNat = false := by
      rw [BitVec.getLsbD_shiftLeft, BitVec.ofNat_eq_ofNat, BitVec.getLsbD_one]
      simp only [Bool.and_eq_false_imp, Bool.and_eq_true, Bool.not_eq_true', decide_eq_false_iff_not, decide_eq_true_eq]
      omega
    cases b
    · rw [if_neg (by decide), BitVec.getLsbD_and, BitVec.getLsbD_not, hbit]
      cases hq : x.getLsbD q.toNat
      · rfl
      · simp [BitVec.lt_of_getLsbD hq]
    · rw [if_pos rfl, BitVec.getLsbD_or, hbit, Bool.or_false]

/-- What a predicate reads as after a write: p7 takes none (02_encoding R28). -/
theorem pred_setPred (f : Fibre) (p q : PReg) (b : Bool) :
    pred { f with preds := setPred f.preds p b } q = if q = p ∧ p ≠ 7 then b else pred f q := by
  by_cases hq : q = p
  · subst hq
    by_cases h7 : q = 7
    · rw [if_neg fun h => h.2 h7, pred, pred, if_pos h7, if_pos h7]
    · rw [if_pos ⟨rfl, h7⟩, pred, if_neg h7, setPred_get _ _ h7]
  · rw [if_neg fun h => hq h.1, pred, pred, setPred_get_ne _ hq]

/-- Settles O6: SCMP is one write of its wave, and a predicate other than p7 reads as what was written. -/
theorem uniformCompare : Obligations.UniformCompare :=
  ⟨fun p a b c _ _ _ _ h => uniWord_eq h fun r w =>
      { w with fibres := w.fibres.map fun q => (q.1, { q.2 with preds := setPred q.2.preds p (icmp c (sreg r a.toNat) (sreg r b.toNat)) }) },
    fun f p q b => ⟨rfl, rfl, pred_setPred f p q b⟩⟩

end Sys2Proof.Uniform
end

section
/-! PROOF. The integer words of the V pipe, and the words of the S pipe that write vector registers (05_vector_scalar R87, R96 to R98). -/

namespace Sys2Proof.Integer

open Machine

/-- Settles O8: each word is one operation in each fibre, where the model cuts shift counts of 32 and above by cases. -/
theorem vectorInteger : Obligations.VectorInteger := by
  intro d a b
  simp only [← shlW_eq, ← shrW_eq, ← sraW_eq]
  exact ⟨gives_binary fun _ => rfl, gives_binary fun _ => rfl, gives_binary fun _ => rfl, gives_binary fun _ => rfl, gives_binary fun _ => rfl,
    gives_binary fun _ => rfl, gives_binary fun _ => rfl, gives_binary fun _ => rfl, gives_binary fun _ => rfl, gives_binary fun _ => rfl,
    gives_binary fun _ => rfl, gives_binary fun _ => rfl, gives_binary fun _ => rfl, gives_binary fun _ => rfl, gives_binary fun _ => rfl,
    gives_binary fun _ => rfl, gives_binary fun _ => rfl, gives_binary fun _ => rfl⟩

/-- The destination of a word of the S pipe that passes its check is a register of each fibre's window (05_vector_scalar R87). -/
theorem portCheck_of_uniDst {d : VReg} {r : Wave} (h : uniDst d r = none) : portCheck r [] [d.toNat] = none := by
  unfold uniDst at h
  split at h
  · cases h
  · exact h

/-- A word of the S pipe that writes one register of each fibre of its batch. -/
theorem computesRun_uniDst {i : Instr} {d : VReg} {g : Wave → LaneIn → Word}
    (h : ∀ s, exec i s = vecRun s (uniDst d) [] (some d.toNat) fun r _ x => x.reg (g r x)) :
    ComputesRun i (uniDst d) [] d.toNat 1 (fun _ r _ x => ([g r x], 0)) :=
  computesRun_of (f := fun _ r _ x => x.reg (g r x)) h (fun _ _ _ _ => rfl) (fun _ _ _ _ => rfl) fun hd _ ho hc _ hp =>
    Conversions.run_lt_of_portCheck ho (portCheck_of_uniDst hc) (List.mem_singleton_self _) hd hp

/-- Settles O9: each word is one operation in each fibre; SPR and MOVS differ in the check of their destination. -/
theorem vectorUnary : Obligations.VectorUnary := by
  intro d a b sa i c p
  simp only [← shlW_immZ _ c, ← shrW_immZ _ c, ← sraW_immZ _ c]
  exact ⟨gives_unary fun _ => rfl, gives_unary fun _ => rfl, gives_unary fun _ => rfl, gives_unary fun _ => rfl, gives_unary fun _ => rfl,
    gives_unary fun _ => rfl, gives_unary fun _ => rfl, gives_const fun _ => rfl, gives_unary fun _ => rfl, gives_unary fun _ => rfl,
    gives_unary fun _ => rfl, gives_unary fun _ => rfl, gives_ternary fun _ => rfl, gives_ternary fun _ => rfl, gives_binary fun _ => rfl,
    gives_const fun _ => rfl, computesRun_uniDst (g := fun _ x => spr i.toNat x.lane x.fibre) fun _ => rfl,
    computesRun_uniDst (g := fun r _ => sreg r sa.toNat) fun _ => rfl⟩

end Sys2Proof.Integer
end

section
/-! PROOF. Bit fields: their position, length and mask, and the words that extract and replace them (05_vector_scalar R98). -/

namespace Sys2Proof.Integer

open Machine

/-- The mask of a field of `n` bits. -/
def lowMask (n : Nat) : Word := if n = 32 then 0xFFFFFFFF else (1#32 <<< n) - 1

theorem lowMask_eq {n : Nat} (h : n ≤ 32) : lowMask n = BitVec.ofNat 32 (2 ^ n - 1) := by
  unfold lowMask
  split
  next h32 => subst h32; rfl
  next h32 =>
    have hpos := Nat.two_pow_pos n
    have hlt : 2 ^ n < 2 ^ 32 := Nat.pow_lt_pow_right (by decide) (by omega)
    have hone : (1#32 <<< n).toNat = 2 ^ n := by
      rw [BitVec.toNat_shiftLeft, BitVec.toNat_ofNat, Nat.one_mod_eq_one.2 (by decide), Nat.one_shiftLeft, Nat.mod_eq_of_lt hlt]
    apply BitVec.eq_of_toNat_eq
    rw [BitVec.toNat_sub_of_le (by rw [BitVec.le_def, hone]; exact hpos), hone, BitVec.toNat_ofNat, Nat.mod_eq_of_lt (by omega)]
    rfl

theorem fieldLen_le (y : Word) : fieldLen y ≤ 32 := (min_le_left _ _).trans (min_le_right _ _)

/-- A field extracted with zeros. -/
theorem fieldU_eq (x y : Word) : fieldU x y = (x >>> fieldPos y) &&& lowMask (fieldLen y) := by
  have hlt : 2 ^ fieldLen y - 1 < 2 ^ 32 :=
    (Nat.sub_lt (Nat.two_pow_pos _) Nat.one_pos).trans_le (Nat.pow_le_pow_right (by decide) (fieldLen_le y))
  apply BitVec.eq_of_toNat_eq
  rw [lowMask_eq (fieldLen_le y), fieldU, BitVec.toNat_and, BitVec.toNat_ofNat, BitVec.toNat_ofNat, Nat.mod_eq_of_lt hlt,
    Nat.and_two_pow_sub_one_eq_mod, BitVec.toNat_ushiftRight, Nat.shiftRight_eq_div_pow, Nat.mod_eq_of_lt]
  have hmod := Nat.mod_lt (x.toNat / 2 ^ fieldPos y) (Nat.two_pow_pos (fieldLen y))
  omega

/-- The number that the low bits of a value stand for in two's complement. -/
theorem toInt_setWidth_eq_signed (u : Word) {n : Nat} (h : n ≠ 0) : (u.setWidth n).toInt = signed n u.toNat := by
  obtain ⟨m, rfl⟩ := Nat.exists_eq_succ_of_ne_zero h
  rw [BitVec.toInt_eq_toNat_cond, BitVec.toNat_setWidth, signed, Nat.succ_sub_one, Nat.pow_succ]
  congr 1
  rw [eq_iff_iff]
  omega

/-- A field extracted with its sign. -/
theorem fieldS_eq (x y : Word) : fieldS x y = ((fieldU x y).setWidth (fieldLen y)).signExtend 32 := by
  rw [fieldS, BitVec.signExtend]
  split
  next h => rw [h, BitVec.toInt_zero_length]; rfl
  next h => rw [toInt_setWidth_eq_signed _ h]

/-- A field replaced. -/
theorem fieldIns_eq (d x y : Word) :
    fieldIns d x y = (d &&& ~~~(lowMask (fieldLen y) <<< fieldPos y)) ||| ((x &&& lowMask (fieldLen y)) <<< fieldPos y) := by
  rw [lowMask_eq (fieldLen_le y)]
  rfl

/-- Settles O59: the position and the length are those of the model, and the mask of the field cuts as the model's remainders do. -/
theorem bitFieldWords : Obligations.BitFieldWords := by
  intro d a b pos len mask
  have hpos : ∀ y, fieldPos y = pos y := fun y => congrArg (· % 32) (Nat.div_one y.toNat)
  have hlen : ∀ y, fieldLen y = len y := fun y => by rw [fieldLen, hpos]; rfl
  have hmask : ∀ y, lowMask (fieldLen y) = mask y := fun y => by rw [hlen]; rfl
  have hU : ∀ x y : Word, (x >>> pos y) &&& mask y = fieldU x y := fun x y => by rw [fieldU_eq, hpos, hmask]
  have hS : ∀ x y, ((fieldU x y).setWidth (len y)).signExtend 32 = fieldS x y := fun x y => by rw [fieldS_eq, hlen]
  have hIns : ∀ o x y, (o &&& ~~~(mask y <<< pos y)) ||| ((x &&& mask y) <<< pos y) = fieldIns o x y :=
    fun o x y => by rw [fieldIns_eq, hpos, hmask]
  simp only [hU, hS, hIns]
  exact ⟨gives_binary fun _ => rfl, gives_binary fun _ => rfl, gives_ternary fun _ => rfl⟩

end Sys2Proof.Integer
end

section
/-! PROOF. The words that write predicates: comparisons, the predicate words and the votes (05_vector_scalar R99, R105, R114, R117). -/

namespace Sys2Proof.Predicates

open Machine

/-- The comparisons of two registers. -/
theorem setsPreds_compare {i : Instr} {p : PReg} {a b : VReg} {g : LaneIn → Bool × Conds}
    (h : ∀ s, exec i s = lanePred s [a, b] fun x => x.pred p (g x).1 (g x).2) :
    SetsPreds i [a.toNat, b.toNat] fun _ x => ([(p, (g x).1)], (g x).2) :=
  setsPreds_of (f := fun _ _ _ x => x.pred p (g x).1 (g x).2) h fun _ _ _ _ => rfl

/-- The words that compute one predicate from the predicates of the batch. -/
theorem setsPreds_single {i : Instr} {p : PReg} {g : List LaneIn → LaneIn → Bool}
    (h : ∀ s, exec i s = vecWord s [] [] none fun _ xs x => x.pred p (g xs x) 0) :
    SetsPreds i [] fun xs x => ([(p, g xs x)], 0) :=
  setsPreds_of (f := fun _ _ xs x => x.pred p (g xs x) 0) h fun _ _ _ _ => rfl

/-- Settles O11: each word writes one predicate of each fibre, PWRW all seven. -/
theorem predicateWords : Obligations.PredicateWords := by
  intro p a b va vb f
  exact ⟨setsPreds_compare (g := fun x => fCompare f (x.arg 0).toNat (x.arg 1).toNat) fun _ => rfl, setsPreds_single fun _ => rfl,
    setsPreds_single fun _ => rfl, setsPreds_single fun _ => rfl, setsPreds_single fun _ => rfl, setsPreds_single fun _ => rfl,
    setsPreds_of (f := fun _ _ _ x =>
      { regs := [], preds := (List.range 7).map fun k => (BitVec.ofNat 3 k, (x.arg 0).getLsbD k), conds := 0 }) (fun _ => rfl) fun _ _ _ _ => rfl,
    setsPreds_single fun _ => rfl, setsPreds_single fun _ => rfl⟩

/-- The compare codes 10 to 15 name no comparison (05_vector_scalar R91). -/
theorem iccOfCode_eq_none {n : Nat} (hl : 10 ≤ n) (hu : n < 16) : ICc.ofCode n = none := by
  interval_cases n <;> rfl

theorem decode_of_error {w : Nat} {e : DecodeTrap} (h : decodeFields w = .error e) : decode w = .error e := by
  rw [decode, h]

/-- A word of ICMP is read by the decoder of its major. -/
theorem decodeFields_icmp {w : Nat} (h : bits w 30 25 = 0x0F) : decodeFields w = decodeIcmp w := by
  rw [Encoding.decodeFields_eq, h]
  rfl

/-- ICMP with a nonzero D[6:3] is an illegal encoding (03_opcode_map R46). -/
theorem decode_icmp_illegal {w : Nat} (h : bits w 30 25 = 0x0F) (hd : bits w 24 21 ≠ 0) : decode w = .error .illegal := by
  refine decode_of_error ?_
  rw [decodeFields_icmp h, decodeIcmp, need, if_neg (by simpa using hd)]

/-- ICMP with a compare code of 10 to 15 is a reserved opcode (03_opcode_map R46). -/
theorem decode_icmp_reserved {w : Nat} (h : bits w 30 25 = 0x0F) (hd : bits w 24 21 = 0) (hc : 10 ≤ bits w 3 0) : decode w = .error .reserved := by
  refine decode_of_error ?_
  rw [decodeFields_icmp h, decodeIcmp, need, if_pos (by simp [hd]), iccOfCode_eq_none hc (Encoding.bits_lt w (by decide))]
  rfl

/-- Settles O60: each code compares as the integer table says, and the fields of the word decide its decode trap. -/
theorem integerCompareWords : Obligations.IntegerCompareWords := by
  intro p a b compares
  have hcompare : ∀ c, compares c (icmp c) := fun c => setsPreds_compare (g := fun x => (icmp c (x.arg 0) (x.arg 1), 0)) fun _ => rfl
  refine ⟨hcompare .eq, hcompare .ne, hcompare .lt, hcompare .le, hcompare .gt, hcompare .ge, hcompare .ltu, hcompare .leu, hcompare .gtu,
    hcompare .geu, fun w _ hm => ⟨decode_icmp_illegal hm, fun hd hc => ?_⟩, rfl, rfl⟩
  exact decode_icmp_reserved hm hd (by rwa [bits, Nat.pow_zero, Nat.div_one])

end Sys2Proof.Predicates
end

section
/-! PROOF. The words that read and write control registers, and RDLANE (05_vector_scalar R92, R93, R95, 08_memory_spaces R178, R179,
10_memory_instructions R226, 19_traps R428). -/

namespace Sys2Proof.Uniform

open Machine

section
variable {s : State} {k : Nat} {r w : Wave}

/-! ## RDLANE -/

/-- RDLANE of a lane slot that the wave does not have. -/
theorem rdlane_raises_illegal (h : Issues s k r w) (d : SReg) (a : VReg) {i : BitVec 8} (hi : r.width ≤ i.toNat) :
    Raises (.rdlane d a i) s k r (batchTrap r 0x01 0) :=
  (runWord_eq h _).trans (by rw [if_pos hi]; rfl)

/-- RDLANE of a queue port. -/
theorem rdlane_raises_port (h : Issues s k r w) (d : SReg) {a : VReg} {i : BitVec 8} (hi : i.toNat < r.width) (ha : 124 ≤ a.toNat) :
    Raises (.rdlane d a i) s k r (batchTrap r 0x05 0) :=
  (runWord_eq h _).trans (by rw [if_neg (by omega), if_neg (by omega), if_pos ha]; rfl)

/-- RDLANE of a register of the wave. -/
theorem rdlane_completes (h : Issues s k r w) (d : SReg) {a : VReg} {i : BitVec 8} (hi : i.toNat < r.width) (ha : a.toNat < 124)
    (hn : a.toNat < r.n) :
    Completes (.rdlane d a i) s k r (s.setWave k { w with sregs := w.sregs.store d.toNat (laneReg s r i.toNat a.toNat) 0 }) :=
  (runWord_eq h _).trans (by rw [if_neg (by omega), if_neg (by omega), if_neg (by omega)]; rfl)

theorem laneReg_none {lane v : Nat} (h : r.fibres.look lane = none) : laneReg s r lane v = 0 := by
  rw [laneReg, h]

/-- A lane slot with a live fibre is read through that fibre's window (05_vector_scalar R95). -/
theorem laneReg_some {lane v : Nat} {f : Fibre} (h : r.fibres.look lane = some f) :
    laneReg s r lane v = if f.base + v < r.p then readPhys s r lane (f.base + v) else 0 := by
  rw [laneReg, h]
  rfl

theorem readPhys_of_not_awaited {lane reg : Nat} (h : awaited r (physKey lane reg) = false) :
    readPhys s r lane reg = r.vregs.get (physKey lane reg) 0 := by
  rw [readPhys, h]
  rfl

/-! ## Control registers -/

theorem needLevel_of {i : Nat} {x : Res} (h : i < 0x80 ∨ r.level ≠ .user) : needLevel r (decide (i < 0x80) || r.level != .user) x = x :=
  if_pos (by simpa using h)

/-- CSRR of a register that the wave's level may read. -/
theorem csrr_completes (h : Issues s k r w) (d : SReg) {i : BitVec 8} {x : Word} (hl : i.toNat < 0x80 ∨ r.level ≠ .user)
    (hx : csrRead s r i.toNat = some x) : Completes (.csrr d i) s k r (s.setWave k { w with sregs := w.sregs.store d.toNat x 0 }) :=
  (runWord_eq h _).trans (by rw [needLevel_of hl, hx]; rfl)

/-- A write of a control register that the wave's level may write. -/
theorem csrWord_eq (h : Issues s k r w) {i : Nat} {v : Wave → Word} {s1 : State} {w1 : Wave} (hl : i < 0x80 ∨ r.level ≠ .user)
    (hw : csrWrite s w i (v r) = some (s1, w1)) : csrWord s i v = .next (wordEnds s k r (.ok (s1.setWave k w1))) :=
  (runWord_eq h _).trans (by rw [needLevel_of hl, hw])

/-- The four control registers of a stream (08_memory_spaces R178). -/
theorem csrWrite_stream (s : State) (w : Wave) (q : BitVec 2) (v : Word) :
    csrWrite s w (0x41 + 4 * q.toNat) v = some (s, setStream w q.toNat (setQbasehi v (streamOf w q.toNat))) ∧
    csrWrite s w (0x42 + 4 * q.toNat) v = (setQstride v (streamOf w q.toNat)).map (fun y => (s, setStream w q.toNat y)) ∧
    csrWrite s w (0x43 + 4 * q.toNat) v = some (s, setStream w q.toNat (setQstate v (streamOf w q.toNat))) := by
  obtain ⟨n, hn⟩ : ∃ n, q.toNat = n := ⟨_, rfl⟩
  have hlt : n < 4 := hn ▸ q.isLt
  rw [hn]
  interval_cases n <;> exact ⟨rfl, rfl, rfl⟩

/-- A write of half of shbase (19_traps R428). -/
theorem csrWrite_shbase {c : Ctx} {v : Word} {high : Bool} (hc : s.ctxs.look (ctxOf s w) = some c) (hv : high = false → v.toNat % 64 = 0) :
    csrWrite s w (if high then 0xA1 else 0xA0) v = some (s.setCtx (ctxOf s w) { c with shbase := withHalf c.shbase high v }, w) := by
  have hset : setShbase high v c = some { c with shbase := withHalf c.shbase high v } := if_neg (by cases high <;> simp_all)
  have hrow : csrWrite s w (if high then 0xA1 else 0xA0) v =
      ((s.ctxs.look (ctxOf s w)).bind (setShbase high v)).map fun c => (s.setCtx (ctxOf s w) c, w) := by cases high <;> rfl
  rw [hrow, hc, Option.bind_some, hset, Option.map_some]

end

/-- Settles O7: each word reads or writes the row of its register. -/
theorem controlRegisters : Obligations.ControlRegisters := by
  refine ⟨fun d a i q s k r w h => ⟨fun x => csrr_completes h d, rdlane_completes h d, uniWord_eq h _⟩,
    fun a i q v hi s s1 k r w w1 h => ?_⟩
  obtain ⟨hbasehi, hstride, hstate⟩ := csrWrite_stream s w q v
  have hq := q.isLt
  refine ⟨fun hl hw => csrWord_eq h hl hw, csrWord_eq h (.inl (by decide)) rfl, csrWord_eq h (.inl (by decide)) rfl, ?_,
    fun hl => csrWord_eq h (.inr hl) rfl, fun c hl hc hv => csrWord_eq h (.inr hl) (csrWrite_shbase hc hv)⟩
  rintro x rfl
  exact ⟨csrWord_eq h (.inl (by omega)) hbasehi,
    fun hlow hhigh => csrWord_eq h (.inl (by omega)) (hstride.trans (congrArg (Option.map _) (if_pos ⟨hlow, hhigh⟩))),
    csrWord_eq h (.inl (by omega)) hstate⟩

/-- Settles O58: RDLANE completes with what the lane slot's window gives. -/
theorem laneSlotIsRead : Obligations.LaneSlotIsRead := by
  intro d a i s k r w h gives
  refine ⟨rdlane_raises_illegal h d a, rdlane_raises_port h d, fun hi hn ha => ?_⟩
  have hgives : gives (laneReg s r i.toNat a.toNat) := rdlane_completes h d hi ha hn
  refine ⟨fun hf => laneReg_none hf ▸ hgives, fun f hf hp => ?_, fun f hf hp => ⟨fun hcov => ?_, fun _ => ⟨_, hgives⟩⟩⟩
  · rwa [laneReg_some hf, if_neg (by omega)] at hgives
  · rwa [laneReg_some hf, if_pos hp, readPhys_of_not_awaited hcov] at hgives

end Sys2Proof.Uniform
end

section
/-! PROOF. The cross-lane words: shuffles, masks and reductions (05_vector_scalar R113 to R115). -/

namespace Sys2Proof.Cross

open Machine

/-- What a word computes where its checks pass does not depend on which trap they give otherwise. -/
theorem ComputesRun.of_check {i : Instr} {chk chk' : Wave → Option Trap} {srcs : List Nat} {d n : Nat} {g : LaneFn}
    (h : ComputesRun i chk srcs d n g) (hc : ∀ r, chk' r = none → chk r = none) : ComputesRun i chk' srcs d n g :=
  fun s k r w vals w1 ⟨hi, hchk, hpop⟩ => h s k r w vals w1 ⟨hi, hc r hchk, hpop⟩

end Sys2Proof.Cross
end

section
/-! PROOF. The cross-lane words: shuffles, masks and reductions (05_vector_scalar R113 to R115). -/

namespace Sys2Proof.Cross

open Machine

/-- What a word computes where its checks pass does not depend on the trap that they give elsewhere. -/
theorem computesRun_of_check {i : Instr} {chk chk' : Wave → Option Trap} {srcs : List Nat} {d n : Nat} {g : LaneFn}
    (h : ComputesRun i chk srcs d n g) (hc : ∀ r, chk' r = none → chk r = none) : ComputesRun i chk' srcs d n g :=
  fun s k r w vals w1 ⟨hi, hchk, hpop⟩ => h s k r w vals w1 ⟨hi, hc r hchk, hpop⟩

/-! ## Shuffles -/

/-- The checks of a shuffle: its immediate, then queue ports among its sources, then its windows (05_vector_scalar R87, R113, R114). -/
def shuffleCheck (n : Nat) (srcs : List Nat) (a d : VReg) (r : Wave) : Option Trap :=
  if r.width ≤ n then some (batchTrap r 0x01 0)
  else if (a.toNat :: srcs).any (fun v => decide (124 ≤ v)) then some (batchTrap r 0x05 0)
  else portCheck r (a.toNat :: srcs) [d.toNat]

theorem shuffleCheck_eq_none {n : Nat} {srcs : List Nat} {a d : VReg} {r : Wave} (h : shuffleCheck n srcs a d r = none) :
    ¬ r.width ≤ n ∧ ¬ (a.toNat :: srcs).any (fun v => decide (124 ≤ v)) = true ∧ portCheck r (a.toNat :: srcs) [d.toNat] = none := by
  unfold shuffleCheck at h
  split at h
  · cases h
  next hw =>
    split at h
    · cases h
    next hp => exact ⟨hw, hp, h⟩

/-- A shuffle gives each fibre a register of the lane slot that it names. -/
theorem computesRun_shuffle {i : Instr} {n : Nat} {srcs : List Nat} {d a : VReg} {src : Wave → LaneIn → Nat}
    (h : ∀ s, exec i s = shuffle n srcs d a src s) :
    ComputesRun i (shuffleCheck n srcs a d) srcs d.toNat 1 (fun s r _ x => ([laneReg s r (src r x) a.toNat], 0)) := by
  refine computesRun_of_check (computesRun_of (f := fun s r _ x => x.reg (laneReg s r (src r x) a.toNat)) h (fun _ _ _ _ => rfl)
    (fun _ _ _ _ => rfl) fun hd r ho hc p hp => ?_) fun r hr => ?_
  · split at hc
    · cases hc
    · split at hc
      · split at hc
        · split at hc <;> cases hc
        · cases hc
      · exact Conversions.run_lt_of_portCheck ho hc (List.mem_singleton_self _) hd hp
  · obtain ⟨hw, hport, hchk⟩ := shuffleCheck_eq_none hr
    rw [if_neg hw, if_neg hport, hchk]

/-! ## Masks -/

/-- A word that writes a pair of registers of each fibre. -/
theorem computesRun_pair {i : Instr} {srcs : List Nat} {d : VReg} {g : List LaneIn → LaneIn → DWord}
    (h : ∀ s, exec i s = wideWord s srcs d.toNat 2 fun _ xs x => { regs := maskRegs (g xs x), preds := [], conds := 0 }) :
    ComputesRun i (fun r => wideCheck r srcs d.toNat 2) srcs d.toNat 2 (fun _ _ xs x => (maskRegs (g xs x), 0)) :=
  computesRun_of (f := fun _ _ xs x => { regs := maskRegs (g xs x), preds := [], conds := 0 }) h (fun _ _ _ _ => rfl) (fun _ _ _ _ => rfl)
    fun _ _ ho hc _ hp => by
      obtain ⟨hfit, hport⟩ := Conversions.wideCheck_eq_none hc
      have := Conversions.run_lt_of_portCheck (v := d.toNat + 1) ho hport (by simp) (by omega) hp
      omega

/-! ## Reductions -/

/-- A sum of the fibres starts at 0. -/
theorem reduce_add (xs : List LaneIn) : reduce (· + ·) xs = xs.foldl (fun v y => v + y.arg 0) 0 := by
  cases xs with
  | nil => rfl
  | cons x t => exact congrArg (t.foldl fun v y => v + y.arg 0) (BitVec.zero_add (x.arg 0)).symm

/-- A word that combines the fibres of the batch. -/
theorem computes_batch {i : Instr} {d a : VReg} {g : Wave → List LaneIn → LaneIn → Word × Conds}
    (h : ∀ s, exec i s = vecWord s [a.toNat] [d.toNat] (some d.toNat) fun r xs x => x.flag (g r xs x)) :
    Computes i [a.toNat] d.toNat (fun _ r xs x => g r xs x) :=
  computes_of (f := fun _ r xs x => x.flag (g r xs x)) h fun _ _ _ _ => rfl

/-- Settles O14: the shuffles differ in the lane slot that they name, the masks in what they collect, and the reductions in how they combine. -/
theorem shuffles : Obligations.Shuffles := by
  refine ⟨fun d a b i => ⟨computesRun_shuffle fun _ => rfl, computesRun_shuffle fun _ => rfl, computesRun_shuffle fun _ => rfl,
    computesRun_shuffle fun _ => rfl, computesRun_shuffle fun _ => rfl⟩, fun d a p => ?_⟩
  simp only [← reduce_add]
  exact ⟨computesRun_pair fun _ => rfl, computesRun_pair fun _ => rfl, computes_batch fun _ => rfl, computes_batch fun _ => rfl,
    computes_batch fun _ => rfl, computes_batch fun _ => rfl, computes_batch fun _ => rfl, computes_batch fun _ => rfl⟩

end Sys2Proof.Cross
end

section
/-! SUPPORT. Floating-point arithmetic: operands that are NaNs, infinities and zeros, and the choice of a minimum or a maximum
(04_number_formats R69 to R72, 05_vector_scalar R100 to R102). -/

namespace Sys2Proof.Float

open Machine

/-! ## Values -/

theorem or_and_self (a b : Conds) : (a ||| b) &&& a = a := by
  ext i
  rw [BitVec.getElem_and, BitVec.getElem_or]
  cases a[i]
  · exact Bool.and_false _
  · rfl

theorem isNan_iff {a : FVal} : a.isNan = true ↔ ∃ g, a = .nan g := by
  cases a <;> simp [FVal.isNan]

theorem sigConds_of_not_nan {a : FVal} (h : a.isNan = false) : sigConds a = 0 := by
  cases a with
  | nan => cases h
  | inf | fin => rfl

@[simp] theorem isNan_neg (a : FVal) : a.neg.isNan = a.isNan := by cases a <;> rfl

@[simp] theorem sigConds_neg (a : FVal) : sigConds a.neg = sigConds a := by cases a <;> rfl

/-! ## Exact sums and products -/

/-- A product with a NaN is a NaN (04_number_formats R71). -/
theorem mulX_nan {a b : FVal} (h : a.isNan = true ∨ b.isNan = true) : mulX a b = (.nan false, sigConds a ||| sigConds b) := by
  simp only [isNan_iff] at h
  obtain ⟨g, rfl⟩ | ⟨g, rfl⟩ := h
  · rfl
  · cases a <;> rfl

/-- A sum with a NaN is a NaN (04_number_formats R71). -/
theorem addX_nan (r : Rnd) {a b : FVal} (h : a.isNan = true ∨ b.isNan = true) : addX r a b = (.nan false, sigConds a ||| sigConds b) := by
  simp only [isNan_iff] at h
  obtain ⟨g, rfl⟩ | ⟨g, rfl⟩ := h
  · rfl
  · cases a <;> rfl

/-- ∞ − ∞ (04_number_formats R72). -/
theorem addX_inf_inf_not (r : Rnd) (s : Bool) : addX r (.inf s) (.inf (!s)) = (.nan false, invalid) := by cases s <;> rfl

/-- x − x (04_number_formats R72). -/
theorem addX_neg_self (r : Rnd) (s : Bool) (m : Nat) (e : Int) :
    addX r (.fin s m e) (.fin (!s) m e) = (.fin (decide (r = .rd)) 0 0, 0) := by
  have hsum : ∀ n, signInt s n + signInt (!s) n = 0 := fun n => by cases s <;> simp [signInt]
  have hs : ¬ s = !s := by cases s <;> decide
  rw [addX, if_pos (hsum _), if_neg hs]
  exact congrArg _ (BitVec.or_self ..)

section
variable {x y z : Nat} (r : Rnd)

/-! ## NaN operands -/

section
variable (f : Fmt)

theorem fAdd_nan (h : (decodeF f x).isNan = true ∨ (decodeF f y).isNan = true) :
    fAdd f r x y = { bits := f.nanBits, conds := sigConds (decodeF f x) ||| sigConds (decodeF f y) } := by
  rw [fAdd, addX_nan r h]
  rfl

theorem fSub_nan (h : (decodeF f x).isNan = true ∨ (decodeF f y).isNan = true) :
    fSub f r x y = { bits := f.nanBits, conds := sigConds (decodeF f x) ||| sigConds (decodeF f y) } := by
  rw [fSub, addX_nan r (by rwa [isNan_neg]), sigConds_neg]
  rfl

theorem fMul_nan (h : (decodeF f x).isNan = true ∨ (decodeF f y).isNan = true) :
    fMul f r x y = { bits := f.nanBits, conds := sigConds (decodeF f x) ||| sigConds (decodeF f y) } := by
  rw [fMul, mulX_nan h]
  rfl

theorem fPickM_nan (big : Bool) (h : (decodeF f x).isNan = true ∨ (decodeF f y).isNan = true) :
    fPickM f big x y = { bits := f.nanBits, conds := sigConds (decodeF f x) ||| sigConds (decodeF f y) } :=
  if_pos ((Bool.or_eq_true ..).mpr h)

/-- A fused sum is a NaN when its product or its addend is one. -/
theorem fFma_nan (h : (mulX (decodeF f x) (decodeF f y)).1.isNan = true ∨ (decodeF f z).isNan = true) : (fFma f r x y z).bits = f.nanBits := by
  rw [fFma, addX_nan r h]
  rfl

/-! ## Infinities and zeros -/

theorem fAdd_inf_inf_not {s : Bool} (hx : decodeF f x = .inf s) (hy : decodeF f y = .inf (!s)) :
    fAdd f r x y = { bits := f.nanBits, conds := invalid } := by
  rw [fAdd, hx, hy, addX_inf_inf_not]
  rfl

theorem fSub_inf_inf {s : Bool} (hx : decodeF f x = .inf s) (hy : decodeF f y = .inf s) :
    fSub f r x y = { bits := f.nanBits, conds := invalid } := by
  rw [fSub, hx, hy, FVal.neg, addX_inf_inf_not]
  rfl

/-- 0 × ∞ in either order (04_number_formats R72). -/
theorem fMul_inf_zero {s t : Bool} {e : Int} (hx : decodeF f x = .inf s) (hy : decodeF f y = .fin t 0 e) :
    fMul f r x y = { bits := f.nanBits, conds := invalid } ∧ fMul f r y x = { bits := f.nanBits, conds := invalid } := by
  rw [fMul, fMul, hx, hy]
  exact ⟨rfl, rfl⟩

theorem fFma_inf_zero {s t : Bool} {e : Int} (hx : decodeF f x = .inf s) (hy : decodeF f y = .fin t 0 e) :
    (fFma f r x y z).bits = f.nanBits ∧ (fFma f r x y z).conds &&& invalid = invalid := by
  have hmul : mulX (decodeF f x) (decodeF f y) = (.nan false, invalid) := by
    rw [hx, hy]
    rfl
  have hnan : FVal.isNan (.nan false) = true ∨ (decodeF f z).isNan = true := .inl rfl
  rw [fFma, hmul, addX_nan r hnan]
  refine ⟨rfl, ?_⟩
  exact or_and_self _ _

/-- A zero product takes the exclusive or of the signs (04_number_formats R72). -/
theorem fMul_zero {s t : Bool} {n : Nat} {e g : Int} (hx : decodeF f x = .fin s 0 e) (hy : decodeF f y = .fin t n g) :
    fMul f r x y = { bits := f.sign (s ^^ t), conds := 0 } := by
  rw [fMul, hx, hy, mulX, Nat.zero_mul]
  exact congrArg (FRes.mk _) (BitVec.or_self ..)

theorem fSub_self {s : Bool} {m : Nat} {e : Int} (hx : decodeF f x = .fin s m e) :
    fSub f r x x = { bits := f.sign (decide (r = .rd)), conds := 0 } := by
  rw [fSub, hx, FVal.neg, addX_neg_self]
  rfl

/-! ## Minimum and maximum -/

/-- A NaN beside another value gives that value (05_vector_scalar R101). -/
theorem fPick_nan (big : Bool) (hx : (decodeF f x).isNan = true) (hy : (decodeF f y).isNan = false) :
    fPick f big x y = { bits := y, conds := sigConds (decodeF f x) } ∧ fPick f big y x = { bits := y, conds := sigConds (decodeF f x) } := by
  simp [fPick, hx, hy, sigConds_of_not_nan hy]

theorem fPick_nan_nan (big : Bool) (hx : (decodeF f x).isNan = true) (hy : (decodeF f y).isNan = true) :
    fPick f big x y = { bits := f.nanBits, conds := sigConds (decodeF f x) ||| sigConds (decodeF f y) } := by
  simp only [fPick, hx, hy, Bool.and_self, if_true]

/-- Of two values that are no NaN the one of the greater or of the lesser key (05_vector_scalar R101). -/
theorem fPick_bits (big : Bool) (hx : (decodeF f x).isNan = false) (hy : (decodeF f y).isNan = false) :
    (fPick f big x y).bits = if decide (orderKey f x ≤ orderKey f y) = big then y else x := by
  simp only [fPick, hx, hy, Bool.and_self, Bool.false_eq_true, if_false, beq_iff_eq]

theorem fPick_extreme (big : Bool) (hx : (decodeF f x).isNan = false) (hy : (decodeF f y).isNan = false) :
    let t := (fPick f big x y).bits
    (t = x ∨ t = y) ∧ orderKey f t = if big = true then max (orderKey f x) (orderKey f y) else min (orderKey f x) (orderKey f y) := by
  rw [fPick_bits f big hx hy]
  by_cases hle : orderKey f x ≤ orderKey f y
  · cases big <;> simp [hle]
  · cases big <;> simp [hle, (not_le.1 hle).le]

end

/-! ## FSAT -/

theorem fSaturate_nan (h : (decodeF fmtF32 x).isNan = true) : fSaturate x = { bits := 0, conds := sigConds (decodeF fmtF32 x) } := by
  obtain ⟨g, hg⟩ := isNan_iff.1 h
  rw [fSaturate, hg]
  cases g <;> rfl

theorem fSaturate_bits (h : (decodeF fmtF32 x).isNan = false) : (fSaturate x).bits = if bitAt x 31 = true then 0 else min x 0x3F800000 := by
  unfold fSaturate
  split
  next g hg => rw [hg] at h; cases h
  next => rfl

/-- The sign bit of an f32. -/
theorem bitAt_31 (h : x < 2 ^ 32) : bitAt x 31 = true ↔ 2 ^ 31 ≤ x := by
  simp only [bitAt, beq_iff_eq]
  omega

/-- FSAT clamps to +0 and 1 (05_vector_scalar R102). -/
theorem fSaturate_clamps (hx : x < 2 ^ 32) (h : (decodeF fmtF32 x).isNan = false) :
    (2 ^ 31 ≤ x → (fSaturate x).bits = 0) ∧ (x ≤ 0x3F800000 → (fSaturate x).bits = x) ∧
      (0x3F800000 < x → x < 2 ^ 31 → (fSaturate x).bits = 0x3F800000) := by
  rw [fSaturate_bits h]
  simp only [bitAt_31 hx]
  refine ⟨fun hs => if_pos hs, fun hle => ?_, fun hlt hs => ?_⟩
  · rw [if_neg (by omega), min_eq_left hle]
  · rw [if_neg (by omega), min_eq_right hlt.le]

end

end Sys2Proof.Float
end

section
/-! SUPPORT. Rounding: a magnitude cut at a place and raised by its mode, and the value of an encoding delivered as that encoding
(04_number_formats R59, R68, R69). -/

namespace Sys2Proof.Float

open Machine

/-! ## A magnitude cut at a place -/

section
variable {r : Rnd} {s : Bool} {m : Nat} {e q : Int}

/-- A mode that rounds toward zero raises no magnitude (04_number_formats R68, R69). -/
theorem roundsUp_of_towardZero (h : towardZero r s = true) (t rem half : Nat) : roundsUp r s t rem half = false := by
  cases r with
  | rne => cases h
  | rz => rfl
  | ru =>
    obtain rfl : s = true := h
    rfl
  | rd =>
    obtain rfl : s = false := by simpa [towardZero] using h
    rfl

/-- A directed mode that does not round toward zero raises what leaves a remainder (04_number_formats R68, R69). -/
theorem roundsUp_of_away (hne : r ≠ .rne) (h : towardZero r s = false) (t rem half : Nat) : roundsUp r s t rem half = (rem != 0) := by
  cases r with
  | rne => exact absurd rfl hne
  | rz => cases h
  | ru =>
    obtain rfl : s = false := h
    rfl
  | rd =>
    obtain rfl : s = true := by simpa [towardZero] using h
    rfl

theorem roundAt_exact (h : q ≤ e) : roundAt r s m e q = (m * 2 ^ (e - q).toNat, false) := if_pos h

/-- A cut above the last place keeps the quotient or raises it by one. -/
theorem roundAt_cut (h : e < q) :
    let u := 2 ^ (q - e).toNat
    roundAt r s m e q = (if roundsUp r s (m / u) (m % u) (2 ^ ((q - e).toNat - 1)) = true then m / u + 1 else m / u, m % u != 0) :=
  if_neg (not_le.2 h)

theorem roundAt_changed_iff (h : e < q) : (roundAt r s m e q).2 = true ↔ ¬ 2 ^ (q - e).toNat ∣ m := by
  rw [roundAt_cut h, Nat.dvd_iff_mod_eq_zero]
  exact bne_iff_ne

/-- A unit of the place is twice its half. -/
theorem two_mul_half_unit (h : e < q) : 2 ^ (q - e).toNat = 2 * 2 ^ ((q - e).toNat - 1) := by
  rw [← Nat.pow_succ']
  congr 1
  omega

/-- RNE gives the nearest multiple, and the even one of two (04_number_formats R68). -/
theorem roundAt_nearest (h : e < q) :
    let u := 2 ^ (q - e).toNat
    let t := (roundAt .rne s m e q).1
    2 * m ≤ 2 * u * t + u ∧ 2 * u * t ≤ 2 * m + u ∧ (2 * m = 2 * u * t + u ∨ 2 * u * t = 2 * m + u → t % 2 = 0) := by
  intro u t
  have hu : u = 2 * 2 ^ ((q - e).toNat - 1) := two_mul_half_unit h
  have hpos : 0 < u := Nat.two_pow_pos _
  have hdiv : u * (m / u) + m % u = m := Nat.div_add_mod m u
  have hrem : m % u < u := Nat.mod_lt m hpos
  have ht : t = if roundsUp .rne s (m / u) (m % u) (2 ^ ((q - e).toNat - 1)) = true then m / u + 1 else m / u := congrArg Prod.fst (roundAt_cut h)
  generalize 2 ^ ((q - e).toNat - 1) = half at *
  simp only [roundsUp, Bool.or_eq_true, decide_eq_true_eq, Bool.and_eq_true, beq_iff_eq] at ht
  rw [ht, Nat.mul_assoc]
  generalize m / u = c at *
  generalize m % u = rem at *
  split
  next hup =>
    rw [Nat.mul_add, Nat.mul_one]
    omega
  next hup => omega

/-- A mode that rounds toward zero keeps the quotient (04_number_formats R68, R69). -/
theorem roundAt_down (h : e < q) (hr : towardZero r s = true) :
    let u := 2 ^ (q - e).toNat
    let t := (roundAt r s m e q).1
    u * t ≤ m ∧ m < u * (t + 1) := by
  intro u t
  have hpos : 0 < u := Nat.two_pow_pos _
  have ht : t = m / u := (congrArg Prod.fst (roundAt_cut h)).trans (if_neg (by rw [roundsUp_of_towardZero hr]; decide))
  rw [ht]
  exact ⟨Nat.mul_div_le m u, Nat.lt_mul_div_succ m hpos⟩

/-- A directed mode that does not round toward zero raises a quotient that leaves a remainder (04_number_formats R68, R69). -/
theorem roundAt_up (h : e < q) (hne : r ≠ .rne) (hr : towardZero r s = false) :
    let u := 2 ^ (q - e).toNat
    let t := (roundAt r s m e q).1
    m ≤ u * t ∧ u * t < m + u := by
  intro u t
  have hpos : 0 < u := Nat.two_pow_pos _
  have hdiv : u * (m / u) + m % u = m := Nat.div_add_mod m u
  have hrem : m % u < u := Nat.mod_lt m hpos
  have ht : t = if m % u ≠ 0 then m / u + 1 else m / u := by
    refine (congrArg Prod.fst (roundAt_cut h)).trans ?_
    simp only [roundsUp_of_away hne hr, bne_iff_ne]
    rfl
  rw [ht]
  split
  · rw [Nat.mul_add, Nat.mul_one]
    omega
  · omega

end

/-! ## Delivery -/

section
variable (f : Fmt) (r : Rnd) {s : Bool} {m : Nat} {e : Int}

/-- A finite value other than 0 is delivered as its magnitude rounds. -/
theorem deliver_fin (hm : m ≠ 0) :
    deliver f r (.fin s m e) 0 =
      if f.top < (roundMag f r s m e).1 then
        { bits := if towardZero r s = true then f.sign s + f.top else f.infBits s, conds := overflow ||| inexact }
      else { bits := f.sign s + (roundMag f r s m e).1,
             conds := raise inexact (roundMag f r s m e).2 ||| raise underflow ((roundMag f r s m e).2 && isTiny f r s m e) } := by
  rw [deliver, if_neg hm]
  simp only [roundFin, BitVec.ofNat_eq_ofNat, BitVec.zero_or]

/-- The formats whose infinity stands above their largest finite value. -/
theorem infBits_eq (hf : f ∈ [fmtF32, fmtF16, fmtBf16]) (s : Bool) : f.infBits s = f.sign s + (f.top + 1) := by
  fin_cases hf <;> rfl

/-! ## Encodings -/

/-- A finite value of a format is a subnormal or a normal one (04_number_formats R59). -/
theorem decodeF_eq_fin {n : Nat} (h : decodeF f n = .fin s m e) :
    let c := n % 2 ^ (f.eb + f.mb)
    c ≤ f.top ∧ s = bitAt n (f.eb + f.mb) ∧
      (c / 2 ^ f.mb = 0 ∧ m = c % 2 ^ f.mb ∧ e = f.low ∨
        c / 2 ^ f.mb ≠ 0 ∧ m = 2 ^ f.mb + c % 2 ^ f.mb ∧ e = f.low + (c / 2 ^ f.mb : Nat) - 1) := by
  intro c
  unfold decodeF at h
  simp only at h
  split at h
  · split at h <;> cases h
  next hc =>
    refine ⟨not_lt.1 hc, ?_⟩
    split at h
    next h0 =>
      cases h
      exact ⟨rfl, .inl ⟨h0, rfl, rfl⟩⟩
    next h0 =>
      cases h
      exact ⟨rfl, .inr ⟨h0, rfl, rfl⟩⟩

/-- The magnitude code of a value of the format is that of its encoding. -/
theorem roundMag_decodeF {n : Nat} (hm : m ≠ 0) (h : decodeF f n = .fin s m e) : roundMag f r s m e = (n % 2 ^ (f.eb + f.mb), false) := by
  obtain ⟨-, -, hcases⟩ := decodeF_eq_fin f h
  generalize n % 2 ^ (f.eb + f.mb) = c at *
  have hdiv : 2 ^ f.mb * (c / 2 ^ f.mb) + c % 2 ^ f.mb = c := Nat.div_add_mod c _
  have hrem : c % 2 ^ f.mb < 2 ^ f.mb := Nat.mod_lt c (Nat.two_pow_pos f.mb)
  generalize c / 2 ^ f.mb = x at *
  generalize c % 2 ^ f.mb = y at *
  obtain ⟨rfl, rfl, rfl⟩ | ⟨hexp, rfl, rfl⟩ := hcases
  · have hlog : m.log2 < f.mb := (Nat.log2_lt hm).2 hrem
    have hq : max (leadExp m f.low - f.mb) f.low = f.low := by
      rw [leadExp, bitLen, if_neg hm]
      omega
    rw [roundMag, hq, roundAt_exact le_rfl]
    simpa using hdiv
  · have hlog : (2 ^ f.mb + y).log2 = f.mb := by
      rw [Nat.log2_eq_iff hm, Nat.pow_succ]
      omega
    obtain ⟨j, rfl⟩ := Nat.exists_eq_succ_of_ne_zero hexp
    have he : f.low + (j.succ : Nat) - 1 = f.low + j := by omega
    have hq : max (leadExp (2 ^ f.mb + y) (f.low + j) - f.mb) f.low = f.low + j := by
      rw [leadExp, bitLen, if_neg hm, hlog]
      omega
    rw [roundMag, he, hq, roundAt_exact le_rfl]
    rw [Nat.mul_succ, Nat.mul_comm, Nat.add_assoc] at hdiv
    simpa using hdiv

/-- An encoding is its sign and its magnitude. -/
theorem sign_add_mod {n : Nat} (h : n < 2 ^ f.width) : f.sign (bitAt n (f.eb + f.mb)) + n % 2 ^ (f.eb + f.mb) = n := by
  have hdiv := Nat.div_add_mod n (2 ^ (f.eb + f.mb))
  have hlt : n / 2 ^ (f.eb + f.mb) < 2 := by
    rw [Nat.div_lt_iff_lt_mul (Nat.two_pow_pos _), ← Nat.pow_succ']
    rwa [Fmt.width, Nat.add_assoc, Nat.add_comm 1] at h
  simp only [Fmt.sign, bitAt, beq_iff_eq]
  generalize n / 2 ^ (f.eb + f.mb) = x at *
  interval_cases x
  · simpa using hdiv
  · simpa using hdiv

/-- A value of the format is delivered as it is, without a condition (04_number_formats R68). -/
theorem deliver_decodeF {n : Nat} (hm : m ≠ 0) (hn : n < 2 ^ f.width) (h : decodeF f n = .fin s m e) :
    deliver f r (.fin s m e) 0 = { bits := n, conds := 0 } := by
  obtain ⟨htop, hs, -⟩ := decodeF_eq_fin f h
  rw [deliver_fin f r hm, roundMag_decodeF f r hm h, if_neg (not_lt.2 htop), hs, sign_add_mod f hn]
  simp [raise]

end

end Sys2Proof.Float
end

section
/-! PROOF. The words of FALU, FALU2, FMISC, PKF and DOT (05_vector_scalar R100 to R104, R106 to R109). -/

namespace Sys2Proof.Float

open Machine

theorem givesFloat_binary {i : Instr} {d a b : VReg} {g : LaneIn → FRes} (h : ∀ s, exec i s = laneWord s [a, b] d fun x => x.out (g x)) :
    GivesFloat i [a.toNat, b.toNat] d.toNat g := givesFloat_lane h

theorem givesFloat_single {i : Instr} {d a : VReg} {g : LaneIn → FRes} (h : ∀ s, exec i s = laneWord s [a] d fun x => x.out (g x)) :
    GivesFloat i [a.toNat] d.toNat g := givesFloat_lane h

theorem givesFloat_ternary {i : Instr} {d a b : VReg} {g : LaneIn → FRes} (h : ∀ s, exec i s = laneAcc s [a, b] d fun x => x.out (g x)) :
    GivesFloat i [a.toNat, b.toNat, d.toNat] d.toNat g := givesFloat_acc (srcs := [a, b]) h

/-- Settles O12: each word is one computation in each fibre, and the arithmetic is what the lemmas above say of it. -/
theorem floatArithmetic : Obligations.FloatArithmetic := by
  refine ⟨fun d a b m e => ?_, fun d a b t => ?_, fun r x y z big => ?_, fun r s m e q => ?_, fun f r s m e hm hf => ?_, by decide⟩
  · exact ⟨givesFloat_binary fun _ => rfl, givesFloat_binary fun _ => rfl, givesFloat_binary fun _ => rfl, givesFloat_ternary fun _ => rfl,
      givesFloat_binary fun _ => rfl, givesFloat_binary fun _ => rfl, givesFloat_binary fun _ => rfl, givesFloat_binary fun _ => rfl,
      givesFloat_binary fun _ => rfl, givesFloat_binary fun _ => rfl, givesFloat_single fun _ => rfl, givesFloat_single fun _ => rfl,
      givesFloat_single fun _ => rfl, givesFloat_single fun _ => rfl, givesFloat_single fun _ => rfl, givesFlag_unary fun _ => rfl,
      givesFloat_single fun _ => rfl⟩
  · exact ⟨givesFloat_binary fun _ => rfl, givesFloat_binary fun _ => rfl, givesFloat_binary fun _ => rfl, givesFloat_binary fun _ => rfl,
      givesFloat_binary fun _ => rfl, givesFloat_ternary fun _ => rfl, givesFloat_ternary fun _ => rfl, givesFloat_ternary fun _ => rfl,
      givesFloat_ternary fun _ => rfl, givesFloat_ternary fun _ => rfl, givesFloat_ternary fun _ => rfl, givesFloat_ternary fun _ => rfl,
      gives_ternary fun _ => rfl, gives_ternary fun _ => rfl⟩
  · intro a b nan sig
    refine ⟨fun h => ⟨fAdd_nan r _ h, fSub_nan r _ h, fMul_nan r _ h, fPickM_nan _ big h⟩, fun h => fFma_nan r _ ?_,
      fun s => fAdd_inf_inf_not r _, fun s => fSub_inf_inf r _, fun s t e hx hy => ?_, fun s t n e g hx hy => ?_, fun s m e hx => ?_,
      fPick_nan _ big, fPick_nan_nan _ big, fPick_extreme _ big, fun hx => ⟨fSaturate_nan, fSaturate_clamps hx⟩⟩
    · rw [← or_assoc] at h
      exact h.imp_left fun hab => congrArg (fun p => p.1.isNan) (mulX_nan hab)
    · obtain ⟨hxy, hyx⟩ := fMul_inf_zero r _ hx hy
      exact ⟨hxy, hyx, fFma_inf_zero r _ hx hy⟩
    · rw [fMul_zero r _ hx hy]
      cases s <;> cases t <;> rfl
    · rw [fSub_self r _ hx]
      cases r <;> rfl
  · exact ⟨roundAt_exact, fun h => ⟨roundAt_changed_iff h, fun hr => hr ▸ roundAt_nearest h, roundAt_down h, roundAt_up h⟩⟩
  · intro q t c
    refine ⟨fun hc => ?_, fun hc => ?_, fun n hn h => deliver_decodeF f r hm hn h⟩
    · exact (deliver_fin f r hm).trans (if_neg (not_lt.2 hc))
    · refine (deliver_fin f r hm).trans ((if_pos hc).trans ?_)
      rw [infBits_eq f hf]
      split <;> rfl

end Sys2Proof.Float
end

section
/-! PROOF. Every instruction runs: a word wherever a wave issues, and a step of the device in any state (03_opcode_map R46, 05_vector_scalar
R85, R86). -/

namespace Sys2Proof.Running

open Machine

/-- A run that answers a next state, or that faults because no wave issues. -/
def Answers (s : State) (o : Host.Outcome State Fault Refusal) : Prop := (∃ t, o = .next t) ∨ issuing s = none ∧ o = .fault .noIssuingWave

section
variable {s : State} {o : Host.Outcome State Fault Refusal}

theorem Answers.next_of_issuing (h : Answers s o) (hi : (issuing s).isSome = true) : ∃ t, o = .next t :=
  h.resolve_right fun hn => by rw [hn.1] at hi; cases hi

theorem Answers.fault_eq {f : Fault} (h : Answers s o) (hf : o = .fault f) : f = .noIssuingWave ∧ issuing s = none := by
  obtain ⟨t, ht⟩ | ⟨hn, ho⟩ := h
  · rw [ht] at hf; cases hf
  · rw [ho] at hf; cases hf; exact ⟨rfl, hn⟩

theorem Answers.ne_refused (h : Answers s o) (x : Refusal) : o ≠ .refused x := by
  obtain ⟨t, rfl⟩ | ⟨-, rfl⟩ := h <;> exact fun hx => nomatch hx

end

theorem runEvent_runs (s : State) (e : Ev) (due : Bool) (eff : State → State) : ∃ t, runEvent s e due eff = .next t :=
  ⟨_, runEvent_eq s e due eff⟩

theorem runCommand_runs (s : State) (slot : Nat) (e : Ev) (eff : State → Option State) : ∃ t, runCommand s slot e eff = .next t :=
  runEvent_runs s e _ _

/-- A step of the device answers a next state: a command of the mailbox through its slot, the others as they are. -/
theorem execEv_runs (e : Ev) (s : State) : ∃ t, execEv e s = .next t := by
  cases e
  case create | update | attest | route | log | stackreset | thermal =>
    dsimp only [execEv]
    exact runCommand_runs s _ _ _
  all_goals
    dsimp only [execEv, execCxlMemAccess, execFlitForward, execCompletionArrival, execPreemptionRequest, execCollapseRequest, execGroupRewrite,
      execSurfacePoolWait]
    exact runEvent_runs s _ _ _

/-- A packing word reads its old destination or a free value, as a word either way. -/
theorem lanePack_answers (s : State) (srcs : List VReg) (d : VReg) (g : LaneIn → Word → LaneOut) : Answers s (lanePack s srcs d g) := by
  unfold lanePack
  split <;> exact runWord_stops s _

theorem unpackOp_answers (h : Nat) (d a : VReg) (u : UnpkTy) (s : State) : Answers s (unpackOp h d a u s) := by
  rw [Conversions.unpackOp_eq]
  exact runWord_stops s _

theorem execTex2_answers (d a : VReg) (b : SReg) (s : State) : Answers s (execTex2 d a b s) := by
  unfold execTex2
  split <;> exact runWord_stops s _

/-- Every instruction answers: the steps of the device in any state, the words wherever a wave issues. -/
theorem exec_answers (i : Instr) (s : State) : Answers s (exec i s) := by
  cases i
  case create | update | attest | route | log | stackreset | thermal =>
    dsimp only [exec]
    exact .inl (runCommand_runs s _ _ _)
  case cxlMemAccess | flitForward | completionArrival | preemptionRequest | collapseRequest | groupRewrite | surfacePoolWait =>
    dsimp only [exec, execCxlMemAccess, execFlitForward, execCompletionArrival, execPreemptionRequest, execCollapseRequest, execGroupRewrite,
      execSurfacePoolWait]
    exact .inl (runEvent_runs s _ _ _)
  case
      reset | frstrbEdge | kill | unknownOpcode | launchDoorbell | launchQueueEntry | msiXTableEntry | registerWrite | peerCommand |
      replay | linkDown | linkRecovery | temperatureAboveLimit | throttleStep | thermalTrip | regulatorFault | regulatorFaultCleared |
      powerArbiterStep | faultRetry | surveyorPass | verticalBusRepair | repairRemap | blockAdmit | admissionWaitExpiry | blockRetire |
      waveToPending | pendingWaveReady | forcedExchange | saveOnWait | saveComplete | relaunch | migration | migrationComplete |
      forwardingEntryRelease | trapEntry | barrierOverrunReport | droppedBarrierRequest | tableFullReport | blockStoreFailure |
      peerRefusal | poolWaveStart | countedOpComplete | homeSliceRequest | l1Eviction | evictionNotice | regionNotice | noticeAck |
      probe | probeAck | queueStreamFetch | queueStreamDrain | pageWalk | pageMigration | pageMigrationComplete | collapseGrant |
      copyStart | sectorLand | barrierUpdate | remoteBarrierRequest | bwaitRelease | remoteMessage | tileOpFire | operandsConsumed |
      tileOpComplete | waypointRequest | waypointMulticast | waypointClaim | waypointAnswer | deadlockWalk | waypointGap |
      mcasLockRequest | mcasLockAck | batchAccept | rasterise | fragmentWaveLaunch | exportEntry | ropApply | depthVerdict |
      cellEviction | cellFetchBack | srfsetPerform | plotAccept | plotUnitStart | plotThreadIssue | plotWordLimit | plotComplete |
      blockStoreRequest | blockEviction | mailboxDoorbell | linkRetrainComplete | ideKeyManagement | collapseAnswer =>
    dsimp only [exec]
    exact .inl (runEvent_runs s _ _ _)
  case pk4e4 | pk4e5 | pk8f =>
    dsimp only [exec, execPk4e4, execPk4e5, execPk8f]
    exact lanePack_answers s _ _ _
  case unpklo | unpkhi =>
    dsimp only [exec, execUnpklo, execUnpkhi]
    exact unpackOp_answers _ _ _ _ s
  case tex2 d a b => exact execTex2_answers d a b s
  all_goals exact runWord_stops s _

/-! ## Steps of the machine -/

theorem runWords_ne_refused (is : List Instr) (s : State) (x : Refusal) : runWords s is ≠ .refused x := by
  induction is generalizing s with
  | nil => nofun
  | cons i is ih =>
    unfold runWords
    split
    next s1 _ => exact ih s1
    next => nofun
    next y hy => exact absurd hy ((exec_answers i s).ne_refused y)

/-- A chain is refused by none of its words. -/
theorem runChain_ne_refused (s : State) (k : Nat) (w : Wave) (next : NextPc) (is : List Instr) (x : Refusal) :
    runChain s k w next is ≠ .refused x := by
  unfold runChain
  split
  · nofun
  split
  · exact (exec_answers _ _).ne_refused x
  dsimp only
  split
  · split
    · nofun
    · split <;> nofun
  · nofun
  next y hy => exact absurd hy (runWords_ne_refused is _ y)

theorem issueWave_ne_refused (s : State) (k : Nat) (x : Refusal) : issueWave s k ≠ .refused x := by
  unfold issueWave
  split
  · nofun
  split
  · nofun
  split
  · nofun
  split
  · nofun
  split
  · nofun
  dsimp only
  split
  · nofun
  · exact runChain_ne_refused _ _ _ _ _ x

theorem move_ne_refused (s : State) (m : Mover) (x : Refusal) : move s m ≠ .refused x := by
  cases m with
  | event e =>
    obtain ⟨t, ht⟩ := execEv_runs e (noteHolds s e)
    exact fun h => nomatch ht.symm.trans h
  | wave k =>
    dsimp only [move]
    split
    · split <;> nofun
    · nofun
    next y hy => exact absurd hy (issueWave_ne_refused s k y)

theorem step_ne_refused (s : State) (x : Refusal) : step s ≠ .refused x := by
  unfold step stepOnce
  split
  · nofun
  split
  · nofun
  · nofun
  next y hy => exact absurd hy (move_ne_refused _ _ y)

/-- Settles O51: every instruction answers, and a step refuses only what an instruction refuses. -/
theorem everyInstructionRuns : Obligations.EveryInstructionRuns := by
  intro i s
  have h := exec_answers i s
  refine ⟨h.next_of_issuing, fun ⟨e, he⟩ => ?_, fun f => h.fault_eq, h.ne_refused, step_ne_refused s⟩
  rw [← Stepping.execEv_of_names he]
  exact execEv_runs e s

end Sys2Proof.Running
end

section
/-! PROOF. The tile words: each that has room in its block's queue and passes its checks enters its operation there (06_matrix R119 to R141,
07_cartouche R146 to R148). -/

namespace Sys2Proof.Tiles

open Machine

/-! ## A tile word whose checks hold -/

/-- A tile word that has room and passes its checks completes with what it enters (06_matrix R134). -/
theorem tileWord_completes {i : Instr} {s t : State} {k : Nat} {r w : Wave} {counted : Bool} {chk : Wave → Option Trap}
    {f : Nat → Wave → Wave → Res} (hi : Issues s k r w) (hroom : TileRoom s r counted) (hex : exec i s = tileWord s counted chk f)
    (hchk : chk r = none) (hf : f k r w = .ok t) : Completes i s k r t := by
  unfold Completes
  rw [hex, tileWord_eq hi hroom hchk, hf]

/-- The check of slabs that lie within the block's holds (06_matrix R120). -/
theorem not_slabsIn {s : State} {r : Wave} {z n : Nat} (h : z + n ≤ slabCount s r.blk) : (!slabsIn s r z n) = false := by
  rw [slabsIn, decide_eq_true h, Bool.not_true]

/-- ZCLR and ZDRAIN check their slabs alone before they enter (06_matrix R139). -/
theorem slabCheck_none {s : State} {r : Wave} {z n : Nat} (h : z + n ≤ slabCount s r.blk) :
    lowestFail r [(!slabsIn s r z n, 0x01)] = none :=
  lowestFail_none (List.forall_mem_singleton.2 (not_slabsIn h))

/-- ZLD and ZST pass with slabs and scratchpad bytes that are there and an offset on 16 bytes (06_matrix R139, R140). -/
theorem moveCheck_none {s : State} {r : Wave} {z : BitVec 5} {c : SlabCnt} {a : SReg} (hz : z.toNat + slabNum c ≤ slabCount s r.blk)
    (halign : (sreg r a.toNat).toNat % 16 = 0) (hspm : (sreg r a.toNat).toNat + 4096 * slabNum c ≤ spmSize s r) :
    moveCheck s z c a r = none := by
  simp only [moveCheck, not_slabsIn hz, halign, Nat.not_lt.2 hspm, bne_self_eq_false, Bool.false_eq_true, if_false]

/-! ## The words -/

/-- Settles O35: a word with room enters its operation once its own checks hold. ZCLR checks its slabs alone and OPFENCE nothing; a drain
asks for its pages as well, and MMA and MMAC for a sound B operand. -/
theorem tileWords : Obligations.TileWords := by
  intro z src c va a b q f mf dst x t m u n clr s k r w pages sel hi off
  refine ⟨fun hroom hz => ⟨?zclr, fun halign hspm => ⟨?zld, ?zst⟩, fun hsel hdrain hpages => ?zdrain⟩,
    fun hroom => ⟨?opfence, fun hsel => ?episel⟩, fun hroom hz hbatch hregs hb => ?mma, fun hroom hz hsrc hq hconv hb => ?mmac⟩
  case zclr => exact tileWord_completes hi hroom rfl (slabCheck_none hz) rfl
  case zld | zst => exact tileWord_completes hi hroom rfl (moveCheck_none hz halign hspm) rfl
  case zdrain =>
    refine tileWord_completes hi hroom rfl (slabCheck_none hz) ?_
    simp only [hsel, hdrain, withPages_eq hpages]
  case opfence => exact tileWord_completes (chk := fun _ => none) hi hroom rfl rfl rfl
  case episel => exact tileWord_completes hi hroom rfl hsel rfl
  case mma =>
    refine tileWord_completes hi hroom rfl (lowestFail_none (List.forall_mem_append.2 ⟨?_, hb⟩)) rfl
    simp [not_slabsIn hz, hregs, hbatch]
  case mmac =>
    refine tileWord_completes hi hroom rfl (lowestFail_none (List.forall_mem_append.2 ⟨?_, hb⟩)) rfl
    simp [not_slabsIn hz, not_slabsIn hsrc, hq, hconv]

end Sys2Proof.Tiles
end

section
/-! SUPPORT. What each named operation of the waves, the chains and the caches leaves of the two memories: canonical ones (08_memory_spaces
R166). One lemma for each operation that branches or calls another, in the order of the model: it follows the branches, and cites for each call
the lemma of what is called. An operation that sets fields beside the memories needs none: the invariant does not see it. -/

namespace Sys2Proof.Upkeep

open Machine

/-! ## Outcomes that meet the invariant -/

/-- The outcome of a word that, where it is a state, meets the invariant. -/
def ResOk : Res → Prop
  | .ok t => Inv t
  | _ => True

/-- The outcome of an instruction that, where it is a next state, meets the invariant. -/
def OutOk : Host.Outcome State Fault Refusal → Prop
  | .next t => Inv t
  | _ => True

/-- A state that, where there is one, meets the invariant. -/
def OptOk : Option State → Prop
  | some t => Inv t
  | none => True

section
variable {α β : Type} {s t : State} {o : Option State}

theorem OptOk.intro (h : ∀ t, o = some t → Inv t) : OptOk o := by
  cases o with
  | none => trivial
  | some t => exact h t rfl

theorem OptOk.of_eq_some (h : OptOk o) (e : o = some t) : Inv t := by
  subst e
  exact h

theorem OptOk.of_map {o : Option α} {f : α → State} {a : α} (h : OptOk (o.map f)) (e : o = some a) : Inv (f a) := by
  subst e
  exact h

theorem OptOk.getD (h : OptOk o) (hs : Inv s) : Inv (o.getD s) := by
  cases o with
  | none => exact hs
  | some t => exact h

theorem OptOk.map {o : Option α} {f : α → State} (h : ∀ a, o = some a → Inv (f a)) : OptOk (o.map f) := by
  cases o with
  | none => trivial
  | some a => exact h a rfl

theorem OptOk.map_map {o : Option α} {f : α → β} {g : β → State} (h : ∀ a, o = some a → Inv (g (f a))) : OptOk ((o.map f).map g) := by
  rw [Option.map_map]
  exact OptOk.map h

theorem OptOk.bind {o : Option α} {f : α → Option State} (h : ∀ a, o = some a → OptOk (f a)) : OptOk (o.bind f) := by
  cases o with
  | none => trivial
  | some a => exact h a rfl

theorem OptOk.findSome? {f : α → Option State} (h : ∀ a, OptOk (f a)) (xs : List α) : OptOk (xs.findSome? f) := .intro fun t e => by
  obtain ⟨a, -, ha⟩ := List.exists_of_findSome?_eq_some e
  exact (h a).of_eq_some ha

theorem inv_releaseBytes {core : Nat} (h : Inv s) : Inv { s with mem := releaseBytes s.mem core } := MemOk.releaseBytes h _

theorem inv_acquireBytes {core : Nat} (h : Inv s) : Inv { s with mem := acquireBytes s.mem core } := MemOk.acquireBytes h _

theorem inv_foldl {f : State → α → State} {xs : List α} (hf : ∀ s a, Inv s → Inv (f s a)) (h : Inv s) : Inv (xs.foldl f s) :=
  foldl_keeps hf xs s h

theorem memOk_foldl {m : MemSys} {f : MemSys → α → MemSys} {xs : List α} (hf : ∀ m a, MemOk m → MemOk (f m a)) (h : MemOk m) :
    MemOk (xs.foldl f m) :=
  foldl_keeps hf xs m h

theorem optOk_foldl {f : Option State → α → Option State} {xs : List α} (hf : ∀ o a, OptOk o → OptOk (f o a)) (h : OptOk o) :
    OptOk (xs.foldl f o) :=
  foldl_keeps hf xs o h

theorem inv_ite {c : Prop} [Decidable c] {a b : State} (ha : Inv a) (hb : Inv b) : Inv (if c then a else b) := by
  split
  · exact ha
  · exact hb

theorem optOk_ite {c : Prop} [Decidable c] {a b : Option State} (ha : OptOk a) (hb : OptOk b) : OptOk (if c then a else b) := by
  split
  · exact ha
  · exact hb

theorem resOk_ite {c : Prop} [Decidable c] {a b : Res} (ha : ResOk a) (hb : ResOk b) : ResOk (if c then a else b) := by
  split
  · exact ha
  · exact hb

end

variable {s : State}

/-! ## Device memory at its home slices, encryption records, translation, and the event queues -/

theorem optOk_hwWrite {ctx va n x : Nat} (h : Inv s) : OptOk (hwWrite s ctx va n x) := .intro fun _ => inv_hwWrite h

theorem inv_tlbFill {core ctx va : Nat} (h : Inv s) : Inv (tlbFill s core ctx va) := by
  unfold tlbFill
  repeat' split
  all_goals exact h

theorem optOk_hwWords {ctx va : Nat} {xs : List (Nat × Nat)} (h : Inv s) : OptOk (hwWords s ctx va xs) := .intro fun _ =>
    inv_hwWords h

theorem inv_postPoison {ctx stack addr : Nat} (h : Inv s) : Inv (postPoison s ctx stack addr) := inv_postEvent h _ _ _ _

/-! ## The named operations that the meanings share: waves and fibres, minimum-PC issue, the loop stack, the end of fibres, waves and
blocks, taking a trap and returning from one, and the end of a chain -/

theorem inv_discardPixel {k : Nat} {f : Fibre} (h : Inv s) : Inv (discardPixel s k f) := by
  unfold discardPixel
  split <;> exact h

theorem inv_wpPut {e : WpEntry} (h : Inv s) : Inv (wpPut s e) := by
  unfold wpPut
  dsimp only
  split <;> exact h

theorem inv_dropSubs {core ctx : Nat} {key : Word} (h : Inv s) : Inv (dropSubs s core ctx key) := by
  unfold dropSubs
  split
  · exact h
  · split
    · exact inv_wpPut h
    · exact h

theorem inv_dropWaits {p : WpWait → Bool} (h : Inv s) : Inv (dropWaits s p) := inv_foldl (fun _ _ hs => inv_dropSubs hs) h

theorem inv_abandon {ctx stack : Nat} {after : Option (Nat × Nat)} {f : Fibre} (h : Inv s) : Inv (abandon s ctx stack after f) := by
  unfold abandon
  dsimp only
  split
  · exact inv_dropWaits h
  · refine inv_postEvent ?_ _ _ _ _
    exact inv_dropWaits h

theorem inv_endFibre {k lane : Nat} (h : Inv s) : Inv (endFibre s k lane) := by
  unfold endFibre
  split
  · exact h
  · split
    · exact h
    · exact inv_discardPixel (inv_abandon h)

theorem inv_reapWave {k : Nat} (h : Inv s) : Inv (reapWave s k) := by
  unfold reapWave
  repeat' split
  all_goals exact h

theorem inv_endWave {k : Nat} (h : Inv s) : Inv (endWave s k) := by
  unfold endWave
  split
  · exact h
  · refine inv_reapWave ?_
    repeat' split
    all_goals exact inv_foldl (fun _ _ hs => inv_endFibre hs) h

theorem inv_settle {k : Nat} (h : Inv s) : Inv (Machine.settle s k) := by
  unfold Machine.settle
  split
  · split
    · exact inv_endWave h
    · exact h
  · exact h

theorem inv_tellContained {b : Block} {cause : Nat} (h : Inv s) : Inv (tellContained s b cause) := inv_postEvent h _ _ _ _

theorem inv_containBlock {blk cause : Nat} (h : Inv s) : Inv (containBlock s blk cause) := by
  unfold containBlock
  split
  · exact h
  · dsimp only
    split <;> exact inv_tellContained (inv_foldl (fun _ _ hs => inv_foldl (fun _ _ hs => inv_abandon (inv_discardPixel hs)) hs)
        (inv_foldl (fun _ _ hs => inv_endWave hs) h))

theorem inv_withdraw {k : Nat} {w : Wave} (h : Inv s) : Inv (withdraw s k w) := inv_dropWaits h

theorem inv_enterTrap {k : Nat} {tb : List Nat} {t : Trap} (h : Inv s) : Inv (enterTrap s k tb t) := by
  unfold enterTrap
  split
  · exact h
  · dsimp only
    split
    · exact inv_containBlock h
    · split
      · exact inv_containBlock h
      · split
        · split
          · exact inv_withdraw (k := k) h
          · exact h
        · split
          · exact inv_withdraw (k := k) h
          · exact h

/-- A word that does more where it has an effect. -/
theorem resOk_after {r : Res} {f : State → State} (hr : ResOk r) (hf : ∀ t, Inv t → Inv (f t)) : ResOk (r.after f) := by
  cases r with
  | ok t => exact hf t hr
  | trap t => trivial
  | stall es => trivial

theorem inv_stepTrap {k : Nat} (h : Inv s) : Inv (stepTrap s k) := by
  unfold stepTrap
  split
  · exact inv_enterTrap h
  · exact h

theorem inv_commit {s0 s1 : State} {k : Nat} {lanes : List Nat} (h : Inv s1) : Inv (commit s0 s1 k lanes) := by
  unfold commit
  split
  · dsimp only
    split
    · split
      · exact inv_stepTrap (inv_settle h)
      · exact inv_settle h
    · exact inv_settle h
  · exact h

theorem inv_markOverrun {blk : Nat} {t : Trap} (h : Inv s) : Inv (markOverrun s blk t) := by
  unfold markOverrun
  repeat' split
  all_goals exact h

theorem inv_takeTrap {k : Nat} {lanes : List Nat} {t : Trap} (h : Inv s) : Inv (takeTrap s k lanes t) := by
  unfold takeTrap
  split
  · exact h
  · dsimp only
    repeat' split
    all_goals exact inv_enterTrap (inv_markOverrun h)

theorem inv_endChain {k : Nat} {lanes : List Nat} {r : Res} (h : Inv s) (hr : ResOk r) : Inv (endChain s k lanes r) := by
  cases r with
  | ok t =>
    unfold endChain
    dsimp only
    split
    · exact inv_takeTrap h
    · exact inv_commit hr
  | trap t => exact inv_takeTrap h
  | stall es =>
    unfold endChain
    dsimp only
    split
    · exact h
    · exact h

theorem inv_noteWord {r : Res} (h : Inv s) (hr : ResOk r) : Inv (noteWord s r) := by
  cases r with
  | ok t => exact hr
  | trap t => exact h
  | stall es => exact h

/-- A word ends its chain, or leaves its outcome to the words after it. -/
theorem outOk_runWord {f : Nat → Wave → Wave → Res} (h : Inv s) (hf : ∀ k r w, ResOk (f k r w)) : OutOk (runWord s f) := by
  unfold runWord
  split
  · trivial
  · split
    · exact inv_endChain h (hf _ _ _)
    · exact inv_noteWord h (hf _ _ _)

theorem resOk_needLevel {r : Wave} {ok : Bool} {x : Res} (hx : ResOk x) : ResOk (needLevel r ok x) := by
  unfold needLevel
  split
  · exact hx
  · trivial

/-- A step of the device takes its effect, or none. -/
theorem outOk_runEvent {e : Ev} {due : Bool} {eff : State → State} (h : Inv s) (heff : ∀ t, Inv t → Inv (eff t)) :
    OutOk (runEvent s e due eff) := by
  unfold runEvent
  split
  · exact heff _ h
  · exact h

/-! ## The operand forms of Kwexel words: vector registers through the fibre's window, queue ports, register pairs, uniform registers and
predicates -/

theorem inv_notePeerRead {k : Nat} {w : Wave} {device pa va n : Nat} (h : Inv s) : Inv (notePeerRead s k w device pa va n) := by
  unfold notePeerRead
  split
  · exact h
  · dsimp only
    split <;> exact h

theorem inv_noteRead {k : Nat} {w : Wave} {t : Target} {va n : Nat} (h : Inv s) : Inv (noteRead s k w t va n) := by
  unfold noteRead
  dsimp only
  split
  · exact h
  · exact memOk_foldl (fun _ _ hm => MemOk.flushS hm _ _) h
  · exact memOk_foldl (fun _ _ hm => MemOk.recallLine hm _) (memOk_foldl (fun _ _ hm => MemOk.flushS hm _ _) h)
  · exact inv_notePeerRead h
  · exact h

theorem inv_noteElem {k : Nat} {w : Wave} {e : StreamElem} {lanes : List Nat} (h : Inv s) : Inv (noteElem s k w e lanes) := by
  unfold noteElem
  refine inv_foldl (fun s a hs => ?_) h
  dsimp only
  split
  · split
    · exact inv_noteRead hs
    · exact hs
  · exact hs

theorem resOk_pushQueue {k : Nat} {r w : Wave} {q : Nat} {vals : List (Nat × Word)} (h : Inv s) : ResOk (pushQueue s k r w q vals) := by
  unfold pushQueue
  dsimp only
  split
  · exact h
  · split
    · trivial
    · split
      · trivial
      · exact h
      · trivial

theorem outOk_readWordFrom {chk : Wave → Option Trap} {srcs : List Nat} {n : Nat} {f : Nat → Wave → Wave → List LaneIn → Res} (h : Inv s)
    (hf : ∀ k r w ins, ResOk (f k r w ins)) : OutOk (readWordFrom s chk srcs n f) := by
  refine outOk_runWord h fun k r w => ?_
  split
  · trivial
  · split
    · trivial
    · trivial
    · exact hf _ _ _ _

theorem outOk_readWord {chk : Wave → Option Trap} {srcs : List Nat} {f : Nat → Wave → Wave → List LaneIn → Res} (h : Inv s)
    (hf : ∀ k r w ins, ResOk (f k r w ins)) : OutOk (readWord s chk srcs f) :=
  outOk_readWordFrom h hf

theorem outOk_vecRun {chk : Wave → Option Trap} {srcs : List Nat} {d : Option Nat} {g : Wave → List LaneIn → LaneIn → LaneOut} (h : Inv s) :
    OutOk (vecRun s chk srcs d g) := by
  refine outOk_readWord h fun k r w ins => ?_
  dsimp only
  split
  · exact resOk_pushQueue h
  · exact resOk_pushQueue h
  · exact h

theorem outOk_lanePack {srcs : List VReg} {d : VReg} {g : LaneIn → Word → LaneOut} (h : Inv s) : OutOk (lanePack s srcs d g) := by
  unfold lanePack
  split <;> exact outOk_vecRun h

/-! ## Packets, fetch, chains and the checks made before a chain issues -/

theorem inv_noteFetch {w : Wave} {parts : List (Nat × Target)} (h : Inv s) : Inv (noteFetch s w parts) := by
  unfold noteFetch
  refine inv_foldl (fun s a hs => ?_) h
  split
  · exact MemOk.recallLine hs _
  · exact inv_notePeerRead hs
  · exact hs

theorem inv_fetchPacket {w : Wave} {packet : Nat} {q : List Nat × State} (h : Inv s) (e : fetchPacket s w packet = .ok q) : Inv q.2 := by
  unfold fetchPacket at e
  dsimp only at e
  split at e
  · cases e
    split
    · exact h
    · exact inv_noteFetch h
  · cases e

/-! ## The control and status registers -/

theorem optOk_csrWrite {w : Wave} {i : Nat} {v : Word} (h : Inv s) : OptOk ((csrWrite s w i v).map Prod.fst) := by
  unfold csrWrite
  split
  · exact h
  · split
    · split
      · exact h
      · exact h
      · exact OptOk.map_map (fun _ _ => h)
      · exact h
    · split
      · exact h
      · split
        · exact h
        · exact h
        · split
          · trivial
          · exact h
        · exact h
        · exact h
        · split
          · trivial
          · exact h
        · exact h
        · exact OptOk.map_map (fun _ _ => h)
        · exact OptOk.map_map (fun _ _ => h)
        · exact OptOk.map_map (fun _ _ => h)
        · trivial

theorem outOk_csrWord {i : Nat} {v : Wave → Word} (h : Inv s) : OutOk (csrWord s i v) := by
  refine outOk_runWord h (fun k r w => resOk_needLevel ?_)
  split
  · next e => exact (optOk_csrWrite h).of_map e
  · trivial

theorem outOk_execCsrr {d : SReg} {i : BitVec 8} (h : Inv s) : OutOk (execCsrr d i s) := by
  refine outOk_runWord h (fun k r w => resOk_needLevel ?_)
  split
  · exact h
  · trivial

/-! ## The L1s, the cluster filters and the directory (08_memory_spaces R169 to R177): lines, write-through of S bytes, dropping of clean
bytes, evictions, notices and the state of the home slice for one line -/

theorem outOk_execL1Eviction {core line : Nat} (h : Inv s) : OutOk (execL1Eviction core line s) := by
  refine outOk_runEvent h fun t ht => ?_
  split
  · exact inv_evictLine ht _
  · exact ht

theorem inv_settleRegion {cluster region : Nat} (h : Inv s) : Inv (settleRegion s cluster region) := by
  unfold settleRegion
  split <;> exact h

theorem outOk_execEvictionNotice {core line : Nat} {data : Option (List Byte)} (h : Inv s) :
    OutOk (execEvictionNotice core line data s) := by
  refine outOk_runEvent h (fun t ht => inv_settleRegion ?_)
  split
  · exact MemOk.landDirty ht _ _ _
  · exact ht

theorem outOk_execProbe {cluster line : Nat} {inval : Bool} (h : Inv s) : OutOk (execProbe cluster line inval s) := by
  refine outOk_runEvent h fun t ht => ?_
  dsimp only
  split <;> exact memOk_foldl (fun _ _ hm => MemOk.probeCore hm _ _ _) ht

/-! ## The words of the S pipe that compute on uniform registers -/

theorem outOk_execRdlane {d : SReg} {a : VReg} {i : BitVec 8} (h : Inv s) : OutOk (execRdlane d a i s) := by
  refine outOk_runWord h fun k r w => ?_
  split
  · trivial
  · split
    · trivial
    · split
      · trivial
      · exact h

/-! ## The control words: CTL, branches, jumps, calls, loops, REP and WAIT -/

theorem outOk_branch {d : BitVec 8} {sel : List (Nat × Fibre) → List Nat} (h : Inv s) : OutOk (branch d sel s) := by
  refine outOk_runWord h fun k r w => ?_
  split
  · trivial
  · exact h

theorem outOk_execHalt (h : Inv s) : OutOk (execHalt s) := outOk_runWord h (fun _ _ _ => inv_foldl (fun _ _ hs => inv_endFibre hs) h)

theorem inv_endSaved {k : Nat} (h : Inv s) : Inv (endSaved s k) := by
  unfold endSaved
  split
  · exact h
  · refine inv_reapWave (inv_dropWaits ?_)
    repeat' split
    all_goals exact h

theorem outOk_execExit (h : Inv s) : OutOk (execExit s) := by
  refine outOk_runWord h fun k r w => ?_
  split
  · exact inv_endSaved h
  · exact inv_endWave h

theorem resOk_callTo {k : Nat} {r w : Wave} {d sh : Nat} {ts : List (Nat × Nat)} (h : Inv s) : ResOk (callTo s k r w d sh ts) := by
  unfold callTo
  dsimp only
  split
  · trivial
  · split
    · trivial
    · exact h

theorem outOk_execCall {d : VReg} {n : BitVec 3} {i : BitVec 8} (h : Inv s) : OutOk (execCall d n i s) := by
  refine outOk_runWord h fun k r w => ?_
  split
  · trivial
  · exact resOk_callTo h

theorem outOk_execRet {a : VReg} (h : Inv s) : OutOk (execRet a s) := by
  refine outOk_readWord h fun k r w ins => ?_
  dsimp only
  split
  · trivial
  · exact h

theorem resOk_loopWord {k : Nat} {r w : Wave} {n e : Nat} (h : Inv s) : ResOk (loopWord s k r w n e) := by
  unfold loopWord
  split
  · trivial
  · split
    · trivial
    · split
      · exact h
      · dsimp only
        split
        · trivial
        · exact h

theorem outOk_execLoops {a : SReg} {e : BitVec 8} (h : Inv s) : OutOk (execLoops a e s) := by
  refine outOk_runWord h fun k r w => ?_
  split
  · trivial
  · exact resOk_loopWord h

theorem outOk_execLbrk (h : Inv s) : OutOk (execLbrk s) := by
  refine outOk_runWord h fun k r w => ?_
  split
  · trivial
  · split <;> exact h

theorem outOk_execRep {n : BitVec 6} {x y z : Bool} {sc : BitVec 2} (h : Inv s) : OutOk (execRep n x y z sc s) := by
  refine outOk_runWord h fun k r w => ?_
  split
  · trivial
  · exact h

theorem outOk_execWait {l st p t : BitVec 6} (h : Inv s) : OutOk (execWait l st p t s) := by
  refine outOk_runWord h fun k r w => ?_
  split
  · exact h
  · trivial

/-! ## Surface table entries, cells and pixels, the surface pool and its evictions -/

theorem inv_setSte {ctx i : Nat} {e : Ste} (h : Inv s) : Inv (setSte s ctx i e) := by
  unfold setSte
  split
  · exact MemOk.devWrite h _ _ _
  · exact h

theorem inv_clearCell {ctx ste cx cy : Nat} (h : Inv s) : Inv (clearCell s ctx ste cx cy) := by
  unfold clearCell
  repeat' split
  all_goals exact h

theorem inv_touchPlaces {ctx : Nat} {qs : List (Space × Nat × Nat)} (h : Inv s) : Inv (touchPlaces s ctx qs) := by
  unfold touchPlaces
  refine inv_foldl (fun s a hs => ?_) h
  split
  · exact inv_foldl (fun _ _ hs => hs) hs
  · exact hs

end Sys2Proof.Upkeep
end

section
/-! SUPPORT. What accesses, barrier objects, copies, remote messages and the block store leave of the two memories: canonical ones. -/

namespace Sys2Proof.Upkeep

open Machine

variable {s : State}

/-! ## Where accesses are performed: the order that a wave keeps, the L1, the home slice with its probes, the scratchpad array, host and
peer memory -/

theorem inv_agentWrite {key : Option Nat} {pa : Nat} {bs : List Byte} (h : Inv s) : Inv (agentWrite s key pa bs) := MemOk.devWrite h _ _ _

theorem inv_agentRead {key : Option Nat} {pa n : Nat} (h : Inv s) : Inv (agentRead s key pa n).1 := by
  unfold agentRead
  exact memOk_foldl (fun _ _ hm => MemOk.recallLine hm _) h

theorem inv_turnKey {core line : Nat} {key : Option Nat} (h : Inv s) : Inv (turnKey s core line key) := by
  unfold turnKey
  split
  · split
    · exact h
    · exact MemOk.flushS h _ _
  · exact h

theorem inv_storeS {blk core : Nat} {x : Sub} {bs : List Byte} (h : Inv s) : Inv (storeS s blk core x bs) :=
  inv_fillLine (inv_turnKey h) _

theorem inv_fillD {core : Nat} {x : Sub} {bs : List Byte} {owned : Bool} (h : Inv s) : Inv (fillD s core x bs owned) := by
  unfold fillD
  refine inv_fillLine ?_ _
  split
  · exact MemOk.recallLine h _
  · exact h

theorem inv_fillS {core : Nat} {x : Sub} {bs : List Byte} (h : Inv s) : Inv (fillS s core x bs) := by
  unfold fillS
  dsimp only
  split <;> exact inv_fillLine (inv_turnKey h) _

theorem inv_performHome {blk core : Nat} {x : Sub} (h : Inv s) : Inv (performHome s blk core x).1 := by
  have hturn : Inv (if x.space = .dev .s then turnKey s core (lineOf x.pa) x.key else s) := inv_ite (inv_turnKey h) h
  unfold performHome
  dsimp only
  generalize (if x.space = .dev .s then turnKey s core (lineOf x.pa) x.key else s) = u at hturn ⊢
  have hkey : Inv { u with mem := rekey u.mem (lineOf x.pa) x.key } := MemOk.rekey hturn _ _
  split
  · exact inv_fillD hkey
  · exact inv_fillS hkey
  · exact inv_fillD hkey
  · split
    · exact MemOk.devWrite hkey _ _ _
    · exact hkey

theorem inv_sendSub {ctx : Nat} {x : Sub} (h : Inv s) : Inv (sendSub s ctx x) := by
  unfold sendSub
  repeat' split
  all_goals exact h

theorem inv_performFar {ctx blk device : Nat} {x : Sub} (h : Inv s) : Inv (performFar s ctx blk device x).1 := by
  unfold performFar
  dsimp only
  split
  · exact MemOk.farWrite (inv_sendSub h) _ _ _
  · exact inv_sendSub h

theorem inv_refuseSub {k : Nat} {w : Wave} {id j : Nat} {x : Sub} {reason : Nat} (h : Inv s) :
    Inv (refuseSub s k w id j x reason) := by
  unfold refuseSub
  dsimp only
  split
  · exact inv_sendSub h
  · exact h

theorem inv_performSpm {blk : Nat} {x : Sub} (h : Inv s) : Inv (performSpm s blk x).1 := by
  unfold performSpm
  dsimp only
  split <;> exact h

theorem optOk_performSurf {ctx blk ste : Nat} {x : Sub} (h : Inv s) : OptOk ((performSurf s ctx blk ste x).map Prod.fst) := by
  unfold performSurf
  split
  · dsimp only
    split
    · exact h
    · trivial
  · dsimp only
    split
    · exact h
    · trivial

theorem inv_performCache {core : Nat} {x : Sub} (h : Inv s) : Inv (performCache s core x) := by
  unfold performCache
  dsimp only
  split
  · split
    · exact ⟨Memory.wf_writes _ _ _ h.1, h.2⟩
    · exact h
  · split
    · exact MemOk.writeThrough h _
    · exact h
  · exact MemOk.flushS h _ _
  · exact h

theorem inv_endSub {k id j core value : Nat} {acq : Bool} (h : Inv s) : Inv (endSub s k id j core value acq) := by
  unfold endSub
  dsimp only
  split
  · exact MemOk.acquireBytes h _
  · exact h

theorem optOk_requestHome {k id j blk core : Nat} {x : Sub} {acq : Bool} (h : Inv s) : OptOk (requestHome s k id j blk core x acq) := by
  unfold requestHome
  dsimp only
  split
  · trivial
  · split
    · exact inv_endSub (inv_performHome h)
    · exact h

theorem optOk_accessDev {k : Nat} {o : MemOp} {j blk core : Nat} {x : Sub} {mode : Mode} (h : Inv s) :
    OptOk (accessDev s k o j blk core x mode) := by
  have hstore (d : DWord) : Inv (storeS s blk core x (storedData s blk x (dataBytes d x.n))) := inv_storeS h
  have hflush {acq : Bool} : OptOk (requestHome { s with mem := flushS s.mem core (lineOf x.pa) } k o.id j blk core x acq) :=
    optOk_requestHome (MemOk.flushS h _ _)
  unfold accessDev
  dsimp only
  split
  · exact optOk_ite (inv_performCache h) trivial
  · exact optOk_ite (inv_performCache h) trivial
  · refine optOk_ite (optOk_ite hflush trivial) (optOk_ite (optOk_ite hflush trivial) ?_)
    split
    · exact h
    · exact inv_endSub h
    · exact inv_endSub h
    · refine optOk_ite trivial ?_
      split
      · exact inv_ite (MemOk.writeThrough (hstore _) _) (hstore _)
      · exact hstore _
    · exact optOk_requestHome h

theorem optOk_accessAt {k : Nat} {w : Wave} {o : MemOp} {j : Nat} {x : Sub} (h : Inv s) : OptOk (accessAt s k w o j x) := by
  unfold accessAt
  dsimp only
  split
  · exact optOk_accessDev h
  · split
    · exact h
    · exact h
    · split
      · exact inv_refuseSub h
      · split
        · exact inv_endSub (inv_performFar h)
        · trivial
  · exact inv_performSpm h
  · exact OptOk.map (fun _ e => ((optOk_performSurf h).of_map e))
  · trivial

theorem optOk_beforeRelease {core : Nat} {o : MemOp} (h : Inv s) : OptOk (beforeRelease s core o) := by
  unfold beforeRelease
  split
  · split
    · exact MemOk.releaseBytes h _
    · trivial
  · exact h

theorem inv_beforeAcquire {core : Nat} {o : MemOp} (h : Inv s) : Inv (beforeAcquire s core o) := by
  unfold beforeAcquire
  split
  · exact MemOk.acquireBytes h _
  · exact h

theorem optOk_performSub {k id j : Nat} (h : Inv s) : OptOk (performSub s k id j) := by
  unfold performSub
  split
  · trivial
  · split
    · trivial
    · split
      · trivial
      · split
        · trivial
        · split
          · split
            · exact inv_endSub h
            · trivial
          · split
            · trivial
            · next e => exact optOk_accessAt (inv_beforeAcquire ((optOk_beforeRelease h).of_eq_some e))

theorem optOk_performFence {k : Nat} {w : Wave} {o : MemOp} {kind : FKind} (h : Inv s) : OptOk (performFence s k w o kind) := by
  unfold performFence
  dsimp only
  split
  · trivial
  · split
    · trivial
    · next s1 e =>
      have hs1 : Inv s1 := (optOk_beforeRelease h).of_eq_some e
      refine inv_reapWave ?_
      split
      · exact MemOk.acquireBytes hs1 _
      · exact hs1

theorem optOk_placeStep {k id j : Nat} (h : Inv s) : OptOk (placeStep s k id j) := by
  unfold placeStep
  split
  · split
    · exact optOk_performFence h
    · exact optOk_performSub h
  · trivial

theorem outOk_execHomeSliceRequest {wave op sub : Nat} (h : Inv s) : OutOk (execHomeSliceRequest wave op sub s) :=
  outOk_runEvent h (fun _ ht => OptOk.getD (optOk_placeStep ht) ht)

theorem memOk_landProbe {m : MemSys} {cluster line : Nat} {inval : Bool} {data : Option (List Byte)} (h : MemOk m) :
    MemOk (landProbe m cluster line inval data) := by
  unfold landProbe
  split
  · exact h
  · split
    · exact h
    · dsimp only
      split <;> exact ⟨Memory.wf_writes _ _ _ h.1, h.2⟩

theorem inv_finishBusy {b : BusyLine} (h : Inv s) : Inv (finishBusy s b) := by
  unfold finishBusy
  dsimp only
  split
  · exact inv_settleRegion (inv_endSub (inv_performHome h))
  · exact inv_settleRegion h

theorem outOk_execProbeAck {cluster line : Nat} {regionEmpty : Bool} {data : Option (List Byte)} (h : Inv s) :
    OutOk (execProbeAck cluster line regionEmpty data s) := by
  refine outOk_runEvent h fun t ht => ?_
  split
  · exact ht
  · dsimp only
    split
    · refine inv_finishBusy (inv_settleRegion ?_)
      split <;> exact memOk_landProbe ht
    · refine inv_settleRegion ?_
      split <;> exact memOk_landProbe ht

/-! ## Transaction barrier objects: their fields and updates, the place that orders them, flips and the release of waiting fibres -/

theorem inv_arrayWriteFrom {since blk off : Nat} {bs : List Byte} (h : Inv s) : Inv (arrayWriteFrom s since blk off bs) := by
  unfold arrayWriteFrom
  split
  · split
    · exact OptOk.getD (optOk_hwWrite h) h
    · exact h
  · exact h

theorem inv_arrayWrite {blk off : Nat} {bs : List Byte} (h : Inv s) : Inv (arrayWrite s blk off bs) := inv_arrayWriteFrom h

theorem inv_objWrite {o : BarObj} {x : Nat} (h : Inv s) : Inv (objWrite s o x) := by
  unfold objWrite
  split
  · exact inv_arrayWrite h
  · split
    · split
      · exact MemOk.farWrite h _ _ _
      · exact MemOk.devWrite h _ _ _
    · exact h

theorem inv_updateObj {o : BarObj} {u : BarUpd} (h : Inv s) : Inv (updateObj s o u).1 := by
  unfold updateObj
  split
  · exact h
  · dsimp only
    split <;> exact inv_objWrite h

theorem outOk_execBwaitRelease {wave : Nat} {obj : BarObj} (h : Inv s) : OutOk (execBwaitRelease wave obj s) := by
  refine outOk_runEvent h fun t ht => ?_
  split
  · exact ht
  · exact MemOk.acquireBytes ht _

theorem inv_waveUpdate {k : Nat} {obj : BarObj} {upd : BarUpd} (h : Inv s) : Inv (waveUpdate s k obj upd) := by
  unfold waveUpdate
  split
  · exact h
  · refine inv_reapWave ?_
    split <;> exact inv_updateObj (OptOk.getD (optOk_beforeRelease h) h)

theorem outOk_execBarrierUpdate {wave : Option Nat} {obj : BarObj} {upd : BarUpd} (h : Inv s) :
    OutOk (execBarrierUpdate wave obj upd s) := by
  refine outOk_runEvent h fun t ht => ?_
  split
  · exact inv_waveUpdate ht
  · exact inv_updateObj ht

/-! ## How a memory word issues: addresses, checks in order, and the operation that it leaves outstanding -/

theorem resOk_issueOp {k : Nat} {r w : Wave} {cls : Option OpCls} {kind : OpKind} {acq rel : Option Scope} {ts : List Try} (h : Inv s) :
    ResOk (issueOp s k r w cls kind acq rel ts) := by
  unfold issueOp
  split
  · split
    · trivial
    · split
      · trivial
      · split
        · exact h
        · trivial
  · split
    · trivial
    · split
      · trivial
      · split
        · exact h
        · trivial

/-! ## Loads and stores of every space, atomics, fences and cache words -/

theorem outOk_execFence {sc : FScope} {kind : FKind} (h : Inv s) : OutOk (execFence sc kind s) := by
  refine outOk_runWord h fun k r w => ?_
  split <;> exact h

theorem inv_enterPrefs {k : Nat} {w : Wave} {subs : List Sub} (h : Inv s) : Inv (enterPrefs s k w subs) := by
  unfold enterPrefs
  split <;> exact h

theorem outOk_execPref {a : VReg} {sb : BitVec 4} {l : PLevel} (h : Inv s) : OutOk (execPref a sb l s) := by
  refine outOk_readWord h fun k r w ins => ?_
  split
  · exact h
  · exact inv_enterPrefs h

theorem inv_countOp {k : Nat} {o : MemOp} (h : Inv s) : Inv (countOp s k o) := inv_reapWave h

theorem outOk_execCountedOpComplete {wave : Nat} {cls : OpCls} (h : Inv s) : OutOk (execCountedOpComplete wave cls s) := by
  refine outOk_runEvent h fun t ht => ?_
  split
  · exact inv_countOp ht
  · exact ht

/-! ## What all copies share: their pages, the credit of a sector and the end of a copy -/

theorem inv_pageWrite {pages : Map PageAt} {va : Nat} {bs : List Byte} (h : Inv s) : Inv (pageWrite s pages va bs) := by
  unfold pageWrite
  split
  · exact MemOk.farWrite h _ _ _
  · exact MemOk.devWrite h _ _ _
  · exact h

theorem inv_pageStore {pages : Map PageAt} {va : Nat} {bs : List Byte} (h : Inv s) : Inv (pageStore s pages va bs) := by
  unfold pageStore
  split
  · exact inv_agentWrite h
  · exact inv_pageWrite h

theorem inv_poisonAt {pages : Map PageAt} {va : Nat} (h : Inv s) : Inv (poisonAt s pages va) := by
  unfold poisonAt
  repeat' split
  all_goals exact h

theorem resOk_withPages {r : Wave} {vas : List (Nat × Access)} {f : Map PageAt → Res} (hf : ∀ m, ResOk (f m)) :
    ResOk (withPages s r vas f) := by
  unfold withPages
  dsimp only
  split
  · trivial
  · split
    · exact hf _
    · trivial

theorem inv_commitSlot {c : Copy} (h : Inv s) : Inv (commitSlot s c) := by
  unfold commitSlot
  split <;> exact h

theorem inv_endCopy {id : Nat} (h : Inv s) : Inv (endCopy s id) := by
  unfold endCopy
  split
  · split
    · exact inv_commitSlot h
    · exact h
  · exact h

theorem inv_sectorDone {id k : Nat} (h : Inv s) : Inv (sectorDone s id k) := inv_endCopy h

theorem inv_creditSector {c : Copy} (h : Inv s) : Inv (creditSector s c) := by
  unfold creditSector
  split
  · exact inv_updateObj h
  · exact h

/-! ## Remote access to the scratchpad of a block of a group: the words, the messages, generations, holds and drops -/

theorem inv_ackMsg {m : RemoteMsg} {value : Nat} (h : Inv s) : Inv (ackMsg s m value) := by
  unfold ackMsg
  split
  · exact h
  · exact h
  · exact inv_reapWave h
  · exact h

theorem inv_dropMsg {ctx : Nat} {m : RemoteMsg} (h : Inv s) : Inv (dropMsg s ctx m) := by
  unfold dropMsg
  dsimp only
  split
  · exact inv_sectorDone (inv_ackMsg (inv_ite (inv_bumpCount h _ _) h))
  · exact inv_ackMsg (inv_ite (inv_bumpCount h _ _) h)

theorem inv_applySector {m : RemoteMsg} {id k : Nat} (h : Inv s) : Inv (applySector s m id k) := by
  unfold applySector
  split
  · exact h
  · refine inv_sectorDone ?_
    split
    · exact inv_updateObj (inv_arrayWriteFrom h)
    · exact inv_arrayWriteFrom h

theorem inv_applyMsg {m : RemoteMsg} (h : Inv s) : Inv (applyMsg s m) := by
  unfold applyMsg
  split
  · exact inv_ackMsg h
  · exact inv_ackMsg (inv_arrayWrite h)
  · dsimp only
    split <;> exact inv_ackMsg (inv_updateObj h)
  · exact inv_updateObj h
  · exact inv_applySector h

theorem inv_applyHeld {blk : Nat} (h : Inv s) : Inv (applyHeld s blk) := by
  unfold applyHeld
  split
  · exact inv_foldl (fun _ _ hs => inv_applyMsg hs) h
  · exact h

theorem inv_msgRelease {m : RemoteMsg} (h : Inv s) : Inv (msgRelease s m) := by
  unfold msgRelease
  split
  · split
    · exact OptOk.getD (optOk_beforeRelease h) h
    · exact h
  · exact h

theorem inv_takeMsg {m : RemoteMsg} (h : Inv s) : Inv (takeMsg s m) := by
  unfold takeMsg
  dsimp only
  split
  · exact inv_dropMsg (inv_msgRelease h)
  · split
    · split
      · exact inv_msgRelease h
      · exact inv_applyMsg (inv_msgRelease h)
    · exact inv_msgRelease h

theorem outOk_execRemoteMessage {m : RemoteMsg} (h : Inv s) : OutOk (execRemoteMessage m s) := outOk_runEvent h (fun _ ht => inv_takeMsg ht)

theorem outOk_remoteWord {chk : Wave → Option Trap} {srcs : List Nat} {n : Nat} {g : BitVec 2} {b : Option Nat} {cls : OpCls}
    {kind : OpKind} {rank : LaneIn → Option Nat} {acc : LaneIn → Machine.Acc} {dst : Option Nat} (h : Inv s) :
    OutOk (remoteWord s chk srcs n g b cls kind rank acc dst) := by
  refine outOk_readWordFrom h fun k r w ins => ?_
  split
  · trivial
  · dsimp only
    split
    · trivial
    · split
      · trivial
      · exact h

/-! ## The BAR words, the requests of remote waiters and the reports of barrier objects -/

theorem resOk_withObject {r : Wave} {g : Bool} {a : SReg} {acc : Access} {remoteOk : Bool} {f : BarRef → Res} (hf : ∀ x, ResOk (f x)) :
    ResOk (withObject s r g a acc remoteOk f) := by
  unfold withObject
  split
  · trivial
  · trivial
  · exact hf _

theorem inv_noteReads {k : Nat} {r : Wave} {qs : List (Nat × Nat)} (h : Inv s) : Inv (noteReads s k r qs) := by
  unfold noteReads
  refine inv_foldl (fun s a hs => ?_) h
  split
  · exact inv_noteRead hs
  · exact hs

theorem outOk_execBinit {g : Bool} {a b : SReg} (h : Inv s) : OutOk (execBinit g a b s) := by
  refine outOk_runWord h fun k r w => ?_
  dsimp only
  split
  · trivial
  · refine resOk_withObject (fun x => ?_)
    split
    · split
      · exact inv_updateObj h
      · trivial
    · exact h
    · trivial

theorem resOk_arriveOwn {k : Nat} {r w : Wave} {off : Nat} (h : Inv s) : ResOk (arriveOwn s k r w off) := by
  unfold arriveOwn
  split
  · trivial
  · dsimp only
    split
    · trivial
    · exact inv_updateObj (MemOk.releaseBytes h _)

theorem outOk_execBarv {g : Bool} {a : SReg} (h : Inv s) : OutOk (execBarv g a s) := by
  refine outOk_runWord h (fun k r w => resOk_withObject (fun x => ?_))
  split
  · exact resOk_arriveOwn h
  · exact h
  · exact h

theorem outOk_execBexp {g : Bool} {a b : SReg} (h : Inv s) : OutOk (execBexp g a b s) := by
  refine outOk_runWord h (fun k r w => resOk_withObject (fun x => ?_))
  split
  · split
    · exact inv_updateObj h
    · trivial
  · exact h
  · trivial

theorem inv_goOn {k : Nat} {r w : Wave} (h : Inv s) : Inv (goOn s k r w) := MemOk.acquireBytes h _

theorem outOk_execBwait {g : Bool} {a b : SReg} (h : Inv s) : OutOk (execBwait g a b s) := by
  refine outOk_runWord h fun k r w => ?_
  dsimp only
  split
  · trivial
  · refine resOk_withObject (fun x => ?_)
    split
    · split
      · trivial
      · split
        · exact inv_goOn h
        · exact h
    · exact h
    · exact h

theorem outOk_execBtest {g : Bool} {p : PReg} {a b : SReg} (h : Inv s) : OutOk (execBtest g p a b s) := by
  refine outOk_runWord h fun k r w => ?_
  dsimp only
  split
  · trivial
  · refine resOk_withObject (fun x => ?_)
    split
    · split
      · trivial
      · split
        · exact inv_goOn h
        · exact h
    · exact h
    · exact h

theorem inv_answerAsk {k : Nat} {w : Wave} {ls bs : List Nat} {o : BarObj} {phase : Nat} {test : Option PReg} (h : Inv s) :
    Inv (answerAsk s k w ls bs o phase test) := by
  unfold answerAsk
  dsimp only
  split
  · exact MemOk.acquireBytes h _
  · exact h

theorem outOk_execRemoteBarrierRequest {wave lanes gen addr : Nat} {obj : BarObj} {phase : Nat} {test : Option PReg} (h : Inv s) :
    OutOk (execRemoteBarrierRequest wave lanes gen addr obj phase test s) := by
  refine outOk_runEvent h fun t ht => ?_
  split
  · exact ht
  · dsimp only
    split
    · exact ht
    · split
      · exact inv_answerAsk ht
      · exact inv_bumpCount ht _ _

/-! ## The block store: keys, handles, blocks and the four block-store words -/

theorem outOk_bsWord {kind : Nat} {cls : Option OpCls} {okind : OpKind} {a : VReg} {hr d : Option VReg} {q : Bool} (h : Inv s) :
    OutOk (bsWord s kind cls okind a hr d q) := by
  refine outOk_readWord h fun k r w ins => ?_
  split
  · split
    · trivial
    · exact h
  · split
    · trivial
    · exact h

theorem inv_bsStep {ctx stack : Nat} {r : BsReq} {q : State × Word} (h : Inv s) (e : bsStep s ctx stack r = .ok q) : Inv q.1 := by
  unfold bsStep at e
  split at e
  · cases e
  · split at e
    · cases e
    · split at e
      · cases e
        exact h
      · cases e
  · cases e
    exact h
  · split at e
    · cases e
      exact h
    · cases e
  · split at e
    · cases e
    · cases e
    · split at e
      · cases e
      · cases e
        exact h
  · cases e
  · cases e
    exact h

theorem inv_bsAnswer {w : Wave} {o : MemOp} {r : BsReq} (h : Inv s) : Inv (bsAnswer s w o r) := by
  unfold bsAnswer
  split
  · next t v e =>
    have ht : Inv t := inv_bsStep h e
    dsimp only
    split
    · split
      · exact inv_reapWave ht
      · exact ht
    · exact ht
  · dsimp only
    split
    · split
      · exact inv_reapWave h
      · exact h
    · exact h

theorem outOk_execBlockEviction {ctx stack : Nat} (h : Inv s) : OutOk (execBlockEviction ctx stack s) := by
  refine outOk_runEvent h fun t ht => ?_
  split <;> exact ht

/-! ## The circular-buffer words -/

theorem resOk_withCbuf {r : Wave} {n : BitVec 4} {f : Cbuf → Res} (hf : ∀ q, ResOk (f q)) : ResOk (withCbuf s r n f) := by
  unfold withCbuf
  split
  · trivial
  · split
    · trivial
    · exact hf _

theorem outOk_execCbcfg {a : SReg} {n : BitVec 4} (h : Inv s) : OutOk (execCbcfg a n s) := by
  refine outOk_runWord h fun k r w => ?_
  dsimp only
  split
  · trivial
  · split
    · trivial
    · split
      · trivial
      · exact h

theorem outOk_execCbcom {n : BitVec 4} (h : Inv s) : OutOk (execCbcom n s) := by
  refine outOk_runWord h (fun k r w => resOk_withCbuf (fun q => ?_))
  split
  · trivial
  · exact MemOk.releaseBytes h _

theorem outOk_execCbrel {n : BitVec 4} (h : Inv s) : OutOk (execCbrel n s) := by
  refine outOk_runWord h (fun k r w => resOk_withCbuf (fun q => ?_))
  split
  · trivial
  · exact MemOk.releaseBytes h _

theorem outOk_execCbqry {d : SReg} {n : BitVec 4} (h : Inv s) : OutOk (execCbqry d n s) := by
  refine outOk_runWord h fun k r w => ?_
  split
  · trivial
  · exact h

/-! ## The copy words, the start of a copy and the landing of its sectors -/

theorem inv_flushSource {core : Nat} {reads : List Nat} {pages : Map PageAt} (h : Inv s) : Inv (flushSource s core reads pages) := by
  unfold flushSource
  refine memOk_foldl (fun m a hm => ?_) h
  split
  · exact MemOk.writeThrough hm _
  · exact hm

theorem inv_pinCopy {r : Wave} {p : Plan} (h : Inv s) : Inv (pinCopy s r p) := by
  unfold pinCopy
  repeat' split
  all_goals exact h

theorem inv_enterCopy {k : Nat} {r w : Wave} {x : Bool} {p : Plan} {pages : Map PageAt} (h : Inv s) :
    Inv (enterCopy s k r w x p pages) := by
  unfold enterCopy
  dsimp only
  split
  · refine inv_updateObj ?_
    split <;> exact inv_flushSource (inv_pinCopy h)
  · split <;> exact inv_flushSource (inv_pinCopy h)

theorem resOk_issueCopy {k : Nat} {r w : Wave} {x : Bool} {p : Plan} (h : Inv s) : ResOk (issueCopy s k r w x p) := by
  unfold issueCopy
  dsimp only
  split
  · trivial
  · split
    · trivial
    · refine resOk_withPages (fun m => ?_)
      split
      · trivial
      · split
        · trivial
        · exact inv_enterCopy h

theorem outOk_execCpyt {a : SReg} {x : Bool} (h : Inv s) : OutOk (execCpyt a x s) := by
  refine outOk_runWord h fun k r w => ?_
  dsimp only
  split
  · trivial
  · split
    · split <;> trivial
    · exact resOk_after (resOk_issueCopy h) (fun _ ht => inv_noteReads ht)

theorem inv_startOne {p : Nat × Copy} (h : Inv s) : Inv (startOne s p) := by
  unfold startOne
  dsimp only
  repeat' split
  all_goals exact inv_flushSource h

theorem inv_locWrite {c : Copy} {b : Byte} {poison : Bool} {loc : Loc} (h : Inv s) : Inv (locWrite s c b poison loc) := by
  unfold locWrite
  split
  · exact h
  · exact inv_arrayWriteFrom h
  · split
    · exact inv_poisonAt (inv_pageStore h)
    · exact inv_pageStore h
  · exact h
  · exact h

theorem inv_locTouch {c : Copy} {loc : Loc} (h : Inv s) : Inv (locTouch s c loc) := by
  unfold locTouch
  split <;> exact h

theorem inv_clearCells {c : Copy} {k : Nat} (h : Inv s) : Inv (clearCells s c k) := by
  unfold clearCells
  refine inv_foldl (fun s a hs => ?_) h
  split
  · split
    · exact inv_clearCell hs
    · exact hs
  · exact hs

theorem inv_writeSector {c : Copy} {k : Nat} (h : Inv s) : Inv (writeSector s c k) := by
  unfold writeSector
  dsimp only
  split
  · exact inv_postPoison (inv_foldl (fun _ _ hs => inv_locWrite hs) (inv_foldl (fun _ _ hs => inv_locTouch hs) (inv_clearCells h)))
  · exact inv_foldl (fun _ _ hs => inv_locWrite hs) (inv_foldl (fun _ _ hs => inv_locTouch hs) (inv_clearCells h))

theorem inv_writeStatus {c : Copy} {status : Nat} (h : Inv s) : Inv (writeStatus s c status) := inv_arrayWrite h

theorem inv_unpinCopy {c : Copy} (h : Inv s) : Inv (unpinCopy s c) := by
  unfold unpinCopy
  split <;> exact h

theorem inv_sendBytes {ctx : Nat} {c : Copy} {k : Nat} {bs : List Byte} (h : Inv s) : Inv (sendBytes s ctx c k bs) := by
  unfold sendBytes
  split
  · exact h
  · exact inv_foldl (fun _ _ hs => hs) h

theorem inv_sendSector {c : Copy} {k : Nat} (h : Inv s) : Inv (sendSector s c k) := inv_sendBytes h

theorem inv_settleSector {id k : Nat} {c : Copy} (h : Inv s) : Inv (settleSector s id k c) := by
  unfold settleSector
  refine inv_sectorDone (inv_creditSector ?_)
  split
  · exact inv_unpinCopy (inv_ite (inv_writeStatus h) h)
  · split
    · exact inv_writeStatus h
    · exact h

theorem inv_refuseSector {id k : Nat} {c : Copy} {reason : Nat} (h : Inv s) : Inv (refuseSector s id k c reason) := by
  unfold refuseSector
  dsimp only
  split
  · split
    · exact inv_sendSector h
    · exact h
  · split
    · exact inv_settleSector (inv_ite (inv_sendSector h) h)
    · exact inv_settleSector (inv_foldl (fun _ _ hs => inv_locWrite hs) (inv_ite (inv_sendSector h) h))

theorem inv_landSector {id k : Nat} {c : Copy} (h : Inv s) : Inv (landSector s id k c) := by
  unfold landSector
  split
  · split
    · exact inv_settleSector (inv_writeSector (inv_sendSector h))
    · exact inv_refuseSector h
  · exact inv_settleSector (inv_writeSector h)

theorem outOk_execSectorLand {id k : Nat} (h : Inv s) : OutOk (execSectorLand id k s) := by
  refine outOk_runEvent h fun t ht => ?_
  split
  · exact inv_landSector ht
  · exact ht

theorem inv_endPeerCopy {id : Nat} {c : Copy} {status : Nat} (h : Inv s) : Inv (endPeerCopy s id c status) :=
  inv_foldl (fun _ _ hs => inv_sectorDone (inv_creditSector hs))
      (inv_writeStatus (inv_foldl (fun _ _ hs => inv_writeSector (inv_sendSector hs)) h))

theorem inv_resumeSector {u : Unresolved} {q : Nat × List Byte} (h : Inv s) : Inv (resumeSector u s q) := by
  unfold resumeSector
  dsimp only
  split
  · exact inv_pageWrite (inv_sendBytes h)
  · exact inv_pageWrite (inv_sendBytes h)
  · exact inv_sendBytes h

end Sys2Proof.Upkeep
end

section
/-! SUPPORT. What launches, fibres, tile operations, waypoints, images, admission and traps leave of the two memories: canonical ones. -/

namespace Sys2Proof.Upkeep

open Machine

variable {s : State}

/-! ## TLBINV and KEYLD -/

theorem outOk_execTlbinv {a b : SReg} (h : Inv s) : OutOk (execTlbinv a b s) := by
  refine outOk_runWord h (fun k r w => resOk_needLevel ?_)
  split
  · trivial
  · split
    · trivial
    · exact inv_releaseBytes (s := dropTlb (s.setWave k w) _) h

theorem memOk_sealLine {key : Nat} {m : MemSys} {line : Nat} (h : MemOk m) : MemOk (sealLine key m line) := by
  unfold sealLine
  dsimp only
  split
  · exact ⟨Memory.wf_writes _ _ _ (MemOk.recallLine h _).1, (MemOk.recallLine h _).2⟩
  · exact MemOk.recallLine h _

theorem memOk_sealSlot {m : MemSys} {key : Nat} (h : MemOk m) : MemOk (sealSlot m key) :=
  memOk_foldl (fun _ _ hm => memOk_sealLine hm) (memOk_foldl (fun _ _ hm => MemOk.storeDirty hm _) h)

theorem inv_setKey {key : Nat} {v : Option (BitVec 256 × BitVec 256)} (h : Inv s) : Inv (setKey s key v) := memOk_sealSlot h

theorem outOk_execKeyld {a b : SReg} (h : Inv s) : OutOk (execKeyld a b s) := by
  refine outOk_runWord h (fun k r w => resOk_needLevel ?_)
  dsimp only
  generalize keyAt s.mem _ = d, keyAt s.mem _ = t
  split
  · trivial
  · split
    · exact resOk_ite (inv_setKey h) trivial
    · split
      · trivial
      · split
        · trivial
        · split
          · trivial
          · refine resOk_ite trivial (resOk_ite trivial ?_)
            exact inv_setKey (inv_noteReads h)

/-! ## Launch records, group tables, host queues, LAUNCH and completion arrivals -/

theorem outOk_execLaunch {d a : SReg} (h : Inv s) : OutOk (execLaunch d a s) := by
  refine outOk_runWord h fun k r w => ?_
  have hreads {v : Wave} {qs : List (Nat × Nat)} : Inv (noteReads (s.setWave k v) k r qs) := inv_noteReads h
  dsimp only
  split
  · trivial
  · split
    · trivial
    · split
      · trivial
      · trivial
      · split
        · exact hreads
        · split
          · trivial
          · exact MemOk.releaseBytes hreads _

theorem outOk_execLaunchDoorbell {ctx q : Nat} (h : Inv s) : OutOk (execLaunchDoorbell ctx q s) := by
  refine outOk_runEvent h fun t ht => ?_
  split
  · dsimp only
    split <;> exact ht
  · exact ht

theorem inv_takeEntry {ctx q va tag : Nat} (h : Inv s) : Inv (takeEntry s ctx q va tag) := by
  unfold takeEntry
  dsimp only
  split
  · exact h
  · exact inv_postEvent h _ _ _ _

theorem outOk_execLaunchQueueEntry {ctx q : Nat} (h : Inv s) : OutOk (execLaunchQueueEntry ctx q s) := by
  refine outOk_runEvent h fun t ht => ?_
  split
  · dsimp only
    split
    · split <;> exact OptOk.getD (optOk_hwWrite (inv_takeEntry ht)) (inv_takeEntry ht)
    · exact ht
  · exact ht

theorem outOk_execCompletionArrival {ctx va record source : Nat} (h : Inv s) : OutOk (execCompletionArrival ctx va record source s) := by
  unfold execCompletionArrival
  refine outOk_runEvent h fun t ht => ?_
  dsimp only
  split
  · exact inv_postEvent ht _ _ _ _
  · split
    · exact inv_postEvent (inv_updateObj ht) _ _ _ _
    · exact inv_updateObj ht

/-! ## Whether a block fits on a core, its place there, its start and what it leaves behind -/

theorem inv_startWaves {blk : Nat} {b : Block} {l : Launch} {fibres : Nat → Nat → Map Fibre} {regs : Wave → Wave} (h : Inv s) :
    Inv (startWaves s blk b l fibres regs) :=
  inv_foldl (fun _ _ hs => hs) h

theorem inv_startBlock {id : Nat} {l : Launch} {idx core quality : Nat} {p : Place} {fibres : Nat → Nat → Map Fibre} {regs : Wave → Wave}
    (h : Inv s) : Inv (startBlock s id l idx core quality p fibres regs) := by
  refine inv_acquireBytes ?_
  exact inv_startWaves h

/-! ## The fibre words and the regroup pools -/

theorem outOk_spawnWord {pad : Bool} {d a : VReg} {i : BitVec 8} (h : Inv s) : OutOk (spawnWord pad d a i s) := by
  refine outOk_readWord h fun k r w ins => ?_
  dsimp only
  split
  · trivial
  · exact h

theorem outOk_execRegroup {a : VReg} {i : BitVec 8} (h : Inv s) : OutOk (execRegroup a i s) := by
  refine outOk_readWord h fun k r w ins => ?_
  dsimp only
  split
  · trivial
  · split
    · trivial
    · split
      · trivial
      · split <;> exact h

theorem outOk_execFlushrg (h : Inv s) : OutOk (execFlushrg s) := by
  refine outOk_runWord h fun k r w => ?_
  split <;> exact h

theorem inv_enterPool {blk k lane t : Nat} {key : Word} (h : Inv s) : Inv (enterPool s blk k lane t key) := by
  unfold enterPool
  split
  · split
    · exact inv_settle h
    · exact h
  · exact h

theorem inv_admitRegroup {blk n : Nat} (h : Inv s) : Inv (admitRegroup s blk n) := by
  induction n generalizing s with
  | zero => exact h
  | succ n ih =>
    unfold admitRegroup
    split
    · split
      · split
        · exact ih h
        · exact ih (inv_enterPool h)
      · exact h
    · exact h

theorem inv_enterKept {k : Nat} {w : Wave} (h : Inv s) : Inv (enterKept s k w) := inv_foldl (fun _ _ hs => inv_enterPool hs) h

theorem inv_startPool {blk num : Nat} {b : Block} {p : Pool} (h : Inv s) : Inv (startPool s blk num b p) := by
  unfold startPool
  split
  · exact h
  · exact inv_admitRegroup h

theorem inv_regroupStuck {blk : Nat} (h : Inv s) : Inv (regroupStuck s blk) := by
  unfold regroupStuck
  refine inv_foldl (fun s a hs => ?_) h
  split
  · dsimp only
    split
    · exact hs
    · exact inv_enterTrap hs
  · exact hs

theorem outOk_execPoolWaveStart {blk : Nat} (h : Inv s) : OutOk (execPoolWaveStart blk s) := by
  refine outOk_runEvent h fun t ht => ?_
  split
  · exact ht
  · split
    · exact inv_startPool ht
    · exact inv_regroupStuck ht

theorem outOk_execFibwr {a : VReg} {i : BitVec 8} (h : Inv s) : OutOk (execFibwr a i s) := by
  refine outOk_readWord h fun k r w ins => ?_
  split
  · trivial
  · exact h

/-! ## The floating-point words of the V pipe, the conversions and the special-function words -/

theorem outOk_unpackOp {half : Nat} {d a : VReg} {t : UnpkTy} (h : Inv s) : OutOk (unpackOp half d a t s) := by
  unfold unpackOp
  dsimp only
  split <;> exact outOk_vecRun h

/-! ## The matrix engine, the accumulator words and the tile queue -/

theorem outOk_tileWord {counted : Bool} {chk : Wave → Option Trap} {f : Nat → Wave → Wave → Res} (h : Inv s) (hf : ∀ k r w, ResOk (f k r w))
    : OutOk (tileWord s counted chk f) := by
  refine outOk_runWord h fun k r w => ?_
  split
  · trivial
  · split
    · trivial
    · exact hf _ _ _

theorem resOk_enterMma {k : Nat} {r w : Wave} {z : Nat} {b : BitVec 4} {f : MmaFmt} {tv n32 mx : Bool} {kind : TileKind}
    {dests : List (Nat × Nat)} (h : Inv s) : ResOk (enterMma s k r w z b f tv n32 mx kind dests) := by
  unfold enterMma
  dsimp only
  split <;> exact h

theorem outOk_execZdrain {z : BitVec 5} {c : SlabCnt} {a : SReg} {t : Dst} {clr : Bool} (h : Inv s) : OutOk (execZdrain z c a t clr s) := by
  refine outOk_tileWord h fun k r w => ?_
  split
  · trivial
  · dsimp only
    split
    · trivial
    · exact resOk_withPages (fun _ => h)

theorem inv_loadImage {core blk : Nat} {sel : Sel} (h : Inv s) : Inv (loadImage s core blk sel) := by
  unfold loadImage
  split <;> exact h

theorem inv_fireTile {blk : Nat} {b : Block} {t : TileOp} (h : Inv s) : Inv (fireTile s blk b t) := by
  unfold fireTile
  dsimp only
  split
  · exact h
  · exact h
  · split <;> exact h
  · exact h
  · exact h
  · exact h
  · exact h
  · exact inv_loadImage h

theorem outOk_execTileOpFire {blk : Nat} (h : Inv s) : OutOk (execTileOpFire blk s) := by
  refine outOk_runEvent h fun t ht => ?_
  split
  · exact inv_fireTile (inv_touchPlaces ht)
  · exact ht

theorem outOk_execOperandsConsumed {blk id : Nat} (h : Inv s) : OutOk (execOperandsConsumed blk id s) := by
  refine outOk_runEvent h fun t ht => ?_
  split
  · dsimp only
    split <;> exact ht
  · exact ht

theorem inv_drainRow {pages : Map PageAt} {poison : Bool} {row : List (Nat × Byte)} (h : Inv s) : Inv (drainRow s pages poison row) :=
  inv_foldl (fun _ _ hs => inv_ite (inv_poisonAt (inv_pageWrite hs)) (inv_pageWrite hs)) h

theorem inv_tileStore {blk : Nat} {b : Block} {t : TileOp} (h : Inv s) : Inv (tileStore s blk b t) := by
  unfold tileStore
  split
  · exact inv_foldl (fun _ _ hs => hs) h
  · exact inv_foldl (fun _ _ hs => hs) h
  · exact inv_foldl (fun _ _ hs => inv_drainRow hs) h
  · exact inv_foldl (fun _ _ hs => hs) h
  · exact h

theorem inv_finishTile {blk : Nat} {b : Block} {t0 : TileOp} (h : Inv s) : Inv (finishTile s blk b t0) := by
  unfold finishTile
  dsimp only
  split
  · exact inv_postPoison (inv_tileStore h)
  · exact inv_tileStore h

theorem outOk_execTileOpComplete {blk id : Nat} (h : Inv s) : OutOk (execTileOpComplete blk id s) := by
  refine outOk_runEvent h fun t ht => ?_
  split
  · exact inv_finishTile ht
  · exact ht

/-! ## Waypoints: keys and entries, the ordered-section words, requests, multicasts, claims and answers, the deadlock walk and gaps -/

theorem inv_backingWrite {ctx va : Nat} {key n : Word} {valid : Bool} (h : Inv s) : Inv (backingWrite s ctx va key n valid) :=
  OptOk.getD (optOk_hwWrite h) h

theorem optOk_wpSpill {stack : Nat} (h : Inv s) : OptOk (wpSpill s stack) := by
  unfold wpSpill
  dsimp only
  split
  · exact OptOk.map (fun _ _ => inv_backingWrite h)
  · trivial

theorem optOk_wpEntry {ctx : Nat} {key : Word} (h : Inv s) : OptOk ((wpEntry s ctx key).map Prod.fst) := by
  unfold wpEntry
  split
  · exact h
  · have hroom : OptOk (if wpCount s (wpHome ctx key) < 8192 then some s else wpSpill s (wpHome ctx key)) := by
      split
      · exact h
      · exact optOk_wpSpill h
    refine OptOk.map_map fun t e => ?_
    split
    · exact inv_backingWrite (hroom.of_eq_some e)
    · exact hroom.of_eq_some e

theorem inv_wpRetire {e : WpEntry} (h : Inv s) : Inv (wpRetire s e) := inv_wpPut h

theorem outOk_execOent {d a b : VReg} (h : Inv s) : OutOk (execOent d a b s) := by
  refine outOk_readWord h fun k r w ins => ?_
  split
  · trivial
  · exact h

theorem outOk_execOleave {a : VReg} (h : Inv s) : OutOk (execOleave a s) := by
  refine outOk_readWord h fun k r w ins => ?_
  split
  · trivial
  · exact h

theorem outOk_execOskip {a b : VReg} (h : Inv s) : OutOk (execOskip a b s) := by
  refine outOk_readWord h fun k r w ins => ?_
  split
  · trivial
  · exact h

theorem inv_doOent {e : WpEntry} {r : WpReq} (h : Inv s) : Inv (doOent s e r) := by
  unfold doOent
  dsimp only
  repeat' split
  all_goals exact inv_wpPut h

theorem inv_doOskip {e : WpEntry} {r : WpReq} (h : Inv s) : Inv (doOskip s e r) := by
  unfold doOskip
  dsimp only
  split
  · exact inv_wpPut h
  · split
    · exact inv_wpRetire h
    · repeat' split
      all_goals exact inv_wpPut h

theorem inv_doRequest {e : WpEntry} {r : WpReq} (h : Inv s) : Inv (doRequest s e r) := by
  unfold doRequest
  split
  · exact inv_doOent h
  · split
    · exact inv_wpRetire h
    · exact inv_wpPut h
  · exact inv_doOskip h
  · exact inv_wpPut h

theorem inv_tableFull {r : WpReq} (h : Inv s) : Inv (tableFull s r) := by
  unfold tableFull
  repeat' split
  all_goals exact h

theorem optOk_releaseOf {r : WpReq} (h : Inv s) : OptOk (releaseOf s r) := by
  unfold releaseOf
  split
  · exact h
  · split
    · exact MemOk.releaseBytes h _
    · trivial

theorem inv_hearOne {n : Word} {q : WpWait} (h : Inv s) : Inv (hearOne n s q) := by
  unfold hearOne
  dsimp only
  repeat' split
  all_goals exact h

theorem outOk_execWaypointMulticast {core ctx : Nat} {key n : Word} (h : Inv s) : OutOk (execWaypointMulticast core ctx key n s) :=
  outOk_runEvent h (fun _ ht => inv_dropSubs (inv_foldl (fun _ _ hs => inv_hearOne hs) ht))

theorem inv_doClaim {e : WpEntry} {q : WpWait} (h : Inv s) : Inv (doClaim s e q) := by
  unfold doClaim
  dsimp only
  split
  · exact inv_dropSubs (inv_wpPut h)
  · split
    · exact inv_dropSubs (inv_wpPut h)
    · exact inv_wpPut h

theorem inv_grantAcquire {k : Nat} (h : Inv s) : Inv (grantAcquire s k) := by
  unfold grantAcquire
  split
  · exact MemOk.acquireBytes h _
  · exact h

theorem inv_takeAnswer {k l : Nat} {d : Nat × Bool} {key : Word} {ans : WpAns} (h : Inv s) : Inv (takeAnswer s k l d key ans) := by
  unfold takeAnswer
  split
  · exact inv_grantAcquire h
  · exact h
  · exact h
  · exact h
  · exact h

theorem outOk_execWaypointAnswer {uid : Nat} {key : Word} {ans : WpAns} (h : Inv s) : OutOk (execWaypointAnswer uid key ans s) := by
  refine outOk_runEvent h fun t ht => ?_
  split
  · exact inv_takeAnswer ht
  · exact ht

theorem inv_wpWithdraw {q : WpWait} (h : Inv s) : Inv (wpWithdraw s q) := by
  unfold wpWithdraw
  dsimp only
  split <;> exact inv_dropWaits h

theorem outOk_execDeadlockWalk {uid : Nat} (h : Inv s) : OutOk (execDeadlockWalk uid s) := by
  refine outOk_runEvent h fun t ht => ?_
  split
  · split
    · exact inv_wpWithdraw ht
    · exact ht
  · exact ht

theorem outOk_execWaypointGap {uid : Nat} (h : Inv s) : OutOk (execWaypointGap uid s) := by
  refine outOk_runEvent h fun t ht => ?_
  split
  · refine inv_postEvent ?_ _ _ _ _
    exact ht
  · exact ht

/-! ## The save image: its layout, the writes that the core makes to it, and what a relaunch reads back -/

theorem optOk_writeState {ctx img : Nat} {ws : List (Nat × Nat)} (h : Inv s) : OptOk (writeState s ctx img ws) := by
  unfold writeState
  split
  · exact optOk_hwWords h
  · trivial

theorem optOk_writeImage {blk : Nat} {b : Block} (h : Inv s) : OptOk (writeImage s blk b) := by
  unfold writeImage
  exact optOk_writeState h

theorem optOk_writeEntryParts {blk : Nat} {b : Block} (h : Inv s) : OptOk (writeEntryParts s blk b) := by
  unfold writeEntryParts
  exact optOk_writeState h

/-! ## Fragment waves: the fragments that wait on a stack, the waves that they fill, and their launch -/

theorem optOk_launchFrags {stack id : Nat} (h : Inv s) : OptOk (launchFrags s stack id) := by
  unfold launchFrags
  split
  · trivial
  · split
    · trivial
    · split
      · split
        · trivial
        · exact inv_startBlock h
      · trivial

/-! ## Candidates and admission, retirement, the active and pending sets, save-on-wait, relaunch, migration, forwarding entries and
pre-emption requests -/

theorem optOk_dispatchOne {id idx : Nat} {among : List Nat} (h : Inv s) : OptOk (dispatchOne s id idx among) := by
  unfold dispatchOne
  split
  · trivial
  · dsimp only
    split
    · trivial
    · exact inv_startBlock h

theorem inv_leaveQueue {id : Nat} (h : Inv s) : Inv (leaveQueue s id) := by
  unfold leaveQueue
  split
  · split
    · exact h
    · dsimp only
      split <;> exact h
  · exact h

theorem inv_resendSkips {k : Nat} (h : Inv s) : Inv (resendSkips s k) := by
  unfold resendSkips
  split <;> exact h

theorem inv_resumeWave {k : Nat} (h : Inv s) : Inv (resumeWave s k) := by
  unfold resumeWave
  repeat' split
  all_goals exact h

theorem inv_restoreBlock {blk core : Nat} {b : Block} {l : Launch} {p : Place} {m : ImageParts} (h : Inv s) :
    Inv (restoreBlock s blk core b l p m) := by
  refine MemOk.acquireBytes (inv_foldl (fun s q hs => ?_) ?_) _
  · exact inv_resendSkips (inv_resumeWave hs)
  · exact h

theorem optOk_relaunchOne {blk : Nat} (h : Inv s) : OptOk (relaunchOne s blk) := by
  unfold relaunchOne
  split
  · split
    · split
      · dsimp only
        split
        · trivial
        · exact inv_restoreBlock h
      · dsimp only
        split
        · trivial
        · exact inv_containBlock h
    · trivial
  · trivial

theorem optOk_placeMember {id idx : Nat} {among : List Nat} (h : Inv s) : OptOk (placeMember s id idx among) := by
  unfold placeMember
  split
  · split
    · trivial
    · split
      · split
        · exact optOk_relaunchOne h
        · trivial
      · exact h
  · split
    · exact h
    · exact optOk_dispatchOne h

theorem optOk_placeSet {id : Nat} {among set : List Nat} (h : Inv s) : OptOk (placeSet s id among set) :=
  optOk_foldl (fun _ _ hs => OptOk.bind fun _ e => optOk_placeMember (hs.of_eq_some e)) h

theorem optOk_placeTogether {id : Nat} {x : List Word} {among set : List Nat} (h : Inv s) : OptOk (placeTogether s id x among set) :=
  OptOk.findSome? (fun _ => optOk_placeSet h) _

theorem optOk_tryLaunch {stack id : Nat} (h : Inv s) : OptOk (tryLaunch s stack id) := by
  unfold tryLaunch
  split
  · trivial
  · refine OptOk.map fun _ e => inv_leaveQueue (OptOk.of_eq_some ?_ e)
    exact optOk_foldl (fun _ _ hs => OptOk.bind fun _ e => optOk_placeTogether (hs.of_eq_some e)) h

theorem optOk_tryRelaunch {blk : Nat} (h : Inv s) : OptOk (tryRelaunch s blk) := by
  unfold tryRelaunch
  split
  · exact optOk_placeSet h
  · trivial

theorem optOk_tryCand {stack : Nat} {cand : Cand} (h : Inv s) : OptOk (tryCand s stack cand) := by
  unfold tryCand
  split
  · split
    · exact optOk_tryRelaunch h
    · trivial
  · exact optOk_tryLaunch h
  · split
    · exact optOk_launchFrags h
    · trivial

theorem optOk_firstFit {stack : Nat} {blocked : List Nat} {cs : List Cand} (h : Inv s) :
    OptOk ((firstFit s stack blocked cs).map Prod.snd) := by
  induction cs generalizing blocked with
  | nil => trivial
  | cons c cs ih =>
    unfold firstFit
    split
    · split
      · trivial
      · exact ih
    · split
      · next e => exact (optOk_tryCand h).of_eq_some e
      · split
        · trivial
        · exact ih

theorem optOk_admission {stack : Nat} (h : Inv s) : OptOk ((admission s stack).map Prod.snd) := by
  unfold admission
  exact optOk_firstFit h

theorem outOk_execBlockAdmit {stack : Nat} (h : Inv s) : OutOk (execBlockAdmit stack s) := by
  refine outOk_runEvent h fun t ht => ?_
  split
  · next e => exact (optOk_admission ht).of_map e
  · exact ht

theorem outOk_execRelaunch {blk : Nat} (h : Inv s) : OutOk (execRelaunch blk s) := by
  unfold execRelaunch
  refine outOk_runEvent h fun t ht => OptOk.getD (OptOk.bind fun p e => ?_) ht
  obtain ⟨b, -, hb⟩ := Option.bind_eq_some_iff.1 e
  exact optOk_ite ((optOk_admission ht).of_map hb) trivial

theorem outOk_execAdmissionWaitExpiry {stack launch : Nat} (h : Inv s) : OutOk (execAdmissionWaitExpiry stack launch s) := by
  refine outOk_runEvent h (fun t ht => inv_foldl (fun s a hs => ?_) ht)
  split <;> exact hs

theorem inv_forgetBatch {launch : Nat} (h : Inv s) : Inv (forgetBatch s launch) := by
  unfold forgetBatch
  split
  · exact h
  · dsimp only
    split <;> exact h

theorem inv_countRetired {id stack : Nat} (h : Inv s) : Inv (countRetired s id stack) := by
  unfold countRetired
  split
  · exact h
  · split
    · exact inv_forgetBatch h
    · split
      · exact h
      · dsimp only
        split <;> exact h

theorem inv_retireBlock {blk : Nat} (h : Inv s) : Inv (retireBlock s blk) := by
  unfold retireBlock
  split
  · exact h
  · exact inv_countRetired (MemOk.releaseBytes h _)

theorem inv_toPending {k : Nat} (h : Inv s) : Inv (toPending s k) := by
  unfold toPending
  split <;> exact h

theorem outOk_execWaveToPending {wave : Nat} (h : Inv s) : OutOk (execWaveToPending wave s) :=
  outOk_runEvent h (fun _ ht => inv_toPending ht)

theorem outOk_execPendingWaveReady {wave : Nat} (h : Inv s) : OutOk (execPendingWaveReady wave s) := by
  refine outOk_runEvent h fun t ht => ?_
  split <;> exact ht

theorem outOk_execForcedExchange {core : Nat} (h : Inv s) : OutOk (execForcedExchange core s) := by
  refine outOk_runEvent h fun t ht => ?_
  split <;> exact ht

theorem inv_leaveForward {blk : Nat} {b : Block} (h : Inv s) : Inv (leaveForward s blk b) := by
  unfold leaveForward
  split <;> exact h

theorem inv_leaveSaved {blk : Nat} {wakes : List Wake} {uids : Map (Nat × Option Frag)} {sections : Bool} (h : Inv s) :
    Inv (leaveSaved s blk wakes uids sections) := by
  unfold leaveSaved
  split
  · exact h
  · exact inv_applyHeld (inv_leaveForward h)

theorem inv_queueWoken (h : Inv s) : Inv (queueWoken s) := inv_foldl (fun _ _ hs => hs) h

theorem outOk_execSaveOnWait {blk : Nat} (h : Inv s) : OutOk (execSaveOnWait blk s) :=
  outOk_runEvent h (fun _ ht => inv_foldl (fun _ _ hs => hs) ht)

theorem inv_withdrawBlock {blk : Nat} (h : Inv s) : Inv (withdrawBlock s blk) := by
  unfold withdrawBlock
  refine inv_foldl (fun s a hs => ?_) h
  split
  · exact inv_dropWaits (inv_withdraw hs)
  · exact hs

theorem inv_saveBlock {blk : Nat} (h : Inv s) : Inv (saveBlock s blk) := by
  unfold saveBlock
  dsimp only
  generalize hu : List.foldl _ _ _ = u
  have hland : Inv u := by
    rw [← hu]
    exact inv_foldl (fun _ _ hs => hs) (inv_releaseBytes h)
  split
  · next e =>
    obtain ⟨b, -, hb⟩ := Option.bind_eq_some_iff.1 e
    exact inv_leaveSaved (inv_withdrawBlock ((optOk_writeImage hland).of_eq_some hb))
  · exact inv_containBlock hland

theorem outOk_execSaveComplete {blk : Nat} (h : Inv s) : OutOk (execSaveComplete blk s) := by
  refine outOk_runEvent h fun t ht => ?_
  split
  · exact ht
  · split
    · exact inv_leaveSaved (MemOk.releaseBytes ht _)
    · split
      · exact inv_foldl (fun _ _ hs => inv_saveBlock hs) ht
      · exact inv_foldl (fun _ _ hs => hs) ht

theorem outOk_execMigration {blk : Nat} (h : Inv s) : OutOk (execMigration blk s) := by
  refine outOk_runEvent h fun t ht => ?_
  split
  · exact ht
  · dsimp only
    split <;> exact ht

theorem inv_moveBlock {blk core : Nat} {b : Block} {p : Place} (h : Inv s) : Inv (moveBlock s blk core b p) := by
  have hleft : Inv (leaveForward (leaveArrays { s with mem := releaseBytes s.mem b.core } b) blk b) := by
    refine inv_leaveForward ?_
    exact inv_releaseBytes h
  refine inv_acquireBytes (inv_foldl (fun _ _ hs => inv_dropSubs hs) (inv_foldl (fun _ _ hs => hs) ?_))
  exact hleft

theorem outOk_execMigrationComplete {blk core : Nat} (h : Inv s) : OutOk (execMigrationComplete blk core s) := by
  refine outOk_runEvent h fun t ht => ?_
  split
  · exact ht
  · split
    · split
      · exact ht
      · exact inv_moveBlock ht
    · exact ht

theorem inv_rejoinQueue {id : Nat} {l : Launch} (h : Inv s) : Inv (rejoinQueue s id l) := by
  unfold rejoinQueue
  dsimp only
  split <;> exact h

theorem inv_unplace {blk : Nat} (h : Inv s) : Inv (unplace s blk) := by
  unfold unplace
  split
  · exact inv_rejoinQueue h
  · exact h

theorem inv_requestPreempt {blk : Nat} (h : Inv s) : Inv (requestPreempt s blk) := inv_foldl (fun _ _ hs => hs) h

theorem outOk_execPreemptionRequest {blk : Nat} (h : Inv s) : OutOk (execPreemptionRequest blk s) := by
  unfold execPreemptionRequest
  exact outOk_runEvent h fun _ ht => inv_foldl (fun _ _ hs => inv_ite (inv_unplace hs) (inv_requestPreempt hs)) ht

/-! ## TRAP, BRK and TRET, the traps that a wave takes at a boundary, and refusals by peers -/

theorem inv_enterPreempt {k : Nat} (h : Inv s) : Inv (enterPreempt s k) := by
  unfold enterPreempt
  split
  · exact h
  · split
    · next e => exact inv_enterTrap ((OptOk.bind (fun _ _ => optOk_writeEntryParts h)).of_eq_some e)
    · exact inv_containBlock h

theorem inv_resumeBlock {blk : Nat} (h : Inv s) : Inv (resumeBlock s blk) := inv_applyHeld h

theorem outOk_execTret (h : Inv s) : OutOk (execTret s) := by
  refine outOk_runWord h fun k r w => ?_
  split
  · trivial
  · split
    · trivial
    · split
      · trivial
      · dsimp only
        split
        · split
          · exact inv_enterPreempt (inv_resumeBlock (inv_enterKept h))
          · exact inv_resumeBlock (inv_enterKept h)
        · split
          · exact inv_enterPreempt (inv_enterKept h)
          · exact inv_enterKept h

theorem inv_takeReported {k : Nat} {w : Wave} {t : Trap} (h : Inv s) : Inv (takeReported s k w t) := by
  unfold takeReported
  dsimp only
  split <;> exact inv_enterTrap h

theorem outOk_execTrapEntry {wave : Nat} (h : Inv s) : OutOk (execTrapEntry wave s) := by
  refine outOk_runEvent h fun t ht => ?_
  split
  · exact ht
  · split
    · exact ht
    · split
      · exact inv_enterPreempt ht
      · exact inv_takeReported ht

theorem outOk_execPeerRefusal {wave va : Nat} {write : Bool} (h : Inv s) : OutOk (execPeerRefusal wave va write s) := by
  refine outOk_runEvent h fun t ht => ?_
  split
  · exact inv_reapWave (inv_refuseSub ht)
  · split
    · exact inv_reapWave (inv_refuseSector ht)
    · exact ht

/-! ## The removal of a context's work, the containment of a context, of a stack and of the device, the device log and poison -/

theorem inv_unpinAll {ctx : Nat} (h : Inv s) : Inv (unpinAll s ctx) := inv_foldl (fun _ _ hs => inv_unpinCopy hs) h

theorem inv_removeWork {ctx : Nat} (h : Inv s) : Inv (removeWork s ctx) := inv_foldl (fun _ _ hs => hs) (inv_unpinAll h)

theorem inv_endBlock {blk : Nat} (h : Inv s) : Inv (endBlock s blk) := by
  unfold endBlock
  split
  · exact inv_countRetired (inv_ite h (inv_tellContained h))
  · exact h

theorem inv_finishStop {ctx : Nat} (h : Inv s) : Inv (finishStop s ctx) := by
  unfold finishStop
  dsimp only
  split <;> exact inv_removeWork (inv_foldl (fun _ _ hs => inv_endBlock hs) h)

theorem inv_stopContext {ctx : Nat} (h : Inv s) : Inv (stopContext s ctx) := by
  unfold stopContext
  split
  · exact h
  · split
    · exact h
    · dsimp only
      split
      · exact inv_finishStop h
      · exact h

theorem inv_stopFor {ctx stack frame : Nat} (h : Inv s) : Inv (stopFor s ctx stack frame) := by
  unfold stopFor
  split
  · exact h
  · exact inv_stopContext (inv_postEvent h _ _ _ _)

theorem inv_stopForPoison {ctx stack line : Nat} (h : Inv s) : Inv (stopForPoison s ctx stack line) := inv_stopFor h

theorem inv_guardFrame {s go : State} {ctx stack : Nat} {found : Option Nat} (h : Inv s) (hgo : Inv go) :
    Inv (guardFrame s ctx stack found go) := by
  unfold guardFrame
  split
  · split
    · exact hgo
    · exact inv_stopForPoison h
  · exact hgo

theorem inv_postAll {stack kind : Nat} {payload : List (Nat × Nat)} (h : Inv s) : Inv (postAll s stack kind payload) :=
  inv_foldl (fun _ _ hs => inv_postEvent hs _ _ _ _) h

theorem inv_containStack {stack : Nat} (h : Inv s) : Inv (containStack s stack) := by
  unfold containStack
  split
  · exact h
  · dsimp only
    split <;> exact inv_foldl (fun _ _ hs => inv_stopFor hs) (inv_postAll h)

theorem inv_containDevice (h : Inv s) : Inv (containDevice s) := inv_containStack (inv_containStack h)

theorem inv_poisonLine {line : Nat} (h : Inv s) : Inv (poisonLine s line) := by
  unfold poisonLine
  split <;> exact h

theorem inv_poisonSurface {stack pos line : Nat} (h : Inv s) : Inv (poisonSurface s stack pos line) := by
  unfold poisonSurface
  dsimp only
  repeat' split
  all_goals exact h

theorem inv_foundPoison {stack line : Nat} {frame : FrameOf} (h : Inv s) : Inv (foundPoison s stack line frame) := by
  unfold foundPoison
  split
  · exact inv_poisonLine h
  · exact inv_stopForPoison h
  · exact inv_containStack h

end Sys2Proof.Upkeep
end

section
/-! SUPPORT. What the host, commits, page moves, peers, drawing, plots and faults leave of the two memories: canonical ones. -/

namespace Sys2Proof.Upkeep

open Machine

variable {s : State}

/-! ## The mailbox of the management controller and its commands -/

theorem inv_postCommand (h : Inv s) : Inv (postCommand s) := by
  unfold postCommand
  split <;> exact h

theorem inv_closeSlot {slot status : Nat} (h : Inv s) : Inv (closeSlot s slot status) := inv_postCommand (MemOk.devWrite h _ _ _)

/-- A command of the mailbox is done, or refused without an effect, and its slot is closed. -/
theorem outOk_runCommand {slot : Nat} {e : Ev} {eff : State → Option State} (h : Inv s) (heff : ∀ t, Inv t → OptOk (eff t)) :
    OutOk (runCommand s slot e eff) := by
  refine outOk_runEvent h fun t ht => ?_
  split
  · next e => exact inv_closeSlot ((heff t ht).of_eq_some e)
  · exact inv_closeSlot ht

theorem outOk_execMailboxDoorbell {index : Nat} (h : Inv s) : OutOk (execMailboxDoorbell index s) :=
  outOk_runEvent h (fun _ ht => inv_ite (inv_postCommand ht) ht)

theorem inv_clearTable {frame : Nat} (h : Inv s) : Inv (clearTable s frame) := MemOk.devWrite h _ _ _

theorem inv_installCtx {n : Nat} {c : Ctx} (h : Inv s) : Inv (installCtx s n c) := h

theorem outOk_execCreate {slot : Nat} (h : Inv s) : OutOk (execCreate slot s) := by
  refine outOk_runCommand h fun t ht => ?_
  dsimp only
  generalize slotCtx t slot = n, goodCtx t slot = c
  split
  · trivial
  · exact OptOk.map fun _ _ => inv_installCtx (inv_clearTable ht)

theorem inv_moveTable {n : Nat} {c : Ctx} {frame : Nat} (h : Inv s) : Inv (moveTable s n c frame).1 := by
  unfold moveTable
  split <;> exact h

theorem outOk_execUpdate {slot : Nat} (h : Inv s) : OutOk (execUpdate slot s) := by
  refine outOk_runCommand h fun t ht => ?_
  dsimp only
  split
  · split
    · trivial
    · exact inv_guardFrame (inv_moveTable ht) (inv_moveTable ht)
  · trivial

theorem outOk_execBlockRetire {blk : Nat} (h : Inv s) : OutOk (execBlockRetire blk s) := by
  refine outOk_runEvent h fun t ht => ?_
  split
  · exact inv_finishStop ht
  · exact inv_retireBlock ht

theorem inv_purgeCtx {ctx : Nat} (h : Inv s) : Inv (purgeCtx s ctx) := by
  refine inv_foldl (fun _ _ hs => inv_setKey hs) ?_
  exact h

theorem inv_killCtx {ctx : Nat} (h : Inv s) : Inv (killCtx s ctx) := by
  have hpurged : Inv (purgeCtx (removeWork s ctx) ctx) := inv_purgeCtx (inv_removeWork h)
  unfold killCtx
  generalize purgeCtx (removeWork s ctx) ctx = u at hpurged ⊢
  exact hpurged

theorem outOk_execKill {slot : Nat} (h : Inv s) : OutOk (execKill slot s) := by
  refine outOk_runEvent h fun t ht => ?_
  dsimp only
  split
  · exact inv_closeSlot ht
  · split
    · exact inv_closeSlot (inv_killCtx ht)
    · exact ht

theorem outOk_execAttest {slot : Nat} (h : Inv s) : OutOk (execAttest slot s) := by
  refine outOk_runCommand h fun t ht => ?_
  dsimp only
  generalize slotVa t slot = a
  split
  · trivial
  · exact MemOk.devWrite ht _ _ _

theorem outOk_execRoute {slot : Nat} (h : Inv s) : OutOk (execRoute slot s) := by
  refine outOk_runCommand h fun t ht => ?_
  dsimp only
  generalize slotVa t slot = a
  split
  · trivial
  · exact ht

theorem outOk_execLog {slot : Nat} (h : Inv s) : OutOk (execLog slot s) := by
  refine outOk_runCommand h fun t ht => ?_
  dsimp only
  generalize slotVa t slot = a, t.dev.log.take _ = rs
  split
  · trivial
  · exact MemOk.devWrite ht _ _ _

theorem inv_voteRemap {stack : Nat} (h : Inv s) : Inv (voteRemap s stack) := by
  unfold voteRemap
  split
  · split <;> exact h
  · exact inv_containStack h

theorem outOk_execStackreset {slot : Nat} (h : Inv s) : OutOk (execStackreset slot s) := by
  refine outOk_runCommand h fun t ht => ?_
  dsimp only
  split
  · trivial
  · exact OptOk.map (fun _ _ => ht)

theorem outOk_execThermal {slot : Nat} (h : Inv s) : OutOk (execThermal slot s) := by
  refine outOk_runCommand h fun t ht => ?_
  dsimp only
  split
  · trivial
  · exact ht

theorem outOk_execUnknownOpcode {slot : Nat} (h : Inv s) : OutOk (execUnknownOpcode slot s) :=
  outOk_runEvent h (fun _ ht => inv_closeSlot ht)

/-! ## The host's accesses, IDE keys, and the boot path -/

theorem outOk_execMsiXTableEntry {v part : Nat} {value : Word} (h : Inv s) : OutOk (execMsiXTableEntry v part value s) := by
  refine outOk_runEvent h fun t ht => ?_
  dsimp only
  repeat' split
  all_goals exact ht

theorem outOk_execCxlMemAccess {write : Bool} {pa n : Nat} {value : DWord} (h : Inv s) : OutOk (execCxlMemAccess write pa n value s) := by
  unfold execCxlMemAccess
  refine outOk_runEvent h fun t ht => ?_
  dsimp only
  split
  · exact ht
  · split
    · exact inv_agentWrite ht
    · exact inv_agentRead (key := none) ht

theorem outOk_execIdeKeyManagement {proto : Nat} {key : BitVec 256} (h : Inv s) : OutOk (execIdeKeyManagement proto key s) :=
  outOk_runEvent h (fun _ ht => inv_ite ht ht)

theorem memOk_sealAll {m : MemSys} (h : MemOk m) : MemOk (sealAll m) := memOk_foldl (fun _ _ hm => MemOk.rekey hm _ _) h

theorem inv_coldState (h : Inv s) : Inv (coldState s) := memOk_sealAll h

theorem inv_loadRemap {stack : Nat} (h : Inv s) : Inv (loadRemap s stack) := inv_voteRemap h

theorem outOk_execReset (h : Inv s) : OutOk (execReset s) := by
  refine outOk_runEvent h fun t ht => ?_
  split
  · dsimp only
    split
    · exact inv_loadRemap (inv_loadRemap ht)
    · exact ht
  · exact inv_coldState ht

theorem outOk_execFrstrbEdge (h : Inv s) : OutOk (execFrstrbEdge s) := by
  refine outOk_runEvent h fun t ht => ?_
  repeat' split
  all_goals exact ht

/-! ## The multi-word commit -/

theorem inv_enterCommits {cs : List Commit} (h : Inv s) : Inv (enterCommits s cs) := inv_foldl (fun _ _ hs => hs) h

theorem outOk_execMcas {d a : VReg} {sb : BitVec 4} (h : Inv s) : OutOk (execMcas d a sb s) := by
  refine outOk_readWord h fun k r w ins => ?_
  dsimp only
  split
  · trivial
  · split
    · trivial
    · exact inv_noteReads (inv_enterCommits h)
    · trivial

theorem inv_takeLock {id : Nat} {c : Commit} {line : Nat} (h : Inv s) : Inv (takeLock s id c line) := by
  unfold takeLock
  dsimp only
  split
  · exact MemOk.recallLine (OptOk.getD (optOk_beforeRelease h) h) _
  · exact MemOk.recallLine h _

theorem outOk_execMcasLockRequest {id : Nat} (h : Inv s) : OutOk (execMcasLockRequest id s) := by
  refine outOk_runEvent h fun t ht => ?_
  split
  · exact OptOk.getD (OptOk.map (fun _ _ => inv_takeLock ht)) ht
  · exact ht

theorem inv_writeBack {c : Commit} {i v : Nat} (h : Inv s) : Inv (writeBack s c i v) := by
  unfold writeBack
  dsimp only
  split
  · exact inv_storeS h
  · exact inv_pageWrite h

theorem inv_commitWords {c : Commit} {obs : List Nat} (h : Inv s) : Inv (commitWords s c obs) := by
  unfold commitWords
  split
  · exact inv_foldl (fun _ _ hs => inv_agentWrite hs) h
  · exact h

theorem inv_backWords {c : Commit} {obs : List Nat} (h : Inv s) : Inv (backWords s c obs) := by
  unfold backWords
  dsimp only
  split
  · exact inv_foldl (fun _ _ hs => inv_writeBack hs) h
  · exact h

theorem inv_finishCommit {id : Nat} {c : Commit} {obs : List Nat} (h : Inv s) : Inv (finishCommit s id c obs) := by
  have hback : Inv (backWords s c obs) := inv_backWords h
  unfold finishCommit
  dsimp only
  split
  · refine inv_endSub ?_
    exact hback
  · exact hback

theorem inv_commitEvent {id : Nat} {c0 : Commit} (h : Inv s) : Inv (commitEvent s id c0) := by
  have hwords {c : Commit} {obs : List Nat} : Inv (unlock (commitWords s c obs) id) := inv_commitWords h
  unfold commitEvent
  dsimp only
  generalize c0.used s = c
  generalize c.observed s = obs
  have hc : Inv (unlock (commitWords s c obs) id) := inv_commitWords h
  generalize unlock (commitWords s c obs) id = u at hc ⊢
  split
  · exact inv_finishCommit hc
  · exact hc

theorem inv_commitStep {id : Nat} {c : Commit} (h : Inv s) : Inv (commitStep s id c) := by
  unfold commitStep
  split
  · exact inv_finishCommit h
  · split
    · exact h
    · exact inv_commitEvent h

theorem outOk_execMcasLockAck {id : Nat} (h : Inv s) : OutOk (execMcasLockAck id s) := by
  refine outOk_runEvent h fun t ht => ?_
  split
  · exact inv_commitStep ht
  · exact ht

/-! ## The walkers and the page service: walks, migrations, and the collapse of read-duplicate groups -/

theorem outOk_execPageWalk {core ctx va : Nat} (h : Inv s) : OutOk (execPageWalk core ctx va s) := by
  refine outOk_runEvent h fun t ht => ?_
  split
  · exact inv_stopForPoison ht
  · exact inv_tlbFill ht

theorem memOk_writeEntries {m : MemSys} {a n : Nat} {f : Nat → Nat} (h : MemOk m) : MemOk (writeEntries m a n f) :=
  memOk_foldl (fun _ _ hm => MemOk.devWrite hm _ _ _) h

theorem memOk_recallPages {m : MemSys} {page pages : Nat} (h : MemOk m) : MemOk (recallPages m page pages) :=
  memOk_foldl (fun _ _ hm => MemOk.recallLine hm _) h

theorem outOk_execPageMigration {ctx va : Nat} {retire : Bool} (h : Inv s) : OutOk (execPageMigration ctx va retire s) := by
  refine outOk_runEvent h fun t ht => ?_
  split
  · exact ht
  · exact memOk_recallPages (memOk_writeEntries ht)

theorem memOk_movePage {m : MemSys} {g : Migrating} {frame : Nat} {key : Option Nat} (h : MemOk m) : MemOk (movePage m g frame key) :=
  memOk_foldl (fun _ _ hm => MemOk.devWrite hm _ _ _) h

theorem memOk_retireFrames {m : MemSys} {g : Migrating} (h : MemOk m) : MemOk (retireFrames m g) := by
  unfold retireFrames
  split <;> exact h

theorem inv_tellMoved {g : Migrating} {frame : Nat} (h : Inv s) : Inv (tellMoved s g frame) := by
  unfold tellMoved
  dsimp only
  split
  · exact inv_postEvent (inv_ite (inv_postEvent h _ _ _ _) h) _ _ _ _
  · split
    · exact inv_postEvent h _ _ _ _
    · exact h

theorem outOk_execPageMigrationComplete {ctx va frame : Nat} (h : Inv s) : OutOk (execPageMigrationComplete ctx va frame s) := by
  refine outOk_runEvent h fun t ht => ?_
  split
  · exact ht
  · exact inv_tellMoved (memOk_retireFrames (memOk_writeEntries (memOk_movePage ht)))

theorem optOk_splitLeaf {ctx va n : Nat} (h : Inv s) : OptOk (splitLeaf s ctx va n) := by
  induction n generalizing s with
  | zero => exact h
  | succ n ih =>
    unfold splitLeaf
    split
    · split
      · exact h
      · split
        · trivial
        · exact ih (MemOk.devWrite (memOk_writeEntries h) _ _ _)
    · trivial

theorem inv_rewriteGroup {ctx va writer frame : Nat} (h : Inv s) : Inv (rewriteGroup s ctx va writer frame) := by
  unfold rewriteGroup
  split
  · exact h
  · exact memOk_writeEntries h

theorem inv_coordinate {ctx va writer frame : Nat} (h : Inv s) : Inv (coordinate s ctx va writer frame) := by
  unfold coordinate
  dsimp only
  repeat' split
  all_goals exact inv_foldl (fun _ _ hs => hs) h

theorem outOk_execCollapseRequest {ctx va writer frame : Nat} (h : Inv s) : OutOk (execCollapseRequest ctx va writer frame s) := by
  unfold execCollapseRequest
  refine outOk_runEvent h fun t ht => ?_
  split
  · split <;> exact ht
  · split
    · exact inv_coordinate ht
    · split
      · exact ht
      · next s1 e =>
        have hsplit : Inv s1 := (optOk_splitLeaf ht).of_eq_some e
        exact inv_ite (inv_coordinate hsplit) hsplit

theorem inv_answerGroup {ctx va lead : Nat} (h : Inv s) : Inv (answerGroup s ctx va lead) := by
  unfold answerGroup
  split <;> exact h

theorem outOk_execGroupRewrite {ctx va writer frame lead : Nat} (h : Inv s) : OutOk (execGroupRewrite ctx va writer frame lead s) := by
  unfold execGroupRewrite
  refine outOk_runEvent h fun t ht => ?_
  split
  · split
    · next e => exact inv_rewriteGroup ((optOk_splitLeaf ht).of_eq_some e)
    · exact ht
  · exact inv_answerGroup ht

theorem outOk_execCollapseAnswer {ctx va device : Nat} (h : Inv s) : OutOk (execCollapseAnswer ctx va device s) := by
  refine outOk_runEvent h fun t ht => ?_
  split
  · exact ht
  · dsimp only
    repeat' split
    all_goals exact ht

theorem outOk_execCollapseGrant {ctx va : Nat} (h : Inv s) : OutOk (execCollapseGrant ctx va s) := by
  have hwrite {t : State} {writer frame : Nat} (ht : Inv t) :
      Inv (dropGroup (rewriteGroup (dropCollapse t ctx va) ctx va writer frame) ctx va) := by
    refine inv_rewriteGroup ?_
    exact ht
  refine outOk_runEvent h fun t ht => ?_
  split
  · exact ht
  · exact inv_ite (inv_postEvent (hwrite ht) _ _ _ _) (hwrite ht)

/-! ## Peer commands at their target, forwarded flits, and the state of the peer links -/

theorem inv_performPeer {pa : Nat} {op : PeerOp} (h : Inv s) : Inv (performPeer s pa op).1 := by
  unfold performPeer
  dsimp only
  split
  · exact inv_agentRead h
  · exact inv_agentWrite (inv_agentRead h)
  · exact inv_agentWrite (inv_agentRead h)

theorem inv_runPeer {src origin id ctx pa : Nat} {op : PeerOp} (h : Inv s) : Inv (runPeer s src origin id ctx pa op) := by
  unfold runPeer
  split
  · exact inv_performPeer h
  · exact h

theorem outOk_execPeerCommand {src origin id ctx pa : Nat} {op : PeerOp} (h : Inv s) :
    OutOk (execPeerCommand src origin id ctx pa op s) := by
  refine outOk_runEvent h fun t ht => ?_
  split
  · exact ht
  · exact inv_runPeer ht

theorem outOk_execReplay {port : Nat} (h : Inv s) : OutOk (execReplay port s) := outOk_runEvent h (fun _ ht => inv_ite ht ht)

theorem inv_endOnPort {port : Nat} {p : Nat × Copy} (h : Inv s) : Inv (endOnPort port s p) := by
  unfold endOnPort
  split
  · exact h
  · exact inv_endPeerCopy (inv_ite h h)

theorem inv_linkLost {port : Nat} (h : Inv s) : Inv (linkLost s port) :=
  inv_foldl (fun _ _ hs => inv_postAll hs) (inv_foldl (fun _ _ hs => inv_endOnPort hs) h)

theorem outOk_execLinkDown {port : Nat} (h : Inv s) : OutOk (execLinkDown port s) := outOk_runEvent h (fun _ ht => inv_linkLost ht)

theorem inv_rewriteStatus {u : Unresolved} {status : Nat} (h : Inv s) : Inv (rewriteStatus s u status) := inv_arrayWrite h

theorem inv_resolveCopy {u : Unresolved} (h : Inv s) : Inv (resolveCopy s u) := by
  unfold resolveCopy
  split
  · exact h
  · split
    · exact inv_rewriteStatus h
    · exact inv_rewriteStatus (inv_foldl (fun _ _ hs => inv_resumeSector hs) h)

theorem outOk_execLinkRecovery {port : Nat} (h : Inv s) : OutOk (execLinkRecovery port s) :=
  outOk_runEvent h (fun _ ht => inv_foldl (fun _ _ hs => inv_resolveCopy hs) ht)

/-! ## The requests that read frames which hardware owns for a context: of its waypoint table, of its block store, and the start of a copy.
Poison in such a frame stops the context -/

theorem inv_guardKey {s go : State} {ctx : Nat} {key : Word} (h : Inv s) (hgo : Inv go) : Inv (guardKey s ctx key go) := inv_guardFrame h
    hgo

theorem inv_wpServe {r : WpReq} (h : Inv s) : Inv (wpServe s r) := by
  unfold wpServe
  split
  · next e => exact inv_doRequest ((optOk_wpEntry h).of_map e)
  · exact inv_tableFull h

theorem outOk_execWaypointRequest {r : WpReq} (h : Inv s) : OutOk (execWaypointRequest r s) :=
  outOk_runEvent h (fun _ ht => inv_guardKey (OptOk.getD (optOk_releaseOf ht) ht) (inv_wpServe (OptOk.getD (optOk_releaseOf ht) ht)))

theorem inv_claimServe {q : WpWait} (h : Inv s) : Inv (claimServe s q) := by
  unfold claimServe
  split
  · next e => exact inv_doClaim ((optOk_wpEntry h).of_map e)
  · exact inv_tableFull h

theorem outOk_execWaypointClaim {r : WpReq} (h : Inv s) : OutOk (execWaypointClaim r s) := by
  refine outOk_runEvent h fun t ht => ?_
  split
  · exact inv_guardKey ht (inv_claimServe ht)
  · exact ht

theorem outOk_execBlockStoreRequest {r : BsReq} (h : Inv s) : OutOk (execBlockStoreRequest r s) := by
  refine outOk_runEvent h fun t ht => ?_
  split
  · exact inv_guardFrame ht (inv_bsAnswer ht)
  · exact ht

theorem outOk_execCopyStart {id : Nat} (h : Inv s) : OutOk (execCopyStart id s) := by
  refine outOk_runEvent h fun t ht => ?_
  split
  · exact inv_guardFrame ht (inv_foldl (fun _ _ hs => inv_startOne hs) ht)
  · exact ht

/-! ## Drawing: batches, the rasterisers, fragment waves, exports and the bank ROPs -/

theorem outOk_execPrim {a : SReg} (h : Inv s) : OutOk (execPrim a s) := by
  refine outOk_runWord h fun k r w => ?_
  dsimp only
  split
  · trivial
  · split
    · trivial
    · exact inv_noteReads h

theorem inv_acceptBatch {id : Nat} {b : Batch} (h : Inv s) : Inv (acceptBatch s id b) := by
  unfold acceptBatch
  dsimp only
  split
  · exact MemOk.releaseBytes (inv_setSte h) _
  · exact inv_setSte h

theorem outOk_execBatchAccept {id : Nat} (h : Inv s) : OutOk (execBatchAccept id s) := by
  refine outOk_runEvent h fun t ht => ?_
  split
  · exact inv_acceptBatch ht
  · exact ht

theorem inv_finishBatch {id : Nat} (h : Inv s) : Inv (finishBatch s id) := by
  unfold finishBatch
  split
  · exact h
  · split
    · exact inv_forgetBatch (inv_ite h h)
    · exact h

theorem inv_rasterStep {id : Nat} {b : Batch} {stack : Nat} (h : Inv s) : Inv (rasterStep s id b stack) := by
  unfold rasterStep
  dsimp only
  split
  · exact h
  · exact inv_finishBatch h

theorem outOk_execRasterise {stack : Nat} (h : Inv s) : OutOk (execRasterise stack s) := by
  refine outOk_runEvent h fun t ht => ?_
  split
  · exact inv_rasterStep ht
  · exact ht

theorem optOk_nextFragLaunch {stack : Nat} (h : Inv s) : OptOk (nextFragLaunch s stack) := by
  unfold nextFragLaunch
  split
  · next e => exact (optOk_admission h).of_map e
  · trivial

theorem outOk_execFragmentWaveLaunch {stack : Nat} (h : Inv s) : OutOk (execFragmentWaveLaunch stack s) :=
  outOk_runEvent h (fun _ ht => OptOk.getD (optOk_nextFragLaunch ht) ht)

theorem outOk_execFexp {a b : VReg} (h : Inv s) : OutOk (execFexp a b s) := by
  refine outOk_readWordFrom h fun k r w ins => ?_
  split
  · trivial
  · exact h

theorem outOk_execFdisc (h : Inv s) : OutOk (execFdisc s) := by
  refine outOk_runWord h fun k r w => ?_
  split
  · trivial
  · refine inv_foldl (fun s a hs => ?_) h
    split <;> exact hs

theorem outOk_execAttr {d a : VReg} {p : Bool} {j : BitVec 3} (h : Inv s) : OutOk (execAttr d a p j s) := by
  refine outOk_readWord h fun k r w ins => ?_
  split
  · trivial
  · exact h

theorem inv_exportPart {id : Nat} {b : Batch} {x : Export} (h : Inv s) : Inv (exportPart s id b x) := by
  unfold exportPart
  split <;> exact h

theorem inv_ropPoison {ctx stack e : Nat} {poison : Bool} (h : Inv s) : Inv (ropPoison s ctx stack e poison) := by
  unfold ropPoison
  split
  · exact inv_postPoison h
  · exact h

theorem inv_applyDepth {id : Nat} {b : Batch} {x : Export} (h : Inv s) : Inv (applyDepth s id b x) := by
  unfold applyDepth
  split
  · exact h
  · refine inv_finishBatch ?_
    split <;> exact inv_exportPart (inv_ropPoison (inv_ite h h))

theorem inv_applyColour {id : Nat} {b : Batch} {x : Export} (h : Inv s) : Inv (applyColour s id b x) := by
  unfold applyColour
  split
  · exact h
  · exact inv_finishBatch (inv_exportPart (inv_ite h (inv_ropPoison h)))

theorem outOk_execRopApply {stack bank : Nat} (h : Inv s) : OutOk (execRopApply stack bank s) := by
  refine outOk_runEvent h fun t ht => ?_
  split
  · exact inv_applyDepth ht
  · exact inv_applyColour ht
  · exact ht

theorem outOk_execExportEntry {id : Nat} (h : Inv s) : OutOk (execExportEntry id s) := by
  refine outOk_runEvent h fun t ht => ?_
  split
  · exact ht
  · split
    · exact inv_finishBatch ht
    · exact ht

/-! ## The surface words SRFSET, SRFQRY, SRFLD and SRFST, and TEX2 -/

theorem outOk_execSrfset {a b : SReg} (h : Inv s) : OutOk (execSrfset a b s) := by
  refine outOk_runWord h fun k r w => ?_
  dsimp only
  split
  · trivial
  · split
    · trivial
    · split
      · trivial
      · split
        · trivial
        · exact inv_noteReads h

theorem inv_performSet {p : PendSet} (h : Inv s) : Inv (performSet s p) := by
  unfold performSet
  dsimp only
  split <;> exact inv_setSte h

theorem outOk_execSrfsetPerform {id : Nat} (h : Inv s) : OutOk (execSrfsetPerform id s) := by
  refine outOk_runEvent h fun t ht => ?_
  split
  · exact inv_performSet ht
  · exact ht

theorem outOk_execSrfqry {d a : SReg} (h : Inv s) : OutOk (execSrfqry d a s) := by
  refine outOk_runWord h fun k r w => ?_
  dsimp only
  split
  · trivial
  · exact h

theorem outOk_execTex2 {d a : VReg} {b : SReg} (h : Inv s) : OutOk (execTex2 d a b s) := by
  unfold execTex2
  split
  · refine outOk_readWord h fun k r w ins => ?_
    split
    · trivial
    · dsimp only
      split
      · trivial
      · exact resOk_after (resOk_issueOp h) (fun _ ht => inv_noteReads ht)
  · exact outOk_runWord h (fun _ _ _ => trivial)

/-! ## Plot units: PLOT, the plot sequencers, and the threads -/

theorem outOk_execPlot {a : SReg} (h : Inv s) : OutOk (execPlot a s) := by
  refine outOk_runWord h fun k r w => ?_
  have hreads {qs : List (Nat × Nat)} : Inv (noteReads (s.setWave k w) k r qs) := inv_noteReads h
  dsimp only
  split
  · trivial
  · split
    · trivial
    · split
      · trivial
      · exact resOk_ite trivial (MemOk.releaseBytes hreads _)

theorem inv_bringCell {p : Plot} {c : Nat × Nat} (h : Inv s) : Inv (bringCell s p c) := by
  unfold bringCell
  repeat' split
  all_goals exact h

theorem outOk_execPlotAccept {id stack : Nat} (h : Inv s) : OutOk (execPlotAccept id stack s) := by
  refine outOk_runEvent h fun t ht => ?_
  split
  · exact ht
  · refine inv_guardFrame ht ?_
    repeat' split
    all_goals exact inv_foldl (fun _ _ hs => inv_bringCell hs) ht

theorem outOk_execPlotUnitStart {stack unit : Nat} (h : Inv s) : OutOk (execPlotUnitStart stack unit s) := by
  refine outOk_runEvent h fun t ht => ?_
  split <;> exact ht

theorem inv_idleUnit {stack unit : Nat} (h : Inv s) : Inv (idleUnit s stack unit) := by
  unfold idleUnit
  dsimp only
  split <;> exact h

theorem inv_haltThread {stack unit t : Nat} (h : Inv s) : Inv (haltThread s stack unit t) := inv_idleUnit h

theorem inv_faultThread {stack unit t : Nat} {x : Thread} {cause : Nat} {addr : DWord} (h : Inv s) :
    Inv (faultThread s stack unit t x cause addr) :=
  inv_haltThread h

theorem inv_nextWord {stack unit t : Nat} {p : Plot} {x : Thread} (h : Inv s) : Inv (nextWord s stack unit t p x) := by
  unfold nextWord
  dsimp only
  split
  · split
    · exact inv_haltThread h
    · exact h
  · split
    · exact inv_haltThread h
    · exact h

theorem inv_threadJump {stack unit t : Nat} {p : Plot} {x : Thread} {d : BitVec 8} (h : Inv s) : Inv (threadJump s stack unit t p x d) := by
  unfold threadJump
  dsimp only
  split
  · exact inv_faultThread h
  · exact h

theorem inv_threadStore {p : Plot} {stack px py v : Nat} {poison : Bool} (h : Inv s) : Inv (threadStore s p stack px py v poison) := by
  unfold threadStore
  dsimp only
  split
  · exact inv_postPoison h
  · exact h

theorem inv_threadMemory {stack unit t : Nat} {p : Plot} {x : Thread} {i : Instr} {a : VReg} (h : Inv s) :
    Inv (threadMemory s stack unit t p x i a) := by
  unfold threadMemory
  dsimp only
  split
  · exact inv_faultThread h
  · split
    · exact inv_nextWord h
    · exact inv_nextWord (inv_threadStore h)
    · exact inv_nextWord (inv_threadStore h)
    · exact h

theorem inv_threadArrive {stack unit t : Nat} {p : Plot} {x : Thread} {a : SReg} (h : Inv s) : Inv (threadArrive s stack unit t p x a) := by
  unfold threadArrive
  dsimp only
  split
  · exact inv_faultThread h
  · split
    · exact inv_faultThread h
    · split
      · exact inv_faultThread (inv_updateObj h)
      · exact inv_nextWord (inv_updateObj h)

theorem inv_threadStep {stack unit t : Nat} {p : Plot} {x : Thread} (h : Inv s) : Inv (threadStep s stack unit t p x) := by
  unfold threadStep
  split
  · exact h
  · split
    · exact inv_nextWord h
    · exact inv_haltThread h
    · exact inv_threadJump h
    · split
      · exact inv_threadJump h
      · exact inv_nextWord h
    · split
      · exact inv_threadJump h
      · exact inv_nextWord h
    · split
      · exact inv_threadJump h
      · exact inv_nextWord h
    · exact inv_threadMemory h
    · exact inv_threadMemory h
    · exact inv_threadMemory h
    · exact inv_threadArrive h
    · split
      · exact inv_nextWord h
      · exact h

theorem outOk_execPlotThreadIssue {stack unit thread : Nat} (h : Inv s) : OutOk (execPlotThreadIssue stack unit thread s) := by
  refine outOk_runEvent h fun t ht => ?_
  split
  · exact inv_threadStep ht
  · exact ht

theorem outOk_execPlotWordLimit {stack unit thread : Nat} (h : Inv s) : OutOk (execPlotWordLimit stack unit thread s) := by
  refine outOk_runEvent h fun t ht => ?_
  split
  · exact inv_faultThread ht
  · exact ht

theorem outOk_execPlotComplete {id : Nat} (h : Inv s) : OutOk (execPlotComplete id s) := by
  refine outOk_runEvent h fun t ht => ?_
  split
  · exact ht
  · dsimp only
    split <;> exact OptOk.getD (optOk_hwWords ht) ht

/-! ## The surface pools: what asks for room in them, the evictions, the fetches back of cells, and the waits for room -/

theorem outOk_execCellEviction {stack : Nat} (h : Inv s) : OutOk (execCellEviction stack s) := by
  refine outOk_runEvent h fun t ht => ?_
  split <;> exact ht

theorem outOk_execCellFetchBack {ctx ste cx cy : Nat} (h : Inv s) : OutOk (execCellFetchBack ctx ste cx cy s) := by
  refine outOk_runEvent h fun t ht => ?_
  split
  · exact inv_guardFrame ht ht
  · exact ht

theorem outOk_execSurfacePoolWait {ctx ste cx cy : Nat} (h : Inv s) : OutOk (execSurfacePoolWait ctx ste cx cy s) := by
  unfold execSurfacePoolWait
  refine outOk_runEvent h fun t ht => inv_postEvent ?_ _ _ _ _
  exact ht

/-! ## Faults and their repair, the surveyor, the remap table, and thermal and power emergencies -/

theorem inv_nextStep {stack : Nat} (h : Inv s) : Inv (nextStep s stack) := by
  unfold nextStep
  dsimp only
  repeat' split
  all_goals exact h

theorem outOk_execPowerArbiterStep {stack k : Nat} (h : Inv s) : OutOk (execPowerArbiterStep stack k s) := by
  refine outOk_runEvent h fun t ht => ?_
  dsimp only
  split
  · exact ht
  · split <;> exact inv_nextStep ht

theorem inv_throttleDown {stack : Nat} (h : Inv s) : Inv (throttleDown s stack) := inv_nextStep h

theorem outOk_execTemperatureAboveLimit {stack : Nat} (h : Inv s) : OutOk (execTemperatureAboveLimit stack s) :=
  outOk_runEvent h (fun _ ht => inv_postAll (inv_throttleDown ht))

theorem outOk_execThrottleStep {stack : Nat} (h : Inv s) : OutOk (execThrottleStep stack s) :=
  outOk_runEvent h (fun _ ht => inv_ite ht (inv_throttleDown ht))

theorem outOk_execThermalTrip {stack : Nat} (h : Inv s) : OutOk (execThermalTrip stack s) :=
  outOk_runEvent h (fun _ ht => inv_containStack ht)

theorem outOk_execRegulatorFault (h : Inv s) : OutOk (execRegulatorFault s) := by
  refine outOk_runEvent h fun t ht => ?_
  split
  · exact ht
  · exact inv_postAll (inv_nextStep (inv_nextStep ht))

theorem outOk_execRegulatorFaultCleared (h : Inv s) : OutOk (execRegulatorFaultCleared s) :=
  outOk_runEvent h (fun _ ht => inv_nextStep (inv_nextStep ht))

theorem inv_remapTo {stack key spare : Nat} (h : Inv s) : Inv (remapTo s stack key spare) := by
  unfold remapTo
  split
  · exact inv_voteRemap h
  · exact inv_containStack h

theorem outOk_execVerticalBusRepair {stack bundle lane : Nat} (h : Inv s) : OutOk (execVerticalBusRepair stack bundle lane s) :=
  outOk_runEvent h (fun _ ht => inv_ite (inv_containStack ht) ht)

theorem outOk_execRepairRemap {stack bundle lane : Nat} (h : Inv s) : OutOk (execRepairRemap stack bundle lane s) :=
  outOk_runEvent h (fun _ ht => inv_ite ht (inv_remapTo ht))

theorem outOk_execSurveyorPass {stack : Nat} {corrected : List (Nat × Nat × Bool)} {bad : List (Nat × Nat)} (h : Inv s) :
    OutOk (execSurveyorPass stack corrected bad s) :=
  outOk_runEvent h (fun _ ht => inv_voteRemap (inv_foldl (fun _ _ hs => inv_poisonSurface hs) ht))

theorem inv_fenceCore {core : Nat} (h : Inv s) : Inv (fenceCore s core) := inv_postAll (inv_foldl (fun _ _ hs => inv_containBlock hs) h)

theorem inv_uncorrectable {stack : Nat} {place : FaultPlace} (h : Inv s) : Inv (uncorrectable s stack place) := by
  unfold uncorrectable
  split
  · exact inv_poisonSurface h
  · exact inv_containBlock h
  · exact inv_foundPoison h
  · exact inv_foundPoison h
  · exact inv_foundPoison h
  · exact inv_containStack h
  · exact inv_containStack h
  · exact inv_foundPoison h
  · exact inv_containStack h
  · exact inv_containStack h
  · exact inv_linkLost h
  · exact inv_voteRemap h
  · exact inv_containDevice h

theorem inv_lastingAction {stack : Nat} {place : FaultPlace} (h : Inv s) : Inv (lastingAction s stack place) := by
  unfold lastingAction
  split
  · exact inv_remapTo h
  · exact inv_fenceCore h
  · exact inv_fenceCore h
  · exact inv_remapTo h
  · exact h
  · exact h
  · exact h
  · exact h
  · exact h

theorem appendLog_mem (s : State) (r : LogRec) : (appendLog s r).mem = s.mem := by
  unfold appendLog
  rfl

theorem inv_appendLog {r : LogRec} (h : Inv s) : Inv (appendLog s r) := by
  rw [inv_iff, appendLog_mem]
  exact h

theorem outOk_execFaultRetry {f : FaultReport} (h : Inv s) : OutOk (execFaultRetry f s) := by
  refine outOk_runEvent h fun t ht => ?_
  have hfound : Inv (if f.bad then uncorrectable t f.stack f.place else t) := inv_ite (inv_uncorrectable ht) ht
  split
  · exact inv_appendLog ht
  · dsimp only
    generalize (if f.bad then uncorrectable t f.stack f.place else t) = u at hfound ⊢
    exact inv_appendLog (inv_ite hfound (inv_lastingAction hfound))

/-! ## The queue-stream words, and the fetches and drains of queue streams -/

theorem outOk_startStream {a : SReg} {q : BitVec 2} {f : Wave → Machine.Stream → Machine.Stream} (h : Inv s) :
    OutOk (startStream a q f s) := by
  refine outOk_runWord h fun k r w => ?_
  split
  · trivial
  · exact h

theorem inv_fetchStep {k : Nat} {w : Wave} {q : Nat} (h : Inv s) : Inv (fetchStep s k w q) := by
  unfold fetchStep
  dsimp only
  split
  · exact h
  · split
    · exact h
    · exact inv_noteElem h

theorem outOk_execQueueStreamFetch {wave q : Nat} (h : Inv s) : OutOk (execQueueStreamFetch wave q s) := by
  refine outOk_runEvent h fun t ht => ?_
  split
  · exact inv_fetchStep ht
  · exact ht

theorem outOk_execQueueStreamDrain {wave op : Nat} (h : Inv s) : OutOk (execQueueStreamDrain wave op s) := by
  refine outOk_runEvent h fun t ht => ?_
  split
  · refine inv_reapWave ?_
    exact ht
  · exact ht

end Sys2Proof.Upkeep
end

section
/-! PROOF. Every instruction and every step of the machine leaves both memories canonical (08_memory_spaces R166). -/

namespace Sys2Proof.Upkeep

open Machine

section
variable {s : State}

/-! ## The shapes of words that compute in each fibre -/

theorem outOk_vecWord {srcs dsts : List Nat} {d : Option Nat} {g : Wave → List LaneIn → LaneIn → LaneOut} (h : Inv s) :
    OutOk (vecWord s srcs dsts d g) :=
  outOk_vecRun h

theorem outOk_wideWord {srcs : List Nat} {d n : Nat} {g : Wave → List LaneIn → LaneIn → LaneOut} (h : Inv s) :
    OutOk (wideWord s srcs d n g) :=
  outOk_vecRun h

theorem outOk_laneWord {srcs : List VReg} {d : VReg} {g : LaneIn → LaneOut} (h : Inv s) : OutOk (laneWord s srcs d g) := outOk_vecRun h

theorem outOk_lanePred {srcs : List VReg} {g : LaneIn → LaneOut} (h : Inv s) : OutOk (lanePred s srcs g) := outOk_vecWord h

theorem outOk_predOp {f : Bool → Bool → Bool} {d a b : PReg} (h : Inv s) : OutOk (predOp f d a b s) := outOk_lanePred h

theorem outOk_shuffle {n : Nat} {srcs : List Nat} {d a : VReg} {src : Wave → LaneIn → Nat} (h : Inv s) : OutOk (shuffle n srcs d a src s) :=
  outOk_vecRun h

/-! ## Instructions -/

/-- Every instruction keeps the invariant: the words of one shape by the rule of that shape, the others by their own. -/
theorem outOk_exec (h : Inv s) (i : Instr) : OutOk (exec i s) := by
  cases i
  all_goals dsimp only [exec]
  case
      nop | yield | conv | jmps | sadd | ssub | smul | smulh | sand | sor | sxor | sshl | sshr | ssra | smin | smax | sminu | smaxu |
      smov | saddi | sandi | sori | sxori | sshli | sshri | ssrai | sbyte | scmp | qstop | qstat =>
    refine outOk_runWord h fun _ _ _ => ?_
    exact h
  case brk | trap => exact outOk_runWord h fun _ _ _ => trivial
  case bra | br | brall | brany => exact outOk_branch h
  case jmpv | oqry => exact outOk_readWord h fun _ _ _ _ => h
  case callv => exact outOk_readWord h fun _ _ _ _ => resOk_callTo h
  case loopi => exact outOk_runWord h fun _ _ _ => resOk_loopWord h
  case spawn | spawnp => exact outOk_spawnWord h
  case
      fibrd | spr | movs | iadd | isub | imul | imulh | imulhu | iand | ior | ixor | andn | shl | shr | sra | imin | imax | iminu |
      imaxu | iaddi | andi | ori | xori | shli | shri | srai | iabs | ineg | inot | popc | clz | brev | bfe | bfeu | bfi | imad | idiv |
      idivu | irem | iremu | iadds | isubs | fadd | fsub | fmul | ffma | fmin | fmax | fminm | fmaxm | fcpys | fscale | fabs | fneg |
      fclass | frnd | fsat | fgete | fgetm | hadd2 | hsub2 | hmul2 | hfma2 | hmin2 | hmax2 | dot2h | dot2b | dot4e4 | dot4e5 | dot4i |
      dot4in | dot8f | dot4s | cvt | rcp | rsq | sqrt | exp2 | log2 | sin | cos | tanh | shfli | matchv | wredadd | wredfadd | wredmin |
      wredmax | wredfmax | wscan | pk2h | pk2b | sel =>
    exact outOk_vecRun h
  case movi | prdw => exact outOk_laneWord h
  case icmp | fcmp | pnot | pwrw => exact outOk_lanePred h
  case shflu | shfld | shflx | bcast => exact outOk_shuffle h
  case voteany | voteall => exact outOk_vecWord h
  case ballot => exact outOk_wideWord h
  case pand | por | pxor | pandn => exact outOk_predOp h
  case csrw | fstat | ftrap | qbasehi | qstride | qstate | hstatus | shbase => exact outOk_csrWord h
  case pk4e4 | pk4e5 | pk8f => exact outOk_lanePack h
  case unpklo | unpkhi => exact outOk_unpackOp h
  case ld | lds | ldp | clean | invs | srfld => exact outOk_readWord h fun _ _ _ _ => resOk_issueOp h
  case st | sts | stp | atom | atoms | srfst => exact outOk_readWordFrom h fun _ _ _ _ => resOk_issueOp h
  case rld | rst | mcst => exact outOk_remoteWord h
  case qld | qst => exact outOk_startStream h
  case cpy | cpyp | cpym | cpys | cpyb => exact outOk_runWord h fun _ _ _ => resOk_issueCopy h
  case cpyg => exact outOk_readWord h fun _ _ _ _ => resOk_issueCopy h
  case mma | mmac => exact outOk_tileWord h fun _ _ _ => resOk_enterMma h
  case zclr | zld | zst | opfence | episel =>
    refine outOk_tileWord h fun _ _ _ => ?_
    exact h
  case bka | bkt | bks | bkf => exact outOk_bsWord h
  case
      registerWrite | flitForward | forwardingEntryRelease | barrierOverrunReport | droppedBarrierRequest | tableFullReport |
      blockStoreFailure | regionNotice | noticeAck | depthVerdict | linkRetrainComplete =>
    dsimp only [execRegisterWrite, execFlitForward, execForwardingEntryRelease, execBarrierOverrunReport, execDroppedBarrierRequest,
      execTableFullReport, execBlockStoreFailure, execRegionNotice, execNoticeAck, execDepthVerdict, execLinkRetrainComplete]
    refine outOk_runEvent h fun _ ht => ?_
    exact ht
  case halt => exact outOk_execHalt h
  case exit => exact outOk_execExit h
  case tret => exact outOk_execTret h
  case call => exact outOk_execCall h
  case ret => exact outOk_execRet h
  case loops => exact outOk_execLoops h
  case lbrk => exact outOk_execLbrk h
  case rep => exact outOk_execRep h
  case wait => exact outOk_execWait h
  case regroup => exact outOk_execRegroup h
  case flushrg => exact outOk_execFlushrg h
  case fibwr => exact outOk_execFibwr h
  case csrr => exact outOk_execCsrr h
  case rdlane => exact outOk_execRdlane h
  case mcas => exact outOk_execMcas h
  case fence => exact outOk_execFence h
  case pref => exact outOk_execPref h
  case cpyt => exact outOk_execCpyt h
  case cbcfg => exact outOk_execCbcfg h
  case cbcom => exact outOk_execCbcom h
  case cbrel => exact outOk_execCbrel h
  case cbqry => exact outOk_execCbqry h
  case binit => exact outOk_execBinit h
  case barv => exact outOk_execBarv h
  case bexp => exact outOk_execBexp h
  case bwait => exact outOk_execBwait h
  case btest => exact outOk_execBtest h
  case oent => exact outOk_execOent h
  case oleave => exact outOk_execOleave h
  case oskip => exact outOk_execOskip h
  case zdrain => exact outOk_execZdrain h
  case prim => exact outOk_execPrim h
  case fexp => exact outOk_execFexp h
  case attr => exact outOk_execAttr h
  case fdisc => exact outOk_execFdisc h
  case srfset => exact outOk_execSrfset h
  case srfqry => exact outOk_execSrfqry h
  case tex2 => exact outOk_execTex2 h
  case plot => exact outOk_execPlot h
  case launch => exact outOk_execLaunch h
  case tlbinv => exact outOk_execTlbinv h
  case keyld => exact outOk_execKeyld h
  case reset => exact outOk_execReset h
  case frstrbEdge => exact outOk_execFrstrbEdge h
  case create => exact outOk_execCreate h
  case update => exact outOk_execUpdate h
  case kill => exact outOk_execKill h
  case attest => exact outOk_execAttest h
  case route => exact outOk_execRoute h
  case log => exact outOk_execLog h
  case stackreset => exact outOk_execStackreset h
  case thermal => exact outOk_execThermal h
  case unknownOpcode => exact outOk_execUnknownOpcode h
  case launchDoorbell => exact outOk_execLaunchDoorbell h
  case launchQueueEntry => exact outOk_execLaunchQueueEntry h
  case msiXTableEntry => exact outOk_execMsiXTableEntry h
  case cxlMemAccess => exact outOk_execCxlMemAccess h
  case peerCommand => exact outOk_execPeerCommand h
  case replay => exact outOk_execReplay h
  case linkDown => exact outOk_execLinkDown h
  case linkRecovery => exact outOk_execLinkRecovery h
  case temperatureAboveLimit => exact outOk_execTemperatureAboveLimit h
  case throttleStep => exact outOk_execThrottleStep h
  case thermalTrip => exact outOk_execThermalTrip h
  case regulatorFault => exact outOk_execRegulatorFault h
  case regulatorFaultCleared => exact outOk_execRegulatorFaultCleared h
  case powerArbiterStep => exact outOk_execPowerArbiterStep h
  case faultRetry => exact outOk_execFaultRetry h
  case surveyorPass => exact outOk_execSurveyorPass h
  case verticalBusRepair => exact outOk_execVerticalBusRepair h
  case repairRemap => exact outOk_execRepairRemap h
  case blockAdmit => exact outOk_execBlockAdmit h
  case admissionWaitExpiry => exact outOk_execAdmissionWaitExpiry h
  case blockRetire => exact outOk_execBlockRetire h
  case completionArrival => exact outOk_execCompletionArrival h
  case waveToPending => exact outOk_execWaveToPending h
  case pendingWaveReady => exact outOk_execPendingWaveReady h
  case forcedExchange => exact outOk_execForcedExchange h
  case saveOnWait => exact outOk_execSaveOnWait h
  case saveComplete => exact outOk_execSaveComplete h
  case relaunch => exact outOk_execRelaunch h
  case migration => exact outOk_execMigration h
  case migrationComplete => exact outOk_execMigrationComplete h
  case preemptionRequest => exact outOk_execPreemptionRequest h
  case trapEntry => exact outOk_execTrapEntry h
  case peerRefusal => exact outOk_execPeerRefusal h
  case poolWaveStart => exact outOk_execPoolWaveStart h
  case countedOpComplete => exact outOk_execCountedOpComplete h
  case homeSliceRequest => exact outOk_execHomeSliceRequest h
  case l1Eviction => exact outOk_execL1Eviction h
  case evictionNotice => exact outOk_execEvictionNotice h
  case probe => exact outOk_execProbe h
  case probeAck => exact outOk_execProbeAck h
  case queueStreamFetch => exact outOk_execQueueStreamFetch h
  case queueStreamDrain => exact outOk_execQueueStreamDrain h
  case pageWalk => exact outOk_execPageWalk h
  case pageMigration => exact outOk_execPageMigration h
  case pageMigrationComplete => exact outOk_execPageMigrationComplete h
  case collapseRequest => exact outOk_execCollapseRequest h
  case groupRewrite => exact outOk_execGroupRewrite h
  case collapseGrant => exact outOk_execCollapseGrant h
  case copyStart => exact outOk_execCopyStart h
  case sectorLand => exact outOk_execSectorLand h
  case barrierUpdate => exact outOk_execBarrierUpdate h
  case remoteBarrierRequest => exact outOk_execRemoteBarrierRequest h
  case bwaitRelease => exact outOk_execBwaitRelease h
  case remoteMessage => exact outOk_execRemoteMessage h
  case tileOpFire => exact outOk_execTileOpFire h
  case operandsConsumed => exact outOk_execOperandsConsumed h
  case tileOpComplete => exact outOk_execTileOpComplete h
  case waypointRequest => exact outOk_execWaypointRequest h
  case waypointMulticast => exact outOk_execWaypointMulticast h
  case waypointClaim => exact outOk_execWaypointClaim h
  case waypointAnswer => exact outOk_execWaypointAnswer h
  case deadlockWalk => exact outOk_execDeadlockWalk h
  case waypointGap => exact outOk_execWaypointGap h
  case mcasLockRequest => exact outOk_execMcasLockRequest h
  case mcasLockAck => exact outOk_execMcasLockAck h
  case batchAccept => exact outOk_execBatchAccept h
  case rasterise => exact outOk_execRasterise h
  case fragmentWaveLaunch => exact outOk_execFragmentWaveLaunch h
  case exportEntry => exact outOk_execExportEntry h
  case ropApply => exact outOk_execRopApply h
  case cellEviction => exact outOk_execCellEviction h
  case cellFetchBack => exact outOk_execCellFetchBack h
  case surfacePoolWait => exact outOk_execSurfacePoolWait h
  case srfsetPerform => exact outOk_execSrfsetPerform h
  case plotAccept => exact outOk_execPlotAccept h
  case plotUnitStart => exact outOk_execPlotUnitStart h
  case plotThreadIssue => exact outOk_execPlotThreadIssue h
  case plotWordLimit => exact outOk_execPlotWordLimit h
  case plotComplete => exact outOk_execPlotComplete h
  case blockStoreRequest => exact outOk_execBlockStoreRequest h
  case blockEviction => exact outOk_execBlockEviction h
  case mailboxDoorbell => exact outOk_execMailboxDoorbell h
  case ideKeyManagement => exact outOk_execIdeKeyManagement h
  case collapseAnswer => exact outOk_execCollapseAnswer h

/-! ## Steps of the machine -/

theorem outOk_execEv (h : Inv s) (e : Ev) : OutOk (execEv e s) := by
  have hnamed : ∃ i, e.names i := by
    cases e <;> exact ⟨_, rfl⟩
  obtain ⟨i, hi⟩ := hnamed
  rw [Stepping.execEv_of_names hi]
  exact outOk_exec h i

theorem outOk_runWords {is : List Instr} (h : Inv s) : OutOk (runWords s is) := by
  induction is generalizing s with
  | nil => exact h
  | cons i is ih =>
    unfold runWords
    have hword := outOk_exec h i
    split
    · next e => exact ih (by rwa [e] at hword)
    · trivial
    · trivial

theorem outOk_runChain {k : Nat} {w : Wave} {next : NextPc} {is : List Instr} (h : Inv s) : OutOk (runChain s k w next is) := by
  unfold runChain
  split
  · exact inv_endChain h trivial
  split
  · refine outOk_exec ?_ _
    exact h
  have hwords : OutOk (runWords (latch s k (some w) next) is) := outOk_runWords h
  dsimp only
  split
  · next e =>
    rw [e] at hwords
    split
    · exact inv_endChain h trivial
    · split
      · exact inv_endChain h trivial
      · exact inv_endChain h hwords
  · trivial
  · trivial

theorem outOk_issueWave {k : Nat} (h : Inv s) : OutOk (issueWave s k) := by
  unfold issueWave
  split
  · exact h
  split
  · exact h
  split
  · exact h
  split
  · exact h
  split
  · exact inv_endChain h trivial
  · next e =>
    have hfetch := inv_fetchPacket h e
    dsimp only
    split
    · exact inv_endChain hfetch trivial
    · exact outOk_runChain hfetch

theorem inv_noteHolds {e : Ev} (h : Inv s) : Inv (noteHolds s e) := by
  unfold noteHolds
  split <;> exact h

theorem outOk_move {m : Mover} (h : Inv s) : OutOk (move s m) := by
  cases m with
  | event e => exact outOk_execEv (inv_noteHolds h) e
  | wave k =>
    have hissue := outOk_issueWave (k := k) h
    dsimp only [move]
    split
    · next e =>
      rw [e] at hissue
      split
      · exact h
      · exact hissue
    · trivial
    · trivial

theorem inv_clock (h : Inv s) : Inv (clock s) := by
  refine inv_queueWoken ?_
  refine inv_drainPostings (s := { s with tick := _, dev := _ }) ?_
  exact h

end

/-- Settles O53: the machine's step is a move and the clocks after it, and both keep the memories canonical. -/
theorem stepKeepsMemory : Obligations.StepKeepsMemory := by
  intro s t h e
  unfold step stepOnce at e
  split at e
  · cases e
    exact inv_clock h
  · next m _ =>
    have hmove : OutOk (move { s with turn := none } m) := outOk_move h
    split at e
    · next hm =>
      cases e
      rw [hm] at hmove
      exact inv_clock hmove
    · cases e
    · cases e

end Sys2Proof.Upkeep
end

section
/-! PROOF. The steps of the caches: evictions, notices, probes and their acknowledgements (08_memory_spaces R168 to R177). -/

namespace Sys2Proof.CacheLines

open Machine

/-! ## The bits of filters and directory -/

/-- A bit of a vector cleared: it reads 0, and every other as before. -/
theorem getLsbD_clear {n : Nat} (x : BitVec n) (i j : Nat) (hj : j < n) :
    (x &&& ~~~((1 : BitVec n) <<< i)).getLsbD j = (x.getLsbD j && decide (j ≠ i)) := by
  by_cases h : j = i
  · subst h
    simp [hj]
  · by_cases hlt : j < i
    · simp [hj, h, hlt]
    · have hpos : j - i ≠ 0 := by omega
      simp [hj, h, hlt, hpos]

theorem filterOf_untrack (m : MemSys) (core line : Nat) :
    filterOf (untrack m core line) (clusterOf core) line = filterOf m (clusterOf core) line &&& ~~~((1 : BitVec 8) <<< (core % 8)) := by
  unfold filterOf untrack
  rw [Map.get_store, if_pos rfl]
  rfl

/-- A core's bit is clear once the filter has forgotten it (R174, R176). -/
theorem filterOf_untrack_bit (m : MemSys) (core line : Nat) :
    (filterOf (untrack m core line) (clusterOf core) line).getLsbD (core % 8) = false := by
  rw [filterOf_untrack, getLsbD_clear _ _ _ (Nat.mod_lt core (by decide))]
  simp

theorem dirOf_dirClear (m : MemSys) (cluster region : Nat) :
    dirOf (dirClear m cluster region) region = dirOf m region &&& ~~~((1 : BitVec 64) <<< cluster) := by
  unfold dirOf dirClear
  rw [Map.get_store, if_pos rfl]
  rfl

/-- A cluster's bit is clear once the directory has forgotten it, and every other stands (R176, R177). -/
theorem dirOf_dirClear_bit (m : MemSys) (cluster region : Nat) {c : Nat} (hc : c < 64) :
    (dirOf (dirClear m cluster region) region).getLsbD c = ((dirOf m region).getLsbD c && decide (c ≠ cluster)) := by
  rw [dirOf_dirClear, getLsbD_clear _ _ _ hc]

/-! ## A region that its cluster no longer holds -/

section
variable {s : State} {cluster region : Nat}

/-- What makes a cluster send its region notice (R175). -/
theorem settles_iff : ((dirOf s.mem region).getLsbD cluster && regionEmpty s.mem cluster region && !requested s.mem cluster region &&
      !s.mem.leaving.contains (cluster, region)) = true ↔
    (dirOf s.mem region).getLsbD cluster = true ∧ regionEmpty s.mem cluster region = true ∧ requested s.mem cluster region = false ∧
      (cluster, region) ∉ s.mem.leaving := by
  simp only [Bool.and_eq_true, Bool.not_eq_true', ← Bool.not_eq_true, List.contains_iff_mem, and_assoc]

/-- A region settled: the filters, both memories and everything outside the caches and the steps in flight are as before. -/
theorem settleRegion_frame (s : State) (cluster region : Nat) :
    (settleRegion s cluster region).mem.filter = s.mem.filter ∧ (settleRegion s cluster region).mem.mem = s.mem.mem ∧
      (settleRegion s cluster region).work = s.work ∧ (settleRegion s cluster region).dev = s.dev := by
  unfold settleRegion
  split <;> exact ⟨rfl, rfl, rfl, rfl⟩

end

/-! ## Evictions -/

section
variable {s : State} {core line : Nat} {l : L1Line}

/-- The line that an eviction names leaves its L1. -/
theorem l1Eviction_acts (h : victim s.mem core line = some l) :
    Acts (.l1Eviction core line) (.l1Eviction core line) s fun s => evictLine s l := by
  exact acts_of (show execL1Eviction core line s = _ from rfl) (by rw [h]; rfl) (by simp only [h])

theorem evictLine_dirty (s : State) (hmode : l.mode = .d) (howned : l.owned = true) (hdirty : l.dirty ≠ 0) :
    evictLine s l =
      { s with mem := putLine s.mem { l with valid := 0, leaving := true } }.post (.evictionNotice l.core l.line (some l.bytes)) := by
  have hbit : (l.dirty != 0) = true := bne_iff_ne.2 hdirty
  simp only [evictLine, hmode, howned, hbit, Bool.and_self, if_true]

theorem evictLine_clean (s : State) (hmode : l.mode = .d) (h : l.owned = false ∨ l.dirty = 0) :
    evictLine s l = { s with mem := dropLine s.mem l }.post (.evictionNotice l.core l.line none) := by
  obtain h | h := h <;> simp [evictLine, hmode, h]

theorem evictLine_s (s : State) (hmode : l.mode = .s) : evictLine s l = { s with mem := dropLine (storeDirty s.mem l) l } := by
  simp [evictLine, hmode]

/-- Bytes that come home are written where the core's copy is still under way. -/
theorem landDirty_mem {m : MemSys} {bs : List Byte} (h : ∃ x ∈ m.l1, x.core = core ∧ x.line = line ∧ x.inFlight = true) :
    (landDirty m core line bs).mem = Memory.writes m.mem (64 * line) bs := by
  obtain ⟨x, hx, hcore, hline, hfly⟩ := h
  have hany : (m.l1.any fun l => l.core == core && l.line == line && l.inFlight) = true :=
    List.any_eq_true.2 ⟨x, hx, by simp [hcore, hline, hfly]⟩
  rw [landDirty, if_pos hany]

/-- What an eviction notice leaves at the filter, whatever it has brought home: the core's bit is clear, and the rest stands. -/
theorem untracked_settles (s : State) (m : MemSys) (core line : Nat) :
    let t := settleRegion { s with mem := untrack m core line } (clusterOf core) (regionOf line)
    (filterOf t.mem (clusterOf core) line).getLsbD (core % 8) = false ∧ t.mem.mem = m.mem ∧ t.work = s.work ∧ t.dev = s.dev := by
  obtain ⟨hfilter, hmem, hwork, hdev⟩ := settleRegion_frame { s with mem := untrack m core line } (clusterOf core) (regionOf line)
  refine ⟨?_, hmem, hwork, hdev⟩
  unfold filterOf
  rw [hfilter]
  exact filterOf_untrack_bit m core line

/-- An eviction notice clears its core's bit, and brings home the bytes that it carries. -/
theorem evictionNotice_lands {data : Option (List Byte)} (h : Ev.evictionNotice core line data ∈ s.pending) :
    ∃ t, exec (.evictionNotice core line data) s = .next t ∧ (filterOf t.mem (clusterOf core) line).getLsbD (core % 8) = false ∧
      (data = none → t.mem.mem = s.mem.mem) ∧
      (∀ bs, data = some bs → (∃ x ∈ s.mem.l1, x.core = core ∧ x.line = line ∧ x.inFlight = true) →
        t.mem.mem = Memory.writes s.mem.mem (64 * line) bs) ∧ t.work = s.work ∧ t.dev = s.dev := by
  refine ⟨_, (show execEvictionNotice core line data s = _ from MemorySteps.runEvent_due (List.contains_iff_mem.2 h) _), ?_⟩
  cases data with
  | none =>
    obtain ⟨hbit, hmem, hwork, hdev⟩ := untracked_settles { s with pending := s.pending.erase (.evictionNotice core line none) } s.mem core
      line
    exact ⟨hbit, fun _ => hmem, nofun, hwork, hdev⟩
  | some bs =>
    obtain ⟨hbit, hmem, hwork, hdev⟩ := untracked_settles { s with pending := s.pending.erase (.evictionNotice core line (some bs)) }
      (landDirty s.mem core line bs) core line
    refine ⟨hbit, nofun, fun bs' hd hx => ?_, hwork, hdev⟩
    cases hd
    exact hmem.trans (landDirty_mem hx)

end

/-! ## Notices of regions -/

theorem regionNotice_clears {s : State} {cluster region : Nat} (h : Ev.regionNotice cluster region ∈ s.pending) (hc : cluster < 64) :
    ∃ t, exec (.regionNotice cluster region) s = .next t ∧ (dirOf t.mem region).getLsbD cluster = false ∧
      (∀ c < 64, c ≠ cluster → (dirOf t.mem region).getLsbD c = (dirOf s.mem region).getLsbD c) ∧
      Ev.noticeAck cluster region ∈ t.pending ∧ t.mem.mem = s.mem.mem ∧ t.mem.l1 = s.mem.l1 := by
  refine ⟨_, (show execRegionNotice cluster region s = _ from MemorySteps.runEvent_due (List.contains_iff_mem.2 h) _), ?_,
    fun c h64 hne => ?_, List.mem_append_right _ (List.mem_singleton_self _), rfl, rfl⟩
  · exact (dirOf_dirClear_bit s.mem cluster region hc).trans (by simp)
  · exact (dirOf_dirClear_bit s.mem cluster region h64).trans (by simp [hne])

theorem noticeAck_acts {s : State} {cluster region : Nat} (h : Ev.noticeAck cluster region ∈ s.pending) :
    Acts (.noticeAck cluster region) (.noticeAck cluster region) s fun s =>
      { s with mem := { s.mem with leaving := s.mem.leaving.erase (cluster, region) } } :=
  acts_of (show execNoticeAck cluster region s = _ from rfl) (List.contains_iff_mem.2 h) rfl

/-! ## Probes -/

section
variable {s : State} {cluster line : Nat} {b : BusyLine}

theorem probe_acts {inval : Bool} (h : Ev.probe cluster line inval ∈ s.pending) (hn : noticeUnderWay s cluster line = false) :
    Acts (.probe cluster line inval) (.probe cluster line inval) s fun s =>
      let m := (probed s.mem cluster line).foldl (probeCore inval line) s.mem
      let gone := (probeData m cluster line).isNone && regionEmpty m cluster (regionOf line) && !requested s.mem cluster (regionOf line)
      { s with mem := if gone then { m with leaving := (cluster, regionOf line) :: m.leaving } else m }.post
        (.probeAck cluster line gone (probeData m cluster line)) :=
  acts_of (show execProbe cluster line inval s = _ from rfl) (by rw [List.contains_iff_mem.2 h, hn]; rfl) rfl

/-- An acknowledgement that is not the last: its cluster is no longer awaited. -/
theorem probeAck_awaits (h : Ev.probeAck cluster line false none ∈ s.pending) (hb : busyOf s.mem line = some b)
    (hmore : b.acks.erase cluster ≠ []) :
    Acts (.probeAck cluster line false none) (.probeAck cluster line false none) s fun s => settleRegion { s with mem := { s.mem with
      busy := s.mem.busy.map fun q => if q.line = line then { b with acks := b.acks.erase cluster } else q } } cluster (regionOf line) := by
  have hmore' : (b.acks.erase cluster).isEmpty = false := by rwa [← Bool.not_eq_true, List.isEmpty_iff]
  exact acts_of (show execProbeAck cluster line false none s = _ from rfl) (List.contains_iff_mem.2 h)
    (by simp only [hb, hmore', landProbe, Bool.false_eq_true, if_false])

/-- The last acknowledgement, with "region empty": the cluster's bit goes, and the request that waited is performed. -/
theorem probeAck_finishes {data : Option (List Byte)} (h : Ev.probeAck cluster line true data ∈ s.pending)
    (hb : busyOf s.mem line = some b) (hlast : b.acks = [cluster]) :
    Acts (.probeAck cluster line true data) (.probeAck cluster line true data) s fun s =>
      let n := landProbe s.mem cluster line (busyInval s b) data
      let m := { dirClear n cluster (regionOf line) with leaving := n.leaving.erase (cluster, regionOf line) }
      finishBusy (settleRegion { s with mem := { m with busy := m.busy.map fun q => if q.line = line then { b with acks := [] } else q } }
        cluster (regionOf line)) { b with acks := [] } := by
  have hnone : b.acks.erase cluster = [] := by simp [hlast]
  exact acts_of (show execProbeAck cluster line true data s = _ from rfl) (List.contains_iff_mem.2 h)
    (by simp only [hb, hnone, List.isEmpty_nil, if_true])

end

/-- Settles O44: an evicted line leaves by its mode and its dirty bytes; notices and probes clear the bits that record it, and the last
acknowledgement lets the waiting request go. -/
theorem cacheSteps : Obligations.CacheSteps := by
  intro core line cluster region inval data l s
  refine ⟨fun h hmode howned hdirty => ?dirty, fun h hmode hclean => ?clean, fun h hmode => ?s, evictionNotice_lands, regionNotice_clears,
    noticeAck_acts, probe_acts, fun b => probeAck_awaits, ⟨fun hs => if_pos (settles_iff.2 hs), fun hs => if_neg (mt settles_iff.1 hs)⟩,
    fun b => probeAck_finishes⟩
  case dirty => simpa only [evictLine_dirty _ hmode howned hdirty] using l1Eviction_acts h
  case clean => simpa only [evictLine_clean _ hmode hclean] using l1Eviction_acts h
  case s => simpa only [evictLine_s _ hmode] using l1Eviction_acts h

end Sys2Proof.CacheLines
end

section
/-! PROOF. A U load or store alone in its wave, performed at its home slice (08_memory_spaces R168, R171, 09_consistency R183 to R186). -/

namespace Sys2Proof.HomeAccess

open Machine

/-! ## A table changed twice -/

theorem put_put_self {α : Type} (m : Map α) (k : Nat) (x : α) : (m.put k x).put k x = m.put k x := by
  induction m with
  | nil => simp [Map.put]
  | cons p t ih =>
    obtain ⟨a, y⟩ := p
    simp only [Map.put]
    split
    · simp [Map.put]
    · split
      · simp [Map.put]
      · next hlt hne => simp only [Map.put, if_neg hlt, if_neg hne, ih]

/-- A second change of an entry that leaves it as it is changes nothing. -/
theorem modify_modify_of_fixed {α : Type} {m : Map α} {k : Nat} {f g : α → α} (h : ∀ x, m.look k = some x → g (f x) = f x) :
    (m.modify k f).modify k g = m.modify k f := by
  cases hk : m.look k with
  | none => simp only [Map.modify, hk]
  | some x => simp only [Map.modify, hk, Map.look_put_self, h x hk, put_put_self]

/-! ## Nothing stands before the access -/

/-- A U access that is its wave's one operation and can go to its home slice: no tile operation is queued, no cluster may hold its region, and
its core holds no S line of it. -/
structure Alone (s : State) (k : Nat) (w : Wave) (o : MemOp) (x : Sub) : Prop where
  wave : s.wave k = some w
  ops : w.ops = [o]
  subs : o.subs = [x]
  acq : o.acq = none
  rel : o.rel = none
  notDone : x.done = false
  notBusy : x.busy = false
  space : x.space = .dev .u
  noTiles : ∀ p ∈ s.work.blocks, p.2.tiles = []
  free : requestFree s (coreOf s w) (lineOf x.pa) = true
  noS : lineIn s.mem (coreOf s w) (lineOf x.pa) .s = none
  noHolders : holders s.mem (regionOf (lineOf x.pa)) = []

/-- A step taken out of those in flight holds no request back. -/
theorem requestFree_erase {s : State} {core line : Nat} (e : Ev) (h : requestFree s core line = true) :
    requestFree { s with pending := s.pending.erase e } core line = true := by
  unfold requestFree at h ⊢
  obtain ⟨hline, hpending⟩ := (Bool.and_eq_true _ _).mp h
  refine (Bool.and_eq_true _ _).mpr ⟨hline, List.all_eq_true.2 fun q hq => ?_⟩
  exact List.all_eq_true.1 hpending q (List.mem_of_mem_erase hq)

section
variable {s : State} {k : Nat} {w : Wave} {o : MemOp} {x : Sub}

theorem Alone.erase (h : Alone s k w o x) (e : Ev) : Alone { s with pending := s.pending.erase e } k w o x :=
  { h with wave := h.wave, noTiles := h.noTiles, free := requestFree_erase e h.free, noS := h.noS, noHolders := h.noHolders }

theorem Alone.opOf (h : Alone s k w o x) : opOf w o.id = some o := by
  simp [Machine.opOf, h.ops]

theorem Alone.earlier (h : Alone s k w o x) : earlier w o.id = [] := by
  simp [Machine.earlier, h.ops]

theorem Alone.inOrder (h : Alone s k w o x) : inOrder w o = true := by
  rw [Machine.inOrder, h.earlier]
  rfl

theorem Alone.lastMeeting (h : Alone s k w o x) : lastMeeting w o 0 x = none := by
  simp [Machine.lastMeeting, h.earlier]

theorem Alone.beforeRelease (h : Alone s k w o x) (core : Nat) (hk : o.kind = .store ∨ o.kind = .load) :
    beforeRelease s core o = some s := by
  have hr : o.releases = false := by
    obtain hk | hk := hk <;> simp [MemOp.releases, h.rel, hk]
  simp [Machine.beforeRelease, hr]

theorem Alone.beforeAcquire (h : Alone s k w o x) (core : Nat) : beforeAcquire s core o = s := by
  simp [Machine.beforeAcquire, h.acq]

/-- The access comes to its place at once (09_consistency R184, R185). -/
theorem placeStep_eq (h : Alone s k w o x) (hk : o.kind = .store ∨ o.kind = .load) :
    placeStep s k o.id 0 = accessAt s k w o 0 x := by
  have hperform : placeStep s k o.id 0 = performSub s k o.id 0 := by
    simp only [placeStep, h.wave, Option.bind_some, h.opOf, Option.map_some]
    obtain hk | hk := hk <;> rw [hk]
  have hwaits : (x.done || x.busy || o.kind == .fexp || !Machine.inOrder w o ||
      (x.space == .spm && boardHolds s w.blk x.pa x.n (o.kind == .load))) = false := by
    have hfexp : (o.kind == .fexp) = false := by
      obtain hk | hk := hk <;> rw [hk] <;> rfl
    rw [h.notDone, h.notBusy, hfexp, h.inOrder, h.space]
    rfl
  rw [hperform]
  simp only [performSub, h.wave, h.opOf, h.subs, List.getElem?_cons_zero, hwaits, Bool.false_eq_true, if_false, h.lastMeeting,
    h.beforeRelease _ hk, h.beforeAcquire]

/-! ## The access at its home slice -/

/-- A U access of local device memory goes to its home slice, where no probe is needed (08_memory_spaces R168, R171). -/
theorem accessAt_eq (h : Alone s k w o x) (hacc : (∃ d, x.acc = .store d) ∨ ∃ sx, x.acc = .load sx) :
    accessAt s k w o 0 x =
      some (endSub (performHome s w.blk (coreOf s w) x).1 k o.id 0 (coreOf s w) (performHome s w.blk (coreOf s w) x).2 false) := by
  have hrequest : requestHome s k o.id 0 w.blk (coreOf s w) x false =
      some (endSub (performHome s w.blk (coreOf s w) x).1 k o.id 0 (coreOf s w) (performHome s w.blk (coreOf s w) x).2 false) := by
    simp only [requestHome, h.free, Bool.not_true, Bool.false_eq_true, if_false, h.noHolders]
  have hD : hitD s.mem (coreOf s w) x = none := by
    simp [hitD, h.space]
  have hS : hitS s.mem (coreOf s w) x = none := by
    simp [hitS, h.space]
  have hmode : (Mode.u == Mode.s) = false := rfl
  rw [← hrequest]
  obtain ⟨_, hx⟩ | ⟨_, hx⟩ := hacc <;>
    simp only [accessAt, h.space, accessDev, hx, hD, hS, h.noS, hmode, h.acq, Option.isSome_none, Bool.and_false, Bool.false_eq_true,
      if_false]

/-- No tile operation meets the bytes of the access (06_matrix R137). -/
theorem Alone.storedData (h : Alone s k w o x) (bs : List Byte) : storedData s w.blk x bs = bs := by
  refine if_neg fun hany => ?_
  obtain ⟨p, hp, ht⟩ := List.any_eq_true.1 hany
  simp [h.noTiles p hp] at ht

theorem Alone.loadedValue (h : Alone s k w o x) (v : Nat) : loadedValue s w.blk x v = v := by
  refine if_neg fun hany => ?_
  obtain ⟨p, hp, ht⟩ := List.any_eq_true.1 hany
  simp [h.noTiles p hp] at ht

theorem taintTiles_of_noTiles {t : State} (h : ∀ p ∈ t.work.blocks, p.2.tiles = []) (blk : Nat) (x : Sub) : taintTiles t blk x = t := by
  have hkept : ∀ p ∈ t.work.blocks,
      (if inReach blk x p.1 then (p.1, { p.2 with tiles := p.2.tiles.map (TileOp.taint x) }) else p) = p := by
    rintro ⟨n, b⟩ hp
    have hb : b.tiles = [] := h _ hp
    split
    · simp only [hb, List.map_nil]
      rw [← hb]
    · rfl
  unfold taintTiles
  dsimp only
  rw [List.map_congr_left hkept, List.map_id']

theorem performHome_store (h : Alone s k w o x) {d : DWord} (hd : x.acc = .store d) :
    performHome s w.blk (coreOf s w) x =
      ({ s with mem := devWrite (rekey s.mem (lineOf x.pa) x.key) x.key x.pa (dataBytes d x.n) },
        lineValue (seenLine (rekey s.mem (lineOf x.pa) x.key) (lineOf x.pa) x.key) x) := by
  have hs : (Space.dev Mode.u = Space.dev Mode.s) = False := by simp
  simp only [performHome, h.space, hs, if_false, hd, effectOn, h.storedData]
  refine congrArg (·, _) (taintTiles_of_noTiles ?_ w.blk x)
  exact h.noTiles

theorem performHome_load (h : Alone s k w o x) {sx : Bool} (hl : x.acc = .load sx) :
    performHome s w.blk (coreOf s w) x =
      ({ s with mem := rekey s.mem (lineOf x.pa) x.key },
        lineValue (seenLine (rekey s.mem (lineOf x.pa) x.key) (lineOf x.pa) x.key) x) := by
  have hs : (Space.dev Mode.u = Space.dev Mode.s) = False := by simp
  simp only [performHome, h.space, hs, if_false, hl, effectOn, h.loadedValue]

/-- The end of the access is no prefetch's end (10_memory_instructions R224). -/
theorem endSub_eq (h : Alone s k w o x) (hk : o.kind = .store ∨ o.kind = .load) (m : MemSys) (core value : Nat) :
    endSub { s with mem := m } k o.id 0 core value false = doneSub { s with mem := m } k o.id 0 value := by
  have hpref : (o.kind == .pref) = false := by
    obtain hk | hk := hk <;> rw [hk] <;> rfl
  have hwaves := modify_modify_of_fixed (m := s.work.waves) (k := k) (g := fun w => w.dropPref o.id)
    (f := fun w => w.mapOp o.id fun o =>
      { o with subs := o.subs.modify 0 fun x => { x with done := true, busy := false, value := BitVec.ofNat 64 value } })
    fun v hv => by
      obtain rfl : w = v := Option.some.inj (h.wave.symm.trans hv)
      simp [Wave.mapOp, Wave.dropPref, h.ops, hpref]
  simp only [endSub, doneSub, mapSub, State.mapWave, hwaves, Bool.false_eq_true, if_false]

/-- What the access leaves once it has come to its place. -/
theorem placeStep_store (h : Alone s k w o x) (hk : o.kind = .store) {d : DWord} (hd : x.acc = .store d) :
    placeStep s k o.id 0 =
      some (doneSub { s with mem := devWrite (rekey s.mem (lineOf x.pa) x.key) x.key x.pa (dataBytes d x.n) } k o.id 0
        (lineValue (seenLine (rekey s.mem (lineOf x.pa) x.key) (lineOf x.pa) x.key) x)) := by
  rw [placeStep_eq h (.inl hk), accessAt_eq h (.inl ⟨d, hd⟩), performHome_store h hd]
  exact congrArg some (endSub_eq h (.inl hk) _ _ _)

theorem placeStep_load (h : Alone s k w o x) (hk : o.kind = .load) {sx : Bool} (hl : x.acc = .load sx) :
    placeStep s k o.id 0 =
      some (doneSub { s with mem := rekey s.mem (lineOf x.pa) x.key } k o.id 0
        (lineValue (seenLine (rekey s.mem (lineOf x.pa) x.key) (lineOf x.pa) x.key) x)) := by
  rw [placeStep_eq h (.inr hk), accessAt_eq h (.inr ⟨sx, hl⟩), performHome_load h hl]
  exact congrArg some (endSub_eq h (.inr hk) _ _ _)

/-- A request whose access is performed at its place acts so on the state without it. -/
theorem homeSliceRequest_acts {id j : Nat} {f : State → State} (h : (placeStep s k id j).isSome = true)
    (hf : placeStep { s with pending := s.pending.erase (.homeSliceRequest k id j) } k id j =
      some (f { s with pending := s.pending.erase (.homeSliceRequest k id j) })) :
    Acts (.homeSliceRequest k id j) (.homeSliceRequest k id j) s f :=
  acts_of (show execHomeSliceRequest k id j s = _ from rfl) h (by simp only [hf, Option.getD_some])

end

/-- Settles O45: alone in its wave and with no copy of its line elsewhere, the access comes to its home slice at once, where nothing taints
it. -/
theorem homeSliceAccess : Obligations.HomeSliceAccess := by
  intro s k w o x hwave hops hsubs hacq hrel hdone hbusy hspace htiles hfree hnoS hholders
  have h : Alone s k w o x := ⟨hwave, hops, hsubs, hacq, hrel, hdone, hbusy, hspace, htiles, hfree, hnoS, hholders⟩
  refine ⟨fun d hk hd => homeSliceRequest_acts ?_ (placeStep_store (h.erase _) hk hd),
    fun sx hk hl => homeSliceRequest_acts ?_ (placeStep_load (h.erase _) hk hl)⟩
  · rw [placeStep_store h hk hd]
    rfl
  · rw [placeStep_load h hk hl]
    rfl

end Sys2Proof.HomeAccess
end

section
/-! PROOF. Bytes written to local device memory read back under their key slot, and every other line is as before (08_memory_spaces R166 to
R170, 17_translation R401). -/

namespace Sys2Proof.HomeBytes

open Machine

/-! ## The bytes of a line -/

/-- Every line that an L1 holds is 64 bytes long (08_memory_spaces R169). -/
def WholeLines (m : MemSys) : Prop := ∀ l ∈ m.l1, l.bytes.length = 64

theorem rawLine_getD {m : MemSys} {line i : Nat} (hi : i < 64) : (rawLine m line).getD i 0 = Memory.read m.mem (64 * line + i) := by
  simp [rawLine, List.getD_eq_getElem?_getD, List.getElem?_map, List.getElem?_range hi]

theorem rawLine_length (m : MemSys) (line : Nat) : (rawLine m line).length = 64 := by
  simp [rawLine]

/-- A line of home-slice bytes is known by the reads of its 64 addresses. -/
theorem rawLine_congr {m m' : MemSys} {line : Nat} (h : ∀ i < 64, Memory.read m.mem (64 * line + i) = Memory.read m'.mem (64 * line + i)) :
    rawLine m line = rawLine m' line :=
  List.map_congr_left fun i hi => h i (List.mem_range.1 hi)

/-- Sixty-four bytes written at a line are its bytes. -/
theorem rawLine_of_writes {m : MemSys} {cells : List Host.Cell} {line : Nat} {bs : List Byte} (hm : m.mem = Memory.writes cells (64 * line) bs)
    (h : bs.length = 64) : rawLine m line = bs := by
  refine List.ext_getElem (by rw [rawLine_length, h]) fun i _ hi => ?_
  simp only [rawLine, List.getElem_map, List.getElem_range, hm]
  rw [Machine.Memory.read_writes, if_pos (by omega), Nat.add_sub_cancel_left, List.getD_eq_getElem _ _ hi]

/-- Sixty-four bytes written at a line leave every other line. -/
theorem read_writes_otherLine {cells : List Host.Cell} {line c : Nat} {bs : List Byte} (h : bs.length = 64) (hc : lineOf c ≠ line) :
    Memory.read (Memory.writes cells (64 * line) bs) c = Memory.read cells c := by
  unfold lineOf at hc
  rw [Machine.Memory.read_writes, if_neg (by omega)]

theorem cohLine_of_owner {m : MemSys} {line : Nat} {l : L1Line} (h : ownerOf m line = some l) : cohLine m line = l.bytes := by
  rw [cohLine, h]

theorem cohLine_of_unowned {m : MemSys} {line : Nat} (h : ownerOf m line = none) : cohLine m line = rawLine m line := by
  rw [cohLine, h]

theorem WholeLines.owner_length {m : MemSys} (h : WholeLines m) {line : Nat} {l : L1Line} (ho : ownerOf m line = some l) :
    l.bytes.length = 64 :=
  h l (List.mem_of_find?_eq_some ho)

theorem WholeLines.cohLine_length {m : MemSys} (h : WholeLines m) (line : Nat) : (cohLine m line).length = 64 := by
  cases ho : ownerOf m line with
  | none => rw [cohLine_of_unowned ho, rawLine_length]
  | some l => rw [cohLine_of_owner ho, h.owner_length ho]

theorem decLine_length {m : MemSys} {line : Nat} {key : Option Nat} {bs : List Byte} (h : bs.length = 64) :
    (decLine m line key bs).length = 64 := by
  unfold decLine
  split
  · simp [aesXtsInv, xtsLine]
  · exact h

theorem encLine_length {m : MemSys} {line : Nat} {key : Option Nat} {bs : List Byte} (h : bs.length = 64) :
    (encLine m line key bs).length = 64 := by
  unfold encLine
  split
  · simp [aesXts, xtsLine]
  · exact h

theorem WholeLines.seenLine_length {m : MemSys} (h : WholeLines m) (line : Nat) (key : Option Nat) : (seenLine m line key).length = 64 := by
  unfold seenLine
  split
  · exact h.cohLine_length line
  · exact decLine_length (encLine_length (h.cohLine_length line))

theorem seenLine_of_cipher {m : MemSys} {line : Nat} {key : Option Nat} (h : m.cipher.look line = key) :
    seenLine m line key = cohLine m line :=
  if_pos h

/-- A byte under a key slot is the byte of its line under that slot. -/
theorem seenByte_eq (m : MemSys) (key : Option Nat) (a : Nat) : seenByte m key a = (seenLine m (lineOf a) key).getD (a % 64) 0 := by
  unfold seenByte
  split
  · next hc =>
    rw [seenLine_of_cipher hc]
    cases ho : ownerOf m (lineOf a) with
    | none =>
      rw [cohLine_of_unowned ho, rawLine_getD (Nat.mod_lt a (by decide)), lineOf, Nat.div_add_mod]
    | some l => rw [cohLine_of_owner ho]
  · rfl

/-! ## What a line's view depends on -/

/-- A line whose record and coherent bytes are as before, under the same keys. -/
structure SameLine (m m' : MemSys) (line : Nat) : Prop where
  keys : m'.keys = m.keys
  cipher : m'.cipher.look line = m.cipher.look line
  bytes : cohLine m' line = cohLine m line

theorem SameLine.seenLine {m m' : MemSys} {line : Nat} (h : SameLine m m' line) (key : Option Nat) :
    seenLine m' line key = seenLine m line key := by
  simp only [Machine.seenLine, decLine, encLine, h.keys, h.cipher, h.bytes]

theorem SameLine.trans {m m' m'' : MemSys} {line : Nat} (h : SameLine m m' line) (h' : SameLine m' m'' line) : SameLine m m'' line :=
  ⟨h'.keys.trans h.keys, h'.cipher.trans h.cipher, h'.bytes.trans h.bytes⟩

/-! ## A line recalled -/

/-- Forgetting a line changes the records of copies alone. -/
theorem forgetLine_frame (m : MemSys) (line : Nat) :
    (forgetLine m line).mem = m.mem ∧ (forgetLine m line).l1 = m.l1 ∧ (forgetLine m line).cipher = m.cipher ∧
      (forgetLine m line).keys = m.keys := by
  unfold forgetLine
  split
  · exact ⟨rfl, rfl, rfl, rfl⟩
  · refine foldl_keeps (P := fun n : MemSys => n.mem = m.mem ∧ n.l1 = m.l1 ∧ n.cipher = m.cipher ∧ n.keys = m.keys)
      (f := fun n c => dirClear n c (regionOf line)) (fun n c h => ?_) _ _ ⟨rfl, rfl, rfl, rfl⟩
    exact h

theorem recallLine_mem (m : MemSys) (line : Nat) :
    (recallLine m line).mem = (match ownerOf m line with
      | some l => Memory.writes m.mem (64 * line) l.bytes
      | none => m.mem) :=
  (forgetLine_frame _ line).1

theorem recallLine_l1 (m : MemSys) (line : Nat) : (recallLine m line).l1 = m.l1.filter fun l => !(l.line == line && l.mode == .d) :=
  (forgetLine_frame _ line).2.1

theorem recallLine_cipher (m : MemSys) (line : Nat) : (recallLine m line).cipher = m.cipher := (forgetLine_frame _ line).2.2.1

theorem recallLine_keys (m : MemSys) (line : Nat) : (recallLine m line).keys = m.keys := (forgetLine_frame _ line).2.2.2

theorem WholeLines.recallLine {m : MemSys} (h : WholeLines m) (line : Nat) : WholeLines (recallLine m line) := by
  intro l hl
  rw [recallLine_l1] at hl
  exact h l (List.mem_of_mem_filter hl)

/-- No L1 owns a line that has been recalled. -/
theorem ownerOf_recallLine_same (m : MemSys) (line : Nat) : ownerOf (recallLine m line) line = none := by
  rw [ownerOf, recallLine_l1, List.find?_filter, List.find?_eq_none]
  intro l _
  cases l.line == line && l.mode == .d <;> simp

theorem ownerOf_recallLine_other (m : MemSys) {line other : Nat} (h : other ≠ line) :
    ownerOf (recallLine m line) other = ownerOf m other := by
  rw [ownerOf, recallLine_l1, List.find?_filter, ownerOf]
  congr 1
  funext l
  by_cases hl : l.line = other
  · simp [hl, h, beq_eq_decide]
  · simp [hl]

/-- A recalled line's bytes stand at its home slice, and those of every other line are as they were. -/
theorem read_recallLine_other {m : MemSys} (hw : WholeLines m) {line c : Nat} (h : lineOf c ≠ line) :
    Memory.read (recallLine m line).mem c = Memory.read m.mem c := by
  rw [recallLine_mem]
  split
  · next ho => exact read_writes_otherLine (hw.owner_length ho) h
  · rfl

theorem cohLine_recallLine {m : MemSys} (hw : WholeLines m) (line other : Nat) : cohLine (recallLine m line) other = cohLine m other := by
  by_cases h : other = line
  · subst h
    rw [cohLine_of_unowned (ownerOf_recallLine_same m other)]
    cases ho : ownerOf m other with
    | none =>
      rw [cohLine_of_unowned ho]
      refine rawLine_congr fun i hi => ?_
      rw [recallLine_mem, ho]
    | some l =>
      rw [cohLine_of_owner ho]
      exact rawLine_of_writes (by rw [recallLine_mem, ho]) (hw.owner_length ho)
  · have hraw : rawLine (recallLine m line) other = rawLine m other :=
      rawLine_congr fun i hi => read_recallLine_other hw (by unfold lineOf; omega)
    unfold cohLine
    rw [ownerOf_recallLine_other m h, hraw]

theorem sameLine_recallLine {m : MemSys} (hw : WholeLines m) (line other : Nat) : SameLine m (recallLine m line) other :=
  ⟨recallLine_keys m line, by rw [recallLine_cipher], cohLine_recallLine hw line other⟩

/-! ## A line under another key slot -/

theorem rekey_of_cipher {m : MemSys} {line : Nat} {key : Option Nat} (h : m.cipher.look line = key) : rekey m line key = m := if_pos h

theorem rekey_mem {m : MemSys} {line : Nat} {key : Option Nat} (h : m.cipher.look line ≠ key) :
    (rekey m line key).mem = Memory.writes (recallLine m line).mem (64 * line) (seenLine m line key) := by
  rw [rekey, if_neg h]

theorem rekey_l1 {m : MemSys} {line : Nat} {key : Option Nat} (h : m.cipher.look line ≠ key) :
    (rekey m line key).l1 = (recallLine m line).l1 := by
  rw [rekey, if_neg h]

theorem rekey_keys (m : MemSys) (line : Nat) (key : Option Nat) : (rekey m line key).keys = m.keys := by
  unfold rekey
  split
  · rfl
  · exact recallLine_keys m line

theorem rekey_cipher_same (m : MemSys) (line : Nat) (key : Option Nat) : (rekey m line key).cipher.look line = key := by
  unfold rekey
  split
  · assumption
  · cases key with
    | none => simp [Map.look_del]
    | some k => simp

theorem rekey_cipher_other (m : MemSys) {line other : Nat} (key : Option Nat) (h : other ≠ line) :
    (rekey m line key).cipher.look other = m.cipher.look other := by
  unfold rekey
  split
  · rfl
  · cases key with
    | none => simp [Map.look_del, h, recallLine_cipher]
    | some k => simp [Map.look_put, h, recallLine_cipher]

theorem WholeLines.rekey {m : MemSys} (h : WholeLines m) (line : Nat) (key : Option Nat) : WholeLines (rekey m line key) := by
  by_cases hc : m.cipher.look line = key
  · rwa [rekey_of_cipher hc]
  · intro l hl
    rw [rekey_l1 hc] at hl
    exact h.recallLine line l hl

/-- A line whose record changes is recalled first. -/
theorem ownerOf_rekey {m : MemSys} {line : Nat} {key : Option Nat} (h : m.cipher.look line ≠ key) :
    ownerOf (rekey m line key) line = none := by
  rw [ownerOf, rekey_l1 h]
  exact ownerOf_recallLine_same m line

theorem ownerOf_rekey_of_unowned {m : MemSys} {line : Nat} (key : Option Nat) (h : ownerOf m line = none) :
    ownerOf (rekey m line key) line = none := by
  by_cases hc : m.cipher.look line = key
  · rwa [rekey_of_cipher hc]
  · exact ownerOf_rekey hc

theorem cohLine_rekey_same {m : MemSys} (hw : WholeLines m) (line : Nat) (key : Option Nat) :
    cohLine (rekey m line key) line = seenLine m line key := by
  by_cases hc : m.cipher.look line = key
  · rw [rekey_of_cipher hc, seenLine_of_cipher hc]
  · rw [cohLine_of_unowned (ownerOf_rekey hc)]
    exact rawLine_of_writes (rekey_mem hc) (hw.seenLine_length line key)

theorem cohLine_rekey_other {m : MemSys} (hw : WholeLines m) {line other : Nat} (key : Option Nat) (h : other ≠ line) :
    cohLine (rekey m line key) other = cohLine m other := by
  by_cases hc : m.cipher.look line = key
  · rw [rekey_of_cipher hc]
  · have howner : ownerOf (rekey m line key) other = ownerOf (recallLine m line) other := by
      rw [ownerOf, rekey_l1 hc]
      rfl
    have hraw : rawLine (rekey m line key) other = rawLine (recallLine m line) other := by
      refine rawLine_congr fun i hi => ?_
      rw [rekey_mem hc, read_writes_otherLine (hw.seenLine_length line key) (by unfold lineOf; omega)]
    calc cohLine (rekey m line key) other = cohLine (recallLine m line) other := by
          unfold cohLine
          rw [howner, hraw]
      _ = cohLine m other := cohLine_recallLine hw line other

/-! ## The lines of a write -/

/-- What a write makes of its lines before it writes: each stands at its home slice under the key slot, with the bytes that were seen there,
and every other line is as before. -/
structure Prepared (key : Option Nat) (ls : List Nat) (m m' : MemSys) : Prop where
  whole : WholeLines m'
  unowned : ∀ l ∈ ls, ownerOf m' l = none
  cipher : ∀ l ∈ ls, m'.cipher.look l = key
  bytes : ∀ l ∈ ls, cohLine m' l = seenLine m l key
  other : ∀ l ∉ ls, SameLine m m' l
  otherOwner : ∀ l ∉ ls, ownerOf m' l = ownerOf m l

/-- The line that a write takes next: recalled and brought under the key slot. -/
theorem prepare_same {m : MemSys} (hw : WholeLines m) (line : Nat) (key : Option Nat) :
    ownerOf (rekey (recallLine m line) line key) line = none ∧ (rekey (recallLine m line) line key).cipher.look line = key ∧
      cohLine (rekey (recallLine m line) line key) line = seenLine m line key :=
  ⟨ownerOf_rekey_of_unowned key (ownerOf_recallLine_same m line), rekey_cipher_same _ line key,
    (cohLine_rekey_same (hw.recallLine line) line key).trans ((sameLine_recallLine hw line line).seenLine key)⟩

theorem prepare_other {m : MemSys} (hw : WholeLines m) {line other : Nat} (key : Option Nat) (h : other ≠ line) :
    SameLine m (rekey (recallLine m line) line key) other :=
  (sameLine_recallLine hw line other).trans
    ⟨rekey_keys _ line key, rekey_cipher_other _ key h, cohLine_rekey_other (hw.recallLine line) key h⟩

theorem ownerOf_prepare_other {m : MemSys} {line other : Nat} (key : Option Nat) (h : other ≠ line) :
    ownerOf (rekey (recallLine m line) line key) other = ownerOf m other := by
  by_cases hc : (recallLine m line).cipher.look line = key
  · rw [rekey_of_cipher hc, ownerOf_recallLine_other m h]
  · calc ownerOf (rekey (recallLine m line) line key) other = ownerOf (recallLine (recallLine m line) line) other := by
          rw [ownerOf, rekey_l1 hc]
          rfl
      _ = ownerOf m other := by rw [ownerOf_recallLine_other _ h, ownerOf_recallLine_other m h]

/-- A line prepared stays as it was seen under the key slot. -/
theorem seenLine_prepare {m : MemSys} (hw : WholeLines m) (line other : Nat) (key : Option Nat) :
    seenLine (rekey (recallLine m line) line key) other key = seenLine m other key := by
  by_cases h : other = line
  · subst h
    obtain ⟨-, hcipher, hbytes⟩ := prepare_same hw other key
    rw [seenLine_of_cipher hcipher, hbytes]
  · exact (prepare_other hw key h).seenLine key

theorem prepared_foldl (key : Option Nat) (ls : List Nat) {m : MemSys} (hw : WholeLines m) :
    Prepared key ls m (ls.foldl (fun m l => rekey (recallLine m l) l key) m) := by
  induction ls generalizing m with
  | nil => exact ⟨hw, nofun, nofun, nofun, fun _ _ => ⟨rfl, rfl, rfl⟩, fun _ _ => rfl⟩
  | cons x ls ih =>
    obtain ⟨howner, hcipher, hbytes⟩ := prepare_same hw x key
    have hp := ih ((hw.recallLine x).rekey x key)
    refine ⟨hp.whole, fun l hl => ?unowned, fun l hl => ?cipher, fun l hl => ?bytes, fun l hl => ?other, fun l hl => ?otherOwner⟩
    case unowned =>
      by_cases hls : l ∈ ls
      · exact hp.unowned l hls
      · obtain rfl := (List.mem_cons.1 hl).resolve_right hls
        exact (hp.otherOwner l hls).trans howner
    case cipher =>
      by_cases hls : l ∈ ls
      · exact hp.cipher l hls
      · obtain rfl := (List.mem_cons.1 hl).resolve_right hls
        exact (hp.other l hls).cipher.trans hcipher
    case bytes =>
      by_cases hls : l ∈ ls
      · exact (hp.bytes l hls).trans (seenLine_prepare hw x l key)
      · obtain rfl := (List.mem_cons.1 hl).resolve_right hls
        exact (hp.other l hls).bytes.trans hbytes
    case other =>
      obtain ⟨hx, hls⟩ := not_or.1 (mt List.mem_cons.2 hl)
      exact (prepare_other hw key hx).trans (hp.other l hls)
    case otherOwner =>
      obtain ⟨hx, hls⟩ := not_or.1 (mt List.mem_cons.2 hl)
      exact (hp.otherOwner l hls).trans (ownerOf_prepare_other key hx)

/-! ## A write -/

/-- The lines of a run are the lines of its bytes. -/
theorem lineOf_mem_linesOf {a n c : Nat} (hlo : a ≤ c) (hhi : c < a + n) : lineOf c ∈ linesOf a n := by
  unfold linesOf lineOf
  rw [if_neg (by omega)]
  exact List.mem_map.2 ⟨c / 64 - a / 64, List.mem_range.2 (by omega), by omega⟩

section
variable {m : MemSys} {key : Option Nat} {a : Nat} {bs : List Byte}

/-- In the lines of a write every byte is read from the home slice after the write. -/
theorem seenByte_devWrite_inside (hw : WholeLines m) {c : Nat} (hc : lineOf c ∈ linesOf a bs.length) :
    seenByte (devWrite m key a bs) key c = if a ≤ c ∧ c < a + bs.length then bs.getD (c - a) 0 else seenByte m key c := by
  have hp := prepared_foldl key (linesOf a bs.length) hw
  have hread : seenByte (devWrite m key a bs) key c = Memory.read (devWrite m key a bs).mem c := by
    have hcipher : (devWrite m key a bs).cipher.look (lineOf c) = key := hp.cipher _ hc
    have howner : ownerOf (devWrite m key a bs) (lineOf c) = none := hp.unowned _ hc
    rw [seenByte, if_pos hcipher, howner]
  rw [hread]
  refine (Machine.Memory.read_writes bs _ a c).trans ?_
  split
  · rfl
  · have hmod : c % 64 < 64 := Nat.mod_lt c (by decide)
    rw [seenByte_eq, ← hp.bytes _ hc, cohLine_of_unowned (hp.unowned _ hc), rawLine_getD hmod, lineOf, Nat.div_add_mod]

/-- A line that a write does not touch is as before. -/
theorem sameLine_devWrite_outside (hw : WholeLines m) {line : Nat} (hl : line ∉ linesOf a bs.length) :
    SameLine m (devWrite m key a bs) line := by
  have hp := prepared_foldl key (linesOf a bs.length) hw
  refine (hp.other line hl).trans ⟨rfl, rfl, ?_⟩
  have hraw : rawLine (devWrite m key a bs) line
      = rawLine ((linesOf a bs.length).foldl (fun m l => rekey (recallLine m l) l key) m) line := by
    refine rawLine_congr fun i hi => (Machine.Memory.read_writes bs _ a _).trans (if_neg fun hin => hl ?_)
    have hline : lineOf (64 * line + i) = line := by unfold lineOf; omega
    exact hline ▸ lineOf_mem_linesOf hin.1 hin.2
  unfold cohLine
  rw [hraw]
  rfl

theorem seenByte_devWrite_outside (hw : WholeLines m) (key' : Option Nat) {c : Nat} (hc : lineOf c ∉ linesOf a bs.length) :
    seenByte (devWrite m key a bs) key' c = seenByte m key' c := by
  rw [seenByte_eq, seenByte_eq, (sameLine_devWrite_outside hw hc).seenLine]

end

/-- Settles O57: a write leaves its lines at their home slices under its key slot, and there its bytes replace those that were seen. -/
theorem deviceWritesReadBack : Obligations.DeviceWritesReadBack := by
  intro m key a bs hw
  refine ⟨fun i hi => ?written, fun key' c hc => seenByte_devWrite_outside hw key' hc, fun c hc _ => ?beside⟩
  case written =>
    rw [seenByte_devWrite_inside hw (lineOf_mem_linesOf (by omega) (by omega)), if_pos (by omega), Nat.add_sub_cancel_left]
  case beside =>
    by_cases hline : lineOf c ∈ linesOf a bs.length
    · rw [seenByte_devWrite_inside hw hline, if_neg (by omega)]
    · exact seenByte_devWrite_outside hw key hline

end Sys2Proof.HomeBytes
end

section
/-! PROOF. The words that reach memory, the fences and the words of queue streams: a word whose accesses pass leaves its operation outstanding,
and the rest complete with their effects (10_memory_instructions R197 to R209, R222 to R227). -/

namespace Sys2Proof.MemoryWords

open Machine

section
variable {s : State} {k : Nat} {r w w1 : Wave}

/-- A word whose fields are all read goes on with them, however many of them its own checks need. -/
theorem readWordFrom_eq {chk : Wave → Option Trap} {srcs : List Nat} {n : Nat} {vals : Map (Map Word)}
    (h : FieldsRead s k r w (chk r) srcs vals w1) (f : Nat → Wave → Wave → List LaneIn → Res) :
    readWordFrom s chk srcs n f = .next (wordEnds s k r (f k r w1 (inputs s r vals srcs))) := by
  obtain ⟨hi, hchk, hpop⟩ := h
  unfold readWordFrom
  rw [runWord_eq hi]
  simp only [hchk, hpop]
  rfl

/-- A word that makes the accesses `ts` of its fibres completes with its operation outstanding when they pass (10_memory_instructions R197). -/
theorem completes_of_issueOp {i : Instr} {chk : Wave → Option Trap} {srcs : List Nat} {n : Nat} {vals : Map (Map Word)} {w2 : Wave}
    {f : Nat → Wave → Wave → List LaneIn → Res} {cls : Option OpCls} {kind : OpKind} {acq rel : Option Scope} {ts : List Try}
    (hr : FieldsRead s k r w (chk r) srcs vals w1) (hex : exec i s = readWordFrom s chk srcs n f)
    (hf : f k r w1 (inputs s r vals srcs) = issueOp s k r w2 cls kind acq rel ts) (hp : AccessesPass r cls ts) :
    Completes i s k r (enterOp s k r w2 cls kind acq rel (ts.filterMap Try.access)) := by
  unfold Completes
  rw [hex, readWordFrom_eq hr, hf, issueOp_eq hp]

/-! ## Streams -/

/-- The count of a stream has 24 bits (10_memory_instructions R226). -/
theorem bits_31_24_eq_zero_iff (x : Word) : bits x.toNat 31 24 = 0 ↔ x.toNat < 2 ^ 24 := by
  have := x.isLt
  unfold bits
  omega

variable {i : Instr} {a : SReg} {q : BitVec 2} {f : Wave → Machine.Stream → Machine.Stream}

theorem startStream_completes (hi : Issues s k r w) (hex : exec i s = startStream a q f s) (h : (sreg r a.toNat).toNat < 2 ^ 24) :
    Completes i s k r (s.setWave k (setStream w q.toNat (f w
      { streamOf w q.toNat with count := (sreg r a.toNat).truncate 24, active := true, underrun := false, overrun := false }))) := by
  have hzero := (bits_31_24_eq_zero_iff _).2 h
  exact hex.trans ((runWord_eq hi _).trans (by rw [if_neg (by simp [hzero])]))

theorem startStream_raises (hi : Issues s k r w) (hex : exec i s = startStream a q f s) (h : 2 ^ 24 ≤ (sreg r a.toNat).toNat) :
    Raises i s k r (batchTrap r 0x01 0) := by
  have hne := mt (bits_31_24_eq_zero_iff _).1 (Nat.not_lt.2 h)
  exact hex.trans ((runWord_eq hi _).trans (by rw [if_pos (by simpa using hne)]; rfl))

end

/-- Prefetches change no memory and no other wave (10_memory_instructions R224). -/
theorem enterPrefs_frame (s : State) (k : Nat) (w : Wave) (subs : List Sub) :
    (enterPrefs s k w subs).mem = s.mem ∧ ∀ j, j ≠ k → (enterPrefs s k w subs).wave j = s.wave j := by
  unfold enterPrefs
  split
  · exact ⟨State.setWave_mem .., fun j hj => by rw [State.wave_setWave, if_neg hj]⟩
  · exact ⟨by rw [State.posts_mem, State.setWave_mem], fun j hj => by rw [State.wave_posts, State.wave_setWave, if_neg hj]⟩

/-- Settles O26: each word makes one access in each fibre and enters them as one operation. -/
theorem memoryWordsIssue : Obligations.MemoryWordsIssue := by
  intro d a sb wd aw o q x m ret g s k r w w1 vals done
  refine ⟨fun hr => ⟨?ld, ?lds, ?ldp⟩, fun hr => ⟨?st, ?sts, ?stp⟩, fun hr => ⟨?atom, ?atoms⟩, fun hr => ⟨?clean, ?invs⟩⟩
  all_goals exact completes_of_issueOp hr rfl rfl

/-- Settles O28: FENCE, PREF and QSTOP complete with their effects, and QLD and QST where their count has no bit above 23. -/
theorem fencesAndStreams : Obligations.FencesAndStreams := by
  intro sc f a va sb q s k r w w1 vals
  have hqld : exec (.qld a q) s = startStream a q (fun w x => { x with held := [], since := w.nextOp }) s := rfl
  have hqst : exec (.qst a q) s = startStream a q (fun _ x => x) s := rfl
  refine ⟨fun hi => ⟨fun hf => ?fence, runWord_eq hi _,
    fun hlow => ⟨startStream_completes hi hqld hlow, startStream_completes hi hqst hlow⟩,
    fun hhigh => ⟨startStream_raises hi hqld hhigh, startStream_raises hi hqst hhigh⟩, uniWord_eq hi _⟩,
    fun hr => ⟨readWord_eq hr _, readWord_eq hr _⟩, enterPrefs_frame s k w⟩
  cases f with
  | acqrel => exact absurd rfl hf
  | full | acq | rel => exact runWord_eq hi _

end Sys2Proof.MemoryWords
end

section
/-! PROOF. The remote words, MCAS and the block-store words: each sends one request for each fibre, MCST one for each fibre and rank
(10_memory_instructions R210, R211, R216 to R220, 14_plot_units R320, R322). -/

namespace Sys2Proof.RemoteWords

open Machine

/-! ## The rank of a fibre, before and after the pops -/

/-- Pops that all give a value give what a word's checks have seen. -/
theorem popPorts_values {s : State} {r : Wave} {qs : List Nat} {w w1 : Wave} {vals : Map (Map Word)} (h : popPorts s r w qs = .ok (vals, w1)) :
    vals = (portsSeen s r qs).1 := by
  induction qs generalizing w vals with
  | nil => cases h; rfl
  | cons q qs ih =>
    unfold popPorts at h
    split at h
    · cases h
    · cases h
    next v x hq =>
      split at h
      next vs w2 hrest =>
        cases h
        simp only [portsSeen, List.map_cons, hq, ih hrest]
      · cases h

/-- Each port gives a word the same values whatever other ports the word names. -/
theorem srcVal_portsSeen {srcs : List Nat} {v : Nat} (hv : v ∈ srcs) (s : State) (r : Wave) (lane : Nat) (f : Fibre) :
    srcVal s r (portsSeen s r (portsOf [v])).1 lane f v = srcVal s r (portsSeen s r (portsOf srcs)).1 lane f v := by
  unfold srcVal
  by_cases hp : isPort v = true
  · have hport : v = 124 ∨ v = 125 := by simpa [isPort] using hp
    obtain rfl | rfl := hport
    · simp [portsOf, portsSeen, Map.get, Map.look, hv]
    · by_cases h0 : 124 ∈ srcs <;> simp [portsOf, portsSeen, Map.get, Map.look, hv, h0]
  · rw [if_neg hp, if_neg hp]

/-- No rank is outside the group where the ranks of all fibres lie in it. -/
theorem rankCheck_none {s : State} {g v : Nat} {r : Wave} {ms : List Nat} (hms : groupMembers s r.blk g = some ms)
    (h : ∀ p ∈ fibresOf r (batch r), (srcVal s r (portsSeen s r (portsOf [v])).1 p.1 p.2 v).toNat < ms.length) :
    rankCheck s g (some v) r = none := by
  unfold rankCheck
  rw [hms]
  refine if_pos (List.isEmpty_iff.2 (List.filter_eq_nil_iff.2 fun p hp => ?_))
  simp [h p hp]

theorem rank_lt_of_remoteTry {s : State} {r : Wave} {ms : List Nat} {n lane off : Nat} {acc : Acc}
    (h : (remoteTry s r ms (some n) lane off acc).access.isSome = true) : n < ms.length := by
  by_contra hn
  have hbad : decide (ms.length ≤ n) = true := decide_eq_true (Nat.not_lt.1 hn)
  simp [remoteTry, hbad, Try.access] at h

/-! ## What a remote word sends -/

theorem exists_fine {t : Try} (h : t.access.isSome = true) : ∃ x, t = .fine x := by
  cases t with
  | fine x => exact ⟨x, rfl⟩
  | fail f => cases h
  | wait e => cases h

/-- A try with the destination register of a word that has one. -/
def toDst (dst : Option Nat) (f : Fibre) (t : Try) : Try := (dst.map fun d => t.to f d 1).getD t

theorem toDst_access_isSome (dst : Option Nat) (f : Fibre) (t : Try) : (toDst dst f t).access.isSome = t.access.isSome := by
  cases dst with
  | none => rfl
  | some d => cases t <;> rfl

/-- The blocks that a fibre's access goes to: its rank's, or those of all ranks (10_memory_instructions R211). -/
def targets (ms : List Nat) (rank : Option Nat) : List Nat := (rank.map fun n => [ms.getD n 0]).getD ms

/-- The accesses of one fibre's remote word, one for each target. -/
def sentBy (s : State) (r : Wave) (ms : List Nat) (rank : LaneIn → Option Nat) (acc : LaneIn → Acc) (dst : Option Nat) (x : LaneIn) :
    List (Sub × Nat) :=
  (toDst dst x.fibre (remoteTry s r ms (rank x) x.lane (x.arg 0).toNat (acc x))).access.toList.flatMap fun y =>
    (targets ms (rank x)).map fun m => (y, m)

section
variable {s : State} {k : Nat} {r w w1 : Wave} {vals : Map (Map Word)} {ms : List Nat} {g : BitVec 2} {cls : OpCls} {kind : OpKind}
  {acc : LaneIn → Acc} {dst : Option Nat} {chk : Wave → Option Trap} {i : Instr}

/-- A remote word whose ranks and accesses pass sends what its fibres send. -/
theorem remoteWord_eq {srcs : List Nat} {n : Nat} {b : Option Nat} {rank : LaneIn → Option Nat} (hms : groupMembers s r.blk g.toNat = some ms)
    (hrank : rankCheck s g.toNat b r = none) (hr : FieldsRead s k r w (chk r) srcs vals w1) (hfull : classFull r cls = false)
    (hpass : ∀ x ∈ inputs s r vals srcs, (remoteTry s r ms (rank x) x.lane (x.arg 0).toNat (acc x)).access.isSome = true) :
    remoteWord s chk srcs n g b cls kind rank acc dst =
      .next (wordEnds s k r (.ok (sendRemote s k w1 cls kind ((inputs s r vals srcs).flatMap (sentBy s r ms rank acc dst))))) := by
  obtain ⟨hi, hchk, hpop⟩ := hr
  refine (MemoryWords.readWordFrom_eq (chk := fun r => (rankCheck s g.toNat b r).orElse fun _ => chk r)
    ⟨hi, by simp only [hrank, hchk, Option.orElse_none], hpop⟩ _).trans ?_
  have hfail : ((inputs s r vals srcs).map fun x => (x, remoteTry s r ms (rank x) x.lane (x.arg 0).toNat (acc x))).filterMap
      (fun p => p.2.failure) = [] := by
    have htries := (tries_pass (List.forall_mem_map.2 hpass)).1
    rw [List.filterMap_map] at htries ⊢
    exact htries
  simp only [hms, hfull, hfail, mergeFails, least, Bool.false_eq_true, if_false, List.flatMap_map]
  refine congrArg (fun xs => Host.Outcome.next (wordEnds s k r (.ok (sendRemote s k w1 cls kind xs)))) (List.flatMap_congr fun x hx => ?_)
  obtain ⟨y, hy⟩ := exists_fine (hpass x hx)
  simp only [sentBy, hy]
  cases dst <;> cases rank x <;> simp [toDst, Try.to, Try.access, targets]

/-- A remote word with a rank register sends each fibre's access to the block of its rank. -/
theorem rankedWord_completes {a b : Nat} {rest : List Nat} {n : Nat}
    (hex : exec i s = remoteWord s chk (a :: b :: rest) n g (some b) cls kind (fun x => some (x.arg 1).toNat) acc dst)
    (hms : groupMembers s r.blk g.toNat = some ms) (hr : FieldsRead s k r w (chk r) (a :: b :: rest) vals w1) (hfull : classFull r cls = false)
    {subs : List (Sub × Nat)}
    (hsubs : (inputs s r vals (a :: b :: rest)).map (fun x =>
      ((toDst dst x.fibre (remoteTry s r ms (some (x.arg 1).toNat) x.lane (x.arg 0).toNat (acc x))).access, ms.getD (x.arg 1).toNat 0)) =
        subs.map fun p => (some p.1, p.2)) :
    Completes i s k r (sendRemote s k w1 cls kind subs) := by
  have hpass : ∀ x ∈ inputs s r vals (a :: b :: rest),
      (remoteTry s r ms (some (x.arg 1).toNat) x.lane (x.arg 0).toNat (acc x)).access.isSome = true := fun x hx => by
    obtain ⟨p, -, hp⟩ := List.mem_map.1 (hsubs ▸ List.mem_map_of_mem hx)
    exact (toDst_access_isSome dst x.fibre _).symm.trans (congrArg (fun q => q.1.isSome) hp).symm
  have hrank : rankCheck s g.toNat (some b) r = none := rankCheck_none hms fun p hp => by
    rw [srcVal_portsSeen (srcs := a :: b :: rest) (by simp), ← popPorts_values hr.2.2]
    exact rank_lt_of_remoteTry (hpass _ (List.mem_map_of_mem hp))
  have hsent : (inputs s r vals (a :: b :: rest)).flatMap (sentBy s r ms (fun x => some (x.arg 1).toNat) acc dst) = subs :=
    calc (inputs s r vals (a :: b :: rest)).flatMap (sentBy s r ms (fun x => some (x.arg 1).toNat) acc dst)
      _ = (subs.map fun p => (some p.1, p.2)).flatMap fun p => p.1.toList.flatMap fun y => [(y, p.2)] := by
        rw [← hsubs, List.flatMap_map]
        rfl
      _ = subs := by rw [List.flatMap_map]; exact List.flatMap_singleton' subs
  exact hex.trans (hsent ▸ remoteWord_eq hms hrank hr hfull hpass)

/-- MCST sends each fibre's access to every rank (10_memory_instructions R211). -/
theorem mcst_completes {d a : VReg} (hms : groupMembers s r.blk g.toNat = some ms)
    (hr : FieldsRead s k r w (memCheck [a.toNat, d.toNat] (0, 0) (0, 0) r) [a.toNat, d.toNat] vals w1) (hfull : classFull r .st = false)
    {xs : List Sub}
    (hxs : (inputs s r vals [a.toNat, d.toNat]).map (fun x =>
      (remoteTry s r ms none x.lane (x.arg 0).toNat (.store ((x.arg 1).zeroExtend 64))).access) = xs.map some) :
    Completes (.mcst d a g) s k r (sendRemote s k w1 .st .store (xs.flatMap fun x => ms.map fun m => (x, m))) := by
  have hpass : ∀ x ∈ inputs s r vals [a.toNat, d.toNat],
      (remoteTry s r ms none x.lane (x.arg 0).toNat (.store ((x.arg 1).zeroExtend 64))).access.isSome = true := fun x hx => by
    obtain ⟨y, -, hy⟩ := List.mem_map.1 (hxs ▸ List.mem_map_of_mem hx)
    rw [← hy]
    rfl
  have hrank : rankCheck s g.toNat none r = none := by rw [rankCheck, hms]
  have hsent : (inputs s r vals [a.toNat, d.toNat]).flatMap (sentBy s r ms (fun _ => none) (fun x => .store (x.data 1 4)) none) =
      xs.flatMap fun x => ms.map fun m => (x, m) :=
    calc (inputs s r vals [a.toNat, d.toNat]).flatMap (sentBy s r ms (fun _ => none) (fun x => .store (x.data 1 4)) none)
      _ = (xs.map some).flatMap fun o => o.toList.flatMap fun x => ms.map fun m => (x, m) := by
        rw [← hxs, List.flatMap_map]
        rfl
      _ = xs.flatMap fun x => ms.map fun m => (x, m) := by
        rw [List.flatMap_map]
        exact List.flatMap_congr fun x _ => List.flatMap_singleton ..
  have hword := remoteWord_eq (n := 1) (kind := .store) (acc := fun x => .store (x.data 1 4)) (dst := none) hms hrank hr hfull hpass
  rw [hsent] at hword
  exact hword

/-! ## MCAS -/

/-- MCAS whose fibres all pass their checks hands their commits to the sequencer (10_memory_instructions R218, R219). -/
theorem mcas_completes {d a : VReg} {sb : BitVec 4} (hr : FieldsRead s k r w (memCheck [a.toNat] (0, 0) (d.toNat, 1) r) [a.toNat] vals w1) :
    let ins := inputs s r vals [a.toNat]
    let ts := ins.map fun x => mcasTry s r k w1.nextOp x.lane (vaOf r sb (x.arg 0))
    let reads := ins.flatMap fun x => mcasReads s r (vaOf r sb (x.arg 0))
    let subs := ins.map fun x => mcasSub x d.toNat
    classFull r .ld = false → readsOpen s r reads = true → (∀ t ∈ ts, t.fails = [] ∧ t.waits = []) →
    Completes (.mcas d a sb) s k r (noteReads (enterCommits (s.setWave k (addOp w1 s.tick (some .ld) .mcas none none subs (subDests subs)))
      (ts.filterMap McasTry.commit)) k r reads) := by
  intro ins ts reads subs hfull hopen hts
  have hfails : ts.flatMap McasTry.fails = [] := List.flatMap_eq_nil_iff.2 fun t ht => (hts t ht).1
  have hwaits : ts.flatMap McasTry.waits = [] := List.flatMap_eq_nil_iff.2 fun t ht => (hts t ht).2
  refine (readWord_eq hr _).trans ?_
  dsimp only [ins, ts, reads] at hfails hwaits hopen
  simp only [hfull, hopen, hfails, hwaits, Bool.not_true, Bool.or_self, Bool.false_eq_true, if_false, mergeFails, least, List.eraseDups_nil]
  rfl

/-! ## The block-store words -/

/-- The register that a block-store word names in a field, if it has the field. -/
def named (v : Option VReg) : List Nat := (v.map BitVec.toNat).toList

/-- The state with one block-store request for each fibre. -/
def bsAsked (s : State) (k : Nat) (w : Wave) (kind : Nat) (cls : Option OpCls) (ok : OpKind) (d : Option VReg) (q : Bool) (ins : List LaneIn) :
    State :=
  let dst : Nat × Nat := (d.map fun v => (v.toNat, 1)).getD (0, 0)
  let subs := ins.map fun x => bsSub x dst.1 dst.2
  (s.setWave k (addOp w s.tick cls ok none none subs (subDests subs))).posts (ins.map fun x => Ev.blockStoreRequest
    { kind := kind, wave := k, lane := x.lane, op := w.nextOp, seq := x.arg 0, layer := x.arg 1, handle := x.arg 2, quiet := q })

/-- A block-store word checks its registers, then that its class has room, and then asks (14_plot_units R320). -/
theorem bsWord_eq (s : State) (kind : Nat) (cls : Option OpCls) (ok : OpKind) (a : VReg) (h d : Option VReg) (q : Bool) :
    bsWord s kind cls ok a h d q =
      readWord s (fun r => if 124 < a.toNat + 2 || (named h ++ named d).any (fun v => decide (124 ≤ v)) then some (mkTrap 0x04 (batch r) 0 0)
          else portCheck r (a.toNat :: (a.toNat + 1) :: named h) (named d)) (a.toNat :: (a.toNat + 1) :: named h) fun k r w ins =>
        if (cls.map (classFull r)).getD false = true then .hold else .ok (bsAsked s k w kind cls ok d q ins) := by
  cases h <;> cases d <;> cases cls <;> rfl

theorem bsWord_completes {kind : Nat} {cls : Option OpCls} {ok : OpKind} {a : VReg} {h d : Option VReg} {q : Bool}
    (hex : exec i s = bsWord s kind cls ok a h d q) (ha : a.toNat + 1 < 124) (hlow : ∀ v ∈ named h ++ named d, v < 124)
    (hr : FieldsRead s k r w (portCheck r (a.toNat :: (a.toNat + 1) :: named h) (named d)) (a.toNat :: (a.toNat + 1) :: named h) vals w1)
    (hfull : (cls.map (classFull r)).getD false = false) :
    Completes i s k r (bsAsked s k w1 kind cls ok d q (inputs s r vals (a.toNat :: (a.toNat + 1) :: named h))) := by
  obtain ⟨hi, hchk, hpop⟩ := hr
  have hregs : ¬ (124 < a.toNat + 2 || (named h ++ named d).any (fun v => decide (124 ≤ v))) = true := by
    simp only [Bool.or_eq_true, decide_eq_true_eq, List.any_eq_true, not_or, not_exists, not_and]
    exact ⟨by omega, fun v hv => Nat.not_le.2 (hlow v hv)⟩
  refine (hex.trans (bsWord_eq ..)).trans ((readWord_eq ⟨hi, (if_neg hregs).trans hchk, hpop⟩ _).trans ?_)
  rw [hfull, if_neg Bool.false_ne_true]

end

/-- Settles O29: each word completes with the requests of its fibres once its ranks, registers and accesses pass. -/
theorem remoteAndCommitWords : Obligations.RemoteAndCommitWords := by
  intro d a b sb g q s k r w w1 vals ms
  refine ⟨fun hms => ⟨fun hr subs hfull hsubs => ?rld, fun hr subs hfull hsubs => ?rst, fun hr xs hfull hxs => ?mcst⟩, fun hr => ?mcas,
    fun ha hd => ⟨fun hr hfull => ⟨?bka, ?bkt⟩, fun hr => ?bks, fun hr => ?bkf⟩⟩
  case rld => exact rankedWord_completes (dst := some d.toNat) rfl hms hr hfull hsubs
  case rst => exact rankedWord_completes (dst := none) rfl hms hr hfull hsubs
  case mcst => exact mcst_completes hms hr hfull hxs
  case mcas => exact mcas_completes hr
  case bka | bkt => exact bsWord_completes (h := none) (d := some d) rfl ha (List.forall_mem_singleton.2 hd) hr hfull
  case bks => exact bsWord_completes (h := some d) (d := none) rfl ha (List.forall_mem_singleton.2 hd) hr rfl
  case bkf => exact bsWord_completes (h := none) (d := none) rfl ha (List.forall_mem_nil _) hr rfl

end Sys2Proof.RemoteWords
end

section
/-! PROOF. The updates of a barrier object, field by field, with their completion check (11_async_copies R244, R245, R251). -/

namespace Sys2Proof.BarrierObjects

open Machine

/-- The completion check tells a flip by the phase (11_async_copies R245). -/
theorem complete_flips_iff {f : BarFields} (_ : f.phase < 16) : f.complete.2 = true ↔ f.complete.1.phase ≠ f.phase := by
  unfold BarFields.complete
  split
  · have hflip : (f.phase + 1) % 16 ≠ f.phase := by omega
    exact iff_of_true rfl hflip
  · exact iff_of_false Bool.false_ne_true fun h => h rfl

/-- The check of the fields alone, without its flag. -/
theorem complete_fields (f : BarFields) :
    f.complete.1 = if f.a = 0 ∧ f.sect = 0 then { f with phase := (f.phase + 1) % 16, a := f.e } else f := by
  unfold BarFields.complete
  split <;> rfl

/-- A credit subtracts from S modulo 2^32 (11_async_copies R244). -/
theorem credited_sect {x : Nat} (hx : x < 2 ^ 32) (n : Nat) : (x + 2 ^ 32 - n % 2 ^ 32) % 2 ^ 32 = (((x : Int) - n) % 2 ^ 32).toNat := by
  omega

theorem barStep_arrive_of_zero {f : BarFields} (hz : f.a = 0) : barStep f .arrive = ({ f with overrun := true }, false, true) := if_pos hz

theorem barStep_arrive_of_ne_zero {f : BarFields} (hnz : f.a ≠ 0) :
    barStep f .arrive = (({ f with a := f.a - 1 } : BarFields).complete.1, ({ f with a := f.a - 1 } : BarFields).complete.2, false) := if_neg hnz

/-- An update other than an initialisation compares again exactly where it flips the phase (11_async_copies R245, R250). -/
theorem barStep_flips_iff {f : BarFields} {u : BarUpd} (hphase : f.phase < 16) (hu : ∀ e, u ≠ .init e) :
    (barStep f u).2.1 = true ↔ (barStep f u).1.phase ≠ f.phase := by
  cases u with
  | init e => exact absurd rfl (hu e)
  | arrive =>
    by_cases hz : f.a = 0
    · rw [barStep_arrive_of_zero hz]
      exact iff_of_false Bool.false_ne_true fun h => h rfl
    · rw [barStep_arrive_of_ne_zero hz]
      exact complete_flips_iff (f := { f with a := f.a - 1 }) hphase
  | credit n => exact complete_flips_iff (f := { f with sect := (f.sect + 2 ^ 32 - n % 2 ^ 32) % 2 ^ 32 }) hphase
  | expect n => exact complete_flips_iff (f := { f with sect := (((f.sect : Int) + n) % 2 ^ 32).toNat }) hphase

/-- Settles O31: each update is a change of one field and the check after it, and the fields fit their bits. -/
theorem barrierObjectCounts : Obligations.BarrierObjectCounts := by
  intro f n i hphase he ha hsect complete
  refine ⟨barStep_arrive_of_zero, fun hnz => ?arrive, ?credit, complete_fields _, rfl, fun u hu => barStep_flips_iff hphase ?upd,
    barOf_barBits f ⟨hphase, he, ha, hsect⟩⟩
  case arrive =>
    rw [barStep_arrive_of_ne_zero hnz]
    exact complete_fields _
  case credit => exact (complete_fields _).trans (by rw [credited_sect hsect])
  case upd => rintro e rfl; simp at hu

end Sys2Proof.BarrierObjects
end

section
/-! PROOF. The circular-buffer words: each replaces one buffer of its block, and CBCOM and CBREL write the core's dirty S bytes through
(11_async_copies R253 to R257). -/

namespace Sys2Proof.CircularBuffers

open Machine

/-! ## The slot that a CBREL finds -/

/-- A committed fill that no CBREL has released is released: RELEASED while a tile operation names it, else FREE (R254). -/
theorem releaseSlot_of_committed {y : CbSlot} (waiting : Nat) (hst : y.st = .committed) (hrel : y.rel = y.fill) :
    releaseSlot waiting y = { y with st := if y.fill ∈ y.refs then .released else .free, rel := y.rel + 1
                                     fill := if y.fill ∈ y.refs then y.fill else y.fill + 1 } := by
  unfold releaseSlot settleSlot
  by_cases hnamed : y.fill ∈ y.refs <;> simp [hst, hrel, hnamed]

theorem releaseSlot_of_not_named {y : CbSlot} {waiting : Nat} (hst : y.st ≠ .committed)
    (hnamed : ¬ (y.rel ∈ y.refs ∧ y.rel < claimedFills waiting y)) : releaseSlot waiting y = y := by
  unfold releaseSlot
  rw [if_neg (by simp [hst]), if_neg (by simpa using hnamed)]

theorem releaseSlot_of_named {y : CbSlot} {waiting : Nat} (hst : y.st ≠ .committed)
    (hnamed : y.rel ∈ y.refs ∧ y.rel < claimedFills waiting y) : releaseSlot waiting y = { y with rel := y.rel + 1 } := by
  unfold releaseSlot
  rw [if_neg (by simp [hst]), if_pos (by simpa using hnamed)]

/-- A slot put back as it was changes no buffer. -/
theorem setSlot_slot (q : Cbuf) (j : Nat) : q.setSlot j (q.slot j) = q := by
  have hset : q.slots.set j (q.slots.getD j freshSlot) = q.slots := by
    by_cases h : j < q.slots.length
    · rw [List.getD_eq_getElem _ _ h, List.set_getElem_self]
    · rw [List.set_eq_of_length_le (Nat.not_lt.1 h)]
  unfold Cbuf.setSlot Cbuf.slot
  rw [hset]

/-! ## The words -/

section
variable {s : State} {k : Nat} {r w : Wave} {n : BitVec 4}

/-- A buffer of the block that is configured is there for its word (R253). -/
theorem withCbuf_eq (hn : n.toNat < cbufCount s r.blk) (hcount : (cbufOf s r.blk n.toNat).count ≠ 0) (f : Cbuf → Res) :
    withCbuf s r n f = f (cbufOf s r.blk n.toNat) := by
  unfold withCbuf
  rw [if_neg (Nat.not_le.2 hn), if_neg hcount]

/-- CBREL where its release can be performed (R254, R256). -/
theorem cbrel_completes (hi : Issues s k r w) (hn : n.toNat < cbufCount s r.blk) (hcount : (cbufOf s r.blk n.toNat).count ≠ 0)
    (hready : releaseReady s r = true) {q : Cbuf} (hq : cbufOf s r.blk n.toNat = q) {x : CbSlot}
    (hx : releaseSlot (slotWaiting s r.blk n.toNat q.c) (q.slot q.c) = x) :
    Completes (.cbrel n) s k r
      { mapCbuf (s.setWave k w) w.blk n.toNat fun _ => { q.setSlot q.c x with c := (q.c + 1) % q.count } with
        mem := releaseBytes s.mem (coreOf s r) } := by
  subst hq hx
  refine (runWord_eq hi _).trans ?_
  rw [withCbuf_eq hn hcount, if_neg (by simp [hready])]
  rfl

/-- CBCOM where slot p is free, no copy waits for it and its release can be performed (R254, R256, R257). -/
theorem cbcom_completes (hi : Issues s k r w) (hn : n.toNat < cbufCount s r.blk) {q : Cbuf} (hq : cbufOf s r.blk n.toNat = q)
    (hcount : q.count ≠ 0) (hfree : (q.slot q.p).st = .free) (hwait : slotWaiting s r.blk n.toNat q.p = 0) (hready : releaseReady s r = true) :
    Completes (.cbcom n) s k r
      { mapCbuf (s.setWave k w) w.blk n.toNat fun _ => { q.setSlot q.p (commitFill (q.slot q.p)) with p := (q.p + 1) % q.count } with
        mem := releaseBytes s.mem (coreOf s r) } := by
  subst hq
  refine (runWord_eq hi _).trans ?_
  rw [withCbuf_eq hn hcount, if_neg (by simp [hfree, hwait, hready])]
  rfl

/-- CBCFG where its operands keep their limits and the buffer is quiet (R254, R255). -/
theorem cbcfg_completes {a : SReg} (hi : Issues s k r w) (hn : n.toNat < cbufCount s r.blk) {x y : Nat} (hx : (sreg r a.toNat).toNat = x)
    (hy : (sreg r (a.toNat + 1)).toNat = y) (hx19 : x < 2 ^ 19) (hx32 : x % 32 = 0) (hs32 : y % 2 ^ 16 % 32 = 0) (hlo : 32 ≤ y % 2 ^ 16)
    (_ : y % 2 ^ 16 ≤ 65504) (hclo : 1 ≤ y / 2 ^ 16) (hchi : y / 2 ^ 16 ≤ 16) (hquiet : (cbufOf s r.blk n.toNat).quiet = true)
    (hfits : x + y % 2 ^ 16 * (y / 2 ^ 16) ≤ spmSize s r) :
    Completes (.cbcfg a n) s k r
      (putCbuf s k w n { base := x, size := y % 2 ^ 16, count := y / 2 ^ 16, p := 0, c := 0
                         slots := List.replicate (y / 2 ^ 16) freshSlot, copies := 0 }) := by
  have hsize : bits y 15 0 = y % 2 ^ 16 := by unfold bits; omega
  have hcount : bits y 20 16 = y / 2 ^ 16 := by unfold bits; omega
  have hxhigh : bits x 31 19 = 0 := by unfold bits; omega
  have hyhigh : bits y 31 21 = 0 := by unfold bits; omega
  refine (runWord_eq hi _).trans ?_
  simp only [hx, hy, hsize, hcount]
  rw [if_neg (by simp [hn, hxhigh, hyhigh, hquiet]; omega), if_neg (by simp [hx32]), if_neg (Nat.not_lt.2 hfits)]

end

/-- Settles O32: the words put their buffer as it is to be, and a CBREL does to slot c what its state and the fills named there ask for. -/
theorem circularBufferWords : Obligations.CircularBufferWords := by
  intro n a d s k r w hi hn q put x size count
  refine ⟨?cbcfg, fun hcount hfree _ hwait hready => ?cbcom, fun hcount hready => ⟨?committed, ?notNamed, ?named⟩, ?cbqry⟩
  case cbcfg => exact cbcfg_completes hi hn rfl rfl
  case cbcom => exact cbcom_completes hi hn rfl hcount hfree hwait hready
  case committed =>
    exact fun hst hrel => cbrel_completes hi hn hcount hready rfl (releaseSlot_of_committed _ hst hrel)
  case notNamed =>
    intro hst hnamed
    have h := cbrel_completes hi hn hcount hready rfl (releaseSlot_of_not_named hst hnamed)
    rwa [setSlot_slot] at h
  case named =>
    intro hst hnamed
    have hnot : (q.slot q.c).st ≠ .committed := by rcases hst with h | h <;> simp [h]
    exact cbrel_completes hi hn hcount hready rfl (releaseSlot_of_named hnot hnamed)
  case cbqry => exact (runWord_eq hi _).trans (by rw [if_neg (Nat.not_le.2 hn)]; rfl)

end Sys2Proof.CircularBuffers
end

section
/-! PROOF. The BAR words: at an object of the block's own scratchpad they take effect before their chain completes, and at an object
elsewhere they send an update or a request (11_async_copies R246 to R251). -/

namespace Sys2Proof.BarrierWords

open Machine

section
variable {s : State} {k : Nat} {r w : Wave}

/-! ## The object that a word names -/

/-- An object of the block's own scratchpad that its word may name (11_async_copies R247). -/
structure OwnObject (s : State) (r : Wave) (a : SReg) (off : Nat) : Prop where
  aligned : off % 16 = 0
  inBound : off + 16 ≤ spmSize s r
  named : (sreg r a.toNat).toNat = off
  low : off < 2 ^ 19
  quiet : spmQuiet r off = true

variable {a b : SReg} {off : Nat}

theorem OwnObject.barRef_eq (h : OwnObject s r a off) (acc : Access) (remoteOk : Bool) : barRef s r false a acc remoteOk = .ok (.own off) := by
  obtain ⟨haligned, hbound, hname, hlow, -⟩ := h
  have hbit : bitAt off 31 = false := by simp [bitAt]; omega
  have hhigh : bits off 30 19 = 0 := by unfold bits; omega
  have hoff : bits off 18 0 = off := by unfold bits; omega
  simp only [barRef, hname, hbit, hhigh, hoff, spmObject, haligned, Nat.not_lt.2 hbound, Bool.false_eq_true, Bool.not_false, bne_self_eq_false,
    if_false, if_true]

/-- A word whose object passes its checks goes on with it. -/
theorem withObject_eq {g : Bool} {acc : Access} {remoteOk : Bool} {x : BarRef} (h : barRef s r g a acc remoteOk = .ok x) (f : BarRef → Res) :
    withObject s r g a acc remoteOk f = f x := by
  unfold withObject
  rw [h]

/-! ## BINIT, BARV and BEXP -/

theorem binit_inRange {e : Nat} (hlo : 1 ≤ e) (hhi : e < 2 ^ 14) : ¬ (e = 0 ∨ 2 ^ 14 ≤ e) := by omega

theorem binit_own (hi : Issues s k r w) (h : OwnObject s r a off) (hlo : 1 ≤ (sreg r b.toNat).toNat) (hhi : (sreg r b.toNat).toNat < 2 ^ 14)
    (hready : storeReady r = true) :
    Completes (.binit false a b) s k r (updateObj (s.setWave k w) (.spm r.blk off) (.init (sreg r b.toNat).toNat)).1 := by
  refine (runWord_eq hi _).trans ?_
  simp only [if_neg (binit_inRange hlo hhi), withObject_eq (h.barRef_eq _ _), hready, h.quiet, Bool.and_self, if_true]

theorem binit_mem {g : Bool} {va : Nat} {x : Sub} (hi : Issues s k r w) (h : barRef s r g a Access.store false = .ok (.mem va x))
    (hlo : 1 ≤ (sreg r b.toNat).toNat) (hhi : (sreg r b.toNat).toNat < 2 ^ 14) :
    Completes (.binit g a b) s k r
      ((s.setWave k (enterBar w s.tick none (lineObj x) (.init (sreg r b.toNat).toNat) [x])).post
        (.barrierUpdate (some k) (lineObj x) (.init (sreg r b.toNat).toNat))) := by
  refine (runWord_eq hi _).trans ?_
  simp only [if_neg (binit_inRange hlo hhi), withObject_eq h, sendUpdate]

theorem bexp_own (hi : Issues s k r w) (h : OwnObject s r a off) :
    Completes (.bexp false a b) s k r (updateObj (s.setWave k w) (.spm r.blk off) (.expect (sreg r b.toNat).toInt)).1 := by
  refine (runWord_eq hi _).trans ?_
  simp only [withObject_eq (h.barRef_eq _ _), h.quiet, if_true]

theorem bexp_mem {g : Bool} {va : Nat} {x : Sub} (hi : Issues s k r w) (h : barRef s r g a Access.store false = .ok (.mem va x)) :
    Completes (.bexp g a b) s k r
      ((s.setWave k (enterBar w s.tick none (lineObj x) (.expect (sreg r b.toNat).toInt) [x])).post
        (.barrierUpdate (some k) (lineObj x) (.expect (sreg r b.toNat).toInt))) :=
  (runWord_eq hi _).trans (by simp only [withObject_eq h, sendUpdate])

/-- What an arrival at an object of the own scratchpad does: it ends its chain, or finds A = 0 and traps (11_async_copies R249). -/
theorem barv_own (hi : Issues s k r w) (h : OwnObject s r a off) (hready : releaseReady s r = true) :
    let q := updateObj { s.setWave k w with mem := releaseBytes s.mem (coreOf s r) } (.spm r.blk off) .arrive
    (q.2 = false → Completes (.barv false a) s k r q.1) ∧ (q.2 = true → Raises (.barv false a) s k r (mkTrap 0x20 (batch r) off 0)) := by
  intro q
  have hex : exec (.barv false a) s = .next (wordEnds s k r (if q.2 then .trap (mkTrap 0x20 (batch r) off 0) else .ok q.1)) := by
    refine (runWord_eq hi _).trans ?_
    simp only [withObject_eq (h.barRef_eq _ _), arriveOwn, hready, h.quiet, Bool.not_true, Bool.or_self, Bool.false_eq_true, if_false]
    rfl
  exact ⟨fun hq => by rw [hq] at hex; exact hex, fun hq => by rw [hq] at hex; exact hex⟩

theorem barv_mem {g : Bool} {va : Nat} {x : Sub} (hi : Issues s k r w) (h : barRef s r g a Access.store true = .ok (.mem va x)) :
    Completes (.barv g a) s k r
      ((s.setWave k (enterBar w s.tick (some .dev) (lineObj x) .arrive [x])).post (.barrierUpdate (some k) (lineObj x) .arrive)) :=
  (runWord_eq hi _).trans (by simp only [withObject_eq h, sendUpdate])

/-! ## BWAIT and BTEST -/

variable {p : PReg}

theorem bwait_own (hi : Issues s k r w) (h : OwnObject s r a off) (hacq : acquiresDone r = true) (he : (sreg r b.toNat).toNat < 16) :
    Completes (.bwait false a b) s k r
      (if phaseOf s (.spm r.blk off) ≠ (sreg r b.toNat).toNat then goOn s k r w
       else s.moved k (parkAt s w (batch r) fun _ => .bwait (.spm r.blk off) (sreg r b.toNat).toNat)) := by
  refine (runWord_eq hi _).trans ?_
  simp only [if_neg (Nat.not_le.2 he), withObject_eq (h.barRef_eq _ _), h.quiet, hacq, Bool.not_true, Bool.or_self, Bool.false_eq_true, if_false]
  split <;> rfl

theorem btest_own (hi : Issues s k r w) (h : OwnObject s r a off) (hacq : acquiresDone r = true) (he : (sreg r b.toNat).toNat < 16) :
    let hit := phaseOf s (.spm r.blk off) != (sreg r b.toNat).toNat
    Completes (.btest false p a b) s k r
      (if hit then goOn s k r (setPreds w (batch r) p hit) else s.setWave k (setPreds w (batch r) p hit)) := by
  refine (runWord_eq hi _).trans ?_
  simp only [if_neg (Nat.not_le.2 he), withObject_eq (h.barRef_eq _ _), h.quiet, hacq, Bool.not_true, Bool.or_self, Bool.false_eq_true, if_false]

theorem bwait_own_passes (hi : Issues s k r w) (h : OwnObject s r a off) (hacq : acquiresDone r = true) (he : (sreg r b.toNat).toNat < 16)
    (hne : phaseOf s (.spm r.blk off) ≠ (sreg r b.toNat).toNat) : Completes (.bwait false a b) s k r (goOn s k r w) := by
  simpa only [if_pos hne] using bwait_own hi h hacq he

theorem bwait_own_parks (hi : Issues s k r w) (h : OwnObject s r a off) (hacq : acquiresDone r = true) (he : (sreg r b.toNat).toNat < 16)
    (heq : phaseOf s (.spm r.blk off) = (sreg r b.toNat).toNat) :
    Completes (.bwait false a b) s k r (s.moved k (parkAt s w (batch r) fun _ => .bwait (.spm r.blk off) (sreg r b.toNat).toNat)) := by
  simpa only [if_neg (not_not.2 heq)] using bwait_own hi h hacq he

theorem btest_own_passes (hi : Issues s k r w) (h : OwnObject s r a off) (hacq : acquiresDone r = true) (he : (sreg r b.toNat).toNat < 16)
    (hne : phaseOf s (.spm r.blk off) ≠ (sreg r b.toNat).toNat) :
    Completes (.btest false p a b) s k r (goOn s k r (setPreds w (batch r) p true)) := by
  simpa only [bne_iff_ne.2 hne, if_true] using btest_own (p := p) hi h hacq he

theorem btest_own_fails (hi : Issues s k r w) (h : OwnObject s r a off) (hacq : acquiresDone r = true) (he : (sreg r b.toNat).toNat < 16)
    (heq : phaseOf s (.spm r.blk off) = (sreg r b.toNat).toNat) :
    Completes (.btest false p a b) s k r (s.setWave k (setPreds w (batch r) p false)) := by
  simpa only [heq, bne_self_eq_false, Bool.false_eq_true, if_false] using btest_own (p := p) hi h hacq he

/-- A batch parked at an object elsewhere with its request sent (11_async_copies R250). -/
def requestSent (s : State) (k : Nat) (r w : Wave) (kind : Park) (o : BarObj) (gen addr ph : Nat) (test : Option PReg) : State :=
  (s.moved k (parkAt s w (batch r) fun _ => kind)).post (.remoteBarrierRequest k (maskOf (batch r)).toNat gen addr o ph test)

section
variable {g : Bool} {blk gen o dest : Nat} {x : Sub}

theorem bwait_mem (hi : Issues s k r w) (h : barRef s r g a Access.load true = .ok (.mem dest x)) (he : (sreg r b.toNat).toNat < 16) :
    Completes (.bwait g a b) s k r
      (requestSent s k r w (.bwait (lineObj x) (32 + (sreg r b.toNat).toNat)) (lineObj x) 0 dest (sreg r b.toNat).toNat none) :=
  (runWord_eq hi _).trans (by simp only [if_neg (Nat.not_le.2 he), withObject_eq h]; rfl)

theorem btest_mem (hi : Issues s k r w) (h : barRef s r g a Access.load true = .ok (.mem dest x)) (he : (sreg r b.toNat).toNat < 16) :
    Completes (.btest g p a b) s k r (requestSent s k r w (.btest (lineObj x)) (lineObj x) 0 dest (sreg r b.toNat).toNat (some p)) :=
  (runWord_eq hi _).trans (by simp only [if_neg (Nat.not_le.2 he), withObject_eq h]; rfl)

theorem bwait_remote (hi : Issues s k r w) (h : barRef s r g a Access.load true = .ok (.remote blk gen o))
    (he : (sreg r b.toNat).toNat < 16) :
    Completes (.bwait g a b) s k r (requestSent s k r w (.bwait (.spm blk o) (32 + (sreg r b.toNat).toNat)) (.spm blk o) gen
      (sreg r a.toNat).toNat (sreg r b.toNat).toNat none) :=
  (runWord_eq hi _).trans (by simp only [if_neg (Nat.not_le.2 he), withObject_eq h]; rfl)

theorem btest_remote (hi : Issues s k r w) (h : barRef s r g a Access.load true = .ok (.remote blk gen o))
    (he : (sreg r b.toNat).toNat < 16) :
    Completes (.btest g p a b) s k r
      (requestSent s k r w (.btest (.spm blk o)) (.spm blk o) gen (sreg r a.toNat).toNat (sreg r b.toNat).toNat (some p)) :=
  (runWord_eq hi _).trans (by simp only [if_neg (Nat.not_le.2 he), withObject_eq h]; rfl)

/-- An arrival at an object of another block leaves its operation and sends its message (11_async_copies R247). -/
theorem barv_remote (hi : Issues s k r w) (h : barRef s r g a Access.store true = .ok (.remote blk gen o)) :
    exec (.barv g a) s = .next (wordEnds s k r (arriveRemote s k w blk gen o (sreg r a.toNat).toNat)) :=
  (runWord_eq hi _).trans (by simp only [withObject_eq h])

end

end

/-- Settles O30: a word at an own object acts on it once the accesses that it follows are performed, and every other word goes on with the object
that its operand names. -/
theorem barrierWords : Obligations.BarrierWords := by
  intro g p a b s k r w off hi own e sent asked
  have object : own → OwnObject s r a off := fun ⟨h1, h2, h3, h4, h5⟩ => ⟨h1, h2, h3, h4, h5⟩
  refine ⟨fun ho hlo hhi hready => ?binit, fun ho hready => ?barv, fun ho => ?bexp, fun ho hacq he hne => ⟨?waitPassed, ?testPassed⟩,
    fun ho hacq he heq => ⟨?waitParks, ?testFails⟩, fun dest x hx => ⟨?binitMem, ?bexpMem⟩, fun dest x hx => ?barvMem,
    fun dest x hx he => ⟨?waitMem, ?testMem⟩, fun blk gen o hx => ?barvRemote, fun blk gen o hx he => ⟨?waitRemote, ?testRemote⟩,
    fun he => ⟨?waitRange, ?testRange⟩, fun he => ?binitRange⟩
  case binit => exact binit_own hi (object ho) hlo hhi hready
  case barv => exact barv_own hi (object ho) hready
  case bexp => exact bexp_own hi (object ho)
  case waitPassed => exact bwait_own_passes hi (object ho) hacq he hne
  case testPassed => exact btest_own_passes hi (object ho) hacq he hne
  case waitParks => exact bwait_own_parks hi (object ho) hacq he heq
  case testFails => exact btest_own_fails hi (object ho) hacq he heq
  case binitMem => exact binit_mem hi hx
  case bexpMem => exact bexp_mem hi hx
  case barvMem => exact barv_mem hi hx
  case waitMem => exact bwait_mem hi hx he
  case testMem => exact btest_mem hi hx he
  case barvRemote => exact barv_remote hi hx
  case waitRemote => exact bwait_remote hi hx he
  case testRemote => exact btest_remote hi hx he
  case waitRange | testRange => exact (runWord_eq hi _).trans (by rw [if_pos he]; rfl)
  case binitRange => exact (runWord_eq hi _).trans (by rw [if_pos he]; rfl)

end Sys2Proof.BarrierWords
end

section
/-! SUPPORT. What a write of a scratchpad and an update of a barrier object there leave of the state, whatever tile operations are queued:
bytes of arrays, tile operations, parked states and steps in flight alone change (06_matrix R137, 11_async_copies R245, R250). -/

namespace Sys2Proof.Arrays

open Machine

/-- A table whose entries change by themselves reads as each of them changed. -/
theorem look_map {α : Type} (m : Map α) (f : Nat × α → Nat × α) (hkey : ∀ p, (f p).1 = p.1) (k : Nat) :
    Map.look (m.map f) k = (m.look k).map fun x => (f (k, x)).2 := by
  induction m with
  | nil => rfl
  | cons q m ih =>
    obtain ⟨a, y⟩ := q
    have hcons : ∀ (z : Nat × α) (l : Map α), Map.look (z :: l) k = if z.1 = k then some z.2 else Map.look l k := fun _ _ => rfl
    simp only [List.map_cons, hcons, hkey]
    by_cases h : a = k
    · subst h
      rw [if_pos rfl, if_pos rfl]
      rfl
    · rw [if_neg h, if_neg h, ih]

/-- Two states that differ at most in the bytes of scratchpads, in tile operations, in the fibres of waves and in the steps in flight. -/
structure ArraysOnly (s t : State) : Prop where
  rest : t = { s with work := { s.work with blocks := t.work.blocks, waves := t.work.waves }, pending := t.pending }
  block : ∀ j b, s.block j = some b → ∃ c, t.block j = some c ∧ c = { b with spm := c.spm, tiles := c.tiles }
  wave : ∀ j w, s.wave j = some w → ∃ v, t.wave j = some v ∧ v = { w with fibres := v.fibres }

theorem ArraysOnly.refl (s : State) : ArraysOnly s s := ⟨rfl, fun _ b h => ⟨b, h, rfl⟩, fun _ w h => ⟨w, h, rfl⟩⟩

theorem ArraysOnly.trans {s t u : State} (h1 : ArraysOnly s t) (h2 : ArraysOnly t u) : ArraysOnly s u := by
  refine ⟨?_, fun j b hb => ?_, fun j w hw => ?_⟩
  · rw [h2.rest, h1.rest]
  · obtain ⟨c, hc, ec⟩ := h1.block j b hb
    obtain ⟨d, hd, ed⟩ := h2.block j c hc
    exact ⟨d, hd, by rw [ed, ec]⟩
  · obtain ⟨v, hv, ev⟩ := h1.wave j w hw
    obtain ⟨u, hu, eu⟩ := h2.wave j v hv
    exact ⟨u, hu, by rw [eu, ev]⟩

theorem ArraysOnly.copies {s t : State} (h : ArraysOnly s t) : t.work.copies = s.work.copies := by rw [h.rest]

theorem ArraysOnly.nextCopy {s t : State} (h : ArraysOnly s t) : t.work.nextCopy = s.work.nextCopy := by rw [h.rest]

theorem ArraysOnly.mem {s t : State} (h : ArraysOnly s t) : t.mem = s.mem := by rw [h.rest]

theorem block_taintTiles (s : State) (blk : Nat) (x : Sub) (j : Nat) :
    (taintTiles s blk x).block j = (s.block j).map fun b => if inReach blk x j then { b with tiles := b.tiles.map (TileOp.taint x) } else b := by
  have hkey : ∀ p : Nat × Block, (if inReach blk x p.1 then (p.1, { p.2 with tiles := p.2.tiles.map (TileOp.taint x) }) else p).1 = p.1 :=
    fun p => by split <;> rfl
  refine (look_map _ _ hkey j).trans ?_
  refine congrArg (fun f => Option.map f (s.block j)) (funext fun b => ?_)
  by_cases h : inReach blk x j = true <;> simp only [h, if_true, if_false, Bool.false_eq_true]

theorem taintTiles_arraysOnly (s : State) (blk : Nat) (x : Sub) : ArraysOnly s (taintTiles s blk x) := by
  refine ⟨rfl, fun j b hb => ?_, fun j w hw => ⟨w, hw, rfl⟩⟩
  refine ⟨_, (block_taintTiles s blk x j).trans (by rw [hb]; rfl), ?_⟩
  split <;> rfl

theorem spmWrite_arraysOnly (s : State) (blk off : Nat) (bs : List Byte) : ArraysOnly s (spmWrite s blk off bs) := by
  refine ⟨rfl, fun j b hb => ?_, fun j w hw => ⟨w, hw, rfl⟩⟩
  have hj := State.block_mapBlock s blk j fun b => { b with spm := Memory.writes b.spm off bs }
  by_cases h : j = blk
  · subst h
    rw [if_pos rfl, hb] at hj
    exact ⟨_, hj, rfl⟩
  · rw [if_neg h, hb] at hj
    exact ⟨b, hj, rfl⟩

theorem arrayWriteFrom_arraysOnly {s : State} {blk : Nat} (ho : OnCore s blk) (since off : Nat) (bs : List Byte) :
    ArraysOnly s (arrayWriteFrom s since blk off bs) := by
  obtain ⟨b, hb, hs⟩ := ho
  unfold arrayWriteFrom
  simp only [hb, beq_eq_false_iff_ne.2 hs, Bool.false_eq_true, if_false]
  exact (spmWrite_arraysOnly ..).trans (taintTiles_arraysOnly ..)

theorem notify_arraysOnly (s : State) (o : BarObj) (ph : Nat) : ArraysOnly s (notify s o ph) :=
  ⟨rfl, fun _ b hb => ⟨b, hb, rfl⟩, (notify_frame s o ph).2.2.2.2.1⟩

/-- An update of an object in the scratchpad of a block on its core. -/
theorem updateObj_arraysOnly {s : State} {blk : Nat} (ho : OnCore s blk) (off : Nat) (u : BarUpd) :
    ArraysOnly s (updateObj s (.spm blk off) u).1 := by
  unfold updateObj
  split
  · exact .refl s
  · rename_i x _
    have hwrite : ArraysOnly s (objWrite s (.spm blk off) (barBits (barStep (barOf x) u).1)) := arrayWriteFrom_arraysOnly ho ..
    simp only
    split
    · exact hwrite.trans (notify_arraysOnly ..)
    · exact hwrite

end Sys2Proof.Arrays
end

section
/-! PROOF. The copy words: each puts the copy of its plan under way (11_async_copies R228 to R240). -/

namespace Sys2Proof.CopyWords

open Machine Arrays

/-! ## The words -/

section
variable {s : State} {k : Nat} {r w : Wave} {x : Bool}

/-- A word that reads no vector register puts its copy under way. -/
theorem copyWord_completes {i : Instr} {plan : Wave → Plan} {pages : Map PageAt} (hi : Issues s k r w) (hex : exec i s = copyWord s x plan)
    (hready : CopyReady s r x (plan r) pages) : Completes i s k r (copying s k r w x (plan r) pages) := by
  unfold Completes
  rw [hex, copyWord, runWord_eq hi, issueCopy_eq hready]

/-- CPYT reads its layout record and leaves what that read leaves (R238). -/
theorem cpyt_completes {a : SReg} {pages : Map PageAt} {rec : List Word} (hi : Issues s k r w)
    (hopen : readsOpen s r [(dva (descWords r a) 0, 32)] = true) (hrec : layoutRecord s r (dva (descWords r a) 0) = .ok rec)
    (hready : CopyReady s r x (planCpyt (descWords r a ++ rec)) pages) :
    Completes (.cpyt a x) s k r
      (noteReads (copying s k r w x (planCpyt (descWords r a ++ rec)) pages) k r [(dva (descWords r a) 0, 32)]) := by
  refine (runWord_eq hi _).trans ?_
  simp only [hopen, hrec, issueCopy_eq hready, Bool.not_true, Bool.false_eq_true, if_false]
  rfl

end

/-! ## The steps of putting a copy under way -/

/-- The source written through and the block of a CPYB pinned: only memory and the block store change (R232, 14_plot_units R319). -/
theorem flushSource_pinCopy (s : State) (r : Wave) (p : Plan) (core : Nat) (reads : List Nat) (pages : Map PageAt) :
    ∃ base mem, flushSource (pinCopy s r p) core reads pages = { s with base := base, mem := mem } ∧ (dirtyLines s.mem core = [] → mem = s.mem) := by
  have hpin : ∃ base, pinCopy s r p = { s with base := base } := by
    unfold pinCopy
    split
    · split <;> exact ⟨_, rfl⟩
    · exact ⟨_, rfl⟩
  obtain ⟨base, hbase⟩ := hpin
  rw [hbase]
  refine ⟨base, _, rfl, fun hclean => ?_⟩
  simp only [hclean, List.foldl_nil]

/-- The slot of a buffer taken for a copy: p advances, and the buffer has one copy more (R253, R257). -/
def advanceBuffer (s : State) (blk : Nat) (cb : Option (Nat × Nat)) : State :=
  match cb with
  | some (i, _) => mapCbuf s blk i fun q => { q with p := (q.p + 1) % q.count, copies := q.copies + 1 }
  | none => s

/-- The sectors of a copy with .x added to its object's expectation; those of a CPYM go by messages (R234, R237). -/
def addExpectation (s : State) (x : Bool) (c : Copy) (byMessages : Bool) : State :=
  match x, c.bar, byMessages with
  | true, some o, false => (updateObj s o (.expect c.total)).1
  | _, _, _ => s

/-- A wave with the operation of its new copy. -/
def copyWave (w : Wave) (tick : Nat) (c : Copy) (form : Nat) : Wave :=
  addOp { w with collNext := w.collNext + (if c.coll.isSome then 1 else 0) } tick (some .cp) (if form = 4 then .cpym else .copy) none none [] []

/-- A block with the slot of one of its buffers taken. -/
def Advanced (b c : Block) (cb : Option (Nat × Nat)) : Prop :=
  c = { b with cbufs := match cb with
    | some (i, _) => b.cbufs.modify i fun q => { q with p := (q.p + 1) % q.count, copies := q.copies + 1 }
    | none => b.cbufs }

theorem Advanced.cbufs_some {b c : Block} {i j : Nat} (h : Advanced b c (some (i, j))) :
    c.cbufs = b.cbufs.modify i fun q => { q with p := (q.p + 1) % q.count, copies := q.copies + 1 } := congrArg Block.cbufs h

theorem Advanced.cbufs_none {b c : Block} (h : Advanced b c none) : c.cbufs = b.cbufs := congrArg Block.cbufs h

theorem advanceBuffer_block {s : State} {blk : Nat} {b : Block} (hb : s.block blk = some b) (cb : Option (Nat × Nat)) :
    ∃ c, (advanceBuffer s blk cb).block blk = some c ∧ Advanced b c cb := by
  unfold advanceBuffer Advanced
  split
  · exact ⟨_, (State.block_mapBlock ..).trans (by rw [if_pos rfl, hb]; rfl), rfl⟩
  · exact ⟨b, hb, rfl⟩

theorem advanceBuffer_noTiles {s : State} (hn : NoTiles s) (blk : Nat) (cb : Option (Nat × Nat)) : NoTiles (advanceBuffer s blk cb) := by
  unfold advanceBuffer
  split
  · unfold mapCbuf State.mapBlock Map.modify
    split
    · rename_i b hb
      exact noTiles_setBlock hn blk _ (hn _ (Map.mem_of_look _ _ _ hb))
    · exact hn
  · exact hn

/-- The state before the expectation is added: the wave has its operation, the source is written through and the slot is taken. -/
structure Prepared (s : State) (k : Nat) (w1 : Wave) (core blk : Nat) (b : Block) (cb : Option (Nat × Nat)) (u : State) : Prop where
  copies : u.work.copies = s.work.copies
  nextCopy : u.work.nextCopy = s.work.nextCopy
  wave : u.wave k = some w1
  mem : dirtyLines s.mem core = [] → u.mem = s.mem
  block : ∃ c, u.block blk = some c ∧ Advanced b c cb
  noTiles : NoTiles s → NoTiles u

theorem prepared {s : State} {r : Wave} {b : Block} (hb : s.block r.blk = some b) (k : Nat) (w1 : Wave) (p : Plan) (core : Nat) (reads : List Nat)
    (pages : Map PageAt) (cb : Option (Nat × Nat)) :
    Prepared s k w1 core r.blk b cb (advanceBuffer (flushSource (pinCopy (s.setWave k w1) r p) core reads pages) r.blk cb) := by
  obtain ⟨base, mem, hflush, hmem⟩ := flushSource_pinCopy (s.setWave k w1) r p core reads pages
  rw [hflush]
  have hrest : ∀ u : State, ∃ bs, advanceBuffer u r.blk cb = { u with work := { u.work with blocks := bs } } := by
    intro u
    unfold advanceBuffer
    split <;> exact ⟨_, rfl⟩
  refine ⟨?copies, ?nextCopy, ?wave, fun hclean => ?mem, advanceBuffer_block (by exact hb) cb, fun hn => advanceBuffer_noTiles (by exact hn) _ _⟩
  all_goals
    obtain ⟨bs, hbs⟩ := hrest { s.setWave k w1 with base := base, mem := mem }
    rw [hbs]
  case copies | nextCopy => rfl
  case wave => exact State.wave_setWave_self s k w1
  case mem => exact hmem hclean

theorem Prepared.onCore {s u : State} {k core blk : Nat} {w1 : Wave} {b : Block} {cb : Option (Nat × Nat)}
    (h : Prepared s k w1 core blk b cb u) (hs : b.status ≠ .saved) : OnCore u blk := by
  obtain ⟨c, hc, hadv⟩ := h.block
  exact ⟨c, hc, by rw [hadv]; exact hs⟩

theorem Prepared.spmAt_eq {s u : State} {k core blk : Nat} {w1 : Wave} {b : Block} {cb : Option (Nat × Nat)}
    (h : Prepared s k w1 core blk b cb u) (hb : s.block blk = some b) (n : Nat) : spmAt u blk n = spmAt s blk n := by
  obtain ⟨c, hc, hadv⟩ := h.block
  rw [spmAt_block hc, spmAt_block hb, hadv]

/-! ## What the expectation changes -/

section
variable {u : State} {blk : Nat} {x : Bool} {c : Copy} {byMessages : Bool}

theorem addExpectation_arraysOnly (ho : OnCore u blk) (hbar : ∀ o, c.bar = some o → ∃ off, o = .spm blk off) :
    ArraysOnly u (addExpectation u x c byMessages) := by
  unfold addExpectation
  split
  · rename_i o hsome
    obtain ⟨off, rfl⟩ := hbar o hsome
    exact updateObj_arraysOnly ho ..
  · exact .refl u

theorem addExpectation_none (h : x = false ∨ byMessages = true ∨ c.bar = none) : addExpectation u x c byMessages = u := by
  unfold addExpectation
  split
  · rename_i hsome
    simp [hsome] at h
  · rfl

theorem addExpectation_some {o : BarObj} (hbar : c.bar = some o) :
    addExpectation u true c false = (updateObj u o (.expect c.total)).1 := by
  unfold addExpectation
  rw [hbar]

end

/-! ## The copy and its operation -/

theorem newCopy_cb {s : State} {r : Wave} {b : Block} (hb : s.block r.blk = some b) (k : Nat) (w : Wave) (x : Bool) (p : Plan)
    (pages : Map PageAt) :
    (newCopy s k r w x p pages).cb =
      if cbSet p.desc = true then some (dw p.desc 7 % 16, (b.cbufs.getD (dw p.desc 7 % 16) Cbuf.empty).p) else none := by
  simp only [newCopy, cbufOf, hb]

theorem newCopy_bar_own {s : State} {k : Nat} {r w : Wave} {x : Bool} {p : Plan} {pages : Map PageAt} (o : BarObj)
    (h : (newCopy s k r w x p pages).bar = some o) : ∃ off, o = .spm r.blk off := by
  simp only [newCopy] at h
  split at h
  · cases h
  · exact ⟨_, (Option.some.inj h).symm⟩

/-- The operations of a wave after a new one: the earlier ones differ at most in what a later write marks (02_encoding R36). -/
theorem addOp_opsAlike (w : Wave) (kind : OpKind) (dests : List (Nat × Nat)) :
    OpsAlike (w.ops.map fun o => if o.kind == .tile && kind != .tile then o.clobber dests else o) w.ops := by
  unfold OpsAlike
  rw [List.map_map]
  refine List.map_congr_left fun o _ => ?_
  simp only [Function.comp]
  by_cases h : (o.kind == .tile && kind != .tile) = true
  · rw [if_pos h]; rfl
  · rw [if_neg h]

theorem copyWave_ops (w : Wave) (tick : Nat) (c : Copy) (form : Nat) :
    ∃ os o, (copyWave w tick c form).ops = os ++ [o] ∧ OpsAlike os w.ops ∧ o.id = w.nextOp ∧ o.cls = some .cp ∧
      o.kind = (if form = 4 then OpKind.cpym else OpKind.copy) ∧ o.done = false ∧ o.counted = false ∧ o.subs = [] :=
  ⟨_, _, rfl, addOp_opsAlike w _ [], rfl, rfl, rfl, rfl, rfl, rfl⟩

/-! ## What a copy under way leaves -/

section
variable {s : State} {k : Nat} {r w : Wave} {x : Bool} {p : Plan} {pages : Map PageAt} {b : Block}

/-- Putting a copy under way goes from a prepared state by the expectation, which changes arrays alone. -/
theorem copying_steps (hb : s.block r.blk = some b) (hs : b.status ≠ .saved) :
    let c := newCopy s k r w x p pages
    let t := copying s k r w x p pages
    ∃ u v, Prepared s k (copyWave w s.tick c p.form) (coreOf s r) r.blk b c.cb u ∧ v = addExpectation u x c (p.form == 4) ∧ ArraysOnly u v ∧
      t.mem = v.mem ∧ t.work = { v.work with copies := v.work.copies.put v.work.nextCopy c, nextCopy := v.work.nextCopy + 1 } := by
  intro c t
  have hprep := prepared hb k (copyWave w s.tick c p.form) p (coreOf s r) c.reads pages c.cb
  exact ⟨_, _, hprep, rfl, addExpectation_arraysOnly (hprep.onCore hs) newCopy_bar_own, rfl, rfl⟩

theorem copying_copies (hb : s.block r.blk = some b) (hs : b.status ≠ .saved) :
    (copying s k r w x p pages).work.copies = s.work.copies.put s.work.nextCopy (newCopy s k r w x p pages) ∧
      (copying s k r w x p pages).work.nextCopy = s.work.nextCopy + 1 := by
  obtain ⟨u, v, hprep, -, harr, -, hwork⟩ := copying_steps (k := k) (w := w) (x := x) (p := p) (pages := pages) hb hs
  rw [hwork, harr.copies, harr.nextCopy, hprep.copies, hprep.nextCopy]
  exact ⟨rfl, rfl⟩

theorem copying_mem (hb : s.block r.blk = some b) (hs : b.status ≠ .saved) (hclean : dirtyLines s.mem (coreOf s r) = []) :
    (copying s k r w x p pages).mem = s.mem := by
  obtain ⟨u, v, hprep, -, harr, hmem, -⟩ := copying_steps (k := k) (w := w) (x := x) (p := p) (pages := pages) hb hs
  rw [hmem, harr.mem, hprep.mem hclean]

theorem copying_wave (hb : s.block r.blk = some b) (hs : b.status ≠ .saved) :
    ∃ v, (copying s k r w x p pages).wave k = some v ∧
      v = { copyWave w s.tick (newCopy s k r w x p pages) p.form with fibres := v.fibres } := by
  obtain ⟨u, v, hprep, -, harr, -, hwork⟩ := copying_steps (k := k) (w := w) (x := x) (p := p) (pages := pages) hb hs
  obtain ⟨z, hz, ez⟩ := harr.wave k _ hprep.wave
  exact ⟨z, by unfold State.wave; rw [hwork]; exact hz, ez⟩

theorem copying_block (hb : s.block r.blk = some b) (hs : b.status ≠ .saved) :
    ∃ b2 c, Advanced b b2 (newCopy s k r w x p pages).cb ∧ (copying s k r w x p pages).block r.blk = some c ∧ c.cbufs = b2.cbufs := by
  obtain ⟨u, v, hprep, -, harr, -, hwork⟩ := copying_steps (k := k) (w := w) (x := x) (p := p) (pages := pages) hb hs
  obtain ⟨b2, hb2, hadv⟩ := hprep.block
  obtain ⟨c, hc, ec⟩ := harr.block _ _ hb2
  exact ⟨b2, c, hadv, by unfold State.block; rw [hwork]; exact hc, by rw [ec]⟩

/-- The named buffer has its p one slot on and one copy more (R253, R257). -/
theorem copying_buffer (hb : s.block r.blk = some b) (hs : b.status ≠ .saved) (hset : cbSet p.desc = true)
    (hi : dw p.desc 7 % 16 < b.cbufs.length) :
    let q := b.cbufs.getD (dw p.desc 7 % 16) Cbuf.empty
    cbufOf (copying s k r w x p pages) r.blk (dw p.desc 7 % 16) = { q with p := (q.p + 1) % q.count, copies := q.copies + 1 } := by
  intro q
  obtain ⟨b2, c, hadv, hc, ec⟩ := copying_block (k := k) (w := w) (x := x) (p := p) (pages := pages) hb hs
  rw [newCopy_cb hb, if_pos hset] at hadv
  simp only [cbufOf, hc, ec, hadv.cbufs_some, q, List.getD_eq_getElem?_getD, List.getElem?_modify_eq, List.getElem?_eq_getElem hi, Option.map_eq_map,
    Option.map_some, Option.getD_some]

theorem copying_buffers (hb : s.block r.blk = some b) (hs : b.status ≠ .saved) (hset : cbSet p.desc = false) (n : Nat) :
    cbufOf (copying s k r w x p pages) r.blk n = b.cbufs.getD n Cbuf.empty := by
  obtain ⟨b2, c, hadv, hc, ec⟩ := copying_block (k := k) (w := w) (x := x) (p := p) (pages := pages) hb hs
  rw [newCopy_cb hb, if_neg (by simp [hset])] at hadv
  simp only [cbufOf, hc, ec, hadv.cbufs_none]

/-- The expectation of an own object: its fields take the copy's sectors, and no other byte changes (R234, R245). -/
theorem copying_object (hb : s.block r.blk = some b) (hs : b.status ≠ .saved) (hn : NoTiles s) (hx : x = true) (hform : p.form ≠ 4) {off : Nat}
    (hbar : (newCopy s k r w x p pages).bar = some (.spm r.blk off)) :
    let t := copying s k r w x p pages
    objAt t r.blk off = (barStep (objAt s r.blk off) (.expect (newCopy s k r w x p pages).total)).1 ∧
      ∀ n, (n < off ∨ off + 16 ≤ n) → spmAt t r.blk n = spmAt s r.blk n := by
  obtain ⟨u, v, hprep, hv, -, -, hwork⟩ := copying_steps (k := k) (w := w) (x := x) (p := p) (pages := pages) hb hs
  have ht : ∀ n, spmAt (copying s k r w x p pages) r.blk n = spmAt v r.blk n := fun n => spmAt_work (by rw [hwork]) r.blk n
  subst hx
  rw [beq_eq_false_iff_ne.2 hform, addExpectation_some hbar] at hv
  obtain ⟨hobj, hout, -⟩ := updateObj_spm (off := off) (hprep.noTiles hn) (hprep.onCore hs) (.expect (newCopy s k r w true p pages).total)
    (fun _ h => nomatch h)
  rw [← hv] at hobj hout
  have hs0 := hprep.spmAt_eq hb
  refine ⟨?_, fun n hne => by rw [ht, hout n hne, hs0]⟩
  rw [objAt_congr fun a _ _ => ht a, hobj, objAt_congr fun a _ _ => hs0 a]

/-- Without an expectation no byte of the scratchpad changes. -/
theorem copying_spm (hb : s.block r.blk = some b) (hs : b.status ≠ .saved)
    (h : x = false ∨ p.form = 4 ∨ (newCopy s k r w x p pages).bar = none) (n : Nat) :
    spmAt (copying s k r w x p pages) r.blk n = spmAt s r.blk n := by
  obtain ⟨u, v, hprep, hv, -, -, hwork⟩ := copying_steps (k := k) (w := w) (x := x) (p := p) (pages := pages) hb hs
  rw [addExpectation_none (h.imp_right (Or.imp_left (beq_iff_eq.2 ·)))] at hv
  rw [spmAt_work (s := v) (by rw [hwork]), hv, hprep.spmAt_eq hb]

end

/-- Settles O34: each word issues the copy of its plan, and the steps of putting it under way leave what the clauses say. -/
theorem copyWords : Obligations.CopyWords := by
  refine ⟨fun a v x s k r w w1 vals pages rec => ⟨fun hi => ⟨?cpy, ?cpyp, ?cpym, ?cpys, ?cpyb, ?cpyt⟩, fun hr hready => ?cpyg⟩,
    fun x p s k r w b pages hb hs => ?effect, fun s r d idxs => ?plans⟩
  case cpy => exact copyWord_completes (plan := fun r => planCpy s r (descWords r a)) hi rfl
  case cpyp => exact copyWord_completes (plan := fun r => planCpyp s r (descWords r a)) hi rfl
  case cpym => exact copyWord_completes (plan := fun r => planCpym s r (descWords r a)) hi rfl
  case cpys => exact copyWord_completes (plan := fun r => planCpys s r (descWords r a)) hi rfl
  case cpyb => exact copyWord_completes (plan := fun r => planCpyb s r (descWords r a)) hi rfl
  case cpyt => exact cpyt_completes hi
  case cpyg => exact (readWord_eq hr _).trans (by rw [issueCopy_eq hready])
  case plans => exact ⟨⟨rfl, rfl, rfl⟩, ⟨rfl, rfl, rfl⟩, ⟨rfl, rfl, rfl, rfl⟩, ⟨rfl, rfl, rfl⟩, ⟨rfl, rfl, rfl⟩, ⟨rfl, rfl, rfl⟩, ⟨rfl, rfl, rfl⟩⟩
  case effect =>
    intro d i q obj dests total t
    obtain ⟨hcopies, hnext⟩ := copying_copies (k := k) (w := w) (x := x) (p := p) (pages := pages) hb hs
    obtain ⟨v, hv, ev⟩ := copying_wave (k := k) (w := w) (x := x) (p := p) (pages := pages) hb hs
    refine ⟨⟨_, hcopies, rfl, rfl, rfl, rfl, rfl, rfl, rfl, rfl, rfl, rfl, rfl, rfl, newCopy_cb hb k w x p pages, rfl, rfl⟩, hnext, ?wave,
      copying_buffer hb hs, copying_buffers hb hs, copying_mem hb hs, fun hn hx hform off hobj => copying_object hb hs hn hx hform hobj,
      copying_spm hb hs⟩
    case wave =>
      obtain ⟨os, o, hops, ho⟩ := copyWave_ops w s.tick (newCopy s k r w x p pages) p.form
      obtain ⟨halike, hid, hcls, hkind, hdone, hcounted, hsubs⟩ := ho
      exact ⟨v, os, o, hv, by rw [ev]; exact hops, halike, hid, hcls, hkind, hdone, hcounted, hsubs, by rw [ev]; rfl, by rw [ev]; rfl,
        by rw [ev]; rfl⟩

end Sys2Proof.CopyWords
end

section
/-! PROOF. Copies start, alone or not, and leave their slot claimed, their messages sent and their block fetched back (11_async_copies R229 to R242,
R257). -/

namespace Sys2Proof.UnitCopies

open Machine MemorySteps

/-! ## When a copy starts -/

/-- A copy alone on its core, with its wave's earlier operations performed, can start (R231, R232). -/
theorem copyReady_of_alone {s : State} {id : Nat} {c : Copy} (hcopies : s.work.copies = [(id, c)]) (hstarted : c.started = false) (hcoll : c.coll = none)
    (hcb : c.cb = none) (hform : c.form ≠ 6) (hspans : c.spans.length ≤ 64)
    (hearlier : ∀ w, s.wave c.wave = some w → ∀ e ∈ earlier w c.op, e.performed = true) (hclean : dirtyLines s.mem c.core = []) :
    copyReady s id = true := by
  have hlook : s.work.copies.look id = some c := by rw [hcopies]; exact if_pos rfl
  have hgroup : sliceGroup s id c = [(id, c)] := by simp only [sliceGroup, hcoll]
  have haside : standsAside s id c = false := by simp only [standsAside, hcoll, hcb, Option.map_none, Option.getD_none, Bool.or_self]
  have hnext : startsNext s id c = true := by
    simp only [startsNext, hcopies, List.all_cons, List.all_nil, Nat.le_refl, decide_true, Bool.or_true, Bool.true_or, Bool.and_true]
  have hroom : boardRoom s [c] = true := by
    have hused : ∀ core, boardUsed s core = 0 := by
      intro core
      simp only [boardUsed, hcopies, List.filter_cons, hstarted, Bool.false_eq_true, if_false, List.filter_nil, List.flatMap_nil, List.length_nil]
    simp only [boardRoom, hused, List.flatMap_cons, List.flatMap_nil, List.append_nil, List.all_eq_true, decide_eq_true_eq]
    intro core _
    refine (Nat.zero_add _).trans_le (List.count_le_length.trans ?_)
    simpa using hspans
  have hordered : copyOrdered s c = true := by
    unfold copyOrdered
    split
    · rename_i w hw
      exact List.all_eq_true.2 fun e he => by rw [hearlier w hw e he]; rfl
    · rfl
  have hsource : sourceFree s c.core c.pages = true := by simp only [sourceFree, hclean, List.all_nil]
  have hblock : blockIn s c = true := by simp only [blockIn, bne_iff_ne.2 hform, Bool.true_or]
  simp only [copyReady, hlook, hgroup, hstarted, haside, hnext, hordered, hsource, hblock, List.map_cons, List.map_nil, hroom, List.all_cons,
    List.all_nil, Bool.not_false, Bool.and_self]

/-! ## What the start leaves -/

/-- No dirty S byte of the core: nothing is written through. -/
theorem flushSource_clean {s : State} {core : Nat} (h : dirtyLines s.mem core = []) (reads : List Nat) (pages : Map PageAt) :
    flushSource s core reads pages = s := by
  simp only [flushSource, h, List.foldl_nil]

/-- The slot of a starting copy claimed (R257). -/
def claimSlot (s : State) (c : Copy) : State :=
  match c.cb with
  | some (i, j) => mapCbuf s c.blk i fun q => q.setSlot j { q.slot j with st := .claimed }
  | none => s

/-- The block of a starting CPYB fetched back (14_plot_units R323). -/
def fetchBlock (s : State) (tick : Nat) (c : Copy) : State :=
  if c.form = 6 then mapBs s (handleKey (c.word 0)) fun b => { b with spilled := false, used := tick } else s

/-- The messages of a starting CPYM sent (R236). -/
def sendSectors (s : State) (id : Nat) (c : Copy) : State :=
  if c.form = 4 then
    (s.posts (cpymMsgs id c (((s.wave c.wave).map Wave.nextMsg).getD 0))).mapWave c.wave fun w =>
      { w with nextMsg := w.nextMsg + c.targets.length * (c.perTarget + 1) }
  else s

/-- A copy marked as started, its source written through. -/
def markStarted (s : State) (id : Nat) (c : Copy) : State :=
  let s1 := flushSource s c.core c.reads c.pages
  { s1 with work := { s1.work with copies := s1.work.copies.put id { c with started := true } } }

theorem markStarted_mem {s : State} {c : Copy} (hclean : dirtyLines s.mem c.core = []) (id : Nat) : (markStarted s id c).mem = s.mem := by
  unfold markStarted
  rw [flushSource_clean hclean]

/-- A copy starts by these steps. -/
theorem startOne_eq (s : State) (id : Nat) (c : Copy) :
    startOne s (id, c) = sendSectors (fetchBlock (claimSlot (markStarted s id c) c) s.tick c) id c := by
  unfold startOne sendSectors fetchBlock claimSlot markStarted
  rfl

/-! ### The steps, one by one -/

theorem sendSectors_frame (s : State) (id : Nat) (c : Copy) :
    (sendSectors s id c).ctxs = s.ctxs ∧ (sendSectors s id c).mem = s.mem ∧ (sendSectors s id c).base = s.base ∧
      (sendSectors s id c).work.copies = s.work.copies ∧ (sendSectors s id c).work.blocks = s.work.blocks := by
  unfold sendSectors
  split <;> exact ⟨rfl, rfl, rfl, rfl, rfl⟩

theorem fetchBlock_frame (s : State) (tick : Nat) (c : Copy) :
    (fetchBlock s tick c).ctxs = s.ctxs ∧ (fetchBlock s tick c).mem = s.mem ∧ (fetchBlock s tick c).work = s.work := by
  unfold fetchBlock
  split <;> exact ⟨rfl, rfl, rfl⟩

theorem claimSlot_frame (s : State) (c : Copy) :
    (claimSlot s c).ctxs = s.ctxs ∧ (claimSlot s c).mem = s.mem ∧ (claimSlot s c).base = s.base ∧ (claimSlot s c).work.copies = s.work.copies := by
  unfold claimSlot
  split <;> exact ⟨rfl, rfl, rfl, rfl⟩

theorem claimSlot_claimed {s : State} {c : Copy} {i j : Nat} {b : Block} (hcb : c.cb = some (i, j)) (hb : s.block c.blk = some b)
    (hi : i < b.cbufs.length) (hj : j < (b.cbufs.getD i Cbuf.empty).slots.length) :
    ((cbufOf (claimSlot s c) c.blk i).slot j).st = .claimed := by
  have hblock : (claimSlot s c).block c.blk =
      some { b with cbufs := b.cbufs.modify i fun q => q.setSlot j { q.slot j with st := .claimed } } := by
    unfold claimSlot
    rw [hcb]
    exact (State.block_mapBlock ..).trans (by rw [if_pos rfl, hb]; rfl)
  rw [List.getD_eq_getElem _ _ hi] at hj
  simp [cbufOf, hblock, Cbuf.slot, Cbuf.setSlot, hi, hj]

theorem fetchBlock_fetched {s : State} {tick : Nat} {c : Copy} {b : BsBlock} (hform : c.form = 6)
    (hb : s.base.blocks.look (handleKey (c.word 0)) = some b) :
    (fetchBlock s tick c).base.blocks.look (handleKey (c.word 0)) = some { b with spilled := false, used := tick } := by
  unfold fetchBlock
  rw [if_pos hform]
  exact (Map.look_modify ..).trans (by rw [if_pos rfl, hb]; rfl)

/-- Each sector of each target of a CPYM has its message (R236). -/
theorem sector_mem_cpymMsgs {id msg : Nat} {c : Copy} {n j : Nat} {q : Nat × Nat × Nat} (hq : c.targets[n]? = some q) (hj : j < c.word 4 / 32) :
    ∃ m, Ev.remoteMessage m ∈ cpymMsgs id c msg ∧ m.wave = c.wave ∧ m.blk = q.1 ∧ m.gen = q.2.1 ∧ m.core = q.2.2 ∧ m.off = c.word 2 + 32 * j ∧
      m.op = .sector id (n * (c.word 4 / 32) + j) := by
  obtain ⟨hn, hget⟩ := List.getElem?_eq_some_iff.1 hq
  have hzip : (n, q) ∈ (List.range c.targets.length).zip c.targets :=
    List.mem_iff_getElem.2 ⟨n, by simpa using hn, by simp [hget]⟩
  refine ⟨_, List.mem_flatMap.2 ⟨_, hzip, List.mem_append_right _ (List.mem_map_of_mem (List.mem_range.2 hj))⟩, rfl, rfl, rfl, rfl, rfl, rfl⟩

theorem sendSectors_sent {s : State} {id : Nat} {c : Copy} (hform : c.form = 4) {n j : Nat} {q : Nat × Nat × Nat} (hq : c.targets[n]? = some q)
    (hj : j < c.word 4 / 32) :
    ∃ m, Ev.remoteMessage m ∈ (sendSectors s id c).pending ∧ m.wave = c.wave ∧ m.blk = q.1 ∧ m.gen = q.2.1 ∧ m.core = q.2.2 ∧
      m.off = c.word 2 + 32 * j ∧ m.op = .sector id (n * (c.word 4 / 32) + j) := by
  obtain ⟨m, hm, hrest⟩ := sector_mem_cpymMsgs (id := id) (msg := ((s.wave c.wave).map Wave.nextMsg).getD 0) hq hj
  refine ⟨m, ?_, hrest⟩
  unfold sendSectors
  rw [if_pos hform]
  exact List.mem_append_right _ hm

/-- COPY_START of a copy that is alone in its group, whose spilled block holds no poison (R231). -/
theorem copyStart_eq {s : State} {id : Nat} {c : Copy} (hc : s.work.copies.look id = some c) (hready : copyReady s id = true) (hcoll : c.coll = none)
    (hpoison : c.form = 6 → ∀ b, s.base.blocks.look (handleKey (c.word 0)) = some b → b.spilled = true → b.poisoned = []) :
    exec (.copyStart id) s = .next (startOne (withPending s (s.pending.erase (.copyStart id))) (id, c)) := by
  have hnone : blockPoison s c = none := by
    unfold blockPoison
    split
    · rename_i hform
      cases hb : s.base.blocks.look (handleKey (c.word 0)) with
      | none => rfl
      | some b =>
        simp only [Option.bind_some, spilledPoison]
        rw [if_neg]
        intro h
        obtain ⟨hspilled, hsome⟩ := Bool.and_eq_true_iff.1 h
        rw [hpoison hform b hb hspilled] at hsome
        cases hsome
    · rfl
  refine (show exec (.copyStart id) s = execCopyStart id s from rfl).trans ((runEvent_due hready _).trans ?_)
  have hc' : (withPending s (s.pending.erase (.copyStart id))).work.copies.look id = some c := hc
  have hnone' : blockPoison (withPending s (s.pending.erase (.copyStart id))) c = none := hnone
  simp only [hc', hnone', guardFrame, sliceGroup, hcoll, List.foldl_cons, List.foldl_nil]

/-- What COPY_START leaves (R231, R236, R257). -/
theorem copyStart_effect {s : State} {id : Nat} {c : Copy} (hc : s.work.copies.look id = some c) (hready : copyReady s id = true)
    (hcoll : c.coll = none)
    (hpoison : c.form = 6 → ∀ b, s.base.blocks.look (handleKey (c.word 0)) = some b → b.spilled = true → b.poisoned = []) :
    ∃ t, exec (.copyStart id) s = .next t ∧ t.work.copies.look id = some { c with started := true } ∧
      (∀ n, n ≠ id → t.work.copies.look n = s.work.copies.look n) ∧ t.ctxs = s.ctxs ∧ (dirtyLines s.mem c.core = [] → t.mem = s.mem) ∧
      (∀ i j b, c.cb = some (i, j) → s.block c.blk = some b → i < b.cbufs.length → j < (b.cbufs.getD i Cbuf.empty).slots.length →
        ((cbufOf t c.blk i).slot j).st = .claimed) ∧
      (c.form = 4 → ∀ n q, c.targets[n]? = some q → ∀ j < c.word 4 / 32, ∃ m, Ev.remoteMessage m ∈ t.pending ∧ m.wave = c.wave ∧
        m.blk = q.1 ∧ m.gen = q.2.1 ∧ m.core = q.2.2 ∧ m.off = c.word 2 + 32 * j ∧ m.op = .sector id (n * (c.word 4 / 32) + j)) ∧
      (c.form = 6 → ∀ b, s.base.blocks.look (handleKey (c.word 0)) = some b →
        t.base.blocks.look (handleKey (c.word 0)) = some { b with spilled := false, used := s.tick }) := by
  have hex := copyStart_eq hc hready hcoll hpoison
  generalize hs0 : withPending s (s.pending.erase (.copyStart id)) = s0 at hex
  rw [startOne_eq] at hex
  obtain ⟨ctxs4, mem4, base4, copies4, blocks4⟩ := sendSectors_frame (fetchBlock (claimSlot (markStarted s0 id c) c) s0.tick c) id c
  obtain ⟨ctxs3, mem3, work3⟩ := fetchBlock_frame (claimSlot (markStarted s0 id c) c) s0.tick c
  obtain ⟨ctxs2, mem2, base2, copies2⟩ := claimSlot_frame (markStarted s0 id c) c
  have hcopies : (markStarted s0 id c).work.copies = s.work.copies.put id { c with started := true } := by subst hs0; rfl
  refine ⟨_, hex, ?_, fun n hn => ?_, ?_, fun hclean => ?_, fun i j b hcb hb hi hj => ?_, fun hform n q hq j hj => sendSectors_sent hform hq hj,
    fun hform b hb => ?_⟩
  · rw [copies4, work3, copies2, hcopies, Map.look_put_self]
  · rw [copies4, work3, copies2, hcopies, Map.look_put, if_neg hn]
  · rw [ctxs4, ctxs3, ctxs2]
    subst hs0; rfl
  · rw [mem4, mem3, mem2]
    subst hs0
    exact markStarted_mem (s := withPending s _) hclean id
  · have hclaim := claimSlot_claimed (s := markStarted s0 id c) hcb (by subst hs0; exact hb) hi hj
    have hblock : ∀ u : State, u.work.blocks = (claimSlot (markStarted s0 id c) c).work.blocks →
        cbufOf u c.blk i = cbufOf (claimSlot (markStarted s0 id c) c) c.blk i := by
      intro u hu
      simp only [cbufOf, State.block, hu]
    rw [hblock _ (by rw [blocks4, work3])]
    exact hclaim
  · rw [base4]
    have h := fetchBlock_fetched (s := claimSlot (markStarted s0 id c) c) (tick := s0.tick) hform (b := b) (by rw [base2]; subst hs0; exact hb)
    subst hs0
    exact h

/-! ## A sector lands in scratchpad -/

section
variable {s : State} {id j : Nat} {c : Copy}

/-- The offset of a place in scratchpad. -/
def spmOffset : Loc → Nat
  | .spm off => off
  | _ => 0

theorem mem_sectorBytes_self (j : Nat) : 32 * j ∈ sectorBytes j := List.mem_map.2 ⟨0, by simp, rfl⟩

/-- The reads of a sector's source use cells of surfaces at most (13_raster R285). -/
theorem locTouch_base (s : State) (c : Copy) (l : Loc) : ∃ base, locTouch s c l = { s with base := base } := by
  cases l <;> exact ⟨_, rfl⟩

/-- A fold whose function changes nothing at the listed elements. -/
theorem foldl_of_fixed {α β : Type} {f : β → α → β} {xs : List α} {b : β} (h : ∀ y, ∀ x ∈ xs, f y x = y) : xs.foldl f b = b :=
  (List.foldl_ext f (fun y _ => y) b h).trans (List.foldl_fixed xs)

theorem clearCells_of_spm {k : Nat} (hdst : ∀ i ∈ sectorBytes k, ∃ off, copyDst s c i = .spm off) : clearCells s c k = s := by
  refine foldl_of_fixed fun t i hi => ?_
  obtain ⟨off, h⟩ := hdst i hi
  rw [h]

/-- The bytes of a sector with their places, as they are written (R229). -/
def spmWrites (s : State) (c : Copy) (k : Nat) : List (Nat × Nat × Byte × Bool) :=
  (sectorBytes k).map fun i => (i, spmOffset (copyDst s c i), locByte s c (copySrc s c i), locPoisoned s c (copySrc s c i))

theorem copyDst_eq_spm (hdst : ∀ i ∈ sectorBytes j, ∃ off, copyDst s c i = .spm off) {i : Nat} (hi : i ∈ sectorBytes j) :
    copyDst s c i = .spm (spmOffset (copyDst s c i)) := by
  obtain ⟨off, h⟩ := hdst i hi
  rw [h]
  rfl

/-- A sector to scratchpad, from a source without poison, is a write of its bytes one after another. -/
theorem writeSector_eq (hdst : ∀ i ∈ sectorBytes j, ∃ off, copyDst s c i = .spm off)
    (hclean : ∀ i ∈ sectorBytes j, locPoisoned s c (copySrc s c i) = false) :
    ∃ base, writeSector s c j = (spmWrites s c j).foldl (fun s q => locWrite s c q.2.2.1 q.2.2.2 (.spm q.2.1)) { s with base := base } := by
  have htouch : ∀ (s : State) (i : Nat), ∃ base, locTouch s c (copySrc s c i) = { s with base := base } := fun s i => locTouch_base s c _
  obtain ⟨base, hbase⟩ := foldBase (fun s i => locTouch s c (copySrc s c i)) htouch (sectorBytes j) s
  have hpoison : (sectorBytes j).find? (fun i => locPoisoned s c (copySrc s c i)) = none :=
    List.find?_eq_none.2 fun i hi => by rw [hclean i hi]; exact Bool.false_ne_true
  refine ⟨base, ?_⟩
  unfold writeSector spmWrites
  simp only [clearCells_of_spm hdst, hbase, hpoison, List.foldl_map]
  refine List.foldl_ext _ _ _ fun t i hi => ?_
  simp only [sectorByte, ← copyDst_eq_spm hdst hi]
  obtain ⟨off, h⟩ := hdst i hi
  simp only [h, overlaps, Bool.false_eq_true, if_false]

/-- A sector without poison to places of the scratchpad that differ leaves its source's bytes there and every other byte as it was (R229, R232). -/
theorem writeSector_spm (hn : NoTiles s) (ho : OnCore s c.blk) (hdst : ∀ i ∈ sectorBytes j, ∃ off, copyDst s c i = .spm off)
    (hinj : ∀ i ∈ sectorBytes j, ∀ n ∈ sectorBytes j, copyDst s c i = copyDst s c n → i = n)
    (hclean : ∀ i ∈ sectorBytes j, locPoisoned s c (copySrc s c i) = false) :
    let t := writeSector s c j
    (∀ i ∈ sectorBytes j, ∀ a, copyDst s c i = .spm a → spmAt t c.blk a = locByte s c (copySrc s c i)) ∧
      (∀ a, (¬ ∃ i ∈ sectorBytes j, copyDst s c i = .spm a) → spmAt t c.blk a = spmAt s c.blk a) ∧ NoTiles t ∧ OnCore t c.blk ∧
      ∃ base bs, t = { s with base := base, work := { s.work with blocks := bs } } := by
  obtain ⟨base, heq⟩ := writeSector_eq hdst hclean
  have hnodup : ((spmWrites s c j).map fun q => q.2.1).Nodup := by
    unfold spmWrites
    rw [List.map_map]
    refine List.Nodup.map_on (fun i hi n hnn h => hinj i hi n hnn ?_) ?_
    · rw [copyDst_eq_spm hdst hi, copyDst_eq_spm hdst hnn]
      exact congrArg Loc.spm h
    · exact List.Nodup.map (fun a b h => Nat.add_left_cancel h) List.nodup_range
  obtain ⟨hin, hout, hn', ho', bs, ht⟩ := foldWrites c (spmWrites s c j) { s with base := base } hn ho hnodup
  rw [← heq] at hin hout hn' ho' ht
  refine ⟨fun i hi a ha => ?_, fun a ha => hout a fun q hq he => ?_, hn', ho', base, bs, ht⟩
  · have h := hin _ (List.mem_map_of_mem hi)
    simpa only [ha, spmOffset] using h
  · obtain ⟨i, hi, rfl⟩ := List.mem_map.1 hq
    refine ha ⟨i, hi, ?_⟩
    rw [copyDst_eq_spm hdst hi]
    exact congrArg Loc.spm he

/-- A copy whose bytes go to scratchpad is no CPYP (R240). -/
theorem form_ne_three (hdst : ∀ i ∈ sectorBytes j, ∃ off, copyDst s c i = .spm off) : c.form ≠ 3 := by
  intro hform
  obtain ⟨off, h⟩ := hdst _ (mem_sectorBytes_self j)
  simp only [copyDst, hform, reduceCtorEq] at h

/-- SECTOR_LAND of a sector that goes to no peer: it is written and settled (R229, R234). -/
theorem sectorLand_eq (hc : s.work.copies.look id = some c) (hready : sectorReady s c j = true) (hpeer : sectorPeer c j = none) :
    exec (.sectorLand id j) s =
      .next (settleSector (writeSector (withPending s (s.pending.erase (.sectorLand id j))) c j) id j c) := by
  have hdue : ((s.work.copies.look id).map fun c => sectorReady s c j).getD false = true := by rw [hc]; exact hready
  refine (show exec (.sectorLand id j) s = execSectorLand id j s from rfl).trans ((runEvent_due hdue _).trans ?_)
  have hc' : (withPending s (s.pending.erase (.sectorLand id j))).work.copies.look id = some c := hc
  simp only [hc', landSector, hpeer]

/-- What SECTOR_LAND leaves of a sector to scratchpad: its source's bytes at their places, its object credited, and at the last sector the copy gone
and its operation done (R229, R231, R234, R245). -/
theorem sectorLand_effect (hc : s.work.copies.look id = some c) (hready : sectorReady s c j = true) (hpeer : sectorPeer c j = none) (hn : NoTiles s)
    (ho : OnCore s c.blk) (hdst : ∀ i ∈ sectorBytes j, ∃ off, copyDst s c i = .spm off)
    (hinj : ∀ i ∈ sectorBytes j, ∀ n ∈ sectorBytes j, copyDst s c i = copyDst s c n → i = n)
    (hclean : ∀ i ∈ sectorBytes j, locPoisoned s c (copySrc s c i) = false) (hbar : ∀ o, c.bar = some o → ∃ off, o = .spm c.blk off) :
    let lands (a : Nat) : Prop := ∃ i ∈ sectorBytes j, copyDst s c i = .spm a
    let barred (a : Nat) : Prop := ∃ o, c.bar = some (.spm c.blk o) ∧ o ≤ a ∧ a < o + 16
    ∃ t, exec (.sectorLand id j) s = .next t ∧
      (∀ i ∈ sectorBytes j, ∀ a, copyDst s c i = .spm a → ¬ barred a → spmAt t c.blk a = locByte s c (copySrc s c i)) ∧
      (∀ a, ¬ lands a → ¬ barred a → spmAt t c.blk a = spmAt s c.blk a) ∧
      (∀ o, c.bar = some (.spm c.blk o) → (∀ a, lands a → ¬ barred a) → objAt t c.blk o = (barStep (objAt s c.blk o) (.credit 1)).1) ∧
      (c.left.erase j ≠ [] → t.work.copies.look id = some { c with left := c.left.erase j }) ∧
      (c.left.erase j = [] → t.work.copies.look id = none ∧
        ∀ w, s.wave c.wave = some w → ∃ v, t.wave c.wave = some v ∧
          v.ops = w.ops.map fun o => if o.id = c.op then { o with done := true } else o) := by
  intro lands barred
  obtain ⟨hin, hout, hn1, ho1, base, bs, hs1⟩ :=
    writeSector_spm (s := withPending s (s.pending.erase (.sectorLand id j))) hn ho hdst hinj hclean
  have hex := sectorLand_eq hc hready hpeer
  generalize writeSector (withPending s (s.pending.erase (.sectorLand id j))) c j = s1 at hex hin hout hn1 ho1 hs1
  have hc1 : s1.work.copies.look id = some c := by rw [hs1]; exact hc
  have hwave : s1.wave c.wave = s.wave c.wave := by rw [hs1]; rfl
  obtain ⟨hspm, hobj, hlook, hops⟩ := settle s1 id j c hc1 (form_ne_three hdst) hn1 ho1 hbar
  refine ⟨_, hex, fun i hi a ha hb => (hspm a hb).trans (hin i hi a ha), fun a ha hb => (hspm a hb).trans (hout a ha), fun o hco hdis => ?_,
    fun hne => by rw [hlook, if_neg hne], fun he => ⟨by rw [hlook, if_pos he], fun w hw => hops he w (hwave.trans hw)⟩⟩
  have hkept : ∀ a, o ≤ a → a < o + 16 → spmAt s1 c.blk a = spmAt s c.blk a :=
    fun a hlo hhi => hout a fun hl => hdis a hl ⟨o, hco, hlo, hhi⟩
  rw [hobj o hco, objAt_congr hkept]

/-- The bytes of a CPY from memory to scratchpad (R236). -/
theorem copySrc_copyDst_of_cpy (hform : c.form = 0) (hdir : c.word 5 % 4 = 0) (i : Nat) :
    copySrc s c i = .mem (c.dword 0 + i) ∧ copyDst s c i = .spm (c.base s + c.word 2 + i) := by
  simp only [copySrc, copyDst, hform, hdir, if_true, Nat.zero_ne_one, if_false, and_self]

end

end Sys2Proof.UnitCopies
end

section
/-! PROOF. Barrier objects take updates from waves and from other agents, and answer and release the fibres that wait for them (11_async_copies R244
to R252). -/

namespace Sys2Proof.UnitBarriers

open Machine MemorySteps

/-! ## Updates by agents that are no wave -/

/-- An update by no wave is performed where its object's place takes it (R244). -/
theorem barrierUpdate_eq {s : State} {o : BarObj} {upd : BarUpd} (hpending : Ev.barrierUpdate none o upd ∈ s.pending) (hfree : objFree s o = true) :
    exec (.barrierUpdate none o upd) s = .next (updateObj (withPending s (s.pending.erase (.barrierUpdate none o upd))) o upd).1 := by
  have hdue : (s.pending.contains (.barrierUpdate none o upd) && objFree s o && true) = true := by
    rw [List.contains_iff_mem.2 hpending, hfree]; rfl
  exact (show exec (.barrierUpdate none o upd) s = execBarrierUpdate none o upd s from rfl).trans (runEvent_due hdue _)

/-- An update of an object in a scratchpad: its fields change, nothing else there does, and the waves whose fibres it answers are notified (R245,
R250). -/
theorem barrierUpdate_spm {s : State} {blk off : Nat} {upd : BarUpd} (hinit : ∀ e, upd = .init e → e < 2 ^ 14)
    (hpending : Ev.barrierUpdate none (.spm blk off) upd ∈ s.pending) (hn : NoTiles s) (ho : OnCore s blk) :
    ∃ t, exec (.barrierUpdate none (.spm blk off) upd) s = .next t ∧ objAt t blk off = (barStep (objAt s blk off) upd).1 ∧
      (∀ a, (a < off ∨ off + 16 ≤ a) → spmAt t blk a = spmAt s blk a) ∧ t.mem = s.mem ∧
      (∀ j w, s.wave j = some w → ∃ v, t.wave j = some v ∧ v.ops = w.ops ∧ v.vregs = w.vregs) ∧
      ((barStep (objAt s blk off) upd).2.1 = true → ∀ k w l f q ph, s.wave k = some w → (l, f) ∈ w.fibres → f.park = some q →
        q.kind = .bwait (.spm blk off) ph → ph < 16 → ph ≠ (barStep (objAt s blk off) upd).1.phase →
        Ev.bwaitRelease k (.spm blk off) ∈ t.pending) := by
  obtain ⟨hobj, hout, -, -, hmem, -, -, hwave, -, -⟩ :=
    updateObj_spm (s := withPending s (s.pending.erase (.barrierUpdate none (.spm blk off) upd))) (off := off) hn ho upd hinit
  refine ⟨_, barrierUpdate_eq hpending rfl, hobj, hout, hmem, fun j w hw => ?_,
    updateObj_posts (s := withPending s (s.pending.erase (.barrierUpdate none (.spm blk off) upd))) upd hn ho⟩
  obtain ⟨v, hv, ev⟩ := hwave j w hw
  exact ⟨v, hv, by rw [ev], by rw [ev]⟩

/-- An update of an object of device memory is a write of its line's home slice (R244). -/
theorem barrierUpdate_line {s : State} {pa va : Nat} {key : Option Nat} {upd : BarUpd}
    (hpending : Ev.barrierUpdate none (.line 0 pa key va) upd ∈ s.pending) (hfree : lineFree s.mem (lineOf pa) = true) :
    ∃ t, exec (.barrierUpdate none (.line 0 pa key va) upd) s = .next t ∧
      t.mem = devWrite s.mem key pa (leBytes (barBits (barStep (objMem s.mem key pa) upd).1) 16) ∧ t.work.blocks = s.work.blocks := by
  obtain ⟨hmem, hblocks, -⟩ :=
    updateObj_line (withPending s (s.pending.erase (.barrierUpdate none (.line 0 pa key va) upd))) pa va key upd
  exact ⟨_, barrierUpdate_eq hpending hfree, hmem, hblocks⟩

/-! ## Updates by waves -/

/-- Before an operation that releases, the core's dirty S bytes are written through (08_memory_spaces R172). -/
theorem beforeRelease_eq {s t : State} {core : Nat} {o : MemOp} (h : (beforeRelease s core o).isSome = true) (ht : t.mem = s.mem) :
    beforeRelease t core o = some { t with mem := if o.releases = true then releaseBytes s.mem core else s.mem } := by
  unfold beforeRelease at h ⊢
  split at h
  · rename_i hrel
    split at h
    · rename_i hfree
      rw [if_pos hrel, ht, if_pos hfree, if_pos hrel]
    · cases h
  · rename_i hrel
    rw [if_neg hrel, if_neg hrel, ← ht]

/-- A wave whose operation has been dropped keeps no operation of its number. -/
theorem ops_dropOp {s : State} {k id : Nat} {v : Wave} (h : (s.mapWave k fun w => w.dropOp id).wave k = some v) : ∀ e ∈ v.ops, e.id ≠ id := by
  rw [State.wave_mapWave, if_pos rfl] at h
  obtain ⟨w, -, rfl⟩ := Option.map_eq_some_iff.1 h
  intro e he
  simpa using (List.mem_filter.1 he).2

section
variable {s : State} {k pa va : Nat} {key : Option Nat} {upd : BarUpd} {w : Wave} {p : MemOp}

theorem waveUpdate_eq (hp : barOp s k (.line 0 pa key va) upd = some (w, p)) {s1 : State} (hs1 : (beforeRelease s (coreOf s w) p).getD s = s1) :
    waveUpdate s k (.line 0 pa key va) upd =
      let r := updateObj s1 (.line 0 pa key va) upd
      let s2 := r.1.mapWave k fun w => w.dropOp p.id
      reapWave (if r.2 then s2.post (.barrierOverrunReport k va) else s2) k := by
  subst hs1
  unfold waveUpdate
  rw [hp]
  rfl

/-- An update by a wave of an object of device memory: a release first, then the write of its line; its operation is gone, and an arrival that
finds A = 0 is reported (R244, R245, R249). -/
theorem barrierUpdate_wave (hpending : Ev.barrierUpdate (some k) (.line 0 pa key va) upd ∈ s.pending) (hfree : lineFree s.mem (lineOf pa) = true)
    (hready : barOpReady s k (.line 0 pa key va) upd = true) (hp : barOp s k (.line 0 pa key va) upd = some (w, p)) :
    let m := if p.releases = true then releaseBytes s.mem (coreOf s w) else s.mem
    ∃ t, exec (.barrierUpdate (some k) (.line 0 pa key va) upd) s = .next t ∧
      t.mem = devWrite m key pa (leBytes (barBits (barStep (objMem m key pa) upd).1) 16) ∧
      (∀ v, t.wave k = some v → ∀ e ∈ v.ops, e.id ≠ p.id) ∧
      ((barStep (objMem m key pa) upd).2.2 = true → Ev.barrierOverrunReport k va ∈ t.pending) := by
  intro m
  have hdue : (s.pending.contains (.barrierUpdate (some k) (.line 0 pa key va) upd) && objFree s (.line 0 pa key va) &&
      barOpReady s k (.line 0 pa key va) upd) = true := by
    rw [List.contains_iff_mem.2 hpending, hready, show objFree s (.line 0 pa key va) = lineFree s.mem (lineOf pa) from rfl, hfree]; rfl
  have hrel : (beforeRelease s (coreOf s w) p).isSome = true := by
    simp only [barOpReady, hp, Bool.and_eq_true] at hready
    exact hready.1.2
  let s0 := withPending s (s.pending.erase (.barrierUpdate (some k) (.line 0 pa key va) upd))
  have hs1 : (beforeRelease s0 (coreOf s0 w) p).getD s0 = { s0 with mem := m } := by
    rw [show coreOf s0 w = coreOf s w from rfl, beforeRelease_eq (t := s0) hrel rfl]
    rfl
  have hex : exec (.barrierUpdate (some k) (.line 0 pa key va) upd) s = .next (waveUpdate s0 k (.line 0 pa key va) upd) :=
    (show exec (.barrierUpdate (some k) (.line 0 pa key va) upd) s = execBarrierUpdate (some k) (.line 0 pa key va) upd s from rfl).trans
      (runEvent_due hdue _)
  rw [waveUpdate_eq (s := s0) hp hs1] at hex
  obtain ⟨hmem, -, -, hover, -⟩ := updateObj_line { s0 with mem := m } pa va key upd
  generalize updateObj { s0 with mem := m } (.line 0 pa key va) upd = r at hex hmem hover
  obtain ⟨hrmem, -, hrwave, hrpending⟩ := reapWave_frame
    (if r.2 then (r.1.mapWave k fun w => w.dropOp p.id).post (.barrierOverrunReport k va) else r.1.mapWave k fun w => w.dropOp p.id) k
  refine ⟨_, hex, ?_, fun v hv => ?_, fun hzero => ?_⟩
  · refine (hrmem.trans ?_).trans hmem
    split <;> rfl
  · refine ops_dropOp (s := r.1) (k := k) ?_
    have h := hrwave v hv
    split at h <;> exact h
  · refine hrpending _ ?_ rfl
    rw [hover.trans hzero, if_pos rfl]
    exact List.mem_append_right _ (List.mem_singleton_self _)

end

/-! ## Requests of remote waiters -/

/-- What a change of a wave's fibres leaves: all but its fibres and its loops, and each fibre outside the listed lane slots; none comes or goes. -/
structure FibresOnly (w v : Wave) (ls : List Nat) : Prop where
  moved : Moved w v
  out : ∀ l, l ∉ ls → v.fibres.look l = w.fibres.look l
  live : ∀ l, (v.fibres.look l).isSome = (w.fibres.look l).isSome

theorem FibresOnly.trans {a b c : Wave} {ls ms : List Nat} (h1 : FibresOnly a b ls) (h2 : FibresOnly b c ms) : FibresOnly a c (ls ++ ms) :=
  ⟨h1.moved.trans h2.moved,
    fun l hl => (h2.out l fun h => hl (List.mem_append_right _ h)).trans (h1.out l fun h => hl (List.mem_append_left _ h)),
    fun l => (h2.live l).trans (h1.live l)⟩

theorem FibresOnly.some {w v : Wave} {ls : List Nat} (h : FibresOnly w v ls) {l : Nat} {f : Fibre} (hf : w.fibres.look l = some f) :
    ∃ g, v.fibres.look l = some g :=
  Option.isSome_iff_exists.1 (by rw [h.live, hf]; rfl)

theorem Sent.fibresOnly {w v : Wave} {ls : List Nat} (h : Sent w v ls) : FibresOnly w v ls := ⟨h.moved, h.out, h.live⟩

/-- A map of the fibres in some lane slots. -/
theorem foldMap_fibresOnly (ls : List Nat) (f : Fibre → Fibre) (w : Wave) : FibresOnly w (ls.foldl (fun w l => w.mapFibre l f) w) ls := by
  obtain ⟨hmoved, -, hout, -, -, hlive⟩ := look_fold ls f w
  exact ⟨hmoved, hout, hlive⟩

/-- A property that the map keeps is kept in every fibre. -/
theorem foldMap_keeps (ls : List Nat) (f : Fibre → Fibre) (w : Wave) {P : Fibre → Prop} (hP : ∀ x, P x → P (f x)) (l : Nat)
    (h : ∀ x, w.fibres.look l = some x → P x) : ∀ x, (ls.foldl (fun w l => w.mapFibre l f) w).fibres.look l = some x → P x := by
  obtain ⟨-, -, -, hkeep, -, -⟩ := look_fold ls f w
  exact hkeep P hP l h

/-- A property that the map gives holds in the fibres that it maps. -/
theorem foldMap_gives (ls : List Nat) (f : Fibre → Fibre) (w : Wave) {P : Fibre → Prop} (hP : ∀ x, P (f x)) {l : Nat} (hl : l ∈ ls) :
    ∀ x, (ls.foldl (fun w l => w.mapFibre l f) w).fibres.look l = some x → P x := by
  obtain ⟨-, -, -, -, hgive, -⟩ := look_fold ls f w
  exact hgive P hP l hl

/-- Fibres answered behind a handler keep what does not speak of their shadow. -/
theorem answerBehind_keeps (bs : List Nat) (w : Wave) {P : Fibre → Prop} (hP : ∀ x sh, P x → P { x with shadow := sh }) (l : Nat)
    (h : ∀ x, w.fibres.look l = some x → P x) : ∀ x, (bs.foldl answerBehind w).fibres.look l = some x → P x :=
  foldMap_keeps bs _ w (fun _ hx => hP _ _ hx) l h

theorem answerBehind_fibresOnly (bs : List Nat) (w : Wave) : FibresOnly w (bs.foldl answerBehind w) bs := foldMap_fibresOnly bs _ w

/-- A fibre of a request waits at its object (R250). -/
theorem asking_parked {w : Wave} {lanes ph l : Nat} {o : BarObj} {test : Option PReg} (hnd : (w.fibres.map Prod.fst).Nodup)
    (hl : l ∈ asking w lanes o ph test) : ∃ f q, w.fibres.look l = some f ∧ f.park = some q ∧ q.kind = askPark o ph test := by
  obtain ⟨⟨m, f⟩, hmem, rfl⟩ := List.mem_map.1 (List.mem_filter.1 hl).1
  obtain ⟨hfib, hasks⟩ := List.mem_filter.1 hmem
  obtain ⟨q, hq, hkind⟩ := Option.map_eq_some_iff.1 (beq_iff_eq.1 hasks)
  exact ⟨f, q, look_of_mem hnd hfib, hq, hkind⟩

/-- A fibre waits at an object, whatever its operand. -/
def WaitsAt (o : BarObj) (x : Fibre) : Prop := ∃ q n, x.park = some q ∧ q.kind = .bwait o n

/-- A fibre that waits at an object waits with an operand. -/
def OperandIs (ph : Nat) (x : Fibre) : Prop := ∀ q b n, x.park = some q → q.kind = .bwait b n → n = ph

section
variable {w : Wave} {ls bs : List Nat} {o : BarObj} {ph : Nat}

/-- A BWAIT whose phase differs: its fibres go on (R250). -/
theorem released_answer (hparked : ∀ l ∈ ls, ∃ f q, w.fibres.look l = some f ∧ f.park = some q) :
    let v := bs.foldl answerBehind (releaseLanes w ls)
    FibresOnly w v (ls ++ bs) ∧ ∀ l ∈ ls, ∃ f, v.fibres.look l = some f ∧ f.park = none := by
  intro v
  obtain ⟨hsent, hnone⟩ := releaseLanes_sent w ls hparked fun l _ f hf => Map.mem_of_look _ _ _ hf
  have hfib : FibresOnly w v (ls ++ bs) := (Sent.fibresOnly hsent).trans (answerBehind_fibresOnly bs _)
  refine ⟨hfib, fun l hl => ?_⟩
  obtain ⟨f, q, hf, -⟩ := hparked l hl
  obtain ⟨g, hg⟩ := hfib.some hf
  exact ⟨g, hg, answerBehind_keeps bs _ (P := fun x => x.park = none) (fun _ _ h => h) l (hnone l hl) g hg⟩

/-- A BTEST: its fibres take their predicate and go on (R248, R250). -/
theorem tested_answer (hparked : ∀ l ∈ ls, ∃ f q, w.fibres.look l = some f ∧ f.park = some q) (p : PReg) (hit : Bool) :
    let v := bs.foldl answerBehind
      (bs.foldl (fun w l => w.mapFibre l (Fibre.shadowPred p hit)) (releaseLanes (setPreds w ls p hit) ls))
    FibresOnly w v ((ls ++ ls) ++ bs ++ bs) ∧
      ∀ l ∈ ls, ∃ f, v.fibres.look l = some f ∧ f.park = none ∧ (p ≠ 7 → pred f p = hit) := by
  intro v
  have hset : FibresOnly w (setPreds w ls p hit) ls := foldMap_fibresOnly ls _ w
  have hparked' : ∀ l ∈ ls, ∃ f q, (setPreds w ls p hit).fibres.look l = some f ∧ f.park = some q := by
    intro l hl
    obtain ⟨f, q, hf, hq⟩ := hparked l hl
    obtain ⟨g, hg⟩ := hset.some hf
    refine ⟨g, q, hg, foldMap_keeps ls (fun f => { f with preds := setPred f.preds p hit }) w (P := fun x => x.park = some q)
      (fun _ h => h) l (fun x hx => ?_) g hg⟩
    rw [hf] at hx
    cases hx
    exact hq
  obtain ⟨hsent, hnone⟩ := releaseLanes_sent (setPreds w ls p hit) ls hparked' fun l _ f hf => Map.mem_of_look _ _ _ hf
  have hfib : FibresOnly w v ((ls ++ ls) ++ bs ++ bs) :=
    ((hset.trans (Sent.fibresOnly hsent)).trans (foldMap_fibresOnly bs _ _)).trans (answerBehind_fibresOnly bs _)
  refine ⟨hfib, fun l hl => ?_⟩
  obtain ⟨f, q, hf, -⟩ := hparked l hl
  obtain ⟨g, hg⟩ := hfib.some hf
  have hpred : p ≠ 7 → ∀ x, (setPreds w ls p hit).fibres.look l = some x → pred x p = hit := fun hp =>
    foldMap_gives ls (fun f => { f with preds := setPred f.preds p hit }) w (P := fun x => pred x p = hit)
      (fun x => (if_neg hp).trans (setPred_get x.preds p hp hit)) hl
  refine ⟨g, hg, ?_, fun hp => ?_⟩
  · exact answerBehind_keeps bs _ (P := fun x => x.park = none) (fun _ _ h => h) l
      (foldMap_keeps bs (Fibre.shadowPred p hit) _ (fun _ h => h) l (hnone l hl)) g hg
  · exact answerBehind_keeps bs _ (P := fun x => pred x p = hit) (fun _ _ h => h) l
      (foldMap_keeps bs (Fibre.shadowPred p hit) _ (fun _ h => h) l
        (hsent.keep (fun x => pred x p = hit) (fun _ _ h => h) (fun _ h => h) l (hpred hp))) g hg

/-- A BWAIT whose phase is the operand: its fibres are subscribed (R250). -/
theorem subscribed_answer (hparked : ∀ l ∈ ls, ∃ f q, w.fibres.look l = some f ∧ f.park = some q ∧ ∃ n, q.kind = .bwait o n) :
    let v := bs.foldl (fun w l => w.mapFibre l (Fibre.subscribedBehind ph)) (ls.foldl (fun w l => w.mapFibre l (Fibre.subscribed ph)) w)
    FibresOnly w v (ls ++ bs) ∧ ∀ l ∈ ls, ∃ f q, v.fibres.look l = some f ∧ f.park = some q ∧ q.kind = .bwait o ph := by
  intro v
  have hfib : FibresOnly w v (ls ++ bs) := (foldMap_fibresOnly ls _ w).trans (foldMap_fibresOnly bs _ _)
  refine ⟨hfib, fun l hl => ?_⟩
  obtain ⟨f, q, hf, hq, n, hkind⟩ := hparked l hl
  obtain ⟨g, hg⟩ := hfib.some hf
  have hwaits : WaitsAt o g := by
    refine foldMap_keeps bs (Fibre.subscribedBehind ph) _ (P := WaitsAt o) (fun _ h => h) l
      (foldMap_keeps ls (Fibre.subscribed ph) w (P := WaitsAt o) ?_ l ?_) g hg
    · rintro x ⟨q, n, hq, hk⟩
      exact ⟨q.withPhase ph, ph, by simp only [Fibre.subscribed, hq, Option.map_some], by simp only [Parked.withPhase, hk]⟩
    · intro x hx
      rw [hf] at hx
      cases hx
      exact ⟨q, n, hq, hkind⟩
  have hphase : OperandIs ph g := by
    refine foldMap_keeps bs (Fibre.subscribedBehind ph) _ (P := OperandIs ph) (fun _ h => h) l
      (foldMap_gives ls (Fibre.subscribed ph) w (P := OperandIs ph) ?_ hl) g hg
    intro x q b n hq hk
    obtain ⟨q0, -, rfl⟩ := Option.map_eq_some_iff.1 hq
    unfold Parked.withPhase at hk
    split at hk
    · cases hk; rfl
    · rename_i hno
      exact absurd hk (hno b n)
  obtain ⟨q', n', hq', hk'⟩ := hwaits
  exact ⟨g, q', hg, hq', by rw [hk', hphase q' o n' hq' hk']⟩

end

/-- The wave of a request once it has been answered (R250). -/
def answeredWave (w : Wave) (ls bs : List Nat) (ph : Nat) (test : Option PReg) (hit : Bool) : Wave :=
  match test with
  | some p =>
    bs.foldl answerBehind (bs.foldl (fun w l => w.mapFibre l (Fibre.shadowPred p hit)) (releaseLanes (setPreds w ls p hit) ls))
  | none =>
    if hit then bs.foldl answerBehind (releaseLanes w ls)
    else bs.foldl (fun w l => w.mapFibre l (Fibre.subscribedBehind ph)) (ls.foldl (fun w l => w.mapFibre l (Fibre.subscribed ph)) w)

theorem answerAsk_eq (s : State) (k : Nat) (w : Wave) (ls bs : List Nat) (o : BarObj) (ph : Nat) (test : Option PReg) :
    answerAsk s k w ls bs o ph test =
      let s1 := s.setWave k (answeredWave w ls bs ph test (phaseOf s o != ph))
      if phaseOf s o != ph then { s1 with mem := acquireBytes s1.mem (coreOf s w) } else s1 := by
  unfold answerAsk answeredWave
  cases test <;> rfl

theorem answerAsk_frame (s : State) (k : Nat) (w : Wave) (ls bs : List Nat) (o : BarObj) (ph : Nat) (test : Option PReg) :
    let t := answerAsk s k w ls bs o ph test
    t.wave k = some (answeredWave w ls bs ph test (phaseOf s o != ph)) ∧ (∀ j, j ≠ k → t.wave j = s.wave j) ∧ t.mem.mem = s.mem.mem := by
  intro t
  have ht : t = answerAsk s k w ls bs o ph test := rfl
  rw [answerAsk_eq] at ht
  rw [ht]
  by_cases hit : (phaseOf s o != ph) = true <;> simp only [hit, if_true, if_false, Bool.false_eq_true]
  all_goals exact ⟨State.wave_setWave_self .., fun j hj => (State.wave_setWave ..).trans (if_neg hj), rfl⟩

/-- A request that finds its object's place and its fibres is answered, or dropped where its allocation is gone (R212, R247, R250). -/
theorem remoteBarrierRequest_eq {s : State} {k lanes gen addr ph : Nat} {obj : BarObj} {test : Option PReg} {w : Wave} {ls bs : List Nat} {pc : Pc}
    (hpending : Ev.remoteBarrierRequest k lanes gen addr obj ph test ∈ s.pending) (hordered : askOrdered s k obj = true)
    (htaken : askTaken s obj = true) (hw : s.wave k = some w) (hls : asking w lanes obj ph test = ls) (hbs : askingBehind w lanes obj ph test = bs)
    (hpc : askPc w ls bs = some pc) :
    let s0 := withPending s (s.pending.erase (.remoteBarrierRequest k lanes gen addr obj ph test))
    exec (.remoteBarrierRequest k lanes gen addr obj ph test) s = .next (if askReaches s gen obj = true then answerAsk s0 k w ls bs obj ph test
      else (bumpCount s0 (ctxOf s0 w) 0x0C).post (.droppedBarrierRequest k (maskOf (ls ++ bs)).toNat addr pc.packet pc.slot test)) := by
  intro s0
  have hdue : (s.pending.contains (.remoteBarrierRequest k lanes gen addr obj ph test) && askOrdered s k obj && askTaken s obj) = true := by
    rw [List.contains_iff_mem.2 hpending, hordered, htaken]; rfl
  refine (show exec (.remoteBarrierRequest k lanes gen addr obj ph test) s = execRemoteBarrierRequest k lanes gen addr obj ph test s from rfl).trans
    ((runEvent_due hdue _).trans ?_)
  have hw0 : s0.wave k = some w := hw
  have hreach : askReaches s0 gen obj = askReaches s gen obj := by cases obj <;> rfl
  simp only [show withPending s (s.pending.erase (.remoteBarrierRequest k lanes gen addr obj ph test)) = s0 from rfl, hw0, hls, hbs, hpc, hreach]

section
variable {s : State} {k lanes gen addr ph : Nat} {obj : BarObj} {test : Option PReg} {w : Wave} {ls bs : List Nat} {pc : Pc}

/-- The fibres of an answered request: of a BTEST each with its predicate and going on, of a BWAIT going on or subscribed (R248, R250). -/
theorem answeredWave_fibres (hls : asking w lanes obj ph test = ls) (hnd : (w.fibres.map Prod.fst).Nodup) (hit : Bool) :
    let v := answeredWave w ls bs ph test hit
    v.vregs = w.vregs ∧ v.ops = w.ops ∧
      (∀ p, test = some p → p ≠ 7 → ∀ l ∈ ls, ∃ f, v.fibres.look l = some f ∧ f.park = none ∧ pred f p = hit) ∧
      (test = none → hit = true → ∀ l ∈ ls, ∃ f, v.fibres.look l = some f ∧ f.park = none) ∧
      (test = none → hit = false → ∀ l ∈ ls, ∃ f q, v.fibres.look l = some f ∧ f.park = some q ∧ q.kind = .bwait obj ph) ∧
      ∀ l, l ∉ ls → l ∉ bs → v.fibres.look l = w.fibres.look l := by
  intro v
  have hparked : ∀ l ∈ ls, ∃ f q, w.fibres.look l = some f ∧ f.park = some q ∧ q.kind = askPark obj ph test :=
    fun l hl => asking_parked hnd (hls ▸ hl)
  have hsome : ∀ l ∈ ls, ∃ f q, w.fibres.look l = some f ∧ f.park = some q := fun l hl => by
    obtain ⟨f, q, hf, hq, -⟩ := hparked l hl
    exact ⟨f, q, hf, hq⟩
  have hframe : ∀ {ms : List Nat}, FibresOnly w v ms → (∀ l, l ∈ ms → l ∈ ls ∨ l ∈ bs) →
      v.vregs = w.vregs ∧ v.ops = w.ops ∧ ∀ l, l ∉ ls → l ∉ bs → v.fibres.look l = w.fibres.look l := fun h hsub =>
    ⟨by rw [h.moved], by rw [h.moved], fun l h1 h2 => h.out l fun hm => (hsub l hm).elim h1 h2⟩
  cases test with
  | some p =>
    obtain ⟨hfib, hans⟩ := tested_answer (bs := bs) hsome p hit
    obtain ⟨hregs, hops, hout⟩ := hframe hfib (by simp only [List.mem_append]; tauto)
    refine ⟨hregs, hops, fun p' hp' h7 l hl => ?_, fun h => (nomatch h), fun h => (nomatch h), hout⟩
    cases hp'
    obtain ⟨f, hf, hpark, hpred⟩ := hans l hl
    exact ⟨f, hf, hpark, hpred h7⟩
  | none =>
    cases hit with
    | true =>
      obtain ⟨hfib, hans⟩ := released_answer (bs := bs) hsome
      obtain ⟨hregs, hops, hout⟩ := hframe hfib (by simp only [List.mem_append, imp_self, implies_true])
      exact ⟨hregs, hops, fun _ h => (nomatch h), fun _ _ => hans, fun _ h => (nomatch h), hout⟩
    | false =>
      obtain ⟨hfib, hans⟩ := subscribed_answer (bs := bs) (ph := ph) (o := obj) fun l hl => by
        obtain ⟨f, q, hf, hq, hkind⟩ := hparked l hl
        exact ⟨f, q, hf, hq, _, hkind⟩
      obtain ⟨hregs, hops, hout⟩ := hframe hfib (by simp only [List.mem_append, imp_self, implies_true])
      exact ⟨hregs, hops, fun _ h => (nomatch h), fun _ h => (nomatch h), fun _ _ => hans, hout⟩

end

/-! ## Releases -/

/-- BWAIT_RELEASE: the fibres that the object has answered go on, with an acquire (R250, R252). -/
theorem bwaitRelease_acts {s : State} {k : Nat} {obj : BarObj} {w : Wave} (hw : s.wave k = some w) (hanswered : answered obj w = true) :
    Acts (.bwaitRelease k obj) (.bwaitRelease k obj) s fun s =>
      { s.setWave k (releaseWhere w (flipped obj)) with mem := acquireBytes s.mem (coreOf s w) } := by
  have hdue : ((s.wave k).map (answered obj)).getD false = true := by rw [hw]; exact hanswered
  have hw0 : (withPending s (s.pending.erase (.bwaitRelease k obj))).wave k = some w := hw
  refine acts_of (show execBwaitRelease k obj s = _ from rfl) hdue ?_
  simp only [hw0]
  rfl

end Sys2Proof.UnitBarriers
end

section
/-! PROOF. A remote message at the scratchpad that holds its target, at a block that is about to be pre-empted, and where its allocation is gone
(10_memory_instructions R212 to R215, 11_async_copies R234, R247, 19_traps R433). -/

namespace Sys2Proof.UnitMessages

open Machine MemorySteps UnitBarriers

/-! ## A posting to an event queue changes no work -/

theorem hwWrite_work {s t : State} {ctx va n x : Nat} (h : hwWrite s ctx va n x = some t) : t.work = s.work := by
  unfold hwWrite at h
  obtain ⟨q, -, rfl⟩ := Option.map_eq_some_iff.1 h
  split <;> rfl

theorem hwWrite_getD_work (s : State) (ctx va n x : Nat) : ((hwWrite s ctx va n x).getD s).work = s.work := by
  cases h : hwWrite s ctx va n x with
  | none => rfl
  | some t => exact hwWrite_work h

theorem hwWords_work {ctx va : Nat} {xs : List (Nat × Nat)} {s t : State} (h : hwWords s ctx va xs = some t) : t.work = s.work := by
  induction xs generalizing s with
  | nil => cases h; rfl
  | cons x xs ih =>
    unfold hwWords at h
    split at h
    · rename_i u hu
      exact (ih h).trans (hwWrite_work hu)
    · cases h

theorem countNow_work (s : State) (ctx off : Nat) : (countNow s ctx off).work = s.work := by
  unfold countNow
  split
  · split
    · exact hwWrite_getD_work ..
    · rfl
  · rfl

theorem sendMsix_work (s : State) (v : Nat) : (sendMsix s v).work = s.work := by
  unfold sendMsix
  split <;> rfl

/-- A state with the work of another. -/
def SameWork (s t : State) : Prop := t.work = s.work

theorem eventNow_work (s : State) (ctx stack kind : Nat) (payload : List (Nat × Nat)) : SameWork s (eventNow s ctx stack kind payload) := by
  have hrefl : SameWork s s := rfl
  unfold eventNow
  split
  · exact hrefl
  · split
    · dsimp only
      split
      · exact countNow_work ..
      · split
        · rename_i s1 hwords
          split
          · rename_i s2 hwrite
            have hwork : SameWork s s2 := (hwWrite_work hwrite).trans (hwWords_work hwords)
            split
            · exact (sendMsix_work s2 ctx).trans hwork
            · exact hwork
          · exact hrefl
        · exact hrefl
    · exact hrefl

theorem postTo_work (s : State) (p : Posting) : (postTo s p).work = s.work := by
  unfold postTo
  split
  · cases p with
    | event ctx stack kind payload => exact eventNow_work ..
    | count ctx off => exact countNow_work ..
  · rfl

theorem bumpCount_work (s : State) (ctx off : Nat) : (bumpCount s ctx off).work = s.work := postTo_work ..

theorem postPoison_work (s : State) (ctx stack addr : Nat) : (postPoison s ctx stack addr).work = s.work := postTo_work ..

/-! ## Delivery -/

/-- Before an arrival the sender's core writes its dirty S bytes through; no other message changes anything first (08_memory_spaces R172). -/
theorem msgRelease_mem (s : State) (m : RemoteMsg) : ∃ mem, msgRelease s m = { s with mem := mem } := by
  unfold msgRelease
  split
  · split
    · unfold beforeRelease
      split
      · split <;> exact ⟨_, rfl⟩
      · exact ⟨_, rfl⟩
    · exact ⟨_, rfl⟩
  · exact ⟨_, rfl⟩

theorem msgRelease_of_ne {s : State} {m : RemoteMsg} (h : ∀ op addr, m.op ≠ .arrive op addr) : msgRelease s m = s := by
  unfold msgRelease
  split
  · rename_i op addr hop
    exact absurd hop (h op addr)
  · rfl

section
variable {s : State} {m : RemoteMsg}

/-- A message that is first, ordered and taken is performed (R214, R215). -/
theorem remoteMessage_eq (hpending : Ev.remoteMessage m ∈ s.pending) (hfirst : msgFirst s m = true) (hordered : msgOrdered s m = true)
    (htaken : msgTaken s m = true) : exec (.remoteMessage m) s = .next (takeMsg (withPending s (s.pending.erase (.remoteMessage m))) m) := by
  have hdue : (s.pending.contains (.remoteMessage m) && msgFirst s m && msgOrdered s m && msgTaken s m) = true := by
    rw [List.contains_iff_mem.2 hpending, hfirst, hordered, htaken]; rfl
  exact (show exec (.remoteMessage m) s = execRemoteMessage m s from rfl).trans (runEvent_due hdue _)

/-- A message that finds its allocation at a running block that is not about to be pre-empted is applied (R212). -/
theorem takeMsg_applies {b : Block} (hreach : reaches s m = true) (hb : s.block m.blk = some b) (hpre : b.preempt = false) :
    takeMsg s m = applyMsg (msgRelease s m) m := by
  obtain ⟨mem, hmem⟩ := msgRelease_mem s m
  have hreach1 : reaches (msgRelease s m) m = true := by rw [hmem]; exact hreach
  have hb1 : (msgRelease s m).block m.blk = some b := by rw [hmem]; exact hb
  simp only [takeMsg, hreach1, hb1, hpre, Bool.not_true, Bool.and_false, Bool.false_eq_true, if_false]

/-- A message other than an arrival at a block about to be pre-empted is held (19_traps R433). -/
theorem takeMsg_holds {b : Block} (hreach : reaches s m = true) (hb : s.block m.blk = some b) (hrun : b.status = .running)
    (hpre : b.preempt = true) (hop : ∀ op addr, m.op ≠ .arrive op addr) :
    takeMsg s m = s.setBlock m.blk { b with heldMsgs := b.heldMsgs ++ [m] } := by
  simp only [takeMsg, msgRelease_of_ne hop, hreach, hb, hrun, hpre, Bool.not_true, Bool.false_eq_true, if_false, beq_self_eq_true, Bool.and_self,
    if_true]

/-! ## What each message does -/

section
variable (hn : NoTiles s) (ho : OnCore s m.blk)
include hn

/-- With no tile operation queued a load takes the bytes that stand there (06_matrix R137). -/
theorem loadedValue_of_noTiles (blk : Nat) (x : Sub) (v : Nat) : loadedValue s blk x v = v := by
  unfold loadedValue tileWrites
  rw [if_neg]
  simp only [List.any_eq_true, not_exists, not_and]
  intro p hp
  simp [hn p hp]

include ho

theorem applyMsg_store {d : Word} {op sub : Nat} {w : Wave} (hop : m.op = .store d op sub) (hw : s.wave m.wave = some w) :
    let t := applyMsg s m
    (∀ i < 4, spmAt t m.blk (m.off + i) = (leBytes d.toNat 4).getD i 0) ∧
      (∀ a, (a < m.off ∨ m.off + 4 ≤ a) → spmAt t m.blk a = spmAt s m.blk a) ∧ SubDone t m.wave op sub w 0 ∧ t.mem = s.mem := by
  obtain ⟨hspm, -, -, bs, hwrite⟩ := arrayWrite_spm hn ho m.off (leBytes d.toNat 4)
  rw [leBytes_length] at hspm
  simp only [applyMsg, ackMsg, hop]
  have hkept : ∀ a, spmAt (doneSub (arrayWrite s m.blk m.off (leBytes d.toNat 4)) m.wave op sub 0) m.blk a =
      spmAt (arrayWrite s m.blk m.off (leBytes d.toNat 4)) m.blk a := spmAt_work rfl m.blk
  refine ⟨fun i hi => ?_, fun a ha => ?_, doneSub_done _ _ _ _ _ _ ?_, ?_⟩
  · rw [hkept, hspm, if_pos (by omega), Nat.add_sub_cancel_left]
  · rw [hkept, hspm, if_neg (by omega)]
  · rw [hwrite]; exact hw
  · rw [show (doneSub (arrayWrite s m.blk m.off (leBytes d.toNat 4)) m.wave op sub 0).mem =
      (arrayWrite s m.blk m.off (leBytes d.toNat 4)).mem from rfl, hwrite]

theorem applyMsg_load {op sub : Nat} {w : Wave} (hop : m.op = .load op sub) (hw : s.wave m.wave = some w) :
    let t := applyMsg s m
    SubDone t m.wave op sub w (leNat ((List.range 4).map fun i => spmAt s m.blk (m.off + i))) ∧
      (∀ a, spmAt t m.blk a = spmAt s m.blk a) ∧ t.mem = s.mem := by
  simp only [applyMsg, ackMsg, hop, loadedValue_of_noTiles hn, arrayBytes_eq ho]
  exact ⟨doneSub_done _ _ _ _ _ _ hw, spmAt_work rfl m.blk, rfl⟩

theorem applyMsg_arrive {op addr : Nat} (hop : m.op = .arrive op addr) :
    let t := applyMsg s m
    objAt t m.blk m.off = (barStep (objAt s m.blk m.off) .arrive).1 ∧
      (∀ a, (a < m.off ∨ m.off + 16 ≤ a) → spmAt t m.blk a = spmAt s m.blk a) ∧ (∀ v, t.wave m.wave = some v → ∀ e ∈ v.ops, e.id ≠ op) ∧
      ((barStep (objAt s m.blk m.off) .arrive).2.2 = true → Ev.barrierOverrunReport m.wave addr ∈ t.pending) := by
  obtain ⟨hobj, hout, -, -, -, -, -, -, hover, -⟩ := updateObj_spm (off := m.off) hn ho .arrive (fun _ h => nomatch h)
  simp only [applyMsg, ackMsg, hop]
  generalize updateObj s (.spm m.blk m.off) .arrive = r at hobj hout hover
  obtain ⟨-, hblocks, hwave, -⟩ := reapWave_frame (r.1.mapWave m.wave fun w => w.dropOp op) m.wave
  generalize reapWave (r.1.mapWave m.wave fun w => w.dropOp op) m.wave = u at hblocks hwave
  have hkept : ∀ a, spmAt (if r.2 = true then u.post (.barrierOverrunReport m.wave addr) else u) m.blk a = spmAt r.1 m.blk a :=
    spmAt_work (by split <;> exact hblocks) m.blk
  refine ⟨by rw [objAt_congr fun a _ _ => hkept a, hobj], fun a ha => by rw [hkept, hout a ha], fun v hv => ?_, fun hzero => ?_⟩
  · refine ops_dropOp (hwave v ?_)
    split at hv <;> exact hv
  · rw [hover.trans hzero, if_pos rfl]
    exact List.mem_append_right _ (List.mem_singleton_self _)

theorem applyMsg_expect {n : Nat} (hop : m.op = .expect n) :
    let t := applyMsg s m
    objAt t m.blk m.off = (barStep (objAt s m.blk m.off) (.expect n)).1 ∧
      ∀ a, (a < m.off ∨ m.off + 16 ≤ a) → spmAt t m.blk a = spmAt s m.blk a := by
  simp only [applyMsg, hop]
  obtain ⟨hobj, hout, -⟩ := updateObj_spm (off := m.off) hn ho (.expect n) (fun _ h => nomatch h)
  exact ⟨hobj, hout⟩

theorem applyMsg_sector {id j : Nat} {c : Copy} (hop : m.op = .sector id j) (hc : s.work.copies.look id = some c) (hbar : c.bar = none) :
    let t := applyMsg s m
    (∀ i < 32, spmAt t m.blk (m.off + i) = cpymByte s c m.blk (c.word 2) (32 * (j % (c.word 4 / 32)) + i)) ∧
      (∀ a, (a < m.off ∨ m.off + 32 ≤ a) → spmAt t m.blk a = spmAt s m.blk a) ∧
      (c.left.erase j ≠ [] → t.work.copies.look id = some { c with left := c.left.erase j }) ∧
      (c.left.erase j = [] → t.work.copies.look id = none) := by
  have hlen : (cpymBytes s c m.blk j).length = 32 := by simp [cpymBytes]
  obtain ⟨hspm, -, -, bs, hwrite⟩ := arrayWriteFrom_spm hn ho c.since m.off (cpymBytes s c m.blk j)
  rw [hlen] at hspm
  have ht : applyMsg s m = sectorDone (arrayWriteFrom s c.since m.blk m.off (cpymBytes s c m.blk j)) id j := by
    simp only [applyMsg, hop, applySector, hc, hbar]
  rw [ht]
  generalize arrayWriteFrom s c.since m.blk m.off (cpymBytes s c m.blk j) = u at hspm hwrite
  have hframe := fun a => sectorDone_frame u id j m.blk a c (by rw [hwrite]; exact hc)
  refine ⟨fun i hi => ?_, fun a ha => ?_, (hframe 0).2.1, (hframe 0).2.2⟩
  · rw [(hframe _).1, hspm, if_pos (by omega), Nat.add_sub_cancel_left]
    simp [cpymBytes, Copy.perTarget, hi]
  · rw [(hframe a).1, hspm, if_neg (by omega)]

end

/-- A load that finds no allocation returns 0, and no block changes (R212). -/
theorem takeMsg_dropped_load {op sub : Nat} {w : Wave} (hreach : reaches s m = false) (hop : m.op = .load op sub) (hw : s.wave m.wave = some w) :
    SubDone (takeMsg s m) m.wave op sub w 0 ∧ (takeMsg s m).work.blocks = s.work.blocks := by
  have hrel : msgRelease s m = s := msgRelease_of_ne fun _ _ h => by rw [hop] at h; cases h
  have ht : takeMsg s m = doneSub (bumpCount s (senderCtx s m) 0x0C) m.wave op sub 0 := by
    simp only [takeMsg, hrel, hreach, Bool.not_false, if_true, dropMsg, ackMsg, hop, dropCounts]
  have hwork := bumpCount_work s (senderCtx s m) 0x0C
  rw [ht]
  refine ⟨doneSub_done _ _ _ _ _ _ ?_, ?_⟩
  · unfold State.wave
    rw [hwork]
    exact hw
  · exact (rfl : _ = (bumpCount s (senderCtx s m) 0x0C).work.blocks).trans (congrArg Work.blocks hwork)

end

end Sys2Proof.UnitMessages
end

section
/-! PROOF. A tile operation fires, frees its operands and completes (06_matrix R132 to R142, 07_cartouche R148 to R156). -/

namespace Sys2Proof.UnitTiles

open Machine MemorySteps UnitMessages

/-! ## Tables made of a list -/

/-- In a table without a repeated key each listed entry is read. -/
theorem look_of_mem_nodup {α : Type} {m : Map α} (hnd : (m.map Prod.fst).Nodup) {k : Nat} {x : α} (hm : (k, x) ∈ m) : m.look k = some x := by
  induction m with
  | nil => cases hm
  | cons q m ih =>
    obtain ⟨a, y⟩ := q
    obtain ⟨hnot, hnd⟩ := List.nodup_cons.1 hnd
    rcases List.mem_cons.1 hm with heq | hm
    · cases heq
      exact if_pos rfl
    · have hne : a ≠ k := by
        rintro rfl
        exact hnot (List.mem_map.2 ⟨(a, x), hm, rfl⟩)
      exact (if_neg hne).trans (ih hnd hm)

/-- A table over a run of keys. -/
theorem look_run {α : Type} (a n : Nat) (f : Nat → α) {k : Nat} (hk : k < n) :
    Map.look ((List.range n).map fun i => (a + i, f i)) (a + k) = some (f k) := by
  refine look_of_mem_nodup ?_ (List.mem_map_of_mem (f := fun i => (a + i, f i)) (List.mem_range.2 hk))
  rw [List.map_map]
  exact List.Nodup.map (fun _ _ h => Nat.add_left_cancel h) List.nodup_range

/-- Entries stored at keys that differ are read back, and every other key as before. -/
theorem get_foldl_store {α : Type} [DecidableEq α] (d : α) (xs : List (Nat × α)) (m : Map α) (hnd : (xs.map Prod.fst).Nodup) :
    let t := xs.foldl (fun m p => Map.store m p.1 p.2 d) m
    (∀ q ∈ xs, t.get q.1 d = q.2) ∧ ∀ i, (∀ q ∈ xs, q.1 ≠ i) → t.get i d = m.get i d := by
  induction xs generalizing m with
  | nil => exact ⟨fun q hq => (nomatch hq), fun _ _ => rfl⟩
  | cons p xs ih =>
    obtain ⟨hnot, hnd⟩ := List.nodup_cons.1 hnd
    obtain ⟨hin, hout⟩ := ih (Map.store m p.1 p.2 d) hnd
    refine ⟨fun q hq => ?_, fun i hi => ?_⟩
    · rcases List.mem_cons.1 hq with rfl | hq
      · refine (hout q.1 fun z hz he => hnot (he ▸ List.mem_map_of_mem hz)).trans ?_
        rw [Map.get_store, if_pos rfl]
      · exact hin q hq
    · refine (hout i fun q hq => hi q (List.mem_cons_of_mem _ hq)).trans ?_
      rw [Map.get_store, if_neg (hi p (List.mem_cons_self ..)).symm]

/-! ## Firing -/

/-- What an operation computes when it fires: the words and bytes that it will deliver, and its conditions (R128, R142). -/
def tileResult (s : State) (blk : Nat) (b : Block) (t : TileOp) : Map Word × List (Nat × Byte) × Conds :=
  match t.kind with
  | .mma rows f tv mx acc n32 _ _ _ v =>
    match s.wave t.wave with
    | some w => ((runMma s blk b w t rows f tv mx acc n32 v).1, [], (runMma s blk b w t rows f tv mx acc n32 v).2)
    | none => ([], [], 0)
  | .mmac src q f sat tv acc n32 _ _ _ v => ((runMmac s blk b t src q f sat tv acc n32 v).1, [], (runMmac s blk b t src q f sat tv acc n32 v).2)
  | .zclr => (clearWords t, [], 0)
  | .zld off => (runZld s blk t off, [], 0)
  | .zst off => ([], runZst b t off, 0)
  | .zdrain dst clr origin v stride sc sel _ =>
    let s1 := loadImage s b.core blk sel
    let r := runDrain s1 b (drainImage s1 b.core blk sel) t dst origin v stride sc sel
    (if clr then clearWords t else [], r.1, r.2)
  | _ => ([], [], 0)

/-- An operation that runs, with its results. -/
def firedTile (r : Map Word × List (Nat × Byte) × Conds) (poison : Bool) (x : TileOp) : TileOp :=
  { x with running := true, out := r.1, bytes := r.2.1, conds := r.2.2, poison := poison }

section
variable {s : State} {blk : Nat} {b : Block} {t : TileOp}

theorem mapBlock_block (hb : s.block blk = some b) (f : Block → Block) : (s.mapBlock blk f).block blk = some (f b) :=
  (State.block_mapBlock ..).trans (by rw [if_pos rfl, hb]; rfl)

theorem mapWave_wave {k : Nat} {w : Wave} (hw : s.wave k = some w) (f : Wave → Wave) : (s.mapWave k f).wave k = some (f w) :=
  (State.wave_mapWave ..).trans (by rw [if_pos rfl, hw]; rfl)

theorem mapTile_block (hb : s.block blk = some b) (id : Nat) (f : TileOp → TileOp) :
    (mapTile s blk id f).block blk = some { b with tiles := b.tiles.map fun x => if x.id = id then f x else x } :=
  mapBlock_block hb _

theorem dropTile_block (hb : s.block blk = some b) (id : Nat) :
    (dropTile s blk id).block blk = some { b with tiles := b.tiles.filter fun x => x.id != id } :=
  mapBlock_block hb _

theorem loadImage_block (s : State) (core blk : Nat) (sel : Sel) (j : Nat) : (loadImage s core blk sel).block j = s.block j := by
  unfold loadImage
  split <;> rfl

/-- An operation other than OPFENCE and EPISEL stays in its queue, running, with its results. -/
theorem fireTile_block (hb : s.block blk = some b) (hfence : ∀ ops, t.kind ≠ .opfence ops) (hsel : ∀ sel, t.kind ≠ .episel sel) :
    ∃ poison, (fireTile s blk b t).block blk =
      some { b with tiles := b.tiles.map fun x => if x.id = t.id then firedTile (tileResult s blk b t) poison x else x } := by
  unfold fireTile tileResult
  cases hk : t.kind with
  | opfence ops => exact absurd hk (hfence ops)
  | episel sel => exact absurd hk (hsel sel)
  | mma rows f tv mx acc n32 cb slot fill v =>
    cases s.wave t.wave <;> exact ⟨_, mapTile_block hb ..⟩
  | zdrain dst clr origin v stride sc sel pages => exact ⟨_, mapTile_block ((loadImage_block ..).trans hb) ..⟩
  | mmac | zclr | zld | zst => exact ⟨_, mapTile_block hb ..⟩

theorem fireTile_fence (hb : s.block blk = some b) {ops : List (Nat × Nat)} (hk : t.kind = .opfence ops) :
    (fireTile s blk b t).block blk = some { b with tiles := b.tiles.filter fun e => e.id != t.id } := by
  unfold fireTile
  rw [hk]
  exact dropTile_block hb _

theorem fireTile_episel (hb : s.block blk = some b) {sel : Sel} (hk : t.kind = .episel sel) :
    (fireTile s blk b t).block blk = some { b with tiles := b.tiles.filter fun e => e.id != t.id, sel := some sel } := by
  unfold fireTile
  rw [hk]
  exact mapBlock_block (dropTile_block hb _) _

/-- TILE_OP_FIRE (R134): its operands are read and its results computed. -/
theorem tileOpFire_eq (hb : s.block blk = some b) (ht : nextTileOp b = some t) (hready : tileReady s blk b t = true)
    (hserved : servedFirst s b.core t = true) :
    exec (.tileOpFire blk) s = .next (fireTile (touchPlaces (withPending s (s.pending.erase (.tileOpFire blk))) b.ctx t.reads) blk b t) := by
  have hdue : ((s.block blk).bind fun b => (nextTileOp b).map fun t => tileReady s blk b t && servedFirst s b.core t).getD false = true := by
    rw [hb, Option.bind_some, ht, Option.map_some, Option.getD_some, hready, hserved]; rfl
  refine (show exec (.tileOpFire blk) s = execTileOpFire blk s from rfl).trans ((runEvent_due hdue _).trans ?_)
  have hb0 : (withPending s (s.pending.erase (.tileOpFire blk))).block blk = some b := hb
  simp only [hb0, Option.bind_some, ht, Option.map_some]

/-! ### The results of each kind -/

theorem look_clearWords {i : Nat} (hlo : 1024 * t.z ≤ i) (hhi : i < 1024 * (t.z + t.cnt)) : (clearWords t).look i = some 0 := by
  obtain ⟨n, rfl⟩ := Nat.exists_eq_add_of_le hlo
  exact look_run (1024 * t.z) (1024 * t.cnt) (fun _ => (0 : Word)) (by omega)

theorem look_runZld (hb : s.block blk = some b) (off : Nat) {i : Nat} (hi : i < 1024 * t.cnt) :
    (runZld s blk t off).look (1024 * t.z + i) =
      some (BitVec.ofNat 32 (leNat ((List.range 4).map fun n => spmAt s blk (off + 4 * i + n)))) := by
  refine (look_run (1024 * t.z) (1024 * t.cnt) (fun i => BitVec.ofNat 32 (leNat (spmBytes s blk (off + 4 * i) 4))) hi).trans ?_
  simp only [spmBytes, hb, spmAt_block hb]

theorem mem_runZst (hb : s.block blk = some b) (off : Nat) {i n : Nat} (hi : i < 1024 * t.cnt) (hn : n < 4) :
    (off + 4 * i + n, (leBytes (slabAt s blk (1024 * t.z + i)).toNat 4).getD n 0) ∈ runZst b t off := by
  have hslab : slabAt s blk (1024 * t.z + i) = b.slabs.get (1024 * t.z + i) 0 := by simp [slabAt, hb]
  rw [hslab]
  refine List.mem_flatMap.2 ⟨i, List.mem_range.2 hi, List.mem_map.2 ⟨(n, _), ?_, rfl⟩⟩
  have hlen := leBytes_length 4 (b.slabs.get (1024 * t.z + i) 0).toNat
  generalize leBytes (b.slabs.get (1024 * t.z + i) 0).toNat 4 = bs at hlen ⊢
  exact List.mem_iff_getElem.2 ⟨n, by simp [hlen, hn], by simp [hlen, hn]⟩

/-- What an operation that stays in its queue holds once it has fired (R128, R134, R140, R142). -/
theorem firedTile_result (hb : s.block blk = some b) (poison : Bool) :
    let u := firedTile (tileResult s blk b t) poison t
    (t.kind = .zclr → u.bytes = [] ∧ ∀ i, 1024 * t.z ≤ i → i < 1024 * (t.z + t.cnt) → u.out.look i = some 0) ∧
    (∀ off, t.kind = .zld off → u.bytes = [] ∧ ∀ i < 1024 * t.cnt,
      u.out.look (1024 * t.z + i) = some (BitVec.ofNat 32 (leNat ((List.range 4).map fun n => spmAt s blk (off + 4 * i + n))))) ∧
    (∀ off, t.kind = .zst off → u.out = [] ∧ ∀ i < 1024 * t.cnt, ∀ n < 4,
      (off + 4 * i + n, (leBytes (slabAt s blk (1024 * t.z + i)).toNat 4).getD n 0) ∈ u.bytes) ∧
    (∀ rows f tv mx acc n32 cb slot fill v w, t.kind = .mma rows f tv mx acc n32 cb slot fill v → s.wave t.wave = some w →
      u.bytes = [] ∧ (u.out, u.conds) = runMma s blk b w t rows f tv mx acc n32 v) ∧
    (∀ src q f sat tv acc n32 cb slot fill v, t.kind = .mmac src q f sat tv acc n32 cb slot fill v →
      u.bytes = [] ∧ (u.out, u.conds) = runMmac s blk b t src q f sat tv acc n32 v) := by
  intro u
  have hu : u = firedTile (tileResult s blk b t) poison t := rfl
  unfold tileResult firedTile at hu
  refine ⟨fun hk => ?_, fun off hk => ?_, fun off hk => ?_, fun rows f tv mx acc n32 cb slot fill v w hk hw => ?_,
    fun src q f sat tv acc n32 cb slot fill v hk => ?_⟩
  · rw [hk] at hu
    rw [hu]
    exact ⟨rfl, fun i => look_clearWords⟩
  · rw [hk] at hu
    rw [hu]
    exact ⟨rfl, fun i => look_runZld hb off⟩
  · rw [hk] at hu
    rw [hu]
    exact ⟨rfl, fun i hi n => mem_runZst hb off hi⟩
  · rw [hk, hw] at hu
    rw [hu]
    exact ⟨rfl, rfl⟩
  · rw [hk] at hu
    rw [hu]
    exact ⟨rfl, rfl⟩

/-- TILE_OP_FIRE leaves the slabs and the scratchpad, and the operation running with its results or gone from its queue. -/
theorem tileOpFire_effect (hb : s.block blk = some b) (ht : nextTileOp b = some t) (hready : tileReady s blk b t = true)
    (hserved : servedFirst s b.core t = true) :
    let s1 := touchPlaces (withPending s (s.pending.erase (.tileOpFire blk))) b.ctx t.reads
    ∃ c, exec (.tileOpFire blk) s = .next (fireTile s1 blk b t) ∧ (fireTile s1 blk b t).block blk = some c ∧ c.slabs = b.slabs ∧ c.spm = b.spm ∧
      (∀ ops, t.kind = .opfence ops → c.tiles = b.tiles.filter fun e => e.id != t.id) ∧
      (∀ sel, t.kind = .episel sel → c.tiles = (b.tiles.filter fun e => e.id != t.id) ∧ c.sel = some sel) ∧
      ((∀ ops, t.kind ≠ .opfence ops) → (∀ sel, t.kind ≠ .episel sel) → ∃ poison, firedTile (tileResult s1 blk b t) poison t ∈ c.tiles) := by
  intro s1
  obtain ⟨base, hs1⟩ : ∃ base, s1 = { withPending s (s.pending.erase (.tileOpFire blk)) with base := base } := touchPlaces_base ..
  have hb1 : s1.block blk = some b := by rw [hs1]; exact hb
  have hexec := tileOpFire_eq hb ht hready hserved
  by_cases hfence : ∃ ops, t.kind = .opfence ops
  · obtain ⟨ops, hk⟩ := hfence
    exact ⟨_, hexec, fireTile_fence hb1 hk, rfl, rfl, fun _ _ => rfl, fun _ h => (nomatch hk.symm.trans h), fun h => absurd hk (h ops)⟩
  by_cases hsel : ∃ sel, t.kind = .episel sel
  · obtain ⟨sel, hk⟩ := hsel
    refine ⟨_, hexec, fireTile_episel hb1 hk, rfl, rfl, fun _ h => (nomatch hk.symm.trans h), fun sel' h => ⟨rfl, ?_⟩, fun _ h => absurd hk (h sel)⟩
    cases hk.symm.trans h
    rfl
  obtain ⟨poison, hblock⟩ := fireTile_block (t := t) hb1 (fun ops hk => hfence ⟨ops, hk⟩) (fun sel hk => hsel ⟨sel, hk⟩)
  refine ⟨_, hexec, hblock, rfl, rfl, fun ops hk => absurd ⟨ops, hk⟩ hfence, fun sel hk => absurd ⟨sel, hk⟩ hsel, fun _ _ => ⟨poison, ?_⟩⟩
  exact List.mem_map.2 ⟨t, List.mem_of_find?_eq_some ht, if_pos rfl⟩

/-! ## The operands taken -/

/-- OPERANDS_CONSUMED (R132): the slot that the operation names is named once less. -/
theorem operandsConsumed_acts (hb : s.block blk = some b) (ht : tileOf b t.id = some t) (hrun : t.running = true) (hkept : t.consumed = false) :
    Acts (.operandsConsumed blk t.id) (.operandsConsumed blk t.id) s fun s =>
      let s1 := mapTile s blk t.id fun x => { x with consumed := true }
      match t.slotNamed with
      | some (cb, slot, fill) => unnameSlot s1 blk cb slot fill
      | none => s1 := by
  have hdue : (((s.block blk).bind fun b => tileOf b t.id).any fun t => t.running && !t.consumed) = true := by
    rw [hb, Option.bind_some, ht, Option.any_some, hrun, hkept]; rfl
  refine acts_of (show exec (.operandsConsumed blk t.id) s = execOperandsConsumed blk t.id s from rfl) hdue ?_
  have hb0 : (withPending s (s.pending.erase (.operandsConsumed blk t.id))).block blk = some b := hb
  simp only [hb0, Option.bind_some, ht] <;> rfl

/-! ## Completion -/

theorem foldl_work {α : Type} {f : State → α → State} (hf : ∀ s x, (f s x).work = s.work) (xs : List α) (s : State) :
    (xs.foldl f s).work = s.work := by
  induction xs generalizing s with
  | nil => rfl
  | cons x xs ih => exact (ih _).trans (hf s x)

theorem foldl_spmWrite (bs : List (Nat × Byte)) (hb : s.block blk = some b) :
    let t := bs.foldl (fun s q => spmWrite s blk q.1 [q.2]) s
    t.block blk = some { b with spm := bs.foldl (fun m p => Map.store m p.1 p.2 0) b.spm } ∧ t.work.waves = s.work.waves := by
  induction bs generalizing s b with
  | nil => exact ⟨hb, rfl⟩
  | cons q bs ih =>
    have hq : (spmWrite s blk q.1 [q.2]).block blk = some { b with spm := Map.store b.spm q.1 q.2 0 } := by
      rw [spmWrite_eq hb, State.block_setBlock, if_pos rfl]; rfl
    obtain ⟨hblock, hwaves⟩ := ih hq
    exact ⟨hblock, hwaves⟩

theorem pageWrite_work (s : State) (pages : Map PageAt) (va : Nat) (bs : List Byte) : (pageWrite s pages va bs).work = s.work := by
  unfold pageWrite
  split <;> rfl

theorem poisonAt_work (s : State) (pages : Map PageAt) (va : Nat) : (poisonAt s pages va).work = s.work := by
  unfold poisonAt
  split
  · split <;> rfl
  · rfl

theorem drainRow_work (s : State) (pages : Map PageAt) (poison : Bool) (row : List (Nat × Byte)) : (drainRow s pages poison row).work = s.work := by
  refine foldl_work (fun s q => ?_) _ s
  cases poison
  · exact pageWrite_work ..
  · exact (poisonAt_work ..).trans (pageWrite_work ..)

/-- Of the blocks and waves, the scratchpad of the operation's block changes at most, and a ZST has put its bytes there. -/
def TileStored (s : State) (blk : Nat) (b : Block) (t : TileOp) (s1 : State) : Prop :=
  ∃ m, s1.block blk = some { b with spm := m } ∧ s1.work.waves = s.work.waves ∧
    ∀ off, t.kind = .zst off → m = t.bytes.foldl (fun m p => Map.store m p.1 p.2 0) b.spm

theorem tileStore_stored (hb : s.block blk = some b) : TileStored s blk b t (tileStore s blk b t) := by
  have of_work (h : (tileStore s blk b t).work = s.work) (hk : ∀ off, t.kind ≠ .zst off) : TileStored s blk b t (tileStore s blk b t) :=
    ⟨b.spm, by unfold State.block; rw [h]; exact hb, congrArg Work.waves h, fun off h => absurd h (hk off)⟩
  have of_bytes (h : tileStore s blk b t = t.bytes.foldl (fun s q => spmWrite s blk q.1 [q.2]) s) :
      TileStored s blk b t (tileStore s blk b t) := by
    obtain ⟨hblock, hwaves⟩ := foldl_spmWrite t.bytes hb
    rw [h]
    exact ⟨_, hblock, hwaves, fun _ _ => rfl⟩
  cases hk : t.kind with
  | zst off => exact of_bytes (by unfold tileStore; rw [hk])
  | zdrain dst clr origin v stride sc sel pages =>
    cases dst with
    | spm => exact of_bytes (by unfold tileStore; rw [hk])
    | mem => exact of_work (by unfold tileStore; rw [hk]; exact foldl_work (fun _ _ => drainRow_work ..) _ s) fun _ h => nomatch hk.symm.trans h
    | srf => exact of_work (by
        unfold tileStore; rw [hk]
        exact foldl_work (f := (drainPixel · b.ctx v.ste t.poison ·)) (fun _ _ => rfl) _ s) fun _ h => nomatch hk.symm.trans h
  | mma | mmac | zclr | zld | opfence | episel =>
    exact of_work (by unfold tileStore; rw [hk]) fun _ h => nomatch hk.symm.trans h

/-- A block with the words of an operation in its slabs. -/
def delivered (t : TileOp) (b : Block) : Block :=
  { b with slabs := t.out.foldl (fun m p => Map.store m p.1 p.2 0) b.slabs, poisonSlabs := slabMarks b t }

/-- A wave with the conditions of an operation raised. -/
def raised (t : TileOp) (w : Wave) : Wave := { w with fstat := w.fstat ||| t.conds }

/-- A completed operation whose results no write has met delivers its words, bytes and conditions, and leaves its queue (R128, R134, R142). -/
theorem finishTile_effect (hb : s.block blk = some b) (htaint : t.tainted = false) (hlost : operandLost s t = false) :
    let s1 := finishTile s blk b t
    ∃ c, s1.block blk = some c ∧ c.tiles = b.tiles.filter (fun e => e.id != t.id) ∧
      c.slabs = t.out.foldl (fun m p => Map.store m p.1 p.2 0) b.slabs ∧
      (∀ off, t.kind = .zst off → c.spm = t.bytes.foldl (fun m p => Map.store m p.1 p.2 0) b.spm) ∧
      ∀ w, s.wave t.wave = some w → ∃ v, s1.wave t.wave = some v ∧ v.fstat = w.fstat ||| t.conds ∧
        v.ops = w.ops.map fun o => if o.id = t.op then { o with done := true } else o := by
  have hsettled : t.settled s = t := by unfold TileOp.settled; rw [htaint, hlost]; rfl
  have htaints (c : Block) : taintNext s t c = c := by unfold taintNext; rw [htaint, hlost]; rfl
  obtain ⟨m, hblock, hwaves, hspm⟩ := tileStore_stored (t := t) hb
  obtain ⟨s2, hwork, hfinish⟩ : ∃ s2 : State, s2.work = (tileStore s blk b t).work ∧ finishTile s blk b t =
      (dropTile ((s2.mapBlock blk (delivered t)).mapWave t.wave (raised t)) blk t.id).mapWave t.wave
        fun w => w.mapOp t.op fun o => { o with done := true } := by
    unfold finishTile
    simp only [hsettled, htaints]
    refine ⟨_, ?_, rfl⟩
    split
    · exact postPoison_work ..
    · rfl
  have hblock2 : s2.block blk = some { b with spm := m } := by unfold State.block; rw [hwork]; exact hblock
  have hwave2 : s2.wave t.wave = s.wave t.wave := by unfold State.wave; rw [hwork, hwaves]
  have hblock3 : ((s2.mapBlock blk (delivered t)).mapWave t.wave (raised t)).block blk = some (delivered t { b with spm := m }) :=
    mapBlock_block hblock2 _
  intro s1
  have hs1 : s1 = _ := hfinish
  rw [hs1]
  exact ⟨_, dropTile_block hblock3 t.id, rfl, rfl, hspm, fun w hw =>
    ⟨_, mapWave_wave (mapWave_wave (hwave2.trans hw) (raised t)) fun w => w.mapOp t.op fun o => { o with done := true }, rfl, rfl⟩⟩

/-- TILE_OP_COMPLETE (R128, R134, R142). -/
theorem tileOpComplete_eq (hb : s.block blk = some b) (ht : tileOf b t.id = some t) (hrun : t.running = true) (hconsumed : t.consumed = true)
    (hdest : destReady s blk b t = true) (hshares : ∀ e ∈ tilesBefore b t.id, e.shares t = false) :
    exec (.tileOpComplete blk t.id) s = .next (finishTile (withPending s (s.pending.erase (.tileOpComplete blk t.id))) blk b t) := by
  have hnone : ((tilesBefore b t.id).any fun e => e.shares t) = false := List.any_eq_false.2 fun e he => by simp [hshares e he]
  have hdue : ((s.block blk).bind fun b => (tileOf b t.id).map fun t => t.running && t.consumed && destReady s blk b t &&
      !(tilesBefore b t.id).any fun e => e.shares t).getD false = true := by
    rw [hb, Option.bind_some, ht, Option.map_some, Option.getD_some, hrun, hconsumed, hdest, hnone]; rfl
  refine (show exec (.tileOpComplete blk t.id) s = execTileOpComplete blk t.id s from rfl).trans ((runEvent_due hdue _).trans ?_)
  have hb0 : (withPending s (s.pending.erase (.tileOpComplete blk t.id))).block blk = some b := hb
  simp only [hb0, Option.bind_some, ht, Option.map_some]

end

end Sys2Proof.UnitTiles
end

section
/-! PROOF. Copies, barrier objects, remote messages and tile operations: what each step leaves (11_async_copies R229 to R252,
10_memory_instructions R212 to R215, 06_matrix R132 to R142). -/

namespace Sys2Proof.UnitSteps

open Machine MemorySteps UnitCopies UnitBarriers UnitMessages UnitTiles

section
variable {s : State} {m : RemoteMsg} {b : Block}
variable (hpending : Ev.remoteMessage m ∈ s.pending) (hfirst : msgFirst s m = true) (hordered : msgOrdered s m = true)
  (htaken : msgTaken s m = true) (hreach : reaches s m = true) (hb : s.block m.blk = some b)
include hpending hfirst hordered htaken hreach hb

/-- A message that finds its allocation is applied once its sender's core has released. -/
theorem remoteMessage_applied (hpre : b.preempt = false) : ∃ mem, exec (.remoteMessage m) s =
    .next (applyMsg { s with pending := s.pending.erase (.remoteMessage m), mem := mem } m) := by
  obtain ⟨mem, hmem⟩ := msgRelease_mem (withPending s (s.pending.erase (.remoteMessage m))) m
  refine ⟨mem, (remoteMessage_eq hpending hfirst hordered htaken).trans ?_⟩
  rw [takeMsg_applies (s := withPending s (s.pending.erase (.remoteMessage m))) hreach hb hpre, hmem]

theorem remoteMessage_applied_of_ne (hpre : b.preempt = false) (hop : ∀ op addr, m.op ≠ .arrive op addr) : exec (.remoteMessage m) s =
    .next (applyMsg (withPending s (s.pending.erase (.remoteMessage m))) m) := by
  rw [remoteMessage_eq hpending hfirst hordered htaken,
    takeMsg_applies (s := withPending s (s.pending.erase (.remoteMessage m))) hreach hb hpre, msgRelease_of_ne hop]

theorem remoteMessage_held (hrun : b.status = .running) (hpre : b.preempt = true) (hop : ∀ op addr, m.op ≠ .arrive op addr) :
    Acts (.remoteMessage m) (.remoteMessage m) s fun s => s.setBlock m.blk { b with heldMsgs := b.heldMsgs ++ [m] } := by
  unfold Acts
  rw [remoteMessage_eq hpending hfirst hordered htaken,
    takeMsg_holds (s := withPending s (s.pending.erase (.remoteMessage m))) hreach hb hrun hpre hop]

end

section
variable {s : State} {blk : Nat} {b : Block} {t : TileOp}

/-- What TILE_OP_COMPLETE leaves of an operation whose results no write has met. -/
theorem tileOpComplete_effect (hb : s.block blk = some b) (ht : tileOf b t.id = some t) (hrun : t.running = true) (hconsumed : t.consumed = true)
    (hdest : destReady s blk b t = true) (hshares : ∀ e ∈ tilesBefore b t.id, e.shares t = false) (htaint : t.tainted = false)
    (hlost : operandLost s t = false) :
    ∃ s1 c, exec (.tileOpComplete blk t.id) s = .next s1 ∧ s1.block blk = some c ∧ (∀ e ∈ c.tiles, e.id ≠ t.id) ∧
      ((t.out.map Prod.fst).Nodup → (∀ q ∈ t.out, slabAt s1 blk q.1 = q.2) ∧
        ∀ i, (∀ q ∈ t.out, q.1 ≠ i) → slabAt s1 blk i = slabAt s blk i) ∧
      (∀ off, t.kind = .zst off → (t.bytes.map Prod.fst).Nodup → (∀ q ∈ t.bytes, spmAt s1 blk q.1 = q.2) ∧
        ∀ a, (∀ q ∈ t.bytes, q.1 ≠ a) → spmAt s1 blk a = spmAt s blk a) ∧
      (∀ w, s.wave t.wave = some w → ∃ v, s1.wave t.wave = some v ∧ v.fstat = w.fstat ||| t.conds ∧
        v.ops = w.ops.map fun o => if o.id = t.op then { o with done := true } else o) := by
  obtain ⟨c, hc, htiles, hslabs, hspm, hwave⟩ :=
    finishTile_effect (s := withPending s (s.pending.erase (.tileOpComplete blk t.id))) (t := t) hb htaint hlost
  refine ⟨_, c, tileOpComplete_eq hb ht hrun hconsumed hdest hshares, hc, fun e he => ?_, fun hnd => ?_, fun off hk hnd => ?_, hwave⟩
  · rw [htiles] at he
    simpa using (List.mem_filter.1 he).2
  · simp only [slabAt, hb, hc, Option.map_some, Option.getD_some, hslabs]
    exact get_foldl_store 0 t.out b.slabs hnd
  · simp only [spmAt_block hb, spmAt_block hc, hspm off hk]
    exact get_foldl_store 0 t.bytes b.spm hnd

end

/-- Settles O47: each step by the lemma that says what it leaves. -/
theorem unitSteps : Obligations.UnitSteps := by
  refine ⟨fun id c s hc => ⟨?ready, ?start, ?land, ?cpy⟩, fun blk off k pa va key upd s hinit => ⟨?array, ?line, ?wave⟩,
    fun k lanes gen addr ph obj test s w ls bs pc hpending hordered htaken hw hls hbs hpc => ⟨?answer, ?dropped⟩,
    fun k obj s w hw hanswered => bwaitRelease_acts hw hanswered,
    fun m s hpending hfirst hordered htaken hn => ⟨fun b hreach hb hrun hpre => ?applied, ?held, ?gone⟩,
    fun blk b t s hb => ⟨?fire, ?consumed, ?complete⟩⟩
  case ready => exact copyReady_of_alone
  case start => exact copyStart_effect hc
  case land => exact fun j hready hpeer hn ho hdst hinj hclean hbar => sectorLand_effect hc hready hpeer hn ho hdst hinj hclean hbar
  case cpy => exact copySrc_copyDst_of_cpy
  case array =>
    intro hpending hn ho
    obtain ⟨t, hex, hobj, hout, hmem, hwaves, hposts⟩ := barrierUpdate_spm hinit hpending hn ho
    exact ⟨t, hex, hobj, hout, hmem, hwaves, fun hflip => hposts hflip k⟩
  case line => exact barrierUpdate_line
  case wave => exact fun w p => barrierUpdate_wave
  case answer =>
    intro hreach hnd
    have hex := remoteBarrierRequest_eq hpending hordered htaken hw hls hbs hpc
    simp only [hreach, if_true] at hex
    obtain ⟨hwave, hothers, hmem⟩ := answerAsk_frame (withPending s (s.pending.erase (.remoteBarrierRequest k lanes gen addr obj ph test)))
      k w ls bs obj ph test
    have hphase : phaseOf (withPending s (s.pending.erase (.remoteBarrierRequest k lanes gen addr obj ph test))) obj = phaseOf s obj := by
      cases obj <;> rfl
    rw [hphase] at hwave
    obtain ⟨hregs, hops, htested, hreleased, hsubscribed, hout⟩ := answeredWave_fibres (bs := bs) hls hnd (phaseOf s obj != ph)
    exact ⟨_, _, hex, hwave, hothers, hmem, hregs, hops, htested, fun h hne => hreleased h (bne_iff_ne.2 hne),
      fun h heq => hsubscribed h (bne_eq_false_iff_eq.2 heq), hout⟩
  case dropped =>
    intro hreach
    have hex := remoteBarrierRequest_eq hpending hordered htaken hw hls hbs hpc
    rw [hreach] at hex
    exact hex
  case applied =>
    have ho : OnCore s m.blk := ⟨b, hb, by rw [hrun]; exact nofun⟩
    let s0 := withPending s (s.pending.erase (.remoteMessage m))
    have hother := remoteMessage_applied_of_ne hpending hfirst hordered htaken hreach hb hpre
    refine ⟨fun d op sub w hop hw => ?_, fun op sub w hop hw => ?_, fun op addr hop => ?_, fun n hop => ?_, fun id j c hop hc hbar => ?_⟩
    · exact ⟨_, hother (fun _ _ h => nomatch hop.symm.trans h), applyMsg_store (s := s0) hn ho hop hw⟩
    · exact ⟨_, hother (fun _ _ h => nomatch hop.symm.trans h), applyMsg_load (s := s0) hn ho hop hw⟩
    · obtain ⟨mem, hex⟩ := remoteMessage_applied hpending hfirst hordered htaken hreach hb hpre
      exact ⟨_, hex, applyMsg_arrive (s := { s with pending := s.pending.erase (.remoteMessage m), mem := mem }) hn ho hop⟩
    · exact ⟨_, hother (fun _ _ h => nomatch hop.symm.trans h), applyMsg_expect (s := s0) hn ho hop⟩
    · exact ⟨_, hother (fun _ _ h => nomatch hop.symm.trans h), applyMsg_sector (s := s0) hn ho hop hc hbar⟩
  case held => exact fun b hreach hb hrun hpre hop => remoteMessage_held hpending hfirst hordered htaken hreach hb hrun hpre hop
  case gone =>
    intro hreach op sub w hop hw
    exact ⟨_, remoteMessage_eq hpending hfirst hordered htaken,
      takeMsg_dropped_load (s := withPending s (s.pending.erase (.remoteMessage m))) hreach hop hw⟩
  case fire =>
    intro ht hready hserved s0
    obtain ⟨c, hex, hc, hslabs, hspm, hfence, hsel, hfired⟩ := tileOpFire_effect hb ht hready hserved
    refine ⟨_, c, hex, hc, hslabs, hspm, hfence, hsel, fun h1 h2 => ?_⟩
    obtain ⟨poison, hmem⟩ := hfired h1 h2
    obtain ⟨base, hbase⟩ := touchPlaces_base s0 b.ctx t.reads
    have hresult := firedTile_result (s := touchPlaces s0 b.ctx t.reads) (t := t) (by rw [hbase]; exact hb) poison
    refine ⟨_, hmem, rfl, rfl, rfl, ?_⟩
    have hspm (a : Nat) : spmAt (touchPlaces s0 b.ctx t.reads) blk a = spmAt s blk a := by rw [hbase]; rfl
    have hslab (i : Nat) : slabAt (touchPlaces s0 b.ctx t.reads) blk i = slabAt s blk i := by rw [hbase]; rfl
    have hwave : (touchPlaces s0 b.ctx t.reads).wave t.wave = s.wave t.wave := by rw [hbase]; rfl
    simp only [hspm, hslab, hwave] at hresult
    exact hresult
  case consumed => exact operandsConsumed_acts hb
  case complete => exact tileOpComplete_effect hb

end Sys2Proof.UnitSteps
end

section
/-! PROOF. The words of ordered sections: slots taken and given back at issue, fibres parked, and the requests on their way
(12_ordered_sections R262 to R264). -/

namespace Sys2Proof.OrderedWords

open Machine

/-! ## The nesting rules (R263) -/

theorem nestTrap_none {xs : List LaneIn} {ok : LaneIn → Bool} {info : Nat} (h : ∀ x ∈ xs, ok x = true) : nestTrap xs ok info = none := by
  have hnil : xs.filter (fun x => !ok x) = [] := List.filter_eq_nil_iff.2 fun x hx => by simp [h x hx]
  simp only [nestTrap, hnil, List.map_nil]

/-- Trap 0x24 is for the fibres that fail the rule. -/
theorem nestTrap_some {xs : List LaneIn} {ok : LaneIn → Bool} {info : Nat} (h : ∃ x ∈ xs, ok x = false) :
    nestTrap xs ok info = some (mkTrap 0x24 ((xs.filter fun x => !ok x).map LaneIn.lane) 0 info) := by
  obtain ⟨x, hx, hbad⟩ := h
  have hne : (xs.filter fun x => !ok x).map LaneIn.lane ≠ [] :=
    List.ne_nil_of_mem (List.mem_map_of_mem (List.mem_filter.2 ⟨hx, by simp [hbad]⟩))
  unfold nestTrap
  split
  next hnil => exact absurd hnil hne
  next => rfl

/-! ## The words -/

/-- Where every element has a value, those values are what is left. -/
theorem filterMap_of_map_some {α β : Type} {f : α → Option β} {xs : List α} {ys : List β} (h : xs.map f = ys.map some) :
    xs.filterMap f = ys := by
  rw [← Function.id_comp f, ← List.filterMap_map, h, List.filterMap_map]
  exact List.filterMap_some

variable {d a b : VReg} {s : State} {k : Nat} {r w w1 : Wave} {vals : Map (Map Word)}

/-- OENT with a free slot in every fibre takes one in each and parks it. -/
theorem oent_completes (hr : FieldsRead s k r w (portCheck r [a.toNat, b.toNat] [d.toNat]) [a.toNat, b.toNat] vals w1)
    (hfree : ∀ x ∈ inputs s r vals [a.toNat, b.toNat], freeSect x.fibre = true) :
    Completes (.oent d a b) s k r ((s.moved k ((inputs s r vals [a.toNat, b.toNat]).foldl (fun w x =>
      parkOne s (takeSect w x { key := x.arg 0, seq := x.arg 1, st := .awaiting }) x.lane
        (.oent (x.arg 0) (x.arg 1) (x.fibre.base + d.toNat))) w1)).posts
      ((inputs s r vals [a.toNat, b.toNat]).map fun x => wpReq s r x .oent (x.arg 0) (x.arg 1) none)) :=
  (readWord_eq hr _).trans (by rw [nestTrap_none hfree])

theorem oent_raises (hr : FieldsRead s k r w (portCheck r [a.toNat, b.toNat] [d.toNat]) [a.toNat, b.toNat] vals w1)
    (hfull : ∃ x ∈ inputs s r vals [a.toNat, b.toNat], freeSect x.fibre = false) :
    Raises (.oent d a b) s k r
      (mkTrap 0x24 (((inputs s r vals [a.toNat, b.toNat]).filter fun x => !freeSect x.fibre).map LaneIn.lane) 0 0) :=
  (readWord_eq hr _).trans (by rw [nestTrap_some hfull])

/-- OSKIP takes a slot in every fibre until its skip has been performed; no fibre parks. -/
theorem oskip_completes (hr : FieldsRead s k r w (portCheck r [a.toNat, b.toNat] []) [a.toNat, b.toNat] vals w1)
    (hfree : ∀ x ∈ inputs s r vals [a.toNat, b.toNat], freeSect x.fibre = true) :
    Completes (.oskip a b) s k r ((s.setWave k ((inputs s r vals [a.toNat, b.toNat]).foldl (fun w x =>
      takeSect w x { key := x.arg 0, seq := x.arg 1, st := .deferred }) w1)).posts
      ((inputs s r vals [a.toNat, b.toNat]).map fun x => wpReq s r x .oskip (x.arg 0) (x.arg 1) (some (k, w1.nextOp)))) :=
  (readWord_eq hr _).trans (by rw [nestTrap_none hfree])

/-- OLEAVE where every fibre holds the section that it names gives the slots back and sends the leaves. -/
theorem oleave_completes (hr : FieldsRead s k r w (portCheck r [a.toNat] []) [a.toNat] vals w1) {held : List (LaneIn × Sect)}
    (hheld : (inputs s r vals [a.toNat]).map (fun x => (heldSect x.fibre (x.arg 0)).map fun y => (x, y)) = held.map some) :
    Completes (.oleave a) s k r ((s.setWave k (held.foldl (fun w q => w.mapFibre q.1.lane (setSlot q.2 Sect.none)) w1)).posts
      (held.map fun q => wpReq s r q.1 .oleave q.2.key q.2.seq (some (k, w1.nextOp)))) := by
  have hall : ∀ x ∈ inputs s r vals [a.toNat], (heldSect x.fibre (x.arg 0)).isSome = true := fun x hx => by
    obtain ⟨q, -, hq⟩ := List.mem_map.1 (hheld ▸ List.mem_map_of_mem hx)
    rw [← Option.isSome_map, ← hq]
    rfl
  exact (readWord_eq hr _).trans (by simp only [nestTrap_none hall, filterMap_of_map_some hheld])

theorem oleave_raises (hr : FieldsRead s k r w (portCheck r [a.toNat] []) [a.toNat] vals w1)
    (hnone : ∃ x ∈ inputs s r vals [a.toNat], heldSect x.fibre (x.arg 0) = none) :
    Raises (.oleave a) s k r
      (mkTrap 0x24 (((inputs s r vals [a.toNat]).filter fun x => !(heldSect x.fibre (x.arg 0)).isSome).map LaneIn.lane) 0 1) := by
  obtain ⟨x, hx, hno⟩ := hnone
  exact (readWord_eq hr _).trans (by rw [nestTrap_some ⟨x, hx, by rw [hno]; rfl⟩])

/-- Settles O33: each word by the lemma of its outcome. -/
theorem orderedSectionWords : Obligations.OrderedSectionWords :=
  fun _ _ _ _ _ _ _ _ _ =>
    ⟨fun hr => ⟨oent_completes hr, oent_raises hr⟩, fun hr => oskip_completes hr,
      fun hr => ⟨fun _ hheld => oleave_completes hr hheld, oleave_raises hr⟩, fun hr => readWord_eq hr _⟩

end Sys2Proof.OrderedWords
end

section
/-! SUPPORT. The entries of ordered sections: what a put changes, and what a request and a claim do at their number's distance
(12_ordered_sections R259 to R265). -/

namespace Sys2Proof.Waypoints

open Machine MemorySteps

/-! ## The table -/

/-- An entry put in the table changes the table and nothing else. -/
theorem wpPut_frame (s : State) (e : WpEntry) : wpPut s e = { s with base := { s.base with wps := (wpPut s e).base.wps } } := by
  unfold wpPut
  dsimp only
  split <;> rfl

@[simp] theorem wpPut_dev (s : State) (e : WpEntry) : (wpPut s e).dev = s.dev := by rw [wpPut_frame]

@[simp] theorem wpPut_mem (s : State) (e : WpEntry) : (wpPut s e).mem = s.mem := by rw [wpPut_frame]

@[simp] theorem wpPut_work (s : State) (e : WpEntry) : (wpPut s e).work = s.work := by rw [wpPut_frame]

@[simp] theorem wpPut_pending (s : State) (e : WpEntry) : (wpPut s e).pending = s.pending := by rw [wpPut_frame]

/-! ## A request at its entry (R264) -/

section
variable {s : State} {e : WpEntry} {r : WpReq}

/-- A number that has passed or is skipped. -/
theorem doOent_stale (h : wpDist e r.seq < 0 ∨ 0 < wpDist e r.seq ∧ wpDist e r.seq < 256 ∧ e.skip.getLsbD ((wpDist e r.seq).toNat - 1) = true) :
    doOent s e r = (wpPut s e).post (.waypointAnswer r.uid r.key (.stale r.seq)) :=
  if_pos h

/-- The entry's own number, with no holder. -/
theorem doOent_granted (hd : wpDist e r.seq = 0) (hh : e.holder = none) :
    doOent s e r = (wpPut s { e with holder := some r.uid }).post (.waypointAnswer r.uid r.key (.granted r.seq)) := by
  simp [doOent, hd, hh, answerTo]

/-- Another number to come, or the entry's own while another fibre holds it. -/
theorem doOent_waits (h : wpDist e r.seq = 0 ∧ e.holder ≠ none ∨
      0 < wpDist e r.seq ∧ ¬ (wpDist e r.seq < 256 ∧ e.skip.getLsbD ((wpDist e r.seq).toNat - 1) = true)) :
    doOent s e r = addWait (wpPut s (e.subscribe (fibreCore s r.uid))) r (fibreCore s r.uid) := by
  have hstale : ¬ (wpDist e r.seq < 0 ∨ 0 < wpDist e r.seq ∧ wpDist e r.seq < 256 ∧ e.skip.getLsbD ((wpDist e r.seq).toNat - 1) = true) := by
    rintro (hlt | ⟨hpos, hskip⟩)
    · omega
    · exact h.elim (fun h => by omega) fun h => h.2 hskip
  have hgrant : ¬ (wpDist e r.seq = 0 ∧ e.holder.isNone = true) := by
    rintro ⟨hd, hnone⟩
    exact h.elim (fun h => h.2 (Option.isNone_iff_eq_none.1 hnone)) fun h => by omega
  exact (if_neg hstale).trans (if_neg hgrant)

/-- A wait is one more in the list, and nothing else changes. -/
theorem addWait_put (core : Nat) (e' : WpEntry) :
    let t := addWait (wpPut s e') r core
    (∃ q : WpWait, q.req = r ∧ q.core = core ∧ q.stamp = s.dev.cycles ∧ q.walks = 0 ∧ q.claiming = false ∧
      t.base.waits = q :: (wpPut s e').base.waits) ∧ t.base.wps = (wpPut s e').base.wps ∧ t.pending = s.pending ∧ t.work = s.work ∧ t.mem = s.mem :=
  ⟨⟨_, rfl, rfl, by rw [wpPut_dev], rfl, rfl, rfl⟩, rfl, wpPut_pending s e', wpPut_work s e', wpPut_mem s e'⟩

/-- A skip of the number that no fibre holds retires it. -/
theorem doOskip_retires (hd : wpDist e r.seq = 0) (hh : e.holder = none) : doOskip s e r = skipDone (wpRetire s e) r := by
  simp [doOskip, hd, hh]

/-- A skip of one of the 255 numbers to come is recorded. -/
theorem doOskip_records (hpos : 0 < wpDist e r.seq) (hlt : wpDist e r.seq < 256) :
    doOskip s e r = skipDone (wpPut s { e with skip := e.skip ||| ((1 : BitVec 255) <<< ((wpDist e r.seq).toNat - 1)) }) r := by
  have hpast : ¬ (wpDist e r.seq < 0 ∨ (wpDist e r.seq = 0 ∧ e.holder.isSome = true)) := by omega
  exact (if_neg hpast).trans ((if_neg (by omega)).trans (if_pos hlt))

/-- A skip of a number that has passed or is held is discarded. -/
theorem doOskip_discards (h : wpDist e r.seq < 0 ∨ wpDist e r.seq = 0 ∧ e.holder ≠ none) : doOskip s e r = skipDone (wpPut s e) r :=
  if_pos (h.imp_right fun h => ⟨h.1, Option.isSome_iff_ne_none.2 h.2⟩)

end

/-! ## A claim at its entry (R265) -/

section
variable {s : State} {e : WpEntry} {q : WpWait}

theorem doClaim_stale (h : wpDist e q.req.seq < 0) : doClaim s e q =
    (dropSubs (dropWait (wpPut s e) q) q.core q.req.ctx q.req.key).post (.waypointAnswer q.req.uid q.req.key (.stale q.req.seq)) :=
  if_pos h

theorem doClaim_granted (hd : wpDist e q.req.seq = 0) (hh : e.holder = none) : doClaim s e q =
    (dropSubs (dropWait (wpPut s { e with holder := some q.req.uid }) q) q.core q.req.ctx q.req.key).post
      (.waypointAnswer q.req.uid q.req.key (.granted q.req.seq)) := by
  simp [doClaim, hd, hh, answerTo]

/-- A claim that has come too early waits again. -/
theorem doClaim_waits (h : 0 < wpDist e q.req.seq ∨ wpDist e q.req.seq = 0 ∧ e.holder ≠ none) :
    let p := wpPut s (e.subscribe q.core)
    doClaim s e q = { p with base := { p.base with waits := p.base.waits.map fun x => if x = q then { q with claiming := false } else x } } := by
  have hgrant : ¬ (wpDist e q.req.seq = 0 ∧ e.holder.isNone = true) := by
    rintro ⟨hd, hnone⟩
    exact h.elim (fun h => by omega) fun h => h.2 (Option.isNone_iff_eq_none.1 hnone)
  exact (if_neg (by omega)).trans (if_neg hgrant)

end

/-! ## Poison in the backing table (20_errors R438) -/

section
variable {s go : State} {ctx : Nat} {key : Word}

theorem guardKey_clear (h : wpPoison s ctx key = none) : guardKey s ctx key go = go := by
  simp only [guardKey, guardFrame, h]

theorem guardKey_stops {line : Nat} (h : wpPoison s ctx key = some line) (hc : ctxStopped s ctx = false) :
    guardKey s ctx key go = stopForPoison s ctx (wpHome ctx key) line := by
  simp only [guardKey, guardFrame, h, hc, Bool.false_eq_true, if_false]

end

/-! ## Walks (R268) -/

/-- A walk neither reads nor changes the steps in flight. -/
theorem walkKeys_withPending (s : State) (es : List Ev) (uid ctx n : Nat) (key : Word) :
    walkKeys (withPending s es) uid ctx n key = walkKeys s uid ctx n key := by
  induction n generalizing key with
  | zero => rfl
  | succ n ih =>
    simp only [walkKeys, ih]
    rfl

end Sys2Proof.Waypoints
end

section
/-! PROOF. The locks of commits: what a lock and the end of a commit leave (10_memory_instructions R216 to R219,
12_ordered_sections R275 to R278). -/

namespace Sys2Proof.CommitLocks

open Machine

/-! ## The steps of the sequencer -/

section
variable {s : State} {id : Nat} {c : Commit}

theorem mcasLockRequest_acts {l : Nat} (hin : Ev.mcasLockRequest id ∈ s.pending) (hready : lockReady s id = true)
    (hc : s.mem.commits.look id = some c) (hl : c.next = some l) :
    Acts (.mcasLockRequest id) (.mcasLockRequest id) s fun s => takeLock s id c l :=
  acts_of (show execMcasLockRequest id s = _ from rfl) (by rw [List.contains_iff_mem.2 hin, hready]; rfl)
    (by simp only [hc, hl, Option.map_some, Option.getD_some])

/-- An acknowledgement is due unless its commit's write-back must wait for a line. -/
theorem mcasLockAck_acts (hin : Ev.mcasLockAck id ∈ s.pending) (hc : s.mem.commits.look id = some c)
    (hback : ∀ obs, c.obs = some obs → backReady s c obs = true) :
    Acts (.mcasLockAck id) (.mcasLockAck id) s fun s => commitStep s id c := by
  have hready : (c.obs.map (backReady s c)).getD true = true := by
    cases hobs : c.obs with
    | none => rfl
    | some obs => exact hback obs hobs
  exact acts_of (show execMcasLockAck id s = _ from rfl) (by rw [List.contains_iff_mem.2 hin]; simpa only [hc, Bool.true_and] using hready)
    (by simp only [hc])

theorem commitStep_request (hobs : c.obs = none) (hnext : c.next.isSome = true) : commitStep s id c = s.post (.mcasLockRequest id) := by
  simp only [commitStep, hobs, hnext, if_true]

theorem commitStep_event (hobs : c.obs = none) (hnext : c.next = none) : commitStep s id c = commitEvent s id c := by
  simp only [commitStep, hobs, hnext, Option.isSome_none, Bool.false_eq_true, if_false]

theorem commitStep_finish {obs : List Nat} (hobs : c.obs = some obs) : commitStep s id c = finishCommit s id c obs := by
  simp only [commitStep, hobs]

end

/-! ## What a lock leaves -/

theorem forgetLine_locked (m : MemSys) (line : Nat) : (forgetLine m line).locked = m.locked := by
  unfold forgetLine
  split
  · rfl
  · exact foldl_keeps (P := fun n : MemSys => n.locked = m.locked) (f := fun n c => dirClear n c (regionOf line)) (fun _ _ h => h) _ _ rfl

theorem recallLine_locked (m : MemSys) (line : Nat) : (recallLine m line).locked = m.locked := forgetLine_locked _ line

/-- What is written through before a release is memory alone. -/
theorem beforeRelease_getD_frame (s : State) (core : Nat) (o : MemOp) :
    ∃ m, (beforeRelease s core o).getD s = { s with mem := m } := by
  unfold beforeRelease
  split
  · split <;> exact ⟨_, rfl⟩
  · exact ⟨_, rfl⟩

/-- A commit's lock recalls its line from memory that at most a release before it has changed. -/
theorem takeLock_eq (s : State) (id : Nat) (c : Commit) (l : Nat) :
    ∃ m, (c.locked ≠ [] → m = s.mem) ∧ takeLock s id c l =
      { s with mem := { recallLine m l with
                 locked := (l, id) :: (recallLine m l).locked
                 commits := (recallLine m l).commits.put id { c with locked := l :: c.locked } } }.post (.mcasLockAck id) := by
  unfold takeLock
  split
  next w o hlocked _ =>
    obtain ⟨m, hm⟩ := beforeRelease_getD_frame s (coreOf s w) o
    exact ⟨m, fun h => absurd hlocked h, by simp only [hm]⟩
  next => exact ⟨s.mem, fun _ => rfl, rfl⟩

theorem takeLock_effect (s : State) (id : Nat) (c : Commit) (l : Nat) :
    let t := takeLock s id c l
    (∃ rest, t.mem.locked = (l, id) :: rest ∧ (c.locked ≠ [] → rest = s.mem.locked)) ∧
    t.mem.commits.look id = some { c with locked := l :: c.locked } ∧ Ev.mcasLockAck id ∈ t.pending ∧ t.work = s.work ∧ t.ctxs = s.ctxs := by
  obtain ⟨m, hm, heq⟩ := takeLock_eq s id c l
  simp only [heq]
  refine ⟨⟨_, rfl, fun h => ?_⟩, Map.look_put_self .., by simp, rfl, rfl⟩
  rw [recallLine_locked, hm h]

/-! ## What the end of a commit leaves -/

/-- The end of an access may drop clean lines of its core, and changes nothing else of the memory system. -/
theorem endSub_mem (s : State) (k id j core value : Nat) (acq : Bool) :
    ∃ l1, (endSub s k id j core value acq).mem = { s.mem with l1 := l1 } := by
  unfold endSub
  cases acq <;> exact ⟨_, rfl⟩

/-- A finished commit has left the sequencer after its write-back. -/
theorem finishCommit_mem (s : State) (id : Nat) (c : Commit) (obs : List Nat) :
    ∃ l1, (finishCommit s id c obs).mem =
      { (backWords s c obs).mem with commits := (backWords s c obs).mem.commits.del id, l1 := l1 } := by
  unfold finishCommit
  dsimp only
  split
  · exact endSub_mem ..
  · exact ⟨_, rfl⟩

theorem finishCommit_commits (s : State) (id : Nat) (c : Commit) (obs : List Nat) : (finishCommit s id c obs).mem.commits.look id = none := by
  obtain ⟨l1, hmem⟩ := finishCommit_mem s id c obs
  rw [hmem, Map.look_del, if_pos rfl]

/-- A commit without write-back leaves its parameter block. -/
theorem backWords_of_nowb {s : State} {c : Commit} {obs : List Nat} (h : c.nowb = true) : backWords s c obs = s := by
  simp [backWords, Commit.writesBack, h]

theorem finishCommit_of_nowb {s : State} {id : Nat} {c : Commit} {obs : List Nat} (h : c.nowb = true) :
    (finishCommit s id c obs).mem.mem = s.mem.mem ∧ (finishCommit s id c obs).mem.locked = s.mem.locked := by
  obtain ⟨l1, hmem⟩ := finishCommit_mem s id c obs
  rw [hmem, backWords_of_nowb h]
  exact ⟨rfl, rfl⟩

/-- A failed commit whose write-back must wait writes nothing and drops every lock (R275, R278). -/
theorem commitEvent_waits {s : State} {id : Nat} {c : Commit} (hfails : (c.used s).mismatch ((c.used s).observed s) ≠ 0)
    (hback : backReady (unlock s id) (c.used s) ((c.used s).observed s) = false) :
    let t := commitEvent s id c
    t.mem.mem = s.mem.mem ∧ t.mem.locked = s.mem.locked.filter (fun p => p.2 != id) ∧ Ev.mcasLockAck id ∈ t.pending ∧
      t.mem.commits.look id = some { c.used s with obs := some ((c.used s).observed s) } := by
  have hwords : commitWords s (c.used s) ((c.used s).observed s) = s := if_neg hfails
  simp only [commitEvent, hwords, hback, Bool.false_eq_true, if_false]
  exact ⟨rfl, rfl, by simp, Map.look_put_self ..⟩

end Sys2Proof.CommitLocks
end

section
/-! PROOF. The steps of ordered sections at their waypoints, and with them those of the commit sequencer (12_ordered_sections
R258 to R276). -/

namespace Sys2Proof.Waypoints

open Machine MemorySteps CommitLocks

/-! ## Requests, multicasts and claims -/

section
variable {r : WpReq} {s s1 : State}

/-- A request whose turn it is writes its core's S bytes through and is served, unless poison stops its context. -/
theorem waypointRequest_eq (hin : Ev.waypointRequest r ∈ s.pending) (hfirst : reqFirst s r = true) (hopen : wpOpen s r.ctx r.key = true)
    (hs1 : releaseOf (withPending s (s.pending.erase (.waypointRequest r))) r = some s1) (hrel : (releaseOf s r).isSome = true) :
    exec (.waypointRequest r) s = .next (guardKey s1 r.ctx r.key (wpServe s1 r)) := by
  have hdue : (s.pending.contains (.waypointRequest r) && reqFirst s r && (releaseOf s r).isSome && wpOpen s r.ctx r.key) = true := by
    rw [List.contains_iff_mem.2 hin, hfirst, hrel, hopen]; rfl
  refine (show execWaypointRequest r s = _ from runEvent_due hdue _).trans ?_
  simp only [hs1, Option.getD_some]

theorem waypointMulticast_acts {core ctx : Nat} {key n : Word} (hin : Ev.waypointMulticast core ctx key n ∈ s.pending) :
    Acts (.waypointMulticast core ctx key n) (.waypointMulticast core ctx key n) s fun s =>
      dropSubs ((s.base.waits.filter fun q => q.core == core && q.req.ctx == ctx && q.req.key == key).foldl (hearOne n) s) core ctx key :=
  acts_of (show execWaypointMulticast core ctx key n s = _ from rfl) (List.contains_iff_mem.2 hin) rfl

/-- A claim of a wait is served at its key's home, unless poison stops its context. -/
theorem waypointClaim_acts {q : WpWait} (hin : Ev.waypointClaim r ∈ s.pending) (hopen : wpOpen s r.ctx r.key = true)
    (hq : s.base.waits.find? (fun q => q.req == r && q.claiming) = some q) :
    Acts (.waypointClaim r) (.waypointClaim r) s fun s => guardKey s r.ctx r.key (claimServe s q) := by
  have hq' : (withPending s (s.pending.erase (.waypointClaim r))).base.waits.find? (fun q => q.req == r && q.claiming) = some q := hq
  exact acts_of (show execWaypointClaim r s = _ from rfl) (by rw [List.contains_iff_mem.2 hin, hopen]; rfl) (by simp only [hq'])

theorem waypointClaim_serves {q : WpWait} {e : WpEntry} (hin : Ev.waypointClaim r ∈ s.pending) (hopen : wpOpen s r.ctx r.key = true)
    (hq : s.base.waits.find? (fun q => q.req == r && q.claiming) = some q)
    (he : wpEntry (withPending s (s.pending.erase (.waypointClaim r))) r.ctx r.key = some (s1, e)) (hclear : wpPoison s r.ctx r.key = none) :
    exec (.waypointClaim r) s = .next (doClaim s1 e q) := by
  have hfound := List.find?_some (p := fun q : WpWait => q.req == r && q.claiming) hq
  obtain rfl : q.req = r := eq_of_beq (Bool.and_eq_true_iff.1 hfound).1
  refine (waypointClaim_acts hin hopen hq).trans (congrArg Host.Outcome.next ?_)
  refine (guardKey_clear (s := withPending s (s.pending.erase (.waypointClaim q.req))) hclear).trans ?_
  simp only [claimServe, he]

theorem waypointClaim_stops {q : WpWait} {line : Nat} (hin : Ev.waypointClaim r ∈ s.pending) (hopen : wpOpen s r.ctx r.key = true)
    (hq : s.base.waits.find? (fun q => q.req == r && q.claiming) = some q) (hpoison : wpPoison s r.ctx r.key = some line)
    (hc : ctxStopped s r.ctx = false) :
    Acts (.waypointClaim r) (.waypointClaim r) s fun s => stopForPoison s r.ctx (wpHome r.ctx r.key) line :=
  (waypointClaim_acts hin hopen hq).trans
    (congrArg Host.Outcome.next (guardKey_stops (s := withPending s (s.pending.erase (.waypointClaim r))) hpoison hc))

end

/-! ## Answers, walks and gaps -/

section
variable {s : State} {uid : Nat} {key : Word}

/-- An answer takes effect in the fibre that waits for it (R264 to R266). -/
theorem waypointAnswer_acts {ans : WpAns} {k l : Nat} {f : Fibre} {d : Nat × Bool} (hf : fibreAt s uid = some (k, l, f))
    (hin : Ev.waypointAnswer uid key ans ∈ s.pending) (hd : awaitsKey f key (answerSeq ans) = some d) :
    Acts (.waypointAnswer uid key ans) (.waypointAnswer uid key ans) s fun s => takeAnswer s k l d key ans := by
  have hf' : fibreAt (withPending s (s.pending.erase (.waypointAnswer uid key ans))) uid = some (k, l, f) := hf
  exact acts_of (show execWaypointAnswer uid key ans s = _ from rfl) (List.contains_iff_mem.2 hin)
    (by simp only [hf', Option.bind_some, hd, Option.map_some])

/-- A walk withdraws its wait when it comes back to the waiter, and is counted else. -/
theorem deadlockWalk_acts {q : WpWait} (hq : waitOf s uid = some q) :
    Acts (.deadlockWalk uid) (.deadlockWalk uid) s fun t =>
      if walkKeys s uid q.req.ctx 16 q.req.key = true then wpWithdraw t q
      else { t with base := { t.base with waits := t.base.waits.map fun x => if x = q then { q with walks := q.walks + 1 } else x } } := by
  have hq' : waitOf (withPending s (s.pending.erase (.deadlockWalk uid))) uid = some q := hq
  exact acts_of (show execDeadlockWalk uid s = _ from rfl) (by rw [hq]; rfl) (by simp only [hq', walkKeys_withPending])

theorem waypointGap_acts {g : GapNote} (hg : gapFor s uid = some g) :
    Acts (.waypointGap uid) (.waypointGap uid) s fun s =>
      postEvent { s with base := { s.base with gaps := s.base.gaps.erase g } } g.ctx (wpHome g.ctx g.key) 2
        [(8, g.key.toNat), (12, g.n.toNat), (0x10, g.seq.toNat)] := by
  have hg' : gapFor (withPending s (s.pending.erase (.waypointGap uid))) uid = some g := hg
  exact acts_of (show execWaypointGap uid s = _ from rfl) (by rw [hg]; rfl) (by simp only [hg'])

end

/-- Settles O48: what an entry does at each distance, and each step by the lemma of its effect. -/
theorem waypointSteps : Obligations.WaypointSteps := by
  refine fun r core ctx uid id key n s => ⟨?request, fun e => ⟨?query, ?stale, ?granted, ?waits, ?leaves, ?leavesNot, ?records, ?retires, ?discards⟩,
    fun e q => ⟨doClaim_stale, doClaim_granted, doClaim_waits⟩, waypointMulticast_acts, fun q s1 e => waypointClaim_serves,
    fun q line => waypointClaim_stops, ?answer, ?walk, fun g => waypointGap_acts, fun c l => mcasLockRequest_acts, ?ack,
    takeLock_effect s id, fun c obs => ⟨finishCommit_commits s id c obs, finishCommit_of_nowb⟩, fun c => commitEvent_waits⟩
  case request =>
    intro hin hfirst hopen s1 hs1 hrel
    have hex := waypointRequest_eq hin hfirst hopen hs1 hrel
    refine ⟨fun hclear => ?_, fun line hpoison hc => hex.trans (by rw [guardKey_stops hpoison hc])⟩
    rw [guardKey_clear hclear] at hex
    exact ⟨fun s2 e he => hex.trans (by simp only [wpServe, he]), fun hnone => hex.trans (by simp only [wpServe, hnone])⟩
  case query => exact fun hk => by simp only [doRequest, hk, answerTo]
  case stale => exact fun hk h => by simp only [doRequest, hk, doOent_stale h]
  case granted => exact fun hk hd hh => by simp only [doRequest, hk, doOent_granted hd hh]
  case waits =>
    intro hk h
    have hwaits : doRequest s e r = addWait (wpPut s (e.subscribe (fibreCore s r.uid))) r (fibreCore s r.uid) := by
      simp only [doRequest, hk, doOent_waits h]
    rw [hwaits]
    exact addWait_put _ _
  case leaves => exact fun hk hh => by simp only [doRequest, hk, hh, if_true]
  case leavesNot => exact fun hk hh => by simp only [doRequest, hk, hh, if_false]
  case records => exact fun hk hpos hlt => by simp only [doRequest, hk, doOskip_records hpos hlt]
  case retires => exact fun hk hd hh => by simp only [doRequest, hk, doOskip_retires hd hh]
  case discards => exact fun hk h => by simp only [doRequest, hk, doOskip_discards h]
  case answer =>
    exact fun k l f d v hf => ⟨waypointAnswer_acts hf, waypointAnswer_acts hf, waypointAnswer_acts hf⟩
  case walk =>
    refine fun q hq => ⟨fun hback => ?_, fun hback => ?_⟩
    · simpa only [hback, if_true] using deadlockWalk_acts hq
    · simpa only [hback, Bool.false_eq_true, if_false] using deadlockWalk_acts hq
  case ack =>
    refine fun c hin hc => ⟨fun hobs hnext => ?_, fun hobs hnext => ?_, fun obs hobs hback => ?_⟩
    · have hacts := mcasLockAck_acts hin hc fun obs h => nomatch hobs.symm.trans h
      simpa only [commitStep_request hobs hnext] using hacts
    · have hacts := mcasLockAck_acts hin hc fun obs h => nomatch hobs.symm.trans h
      simpa only [commitStep_event hobs hnext] using hacts
    · have hacts := mcasLockAck_acts hin hc fun obs' h => Option.some.inj (hobs.symm.trans h) ▸ hback
      simpa only [commitStep_finish hobs] using hacts

end Sys2Proof.Waypoints
end

section
/-! PROOF. The words of surfaces, fragments, textures and plots: each that passes its checks completes with its effect (13_raster R280 to R310,
14_plot_units R314, R315). -/

namespace Sys2Proof.GraphicsWords

open Machine MemoryWords

/-! ## Tables filled one entry after another -/

/-- Of entries put in a table at keys that differ each is read back. -/
theorem look_foldl_put {α : Type} {xs : List (Nat × α)} (hnd : (xs.map Prod.fst).Nodup) (m : Map α) {q : Nat × α} (hq : q ∈ xs) :
    (xs.foldl (fun (m : Map α) (p : Nat × α) => m.put p.1 p.2) m).look q.1 = some q.2 := by
  induction xs using List.reverseRecOn with
  | nil => cases hq
  | append_singleton xs p ih =>
    rw [List.map_append, List.nodup_append] at hnd
    obtain ⟨hnd, -, hne⟩ := hnd
    rw [List.foldl_append, List.foldl_cons, List.foldl_nil, Map.look_put]
    rcases List.mem_append.1 hq with hq | hq
    · rw [if_neg (hne _ (List.mem_map_of_mem hq) _ (by simp)), ih hnd hq]
    · rw [List.mem_singleton.1 hq, if_pos rfl]

/-! ## FEXP (R305) -/

/-- The exports of a batch, each with its number from `id` on. -/
def exportsOf (k op n id : Nat) (ins : List LaneIn) : List (Nat × Export) :=
  ((List.range ins.length).zip ins).filterMap fun p => p.2.fibre.frag.map fun g => (id + p.1, newExport k op g n p.2)

/-- The accesses that stand for the exports of a batch in its wave's operations. -/
def exportOp (b : Option Batch) (id : Nat) (ins : List LaneIn) : List Sub :=
  ((List.range ins.length).zip ins).flatMap fun p => exportSubs b p.2.lane (id + p.1) p.2.fibre.frag

/-- The state with the exports of a batch on their way. -/
def exporting (s : State) (k : Nat) (r w : Wave) (n : Nat) (ins : List LaneIn) : State :=
  let xs := exportsOf k w.nextOp n s.base.nextExport ins
  let w1 := addOp (clearFrag w (ins.map LaneIn.lane)) s.tick (some .st) .fexp none none (exportOp (waveBatch s r) s.base.nextExport ins) []
  let s1 := { s.setWave k w1 with base := { s.base with
      exports := xs.foldl (fun (m : Map Export) (x : Nat × Export) => m.put x.1 x.2) s.base.exports
      nextExport := s.base.nextExport + ins.length } }
  s1.posts (xs.map fun (x : Nat × Export) => Ev.exportEntry x.1)

section
variable (k op n id : Nat) (ins : List LaneIn)

theorem exportsOf_keys_nodup : ((exportsOf k op n id ins).map Prod.fst).Nodup := by
  have hrange : (((List.range ins.length).zip ins).map Prod.fst).Nodup := by
    rw [List.map_fst_zip (by simp)]
    exact List.nodup_range
  refine List.pairwise_map.2 (List.pairwise_filterMap.2 ((List.pairwise_map.1 hrange).imp fun {p q} hne => ?_))
  intro x hx y hy
  obtain ⟨g, -, rfl⟩ := Option.map_eq_some_iff.1 hx
  obtain ⟨g', -, rfl⟩ := Option.map_eq_some_iff.1 hy
  exact fun h => hne (Nat.add_left_cancel h)

variable {k op n id ins}

theorem mem_exportsOf {i : Nat} {x : LaneIn} {g : Frag} (hx : ins[i]? = some x) (hg : x.fibre.frag = some g) :
    (id + i, newExport k op g n x) ∈ exportsOf k op n id ins := by
  obtain ⟨hi, rfl⟩ := List.getElem?_eq_some_iff.1 hx
  exact List.mem_filterMap.2 ⟨(i, ins[i]), List.mem_iff_getElem.2 ⟨i, by simpa using hi, by simp⟩, by rw [hg]; rfl⟩

end

section
variable {s : State} {k : Nat} {r w w1 : Wave} {vals : Map (Map Word)}

/-- FEXP reads the colour run and the depth, and what each fibre exports is on its way. -/
theorem fexp_completes {a b : VReg}
    (hr : FieldsRead s k r w (fexpCheck a.toNat b.toNat (exportRegs s) r) (runOf a.toNat (exportRegs s) ++ [b.toNat]) vals w1)
    (hfull : classFull r .st = false) :
    Completes (.fexp a b) s k r (exporting s k r w1 (exportRegs s) (inputs s r vals (runOf a.toNat (exportRegs s) ++ [b.toNat]))) := by
  refine (readWordFrom_eq hr _).trans ?_
  rw [hfull, if_neg Bool.false_ne_true]
  rfl

/-- What each fibre exports stands in the table under its number, and its entry at the banks is in flight. -/
theorem exporting_exports {n : Nat} {ins : List LaneIn} {i : Nat} {x : LaneIn} {g : Frag} (hx : ins[i]? = some x) (hg : x.fibre.frag = some g) :
    let t := exporting s k r w n ins
    t.base.exports.look (s.base.nextExport + i) = some (newExport k w.nextOp g n x) ∧ Ev.exportEntry (s.base.nextExport + i) ∈ t.pending := by
  have hmem := mem_exportsOf (k := k) (op := w.nextOp) (n := n) (id := s.base.nextExport) hx hg
  exact ⟨look_foldl_put (exportsOf_keys_nodup ..) _ hmem, List.mem_append_right _ (List.mem_map_of_mem (f := fun p => Ev.exportEntry p.1) hmem)⟩

/-! ## PRIM, SRFSET and PLOT (R280, R287 to R291, 14_plot_units R314, R315) -/

section Records
variable {a b : SReg} (hi : Issues s k r w)
include hi

theorem prim_completes {x : PrimData} (hopen : readsOpen s r (primReads s (coreOf s r) (ctxOf s r) r.level (spair r a.toNat).toNat) = true)
    (hread : readPrim s (coreOf s r) (ctxOf s r) r.level (spair r a.toNat).toNat = .ok x) :
    Completes (.prim a) s k r (submitBatch (noteReads (s.setWave k w) k r (primReads s (coreOf s r) (ctxOf s r) r.level (spair r a.toNat).toNat))
      k r (ctxOf s r) x) := by
  refine (runWord_eq hi _).trans ?_
  simp only [hopen, hread, Bool.not_true, Bool.false_eq_true, if_false]

theorem srfset_completes {x : List Word} (hopen : readsOpen s r [((spair r a.toNat).toNat, 64)] = true) (hste : (sreg r b.toNat).toNat < 2 ^ 12)
    (hread : alignedWords s (coreOf s r) (ctxOf s r) r.level (spair r a.toNat).toNat 64 16 = .ok x) (hok : imageOk x = true) :
    Completes (.srfset a b) s k r
      ({ noteReads (s.setWave k w) k r [((spair r a.toNat).toNat, 64)] with base := { s.base with
          sets := s.base.sets.put s.base.nextSet { wave := k, ctx := ctxOf s r, ste := (sreg r b.toNat).toNat, image := x }
          nextSet := s.base.nextSet + 1 } }.post (.srfsetPerform s.base.nextSet)) := by
  refine (runWord_eq hi _).trans ?_
  simp only [hopen, hread, hok, Nat.not_le.2 hste, Bool.not_true, Bool.false_eq_true, if_false]

theorem plot_completes {x : PlotData} (hopen : readsOpen s r (plotReads s (coreOf s r) (ctxOf s r) r.level (spair r a.toNat).toNat) = true)
    (hread : readPlot s (coreOf s r) (ctxOf s r) r.level (spair r a.toNat).toNat = .ok x)
    (hsubset : firstRejected s (steOf s (ctxOf s r) (rw x.desc 3 % 2 ^ 12)).p x.words = none) (hrel : releaseReady s r = true) :
    Completes (.plot a) s k r
      (let s1 := noteReads (s.setWave k w) k r (plotReads s (coreOf s r) (ctxOf s r) r.level (spair r a.toNat).toNat)
       submitPlot { s1 with mem := releaseBytes s1.mem (coreOf s r) } k r (ctxOf s r) (spair r a.toNat).toNat x) := by
  refine (runWord_eq hi _).trans ?_
  simp only [hopen, hread, hsubset, hrel, Bool.not_true, Bool.false_eq_true, if_false]

/-! ## SRFQRY and FDISC (R305, R308) -/

theorem srfqry_completes {d : SReg} (hlow : (sreg r a.toNat).toNat < 2 ^ 16) (hsel : (sreg r a.toNat).toNat / 2 ^ 12 ≤ 5) :
    Completes (.srfqry d a) s k r (s.setWave k (setSreg w d.toNat
      (queryWord s (ctxOf s r) ((sreg r a.toNat).toNat % 2 ^ 12) ((sreg r a.toNat).toNat / 2 ^ 12)))) := by
  have hhigh : (sreg r a.toNat).toNat / 2 ^ 16 = 0 := Nat.div_eq_of_lt hlow
  have hbits : bits (sreg r a.toNat).toNat 15 12 = (sreg r a.toNat).toNat / 2 ^ 12 := by
    unfold bits
    omega
  refine (runWord_eq hi _).trans ?_
  simp only [hhigh, hbits, Nat.not_lt.2 hsel, bne_self_eq_false, decide_false, Bool.or_self, Bool.false_eq_true, if_false]

theorem fdisc_completes (hfrag : fragCheck r = none) :
    Completes .fdisc s k r ((fibresOf r (batch r)).foldl (fun s p =>
      match p.2.frag with
      | some g => discardFrag s k g
      | none => s) (s.setWave k (clearFrag w (batch r)))) := by
  refine (runWord_eq hi _).trans ?_
  generalize fragCheck r = o at hfrag ⊢
  subst hfrag
  rfl

end Records

/-! ## ATTR and TEX2 (R306, R309, R310) -/

theorem attr_completes {d a : VReg} {p : Bool} {j : BitVec 3} {bt : Batch}
    (hr : FieldsRead s k r w (attrCheck s d.toNat a.toNat j.toNat r) [a.toNat, a.toNat + 1, a.toNat + 4] vals w1) (hb : waveBatch s r = some bt) :
    Completes (.attr d a p j) s k r (s.setWave k (writeLanes w1 d.toNat ((inputs s r vals [a.toNat, a.toNat + 1, a.toNat + 4]).map fun i =>
      (i, { regs := (List.range 4).map fun c => attrVal bt p (i.arg 2).toNat j.toNat c (i.arg 0).toNat (i.arg 1).toNat, preds := [], conds := 0 })))) := by
  refine (readWord_eq hr _).trans ?_
  simp only [hb]

/-- The access of a fibre's sample. -/
def sampleTry (d : Nat) (i : LaneIn) : Except LaneFail (List Nat) → Try
  | .error f => .fail f
  | .ok c => .fine (sampleSub i.lane i.fibre d c)

/-- Samples that can all be read are the accesses of their fibres. -/
theorem sampleTries {d : Nat} {f : LaneIn → Except LaneFail (List Nat)} {ins : List LaneIn} {cs : List (List Nat)} (h : ins.map f = cs.map Except.ok) :
    ins.map (fun i => sampleTry d i (f i)) = (ins.zip cs).map fun q => .fine (sampleSub q.1.lane q.1.fibre d q.2) := by
  induction ins generalizing cs with
  | nil => rfl
  | cons i ins ih =>
    cases cs with
    | nil => cases h
    | cons c cs =>
      obtain ⟨hc, hcs⟩ := List.cons.inj h
      rw [List.map_cons, List.zip_cons_cons, List.map_cons, hc, ih hcs]
      rfl

/-- A word whose samples can all be read leaves an operation that has taken its values outstanding. -/
theorem issueOp_samples {d : Nat} {f : LaneIn → Except LaneFail (List Nat)} {ins : List LaneIn} {cs : List (List Nat)}
    (h : ins.map f = cs.map Except.ok) (hfull : classFull r .ld = false) :
    issueOp s k r w (some .ld) .load none none (ins.map fun i => sampleTry d i (f i)) =
      .ok (enterOp s k r w (some .ld) .load none none ((ins.zip cs).map fun q => sampleSub q.1.lane q.1.fibre d q.2)) := by
  rw [sampleTries h, issueOp_eq ⟨fun c hc => Option.some.inj hc ▸ hfull, List.forall_mem_map.2 fun _ _ => rfl⟩, List.filterMap_map]
  exact congrArg (fun subs => Res.ok (enterOp s k r w (some .ld) .load none none subs)) (congrFun List.filterMap_eq_map _)

theorem tex2_completes {d a : VReg} {b : SReg} {x : List Word} {cs : List (List Nat)}
    (hr : FieldsRead s k r w (texCheck s d.toNat a.toNat b.toNat r) (runOf a.toNat 2) vals w1) (hopen : texOpen s b.toNat = true)
    (hrec : texRecord s r b.toNat = .ok x) (hfull : classFull r .ld = false)
    (hcs : (inputs s r vals (runOf a.toNat 2)).map (fun i => sample s r i.lane x (i.arg 0) (i.arg 1)) = cs.map Except.ok)
    (hreads : readsOpen s r (texReads r b.toNat x (inputs s r vals (runOf a.toNat 2))) = true) :
    Completes (.tex2 d a b) s k r (noteReads (enterOp s k r w1 (some .ld) .load none none
      (((inputs s r vals (runOf a.toNat 2)).zip cs).map fun q => sampleSub q.1.lane q.1.fibre d.toNat q.2)) k r
      (texReads r b.toNat x (inputs s r vals (runOf a.toNat 2)))) := by
  have hissue := issueOp_samples (s := s) (k := k) (w := w1) (d := d.toNat) hcs hfull
  refine (if_pos hopen).trans ((readWord_eq hr _).trans ?_)
  simp only [hrec, hreads, Bool.not_true, Bool.false_eq_true, if_false]
  exact congrArg (fun o : Res => Host.Outcome.next (wordEnds s k r (o.after fun s1 =>
    noteReads s1 k r (texReads r b.toNat x (inputs s r vals (runOf a.toNat 2)))))) hissue

end

/-- Settles O36: each word completes once its record is read and its checks pass. -/
theorem graphicsWords : Obligations.GraphicsWords := by
  intro va vb vd a b d p j s k r w w1 vals
  refine ⟨fun hi => ⟨⟨fun x => prim_completes hi, fun x => srfset_completes hi, fun x => plot_completes hi⟩, srfqry_completes hi, fdisc_completes hi⟩,
    fun hr hfull => ⟨_, fexp_completes hr hfull, rfl, fun n x g hx hg => exporting_exports hx hg, rfl, rfl, rfl⟩,
    fun bt hr hb _ => attr_completes hr hb, ?pixels, fun x cs => tex2_completes⟩
  rintro n rfl
  exact ⟨fun hr => completes_of_issueOp hr rfl rfl, fun hr => completes_of_issueOp hr rfl rfl⟩

end Sys2Proof.GraphicsWords
end

section
/-! SUPPORT. What the operations of drawing leave of the state: postings, entries of the surface table, the end of a batch, pixels retired in their
tickets and exports applied in parts (13_raster R279, R291, R299 to R305). -/

namespace Sys2Proof.Drawing

open Machine

/-! ## A posting to an event queue changes nothing of the base dies -/

theorem hwWrite_base {s t : State} {ctx va n x : Nat} (h : hwWrite s ctx va n x = some t) : t.base = s.base := by
  unfold hwWrite at h
  obtain ⟨q, -, rfl⟩ := Option.map_eq_some_iff.1 h
  split <;> rfl

theorem hwWords_base {ctx va : Nat} {xs : List (Nat × Nat)} {s t : State} (h : hwWords s ctx va xs = some t) : t.base = s.base := by
  induction xs generalizing s with
  | nil => cases h; rfl
  | cons x xs ih =>
    unfold hwWords at h
    split at h
    · rename_i u hu
      exact (ih h).trans (hwWrite_base hu)
    · cases h

theorem hwWrite_getD_base (s : State) (ctx va n x : Nat) : ((hwWrite s ctx va n x).getD s).base = s.base := by
  cases h : hwWrite s ctx va n x with
  | none => rfl
  | some t => exact hwWrite_base h

theorem countNow_base (s : State) (ctx off : Nat) : (countNow s ctx off).base = s.base := by
  unfold countNow
  split
  · split
    · exact hwWrite_getD_base ..
    · rfl
  · rfl

theorem sendMsix_base (s : State) (v : Nat) : (sendMsix s v).base = s.base := by
  unfold sendMsix
  split <;> rfl

/-- A state with the base dies of another. -/
def SameBase (s t : State) : Prop := t.base = s.base

theorem eventNow_base (s : State) (ctx stack kind : Nat) (payload : List (Nat × Nat)) : SameBase s (eventNow s ctx stack kind payload) := by
  have hrefl : SameBase s s := rfl
  unfold eventNow
  split
  · exact hrefl
  · split
    · dsimp only
      split
      · exact countNow_base ..
      · split
        · rename_i s1 hwords
          split
          · rename_i s2 hwrite
            have hbase : SameBase s s2 := (hwWrite_base hwrite).trans (hwWords_base hwords)
            split
            · exact (sendMsix_base s2 ctx).trans hbase
            · exact hbase
          · exact hrefl
        · exact hrefl
    · exact hrefl

theorem postTo_base (s : State) (p : Posting) : (postTo s p).base = s.base := by
  unfold postTo
  split
  · cases p with
    | event ctx stack kind payload => exact eventNow_base ..
    | count ctx off => exact countNow_base ..
  · rfl

@[simp] theorem ropPoison_base (s : State) (ctx stack e : Nat) (poison : Bool) : (ropPoison s ctx stack e poison).base = s.base := by
  unfold ropPoison
  split
  · exact postTo_base ..
  · rfl

/-! ## Entries of the surface table (R279) -/

section
variable {s : State} {ctx : Nat} {c : Ctx}

theorem setSte_ctxs (h : s.ctxs.look ctx = some c) (i : Nat) (e : Ste) : (setSte s ctx i e).ctxs = s.ctxs.put ctx { c with stes := c.stes.put i e } := by
  simp only [setSte, h]
  rfl

/-- An entry that has been written reads as it was written. -/
theorem steOf_setSte (h : s.ctxs.look ctx = some c) (i : Nat) (e : Ste) : steOf (setSte s ctx i e) ctx i = e := by
  simp [steOf, setSte_ctxs h]

end

@[simp] theorem setSte_base (s : State) (ctx i : Nat) (e : Ste) : (setSte s ctx i e).base = s.base := by
  unfold setSte
  split <;> rfl

@[simp] theorem setSte_pending (s : State) (ctx i : Nat) (e : Ste) : (setSte s ctx i e).pending = s.pending := by
  unfold setSte
  split <;> rfl

/-- A batch accepted changes its entry, its own record, its launch and, as a release, memory (R290, R291). -/
theorem acceptBatch_eq (s : State) (id : Nat) (b : Batch) :
    let e := steOf s b.ctx (batchSet b)
    let s1 := setSte s b.ctx (batchSet b) { e with stream := e.stream + BitVec.ofNat 32 b.tris }
    ∃ m l, acceptBatch s id b =
      { s1 with
        mem := m
        base := { s1.base with batches := s1.base.batches.put id { b with base := e.stream, accepted := some s.tick } }
        work := { s1.work with launches := l } } := by
  unfold acceptBatch
  dsimp only
  split <;> exact ⟨_, _, rfl⟩

theorem acceptBatch_effect {s : State} {b : Batch} {c : Ctx} (id : Nat) (hc : s.ctxs.look b.ctx = some c) :
    let e := steOf s b.ctx (batchSet b)
    let t := acceptBatch s id b
    steOf t b.ctx (batchSet b) = { e with stream := e.stream + BitVec.ofNat 32 b.tris } ∧
      t.base.batches.look id = some { b with base := e.stream, accepted := some s.tick } ∧
      t.base.cells = s.base.cells ∧ t.base.tickets = s.base.tickets ∧ t.pending = s.pending := by
  obtain ⟨m, l, heq⟩ := acceptBatch_eq s id b
  simp only [heq, setSte_base, setSte_pending, Map.look_put_self, and_true]
  exact steOf_setSte hc _ _

/-! ## The end of a batch (R291) -/

/-- A state whose base dies differ at most in their batches, with at most more in flight. -/
def BatchesOnly (s t : State) : Prop := t.base = { s.base with batches := t.base.batches } ∧ ∃ es, t.pending = s.pending ++ es

theorem BatchesOnly.refl (s : State) : BatchesOnly s s := ⟨rfl, [], (List.append_nil _).symm⟩

theorem BatchesOnly.trans {s t u : State} (h : BatchesOnly s t) (h' : BatchesOnly t u) : BatchesOnly s u := by
  obtain ⟨hbase, es, hes⟩ := h
  obtain ⟨hbase', fs, hfs⟩ := h'
  exact ⟨by rw [hbase', hbase], es ++ fs, by rw [hfs, hes, List.append_assoc]⟩

theorem forgetBatch_batchesOnly (s : State) (launch : Nat) : BatchesOnly s (forgetBatch s launch) := by
  unfold forgetBatch
  dsimp only
  split
  · exact .refl s
  · split
    · exact .refl s
    · exact ⟨rfl, [], (List.append_nil _).symm⟩

/-- The end of a batch changes no more of the base dies than the batches, and puts at most its arrival in flight. -/
theorem finishBatch_batchesOnly (s : State) (id : Nat) : BatchesOnly s (finishBatch s id) := by
  unfold finishBatch
  split
  · exact .refl s
  · dsimp only
    split
    · refine .trans ?_ (forgetBatch_batchesOnly ..)
      split
      · exact ⟨rfl, [], (List.append_nil _).symm⟩
      · exact ⟨rfl, [_], rfl⟩
    · exact .refl s

@[simp] theorem finishBatch_cells (s : State) (id : Nat) : (finishBatch s id).base.cells = s.base.cells := by rw [(finishBatch_batchesOnly s id).1]

@[simp] theorem finishBatch_exports (s : State) (id : Nat) : (finishBatch s id).base.exports = s.base.exports := by
  rw [(finishBatch_batchesOnly s id).1]

@[simp] theorem finishBatch_tickets (s : State) (id : Nat) : (finishBatch s id).base.tickets = s.base.tickets := by
  rw [(finishBatch_batchesOnly s id).1]

theorem mem_finishBatch_pending {s : State} {e : Ev} (h : e ∈ s.pending) (id : Nat) : e ∈ (finishBatch s id).pending := by
  obtain ⟨es, hes⟩ := (finishBatch_batchesOnly s id).2
  exact hes ▸ List.mem_append_left es h

/-! ## Pixels and their tickets (R299, R305) -/

/-- A bit taken out of a mask is clear. -/
theorem getLsbD_and_not_bit (m : BitVec 16) (i : Nat) : (m &&& ~~~(BitVec.ofNat 16 (2 ^ i))).getLsbD i = false := by
  rw [BitVec.getLsbD_and, BitVec.getLsbD_not, BitVec.getLsbD_ofNat, Nat.testBit_two_pow_self]
  simp

/-- The tickets that a fragment's pixel is retired in no longer cover it. -/
theorem retirePixel_clears (s : State) (g : Frag) (depth : Bool) :
    ∀ k ∈ (retirePixel s g depth).base.tickets, ticketOf g depth k = true → k.mask.getLsbD (fragBit g) = false := by
  intro k hk hof
  obtain ⟨t, -, rfl⟩ := List.mem_map.1 (List.mem_filter.1 hk).1
  by_cases ht : ticketOf g depth t = true
  · rw [if_pos ht]
    exact getLsbD_and_not_bit ..
  · rw [if_neg ht] at hof
    exact absurd hof ht

/-- Exports with no part left are gone, and others stand in the table as they are now. -/
theorem exportPart_exports (s : State) (id : Nat) (b : Batch) (x : Export) : (exportPart s id b x).base.exports.look id =
    if (b.depth = none ∨ x.depthDone = true) ∧ (b.colour = none ∨ x.colourDone = true) then none else some x := by
  have hdone : ((b.depth.isNone || x.depthDone) && (b.colour.isNone || x.colourDone)) = true ↔
      (b.depth = none ∨ x.depthDone = true) ∧ (b.colour = none ∨ x.colourDone = true) := by simp
  unfold exportPart
  by_cases h : (b.depth = none ∨ x.depthDone = true) ∧ (b.colour = none ∨ x.colourDone = true)
  · rw [if_pos (hdone.2 h), if_pos h]
    exact (Map.look_del ..).trans (if_pos rfl)
  · rw [if_neg (mt hdone.1 h), if_neg h]
    exact Map.look_put_self ..

/-- A part applied changes no more of the base dies than the exports. -/
theorem exportPart_frame (s : State) (id : Nat) (b : Batch) (x : Export) :
    (exportPart s id b x).base = { s.base with exports := (exportPart s id b x).base.exports } := by
  unfold exportPart
  split <;> rfl

/-- One part of what a fibre exported, applied: the pixel is retired in its ticket, and the record of it is marked or gone. -/
def applied (s : State) (id : Nat) (b : Batch) (x : Export) (depth : Bool) : State := exportPart (retirePixel s x.frag depth) id b x

section
variable (s : State) (id : Nat) (b : Batch) (x : Export) (depth : Bool)

theorem applied_cells : (applied s id b x depth).base.cells = s.base.cells := by
  unfold applied
  rw [exportPart_frame]
  rfl

theorem applied_exports : (applied s id b x depth).base.exports.look id =
    if (b.depth = none ∨ x.depthDone = true) ∧ (b.colour = none ∨ x.colourDone = true) then none else some x := exportPart_exports ..

theorem applied_clears : ∀ k ∈ (applied s id b x depth).base.tickets, ticketOf x.frag depth k = true → k.mask.getLsbD (fragBit x.frag) = false := by
  unfold applied
  rw [exportPart_frame]
  exact retirePixel_clears _ _ _

end

/-! ## The ROPs (R301, R302) -/

/-- The poison that a colour ROP reads: of its own pixel, and of the pixel of the depth entry (20_errors R438). -/
def colourPoison (s : State) (b : Batch) (i : Nat) (x : Export) : Bool :=
  pixelPoisoned s b.ctx i x.frag.px x.frag.py || (b.depth.map fun d => pixelPoisoned s b.ctx d x.frag.px x.frag.py).getD false

/-- What a depth bank makes of its pixel: written where the test lets it, else touched. -/
def depthWritten (s : State) (b : Batch) (i : Nat) (x : Export) : State :=
  if exportPasses s b.ctx i x = true then
    pixelWrite s b.ctx i x.frag.px x.frag.py (depthPixel s (steOf s b.ctx i) x (pixelRead s b.ctx i x.frag.px x.frag.py))
      (pixelPoisoned s b.ctx i x.frag.px x.frag.py)
  else touchCell s b.ctx i (x.frag.px / 4) (x.frag.py / 4)

/-- The pixel that a colour bank blends and writes. -/
def colourWritten (s : State) (b : Batch) (i : Nat) (x : Export) : State :=
  pixelWrite s b.ctx i x.frag.px x.frag.py (colourPixel s (steOf s b.ctx i) x (pixelRead s b.ctx i x.frag.px x.frag.py)) (colourPoison s b i x)

section
variable {s : State} {id i : Nat} {b : Batch} {x : Export}

theorem applyDepth_eq (hi : b.depth = some i) : applyDepth s id b x =
    let u := applied (ropPoison (depthWritten s b i x) b.ctx x.frag.stack i (pixelPoisoned s b.ctx i x.frag.px x.frag.py)) id b
      { x with depthDone := true } true
    finishBatch (if b.colour.isSome = true then u.post (.depthVerdict id (exportPasses s b.ctx i x)) else u) x.frag.batch := by
  unfold applyDepth
  rw [hi]
  rfl

theorem applyColour_eq (hi : b.colour = some i) : applyColour s id b x =
    finishBatch (applied (if (x.verdict == some false) = true then s
      else ropPoison (colourWritten s b i x) b.ctx x.frag.stack i (colourPoison s b i x)) id b { x with colourDone := true } false) x.frag.batch := by
  unfold applyColour
  rw [hi]
  rfl

/-- Applied at the depth bank: the test decides the pixel, and the verdict goes to the colour bank. -/
theorem applyDepth_effect (hi : b.depth = some i) :
    let t := applyDepth s id b x
    t.base.cells = (depthWritten s b i x).base.cells ∧
    t.base.exports.look id = (if b.colour = none ∨ x.colourDone = true then none else some { x with depthDone := true }) ∧
    (∀ k ∈ t.base.tickets, ticketOf x.frag true k = true → k.mask.getLsbD (fragBit x.frag) = false) ∧
    (b.colour ≠ none → Ev.depthVerdict id (exportPasses s b.ctx i x) ∈ t.pending) := by
  have hbase (u : State) (e : Ev) : (if b.colour.isSome = true then u.post e else u).base = u.base := by split <;> rfl
  simp only [applyDepth_eq hi, finishBatch_cells, finishBatch_exports, finishBatch_tickets, hbase, applied_cells, ropPoison_base, applied_exports,
    or_true, true_and]
  refine ⟨applied_clears _ _ _ _ _, fun hc => mem_finishBatch_pending ?_ _⟩
  rw [if_pos (Option.isSome_iff_ne_none.2 hc)]
  exact List.mem_append_right _ (List.mem_singleton.2 rfl)

/-- Applied at the colour bank: blended and written, unless the depth test has failed. -/
theorem applyColour_effect (hi : b.colour = some i) :
    let t := applyColour s id b x
    t.base.exports.look id = (if b.depth = none ∨ x.depthDone = true then none else some { x with colourDone := true }) ∧
    (∀ k ∈ t.base.tickets, ticketOf x.frag false k = true → k.mask.getLsbD (fragBit x.frag) = false) ∧
    (x.verdict = some false → t.base.cells = s.base.cells) ∧
    (x.verdict ≠ some false → t.base.cells = (colourWritten s b i x).base.cells) := by
  simp only [applyColour_eq hi, finishBatch_cells, finishBatch_exports, finishBatch_tickets, applied_cells, applied_exports, or_true, and_true,
    true_and, beq_iff_eq]
  refine ⟨applied_clears _ _ _ _ _, fun hv => by rw [if_pos hv], fun hv => ?_⟩
  rw [if_neg hv, ropPoison_base]

end

end Sys2Proof.Drawing
end

section
/-! PROOF. The steps of batches, rasterisers, exports, surface pools, plots and the block store (13_raster R281 to R305,
14_plot_units R311 to R323). -/

namespace Sys2Proof.GraphicsSteps

open Machine MemorySteps Drawing

/-! ## Batches and exports (R289 to R301) -/

section
variable {s : State} {id stack bank : Nat}

theorem batchAccept_acts {b : Batch} (h : batchDue s id = some b) : Acts (.batchAccept id) (.batchAccept id) s fun s => acceptBatch s id b := by
  have h' : batchDue (withPending s (s.pending.erase (.batchAccept id))) id = some b := h
  exact acts_of (show execBatchAccept id s = _ from rfl) (by rw [h]; rfl) (by simp only [h'])

theorem rasterise_acts {j : Nat} {b : Batch} (hdue : rasterDue s stack = true) (h : rasterBatch s stack = some (j, b)) :
    Acts (.rasterise stack) (.rasterise stack) s fun s => rasterStep s j b stack := by
  have h' : rasterBatch (withPending s (s.pending.erase (.rasterise stack))) stack = some (j, b) := h
  exact acts_of (show execRasterise stack s = _ from rfl) hdue (by simp only [h'])

theorem fragmentWaveLaunch_eq {s1 : State} (hdue : (nextFragLaunch s stack).isSome = true)
    (h : nextFragLaunch (withPending s (s.pending.erase (.fragmentWaveLaunch stack))) stack = some s1) :
    exec (.fragmentWaveLaunch stack) s = .next s1 :=
  (show exec (.fragmentWaveLaunch stack) s = execFragmentWaveLaunch stack s from rfl).trans ((runEvent_due hdue _).trans (by rw [h]; rfl))

theorem exportEntry_acts {x : Export} (h : s.base.exports.look id = some x) (hx : x.entered = false) :
    Acts (.exportEntry id) (.exportEntry id) s fun s => if x.discard = true then
      finishBatch (exportDone (retirePixel (retirePixel s x.frag true) x.frag false) id x) x.frag.batch else exportEntered s id x :=
  acts_of (show execExportEntry id s = _ from rfl) (by simp only [h, Option.map_some, Option.getD_some, hx, Bool.not_false]) (by simp only [h])

theorem ropApply_acts {j : Nat} {x : Export} {b : Batch} {depth : Bool} (h : nextExport s stack bank = some (j, x, b, depth)) :
    Acts (.ropApply stack bank) (.ropApply stack bank) s fun s => if depth = true then applyDepth s j b x else applyColour s j b x := by
  have h' : nextExport (withPending s (s.pending.erase (.ropApply stack bank))) stack bank = some (j, x, b, depth) := h
  refine acts_of (show execRopApply stack bank s = _ from rfl) (by rw [h]; rfl) ?_
  cases depth
  · simp only [h', Bool.false_eq_true, if_false]
  · simp only [h', if_true]

theorem depthVerdict_acts {pass : Bool} (h : Ev.depthVerdict id pass ∈ s.pending) :
    Acts (.depthVerdict id pass) (.depthVerdict id pass) s fun s =>
      { s with base := { s.base with exports := s.base.exports.modify id fun x => { x with verdict := some pass } } } :=
  acts_of (show execDepthVerdict id pass s = _ from rfl) (List.contains_iff_mem.2 h) rfl

theorem rasterStep_cell {b : Batch} {new : List Ticket} (h : rasterWork s id b stack = .cell new) : rasterStep s id b stack =
    { s with base := { s.base with
        tickets := s.base.tickets ++ new
        batches := s.base.batches.put id (b.moveTo stack ((b.place stack).1, (b.place stack).2 + 1)) } } := by
  simp only [rasterStep, h]

theorem rasterStep_tri {b : Batch} {new : List FragStart} (h : rasterWork s id b stack = .tri new) : rasterStep s id b stack =
    finishBatch
      { s with base := { s.base with
          frags := s.base.frags ++ new.map (fun f => (stack, { f with made := s.dev.cycles }))
          batches := s.base.batches.put id (b.moveTo stack ((b.place stack).1 + 1, 0)) } } id := by
  simp only [rasterStep, h]

end

/-! ## Poison in frames of the context (20_errors R438) -/

section
variable {s go : State} {ctx stack : Nat}

theorem guardFrame_none : guardFrame s ctx stack none go = go := rfl

theorem guardFrame_stops {line : Nat} (hc : ctxStopped s ctx = false) : guardFrame s ctx stack (some line) go = stopForPoison s ctx stack line := by
  simp only [guardFrame, hc, Bool.false_eq_true, if_false]

theorem spilledPoison_clean (spilled : Bool) : spilledPoison s spilled [] = none := by
  simp [spilledPoison]

theorem spilledPoison_found {poisoned : List Nat} (h : poisoned ≠ []) : spilledPoison s true poisoned = some (Config.choose s.tick) := by
  simp [spilledPoison, h]

end

/-- A step that asks for a frame which the context may have poisoned: the effect of the step, or the stop of the context. -/
theorem acts_of_guardFrame {i : Instr} {e : Ev} {s : State} {ctx stack : Nat} {found : Option Nat} {go : State → State}
    (h : Acts i e s fun t => guardFrame t ctx stack found (go t)) :
    (found = none → Acts i e s go) ∧
      ∀ line, found = some line → ctxStopped s ctx = false → Acts i e s fun t => stopForPoison t ctx stack line := by
  refine ⟨?_, ?_⟩
  · rintro rfl
    exact h
  · rintro line rfl hc
    have hc' : ctxStopped (withPending s (s.pending.erase e)) ctx = false := hc
    exact h.trans (congrArg _ (guardFrame_stops hc'))

/-! ## Surface entries and pools (R281 to R286) -/

section
variable {s : State} {id stack ctx ste cx cy : Nat}

theorem srfsetPerform_acts {p : PendSet} (h : s.base.sets.look id = some p) (hquiet : steQuiet s p.ctx p.ste = true)
    (hplot : plotOn s p.ctx p.ste = false) :
    Acts (.srfsetPerform id) (.srfsetPerform id) s fun s =>
      { performSet s p with base := { (performSet s p).base with sets := (performSet s p).base.sets.del id } } :=
  acts_of (show execSrfsetPerform id s = _ from rfl) (by simp only [h, Option.map_some, Option.getD_some, hquiet, hplot, Bool.not_false, Bool.and_self])
    (by simp only [h])

theorem cellEviction_acts {c : Cell} (hfull : poolFull s stack = true) (h : victimCell s stack = some c) :
    Acts (.cellEviction stack) (.cellEviction stack) s fun s => putCell s { c with spilled := true } := by
  have h' : victimCell (withPending s (s.pending.erase (.cellEviction stack))) stack = some c := h
  exact acts_of (show execCellEviction stack s = _ from rfl) (by rw [h, hfull]; rfl) (by simp only [h'])

theorem cellFetchBack_acts {c : Cell} (h : cellAt s ctx ste cx cy = some c) (hsp : c.spilled = true)
    (hroom : poolRoom s (cellStack cx cy) (16 * (steOf s ctx ste).p) = true) :
    Acts (.cellFetchBack ctx ste cx cy) (.cellFetchBack ctx ste cx cy) s fun t =>
      guardFrame t ctx (cellStack cx cy) (spilledPoison s true c.poisoned) (putCell t { c with spilled := false, used := t.tick }) := by
  have h' : cellAt (withPending s (s.pending.erase (.cellFetchBack ctx ste cx cy))) ctx ste cx cy = some c := h
  refine acts_of (show execCellFetchBack ctx ste cx cy s = _ from rfl) (by rw [h, hroom]; simpa using hsp) ?_
  simp only [h', hsp]
  rfl

theorem surfacePoolWait_acts {q : PoolWait} (h : poolWaitDue s (ctx, ste, cx, cy) = some q) (hste : ste < 2 ^ 12) :
    Acts (.surfacePoolWait ctx ste cx cy) (.surfacePoolWait ctx ste cx cy) s fun s =>
      postEvent
        { s with base := { s.base with poolWaits := s.base.poolWaits.map fun q => if q.is (ctx, ste, cx, cy) then { q with posted := true } else q } }
        ctx (cellStack cx cy) 4 [(8, ste), (12, cx + 2 ^ 16 * cy)] := by
  have hcell : waitEvent (ctx, ste, cx, cy) = (cellStack cx cy, [(8, ste), (12, cx + 2 ^ 16 * cy)]) :=
    if_neg (show ste ≠ 2 ^ 32 - 1 by omega)
  have hexec : exec (.surfacePoolWait ctx ste cx cy) s =
      runEvent s (.surfacePoolWait ctx ste cx cy) (poolWaitDue s (ctx, ste, cx, cy)).isSome fun s => postEvent
        { s with base := { s.base with poolWaits := s.base.poolWaits.map fun q => if q.is (ctx, ste, cx, cy) then { q with posted := true } else q } }
        ctx (waitEvent (ctx, ste, cx, cy)).1 4 (waitEvent (ctx, ste, cx, cy)).2 := rfl
  exact acts_of hexec (by rw [h]; rfl) (by rw [hcell])

end

/-! ## PLOTs (14_plot_units R311 to R317) -/

section
variable {s : State} {id stack unit thread : Nat}

/-- Bringing a cell into its bank changes no PLOT. -/
theorem bringCell_plots (s : State) (p : Plot) (c : Nat × Nat) : (bringCell s p c).base.plots = s.base.plots := by
  unfold bringCell
  split
  · rfl
  · split
    · split <;> rfl
    · rfl

theorem bringCells_plots (s : State) (p : Plot) (cs : List (Nat × Nat)) : (cs.foldl (fun s c => bringCell s p c) s).base.plots = s.base.plots :=
  foldl_keeps (P := fun t : State => t.base.plots = s.base.plots) (fun t c ht => (bringCell_plots t p c).trans ht) cs s rfl

/-- A PLOT that a stack has accepted, with the units that it starts there. -/
def acceptedOn (p : Plot) (stack tick : Nat) : Plot :=
  { p with accepted := p.accepted.put stack tick, units := p.units ++ plotUnits p stack }

/-- The first acceptance of a PLOT on a stack, with its cells brought in as far as the pools have room. -/
def acceptPlot (s : State) (id stack : Nat) (p : Plot) : State :=
  let s1 := (plotMissing s p).foldl (fun s c => bringCell s p c) { s with base := { s.base with plots := s.base.plots.put id p } }
  if (plotMissing s1 p).isEmpty then s1 else s1.post (.plotAccept id stack)

theorem acceptPlot_plots (s : State) (id stack : Nat) (p : Plot) : (acceptPlot s id stack p).base.plots = s.base.plots.put id p := by
  unfold acceptPlot
  dsimp only
  split
  · exact bringCells_plots ..
  · exact bringCells_plots ..

theorem plotAccept_acts {p : Plot} (h : s.base.plots.look id = some p) (hon : stack ∈ p.onStacks) (hnew : p.accepted.look stack = none)
    (hclean : plotPoison s p = none) :
    Acts (.plotAccept id stack) (.plotAccept id stack) s fun s => acceptPlot s id stack (acceptedOn p stack s.tick) := by
  have hclean' : plotPoison (withPending s (s.pending.erase (.plotAccept id stack))) p = none := hclean
  have hdue : plotAcceptDue s p stack = true := by
    rw [plotAcceptDue, List.contains_iff_mem.2 hon, hnew]
    rfl
  refine acts_of (show execPlotAccept id stack s = _ from rfl) (by rw [h]; exact hdue) ?_
  simp only [h, hnew, hclean', guardFrame_none]
  rfl

/-- A stack's acceptance notes its tick and the units that it starts there. -/
theorem plotAccept_effect {p : Plot} (h : s.base.plots.look id = some p) (hon : stack ∈ p.onStacks) (hnew : p.accepted.look stack = none)
    (hclean : plotPoison s p = none) : ∃ t q, exec (.plotAccept id stack) s = .next t ∧ t.base.plots.look id = some q ∧
      q.accepted.look stack = some s.tick ∧ q.units = p.units ++ plotUnits p stack := by
  refine ⟨_, acceptedOn p stack s.tick, plotAccept_acts h hon hnew hclean, ?_, Map.look_put_self .., rfl⟩
  rw [acceptPlot_plots]
  exact Map.look_put_self ..

theorem plotUnitStart_acts {p : Plot} (hidle : s.base.units.look (unitKey stack unit) = none) (h : unitPlot s stack unit = some (id, p)) :
    Acts (.plotUnitStart stack unit) (.plotUnitStart stack unit) s fun s => startUnit s stack unit id p := by
  have h' : unitPlot (withPending s (s.pending.erase (.plotUnitStart stack unit))) stack unit = some (id, p) := h
  exact acts_of (show execPlotUnitStart stack unit s = _ from rfl) (by rw [hidle, h]; rfl) (by simp only [h'])

theorem plotThreadIssue_acts {x : Thread} {p : Plot} (h : liveThread s stack unit thread = some (x, p)) (hlimit : x.issued < 2 ^ 26)
    (hwaits : threadWaits s p x = none) (hopen : threadOpen s stack p x = true) :
    Acts (.plotThreadIssue stack unit thread) (.plotThreadIssue stack unit thread) s fun s => threadStep s stack unit thread p x := by
  have h' : liveThread (withPending s (s.pending.erase (.plotThreadIssue stack unit thread))) stack unit thread = some (x, p) := h
  exact acts_of (show execPlotThreadIssue stack unit thread s = _ from rfl)
    (by simp only [h, Option.map_some, Option.getD_some, hlimit, hwaits, hopen, decide_true, Option.isNone_none, Bool.and_self]) (by simp only [h'])

theorem plotWordLimit_acts {x : Thread} {p : Plot} (h : liveThread s stack unit thread = some (x, p)) (hlimit : 2 ^ 26 ≤ x.issued) :
    Acts (.plotWordLimit stack unit thread) (.plotWordLimit stack unit thread) s fun s => faultThread s stack unit thread x 0 (noAddress s) := by
  have h' : liveThread (withPending s (s.pending.erase (.plotWordLimit stack unit thread))) stack unit thread = some (x, p) := h
  exact acts_of (show execPlotWordLimit stack unit thread s = _ from rfl)
    (by simp only [h, Option.map_some, Option.getD_some, hlimit, decide_true]) (by simp only [h'])

theorem plotComplete_acts {p : Plot} (h : s.base.plots.look id = some p) (hover : plotOver s id p = true)
    (hfree : hwFree s p.ctx (p.va + 0x40) 16 = true) :
    Acts (.plotComplete id) (.plotComplete id) s fun s =>
      let s1 := (hwWords s p.ctx p.va (plotStatus p)).getD s
      let s2 := { s1 with base := { s1.base with plots := s1.base.plots.del id } }
      if p.barrier = 0 then s2 else s2.post (.completionArrival p.ctx p.barrier p.va (arrivalSource 2 0 p.level)) :=
  acts_of (show execPlotComplete id s = _ from rfl) (by simp only [h, Option.map_some, Option.getD_some, hover, hfree, Bool.and_self]) (by simp only [h])

/-- The place of a thread's next word. -/
def wordAfter (pc : Pc) : Pc := if pc.slot = 2 then { packet := pc.packet + 1, slot := 0 } else { packet := pc.packet, slot := pc.slot + 1 }

theorem wordAfter_packet_le (pc : Pc) : (wordAfter pc).packet ≤ pc.packet + 1 := by
  unfold wordAfter
  split
  · exact le_rfl
  · exact Nat.le_succ _

/-- A thread before its last packet goes on to its next word. -/
theorem nextWord_inside {p : Plot} {x : Thread} (h : x.pc.packet + 1 < plotPackets p) : nextWord s stack unit thread p x =
    mapThread s (threadKey stack unit thread) fun _ => { x with pc := wordAfter x.pc, issued := x.issued + 1 } :=
  if_neg (Nat.not_le.2 ((wordAfter_packet_le x.pc).trans_lt h))

/-- A branch inside the program goes to its packet. -/
theorem threadJump_inside {p : Plot} {x : Thread} {d : BitVec 8} (hlow : 0 ≤ (x.pc.packet : Int) + d.toInt)
    (hhigh : (x.pc.packet : Int) + d.toInt < plotPackets p) : threadJump s stack unit thread p x d =
    mapThread s (threadKey stack unit thread) fun _ =>
      { x with pc := { packet := ((x.pc.packet : Int) + d.toInt).toNat, slot := 0 }, issued := x.issued + 1 } :=
  if_neg (not_or.2 ⟨Int.not_lt.2 hlow, Int.not_le.2 hhigh⟩)

theorem threadStep_nop {p : Plot} {x : Thread} (h : decode (threadWord p x.pc) = .ok .nop) :
    threadStep s stack unit thread p x = nextWord s stack unit thread p x := by
  simp only [threadStep, h]

theorem threadStep_bra {p : Plot} {x : Thread} {d : BitVec 8} (h : decode (threadWord p x.pc) = .ok (.bra d)) :
    threadStep s stack unit thread p x = threadJump s stack unit thread p x d := by
  simp only [threadStep, h]

end

/-! ## The block store (14_plot_units R318 to R323) -/

section
variable {s : State} {r : BsReq} {w : Wave} {o : MemOp}

theorem blockStoreRequest_acts (hin : Ev.blockStoreRequest r ∈ s.pending) (h : bsOp s r = some (w, o)) (horder : inOrder w o = true)
    (hroom : bsRoom s w r = true) :
    let home := keyHome (ctxOf s w) r.seq r.layer
    Acts (.blockStoreRequest r) (.blockStoreRequest r) s fun t =>
      guardFrame t (ctxOf s w) home (keyPoison s (ctxOf s w) home) (bsAnswer t w o r) := by
  have h' : bsOp (withPending s (s.pending.erase (.blockStoreRequest r))) r = some (w, o) := h
  refine acts_of (show execBlockStoreRequest r s = _ from rfl)
    (by simp only [List.contains_iff_mem.2 hin, h, horder, hroom, Bool.and_self]) ?_
  simp only [h']
  rfl

theorem blockEviction_acts {ctx stack key : Nat} {b : BsBlock} (hroom : blockRoom s ctx stack = false)
    (hwaits : bkaWaits s ctx stack = true ∨ fetchWaits s ctx stack = true) (h : victimBlock s ctx stack = some (key, b)) :
    Acts (.blockEviction ctx stack) (.blockEviction ctx stack) s fun s => mapBs s key fun b => { b with spilled := true } := by
  have h' : victimBlock (withPending s (s.pending.erase (.blockEviction ctx stack))) ctx stack = some (key, b) := h
  exact acts_of (show execBlockEviction ctx stack s = _ from rfl) (by rw [hroom, h, Bool.or_eq_true_iff.2 hwaits]; rfl) (by simp only [h'])

/-- An operation found by its number is found as it was changed. -/
theorem opOf_mapOp {op : Nat} {f : MemOp → MemOp} (h : opOf w op = some o) (hf : ∀ o, (f o).id = o.id) : opOf (w.mapOp op f) op = some (f o) := by
  have hid : o.id = op := by simpa using List.find?_some h
  have hsame : ((fun o : MemOp => o.id == op) ∘ fun o => if o.id = op then f o else o) = fun o => o.id == op := by
    funext y
    by_cases hy : y.id = op <;> simp [hy, hf]
  have hfind : (w.ops.find? fun o => o.id == op) = some o := h
  rw [opOf, Wave.mapOp, List.find?_map, hsame, hfind]
  exact congrArg some (if_pos hid)

/-- The access of a lane slot stands at its place among the accesses of its operation. -/
theorem subOf_lane {lane : Nat} (h : ∃ x ∈ o.subs, x.lane = lane) : ∃ x, o.subs[subOf o lane]? = some x ∧ x.lane = lane := by
  have hlt : o.subs.findIdx (fun x => x.lane == lane) < o.subs.length := List.findIdx_lt_length_of_exists (by simpa using h)
  exact ⟨_, List.getElem?_eq_getElem hlt, by simpa using List.findIdx_getElem (w := hlt)⟩

/-- An access that has been done with a value. -/
def answeredSub (v : Word) (x : Sub) : Sub := { x with done := true, busy := false, value := BitVec.ofNat 64 v.toNat }

/-- An operation whose access at a place has its answer. -/
def answeredOp (j : Nat) (v : Word) (o : MemOp) : MemOp := { o with subs := o.subs.modify j (answeredSub v) }

/-- A block-store word that is counted reports its failures once all its fibres have their answers, and keeps its operation. -/
theorem bsAnswer_eq {t : State} {v : Word} (hop : bsOp s r = some (w, o)) (hstep : bsStep s (ctxOf s w) (stackOf (coreOf s w)) r = .ok (t, v))
    (hcls : o.cls.isSome = true) (hwork : t.work = s.work) : bsAnswer s w o r =
      (t.setWave r.wave (w.mapOp r.op (answeredOp (subOf o r.lane) v))).posts (bsReports r.wave (answeredOp (subOf o r.lane) v o)) := by
  obtain ⟨w', hw, hq⟩ := Option.bind_eq_some_iff.1 hop
  obtain ⟨o', ho, hqo⟩ := Option.map_eq_some_iff.1 hq
  cases hqo
  have hdone : doneSub t r.wave r.op (subOf o r.lane) v.toNat = t.setWave r.wave (w.mapOp r.op (answeredOp (subOf o r.lane) v)) :=
    mapWave_eq (show t.work.waves.look r.wave = some w by rw [hwork]; exact hw) _
  have hbs : bsOp (t.setWave r.wave (w.mapOp r.op (answeredOp (subOf o r.lane) v))) r =
      some (w.mapOp r.op (answeredOp (subOf o r.lane) v), answeredOp (subOf o r.lane) v o) := by
    rw [bsOp, State.wave_setWave_self, Option.bind_some, opOf_mapOp (f := answeredOp _ v) ho fun _ => rfl]
    rfl
  have hkeep : (answeredOp (subOf o r.lane) v o).cls.isNone = false := by
    rw [Option.isNone_eq_false_iff]
    exact hcls
  simp only [bsAnswer, hstep, hdone, hbs, hkeep, Bool.and_false, Bool.false_eq_true, if_false]

/-- A counted block-store word with an answer: the block store is as its step leaves it, and the fibre's access is done with the value. -/
theorem bsAnswer_effect {t : State} {v : Word} (hop : bsOp s r = some (w, o)) (hstep : bsStep s (ctxOf s w) (stackOf (coreOf s w)) r = .ok (t, v))
    (hcls : o.cls.isSome = true) (hwork : t.work = s.work) :
    (bsAnswer s w o r).base = t.base ∧ (∀ j, j ≠ r.wave → (bsAnswer s w o r).wave j = s.wave j) ∧
      ((∃ x ∈ o.subs, x.lane = r.lane) → ∃ w1 o1 x, (bsAnswer s w o r).wave r.wave = some w1 ∧ o1 ∈ w1.ops ∧ o1.id = r.op ∧
        x ∈ o1.subs ∧ x.lane = r.lane ∧ x.done = true ∧ x.value = v.zeroExtend 64) := by
  rw [bsAnswer_eq hop hstep hcls hwork]
  refine ⟨rfl, fun j hj => ?_, fun hlane => ?_⟩
  · rw [State.wave_posts, State.wave_setWave, if_neg hj, State.wave, State.wave, hwork]
  · obtain ⟨w', -, hq⟩ := Option.bind_eq_some_iff.1 hop
    obtain ⟨o', ho, hqo⟩ := Option.map_eq_some_iff.1 hq
    cases hqo
    obtain ⟨x, hx, hxl⟩ := subOf_lane hlane
    have hfound := opOf_mapOp (f := answeredOp (subOf o r.lane) v) ho fun _ => rfl
    have hsub : answeredSub v x ∈ (answeredOp (subOf o r.lane) v o).subs := by
      refine List.mem_of_getElem? (i := subOf o r.lane) ?_
      simp [answeredOp, hx]
    exact ⟨_, _, answeredSub v x, State.wave_setWave_self .., List.mem_of_find?_eq_some hfound, by simpa using List.find?_some hfound, hsub, hxl, rfl,
      BitVec.ofNat_toNat ..⟩

end

/-- Settles O49: each step by the lemma of its effect, and what the operations that the steps name leave of the state. -/
theorem graphicsSteps : Obligations.GraphicsSteps := by
  refine fun id stack bank ctx ste cx cy unit thread pass r s => ⟨fun b => batchAccept_acts, fun j b => rasterise_acts, fun s1 => fragmentWaveLaunch_eq,
    fun x hx hnew => ⟨fun hd => ?exported, fun hd => ?discard⟩, fun j x b => ropApply_acts, fun j x b => ropApply_acts, depthVerdict_acts,
    fun c => cellEviction_acts, fun c hc hsp hroom => ⟨fun hclean => ?fetched, fun hpoison hrun => ?stops⟩, fun q => surfacePoolWait_acts,
    fun p => srfsetPerform_acts, fun p => plotAccept_effect, fun p => plotUnitStart_acts,
    fun x p hx => ⟨plotThreadIssue_acts hx, plotWordLimit_acts hx⟩, fun p => plotComplete_acts,
    fun w o hin hop horder hroom => acts_of_guardFrame (blockStoreRequest_acts hin hop horder hroom), fun w o t v => bsAnswer_effect,
    fun b c hc => acceptBatch_effect id hc, fun b => ⟨fun new hcell => ?cell, fun new htri => ?tri⟩,
    fun x => ⟨Map.look_put_self .., rfl, rfl, rfl, rfl⟩, fun b x i => ⟨applyDepth_effect, fun hi => ?colour⟩,
    fun p x d hx hin => ⟨fun hnop => ?nop, fun hbra hlow hhigh => ?bra⟩, fun key b => blockEviction_acts⟩
  case exported => simpa only [hd, Bool.false_eq_true, if_false] using exportEntry_acts hx hnew
  case discard => simpa only [hd, if_true] using exportEntry_acts hx hnew
  case fetched => exact (acts_of_guardFrame (cellFetchBack_acts hc hsp hroom)).1 (by rw [hclean, spilledPoison_clean])
  case stops => exact (acts_of_guardFrame (cellFetchBack_acts hc hsp hroom)).2 _ (spilledPoison_found hpoison) hrun |>.trans rfl
  case cell =>
    rw [rasterStep_cell hcell]
    exact ⟨rfl, rfl, Map.look_put_self ..⟩
  case tri => exact ⟨_, rasterStep_tri htri, rfl, rfl, Map.look_put_self ..⟩
  case colour =>
    obtain ⟨hexport, hticket, hfail, hpass⟩ := applyColour_effect (s := s) (id := id) (x := x) hi
    exact ⟨hexport, hticket, hfail, fun hv => ⟨_, hpass hv⟩⟩
  case nop => rw [threadStep_nop hnop, nextWord_inside hin]; rfl
  case bra => rw [threadStep_bra hbra, threadJump_inside hlow hhigh]; rfl

end Sys2Proof.GraphicsSteps
end

section
/-! SUPPORT. The place of a batch that issues and the packets that its words name: displacements, fibres that are sent, and the check of a word
that reads fields (02_encoding R26, R43, 15_execution_model R327, R333). -/

namespace Sys2Proof.Control

open Machine

/-- A word whose register fields fail its check traps before anything is read (02_encoding R43). -/
theorem readWord_raises {s : State} {k : Nat} {r w : Wave} {chk : Wave → Option Trap} {srcs : List Nat} {t : Trap} (hi : Issues s k r w)
    (hc : chk r = some t) (f : Nat → Wave → Wave → List LaneIn → Res) :
    readWord s chk srcs f = .next (wordEnds s k r (.trap t)) :=
  (runWord_eq hi _).trans (by rw [hc])

/-- A check by the fibres that fail it: some fail. -/
theorem ite_isEmpty_of_ne_nil {α β : Type} {xs : List α} (h : xs ≠ []) (a b : β) : (if (!xs.isEmpty) = true then a else b) = a :=
  if_pos (by simpa using h)

/-- A check by the fibres that fail it: none fails. -/
theorem ite_isEmpty_of_eq_nil {α β : Type} {xs : List α} (h : xs = []) (a b : β) : (if (!xs.isEmpty) = true then a else b) = b :=
  if_neg (by simp [h])

/-- The lowest PC of the wave is the place of the word that issues. -/
theorem herePacket_of_minPc {r : Wave} {pc : Pc} (h : minPc r = some pc) : herePacket r = pc.packet := by
  rw [herePacket, h]
  rfl

theorem target_of_nonneg {r : Wave} {d : BitVec 8} (hd : 0 ≤ (herePacket r : Int) + d.toInt) :
    target r d = some ((herePacket r : Int) + d.toInt).toNat := if_neg (Int.not_lt.2 hd)

theorem target_of_neg {r : Wave} {d : BitVec 8} (hd : (herePacket r : Int) + d.toInt < 0) : target r d = none := if_pos hd

/-! ## Fibres that are sent -/

theorem sendTo_cons (w : Wave) (l : Nat) (ls : List Nat) (pc : Pc) :
    w.sendTo (l :: ls) pc = (w.mapFibre l fun f => { f with pc := pc }).sendTo ls pc := rfl

/-- Sending fibres changes nothing of their wave but the fibres. -/
theorem sendTo_frame (w : Wave) (ls : List Nat) (pc : Pc) : { w.sendTo ls pc with fibres := w.fibres } = w := by
  induction ls generalizing w with
  | nil => rfl
  | cons l ls ih =>
    have hsent := ih (w.mapFibre l fun f => { f with pc := pc })
    rw [sendTo_cons]
    exact congrArg (fun v : Wave => { v with fibres := w.fibres }) hsent

/-- A fibre that is sent stands at its target, and every other fibre is as before (15_execution_model R333). -/
theorem look_sendTo (w : Wave) (ls : List Nat) (pc : Pc) (l : Nat) :
    (w.sendTo ls pc).fibres.look l = if l ∈ ls then (w.fibres.look l).map (fun f => { f with pc := pc }) else w.fibres.look l := by
  induction ls generalizing w with
  | nil => rfl
  | cons j ls ih =>
    rw [sendTo_cons, ih, look_mapFibre]
    by_cases hl : l = j
    · subst hl
      rw [if_pos rfl, if_pos List.mem_cons_self, Option.map_map]
      exact ite_self _
    · simp only [List.mem_cons, hl, if_false, false_or]

end Sys2Proof.Control
end

section
/-! PROOF. The branches: the fibres that each branch chooses, and its target (15_execution_model R333, 02_encoding R26). -/

namespace Sys2Proof.Control

open Machine

section
variable {s : State} {k : Nat} {r w : Wave} {d : BitVec 8}

/-- A branch with a target sends the fibres that it chooses there, and the rest of the batch to its next chain (R333). -/
theorem branch_sends {t : Nat} (hi : Issues s k r w) (ht : target r d = some t) (sel : List (Nat × Fibre) → List Nat) :
    branch d sel s = .next (wordEnds s k r (.ok (s.moved k (splitTo s w (batch r) (sel (fibresOf r (batch r))) t)))) :=
  (runWord_eq hi _).trans (by rw [ht])

/-- A branch below packet 0 traps, whatever fibres it would choose (02_encoding R26). -/
theorem branch_raises (hi : Issues s k r w) (ht : target r d = none) (sel : List (Nat × Fibre) → List Nat) :
    branch d sel s = .next (wordEnds s k r (.trap (batchTrap r 0x01 0))) :=
  (runWord_eq hi _).trans (by rw [ht]; rfl)

end

/-- The fibres of a filter are all fibres when each of them meets it. -/
theorem map_filter_eq_iff_all (q : Nat × Fibre → Bool) (fs : List (Nat × Fibre)) :
    (fs.filter q).map Prod.fst = fs.map Prod.fst ↔ fs.all q = true := by
  rw [List.all_eq_true]
  refine ⟨fun h => List.length_filter_eq_length_iff.1 ?_, fun h => by rw [List.filter_eq_self.2 h]⟩
  simpa only [List.length_map] using congrArg List.length h

/-- The fibres of a filter are none when no fibre meets it. -/
theorem map_filter_eq_nil_iff_any (q : Nat × Fibre → Bool) (fs : List (Nat × Fibre)) :
    (fs.filter q).map Prod.fst = [] ↔ ¬ fs.any q = true := by
  rw [List.map_eq_nil_iff, List.filter_eq_nil_iff, List.any_eq_true]
  exact ⟨fun h ⟨x, hx, hq⟩ => h x hx hq, fun h x hx hq => h ⟨x, hx, hq⟩⟩

/-- BRALL chooses the whole batch when every fibre of it takes the branch, else none. -/
theorem brall_choice (q : Nat × Fibre → Bool) (fs : List (Nat × Fibre)) :
    (if fs.all q then fs.map Prod.fst else []) = if (fs.filter q).map Prod.fst = fs.map Prod.fst then fs.map Prod.fst else [] :=
  if_congr (map_filter_eq_iff_all q fs).symm rfl rfl

/-- BRANY chooses the whole batch when some fibre of it takes the branch, else none. -/
theorem brany_choice (q : Nat × Fibre → Bool) (fs : List (Nat × Fibre)) :
    (if fs.any q then fs.map Prod.fst else []) = if (fs.filter q).map Prod.fst = [] then [] else fs.map Prod.fst := by
  rw [if_congr (map_filter_eq_nil_iff_any q fs) rfl rfl, ite_not]

/-! ## The words -/

theorem bra_eq (d : BitVec 8) (s : State) : exec (.bra d) s = branch d (fun fs => fs.map Prod.fst) s := rfl

theorem br_eq (p : PReg) (n : Bool) (d : BitVec 8) (s : State) :
    exec (.br p n d) s = branch d (fun fs => (fs.filter fun f => pred f.2 p != n).map Prod.fst) s := rfl

theorem brall_eq (p : PReg) (n : Bool) (d : BitVec 8) (s : State) :
    exec (.brall p n d) s = branch d (fun fs =>
      if (fs.filter fun f => pred f.2 p != n).map Prod.fst = fs.map Prod.fst then fs.map Prod.fst else []) s := by
  simp only [← brall_choice]
  rfl

theorem brany_eq (p : PReg) (n : Bool) (d : BitVec 8) (s : State) :
    exec (.brany p n d) s = branch d (fun fs =>
      if (fs.filter fun f => pred f.2 p != n).map Prod.fst = [] then [] else fs.map Prod.fst) s := by
  simp only [← brany_choice]
  rfl

/-- Settles O16: a branch with a target splits its batch by the fibres that it chooses, and one below packet 0 traps. -/
theorem branchesChooseFibres : Obligations.BranchesChooseFibres := by
  refine ⟨fun p n d s k r w pc hi hpc => ?_, fun w ls pc => ⟨look_sendTo w ls pc, sendTo_frame w ls pc⟩⟩
  rw [← herePacket_of_minPc hpc]
  refine ⟨fun hd => ?sends, fun hd => ?raises⟩
  case sends =>
    have hgo := branch_sends hi (target_of_nonneg hd)
    exact ⟨(bra_eq d s).trans (hgo _), (br_eq p n d s).trans (hgo _), (brall_eq p n d s).trans (hgo _), (brany_eq p n d s).trans (hgo _)⟩
  case raises =>
    have htrap := branch_raises hi (target_of_neg hd)
    exact ⟨(bra_eq d s).trans (htrap _), (br_eq p n d s).trans (htrap _), (brall_eq p n d s).trans (htrap _), (brany_eq p n d s).trans (htrap _)⟩

end Sys2Proof.Control
end

section
/-! PROOF. The jumps, calls and the return: link words, windows and targets (15_execution_model R334, R335). -/

namespace Sys2Proof.Control

open Machine

/-- The fibres of the batch for which the link register of a call lies outside the window or the lane slot (R335). -/
def linkOutside (r : Wave) (d sh : Nat) : List (Nat × Fibre) :=
  (fibresOf r (batch r)).filter fun p => decide (r.n ≤ d) || decide (r.p ≤ p.2.base + 8 * sh + d)

/-- The wave after the link words of a call: each fibre's window moved, and its link word there (R335). -/
def linkedWave (r w : Wave) (d sh : Nat) : Wave :=
  (fibresOf r (batch r)).foldl (fun w p =>
    writePhys (w.mapFibre p.1 fun f => { f with base := f.base + 8 * sh }) p.1 (p.2.base + 8 * sh + d)
      (BitVec.ofNat 32 (8 * (herePacket r + 1) + sh))) w

/-- The batch stands in the body of the top loop (R335). -/
def inTopLoop (r : Wave) : Bool := ((topEntry r).map fun e => e.2.holds (herePacket r)).getD false

theorem inTopLoop_iff (r : Wave) : inTopLoop r = true ↔ ∃ e, topEntry r = some e ∧ e.2.holds (herePacket r) = true := by
  unfold inTopLoop
  cases topEntry r <;> simp

theorem linkOutside_eq_nil {r : Wave} {d sh : Nat} (hd : d < r.n) (hp : ∀ p ∈ fibresOf r (batch r), p.2.base + 8 * sh + d < r.p) :
    linkOutside r d sh = [] :=
  List.filter_eq_nil_iff.2 fun p hm => by
    have hlow := hp p hm
    simp only [Bool.or_eq_true, decide_eq_true_eq]
    omega

theorem linkOutside_eq (r : Wave) (d sh : Nat) :
    linkOutside r d sh = (fibresOf r (batch r)).filter fun p => decide (r.n ≤ d ∨ r.p ≤ p.2.base + 8 * sh + d) := by
  simp only [linkOutside, Bool.decide_or]

section
variable {s : State} {k : Nat} {r w w1 : Wave} {vals : Map (Map Word)}

/-! ## What a call comes to -/

section
variable (s : State) (k : Nat) (w : Wave) {d sh : Nat} (ts : List (Nat × Nat))

/-- A call with a link outside traps for the fibres that it is true of, in a loop body or not. -/
theorem callTo_outside (hout : linkOutside r d sh ≠ []) :
    callTo s k r w d sh ts = .trap (mkTrap 0x04 ((linkOutside r d sh).map Prod.fst) 0 0) := ite_isEmpty_of_ne_nil hout _ _

theorem callTo_inLoop (hfits : linkOutside r d sh = []) (hloop : inTopLoop r = true) :
    callTo s k r w d sh ts = .trap (batchTrap r 0x06 5) := (ite_isEmpty_of_eq_nil hfits _ _).trans (if_pos hloop)

/-- A call whose links all fit, outside the body of the top loop, links and jumps. -/
theorem callTo_jumps (hfits : linkOutside r d sh = []) (hloop : ¬ inTopLoop r = true) :
    callTo s k r w d sh ts = .ok (s.moved k (jumpLanes (linkedWave r w d sh) ts)) :=
  (ite_isEmpty_of_eq_nil hfits _ _).trans (if_neg hloop)

end

/-! ## The words -/

theorem call_eq (hi : Issues s k r w) (d : VReg) (n : BitVec 3) {i : BitVec 8} {t : Nat} (ht : target r i = some t) :
    exec (.call d n i) s = .next (wordEnds s k r (callTo s k r w d.toNat n.toNat ((batch r).map fun l => (l, t)))) :=
  (runWord_eq hi _).trans (by rw [ht])

theorem call_raises (hi : Issues s k r w) (d : VReg) (n : BitVec 3) {i : BitVec 8} (ht : target r i = none) :
    Raises (.call d n i) s k r (batchTrap r 0x01 0) := (runWord_eq hi _).trans (by rw [ht]; rfl)

theorem callv_eq {a : VReg} (hr : FieldsRead s k r w (portCheck r [a.toNat] []) [a.toNat] vals w1) (d : VReg) (n : BitVec 3) :
    exec (.callv d a n) s = .next (wordEnds s k r
      (callTo s k r w1 d.toNat n.toNat ((inputs s r vals [a.toNat]).map fun x => (x.lane, (x.arg 0).toNat)))) := readWord_eq hr _

/-- RET below base 0 traps for the fibres that it is true of (R335). -/
theorem ret_raises {a : VReg} (hr : FieldsRead s k r w (portCheck r [a.toNat] []) [a.toNat] vals w1)
    (hbelow : (inputs s r vals [a.toNat]).filter (fun x => decide (x.fibre.base < 8 * ((x.arg 0).toNat % 8))) ≠ []) :
    Raises (.ret a) s k r (mkTrap 0x04
      (((inputs s r vals [a.toNat]).filter fun x => decide (x.fibre.base < 8 * ((x.arg 0).toNat % 8))).map LaneIn.lane) 0 0) :=
  (readWord_eq hr _).trans (by rw [ite_isEmpty_of_ne_nil hbelow])

/-- RET gives each fibre its caller's window back and sends it to the packet of its link word (R335). -/
theorem ret_completes {a : VReg} (hr : FieldsRead s k r w (portCheck r [a.toNat] []) [a.toNat] vals w1)
    (hbase : ∀ x ∈ inputs s r vals [a.toNat], 8 * ((x.arg 0).toNat % 8) ≤ x.fibre.base) :
    Completes (.ret a) s k r (s.moved k (jumpLanes
      ((inputs s r vals [a.toNat]).foldl (fun w x =>
        w.mapFibre x.lane fun f => { f with base := f.base - 8 * ((x.arg 0).toNat % 8) }) w1)
      ((inputs s r vals [a.toNat]).map fun x => (x.lane, (x.arg 0).toNat / 8)))) := by
  have hnone : (inputs s r vals [a.toNat]).filter (fun x => decide (x.fibre.base < 8 * ((x.arg 0).toNat % 8))) = [] :=
    List.filter_eq_nil_iff.2 fun x hx => by simpa using hbase x hx
  exact (readWord_eq hr _).trans (by rw [ite_isEmpty_of_eq_nil hnone])

/-- JMPV sends each fibre to the packet of its own vA (R334). -/
theorem jmpv_completes {v : VReg} (hr : FieldsRead s k r w (portCheck r [v.toNat] []) [v.toNat] vals w1) :
    Completes (.jmpv v) s k r (s.moved k ((inputs s r vals [v.toNat]).foldl
      (fun w x => w.sendTo [x.lane] { packet := (x.arg 0).toNat, slot := 0 }) w1)) :=
  (readWord_eq hr _).trans (by rw [jumpLanes, List.foldl_map])

end

/-- Settles O17: CALL and CALLV come to one call, which links and jumps, traps in a loop, or traps for the fibres whose link lies outside. -/
theorem callsAndReturns : Obligations.CallsAndReturns := by
  refine ⟨fun d a n i s k r w w1 vals pc hpc => ?_, fun a v s k r w w1 vals => ⟨fun hi => runWord_eq hi _, jmpv_completes⟩⟩
  rw [← herePacket_of_minPc hpc]
  intro fits inLoop linked
  have hnone : fits → linkOutside r d.toNat n.toNat = [] := fun ⟨hd, hp⟩ => linkOutside_eq_nil hd hp
  have hin : inTopLoop r = true ↔ inLoop := inTopLoop_iff r
  refine ⟨fun hi hfits hloop hd => ?call, fun hr hfits hloop => ?callv, fun hr hfits hloop => ?callvInLoop,
    fun hi hfits hloop hd => ?callInLoop, ?outside, fun hi hd => call_raises hi d n (target_of_neg hd), ?retBelow, fun hr => ret_completes hr⟩
  case call =>
    rw [Completes, call_eq hi d n (target_of_nonneg hd), callTo_jumps s k w _ (hnone hfits) (hin.not.2 hloop)]
    rfl
  case callv =>
    rw [Completes, callv_eq hr d n, callTo_jumps s k w1 _ (hnone hfits) (hin.not.2 hloop)]
    rfl
  case callvInLoop => rw [Raises, callv_eq hr d n, callTo_inLoop s k w1 _ (hnone hfits) (hin.2 hloop)]
  case callInLoop => rw [Raises, call_eq hi d n (target_of_nonneg hd), callTo_inLoop s k w _ (hnone hfits) (hin.2 hloop)]
  case outside =>
    rw [← linkOutside_eq]
    intro outside hout
    have hne : linkOutside r d.toNat n.toNat ≠ [] := mt (congrArg (List.map Prod.fst)) hout
    exact ⟨fun hi hd => by rw [Raises, call_eq hi d n (target_of_nonneg hd), callTo_outside s k w _ hne],
      fun hr => by rw [Raises, callv_eq hr d n, callTo_outside s k w1 _ hne]⟩
  case retBelow =>
    intro below hr hbelow
    exact ret_raises hr (mt (congrArg (List.map LaneIn.lane)) hbelow)

end Sys2Proof.Control
end

section
/-! PROOF. The loop words and REP (15_execution_model R336 to R342, 19_traps R427). -/

namespace Sys2Proof.Control

open Machine

/-- The first loop entry above the top of the loop stack (R336). -/
def loopTop (r : Wave) : Nat := ((topEntry r).map fun p => p.1 + 1).getD 0

/-- The loop entry of a body of `n` iterations that ends `e` packets on (R337). -/
def loopEntryOf (r : Wave) (n e : Nat) : LoopEntry :=
  { start := BitVec.ofNat 32 (herePacket r + 1), fin := BitVec.ofNat 32 (herePacket r + e), count := BitVec.ofNat 9 n }

/-! ## What a loop word comes to -/

section
variable (s : State) (k : Nat) {r : Wave} (w : Wave) {n : Nat} (e : Nat)

theorem loopWord_handler (n : Nat) (hh : r.inHandler = true) : loopWord s k r w n e = .trap (batchTrap r 0x01 0) := if_pos hh

theorem loopWord_diverged (n : Nat) (hh : r.inHandler = false) (hc : converged r = false) :
    loopWord s k r w n e = .trap (batchTrap r 0x06 0) := by
  simp only [loopWord, hh, hc, Bool.not_false, Bool.false_eq_true, if_true, if_false]
  rfl

/-- A loop of no iterations skips its body (R337). -/
theorem loopWord_skips (hh : r.inHandler = false) (hc : converged r = true) :
    loopWord s k r w 0 e = .ok (s.moved k (w.sendTo (batch r) { packet := herePacket r + e + 1, slot := 0 })) := by
  simp only [loopWord, hh, hc, Bool.not_true, Bool.false_eq_true, if_true, if_false]

theorem loopWord_full (hh : r.inHandler = false) (hc : converged r = true) (hn : n ≠ 0) (htop : 4 ≤ loopTop r) :
    loopWord s k r w n e = .trap (batchTrap r 0x23 0) := by
  simp only [loopWord, hh, hc, hn, Bool.not_true, Bool.false_eq_true, if_false]
  exact if_pos htop

/-- A loop with room for its entry enters it and goes on to its body (R336, R337). -/
theorem loopWord_enters (hh : r.inHandler = false) (hc : converged r = true) (hn : n ≠ 0) (htop : loopTop r < 4) :
    loopWord s k r w n e = .ok (s.moved k ({ w with loops := w.loops.set (loopTop r) (loopEntryOf r n e) }.sendTo (batch r)
      { packet := herePacket r + 1, slot := 0 })) := by
  simp only [loopWord, hh, hc, hn, Bool.not_true, Bool.false_eq_true, if_false]
  exact if_neg (Nat.not_le.2 htop)

end

/-! ## The words -/

/-- The iterations of LOOPI: a coded count of 0 is 256 (R336). -/
def loopiCount (n : BitVec 8) : Nat := if n = 0 then 256 else n.toNat

theorem loopiCount_ne_zero (n : BitVec 8) : loopiCount n ≠ 0 := by
  unfold loopiCount
  split
  case isTrue => decide
  case isFalse hn => exact mt (fun h => BitVec.eq_of_toNat_eq h) hn

section
variable {s : State} {k : Nat} {r w : Wave}

theorem loopi_eq (hi : Issues s k r w) (n e : BitVec 8) :
    exec (.loopi n e) s = .next (wordEnds s k r (loopWord s k r w (loopiCount n) e.toNat)) := runWord_eq hi _

theorem loops_eq (hi : Issues s k r w) {a : SReg} (e : BitVec 8) (ha : (sreg r a.toNat).toNat ≤ 511) :
    exec (.loops a e) s = .next (wordEnds s k r (loopWord s k r w (sreg r a.toNat).toNat e.toNat)) :=
  (runWord_eq hi _).trans (by rw [if_neg (Nat.not_lt.2 ha)])

/-- LOOPS in a handler traps, with a count in range or not (19_traps R427). -/
theorem loops_raises_handler (hi : Issues s k r w) (a : SReg) (e : BitVec 8) (hh : r.inHandler = true) :
    Raises (.loops a e) s k r (batchTrap r 0x01 0) :=
  (runWord_eq hi _).trans (by rw [loopWord_handler s k w e.toNat _ hh]; exact congrArg _ (congrArg _ (ite_self _)))

/-- LBRK empties the top entry (R339). -/
theorem lbrk_completes (hi : Issues s k r w) (hh : r.inHandler = false) {q : Nat × LoopEntry} (hq : topEntry w = some q) :
    Completes .lbrk s k r (s.setWave k { w with loops := w.loops.set q.1 LoopEntry.none }) :=
  (runWord_eq hi _).trans (by simp only [hh, hq, Bool.false_eq_true, if_false])

theorem lbrk_raises_handler (hi : Issues s k r w) (hh : r.inHandler = true) : Raises .lbrk s k r (batchTrap r 0x01 0) :=
  (runWord_eq hi _).trans (by rw [if_pos hh]; rfl)

/-- REP leaves its wave at its own slot with the repeats to come (R341, R342). -/
theorem rep_completes (hi : Issues s k r w) (hh : r.inHandler = false) (c : BitVec 6) (x y z : Bool) (m : BitVec 2) :
    Completes (.rep c x y z m) s k r (s.moved k
      ({ w with rep := repStart (c.toNat + 1) x y z m, repAt := some { packet := herePacket r, slot := hereSlot s } }.sendTo (batch r)
        { packet := herePacket r, slot := hereSlot s })) :=
  (runWord_eq hi _).trans (by simp only [hh, Bool.false_eq_true, if_false])

theorem rep_raises_handler (hi : Issues s k r w) (hh : r.inHandler = true) (c : BitVec 6) (x y z : Bool) (m : BitVec 2) :
    Raises (.rep c x y z m) s k r (batchTrap r 0x01 0) :=
  (runWord_eq hi _).trans (by rw [if_pos hh]; rfl)

end

/-- Settles O18: LOOPI and LOOPS come to one loop word, which enters, skips or traps; LBRK and REP by the lemmas of their outcomes. -/
theorem loopsAndRepeats : Obligations.LoopsAndRepeats := by
  refine ⟨fun n e a c x y z m s k r w pc hi hpc hh => ?_, fun n e a c x y z m s k r w hi hh => ?handler⟩
  · rw [← herePacket_of_minPc hpc]
    refine ⟨fun hc htop => ⟨?loopi, fun hlow hhigh => ?loops⟩, fun hc hzero => ?skips, fun hc htop => ?full, fun hc => ?diverged,
      fun q hq => lbrk_completes hi hh hq, rep_completes hi hh c x y z m⟩
    case loopi => exact (loopi_eq hi n e).trans (by rw [loopWord_enters s k w e.toNat hh hc (loopiCount_ne_zero n) htop]; rfl)
    case loops => exact (loops_eq hi e hhigh).trans (by rw [loopWord_enters s k w e.toNat hh hc (Nat.ne_of_gt hlow) htop]; rfl)
    case skips =>
      have hcount : (sreg r a.toNat).toNat = 0 := by rw [hzero]; rfl
      exact (loops_eq hi e (by omega)).trans (by rw [hcount, loopWord_skips s k w e.toNat hh hc])
    case full => exact (loopi_eq hi n e).trans (by rw [loopWord_full s k w e.toNat hh hc (loopiCount_ne_zero n) htop])
    case diverged => exact (loopi_eq hi n e).trans (by rw [loopWord_diverged s k w e.toNat _ hh hc])
  case handler =>
    exact ⟨(loopi_eq hi n e).trans (by rw [loopWord_handler s k w e.toNat _ hh]), lbrk_raises_handler hi hh, rep_raises_handler hi hh c x y z m,
      loops_raises_handler hi a e hh⟩

end Sys2Proof.Control
end

section
/-! PROOF. The fibre words: SPAWN, SPAWNP, REGROUP and FLUSHRG (15_execution_model R326, R345 to R348). -/

namespace Sys2Proof.FibreWords

open Machine Control

/-! ## Writes of physical registers -/

theorem writePhys_fibres (w : Wave) (lane reg : Nat) (x : Word) : (writePhys w lane reg x).fibres = w.fibres := rfl

/-- A physical register that has been written reads as written, and every other one as before. -/
theorem writePhys_get (w : Wave) (lane reg : Nat) (x : Word) (m : Nat) :
    (writePhys w lane reg x).vregs.get m 0 = if m = physKey lane reg then x else w.vregs.get m 0 := Map.get_store ..

/-- Two places of the register file are one when lane slot and register agree. -/
theorem physKey_inj {l j a b : Nat} (ha : a < 4096) (hb : b < 4096) : physKey l a = physKey j b ↔ l = j ∧ a = b := by
  unfold physKey
  omega

/-! ## One spawn -/

/-- The fibre that a spawn starts (R345, R326). -/
def spawnedFibre (t uid base : Nat) (pad : Bool) : Fibre := { freshFibre uid t with base := base, padding := pad, spawned := true }

/-- The wave with a fibre started in a lane slot: its v0, and its v1 where it has one (R345). -/
def spawnInto (w : Wave) (l : Nat) (f : Fibre) (x : LaneIn) : Wave :=
  let w1 := writePhys { w with fibres := w.fibres.put l f } l f.base (x.arg 1)
  if w.n = 1 then w1 else writePhys w1 l (f.base + 1) (BitVec.ofNat 32 x.lane)

theorem spawnOne_full {w : Wave} (h : freeLane w = none) (t : Nat) (pad : Bool) (d uid : Nat) (x : LaneIn) :
    spawnOne t pad d w uid x = (setVreg w x.lane x.fibre d 0xFFFFFFFF, uid) := by
  simp only [spawnOne, h]
  rfl

theorem spawnOne_free {w : Wave} {l : Nat} (h : freeLane w = some l) (t : Nat) (pad : Bool) (d uid : Nat) (x : LaneIn) :
    spawnOne t pad d w uid x =
      (writePhys (spawnInto w l (spawnedFibre t uid (x.arg 0).toNat pad) x) x.lane (x.fibre.base + d) (BitVec.ofNat 32 l), uid + 1) := by
  simp only [spawnOne, h]
  rfl

theorem spawnInto_fibres (w : Wave) (l : Nat) (f : Fibre) (x : LaneIn) : (spawnInto w l f x).fibres = w.fibres.put l f := by
  unfold spawnInto
  split <;> rfl

/-- v0 of the new fibre is the spawner's vD. -/
theorem spawnInto_v0 (w : Wave) (l : Nat) (f : Fibre) (x : LaneIn) :
    (spawnInto w l f x).vregs.get (physKey l f.base) 0 = x.arg 1 := by
  have hne : physKey l f.base ≠ physKey l (f.base + 1) := by
    unfold physKey
    omega
  unfold spawnInto
  split
  case isTrue => rw [writePhys_get, if_pos rfl]
  case isFalse => rw [writePhys_get, if_neg hne, writePhys_get, if_pos rfl]

/-- v1 of the new fibre is the spawner's lane slot. -/
theorem spawnInto_v1 {w : Wave} (hn : 1 < w.n) (l : Nat) (f : Fibre) (x : LaneIn) :
    (spawnInto w l f x).vregs.get (physKey l (f.base + 1)) 0 = BitVec.ofNat 32 x.lane := by
  rw [spawnInto, if_neg (Nat.ne_of_gt hn), writePhys_get, if_pos rfl]

/-! ## SPAWN and SPAWNP -/

/-- The check of a spawn before it reads its fields (R345). -/
def spawnCheck (d a : VReg) (i : BitVec 8) (r : Wave) : Option Trap :=
  if (target r i).isNone then some (batchTrap r 0x01 0) else portCheck r [a.toNat, d.toNat] [d.toNat]

/-- The check of a REGROUP before it reads its fields (R347). -/
def regroupCheck (s : State) (a : VReg) (i : BitVec 8) (r : Wave) : Option Trap :=
  if (target r i).isNone || poolCap s r.blk == 0 then some (batchTrap r 0x01 0) else portCheck r [a.toNat] []

section
variable {s : State} {k : Nat} {r w w1 : Wave} {vals : Map (Map Word)} {d a : VReg} {i : BitVec 8} {t : Nat}

theorem spawnCheck_of_target (ht : target r i = some t) : spawnCheck d a i r = portCheck r [a.toNat, d.toNat] [d.toNat] := by
  simp only [spawnCheck, ht, Option.isNone_some, Bool.false_eq_true, if_false]

/-- A spawn of windows that all lie in the lane slot starts its fibres one after the other. -/
theorem spawnWord_eq (ht : target r i = some t)
    (hr : FieldsRead s k r w (portCheck r [a.toNat, d.toNat] [d.toNat]) [a.toNat, d.toNat] vals w1)
    (hfits : ∀ x ∈ inputs s r vals [a.toNat, d.toNat], (x.arg 0).toNat + r.n ≤ r.p) (pad : Bool) :
    spawnWord pad d a i s = .next (wordEnds s k r (.ok
      (let q := (inputs s r vals [a.toNat, d.toNat]).foldl (fun (q : Wave × Nat) x => spawnOne t pad d.toNat q.1 q.2 x) (w1, s.work.nextUid)
      { s with work := { s.work with waves := s.work.waves.put k q.1, nextUid := q.2 } }))) := by
  have hnone : (inputs s r vals [a.toNat, d.toNat]).filter (fun x => decide (r.p < (x.arg 0).toNat + r.n)) = [] :=
    List.filter_eq_nil_iff.2 fun x hx => by simpa using hfits x hx
  rw [← spawnCheck_of_target ht] at hr
  refine (readWord_eq (chk := spawnCheck d a i) hr _).trans ?_
  rw [ite_isEmpty_of_eq_nil hnone, ht]
  rfl

/-! ## REGROUP and FLUSHRG -/

theorem regroupCheck_of_target (ht : target r i = some t) (hcap : poolCap s r.blk ≠ 0) : regroupCheck s a i r = portCheck r [a.toNat] [] := by
  simp only [regroupCheck, ht, Option.isNone_some, Bool.false_or, beq_iff_eq, hcap, if_false]

theorem regroup_raises (hi : Issues s k r w) (a : VReg) (hno : target r i = none ∨ poolCap s r.blk = 0) :
    Raises (.regroup a i) s k r (batchTrap r 0x01 0) :=
  readWord_raises (chk := regroupCheck s a i) hi (if_pos (by simpa using hno)) _

section
variable (ht : target r i = some t) (hcap : poolCap s r.blk ≠ 0) (hr : FieldsRead s k r w (portCheck r [a.toNat] []) [a.toNat] vals w1)
include ht hcap hr

/-- A REGROUP with a target and a capacity reads its field. -/
theorem regroup_reads : FieldsRead s k r w (regroupCheck s a i r) [a.toNat] vals w1 := by rwa [regroupCheck_of_target ht hcap]

theorem regroup_waits (hld : opCount r .ld ≠ 0) : Waits (.regroup a i) s k r := by
  refine (readWord_eq (chk := regroupCheck s a i) (regroup_reads ht hcap hr) _).trans ?_
  rw [if_pos (by simpa using hld)]

theorem regroup_raises_based (hld : opCount r .ld = 0) (hbased : (inputs s r vals [a.toNat]).filter (fun x => x.fibre.base != 0) ≠ []) :
    Raises (.regroup a i) s k r (mkTrap 0x06 (((inputs s r vals [a.toNat]).filter fun x => x.fibre.base != 0).map LaneIn.lane) 0 2) := by
  refine (readWord_eq (chk := regroupCheck s a i) (regroup_reads ht hcap hr) _).trans ?_
  rw [if_neg (by simp [hld]), ite_isEmpty_of_ne_nil hbased]

theorem regroup_raises_inLoop (hld : opCount r .ld = 0) (hbased : (inputs s r vals [a.toNat]).filter (fun x => x.fibre.base != 0) = [])
    (hloop : ∃ e ∈ r.loops, e.holds (herePacket r) = true) : Raises (.regroup a i) s k r (batchTrap r 0x06 3) := by
  refine (readWord_eq (chk := regroupCheck s a i) (regroup_reads ht hcap hr) _).trans ?_
  rw [if_neg (by simp [hld]), ite_isEmpty_of_eq_nil hbased, if_pos (List.any_eq_true.2 hloop)]
  rfl

theorem regroup_completes {b : Block} (hb : s.block r.blk = some b) (hld : opCount r .ld = 0)
    (hbased : (inputs s r vals [a.toNat]).filter (fun x => x.fibre.base != 0) = [])
    (hloop : ∀ e ∈ r.loops, e.holds (herePacket r) = false) :
    Completes (.regroup a i) s k r
      (let q := (inputs s r vals [a.toNat]).foldl (regroupOne s (cover s .ld 0 r.nextOp r) (poolOpen s r.blk) t a.toNat)
        (cover s .ld 0 r.nextOp w1, b)
      (s.setBlock r.blk q.2).moved k q.1) := by
  refine (readWord_eq (chk := regroupCheck s a i) (regroup_reads ht hcap hr) _).trans ?_
  rw [if_neg (by simp [hld]), ite_isEmpty_of_eq_nil hbased, if_neg (by simpa using hloop), hb, ht]
  rfl

end

theorem flushrg_completes {b : Block} (hi : Issues s k r w) (hb : s.block r.blk = some b) :
    Completes .flushrg s k r ((s.setBlock r.blk { b with pools := b.pools.map fun p => { p with flush := true } }).setWave k w) :=
  (runWord_eq hi _).trans (by rw [hb])

end

/-- Settles O24: each word by the lemma of its outcome, and one spawn by the registers that it writes, each at a place of its own. -/
theorem fibresStart : Obligations.FibresStart := by
  refine ⟨fun d a i s k r w w1 vals t b ht => ⟨fun hr hfits => ?spawn, fun hr hb hcap hld hbase hloop => ?regroup,
      fun hr hcap => ⟨regroup_waits ht hcap hr, fun hld => ⟨fun hne => ?based, fun hnil hloop => ?inLoop⟩⟩,
      fun hi hcap => regroup_raises hi a (.inr hcap), flushrg_completes⟩,
    fun a i s k r w hi ht => regroup_raises hi a (.inl ht),
    fun t d pad w uid x => ⟨fun l hl hne => ?started, fun hfull => spawnOne_full hfull t pad d uid x⟩⟩
  case spawn => exact ⟨spawnWord_eq ht hr hfits false, spawnWord_eq ht hr hfits true⟩
  case regroup =>
    exact regroup_completes ht hcap hr hb hld (List.filter_eq_nil_iff.2 fun x hx => by simpa using hbase x hx) hloop
  case based => exact regroup_raises_based ht hcap hr hld (mt (congrArg (List.map LaneIn.lane)) hne)
  case inLoop => exact regroup_raises_inLoop ht hcap hr hld (List.map_eq_nil_iff.1 hnil) hloop
  case started =>
    rw [spawnOne_free hl, writePhys_fibres, spawnInto_fibres]
    refine ⟨spawnedFibre t uid (x.arg 0).toNat pad, Map.look_put_self .., rfl, rfl, rfl, rfl, rfl, rfl, rfl,
      fun j hj => by rw [Map.look_put, if_neg hj], fun hfits hp hd => ⟨fun hn => ?v0, fun hn => ?v1, ?vd⟩⟩
    case v0 =>
      rw [writePhys_get, if_neg fun he => hne ((physKey_inj (by omega) hd).1 he).1]
      exact spawnInto_v0 w l (spawnedFibre t uid (x.arg 0).toNat pad) x
    case v1 =>
      rw [writePhys_get, if_neg fun he => hne ((physKey_inj (by omega) hd).1 he).1]
      exact spawnInto_v1 hn l (spawnedFibre t uid (x.arg 0).toNat pad) x
    case vd => rw [writePhys_get, if_pos rfl]

end Sys2Proof.FibreWords
end

section
/-! PROOF. What reset leaves (18_host_peers R408 to R410, 20_errors R440). -/

namespace Sys2Proof.ResetState
open Machine

/-- Settles O52: neither memory lists a byte after reset. -/
theorem resetInv : Obligations.ResetInv := by
  unfold Obligations.ResetInv
  exact (inv_iff _).mpr ⟨rfl, rfl⟩

theorem barRead_byte (s : State) (off : Nat) : barRead s off 1 = barByte s off := by
  simp [barRead]

/-- Above the mailbox base and beside the two MSI-X areas no register stands. -/
theorem barByte_unlisted {s : State} (hs : serving s = true) {off : Nat} (h : 0x048 ≤ off)
    (hout : off < 0x2000 ∨ 0x2400 ≤ off ∧ off < 0x3000 ∨ 0x3008 ≤ off) : barByte s off = 0 := by
  have h1 : ¬ (0x2000 ≤ off ∧ off < 0x2400) := by omega
  have h2 : ¬ (0x3000 ≤ off ∧ off < 0x3008) := by omega
  have h3 : ¬ (0x010 ≤ off ∧ off < 0x018) := by omega
  have h4 : ¬ (0x020 ≤ off ∧ off < 0x040) := by omega
  have h5 : ¬ off < 0x040 := by omega
  have h6 : ¬ off < 0x048 := by omega
  have h7 : ¬ off = 0x000 := by omega
  have h8 : ¬ off = 0x008 := by omega
  have hup : ¬ (!serving s) = true := by simp [hs]
  rw [barByte, if_neg h7, if_neg h8, if_neg h3, if_neg h4, if_neg h5, if_neg hup, if_neg h6, if_neg h1, if_neg h2]

/-- Settles O54. -/
theorem resetValues : Obligations.ResetValues := by
  unfold Obligations.ResetValues
  refine ⟨by decide, by decide, by decide, by decide, by decide, ?_, rfl, fun _ _ => rfl, rfl, rfl, rfl⟩
  intro s hs off h hout
  rw [barRead_byte, barByte_unlisted hs h hout]

end Sys2Proof.ResetState
end

section
/-! PROOF. The routing of traps, and what taking one saves or contains (19_traps R423 to R425). -/

namespace Sys2Proof.TrapEntry
open Machine

/-! ## Where a trap goes -/

theorem userHandler_isNone (s : State) (b : Nat) : (userHandler s b).isNone = true ↔ recWord s b 18 = 2 ^ 32 - 1 := by
  unfold userHandler
  split <;> simp_all

/-- Settles O22: the routing table is the disjunction that the model computes. -/
theorem trapRouting : Obligations.TrapRouting := by
  unfold Obligations.TrapRouting
  intro s b t
  simp only [toSupervisor, Bool.or_eq_true, Bool.and_eq_true, beq_iff_eq, decide_eq_true_eq, userHandler_isNone, or_assoc, and_assoc]
  norm_num

/-! ## Taking a trap -/

section
variable {s : State} {k : Nat} {w : Wave} {c : Ctx} {t : Trap} {tb : List Nat}

theorem enterTrap_contained (hw : s.wave k = some w) (hc : s.ctxs.look (ctxOf s w) = some c)
    (h : (w.inHandler || (toSupervisor s w.blk t && c.shpacket == BitVec.allOnes 32)) = true) :
    enterTrap s k tb t = containBlock s w.blk t.cause := by
  simp only [enterTrap, hw, hc, h, if_true]

/-- A trap other than a pre-emption that finds its handler installed changes its wave alone. -/
theorem enterTrap_delivered (hw : s.wave k = some w) (hc : s.ctxs.look (ctxOf s w) = some c) (hp : t.cause ≠ 0x30)
    (h : (w.inHandler || (toSupervisor s w.blk t && c.shpacket == BitVec.allOnes 32)) = false) :
    enterTrap s k tb t = s.setWave k (w.trapped tb (t.shown s.tick k) (saveImg s w.blk)
      (if toSupervisor s w.blk t = true then c.shpacket.toNat else (userHandler s w.blk).getD 0)
      (if toSupervisor s w.blk t = true then .supervisor else w.level) (if toSupervisor s w.blk t = true then c.shbase else w.codeBase)
      (toSupervisor s w.blk t)) := by
  simp only [enterTrap, hw, hc, h, if_neg hp, Bool.false_eq_true, if_false]
  cases toSupervisor s w.blk t <;> exact MemorySteps.mapWave_eq hw _

end

/-- Settles O21: both cases of the guard lead to containment. -/
theorem trapWithoutHandlerContains : Obligations.TrapWithoutHandlerContains := by
  unfold Obligations.TrapWithoutHandlerContains
  intro s k tb t w c hw hc h
  apply enterTrap_contained hw hc
  rcases h with h | ⟨hs, hn⟩
  · simp [h]
  · simp [hs, hn]

/-! ## The wave in its handler -/

section
variable (w : Wave) (tb : List Nat) (t : Trap) (img handler : Nat) (level : Level) (base : DWord) (sup : Bool)

/-- The handler's view of the uniform registers: eight entry values, and every other register as it was. -/
theorem get_entryRegs (tpc : Word) (n : Nat) :
    (entryRegs w img tpc t).get n 0 =
      if n = 127 then BitVec.ofNat 32 (img / 2 ^ 32) else if n = 126 then BitVec.ofNat 32 img else if n = 125 then BitVec.ofNat 32 w.num
      else if n = 124 then t.tinfo else if n = 123 then (t.taddr >>> 32).truncate 32 else if n = 122 then t.taddr.truncate 32
      else if n = 121 then tpc else if n = 120 then BitVec.ofNat 32 t.cause else w.sregs.get n 0 := by
  simp only [entryRegs, List.foldl_cons, List.foldl_nil, Map.get_store]

theorem sreg_trapped (n : Nat) :
    sreg (w.trapped tb t img handler level base sup) n = (entryRegs w img (toTpc (trapPc w tb)) t).get n 0 := rfl

theorem look_trapped (l : Nat) :
    (w.trapped tb t img handler level base sup).fibres.look l = (w.fibres.look l).map (shadowed t.cause tb handler l) :=
  Arrays.look_map w.fibres (fun p => (p.1, shadowed t.cause tb handler p.1 p.2)) (fun _ => rfl) l

end

/-- Settles O20. -/
theorem trapEntrySavesState : Obligations.TrapEntrySavesState := by
  unfold Obligations.TrapEntrySavesState
  intro s k tb t w c hw hc hin hp h256 hinst
  have hopen : (w.inHandler || (toSupervisor s w.blk t && c.shpacket == BitVec.allOnes 32)) = false := by
    cases hsup : toSupervisor s w.blk t <;> simp_all
  refine ⟨_, enterTrap_delivered hw hc hp hopen, ?_⟩
  simp only [sreg_trapped, get_entryRegs, look_trapped]
  refine ⟨rfl, rfl, rfl, rfl, rfl, Trap.shown_taddr _ _ _, Trap.shown_tinfo _ _ _, rfl, rfl, rfl, rfl,
    fun h => ⟨if_pos h, if_pos h⟩, fun h => ⟨if_neg (by simp [h]), if_neg (by simp [h])⟩,
    rfl, rfl, rfl, rfl, rfl, rfl, ⟨rfl, rfl⟩, ?_, ?_, rfl, rfl, rfl, rfl, rfl, rfl⟩
  · intro n hn
    simp only [show n ≠ 127 by omega, show n ≠ 126 by omega, show n ≠ 125 by omega, show n ≠ 124 by omega, show n ≠ 123 by omega,
      show n ≠ 122 by omega, show n ≠ 121 by omega, show n ≠ 120 by omega, if_false]
    rfl
  · intro l f hf
    rw [hf]
    exact ⟨_, _, rfl, rfl, rfl, rfl, rfl, rfl, rfl, rfl, rfl, rfl, rfl⟩

end Sys2Proof.TrapEntry
end

section
/-! PROOF. The words of a handler: FIBRD, FIBWR, TRAP, BRK and TRET (19_traps R425 to R431). -/

namespace Sys2Proof.HandlerWords
open Machine Control

/-! ## FIBRD and FIBWR -/

/-- The check of a FIBRD before it reads: its fibres have shadow state (19_traps R431). -/
def fibrdCheck (d : VReg) (r : Wave) : Option Trap := if noShadow r = true then some (batchTrap r 0x01 0) else portCheck r [] [d.toNat]

/-- The check of a FIBWR before it reads: its level, then its fibres and its selector (19_traps R431, 03_opcode_map R50). -/
def fibwrCheck (a : VReg) (i : BitVec 8) (r : Wave) : Option Trap :=
  if r.level == .user then some (batchTrap r 0x07 0)
  else if noShadow r || decide (1 < i.toNat) then some (batchTrap r 0x01 0)
  else portCheck r [a.toNat] []

theorem portCheck_of_fibrdCheck {d : VReg} {r : Wave} (h : fibrdCheck d r = none) : portCheck r [] [d.toNat] = none := by
  unfold fibrdCheck at h
  split at h
  · cases h
  · exact h

theorem computesRun_fibrd (d : VReg) (i : BitVec 8) :
    ComputesRun (.fibrd d i) (fibrdCheck d) [] d.toNat 1
      (fun _ r _ x => ([(x.fibre.shadow.map fun sh => shadowWord r.tpc x.fibre sh i.toNat).getD 0], 0)) := by
  refine computesRun_of
    (f := fun _ r _ x => x.reg (match x.fibre.shadow with
      | some sh => shadowWord r.tpc x.fibre sh i.toNat
      | none => 0))
    (fun _ => rfl) (fun _ r _ x => ?value) (fun _ _ _ _ => rfl) fun hd r ho hc p hp => ?window
  case value => cases x.fibre.shadow <;> rfl
  case window => exact Conversions.run_lt_of_portCheck ho (portCheck_of_fibrdCheck hc) (List.mem_singleton_self _) hd hp

section
variable {s : State} {k : Nat} {r w w1 : Wave} {vals : Map (Map Word)} {a : VReg} {i : BitVec 8}

theorem fibwrCheck_of_shadow (hl : r.level ≠ .user) (hs : noShadow r = false) (h1 : i.toNat ≤ 1) :
    fibwrCheck a i r = portCheck r [a.toNat] [] := by
  have hsel : ¬ 1 < i.toNat := by omega
  simp only [fibwrCheck, beq_iff_eq, hl, hs, hsel, decide_false, Bool.or_self, Bool.false_eq_true, if_false]

theorem fibwr_eq (hl : r.level ≠ .user) (hs : noShadow r = false) (h1 : i.toNat ≤ 1)
    (hr : FieldsRead s k r w (portCheck r [a.toNat] []) [a.toNat] vals w1) :
    exec (.fibwr a i) s = .next (wordEnds s k r
      (if i == 0 && (inputs s r vals [a.toNat]).any fun x => badPc (x.arg 0) then illegalHere r
      else .ok (s.setWave k ((inputs s r vals [a.toNat]).foldl (fun w x => w.mapFibre x.lane (setShadow i.toNat (x.arg 0))) w1)))) := by
  rw [← fibwrCheck_of_shadow hl hs h1] at hr
  exact readWord_eq (chk := fibwrCheck a i) hr _

theorem beq_zero_iff_toNat (i : BitVec 8) : (i == 0) = true ↔ i.toNat = 0 := by
  rw [beq_iff_eq]
  exact ⟨fun h => by rw [h]; rfl, fun h => BitVec.eq_of_toNat_eq h⟩

/-- A FIBWR names a resume PC that no chain has. -/
theorem badPc_any_iff (ins : List LaneIn) :
    (i == 0 && ins.any fun x => badPc (x.arg 0)) = true ↔ i.toNat = 0 ∧ ∃ x ∈ ins, (x.arg 0).toNat % 4 = 3 := by
  rw [Bool.and_eq_true, beq_zero_iff_toNat]
  simp only [List.any_eq_true, badPc, beq_iff_eq]

end

/-- Settles O25. -/
theorem shadowStateWords : Obligations.ShadowStateWords := by
  unfold Obligations.ShadowStateWords
  refine fun d a i => ⟨computesRun_fibrd d i, fun s k r w w1 vals hr hl hs h1 => ?_⟩
  have hex := fibwr_eq hl hs h1 hr
  refine ⟨fun hgood => ?written, fun hbad => ?trapped⟩
  case written =>
    have hnot := mt (badPc_any_iff _).1 fun ⟨h0, x, hx, h3⟩ => hgood h0 x hx h3
    exact hex.trans (by rw [if_neg hnot])
  case trapped => exact hex.trans (by rw [if_pos ((badPc_any_iff _).2 hbad)]; rfl)

/-! ## TRAP, BRK and TRET -/

section
variable {s : State} {k : Nat} {r w : Wave}

theorem tret_raises_outside (hi : Issues s k r w) (hin : r.inHandler = false) : Raises .tret s k r (batchTrap r 0x01 0) :=
  (runWord_eq hi _).trans (by simp only [hin, Bool.not_false, if_true]; rfl)

theorem tret_raises_diverged (hi : Issues s k r w) (hin : r.inHandler = true) (hd : (batch r).length ≠ r.fibres.length) :
    Raises .tret s k r (batchTrap r 0x06 0) :=
  (runWord_eq hi _).trans (by simp only [hin, bne_iff_ne.2 hd, Bool.not_true, Bool.false_eq_true, if_true, if_false]; rfl)

/-- A TRET with no pre-emption pending leaves its handler, and the block of a wave that was pre-empted goes on (R429, R433). -/
theorem tret_completes (hi : Issues s k r w) (hin : r.inHandler = true) (hd : (batch r).length = r.fibres.length)
    (hp : w.preemptPending = false) :
    Completes .tret s k r (
      let s1 := enterKept (s.moved k (resumeRep s w.returned (ofTpc w.returned.tpc))) k w
      if r.handlerCause = 0x30 then resumeBlock s1 r.blk else s1) :=
  (runWord_eq hi _).trans (by simp only [hin, hd, hp, bne_self_eq_false, Bool.not_true, Bool.false_and, Bool.false_eq_true, if_false])

end

/-- A resumed wave is as it was, or stands at a REP whose repeats are under way. -/
theorem resumeRep_cases (s : State) (w : Wave) (p : Pc) :
    resumeRep s w p = w ∨ resumeRep s w p = { w with repAt := some p } ∧ w.rep.active = true := by
  unfold resumeRep
  split
  case h_1 =>
    dsimp only
    split
    case isTrue h =>
      simp only [Bool.and_eq_true] at h
      exact .inr ⟨rfl, by tauto⟩
    case isFalse => exact .inl rfl
  case h_2 => exact .inl rfl

/-! ## The wave after TRET -/

/-- The banked registers put back, one after the other (19_traps R429). -/
def restoreRegs (m : Map Word) (ps : List (Nat × Word)) : Map Word := ps.foldl (fun m p => Map.store m (120 + p.1) p.2 0) m

theorem get_restoreRegs_other {n : Nat} (ps : List (Nat × Word)) (m : Map Word) (h : ∀ p ∈ ps, 120 + p.1 ≠ n) :
    (restoreRegs m ps).get n 0 = m.get n 0 := by
  induction ps generalizing m with
  | nil => rfl
  | cons p ps ih =>
    obtain ⟨hp, hps⟩ := List.forall_mem_cons.1 h
    exact (ih (m.store (120 + p.1) p.2 0) hps).trans (by rw [Map.get_store, if_neg hp.symm])

theorem get_restoreRegs_mem {i : Nat} {x : Word} (ps : List (Nat × Word)) (m : Map Word) (hn : (ps.map Prod.fst).Nodup) (h : (i, x) ∈ ps) :
    (restoreRegs m ps).get (120 + i) 0 = x := by
  induction ps generalizing m with
  | nil => cases h
  | cons p ps ih =>
    obtain ⟨hp, hps⟩ := List.nodup_cons.1 hn
    rcases List.mem_cons.1 h with rfl | h
    · refine (get_restoreRegs_other ps _ fun q hq he => hp ?_).trans (by rw [Map.get_store, if_pos rfl])
      exact List.mem_map.2 ⟨q, hq, by omega⟩
    · exact ih _ hps h

/-- The wave that leaves its handler, before the fibres that were answered behind it go on (19_traps R429). -/
def unhandled (w : Wave) : Wave :=
  { w with
    fibres := w.fibres.map fun p => (p.1, unshadowed (ofTpc w.tpc) p.2)
    sregs := restoreRegs w.sregs ((List.range 8).zip w.ubank)
    inHandler := false
    superHandler := false
    level := w.intLevel
    codeBase := w.intBase }

theorem releaseLanes_nil (w : Wave) : releaseLanes w [] = w := by
  simp [releaseLanes, chainsOf]

/-- Where no fibre was answered behind the handler and none waits at a CONV that all have reached, TRET releases none. -/
theorem returned_eq_unhandled {w : Wave} (ha : ∀ p ∈ w.fibres, ∀ sh, p.2.shadow = some sh → sh.answered = false)
    (hc : convReady { w with fibres := w.fibres.map fun p => (p.1, unshadowed (ofTpc w.tpc) p.2) } = false) : w.returned = unhandled w := by
  have hnone : w.fibres.filter (fun p => p.2.shadow.any Shadow.goesOn) = [] := by
    refine List.filter_eq_nil_iff.2 fun p hp hg => ?_
    cases hsh : p.2.shadow with
    | none => simp [hsh] at hg
    | some sh => simp [hsh, Shadow.goesOn, ha p hp sh hsh] at hg
  have hready : convReady (unhandled w) = false := hc
  have hret : w.returned = releaseConv (releaseLanes (unhandled w) ((w.fibres.filter fun p => p.2.shadow.any Shadow.goesOn).map Prod.fst)) := rfl
  rw [hret, hnone, List.map_nil, releaseLanes_nil, releaseConv, hready]
  rfl

theorem look_unhandled (w : Wave) (l : Nat) : (unhandled w).fibres.look l = (w.fibres.look l).map (unshadowed (ofTpc w.tpc)) :=
  Arrays.look_map w.fibres (fun p => (p.1, unshadowed (ofTpc w.tpc) p.2)) (fun _ => rfl) l

/-- s120 to s127 are as they were banked. -/
theorem sreg_unhandled_bank {w : Wave} (h8 : w.ubank.length = 8) {i : Nat} (hi : i < 8) : sreg (unhandled w) (120 + i) = nth w.ubank i := by
  have hlen : i < ((List.range 8).zip w.ubank).length := by simp [h8, hi]
  refine get_restoreRegs_mem _ _ (by rw [List.map_fst_zip (by simp [h8])]; exact List.nodup_range) ?_
  rw [List.mem_iff_getElem]
  refine ⟨i, hlen, ?_⟩
  simp [nth, h8, hi]

theorem sreg_unhandled_low (w : Wave) {n : Nat} (hn : n < 120) : sreg (unhandled w) n = sreg w n :=
  get_restoreRegs_other _ _ fun _ _ => by omega

/-- Settles O23: a wave that leaves its handler is `unhandled`, whose registers and fibres the lemmas above give. -/
theorem trapReturn : Obligations.TrapReturn := by
  unfold Obligations.TrapReturn
  refine ⟨⟨fun s k r w hi => ⟨tret_raises_outside hi, tret_raises_diverged hi, tret_completes hi⟩, resumeRep_cases, fun w ha hc => ?_⟩,
    fun c s k r w hi => ⟨runWord_eq hi _, runWord_eq hi _⟩⟩
  rw [returned_eq_unhandled ha hc]
  refine ⟨rfl, rfl, rfl, rfl, fun h8 i => sreg_unhandled_bank h8, fun n => sreg_unhandled_low w, fun l f sh hl hsh => ?_, fun l f hl hsh => ?_,
    rfl, rfl, rfl⟩
  · refine ⟨_, (look_unhandled w l).trans (by rw [hl]; rfl), ?_⟩
    simp only [unshadowed, hsh, and_self]
  · rw [look_unhandled, hl, Option.map_some, unshadowed, hsh]

end Sys2Proof.HandlerWords
end

section
/-! PROOF. The traps that reach a wave from outside its chains (19_traps R424, R425, 18_host_peers R414). -/

namespace Sys2Proof.ReportTraps
open Machine MemorySteps

/-! ## A table changed twice -/

theorem put_put {α : Type} (m : Map α) (k : Nat) (x y : α) : (m.put k x).put k y = m.put k y := by
  induction m with
  | nil => simp [Map.put]
  | cons p m ih =>
    obtain ⟨a, z⟩ := p
    rcases Nat.lt_trichotomy k a with h | rfl | h
    · simp [Map.put, h]
    · simp [Map.put]
    · simp [Map.put, Nat.not_lt.2 (Nat.le_of_lt h), Nat.ne_of_lt h, ih]

theorem setWave_setWave (s : State) (k : Nat) (v w : Wave) : (s.setWave k v).setWave k w = s.setWave k w :=
  congrArg (fun m : Map Wave => { s with work := { s.work with waves := m } }) (put_put s.work.waves k v w)

/-- A wave changed without effect, and then reported to, is the wave reported to. -/
theorem report_unchanged {s : State} {k : Nat} {w : Wave} (h : s.wave k = some w) (t : Trap) :
    report (s.mapWave k fun v => v) k t = report s k t := by
  simp only [report, mapWave_eq h, mapWave_eq (State.wave_setWave_self ..), setWave_setWave]

/-! ## The steps -/

section
variable {s : State} {k : Nat} {w : Wave}

/-- A trap entry takes the trap that the wave takes now (19_traps R425, R432). -/
theorem trapEntry_acts {t : Trap} (hw : s.wave k = some w) (hdue : (trapNow s w).isSome = true)
    (ht : trapNow (withPending s (s.pending.erase (.trapEntry k))) w = some t) :
    Acts (.trapEntry k) (.trapEntry k) s fun s => if t.cause = 0x30 then enterPreempt s k else takeReported s k w t := by
  have hw' : (withPending s (s.pending.erase (.trapEntry k))).wave k = some w := hw
  refine acts_of (show execTrapEntry k s = _ from rfl) (by rw [hw]; exact hdue) ?_
  simp only [hw', ht]

theorem tableFullReport_acts {lanes : Nat} {key : Word} {skip : Bool} (hw : s.wave k = some w)
    (hp : Ev.tableFullReport k lanes key skip ∈ s.pending) :
    Acts (.tableFullReport k lanes key skip) (.tableFullReport k lanes key skip) s fun s =>
      let full : Trap := { cause := 0x22, tmask := BitVec.ofNat 64 lanes, taddr := 0, tinfo := key, next := skip, pops := [],
                           addrTold := false, infoTold := BitVec.allOnes 32 }
      (s.setWave k { w with due := mergeReport w full }).post (.trapEntry k) := by
  have hw' : (withPending s (s.pending.erase (.tableFullReport k lanes key skip))).wave k = some w := hw
  refine acts_of (show execTableFullReport k lanes key skip s = _ from rfl) (List.contains_iff_mem.2 hp) ?_
  simp only [mapWave_eq hw']

/-- A refused access of a peer's memory is done without effect (18_host_peers R414). -/
theorem peerRefusal_acts_access {va : Nat} {wr : Bool} (hw : s.wave k = some w) {op j : Nat} {x : Sub}
    (hx : peerAccess w va wr = some (op, j, x)) :
    Acts (.peerRefusal k va wr) (.peerRefusal k va wr) s fun s => reapWave (refuseSub s k w op j x 13) k := by
  have hw' : (withPending s (s.pending.erase (.peerRefusal k va wr))).wave k = some w := hw
  refine acts_of (show execPeerRefusal k va wr s = _ from rfl) (by simp [hw, hx]) ?_
  simp only [hw', hx, Option.bind_some, Option.map_some]

theorem peerRefusal_acts_sector {va : Nat} {wr : Bool} (hw : s.wave k = some w) (hx : peerAccess w va wr = none) {id j : Nat} {c : Copy}
    (hc : peerSector s k va wr = some (id, j, c)) :
    Acts (.peerRefusal k va wr) (.peerRefusal k va wr) s fun s => reapWave (refuseSector s id j c 13) k := by
  have hw' : (withPending s (s.pending.erase (.peerRefusal k va wr))).wave k = some w := hw
  have hc' : peerSector (withPending s (s.pending.erase (.peerRefusal k va wr))) k va wr = some (id, j, c) := hc
  refine acts_of (show execPeerRefusal k va wr s = _ from rfl) (by simp [hc]) ?_
  simp only [hw', hx, hc', Option.bind_some, Option.map_none]

end

/-- Settles O43. -/
theorem reportedTraps : Obligations.ReportedTraps := by
  unfold Obligations.ReportedTraps
  refine fun k lanes taddr packet slot reason va key skip wr p s w hw =>
    ⟨fun t hdue ht => ?entry, fun hp => ?overrun, fun hp => ?droppedWait, fun hp => ?droppedTest, tableFullReport_acts hw, fun hp => ?store,
      fun op j x => peerRefusal_acts_access hw, fun hx id j c => peerRefusal_acts_sector hw hx, fun op j x => ⟨_, rfl⟩⟩
  case' droppedWait | droppedTest => have hwave : ∀ es, (withPending s es).wave k = some w := fun _ => hw
  case entry =>
    have hacts := trapEntry_acts hw hdue ht
    refine ⟨fun h => ?_, fun h => ?_⟩
    · simpa only [h, if_true] using hacts
    · simpa only [h, if_false] using hacts
  case overrun => exact acts_of (show execBarrierOverrunReport k taddr s = _ from rfl) (List.contains_iff_mem.2 hp) rfl
  case droppedWait =>
    exact acts_of (show execDroppedBarrierRequest k lanes taddr packet slot none s = _ from rfl) (List.contains_iff_mem.2 hp)
      (report_unchanged (hwave _) _)
  case droppedTest =>
    exact acts_of (show execDroppedBarrierRequest k lanes taddr packet slot (some p) s = _ from rfl) (List.contains_iff_mem.2 hp)
      (congrArg (report · k _) (mapWave_eq (hwave _) _))
  case store => exact acts_of (show execBlockStoreFailure k lanes reason s = _ from rfl) (List.contains_iff_mem.2 hp) rfl

end Sys2Proof.ReportTraps
end

section
/-! PROOF. LAUNCH, TLBINV, KEYLD and the privilege of words (16_scheduling R362, R363, 17_translation R404 to R406, 03_opcode_map R50). -/

namespace Sys2Proof.PrivilegedWords
open Machine Control

section
variable {s : State} {k : Nat} {r w : Wave} {a b d : SReg}

/-! ## Levels -/

theorem needLevel_raises (x : Res) {ok : Bool} (h : ok = false) : needLevel r ok x = .trap (batchTrap r 0x07 0) := if_neg (by simp [h])

theorem needLevel_passes (x : Res) {ok : Bool} (h : ok = true) : needLevel r ok x = x := if_pos h

/-! ## LAUNCH -/

/-- What LAUNCH comes to with a legal address, a valid record and a live context (16_scheduling R362, R363). -/
theorem launch_eq (hi : Issues s k r w) {x : LaunchData} {c : Ctx} (hva : (spair r a.toNat).toNat % 256 = 0)
    (hx : readLaunch s (coreOf s r) (ctxOf s r) r.level (spair r a.toNat).toNat = .ok x) (hc : s.ctxs.look (ctxOf s r) = some c)
    (hopen : readsOpen s r (launchReads s (coreOf s r) (ctxOf s r) r.level (spair r a.toNat).toNat) = true) :
    exec (.launch d a) s = .next (wordEnds s k r (
      let reads := launchReads s (coreOf s r) (ctxOf s r) r.level (spair r a.toNat).toNat
      if 64 ≤ c.devQueue.length then .ok (noteReads (s.setWave k (setSreg w d.toNat 1)) k r reads)
      else if !releaseReady s r then .hold
      else
        let s1 := acceptLaunch (noteReads (s.setWave k (setSreg w d.toNat 0)) k r reads) (ctxOf s r) r.level none 0 (spair r a.toNat).toNat x
        .ok ({ s1 with mem := releaseBytes s1.mem (coreOf s r) }.setCtx (ctxOf s r)
          { c with devQueue := c.devQueue ++ [s.work.nextLaunch] }))) := by
  refine (runWord_eq hi _).trans ?_
  simp only [hopen, hva, hx, hc, Bool.not_true, Bool.false_eq_true, if_false, bne_self_eq_false]

theorem launch_full (hi : Issues s k r w) {x : LaunchData} {c : Ctx} (hva : (spair r a.toNat).toNat % 256 = 0)
    (hx : readLaunch s (coreOf s r) (ctxOf s r) r.level (spair r a.toNat).toNat = .ok x) (hc : s.ctxs.look (ctxOf s r) = some c)
    (hopen : readsOpen s r (launchReads s (coreOf s r) (ctxOf s r) r.level (spair r a.toNat).toNat) = true)
    (hfull : 64 ≤ c.devQueue.length) :
    Completes (.launch d a) s k r (noteReads (s.setWave k (setSreg w d.toNat 1)) k r
      (launchReads s (coreOf s r) (ctxOf s r) r.level (spair r a.toNat).toNat)) :=
  (launch_eq hi hva hx hc hopen).trans (by simp only [hfull, if_true])

theorem launch_accepted (hi : Issues s k r w) {x : LaunchData} {c : Ctx} (hva : (spair r a.toNat).toNat % 256 = 0)
    (hx : readLaunch s (coreOf s r) (ctxOf s r) r.level (spair r a.toNat).toNat = .ok x) (hc : s.ctxs.look (ctxOf s r) = some c)
    (hopen : readsOpen s r (launchReads s (coreOf s r) (ctxOf s r) r.level (spair r a.toNat).toNat) = true)
    (hroom : c.devQueue.length < 64) (hrel : releaseReady s r = true) :
    Completes (.launch d a) s k r (
      let s1 := acceptLaunch (noteReads (s.setWave k (setSreg w d.toNat 0)) k r
        (launchReads s (coreOf s r) (ctxOf s r) r.level (spair r a.toNat).toNat)) (ctxOf s r) r.level none 0 (spair r a.toNat).toNat x
      { s1 with mem := releaseBytes s1.mem (coreOf s r) }.setCtx (ctxOf s r) { c with devQueue := c.devQueue ++ [s.work.nextLaunch] }) :=
  (launch_eq hi hva hx hc hopen).trans (by simp only [Nat.not_le.2 hroom, hrel, Bool.not_true, Bool.false_eq_true, if_false])

/-! ## TLBINV -/

theorem tlbinv_raises (hi : Issues s k r w) (hl : r.level = .user) : Raises (.tlbinv a b) s k r (batchTrap r 0x07 0) :=
  (runWord_eq hi _).trans (by rw [needLevel_raises _ (by simp [hl])])

/-- A TLBINV of a legal range that nothing under way uses drops its entries (17_translation R404, R405). -/
theorem tlbinv_completes (hi : Issues s k r w) (hl : r.level ≠ .user) {q : InvRange}
    (hq : invRange (spair r a.toNat).toNat (sreg r b.toNat).toNat = some q) (hrel : releaseReady s r = true) (hsub : subInRange s q = false)
    (hask : askInRange s q = false) (hwalk : walkInRange s q = false) (hheld : heldInRange s q = false) :
    Completes (.tlbinv a b) s k r { dropTlb (s.setWave k w) q with mem := releaseBytes (dropTlb s q).mem (coreOf s r) } :=
  (runWord_eq hi _).trans (by
    rw [needLevel_passes _ (by simp [hl]), hq]
    simp only [hrel, hsub, hask, hwalk, hheld, Bool.not_true, Bool.or_self, Bool.false_eq_true, if_false]
    rfl)

/-! ## KEYLD -/

theorem keyld_raises (hi : Issues s k r w) (hl : r.level ≠ .machine) : Raises (.keyld a b) s k r (batchTrap r 0x07 0) :=
  (runWord_eq hi _).trans (by rw [needLevel_raises _ (by simp [hl])])

theorem keyld_empties (hi : Issues s k r w) (hl : r.level = .machine) (hfree : slotFree s ((sreg r b.toNat).toNat % 256) = true)
    (hy : (sreg r b.toNat).toNat / 2 ^ 8 = 1) :
    Completes (.keyld a b) s k r (setKey (s.setWave k w) ((sreg r b.toNat).toNat % 256) none) := by
  have hbit : bitAt (sreg r b.toNat).toNat 8 = true := by rw [bitAt, hy]; rfl
  have hzero : (sreg r b.toNat).toNat / 2 ^ 9 = 0 := by omega
  refine (runWord_eq hi _).trans ?_
  rw [needLevel_passes _ (by simp [hl])]
  simp only [hzero, hbit, hfree, bne_self_eq_false, Bool.false_eq_true, if_true, if_false]

/-- A KEYLD of two different keys at a legal address loads its slot (17_translation R406). -/
theorem keyld_loads (hi : Issues s k r w) (hl : r.level = .machine) (hfree : slotFree s ((sreg r b.toNat).toNat % 256) = true)
    (hy : (sreg r b.toNat).toNat / 2 ^ 8 = 0) (hpa : (spair r a.toNat).toNat < 2 ^ 38) (hline : (spair r a.toNat).toNat % 64 = 0)
    (hopen : readsOpen s r [((spair r a.toNat).toNat, 64)] = true)
    (hne : keyAt s.mem (spair r a.toNat).toNat ≠ keyAt s.mem ((spair r a.toNat).toNat + 32)) :
    Completes (.keyld a b) s k r (setKey (noteReads (s.setWave k w) k r [((spair r a.toNat).toNat, 64)]) ((sreg r b.toNat).toNat % 256)
      (some (keyAt s.mem (spair r a.toNat).toNat, keyAt s.mem ((spair r a.toNat).toNat + 32)))) := by
  have hbit : bitAt (sreg r b.toNat).toNat 8 = false := by rw [bitAt, hy]; rfl
  have hzero : (sreg r b.toNat).toNat / 2 ^ 9 = 0 := by omega
  refine (runWord_eq hi _).trans ?_
  rw [needLevel_passes _ (by simp [hl])]
  simp only [hzero, hbit, hfree, hopen, hne, hline, Nat.not_le.2 hpa, bne_self_eq_false, Bool.not_true, Bool.false_eq_true, if_false]

/-! ## Words that the user level may not run -/

theorem fibwr_raises (hi : Issues s k r w) (hl : r.level = .user) (v : VReg) (i : BitVec 8) :
    Raises (.fibwr v i) s k r (batchTrap r 0x07 0) :=
  readWord_raises
    (chk := fun r =>
      if r.level == .user then some (mkTrap 0x07 (batch r) 0 0)
      else if noShadow r || decide (1 < i.toNat) then some (mkTrap 0x01 (batch r) 0 0)
      else portCheck r [v.toNat] [])
    hi (if_pos (by simp [hl])) _

theorem csr_level {i : BitVec 8} (hl : r.level = .user) (h : 0x80 ≤ i.toNat) : (decide (i.toNat < 0x80) || r.level != .user) = false := by
  simp [hl, h]

theorem csrr_raises (hi : Issues s k r w) (hl : r.level = .user) {i : BitVec 8} (h : 0x80 ≤ i.toNat) :
    Raises (.csrr d i) s k r (batchTrap r 0x07 0) :=
  (runWord_eq hi _).trans (by rw [needLevel_raises _ (csr_level hl h)])

theorem csrw_raises (hi : Issues s k r w) (hl : r.level = .user) {i : BitVec 8} (h : 0x80 ≤ i.toNat) :
    Raises (.csrw a i) s k r (batchTrap r 0x07 0) :=
  (runWord_eq hi _).trans (by rw [needLevel_raises _ (csr_level hl h)])

end

/-- Settles O37: each word by the lemma of its outcome; an accepted launch stands last in the queue with its record. -/
theorem systemWords : Obligations.SystemWords := by
  unfold Obligations.SystemWords
  refine ⟨fun a b d s k r w hi => ⟨fun x c hva hx hc hopen => ?launch, fun core ctx level tag l => ?accept,
      fun q hl hq => tlbinv_completes hi hl hq, fun hl hfree => ⟨keyld_empties hi hl hfree, keyld_loads hi hl hfree⟩⟩,
    fun d a b v i s k r w hi => ⟨tlbinv_raises hi, keyld_raises hi, fun hl => fibwr_raises hi hl v i,
      fun hl h => ⟨csrr_raises hi hl h, csrw_raises hi hl h⟩⟩⟩
  case launch => exact ⟨launch_full hi hva hx hc hopen, launch_accepted hi hva hx hc hopen⟩
  case accept =>
    exact ⟨rfl, rfl, rfl, rfl, ⟨_, Map.look_put_self .., rfl, rfl, rfl, rfl, rfl, rfl, rfl, rfl, rfl⟩,
      fun h => by simp only [readsOpen, h, List.all_nil, Bool.and_self], rfl⟩

end Sys2Proof.PrivilegedWords
end

section
/-! PROOF. Clocks, temperature and power, faults and their repair (16_scheduling R380, 20_errors R437 to R446). -/

namespace Sys2Proof.FaultRepair
open Machine MemorySteps

/-! ## Tables with rising keys -/

/-- The keys of a table rise. -/
def Rising {α : Type} (m : Map α) : Prop := m.Pairwise fun p q => p.1 < q.1

theorem look_cons {α : Type} (a k : Nat) (x : α) (m : Map α) : Map.look ((a, x) :: m) k = if a = k then some x else m.look k := rfl

theorem look_eq_none {α : Type} {m : Map α} {k : Nat} (h : ∀ p ∈ m, k < p.1) : m.look k = none := by
  cases hk : m.look k with
  | none => rfl
  | some x => exact absurd (h _ (Map.mem_of_look m k x hk)) (Nat.lt_irrefl k)

theorem rising_put {α : Type} {m : Map α} (h : Rising m) (k : Nat) (x : α) : Rising (m.put k x) := by
  induction m with
  | nil => exact List.pairwise_singleton _ _
  | cons p m ih =>
    obtain ⟨a, y⟩ := p
    obtain ⟨hhead, htail⟩ := List.pairwise_cons.1 h
    rcases Nat.lt_trichotomy k a with hlt | rfl | hgt
    · rw [Map.put, if_pos hlt]
      refine List.pairwise_cons.2 ⟨fun q hq => ?_, h⟩
      rcases List.mem_cons.1 hq with rfl | hq
      · exact hlt
      · exact Nat.lt_trans hlt (hhead q hq)
    · rw [Map.put, if_neg (Nat.lt_irrefl k), if_pos rfl]
      exact List.pairwise_cons.2 ⟨hhead, htail⟩
    · rw [Map.put, if_neg (Nat.lt_asymm hgt), if_neg (Nat.ne_of_lt hgt)]
      refine List.pairwise_cons.2 ⟨fun q hq => ?_, ih htail⟩
      rcases Map.mem_put m k x q hq with rfl | hq
      · exact hgt
      · exact hhead q hq

/-- Two tables with rising keys that read alike are one table. -/
theorem eq_of_look {α : Type} {m n : Map α} (hm : Rising m) (hn : Rising n) (h : ∀ k, m.look k = n.look k) : m = n := by
  induction m generalizing n with
  | nil =>
    cases n with
    | nil => rfl
    | cons q n =>
      obtain ⟨b, y⟩ := q
      simpa [look_cons] using h b
  | cons p m ih =>
    obtain ⟨a, x⟩ := p
    obtain ⟨hma, hmt⟩ := List.pairwise_cons.1 hm
    cases n with
    | nil => simpa [look_cons] using h a
    | cons q n =>
      obtain ⟨b, y⟩ := q
      obtain ⟨hnb, hnt⟩ := List.pairwise_cons.1 hn
      have hab : a = b := by
        rcases Nat.lt_trichotomy a b with hlt | heq | hgt
        · have hnone : Map.look ((b, y) :: n) a = none := look_eq_none (List.forall_mem_cons.2 ⟨hlt, fun q hq => Nat.lt_trans hlt (hnb q hq)⟩)
          simpa [hnone, look_cons] using h a
        · exact heq
        · have hnone : Map.look ((a, x) :: m) b = none := look_eq_none (List.forall_mem_cons.2 ⟨hgt, fun q hq => Nat.lt_trans hgt (hma q hq)⟩)
          simpa [hnone, look_cons] using h b
      subst hab
      have hxy : x = y := by simpa [look_cons] using h a
      have htails : ∀ k, Map.look m k = Map.look n k := fun k => by
        by_cases hk : a = k
        · subst hk
          rw [look_eq_none hma, look_eq_none hnb]
        · simpa [look_cons, hk] using h k
      rw [hxy, ih hmt hnt htails]

/-! ## The vote over three copies of a table (20_errors R442) -/

/-- One entry voted: set to the value that two copies hold, or left out where they hold none. -/
def putVote (m : Map Nat) (k : Nat) : Option Nat → Map Nat
  | some x => m.put k x
  | none => m

/-- The vote taken one entry on. -/
def voteStep (t : Map Nat × Map Nat × Map Nat) (acc : Option (Map Nat)) (k : Nat) : Option (Map Nat) :=
  acc.bind fun m => (majorityAt t k).map (putVote m k)

/-- The entries of three copies. -/
def votedKeys (t : Map Nat × Map Nat × Map Nat) : List Nat := ((t.1 ++ t.2.1 ++ t.2.2).map Prod.fst).eraseDups

theorem majority_eq (t : Map Nat × Map Nat × Map Nat) : majority t = (votedKeys t).foldl (voteStep t) (some []) := rfl

theorem rising_putVote {m : Map Nat} (h : Rising m) (k : Nat) (v : Option Nat) : Rising (putVote m k v) := by
  cases v with
  | none => exact h
  | some x => exact rising_put h k x

theorem look_putVote (m : Map Nat) (k j : Nat) (v : Option Nat) : (putVote m k v).look j = if j = k then v.or (m.look j) else m.look j := by
  cases v with
  | none => simp [putVote]
  | some x => simp [putVote, Map.look_put]

theorem foldl_voteStep_none (t : Map Nat × Map Nat × Map Nat) (ks : List Nat) : ks.foldl (voteStep t) none = none := by
  induction ks with
  | nil => rfl
  | cons k ks ih => exact ih

theorem rising_foldl_voteStep {t : Map Nat × Map Nat × Map Nat} {ks : List Nat} {m n : Map Nat} (hm : Rising m)
    (h : ks.foldl (voteStep t) (some m) = some n) : Rising n := by
  induction ks generalizing m with
  | nil => exact Option.some.inj h ▸ hm
  | cons k ks ih =>
    rw [List.foldl_cons, voteStep, Option.bind_some] at h
    cases hv : majorityAt t k with
    | none =>
      rw [hv, Option.map_none, foldl_voteStep_none] at h
      cases h
    | some v =>
      rw [hv] at h
      exact ih (rising_putVote hm k v) h

/-- What a vote gives has rising keys. -/
theorem rising_of_majority {t : Map Nat × Map Nat × Map Nat} {m : Map Nat} (h : majority t = some m) : Rising m :=
  rising_foldl_voteStep List.Pairwise.nil h

theorem majorityAt_alike (m : Map Nat) (k : Nat) : majorityAt (m, m, m) k = some (m.look k) := by simp [majorityAt]

theorem foldl_voteStep_alike (m n : Map Nat) (ks : List Nat) :
    ks.foldl (voteStep (m, m, m)) (some n) = some (ks.foldl (fun n k => putVote n k (m.look k)) n) := by
  induction ks generalizing n with
  | nil => rfl
  | cons k ks ih =>
    rw [List.foldl_cons, voteStep, Option.bind_some, majorityAt_alike, Option.map_some, ih, List.foldl_cons]

theorem look_foldl_putVote (m n : Map Nat) (ks : List Nat) (j : Nat) :
    (ks.foldl (fun n k => putVote n k (m.look k)) n).look j = if j ∈ ks then (m.look j).or (n.look j) else n.look j := by
  induction ks generalizing n with
  | nil => simp
  | cons k ks ih =>
    rw [List.foldl_cons, ih, look_putVote]
    by_cases hk : j = k
    · subst hk
      cases m.look j <;> simp
    · simp [hk]

/-- Three copies that are alike vote for themselves. -/
theorem majority_alike {m : Map Nat} (h : Rising m) : majority (m, m, m) = some m := by
  have hfold : majority (m, m, m) = _ := foldl_voteStep_alike m [] (votedKeys (m, m, m))
  refine hfold.trans (congrArg some (eq_of_look (rising_of_majority hfold) h fun k => ?_))
  rw [look_foldl_putVote, Map.look_nil, Option.or_none]
  cases hk : m.look k with
  | none => exact ite_self _
  | some x =>
    have hmem : k ∈ votedKeys (m, m, m) := by
      rw [votedKeys, List.mem_eraseDups]
      exact List.mem_map.2 ⟨(k, x), by simp [Map.mem_of_look m k x hk], rfl⟩
    rw [if_pos hmem]

/-! ## The remap table of a stack -/

theorem remapOf_setRemap (s : State) (stack : Nat) (m : Map Nat) : remapOf (setRemap s stack m) stack = (m, m, m) := by
  simp [remapOf, setRemap, Map.get]

theorem setRemap_setRemap (s : State) (stack : Nat) (m : Map Nat) : setRemap (setRemap s stack m) stack m = setRemap s stack m :=
  congrArg (fun t : Map (Map Nat × Map Nat × Map Nat) => { s with dev := { s.dev with remap := t } })
    (HomeAccess.put_put_self s.dev.remap stack (m, m, m))

theorem voteRemap_some {s : State} {stack : Nat} {m : Map Nat} (h : majority (remapOf s stack) = some m) :
    voteRemap s stack = if (s.dev.remap.look stack).isSome then setRemap s stack m else s := by
  rw [voteRemap, h]

theorem voteRemap_none {s : State} {stack : Nat} (h : majority (remapOf s stack) = none) : voteRemap s stack = containStack s stack := by
  rw [voteRemap, h]

/-- A vote with a majority changes at most the stack's own table, and a listed table to what the majority holds. -/
theorem voteRemap_keeps {s : State} {stack : Nat} {m : Map Nat} (h : majority (remapOf s stack) = some m) :
    (voteRemap s stack).mem = s.mem ∧ (voteRemap s stack).work = s.work ∧ (voteRemap s stack).pending = s.pending ∧
      (voteRemap s stack).dev = { s.dev with remap := (voteRemap s stack).dev.remap } ∧
      (s.dev.remap.look stack ≠ none → (voteRemap s stack).dev.remap.look stack = some (m, m, m)) := by
  rw [voteRemap_some h]
  split
  case isTrue => exact ⟨rfl, rfl, rfl, rfl, fun _ => Map.look_put_self ..⟩
  case isFalse hnone => exact ⟨rfl, rfl, rfl, rfl, fun hsome => absurd (Option.ne_none_iff_isSome.1 hsome) hnone⟩

/-- A table with a majority is written alike in its three copies, and stays so when they are read again. -/
theorem remapTo_some {s : State} {stack : Nat} {m : Map Nat} (h : majority (remapOf s stack) = some m) (key spare : Nat) :
    remapTo s stack key spare = setRemap s stack (m.put key spare) := by
  have hrising : Rising (m.put key spare) := rising_put (rising_of_majority h) key spare
  have hvote : majority (remapOf (setRemap s stack (m.put key spare)) stack) = some (m.put key spare) := by
    rw [remapOf_setRemap, majority_alike hrising]
  have hlisted : ((setRemap s stack (m.put key spare)).dev.remap.look stack).isSome = true := by simp [setRemap]
  rw [remapTo, h]
  exact (voteRemap_some hvote).trans (by rw [if_pos hlisted, setRemap_setRemap])

/-! ## Clocks -/

section
variable {s : State} {stack k : Nat}

/-- What a stack's arbiter has in flight after its steps are dropped: the next step of a clock that is returning (R446). -/
def nextSteps (s : State) (stack : Nat) : List Ev :=
  if s.dev.emergency = true then []
  else ((s.dev.targetK.look stack).map fun t => Ev.powerArbiterStep stack (min t (clockOf s stack + 1))).toList

theorem nextStep_eq (s : State) (stack : Nat) :
    nextStep s stack = withPending s (s.pending.filter (fun e => !stepsOf stack e) ++ nextSteps s stack) := by
  unfold nextStep nextSteps
  cases s.dev.targetK.look stack <;> cases s.dev.emergency <;> simp [State.post]

theorem stepsOf_iff (e : Ev) : stepsOf stack e = true ↔ ∃ j, e = .powerArbiterStep stack j := by
  unfold stepsOf
  split
  case h_1 t j =>
    rw [beq_iff_eq]
    exact ⟨fun h => ⟨j, by rw [h]⟩, fun ⟨i, h⟩ => by cases h; rfl⟩
  case h_2 hother =>
    exact ⟨fun h => (nomatch h), fun ⟨i, h⟩ => absurd h (hother stack i)⟩

theorem clockAllowed_iff : clockAllowed s stack k = true ↔ 1 ≤ k ∧ k ≤ 32 ∧ (s.dev.throttling.look stack = none ∨ k ≤ clockOf s stack) ∧
    (s.dev.emergency = true ∧ k = 1 ∨ s.dev.emergency = false ∧ (s.dev.targetK.look stack = none ∨ k ≤ clockOf s stack + 1)) := by
  unfold clockAllowed
  cases s.dev.emergency <;> simp [and_assoc]

/-- A stack's clock set by its arbiter: a clock that is returning has its next step in flight until it has returned (16_scheduling R380, R446). -/
def arbiterSets (stack k : Nat) (s : State) : State :=
  match s.dev.targetK.look stack with
  | none => setClock s stack k
  | some t =>
    if s.dev.emergency || decide (k < t) then nextStep (setClock s stack k) stack
    else nextStep { setClock s stack k with dev := { (setClock s stack k).dev with targetK := s.dev.targetK.del stack } } stack

theorem arbiterSets_free (h : s.dev.targetK.look stack = none) : arbiterSets stack k s = setClock s stack k := by
  rw [arbiterSets, h]

theorem arbiterSets_returning {t : Nat} (h : s.dev.targetK.look stack = some t) (hk : k < t) :
    arbiterSets stack k s = nextStep (setClock s stack k) stack := by
  rw [arbiterSets, h]
  exact if_pos (by simp [hk])

theorem arbiterSets_returned {t : Nat} (h : s.dev.targetK.look stack = some t) (hem : s.dev.emergency = false) (hk : t ≤ k) :
    arbiterSets stack k s =
      nextStep { setClock s stack k with dev := { (setClock s stack k).dev with targetK := s.dev.targetK.del stack } } stack := by
  rw [arbiterSets, h]
  exact if_neg (by simp [hem, hk])

theorem powerArbiterStep_acts (hup : serving s = true) (hin : stack ∉ s.dev.contained) (hk : clockAllowed s stack k = true) :
    Acts (.powerArbiterStep stack k) (.powerArbiterStep stack k) s (arbiterSets stack k) :=
  acts_of (show execPowerArbiterStep stack k s = _ from rfl) (by simp [hup, hin, hk]) rfl

theorem powerArbiterStep_idles (hk : clockAllowed s stack k = false) : Idles (.powerArbiterStep stack k) s :=
  idles_of (show execPowerArbiterStep stack k s = _ from rfl) (by simp [hk])

/-- A throttle step that is due lowers the clock, or ends the throttling where the sensor reads below the limit (R446). -/
theorem throttleStep_acts {c : Nat} (hc : s.dev.throttling.look stack = some c) (hdue : c ≤ s.dev.cycles) :
    Acts (.throttleStep stack) (.throttleStep stack) s fun s =>
      if Config.choose s.tick % 2 = 0 then { s with dev := { s.dev with throttling := s.dev.throttling.del stack } }
      else throttleDown s stack :=
  acts_of (show execThrottleStep stack s = _ from rfl) (by simp [throttleDue, hc, hdue]) rfl

end

/-! ## Faults and repairs -/

section
variable {s : State} {stack bundle lane : Nat}

theorem faultRetry_ok {f : FaultReport} (hup : serving s = true) (hok : f.ok = true) :
    Acts (.faultRetry f) (.faultRetry f) s fun s => appendLog s (faultRecord s false f) :=
  acts_of (show execFaultRetry f s = _ from rfl) hup (if_pos hok)

theorem faultRetry_lasting {f : FaultReport} (hup : serving s = true) (hok : f.ok = false) :
    Acts (.faultRetry f) (.faultRetry f) s fun s =>
      let s1 := if f.bad then uncorrectable s f.stack f.place else s
      let s2 := if f.stack ∈ s1.dev.contained then s1 else lastingAction s1 f.stack f.place
      appendLog s2 (faultRecord s (s2.dev.contained.contains f.stack) f) := by
  refine acts_of (show execFaultRetry f s = _ from rfl) hup ?_
  simp only [hok, Bool.false_eq_true, if_false, List.contains_iff_mem]

/-- The state after a pass has noted what it found, before the remap table is checked (R440). -/
def surveyNoted (s : State) (stack : Nat) (corrected : List (Nat × Nat × Bool)) (bad : List (Nat × Nat)) : State :=
  let s1 := (bad.foldl (fun s p => poisonSurface s stack p.1 p.2) s).posts (corrected.map (retryWord stack))
  let v := surveyOf s stack
  { s1 with dev := { s1.dev with surveys := s1.dev.surveys.put stack { v with i := nextInterval v corrected.length } } }

theorem surveyorPass_acts (hup : serving s = true) (hin : stack ∉ s.dev.contained) (corrected : List (Nat × Nat × Bool)) (bad : List (Nat × Nat)) :
    Acts (.surveyorPass stack corrected bad) (.surveyorPass stack corrected bad) s fun s =>
      voteRemap (surveyNoted s stack corrected bad) stack :=
  acts_of (show execSurveyorPass stack corrected bad s = _ from rfl) (by simp [hup, hin]) rfl

theorem noLaneLeft_iff : noLaneLeft s stack bundle = true ↔
    (∃ r ∈ s.dev.repairing, r.1 = stack ∧ r.2.1 = bundle) ∨ 4 ≤ sparesUsed s stack bundle := by
  simp only [noLaneLeft, Bool.or_eq_true, List.any_eq_true, Bool.and_eq_true, beq_iff_eq, decide_eq_true_eq]

theorem verticalBusRepair_repairs (hup : serving s = true) (hin : stack ∉ s.dev.contained) (hleft : ¬ noLaneLeft s stack bundle = true) :
    Acts (.verticalBusRepair stack bundle lane) (.verticalBusRepair stack bundle lane) s fun s =>
      { s with dev := { s.dev with repairing := s.dev.repairing ++ [(stack, bundle, lane)] } }.post (.repairRemap stack bundle lane) :=
  acts_of (show execVerticalBusRepair stack bundle lane s = _ from rfl) (by simp [hup, hin]) (if_neg hleft)

theorem verticalBusRepair_contains (hup : serving s = true) (hin : stack ∉ s.dev.contained) (hnone : noLaneLeft s stack bundle = true) :
    Acts (.verticalBusRepair stack bundle lane) (.verticalBusRepair stack bundle lane) s fun s => containStack s stack :=
  acts_of (show execVerticalBusRepair stack bundle lane s = _ from rfl) (by simp [hup, hin]) (if_pos hnone)

theorem repairRemap_acts {m : Map Nat} (hr : (stack, bundle, lane) ∈ s.dev.repairing) (hin : stack ∉ s.dev.contained)
    (hm : majority (remapOf s stack) = some m) :
    Acts (.repairRemap stack bundle lane) (.repairRemap stack bundle lane) s fun s =>
      setRemap { s with dev := { s.dev with repairing := s.dev.repairing.erase (stack, bundle, lane) } } stack
        (m.put (laneKey bundle lane) (sparesUsed s stack bundle)) := by
  refine acts_of (show execRepairRemap stack bundle lane s = _ from rfl) (List.contains_iff_mem.2 hr) ?_
  refine (if_neg (by simpa using hin)).trans (remapTo_some ?_ _ _)
  exact hm

/-- A pass with no uncorrectable word keeps the tables that have a majority, and sends each corrected word to its retry. -/
theorem surveyorPass_clean {m : Map Nat} (hup : serving s = true) (hin : stack ∉ s.dev.contained) (hm : majority (remapOf s stack) = some m)
    (corrected : List (Nat × Nat × Bool)) :
    ∃ t, exec (.surveyorPass stack corrected []) s = .next t ∧ t.mem = s.mem ∧ t.work = s.work ∧ t.dev.contained = s.dev.contained ∧
      t.dev.surveys.look stack = some { surveyOf s stack with i := nextInterval (surveyOf s stack) corrected.length } ∧
      (s.dev.remap.look stack ≠ none → t.dev.remap.look stack = some (m, m, m)) ∧ ∀ q ∈ corrected, retryWord stack q ∈ t.pending := by
  obtain ⟨hmem, hwork, hpend, hdev, hremap⟩ := voteRemap_keeps (stack := stack) (m := m)
    (s := surveyNoted (withPending s (s.pending.erase (.surveyorPass stack corrected []))) stack corrected []) hm
  refine ⟨_, surveyorPass_acts hup hin corrected [], hmem, hwork, ?_, ?_, hremap, fun q hq => ?_⟩
  · exact (congrArg Dev.contained hdev).trans rfl
  · exact (congrArg (fun d : Dev => d.surveys.look stack) hdev).trans (Map.look_put_self ..)
  · exact hpend ▸ List.mem_append_right _ (List.mem_map_of_mem hq)

end

/-- Settles O40. -/
theorem clockSteps : Obligations.ClockSteps := by
  unfold Obligations.ClockSteps
  refine ⟨fun stack k s hup hin => ?clocks, fun f stack bundle lane corrected bad s hup => ?faults⟩
  case clocks =>
    refine ⟨fun h1 h32 hthr hem htar => ?free, fun t h1 h32 hk hthr hem htar => ⟨fun hlt => ?returning, fun hge => ?returned⟩,
      ⟨⟨_, nextStep_eq s stack, fun t hem htar => by simp [nextSteps, hem, htar], fun h => ?none⟩, stepsOf_iff⟩, fun h => ?idle,
      fun hthr => acts_of (show execTemperatureAboveLimit stack s = _ from rfl) (by simp [hup, hin, hthr]) rfl,
      fun c hc hdue => ⟨_, throttleStep_acts hc hdue, ?throttle⟩,
      acts_of (show execThermalTrip stack s = _ from rfl) hup rfl,
      fun hem => acts_of (show execRegulatorFault s = _ from rfl) hup (if_neg (by simp [hem])),
      fun hem => acts_of (show execRegulatorFaultCleared s = _ from rfl) hem rfl⟩
    case free =>
      refine (powerArbiterStep_acts hup hin (clockAllowed_iff.2 ⟨h1, h32, .inl hthr, .inr ⟨hem, .inl htar⟩⟩)).trans
        (congrArg Host.Outcome.next (arbiterSets_free ?_))
      exact htar
    case returning =>
      refine (powerArbiterStep_acts hup hin (clockAllowed_iff.2 ⟨h1, h32, .inl hthr, .inr ⟨hem, .inr hk⟩⟩)).trans
        (congrArg Host.Outcome.next (arbiterSets_returning (t := t) ?_ hlt))
      exact htar
    case returned =>
      refine (powerArbiterStep_acts hup hin (clockAllowed_iff.2 ⟨h1, h32, .inl hthr, .inr ⟨hem, .inr hk⟩⟩)).trans
        (congrArg Host.Outcome.next (arbiterSets_returned (t := t) ?_ ?_ hge))
      · exact htar
      · exact hem
    case none => rcases h with h | h <;> simp [nextSteps, h]
    case idle =>
      refine powerArbiterStep_idles (Bool.eq_false_iff.2 fun hall => ?_)
      obtain ⟨h1, h32, hthr, hem⟩ := clockAllowed_iff.1 hall
      rcases h with h | h | ⟨h, hne⟩ | ⟨h, hlt⟩ | ⟨h, hlt⟩
      · omega
      · omega
      · rcases hem with ⟨_, hone⟩ | ⟨hoff, _⟩
        · exact hne hone
        · simp [hoff] at h
      · exact hthr.elim h fun hle => by omega
      · rcases hem with ⟨_, hone⟩ | ⟨_, hnone | hle⟩
        · omega
        · exact h hnone
        · omega
    case throttle =>
      by_cases hcool : Config.choose s.tick % 2 = 0
      · exact .inr (if_pos hcool)
      · exact .inl (if_neg hcool)
  case faults =>
    refine ⟨faultRetry_ok hup, faultRetry_lasting hup, fun m hin hm => surveyorPass_clean hup hin hm corrected, ⟨rfl, rfl, rfl, rfl, rfl⟩,
      fun hin => surveyorPass_acts hup hin corrected bad, voteRemap_none, fun hin hnot hfew => ?repairs, fun hin hfull => ?contains,
      fun m hr hin hm => repairRemap_acts hr hin hm⟩
    case repairs =>
      refine verticalBusRepair_repairs hup hin fun h => ?_
      rcases noLaneLeft_iff.1 h with ⟨r, hr, hsame⟩ | hfull
      · exact hnot r hr hsame
      · omega
    case contains => exact verticalBusRepair_contains hup hin (noLaneLeft_iff.2 (.inr hfull))

end Sys2Proof.FaultRepair
end

section
/-! PROOF. The mailbox commands (17_translation R387, R389, 18_host_peers R409, R410, R412, R420, 20_errors R438, R444). -/

namespace Sys2Proof.Mailbox
open Machine MemorySteps

section
variable {i : Instr} {e : Ev} {s : State} {slot : Nat}

/-! ## A command of the ring -/

/-- A command that keeps its rules has its effect, and its slot gets status 1 (18_host_peers R410). -/
theorem command_done {eff : State → Option State} {f : State → State} (hx : exec i s = runCommand s slot e eff)
    (hf : eff (withPending s (s.pending.erase e)) = some (f (withPending s (s.pending.erase e)))) (hd : commandDue s slot e = true) :
    Acts i e s fun s => closeSlot (f s) slot 1 :=
  acts_of hx hd (by rw [hf])

/-- A command that breaks a rule has no effect, and its slot gets status 2 (R410). -/
theorem command_refused {eff : State → Option State} (hx : exec i s = runCommand s slot e eff)
    (hf : eff (withPending s (s.pending.erase e)) = none) (hd : commandDue s slot e = true) : Acts i e s fun s => closeSlot s slot 2 :=
  acts_of hx hd (by rw [hf])

/-! ## CREATE and UPDATE -/

theorem create_done {r : CtxRec} (hn : slotCtx s slot < 64) (hnew : s.ctxs.look (slotCtx s slot) = none) (hr : goodCtx s slot = some r)
    (hd : commandDue s slot (.create slot) = true) :
    Acts (.create slot) (.create slot) s fun t => closeSlot (installCtx (clearTable t r.steFrame) (slotCtx s slot) (freshCtx r)) slot 1 := by
  have hr' : ∀ es, goodCtx (withPending s es) slot = some r := fun _ => hr
  have hguard : ¬ (64 ≤ slotCtx s slot ∨ (s.ctxs.look (slotCtx s slot)).isSome = true) := by simp [hn, hnew]
  refine command_done (show execCreate slot s = _ from rfl) ((if_neg hguard).trans ?_) hd
  rw [hr']
  rfl

theorem create_refused (h : 64 ≤ slotCtx s slot ∨ (s.ctxs.look (slotCtx s slot)).isSome = true ∨ goodCtx s slot = none)
    (hd : commandDue s slot (.create slot) = true) : Acts (.create slot) (.create slot) s fun s => closeSlot s slot 2 := by
  refine command_refused (show execCreate slot s = _ from rfl) ?_ hd
  by_cases hguard : 64 ≤ slotCtx s slot ∨ (s.ctxs.look (slotCtx s slot)).isSome = true
  · exact if_pos hguard
  · have hr' : ∀ es, goodCtx (withPending s es) slot = none := fun _ => (or_assoc.2 h).resolve_left hguard
    refine (if_neg hguard).trans ?_
    rw [hr']
    rfl

/-- A context that is installed holds its record, with the supervisor bits of its queues; no other context changes (17_translation R387). -/
theorem look_installCtx (s : State) (n j : Nat) (c : Ctx) :
    (installCtx s n c).ctxs.look j = if j = n then some { c with superQs := superQueues (s.setCtx n c) n } else s.ctxs.look j := by
  have hlook : (installCtx s n c).ctxs.look j = _ := Map.look_put (s.ctxs.put n c) n j { c with superQs := superQueues (s.setCtx n c) n }
  rw [hlook, Map.look_put]
  by_cases h : j = n <;> simp [h]

/-- The context of an UPDATE as its new record leaves it (17_translation R387). -/
def updatedCtx (s : State) (n : Nat) (c : Ctx) (r : CtxRec) : State :=
  let q := moveTable s n c r.steFrame
  installCtx q.1 n { c with cfg := r, stes := q.2, poolUsed := if r.poolBase = c.cfg.poolBase then c.poolUsed else 0 }

theorem ctxStopped_updatedCtx {n : Nat} {c : Ctx} (r : CtxRec) (hc : c.stopped = false) : ctxStopped (updatedCtx s n c r) n = false := by
  rw [ctxStopped, updatedCtx, look_installCtx, if_pos rfl]
  exact hc

section
variable {c : Ctx} {r : CtxRec} (hc : s.ctxs.look (slotCtx s slot) = some c) (hr : goodCtx s slot = some r)
include hc hr

/-- An UPDATE that keeps its rules: the new record, or the stop of the context for poison in the new surface table frame. -/
theorem update_done (hlive : c.stopped = false)
    (hres : residentCtx s (slotCtx s slot) = true → r.root = c.cfg.root ∧ r.steFrame = c.cfg.steFrame)
    (hd : commandDue s slot (.update slot) = true) :
    Acts (.update slot) (.update slot) s fun t => closeSlot (guardFrame (updatedCtx t (slotCtx s slot) c r) (slotCtx s slot)
      (homeStack r.steFrame) (tablePoison s c r.steFrame) (updatedCtx t (slotCtx s slot) c r)) slot 1 := by
  have hc' : ∀ es, s.ctxs.look (slotCtx (withPending s es) slot) = some c := fun _ => hc
  have hr' : ∀ es, goodCtx (withPending s es) slot = some r := fun _ => hr
  have hguard : ¬ (c.stopped || (residentCtx s (slotCtx s slot) && (r.root != c.cfg.root || r.steFrame != c.cfg.steFrame))) = true := by
    cases hin : residentCtx s (slotCtx s slot)
    · simp [hlive]
    · simp [hlive, hres hin]
  refine command_done (show execUpdate slot s = _ from rfl) ?_ hd
  simp only [hc', hr']
  exact if_neg hguard

theorem update_refused (hin : residentCtx s (slotCtx s slot) = true) (hroot : r.root ≠ c.cfg.root)
    (hd : commandDue s slot (.update slot) = true) : Acts (.update slot) (.update slot) s fun s => closeSlot s slot 2 := by
  have hc' : ∀ es, s.ctxs.look (slotCtx (withPending s es) slot) = some c := fun _ => hc
  have hr' : ∀ es, goodCtx (withPending s es) slot = some r := fun _ => hr
  refine command_refused (show execUpdate slot s = _ from rfl) ?_ hd
  simp only [hc', hr']
  refine if_pos (?_ : (c.stopped || (residentCtx s (slotCtx s slot) && (r.root != c.cfg.root || r.steFrame != c.cfg.steFrame))) = true)
  simp [hin, hroot]

end

theorem tablePoison_some {c : Ctx} {f line : Nat} (h : tablePoison s c f = some line) :
    c.cfg.steFrame ≠ f ∧ line ∈ s.mem.poison ∧ line ∈ linesOf f (2 ^ 18) := by
  unfold tablePoison at h
  split at h
  case isTrue => cases h
  case isFalse hne =>
    have hpoison := List.find?_some h
    exact ⟨hne, by simpa using hpoison, List.mem_of_find?_eq_some h⟩

theorem tablePoison_none {c : Ctx} {f : Nat} (h : tablePoison s c f = none) :
    c.cfg.steFrame = f ∨ ∀ line ∈ linesOf f (2 ^ 18), line ∉ s.mem.poison := by
  unfold tablePoison at h
  split at h
  case isTrue heq => exact .inl heq
  case isFalse => exact .inr fun line hl => by simpa using List.find?_eq_none.1 h line hl

theorem moveTable_same {n f : Nat} {c : Ctx} (h : c.cfg.steFrame = f) : moveTable s n c f = (s, c.stes) := if_pos h

theorem moveTable_other {n f : Nat} {c : Ctx} (h : c.cfg.steFrame ≠ f) : (moveTable s n c f).2 = tableEntries s.mem f := by
  rw [moveTable, if_neg h]

/-! ## KILL -/

section
variable {c : Ctx} (hc : s.ctxs.look (slotCtx s slot) = some c)
include hc

/-- A KILL of a stopped context whose waves stand still and whose key slots are free removes it (17_translation R389). -/
theorem kill_done (hstop : c.stopped = true) (hrest : ctxAtRest (withPending s (s.pending.erase (.kill slot))) (slotCtx s slot) = true)
    (hfree : ∀ j < 4, slotFree s (4 * slotCtx s slot + j) = true) (hd : commandDue s slot (.kill slot) = true) :
    Acts (.kill slot) (.kill slot) s fun t => closeSlot (killCtx t (slotCtx s slot)) slot 1 := by
  have hc' : ∀ es, s.ctxs.look (slotCtx (withPending s es) slot) = some c := fun _ => hc
  refine acts_of (show execKill slot s = _ from rfl) hd ?_
  simp only [hc']
  refine if_pos (?_ : (c.stopped && ctxAtRest (withPending s (s.pending.erase (.kill slot))) (slotCtx s slot) &&
    (List.range 4).all fun j => slotFree s (4 * slotCtx s slot + j)) = true)
  simp only [hstop, hrest, Bool.true_and, List.all_eq_true, List.mem_range]
  exact hfree

/-- The first KILL of a context stops it (17_translation R389). -/
theorem kill_stops (hrun : c.stopped = false) (hd : commandDue s slot (.kill slot) = true) :
    Acts (.kill slot) (.kill slot) s fun t => (t.setCtx (slotCtx s slot) { c with stopped := true }).post (.kill slot) := by
  have hc' : ∀ es, s.ctxs.look (slotCtx (withPending s es) slot) = some c := fun _ => hc
  refine acts_of (show execKill slot s = _ from rfl) hd ?_
  simp only [hc', hrun, Bool.false_and, Bool.false_eq_true, if_false]
  rfl

end

/-! ## The other commands -/

theorem attest_done {body : List Byte} (hbody : body = reportBody s (seenBytes s.mem none (slotVa s slot) 32)) (hal : slotVa s slot % 64 = 0)
    (hin : slotVa s slot + 64 + 17168 ≤ 2 ^ 38) (hzero : devRead s.mem (slotVa s slot + 32) 32 = 0)
    (hd : commandDue s slot (.attest slot) = true) :
    Acts (.attest slot) (.attest slot) s fun t =>
      closeSlot { t with mem := devWrite t.mem none (slotVa s slot + 64) (body ++ reportSig body) } slot 1 := by
  subst hbody
  refine command_done (show execAttest slot s = _ from rfl) (if_neg (?_ : ¬ (slotVa s slot % 64 != 0 ||
    decide (2 ^ 38 < slotVa s slot + 64 + 17168) || devRead s.mem (slotVa s slot + 32) 32 != 0) = true)) hd
  simp only [hal, hzero, Nat.not_lt.2 hin, bne_self_eq_false, decide_false, Bool.or_self, Bool.false_eq_true, not_false_eq_true]

theorem route_done (hal : slotVa s slot % 64 = 0) (hin : slotVa s slot + 272 ≤ 2 ^ 38) (hgood : badRoutes s (slotVa s slot) = false)
    (hd : commandDue s slot (.route slot) = true) :
    Acts (.route slot) (.route slot) s fun t => closeSlot { t with dev := { t.dev with
      routes := routesOf t (slotVa s slot), deviceId := devRead t.mem (slotVa s slot + 256) 1 } } slot 1 := by
  refine command_done (show execRoute slot s = _ from rfl) (if_neg (?_ : ¬ (slotVa s slot % 64 != 0 ||
    decide (2 ^ 38 < slotVa s slot + 272) || badRoutes s (slotVa s slot)) = true)) hd
  simp only [hal, hgood, Nat.not_lt.2 hin, bne_self_eq_false, decide_false, Bool.or_self, Bool.false_eq_true, not_false_eq_true]

theorem log_done {rs : List LogRec} (hrs : rs = s.dev.log.take (slotRead s slot 16 8)) (hin : slotVa s slot + 32 * rs.length ≤ 2 ^ 38)
    (hd : commandDue s slot (.log slot) = true) :
    Acts (.log slot) (.log slot) s fun t => closeSlot { t with
      mem := devWrite t.mem none (slotVa s slot) (rs.flatMap logBytes)
      dev := { t.dev with log := t.dev.log.drop rs.length } } slot 1 := by
  have htake : ∀ es, s.dev.log.take (slotRead (withPending s es) slot 16 8) = rs := fun _ => hrs.symm
  have hva : ∀ es, slotVa (withPending s es) slot = slotVa s slot := fun _ => rfl
  have hx : exec (.log slot) s = runCommand s slot (.log slot) _ := show execLog slot s = _ from rfl
  refine command_done hx ?_ hd
  simp only [htake, hva, if_neg (Nat.not_lt.2 hin)]

theorem stackreset_done {m : Map Nat} (hin : slotRead s slot 16 1 ∈ s.dev.contained) (hm : majority (remapOf s (slotRead s slot 16 1)) = some m)
    (hd : commandDue s slot (.stackreset slot) = true) :
    Acts (.stackreset slot) (.stackreset slot) s fun t => closeSlot (setRemap { t with dev := { t.dev with
      contained := t.dev.contained.erase (slotRead s slot 16 1), throttling := t.dev.throttling.del (slotRead s slot 16 1) } }
      (slotRead s slot 16 1) m) slot 1 := by
  have hm' : ∀ es, majority (remapOf (withPending s es) (slotRead (withPending s es) slot 16 1)) = some m := fun _ => hm
  have hguard : ¬ (!s.dev.contained.contains (slotRead s slot 16 1)) = true := by simpa using hin
  refine command_done (show execStackreset slot s = _ from rfl) ((if_neg hguard).trans ?_) hd
  rw [hm']
  rfl

theorem stackreset_refused (hm : majority (remapOf s (slotRead s slot 16 1)) = none) (hd : commandDue s slot (.stackreset slot) = true) :
    Acts (.stackreset slot) (.stackreset slot) s fun s => closeSlot s slot 2 := by
  have hm' : ∀ es, majority (remapOf (withPending s es) (slotRead (withPending s es) slot 16 1)) = none := fun _ => hm
  refine command_refused (show execStackreset slot s = _ from rfl) ?_ hd
  dsimp only
  rw [hm', Option.map_none, ite_self]

theorem mailboxDoorbell_acts {index : Nat} (hup : serving s = true) :
    Acts (.mailboxDoorbell index) (.mailboxDoorbell index) s fun s =>
      let n := (index + 1 + 64 - s.dev.mboxNext) % 64
      let left := if n = 0 then (if s.dev.mboxLeft = 0 then 64 * (Config.choose s.tick % 2) else 64) else n
      let s1 := { s with dev := { s.dev with mboxLeft := left } }
      if s.dev.mboxLeft = 0 then postCommand s1 else s1 :=
  acts_of (show execMailboxDoorbell index s = _ from rfl) hup rfl

theorem thermal_done (hlow : 60 ≤ slotRead s slot 16 1) (hhigh : slotRead s slot 16 1 ≤ 100) (hd : commandDue s slot (.thermal slot) = true) :
    Acts (.thermal slot) (.thermal slot) s fun t => closeSlot { t with dev := { t.dev with tempLimit := slotRead s slot 16 1 } } slot 1 :=
  command_done (show execThermal slot s = _ from rfl) (if_neg (not_or.2 ⟨Nat.not_lt.2 hlow, Nat.not_lt.2 hhigh⟩)) hd

theorem thermal_refused (h : slotRead s slot 16 1 < 60 ∨ 100 < slotRead s slot 16 1) (hd : commandDue s slot (.thermal slot) = true) :
    Acts (.thermal slot) (.thermal slot) s fun s => closeSlot s slot 2 :=
  command_refused (show execThermal slot s = _ from rfl) (if_pos h) hd

end

/-- Settles O38: each command by the lemma of its outcome. -/
theorem mailboxCommands : Obligations.MailboxCommands := by
  unfold Obligations.MailboxCommands
  intro slot index s a n x done refused
  refine ⟨fun r hn hnew hr => create_done hn hnew hr, fun m c => ⟨?installed, fun j hj => ?others, rfl⟩, create_refused,
    fun c r hc hr hlive hres => ?update,
    fun c f => ⟨fun line => tablePoison_some, tablePoison_none⟩, fun c f => ⟨moveTable_same, moveTable_other⟩,
    fun c r hc hr => update_refused hc hr, fun c hc hstop => kill_done hc hstop, fun c hc hrun => kill_stops hc hrun,
    fun body hbody hal hin hzero => attest_done hbody hal hin hzero, route_done, fun rs hrs hin => log_done hrs hin, fun m hin hm => stackreset_done hin hm,
    stackreset_refused, thermal_done, thermal_refused,
    fun hd => acts_of (show execUnknownOpcode slot s = _ from rfl) hd rfl, fun hup hnone hnew => ?first, fun hup hsome => ?later⟩
  case installed => rw [look_installCtx, if_pos rfl]
  case others => rw [look_installCtx, if_neg hj]
  case update =>
    intro moved
    refine ⟨fun hclean hd => ?clean, fun line hline hd => ?poisoned⟩
    case clean =>
      have hacts := update_done hc hr hlive hres hd
      rw [hclean] at hacts
      exact hacts
    case poisoned =>
      have hacts := update_done hc hr hlive hres hd
      simp only [hline, GraphicsSteps.guardFrame_stops (ctxStopped_updatedCtx r hlive)] at hacts
      exact hacts
  case first =>
    refine (mailboxDoorbell_acts hup).trans (congrArg Host.Outcome.next ?_)
    simp only [hnone, hnew, if_true, if_false]
  case later =>
    refine (mailboxDoorbell_acts hup).trans (congrArg Host.Outcome.next ?_)
    simp only [hsome, if_false]

end Sys2Proof.Mailbox
end

section
/-! PROOF. The end of fibres and waves (15_execution_model R329, R331, 12_ordered_sections R272, 19_traps R430). -/

namespace Sys2Proof.FibreEnds
open Machine

/-! ## A posting to an event queue changes memory and the device's own state alone (17_translation R390) -/

/-- Two states that differ at most in memory and in the device's own state. -/
def PostsOnly (s t : State) : Prop := t = { s with mem := t.mem, dev := t.dev }

theorem PostsOnly.refl (s : State) : PostsOnly s s := rfl

theorem PostsOnly.trans {s t u : State} (h1 : PostsOnly s t) (h2 : PostsOnly t u) : PostsOnly s u := by
  unfold PostsOnly at *
  rw [h2, h1]

theorem postsOnly_hwWrite {s t : State} {ctx va n x : Nat} (h : hwWrite s ctx va n x = some t) : PostsOnly s t := by
  unfold hwWrite at h
  obtain ⟨q, -, rfl⟩ := Option.map_eq_some_iff.1 h
  split <;> rfl

theorem postsOnly_hwWords {ctx va : Nat} {xs : List (Nat × Nat)} {s t : State} (h : hwWords s ctx va xs = some t) : PostsOnly s t := by
  induction xs generalizing s with
  | nil => cases h; rfl
  | cons x xs ih =>
    unfold hwWords at h
    split at h
    · rename_i u hu
      exact (postsOnly_hwWrite hu).trans (ih h)
    · cases h

theorem postsOnly_hwWrite_getD (s : State) (ctx va n x : Nat) : PostsOnly s ((hwWrite s ctx va n x).getD s) := by
  cases h : hwWrite s ctx va n x with
  | none => exact .refl s
  | some t => exact postsOnly_hwWrite h

theorem postsOnly_countNow (s : State) (ctx off : Nat) : PostsOnly s (countNow s ctx off) := by
  unfold countNow
  split
  · split
    · exact postsOnly_hwWrite_getD ..
    · exact .refl s
  · exact .refl s

theorem postsOnly_sendMsix (s : State) (v : Nat) : PostsOnly s (sendMsix s v) := by
  unfold sendMsix
  split <;> rfl

theorem postsOnly_eventNow (s : State) (ctx stack kind : Nat) (payload : List (Nat × Nat)) : PostsOnly s (eventNow s ctx stack kind payload) := by
  have hrefl : PostsOnly s s := .refl s
  unfold eventNow
  split
  · exact hrefl
  · split
    · dsimp only
      split
      · exact postsOnly_countNow ..
      · split
        · rename_i s1 hwords
          split
          · rename_i s2 hwrite
            have htail : PostsOnly s s2 := (postsOnly_hwWords hwords).trans (postsOnly_hwWrite hwrite)
            split
            · exact htail.trans (postsOnly_sendMsix s2 ctx)
            · exact htail
          · exact hrefl
        · exact hrefl
    · exact hrefl

theorem postsOnly_postTo (s : State) (p : Posting) : PostsOnly s (postTo s p) := by
  unfold postTo
  split
  · cases p with
    | event ctx stack kind payload => exact postsOnly_eventNow ..
    | count ctx off => exact postsOnly_countNow ..
  · rfl

theorem postsOnly_postEvent (s : State) (ctx stack kind : Nat) (payload : List (Nat × Nat)) :
    PostsOnly s (postEvent s ctx stack kind payload) := postsOnly_postTo s _

section
variable {s t : State} (h : PostsOnly s t)
include h

theorem PostsOnly.work : t.work = s.work := (congrArg State.work h).trans rfl

theorem PostsOnly.base : t.base = s.base := (congrArg State.base h).trans rfl

theorem PostsOnly.pending : t.pending = s.pending := (congrArg State.pending h).trans rfl

theorem PostsOnly.ctxs : t.ctxs = s.ctxs := (congrArg State.ctxs h).trans rfl

end

/-! ## Requests withdrawn (12_ordered_sections R265, R272) -/

theorem wpPut_frame (s : State) (e : WpEntry) : wpPut s e = { s with base := { s.base with wps := (wpPut s e).base.wps } } := by
  unfold wpPut
  split <;> rfl

theorem dropSubs_frame (s : State) (core ctx : Nat) (key : Word) :
    dropSubs s core ctx key = { s with base := { s.base with wps := (dropSubs s core ctx key).base.wps } } := by
  unfold dropSubs
  split
  · rfl
  · split
    · exact wpPut_frame ..
    · rfl

/-- Waits that are dropped change the waits and the entries of waypoints, and nothing else. -/
theorem dropWaits_frame (s : State) (p : WpWait → Bool) :
    dropWaits s p = { s with base := { s.base with waits := s.base.waits.filter fun q => !p q, wps := (dropWaits s p).base.wps } } := by
  refine foldl_keeps
    (P := fun t : State => t = { s with base := { s.base with waits := s.base.waits.filter fun q => !p q, wps := t.base.wps } })
    (fun t q ht => ?_) (s.base.waits.filter p) _ rfl
  rw [dropSubs_frame t, ht]

theorem mem_waits_dropWaits (s : State) (p : WpWait → Bool) (q : WpWait) :
    q ∈ (dropWaits s p).base.waits ↔ q ∈ s.base.waits ∧ p q = false := by
  rw [dropWaits_frame]
  simp only [List.mem_filter, Bool.not_eq_true']

theorem dropWaits_work (s : State) (p : WpWait → Bool) : (dropWaits s p).work = s.work := (congrArg State.work (dropWaits_frame s p)).trans rfl

theorem dropWaits_pending (s : State) (p : WpWait → Bool) : (dropWaits s p).pending = s.pending :=
  (congrArg State.pending (dropWaits_frame s p)).trans rfl

/-! ## One fibre that ends (15_execution_model R329, R331) -/

/-- The request that leaves a section for a fibre (12_ordered_sections R272). -/
def leaveRequest (ctx : Nat) (after : Option (Nat × Nat)) (f : Fibre) (x : Sect) : WpReq :=
  { kind := .oleave, ctx := ctx, key := x.key, seq := x.seq, uid := f.uid, after := after }

/-- What the end of a fibre's sections leaves: no work changes, its waits are gone, its requests are withdrawn, and a leave is in flight for
each section that it holds. -/
structure Abandons (s t : State) (ctx : Nat) (after : Option (Nat × Nat)) (f : Fibre) : Prop where
  work : t.work = s.work
  waits : ∀ q ∈ t.base.waits, q ∈ s.base.waits ∧ q.req.uid ≠ f.uid
  kept : ∀ e ∈ s.pending, asksFor f.uid e = false → e ∈ t.pending
  left : ∀ x ∈ f.slots, x.st = .held → Ev.waypointRequest (leaveRequest ctx after f x) ∈ t.pending

theorem Abandons.of_posts {s t u : State} {ctx : Nat} {after : Option (Nat × Nat)} {f : Fibre} (h : Abandons s t ctx after f)
    (hp : PostsOnly t u) : Abandons s u ctx after f where
  work := hp.work.trans h.work
  waits := fun q hq => h.waits q (hp.base ▸ hq)
  kept := fun e he hask => hp.pending ▸ h.kept e he hask
  left := fun x hx hst => hp.pending ▸ h.left x hx hst

theorem abandons_abandon (s : State) (ctx stack : Nat) (after : Option (Nat × Nat)) (f : Fibre) :
    Abandons s (abandon s ctx stack after f) ctx after f := by
  have hsent : Abandons s ((dropWaits { s with pending := s.pending.filter fun e => !asksFor f.uid e } fun q => q.req.uid == f.uid).posts
      ((f.slots.filter (holdsAt s ctx f.uid)).map fun x => .waypointRequest (leaveRequest ctx after f x))) ctx after f := by
    refine ⟨dropWaits_work .., fun q hq => ?waits, fun e he hask => ?kept, fun x hx hst => ?left⟩
    case waits =>
      obtain ⟨hold, hne⟩ := (mem_waits_dropWaits _ _ q).1 hq
      exact ⟨hold, by simpa using hne⟩
    case kept =>
      refine List.mem_append_left _ ?_
      rw [dropWaits_pending]
      exact List.mem_filter.2 ⟨he, by simp [hask]⟩
    case left =>
      refine List.mem_append_right _ (List.mem_map.2 ⟨x, List.mem_filter.2 ⟨hx, ?_⟩, rfl⟩)
      simp [holdsAt, hst]
  unfold abandon
  dsimp only
  split
  · exact hsent
  · exact hsent.of_posts (postsOnly_postEvent ..)

/-- A pixel that is discarded changes the exported pixels and what is in flight (13_raster R297). -/
theorem discardPixel_frame (s : State) (k : Nat) (f : Fibre) :
    (discardPixel s k f).work = s.work ∧ (discardPixel s k f).base.waits = s.base.waits ∧ ∀ e ∈ s.pending, e ∈ (discardPixel s k f).pending := by
  unfold discardPixel
  split
  · exact ⟨rfl, rfl, fun e he => List.mem_append_left _ he⟩
  · exact ⟨rfl, rfl, fun e he => he⟩

/-- The wave without the fibre of a lane slot; the results of its operations for that lane slot go nowhere (R331). -/
def withoutFibre (w : Wave) (l : Nat) : Wave :=
  { w with
    fibres := w.fibres.del l
    ops := w.ops.map fun o => if o.kind = .tile then o else { o with dests := o.dests.filter fun d => d.1 != l } }

theorem endFibre_none {s : State} {k l : Nat} {w : Wave} (hw : s.wave k = some w) (hf : w.fibres.look l = none) : endFibre s k l = s := by
  simp only [endFibre, hw, hf]

theorem endFibre_some {s : State} {k l : Nat} {w : Wave} {f : Fibre} (hw : s.wave k = some w) (hf : w.fibres.look l = some f) :
    endFibre s k l = discardPixel (abandon (s.setWave k (withoutFibre w l)) (ctxOf s w) (stackOf (coreOf s w)) (some (k, w.nextOp)) f) k f := by
  simp only [endFibre, hw, hf]
  rfl

theorem abandons_endFibre {s : State} {k l : Nat} {w : Wave} {f : Fibre} (hw : s.wave k = some w) (hf : w.fibres.look l = some f) :
    Abandons (s.setWave k (withoutFibre w l)) (endFibre s k l) (ctxOf s w) (some (k, w.nextOp)) f := by
  have hab := abandons_abandon (s.setWave k (withoutFibre w l)) (ctxOf s w) (stackOf (coreOf s w)) (some (k, w.nextOp)) f
  rw [endFibre_some hw hf]
  obtain ⟨hwork, hwaits, hpend⟩ := discardPixel_frame
    (abandon (s.setWave k (withoutFibre w l)) (ctxOf s w) (stackOf (coreOf s w)) (some (k, w.nextOp)) f) k f
  exact ⟨hwork.trans hab.work, fun q hq => hab.waits q (hwaits ▸ hq), fun e he hask => hpend e (hab.kept e he hask),
    fun x hx hst => hpend _ (hab.left x hx hst)⟩

/-! ## Fibres that end one after the other -/

/-- The fibres of some lane slots of a wave have ended: the slots are empty, the sections that the fibres held are left, and none of them waits
for a section any more. -/
structure FibresEnded (s t : State) (k : Nat) (w : Wave) (ls : List Nat) : Prop where
  blocks : t.work.blocks = s.work.blocks
  others : ∀ j, j ≠ k → t.wave j = s.wave j
  wave : ∃ v, t.wave k = some v ∧ v.blk = w.blk ∧ ∀ l, v.fibres.look l = if l ∈ ls then none else w.fibres.look l
  waits : ∀ q ∈ t.base.waits, q ∈ s.base.waits ∧ ∀ l ∈ ls, ∀ f, w.fibres.look l = some f → q.req.uid ≠ f.uid
  leaves : ∀ q : WpReq, q.kind = .oleave → Ev.waypointRequest q ∈ s.pending → Ev.waypointRequest q ∈ t.pending
  left : ∀ l ∈ ls, ∀ f, w.fibres.look l = some f → ∀ x ∈ f.slots, x.st = .held →
    ∃ q : WpReq, Ev.waypointRequest q ∈ t.pending ∧ q.kind = .oleave ∧ q.ctx = ctxOf s w ∧ q.key = x.key ∧ q.seq = x.seq ∧ q.uid = f.uid

theorem FibresEnded.refl {s : State} {k : Nat} {w : Wave} (hw : s.wave k = some w) : FibresEnded s s k w [] where
  blocks := rfl
  others := fun _ _ => rfl
  wave := ⟨w, hw, rfl, fun l => by simp⟩
  waits := fun q hq => ⟨hq, by simp⟩
  leaves := fun _ _ hq => hq
  left := by simp

/-- A leave is no request that its fibre's end withdraws. -/
theorem asksFor_oleave {uid : Nat} {q : WpReq} (h : q.kind = .oleave) : asksFor uid (.waypointRequest q) = false := by
  simp [asksFor, h]

theorem fibresEnded_endFibre {s : State} {k : Nat} {w : Wave} (hw : s.wave k = some w) (l : Nat) : FibresEnded s (endFibre s k l) k w [l] := by
  cases hf : w.fibres.look l with
  | none =>
    rw [endFibre_none hw hf]
    refine ⟨rfl, fun _ _ => rfl, ⟨w, hw, rfl, fun j => ?_⟩, fun q hq => ⟨hq, fun j hj f hf' => ?_⟩, fun _ _ hq => hq, fun j hj f hf' => ?_⟩
    · by_cases hj : j = l
      · rw [hj, hf, if_pos (List.mem_singleton_self l)]
      · rw [if_neg (by simpa using hj)]
    all_goals
      rw [List.mem_singleton.1 hj, hf] at hf'
      cases hf'
  | some f =>
    obtain ⟨hwork, hwaits, hkept, hleft⟩ := abandons_endFibre hw hf
    have hwave : ∀ j, (endFibre s k l).wave j = if j = k then some (withoutFibre w l) else s.wave j := fun j => by
      rw [State.wave, hwork]
      exact State.wave_setWave ..
    refine ⟨(congrArg Work.blocks hwork).trans rfl, fun j hj => (hwave j).trans (if_neg hj),
      ⟨withoutFibre w l, (hwave k).trans (if_pos rfl), rfl, fun j => ?_⟩, fun q hq => ?_, fun q hkind hq => hkept _ hq (asksFor_oleave hkind),
      fun j hj f' hf' x hx hst => ?_⟩
    · simpa [withoutFibre] using Map.look_del w.fibres l j
    · obtain ⟨hold, hne⟩ := hwaits q hq
      refine ⟨hold, fun j hj f' hf' => ?_⟩
      rw [List.mem_singleton.1 hj, hf] at hf'
      exact Option.some.inj hf' ▸ hne
    · rw [List.mem_singleton.1 hj, hf] at hf'
      cases hf'
      exact ⟨_, hleft x hx hst, rfl, rfl, rfl, rfl, rfl⟩

theorem FibresEnded.trans {s t u : State} {k : Nat} {w v : Wave} {ls ms : List Nat} (h1 : FibresEnded s t k w ls) (hv : t.wave k = some v)
    (h2 : FibresEnded t u k v ms) : FibresEnded s u k w (ls ++ ms) := by
  obtain ⟨v', hv', hblk, hlook⟩ := h1.wave
  obtain rfl : v' = v := Option.some.inj (hv'.symm.trans hv)
  have hctx : ctxOf t v' = ctxOf s w := by rw [ctxOf, ctxOf, State.block, State.block, h1.blocks, hblk]
  have hstill : ∀ l ∈ ls ++ ms, ∀ f, w.fibres.look l = some f → l ∈ ls ∨ l ∈ ms ∧ v'.fibres.look l = some f := fun l hl f hf => by
    by_cases hin : l ∈ ls
    · exact .inl hin
    · exact .inr ⟨(List.mem_append.1 hl).resolve_left hin, by rw [hlook, if_neg hin, hf]⟩
  refine ⟨h2.blocks.trans h1.blocks, fun j hj => (h2.others j hj).trans (h1.others j hj), ?wave, fun q hq => ?waits,
    fun q hkind hq => h2.leaves q hkind (h1.leaves q hkind hq), fun l hl f hf x hx hst => ?left⟩
  case wave =>
    obtain ⟨v2, hv2, hblk2, hlook2⟩ := h2.wave
    refine ⟨v2, hv2, hblk2.trans hblk, fun l => ?_⟩
    rw [hlook2, hlook]
    by_cases hm : l ∈ ms <;> simp [hm]
  case waits =>
    obtain ⟨hold2, hne2⟩ := h2.waits q hq
    obtain ⟨hold1, hne1⟩ := h1.waits q hold2
    exact ⟨hold1, fun l hl f hf => (hstill l hl f hf).elim (fun hin => hne1 l hin f hf) fun ⟨hin, hf'⟩ => hne2 l hin f hf'⟩
  case left =>
    rcases hstill l hl f hf with hin | ⟨hin, hf'⟩
    · obtain ⟨q, hq, hkind, hfields⟩ := h1.left l hin f hf x hx hst
      exact ⟨q, h2.leaves q hkind hq, hkind, hfields⟩
    · obtain ⟨q, hq, hkind, hqctx, hfields⟩ := h2.left l hin f hf' x hx hst
      exact ⟨q, hq, hkind, hqctx.trans hctx, hfields⟩

theorem fibresEnded_foldl {s : State} {k : Nat} {w : Wave} (hw : s.wave k = some w) (ls : List Nat) :
    FibresEnded s (ls.foldl (fun s l => endFibre s k l) s) k w ls := by
  induction ls generalizing s w with
  | nil => exact .refl hw
  | cons l ls ih =>
    have hone := fibresEnded_endFibre hw l
    obtain ⟨v, hv, -⟩ := hone.wave
    exact hone.trans hv (ih hv)

/-! ## A wave that ends -/

section
variable (s : State) (k : Nat)

theorem reapWave_other {j : Nat} (hj : j ≠ k) : (reapWave s k).wave j = s.wave j := by
  unfold reapWave
  split
  · split
    · exact (Map.look_del ..).trans (if_neg hj)
    · rfl
  · rfl

theorem reapWave_base : (reapWave s k).base = s.base := by
  unfold reapWave
  split
  · split <;> rfl
  · rfl

theorem mem_pending_of_reapWave {e : Ev} (h : e ∈ (reapWave s k).pending) : e ∈ s.pending := by
  unfold reapWave at h
  split at h
  · split at h
    · exact (List.mem_filter.1 h).1
    · exact h
  · exact h

end

/-- A step put in flight where a test holds. -/
theorem mem_pending_ite_post {s : State} {c : Prop} [Decidable c] {a e : Ev} (h : e ∈ s.pending) : e ∈ (if c then s.post a else s).pending := by
  split
  · exact List.mem_append_left _ h
  · exact h

/-- The fibres of a table are none when no key of it reads as one. -/
theorem fibres_eq_nil {m : Map Fibre} (h : ∀ l, m.look l = none) : m = [] := by
  cases m with
  | nil => rfl
  | cons p m =>
    obtain ⟨l, f⟩ := p
    have hl : Map.look ((l, f) :: m) l = some f := if_pos rfl
    rw [h l] at hl
    cases hl

theorem look_eq_none_of_not_mem {m : Map Fibre} {l : Nat} (h : l ∉ m.map Prod.fst) : m.look l = none := by
  cases hl : m.look l with
  | none => rfl
  | some f => exact absurd (List.mem_map.2 ⟨_, Map.mem_of_look m l f hl, rfl⟩) h

/-- What is left of a wave that ends, before it gives up its slot (R329). -/
theorem endWave_eq {s : State} {k : Nat} {w v : Wave} (hw : s.wave k = some w)
    (hv : ((w.fibres.map Prod.fst).foldl (fun s l => endFibre s k l) s).wave k = some v) :
    endWave s k =
      let s2 := ((w.fibres.map Prod.fst).foldl (fun s l => endFibre s k l) s).setWave k { v with due := [], repAt := none }
      reapWave (if blockIdle s2 w.blk then s2.post (.blockRetire w.blk) else s2) k := by
  rw [List.foldl_map] at hv ⊢
  simp only [endWave, hw, hv]

/-- Every fibre of a wave that ends has ended, and no other wave changes. -/
theorem endWave_ends {s : State} {k : Nat} {w : Wave} (hw : s.wave k = some w) :
    (∀ v, (endWave s k).wave k = some v → v.fibres = []) ∧ (∀ j, j ≠ k → (endWave s k).wave j = s.wave j) ∧
      (∀ p ∈ w.fibres, w.fibres.look p.1 = some p.2 → ∀ q ∈ (endWave s k).base.waits, q.req.uid ≠ p.2.uid) ∧
      ∀ p ∈ w.fibres, w.fibres.look p.1 = some p.2 → ∀ x ∈ p.2.slots, x.st = .held →
        ∃ q : WpReq, Ev.waypointRequest q ∈ (endWave s k).pending ∧
          q.kind = .oleave ∧ q.ctx = ctxOf s w ∧ q.key = x.key ∧ q.seq = x.seq ∧ q.uid = p.2.uid := by
  have hended := fibresEnded_foldl hw (w.fibres.map Prod.fst)
  obtain ⟨v, hv, -, hlook⟩ := hended.wave
  rw [endWave_eq hw hv]
  generalize (w.fibres.map Prod.fst).foldl (fun s l => endFibre s k l) s = s1 at hended
  have hempty : v.fibres = [] := fibres_eq_nil fun l => by
    rw [hlook]
    split
    · rfl
    · next hout => exact look_eq_none_of_not_mem hout
  dsimp only
  generalize hs3 : (if blockIdle (s1.setWave k { v with due := [], repAt := none }) w.blk = true then
    (s1.setWave k { v with due := [], repAt := none }).post (.blockRetire w.blk) else s1.setWave k { v with due := [], repAt := none }) = s3
  have hwork : s3.work = (s1.setWave k { v with due := [], repAt := none }).work := by rw [← hs3]; split <;> rfl
  have hbase : s3.base = s1.base := by rw [← hs3]; split <;> rfl
  have hwave : ∀ j, s3.wave j = if j = k then some { v with due := [], repAt := none } else s1.wave j := fun j => by
    rw [State.wave, hwork]
    exact State.wave_setWave ..
  have hlane : ∀ p ∈ w.fibres, p.1 ∈ w.fibres.map Prod.fst := fun p hp => List.mem_map_of_mem hp
  obtain ⟨-, -, hreap, hkept⟩ := reapWave_frame s3 k
  refine ⟨fun u hu => ?gone, fun j hj => ?others, fun p hp hf q hq => ?waits, fun p hp hf x hx hst => ?left⟩
  case gone =>
    have hu3 := hreap u hu
    rw [hwave, if_pos rfl] at hu3
    exact Option.some.inj hu3 ▸ hempty
  case others => rw [reapWave_other s3 k hj, hwave, if_neg hj, hended.others j hj]
  case waits =>
    rw [reapWave_base, hbase] at hq
    exact (hended.waits q hq).2 p.1 (hlane p hp) p.2 hf
  case left =>
    obtain ⟨q, hq, hfields⟩ := hended.left p.1 (hlane p hp) p.2 hf x hx hst
    exact ⟨q, hkept _ (hs3 ▸ mem_pending_ite_post hq) rfl, hfields⟩

/-! ## A wave that ends as saved (19_traps R430, R434) -/

/-- The wave that has ended as saved, before it gives up its slot. -/
def savedWave (w : Wave) : Wave := { w with fibres := [], due := [], repAt := none }

/-- Its block with the wave among its saved ones. -/
def savedBlock (w : Wave) (b : Block) : Block :=
  { b with
    savedWaves := b.savedWaves ++ [w.num]
    savedUids := w.fibres.foldl (fun m p => m.put (64 * w.num + p.1) (p.2.uid, p.2.frag)) b.savedUids
    holdsSections := b.holdsSections || w.fibres.any fun p => p.2.slots.any fun x => x.st == .held }

/-- What a wave that ends as saved leaves before its block may be saved. -/
def endingSaved (s : State) (k : Nat) (w : Wave) : State :=
  match (s.setWave k (savedWave w)).block w.blk with
  | some b => (s.setWave k (savedWave w)).setBlock w.blk (savedBlock w b)
  | none => s.setWave k (savedWave w)

theorem endSaved_eq {s : State} {k : Nat} {w : Wave} (hw : s.wave k = some w) :
    endSaved s k = reapWave (dropWaits (if blockIdle (endingSaved s k w) w.blk then (endingSaved s k w).post (.saveComplete w.blk)
      else endingSaved s k w) fun q => w.fibres.any fun p => p.2.uid == q.req.uid) k := by
  simp only [endSaved, hw]
  rfl

theorem endingSaved_frame (s : State) (k : Nat) (w : Wave) : (endingSaved s k w).pending = s.pending ∧
    (∀ j, (endingSaved s k w).wave j = if j = k then some (savedWave w) else s.wave j) ∧
    ∀ b, s.block w.blk = some b → (endingSaved s k w).block w.blk = some (savedBlock w b) := by
  have hwave : ∀ j, (s.setWave k (savedWave w)).wave j = if j = k then some (savedWave w) else s.wave j := fun j => State.wave_setWave ..
  unfold endingSaved
  split
  · next b hb =>
    refine ⟨rfl, hwave, fun c hc => ?_⟩
    obtain rfl : b = c := Option.some.inj (hb.symm.trans hc)
    exact Map.look_put_self ..
  · next hb => exact ⟨rfl, hwave, fun c hc => absurd (hb.symm.trans hc) (by simp)⟩

theorem endSaved_ends {s : State} {k : Nat} {w : Wave} (hw : s.wave k = some w) :
    (∀ v, (endSaved s k).wave k = some v → v.fibres = []) ∧ (∀ j, j ≠ k → (endSaved s k).wave j = s.wave j) ∧
      (∀ b, s.block w.blk = some b → ∃ c, (endSaved s k).block w.blk = some c ∧ c.savedWaves = b.savedWaves ++ [w.num]) ∧
      (∀ q ∈ (endSaved s k).base.waits, ∀ p ∈ w.fibres, q.req.uid ≠ p.2.uid) ∧
      ∀ e ∈ (endSaved s k).pending, e ∈ s.pending ∨ e = .saveComplete w.blk := by
  obtain ⟨hpend, hwave, hblock⟩ := endingSaved_frame s k w
  rw [endSaved_eq hw]
  generalize hs3 : (if blockIdle (endingSaved s k w) w.blk = true then (endingSaved s k w).post (.saveComplete w.blk)
    else endingSaved s k w) = s3
  have hwork : s3.work = (endingSaved s k w).work := by rw [← hs3]; split <;> rfl
  have hpend3 : ∀ e ∈ s3.pending, e ∈ s.pending ∨ e = .saveComplete w.blk := fun e he => by
    rw [← hs3] at he
    split at he
    · rcases List.mem_append.1 he with he | he
      · exact .inl (hpend ▸ he)
      · exact .inr (List.mem_singleton.1 he)
    · exact .inl (hpend ▸ he)
  generalize hs4 : (dropWaits s3 fun q => w.fibres.any fun p => p.2.uid == q.req.uid) = s4
  have hwork4 : s4.work = (endingSaved s k w).work := by rw [← hs4, dropWaits_work, hwork]
  have hwave4 : ∀ j, s4.wave j = if j = k then some (savedWave w) else s.wave j := fun j => by
    rw [State.wave, hwork4]
    exact hwave j
  obtain ⟨-, hblocks, hreap, -⟩ := reapWave_frame s4 k
  refine ⟨fun u hu => ?gone, fun j hj => ?others, fun b hb => ?block, fun q hq p hp => ?waits, fun e he => ?pending⟩
  case gone =>
    have hu4 := hreap u hu
    rw [hwave4, if_pos rfl] at hu4
    exact Option.some.inj hu4 ▸ rfl
  case others => rw [reapWave_other s4 k hj, hwave4, if_neg hj]
  case block =>
    refine ⟨savedBlock w b, ?_, rfl⟩
    rw [State.block, hblocks, hwork4]
    exact hblock b hb
  case waits =>
    rw [reapWave_base, ← hs4, mem_waits_dropWaits] at hq
    intro heq
    have hany : (w.fibres.any fun p => p.2.uid == q.req.uid) = true := List.any_eq_true.2 ⟨p, hp, by simp [heq]⟩
    rw [hany] at hq
    exact absurd hq.2 (by simp)
  case pending =>
    have he4 := mem_pending_of_reapWave s4 k he
    rw [← hs4, dropWaits_pending] at he4
    exact hpend3 e he4

/-! ## The words -/

theorem exit_completes {s : State} {k : Nat} {r w : Wave} (hi : Issues s k r w) : Completes .exit s k r
    (if w.inHandler && w.handlerCause == 0x30 && w.savedBit then endSaved (s.moved k w) k else endWave (s.moved k w) k) :=
  (runWord_eq hi _).trans (by rw [apply_ite Res.ok])

/-- Settles O19: fibres end one after the other by `FibresEnded`, and a wave that ends keeps none. -/
theorem fibresEnd : Obligations.FibresEnd := by
  unfold Obligations.FibresEnd
  refine ⟨fun s k r w hi => ⟨runWord_eq hi _, fun hsaved => ?saved, fun hplain => ?plain⟩, fun s k l w hw => ?fibre, fun s k w hw => ?wave⟩
  case saved =>
    obtain ⟨hin, hcause, hbit⟩ := hsaved
    simpa only [hin, hcause, hbit, beq_self_eq_true, Bool.and_self, if_true] using exit_completes hi
  case plain =>
    have hnot : ¬ (w.inHandler && w.handlerCause == 0x30 && w.savedBit) = true := by
      simpa only [Bool.and_eq_true, beq_iff_eq, and_assoc] using hplain
    simpa only [if_neg hnot] using exit_completes hi
  case fibre =>
    have hended := fibresEnded_endFibre hw l
    obtain ⟨v, hv, -, hlook⟩ := hended.wave
    have hmem : l ∈ [l] := List.mem_singleton_self l
    refine ⟨v, hv, (hlook l).trans (if_pos hmem), fun j hj => (hlook j).trans (if_neg (by simpa using hj)), endFibre_none hw, hended.others,
      fun f hf => ⟨fun q hq => (hended.waits q hq).2 l hmem f hf, hended.left l hmem f hf⟩⟩
  case wave =>
    obtain ⟨hnone, hothers, hwaits, hleft⟩ := endWave_ends hw
    exact ⟨hnone, hothers, hwaits, hleft, endSaved_ends hw⟩

end Sys2Proof.FibreEnds
end

section
/-! PROOF. The host's accesses, the boot path, the frame strobe, peer commands, flits and links (18_host_peers R407 to R421, 16_scheduling R381, R382). -/

namespace Sys2Proof.HostEvents
open Machine MemorySteps

/-! ## BAR 0 and CXL.mem (18_host_peers R407 to R409) -/

section
variable {s : State} {off n v part pa : Nat} {x : DWord} {y : Word}

theorem registerWrite_acts (hup : serving s = true) (hlow : 0x040 ≤ off) (hhigh : off + n ≤ 0x048) :
    Acts (.registerWrite off n x) (.registerWrite off n x) s fun s => { s with dev := { s.dev with
      mboxBase := BitVec.ofNat 64 (patchBytes s.dev.mboxBase.toNat (off - 0x040) n x.toNat) } } :=
  acts_of (show execRegisterWrite off n x s = _ from rfl) (by simp [hup, hlow, hhigh]) rfl

/-- A write that reaches no byte of the mailbox base, or comes while the device does not serve, is ignored. -/
theorem registerWrite_idles (h : serving s = false ∨ off + n ≤ 0x040 ∧ 0 < n ∨ 0x048 ≤ off ∧ 0 < n) : Idles (.registerWrite off n x) s := by
  refine idles_of (show execRegisterWrite off n x s = _ from rfl) ?_
  rw [Bool.and_eq_false_iff, Bool.and_eq_false_iff, decide_eq_false_iff_not, decide_eq_false_iff_not]
  rcases h with h | h | h
  · exact .inl (.inl h)
  · exact .inl (.inr (by omega))
  · exact .inr (by omega)

/-- A dword of an MSI-X entry beside its mask is written, and nothing is sent (R408). -/
theorem msiXTableEntry_part (hup : serving s = true) (hv : v < 64) (hpart : part < 3) :
    Acts (.msiXTableEntry v part y) (.msiXTableEntry v part y) s fun s =>
      { s with dev := { s.dev with msix := s.dev.msix.put (4 * v + part) y } } := by
  have hfour : part < 4 := by omega
  have hmask : part ≠ 3 := by omega
  exact acts_of (show execMsiXTableEntry v part y s = _ from rfl) (by simp [hup, hv, hfour]) (if_pos (by simpa using hmask))

/-- The message of a vector does not depend on its mask. -/
theorem msixMsg_mask (s : State) (v : Nat) (y : Word) :
    msixMsg { s with dev := { s.dev with msix := s.dev.msix.put (4 * v + 3) y } } v = msixMsg s v := by
  have hget : ∀ j, j < 3 → (s.dev.msix.put (4 * v + 3) y).get (4 * v + j) 0 = s.dev.msix.get (4 * v + j) 0 := fun j hj => by
    rw [Map.get, Map.look_put, if_neg (by omega), Map.get]
  have h0 := hget 0 (by decide)
  have h1 := hget 1 (by decide)
  have h2 := hget 2 (by decide)
  simp only [msixMsg, h0, h1, h2]

/-- A vector that is unmasked sends the message that waits for it (R408). -/
theorem msiXTableEntry_unmask (hup : serving s = true) (hv : v < 64) (hclear : y.getLsbD 0 = false)
    (hwaits : s.dev.msixPending.getLsbD v = true) :
    Acts (.msiXTableEntry v 3 y) (.msiXTableEntry v 3 y) s fun s => { s with dev := { s.dev with
      msix := s.dev.msix.put (4 * v + 3) y
      msixMasked := s.dev.msixMasked &&& ~~~((1 : BitVec 64) <<< v)
      msixPending := s.dev.msixPending &&& ~~~((1 : BitVec 64) <<< v)
      msixSent := s.dev.msixSent ++ [msixMsg s v] } } := by
  refine acts_of (show execMsiXTableEntry v 3 y s = _ from rfl) (by simp [hup, hv]) ?_
  refine (if_neg (by simp)).trans ((if_neg (ne_true_of_eq_false hclear)).trans ((if_pos hwaits).trans ?_))
  rw [msixMsg_mask]

/-- A host access performed at its home slices, or its error (R407, R421). -/
def hostAccess (write : Bool) (pa n : Nat) (x : DWord) (s : State) : State :=
  if !(serving s && decide (pa + n ≤ 2 ^ 38)) then { s with dev := { s.dev with cxlReads := s.dev.cxlReads ++ [none] } }
  else if write then agentWrite s none pa (leBytes x.toNat n)
  else
    let r := agentRead s none pa n
    { r.1 with dev := { r.1.dev with cxlReads := r.1.dev.cxlReads ++ [some (BitVec.ofNat 64 r.2)] } }

theorem cxlMemAccess_eq (write : Bool) : exec (.cxlMemAccess write pa n x) s = runEvent s (.cxlMemAccess write pa n x)
    (!(serving s && decide (pa + n ≤ 2 ^ 38)) || hostFree s pa n) (hostAccess write pa n x) := rfl

/-- A host access within local memory is performed once its lines are free. -/
theorem cxlMemAccess_acts (write : Bool) (hup : serving s = true) (hpa : pa + n ≤ 2 ^ 38) (hfree : hostFree s pa n = true) :
    Acts (.cxlMemAccess write pa n x) (.cxlMemAccess write pa n x) s fun s =>
      if write then agentWrite s none pa (leBytes x.toNat n)
      else
        let r := agentRead s none pa n
        { r.1 with dev := { r.1.dev with cxlReads := r.1.dev.cxlReads ++ [some (BitVec.ofNat 64 r.2)] } } := by
  refine acts_of (cxlMemAccess_eq write) (by rw [hfree, Bool.or_true]) (if_neg (?_ : ¬ (!(serving s && decide (pa + n ≤ 2 ^ 38))) = true))
  simp only [hup, hpa, decide_true, Bool.and_self, Bool.not_true, Bool.false_eq_true, not_false_eq_true]

theorem cxlMemAccess_refused (hdown : serving s = false) : Acts (.cxlMemAccess false pa n x) (.cxlMemAccess false pa n x) s fun s =>
    { s with dev := { s.dev with cxlReads := s.dev.cxlReads ++ [none] } } := by
  refine acts_of (cxlMemAccess_eq false) (by rw [hdown]; rfl) (if_pos (?_ : (!(serving s && decide (pa + n ≤ 2 ^ 38))) = true))
  rw [hdown]
  rfl

/-- With no tile operation queued, an agent that is no wave writes its bytes as they are, and reads what stands there (06_matrix R137). -/
theorem agentWrite_of_noTiles (h : NoTiles s) (key : Option Nat) (pa : Nat) (bs : List Byte) :
    agentWrite s key pa bs = { s with mem := devWrite s.mem key pa bs } := by
  rw [agentWrite, storedData_none h]
  refine taintTiles_none ?_ 0 _
  exact h

theorem agentRead_of_noTiles (h : NoTiles s) (key : Option Nat) (pa n : Nat) :
    agentRead s key pa n = ({ s with mem := (linesOf pa n).foldl recallLine s.mem },
      leNat (seenBytes ((linesOf pa n).foldl recallLine s.mem) key pa n)) :=
  congrArg (Prod.mk _) (UnitMessages.loadedValue_of_noTiles h ..)

end

/-! ## The boot path and the frame strobe (R418, R421, 16_scheduling R381, R382) -/

section
variable {s : State}

theorem reset_starts (h : s.dev.bootStage = 0) : Acts .reset .reset s fun s => { s with dev := { s.dev with bootStage := 1 } } := by
  have hstage : ∀ es, nextStage (withPending s es) = 1 := fun es => by simp [nextStage, h]
  refine acts_of (show execReset s = _ from rfl) rfl ((if_pos (by simp [h])).trans ?_)
  rw [hstage]
  rfl

theorem reset_verifies (h : s.dev.bootStage = 1) :
    Acts .reset .reset s fun s => { s with dev := { s.dev with bootStage := if imageGood s then 2 else 15 } } := by
  have hstage : ∀ es, nextStage (withPending s es) = if imageGood (withPending s es) then 2 else 15 := fun es => by simp [nextStage, h]
  refine acts_of (show execReset s = _ from rfl) rfl ((if_pos (by simp [h])).trans ?_)
  rw [hstage]
  exact if_neg (by dsimp only; split <;> decide)

/-- With no repair noted the remap tables are as they were when they have been read (20_errors R442). -/
theorem voteRemap_of_nil (h : s.dev.remap = []) (stack : Nat) : voteRemap s stack = s := by
  have hmaj : majority (remapOf s stack) = some [] := by rw [remapOf, h]; rfl
  simp only [voteRemap, hmaj, h]
  rfl

theorem loadRemaps_of_nil (h : s.dev.remap = []) : loadRemap (loadRemap s 0) 1 = s := by
  rw [loadRemap, loadRemap, voteRemap_of_nil h, voteRemap_of_nil h]

theorem reset_runs (h : s.dev.bootStage = 2) (hrepair : s.dev.remap = []) :
    Acts .reset .reset s fun s =>
      let part (off len : Nat) : List Byte := (List.range (flashWord s len)).map fun i => Memory.read s.dev.flash (0x40 + flashWord s off + i)
      { s with dev := { s.dev with bootStage := 3, firmware := [(0, part 0x10 0x14), (1, part 0x18 0x1C)] } } := by
  have hstage : ∀ es, nextStage (withPending s es) = 3 := fun es => by simp [nextStage, h]
  refine acts_of (show execReset s = _ from rfl) rfl ((if_pos (by simp [h])).trans ?_)
  rw [hstage]
  refine (if_pos rfl).trans ((loadRemaps_of_nil ?_).trans rfl)
  exact hrepair

/-- A device that runs, or has failed, is reset: what its flash and its memories hold is left (R418). -/
theorem reset_again (h : 3 ≤ s.dev.bootStage) : Acts .reset .reset s coldState :=
  acts_of (show execReset s = _ from rfl) rfl (if_neg (Nat.not_lt.2 h))

theorem frstrbEdge_counted (h : ∀ t, s.dev.edgeAge = some t → strobeGap ≤ t) :
    Acts .frstrbEdge .frstrbEdge s fun s => { s with dev := { s.dev with frame0 := 0, frame1 := 0, edgeAge := some 0 } } := by
  refine acts_of (show execFrstrbEdge s = _ from rfl) rfl ?_
  dsimp only
  split
  · next t ht => exact if_neg (Nat.not_lt.2 (h t ht))
  · rfl

theorem frstrbEdge_ignored {t : Nat} (h : s.dev.edgeAge = some t) (hearly : t < strobeGap) : Acts .frstrbEdge .frstrbEdge s fun s => s := by
  refine acts_of (show execFrstrbEdge s = _ from rfl) rfl ?_
  simp only [h]
  exact if_pos hearly

/-- The cycles of 100 µs at a clock step are exactly the strobe gap: the units are a multiple of every step (16_scheduling R380, R382). -/
theorem cycles_strobeGap {k : Nat} (h1 : 1 ≤ k) (h32 : k ≤ 32) (hk : s.dev.clockK.get 0 32 = k) : 6250 * k * cycleTime s = strobeGap := by
  have hdvd : k ∣ strobeUnits := by
    interval_cases k <;> decide
  rw [cycleTime, hk, Nat.mul_assoc, Nat.mul_div_cancel' hdvd, strobeGap]

end

/-! ## Commands of peers (18_host_peers R413 to R415) -/

/-- The bytes of an agent's write, and the tile operations that meet them, do not depend on what is in flight. -/
theorem performPeer_withPending (s : State) (es : List Ev) (pa : Nat) (op : PeerOp) :
    performPeer (withPending s es) pa op = (withPending (performPeer s pa op).1 es, (performPeer s pa op).2) := by
  cases op <;> rfl

/-- A peer's command changes memory and the tile operations that meet its bytes. -/
theorem performPeer_frame (s : State) (pa : Nat) (op : PeerOp) :
    (performPeer s pa op).1 = { s with mem := (performPeer s pa op).1.mem, work := (performPeer s pa op).1.work } := by
  cases op <;> rfl

section
variable {s : State} {src origin id ctx pa : Nat} {op : PeerOp}

/-- A command that has been executed is answered again with its recorded result (R415). -/
theorem peerCommand_again {v : DWord} {refused : Bool} (hup : serving s = true) (hdone : executedAt s src id = some (id, v, refused)) :
    Acts (.peerCommand src origin id ctx pa op) (.peerCommand src origin id ctx pa op) s fun s => answerPeer s src id v refused := by
  have hdone' : ∀ es, executedAt (withPending s es) src id = some (id, v, refused) := fun _ => hdone
  refine acts_of (show execPeerCommand src origin id ctx pa op s = _ from rfl) (by simp [hup, hdone]) ?_
  simp only [hdone']

theorem peerCommand_runs (hup : serving s = true) (hnew : executedAt s src id = none) (hturn : s.dev.nextCmd.look src = some id)
    (hfree : ∀ l ∈ linesOf pa (peerBytes op), lineFree s.mem l = true) :
    Acts (.peerCommand src origin id ctx pa op) (.peerCommand src origin id ctx pa op) s fun s => runPeer s src origin id ctx pa op := by
  have hnew' : ∀ es, executedAt (withPending s es) src id = none := fun _ => hnew
  have hall : (linesOf pa (peerBytes op)).all (lineFree s.mem) = true := List.all_eq_true.2 hfree
  refine acts_of (show execPeerCommand src origin id ctx pa op s = _ from rfl) (by simp [hup, hnew, inTurn, hturn, hall]) ?_
  simp only [hnew']

theorem runPeer_admitted (hok : inboundOk s src origin ctx = true) (hpa : pa + peerBytes op ≤ 2 ^ 38) :
    runPeer s src origin id ctx pa op =
      answerPeer (noteCmd (performPeer s pa op).1 src id (BitVec.ofNat 64 (performPeer s pa op).2) false) src id
        (BitVec.ofNat 64 (performPeer s pa op).2) false := by
  rw [runPeer, hok, Bool.true_and, if_pos (decide_eq_true hpa)]

/-- An admitted command leaves its effect on memory and on what meets it there, its answer, and its place in the order of its source. -/
theorem runPeer_admitted_leaves (hok : inboundOk s src origin ctx = true) (hpa : pa + peerBytes op ≤ 2 ^ 38) (es : List Ev) :
    let t := runPeer (withPending s es) src origin id ctx pa op
    t.mem = (performPeer s pa op).1.mem ∧
      t.dev.peerAnswers = s.dev.peerAnswers ++ [(src, id, BitVec.ofNat 64 (performPeer s pa op).2, false)] ∧
      t.dev.nextCmd.look src = some ((id + 1) % 2 ^ 32) ∧ t.work = (performPeer s pa op).1.work ∧ t.ctxs = s.ctxs ∧ t.base = s.base := by
  intro t
  have ht : t = _ := runPeer_admitted (s := withPending s es) hok hpa
  rw [ht, performPeer_withPending, performPeer_frame]
  exact ⟨rfl, rfl, Map.look_put_self .., rfl, rfl, rfl⟩

theorem runPeer_refused (hno : inboundOk s src origin ctx = false) :
    runPeer s src origin id ctx pa op = answerPeer (noteCmd s src id (BitVec.allOnes 64) true) src id (BitVec.allOnes 64) true := by
  rw [runPeer, hno, Bool.false_and, if_neg Bool.false_ne_true]

end

/-- A refused command leaves its answer of all ones and its place in the order of its source (R414). -/
theorem runPeer_refused_leaves {s : State} {src origin id ctx pa : Nat} {op : PeerOp} (hno : inboundOk s src origin ctx = false) (es : List Ev) :
    let t := runPeer (withPending s es) src origin id ctx pa op
    t.mem = s.mem ∧ t.dev.peerAnswers = s.dev.peerAnswers ++ [(src, id, BitVec.allOnes 64, true)] ∧
      t.dev.nextCmd.look src = some ((id + 1) % 2 ^ 32) ∧ t.work = s.work ∧ t.ctxs = s.ctxs ∧ t.base = s.base := by
  intro t
  have ht : t = _ := runPeer_refused (s := withPending s es) hno
  rw [ht]
  exact ⟨rfl, rfl, Map.look_put_self .., rfl, rfl, rfl⟩

/-! ## Flits and links (18_host_peers R411, R412, R416) -/

theorem flitBytes_payload (f : Flit) : (flitBytes f).length = 256 ∧ ((flitBytes f).drop 16).take 224 = leBytes f.body.payload.toNat 224 := by
  have hhead : ((List.range 16).map (Config.flitHeader f.src f.dst f.body.cmd f.body.seq)).length = 16 := by simp
  have hbody : (leBytes f.body.payload.toNat 224).length = 224 := leBytes_length ..
  unfold flitBytes
  constructor
  · simp only [List.length_append, List.length_map, List.length_range, hbody]
  · rw [List.append_assoc, List.drop_left' hhead, List.take_left' hbody]

section
variable {s : State} {port : Nat}

theorem flitForward_eq (f : Flit) : exec (.flitForward f.src f.dst f.body) s = runEvent s (.flitForward f.src f.dst f.body)
    (serving s && f.dst.toNat != s.dev.deviceId && (s.dev.routes.look f.dst.toNat).isSome && (linkOf s (flitPort s f)).st == .up &&
      !flitBefore s f)
    (fun s => setLink s (flitPort s f) { linkOf s (flitPort s f) with out := (linkOf s (flitPort s f)).out ++ [f] }) := rfl

/-- A flit for another device goes out at the port of its route when no earlier one waits for it (R412). -/
theorem flitForward_acts {f : Flit} (hup : serving s = true) (hdst : f.dst.toNat ≠ s.dev.deviceId) (hroute : s.dev.routes.look f.dst.toNat = some port)
    (hlink : (linkOf s port).st = .up)
    (hfirst : ∀ a b c, Ev.flitForward a b c ∈ s.pending.takeWhile (fun e => e != .flitForward f.src f.dst f.body) →
      s.dev.routes.get b.toNat 32 ≠ port) :
    Acts (.flitForward f.src f.dst f.body) (.flitForward f.src f.dst f.body) s fun s =>
      setLink s port { linkOf s port with out := (linkOf s port).out ++ [f] } := by
  have hport : ∀ es, flitPort (withPending s es) f = port := fun _ => by simp [flitPort, Map.get, hroute]
  have hbefore : flitBefore s f = false := by
    refine Bool.eq_false_iff.2 fun hb => ?_
    obtain ⟨e, he, hmeets⟩ := List.any_eq_true.1 hb
    split at hmeets
    · next a b c => exact hfirst a b c he ((beq_iff_eq.1 hmeets).trans (hport s.pending))
    · cases hmeets
  have hlink' : (linkOf s (flitPort s f)).st = .up := by rw [show flitPort s f = port from hport s.pending, hlink]
  refine acts_of (flitForward_eq f) (by simp [hup, hdst, hroute, hlink', hbefore]) ?_
  simp only [hport]

theorem replay_acts (hup : serving s = true) (hlink : (linkOf s port).st = .up) :
    Acts (.replay port) (.replay port) s fun s =>
      let recent := (linkOf s port).replays.filter fun c => decide (s.dev.cycles < c + 2 ^ 16)
      if 3 ≤ recent.length then setLink s port { linkOf s port with st := .retraining, replays := recent, since := s.dev.cycles }
      else setLink s port { linkOf s port with replays := recent ++ [s.dev.cycles] } :=
  acts_of (show execReplay port s = _ from rfl) (by simp [hup, hlink]) rfl

theorem linkDown_acts (hlate : retrainLate s port = true) (hcopies : s.work.copies = []) :
    Acts (.linkDown port) (.linkDown port) s fun s =>
      (portDevices s port).foldl (fun s d => postAll s (port / 8) 14 [(8, port), (12, d)])
        (setLink s port { linkOf s port with st := .down }) := by
  refine acts_of (show execLinkDown port s = _ from rfl) hlate ?_
  simp only [linkLost, hcopies, List.foldl_nil]

end

/-- Settles O39. -/
theorem hostSteps : Obligations.HostSteps := by
  unfold Obligations.HostSteps
  refine ⟨fun s off n v part pa proto x key y => ?host, fun src origin id ctx pa port op f s => ?peers⟩
  case host =>
    refine ⟨registerWrite_acts, registerWrite_idles, msiXTableEntry_part, msiXTableEntry_unmask,
      fun hup hpa hfree => ⟨cxlMemAccess_acts true hup hpa hfree, cxlMemAccess_acts false hup hpa hfree⟩,
      fun bs hn => ⟨agentWrite_of_noTiles hn none pa bs, _, agentRead_of_noTiles hn none pa n, rfl⟩, cxlMemAccess_refused,
      fun hproto hup => ?keyed, fun hproto hdown => ?ignored, reset_starts, reset_verifies, reset_runs,
      fun h => ⟨_, reset_again h, rfl, rfl, rfl, rfl, rfl, rfl⟩, frstrbEdge_counted, fun t => frstrbEdge_ignored,
      fun k => cycles_strobeGap⟩
    case keyed => exact acts_of (show execIdeKeyManagement proto key s = _ from rfl) (decide_eq_true hproto) (if_pos hup)
    case ignored =>
      exact acts_of (show execIdeKeyManagement proto key s = _ from rfl) (decide_eq_true hproto) (if_neg (ne_true_of_eq_false hdown))
  case peers =>
    intro e up fresh
    refine ⟨fun v refused => peerCommand_again, fun hup hnew hturn hfree => ⟨fun hok hpa => ?admitted, fun hno => ?refused⟩,
      flitForward_acts, flitBytes_payload f, fun recent hrecent hup hlink => ?replay,
      fun hup hport hlink hlate => acts_of (show execLinkRetrainComplete port s = _ from rfl) (by simp [hup, hport, hlink, hlate]) rfl,
      linkDown_acts, fun hup hlink => acts_of (show execLinkRecovery port s = _ from rfl) (by simp [hup, hlink]) rfl⟩
    case admitted => exact ⟨_, peerCommand_runs hup hnew hturn hfree, runPeer_admitted_leaves hok hpa _⟩
    case refused => exact ⟨_, peerCommand_runs hup hnew hturn hfree, runPeer_refused_leaves hno _⟩
    case replay =>
      subst hrecent
      refine ⟨fun hfew => ?_, fun hmany => ?_⟩
      · exact (replay_acts hup hlink).trans (congrArg Host.Outcome.next (if_neg (Nat.not_le.2 hfew)))
      · exact (replay_acts hup hlink).trans (congrArg Host.Outcome.next (if_pos hmany))

end Sys2Proof.HostEvents
end

section
/-! PROOF. Host queues, admission, dispatch, retirement and completion arrivals (16_scheduling R361 to R368, 17_translation R388). -/

namespace Sys2Proof.Launching
open Machine MemorySteps

/-! ## Host queues (16_scheduling R361, 17_translation R388) -/

section
variable {s : State} {ctx q : Nat}

theorem launchDoorbell_acts {c : Ctx} {p : Nat} (hc : s.ctxs.look ctx = some c) (hq : q < 8) (hp : queueField s ctx q 12 4 = some p) :
    Acts (.launchDoorbell ctx q) (.launchDoorbell ctx q) s fun s =>
      let s1 := s.setCtx ctx { c with producers := c.producers.put q p }
      if queueDue s1 ctx q = true ∧ Ev.launchQueueEntry ctx q ∉ s1.pending then s1.post (.launchQueueEntry ctx q) else s1 := by
  have hp' : ∀ es, queueField (withPending s es) ctx q 12 4 = some p := fun _ => hp
  refine acts_of (show execLaunchDoorbell ctx q s = _ from rfl) (by simp [hc, hq]) ?_
  simp only [hc, hp']
  refine if_congr ?_ rfl rfl
  rw [Bool.and_eq_true, Bool.not_eq_true', ← Bool.not_eq_true, List.contains_iff_mem]

/-- The scheduler takes the next entry of a queue and writes the consumer index back. -/
theorem launchQueueEntry_acts {base w cons rec tag : Nat} {c : Ctx} (hdue : queueDue s ctx q = true) (hdesc : descFree s ctx q = true)
    (hopen : entryOpen s ctx q = true) (hbase : queueField s ctx q 0 8 = some base) (hw : queueField s ctx q 8 4 = some w)
    (hcons : queueField s ctx q 16 4 = some cons) (hc : s.ctxs.look ctx = some c)
    (hrec : hwRead s ctx (base + 16 * (cons % 2 ^ (w % 16))) 8 = some rec)
    (htag : hwRead s ctx (base + 16 * (cons % 2 ^ (w % 16)) + 8) 4 = some tag) :
    Acts (.launchQueueEntry ctx q) (.launchQueueEntry ctx q) s fun s =>
      let s1 := takeEntry s ctx q rec tag
      let s2 := (hwWrite s1 ctx (c.cfg.lqTable + 32 * q + 16) 4 ((cons + 1) % 2 ^ 32)).getD s1
      if queueDue s2 ctx q then s2.post (.launchQueueEntry ctx q) else s2 := by
  have hbase' : ∀ es, queueField (withPending s es) ctx q 0 8 = some base := fun _ => hbase
  have hw' : ∀ es, queueField (withPending s es) ctx q 8 4 = some w := fun _ => hw
  have hcons' : ∀ es, queueField (withPending s es) ctx q 16 4 = some cons := fun _ => hcons
  have hrec' : ∀ es, hwRead (withPending s es) ctx (base + 16 * (cons % 2 ^ (w % 16))) 8 = some rec := fun _ => hrec
  have htag' : ∀ es, hwRead (withPending s es) ctx (base + 16 * (cons % 2 ^ (w % 16)) + 8) 4 = some tag := fun _ => htag
  refine acts_of (show execLaunchQueueEntry ctx q s = _ from rfl) (by rw [hdue, hdesc, hopen]; rfl) ?_
  simp only [hbase', hw', hcons', hc, hrec', htag']

theorem takeEntry_accepted {va tag : Nat} {d : LaunchData} (hva : va % 256 = 0) (hd : readLaunch s noCore ctx (queueLevel s ctx q) va = .ok d) :
    takeEntry s ctx q va tag = acceptLaunch s ctx (queueLevel s ctx q) (some q) (BitVec.ofNat 32 tag) va d := by
  simp only [takeEntry, hva, hd, bne_self_eq_false, Bool.false_eq_true, if_false]

theorem takeEntry_refused {va tag : Nat} {fs : List RecFail} (hva : va % 256 = 0)
    (hfs : readLaunch s noCore ctx (queueLevel s ctx q) va = .error fs) :
    takeEntry s ctx q va tag = postEvent s ctx 0 1 [(8, tag), (12, firstFailing fs)] := by
  simp only [takeEntry, hva, hfs, bne_self_eq_false, Bool.false_eq_true, if_false]

theorem takeEntry_unaligned {va tag : Nat} (hva : va % 256 ≠ 0) : takeEntry s ctx q va tag = postEvent s ctx 0 1 [(8, tag), (12, 0)] := by
  simp only [takeEntry, bne_iff_ne.2 hva, if_true]
  rfl

end

/-! ## Admission (R365) -/

section
variable {s : State} {stack : Nat}

/-- What is admitted is one of the candidates, and fits. -/
theorem firstFit_some {blocked : List Nat} {cs : List Cand} {c : Cand} {t : State} (h : firstFit s stack blocked cs = some (c, t)) :
    c ∈ cs ∧ tryCand s stack c = some t := by
  induction cs generalizing blocked with
  | nil => cases h
  | cons d ds ih =>
    have hlater : ∀ bs, firstFit s stack bs ds = some (c, t) → c ∈ d :: ds ∧ tryCand s stack c = some t := fun bs hbs =>
      ⟨List.mem_cons_of_mem _ (ih hbs).1, (ih hbs).2⟩
    unfold firstFit at h
    split at h
    · split at h
      · cases h
      · exact hlater _ h
    · split at h
      · next u hu =>
        obtain ⟨rfl, rfl⟩ := Prod.mk.inj (Option.some.inj h)
        exact ⟨List.mem_cons_self, hu⟩
      · split at h
        · cases h
        · exact hlater _ h

theorem blockAdmit_next {j : Nat} {k : Cand} {s0 s1 : State} (h0 : admission s stack = some (.la j, s0))
    (h1 : admission (withPending s (s.pending.erase (.blockAdmit stack))) stack = some (k, s1)) : exec (.blockAdmit stack) s = .next s1 :=
  acts_of (f := fun _ => s1) (show execBlockAdmit stack s = _ from rfl) (by rw [h0]) (by simp only [h1])

theorem relaunch_next {blk : Nat} {b : Block} {s0 s1 : State} (hb : s.block blk = some b) (h0 : admission s b.stack = some (.re blk, s0))
    (h1 : admission (withPending s (s.pending.erase (.relaunch blk))) b.stack = some (.re blk, s1)) : exec (.relaunch blk) s = .next s1 := by
  have hb' : ∀ es, (withPending s es).block blk = some b := fun _ => hb
  refine acts_of (f := fun _ => s1) (show execRelaunch blk s = _ from rfl) ?_ ?_
  · simp [hb, h0]
  · simp [hb', h1]

/-- The order of acceptance does not depend on what is in flight. -/
theorem enterCand_withPending (s : State) (es : List Ev) (c : Cand) (cs : List Cand) : enterCand (withPending s es) c cs = enterCand s c cs := by
  induction cs with
  | nil => rfl
  | cons d ds ih =>
    simp only [enterCand, ih]
    rfl

theorem candsOf_withPending (s : State) (es : List Ev) (stack : Nat) : candsOf (withPending s es) stack = candsOf s stack := by
  simp only [candsOf, enterCand_withPending]
  rfl

theorem expired_withPending (s : State) (es : List Ev) (stack id : Nat) : expired (withPending s es) stack id = expired s stack id := by
  simp only [expired, candsOf_withPending]
  rfl

theorem admissionWaitExpiry_acts {id : Nat} (hexp : expired s stack id = [.la id]) :
    Acts (.admissionWaitExpiry stack id) (.admissionWaitExpiry stack id) s fun s =>
      { s with work := { s.work with launches := s.work.launches.modify id fun l => { l with stopper := true } } } := by
  have hexp' : ∀ es, expired (withPending s es) stack id = [.la id] := fun es => (expired_withPending s es stack id).trans hexp
  refine acts_of (show execAdmissionWaitExpiry stack id s = _ from rfl) (by rw [hexp]; rfl) ?_
  simp only [hexp', List.foldl_cons, List.foldl_nil]

end

/-! ## The start of a block (R359, R366) -/

/-- The first `m` waves of a block have started, each as `mk` gives it for some first identity of its fibres; nothing else of the state
changes but places on the core and identities. -/
structure WavesStarted (s t : State) (blk : Nat) (mk : Nat → Nat → Wave) (m : Nat) : Prop where
  blocks : t.work.blocks = s.work.blocks
  nextBlock : t.work.nextBlock = s.work.nextBlock
  mem : t.mem = s.mem
  base : t.base = s.base
  pending : t.pending = s.pending
  started : ∀ n < m, ∃ uid, t.wave (waveKey blk n) = some (mk n uid)
  others : ∀ j, (∀ n < m, j ≠ waveKey blk n) → t.wave j = s.wave j

theorem WavesStarted.zero (s : State) (blk : Nat) (mk : Nat → Nat → Wave) : WavesStarted s s blk mk 0 :=
  ⟨rfl, rfl, rfl, rfl, rfl, by simp, fun _ _ => rfl⟩

/-- One wave more has started. -/
theorem WavesStarted.succ {s t u : State} {blk m : Nat} {mk : Nat → Nat → Wave} (h : WavesStarted s t blk mk m) {uid : Nat}
    (hwork : u.work.blocks = t.work.blocks ∧ u.work.nextBlock = t.work.nextBlock ∧ u.work.waves = t.work.waves.put (waveKey blk m) (mk m uid))
    (hrest : u.mem = t.mem ∧ u.base = t.base ∧ u.pending = t.pending) : WavesStarted s u blk mk (m + 1) := by
  obtain ⟨hblocks, hnext, hwaves⟩ := hwork
  obtain ⟨hmem, hbase, hpend⟩ := hrest
  have hwave : ∀ j, u.wave j = if j = waveKey blk m then some (mk m uid) else t.wave j := fun j => by
    rw [State.wave, hwaves]
    exact Map.look_put ..
  refine ⟨hblocks.trans h.blocks, hnext.trans h.nextBlock, hmem.trans h.mem, hbase.trans h.base, hpend.trans h.pending, fun n hn => ?_,
    fun j hj => ?_⟩
  · by_cases heq : n = m
    · subst heq
      exact ⟨uid, by rw [hwave, if_pos rfl]⟩
    · have hne : waveKey blk n ≠ waveKey blk m := by unfold waveKey; omega
      obtain ⟨v, hv⟩ := h.started n (by omega)
      exact ⟨v, by rw [hwave, if_neg hne, hv]⟩
  · rw [hwave, if_neg (hj m (Nat.lt_succ_self m)), h.others j fun n hn => hj n (Nat.lt_succ_of_lt hn)]

/-- The wave of a number as a block of a launch starts it. -/
def startedWave (blk : Nat) (l : Launch) (fibres : Nat → Nat → Map Fibre) (regs : Wave → Wave) (n uid : Nat) : Wave :=
  regs (freshWave blk n (nth l.record 3) l.level (BitVec.ofNat 64 (rd l.record 0)) l.consts (fibres n uid))

theorem wavesStarted_startWaves (s : State) (blk : Nat) (b : Block) (l : Launch) (fibres : Nat → Nat → Map Fibre) (regs : Wave → Wave) :
    WavesStarted s (startWaves s blk b l fibres regs) blk (startedWave blk l fibres regs) (recWaves l.record) := by
  unfold startWaves
  generalize recWaves l.record = m
  induction m with
  | zero => exact .zero ..
  | succ m ih =>
    rw [List.range_succ, List.foldl_append]
    exact ih.succ ⟨rfl, rfl, rfl⟩ ⟨rfl, rfl, rfl⟩

theorem recWaves_le (x : List Word) : recWaves x ≤ 16 := by
  have : bits (rw x 3) 25 22 < 16 := by
    unfold bits
    omega
  unfold recWaves
  omega

theorem acquireBytes_mem (m : MemSys) (core : Nat) : (acquireBytes m core).mem = m.mem := rfl

/-- The block that a launch places, with what its context left in the arrays that it takes (R359, 08_memory_spaces R164). -/
def placedBlock (s : State) (id : Nat) (l : Launch) (idx core quality : Nat) (p : Place) : Block :=
  let b := freshBlock id idx l.ctx (stackOf core) core (s.work.gens.get core 0).toNat quality (rw l.record 7) p
  { b with spm := takeBytes s l.ctx core p.spm (rw l.record 7), slabs := takeSlabs s l.ctx core p.slab (recSlabs l.record) }

/-- A block that starts stands on its core with its waves, and changes nothing of the other blocks and waves, of memory, of the base dies or of
what is in flight. -/
theorem startBlock_frame (s : State) (id : Nat) (l : Launch) (idx core quality : Nat) (p : Place) (fibres : Nat → Nat → Map Fibre)
    (regs : Wave → Wave) :
    let t := startBlock s id l idx core quality p fibres regs
    t.block s.work.nextBlock = some (placedBlock s id l idx core quality p) ∧ (∀ j, j ≠ s.work.nextBlock → t.block j = s.block j) ∧
      t.work.nextBlock = s.work.nextBlock + 1 ∧
      (∀ n < recWaves l.record, ∃ uid, t.wave (16 * s.work.nextBlock + n) = some (startedWave s.work.nextBlock l fibres regs n uid)) ∧
      (∀ j, j / 16 ≠ s.work.nextBlock → t.wave j = s.wave j) ∧ t.mem.mem = s.mem.mem ∧ t.base = s.base ∧ t.pending = s.pending := by
  intro t
  have hs := wavesStarted_startWaves
    (enterCore { s with work := { s.work with nextBlock := s.work.nextBlock + 1 } } s.work.nextBlock
      (freshBlock id idx l.ctx (stackOf core) core (s.work.gens.get core 0).toNat quality (rw l.record 7) p) l.record)
    s.work.nextBlock (freshBlock id idx l.ctx (stackOf core) core (s.work.gens.get core 0).toNat quality (rw l.record 7) p) l fibres regs
  have hblock : ∀ j, t.block j = if j = s.work.nextBlock then some (placedBlock s id l idx core quality p) else s.block j := fun j =>
    (congrArg (fun m : Map Block => m.look j) hs.blocks).trans (Map.look_put ..)
  refine ⟨(hblock _).trans (if_pos rfl), fun j hj => (hblock j).trans (if_neg hj), hs.nextBlock, hs.started, fun j hj => ?_,
    (acquireBytes_mem ..).trans (congrArg MemSys.mem hs.mem), hs.base, hs.pending⟩
  refine hs.others j fun n hn => ?_
  have := recWaves_le l.record
  unfold waveKey
  omega

/-- A dispatched block starts on one of the cores that fit it, at the level of its launch now (R368, R383). -/
theorem dispatchOne_some {s t : State} {id idx : Nat} {among : List Nat} {l : Launch} (hl : s.work.launches.look id = some l)
    (h : dispatchOne s id idx among = some t) :
    ∃ core p l1, (core, p) ∈ (among.filter (recMask l.record)).flatMap (fitCores s l.ctx l.record) ∧
      t = (startBlock s id l idx core (levelNow s l) p (launchFibres l.record (entryOf l.record (levelNow s l))) fun w => w).setLaunch id l1 := by
  unfold dispatchOne at h
  rw [hl] at h
  dsimp only at h
  split at h
  · cases h
  · next core p hpick => exact ⟨core, p, _, List.mem_of_getElem? hpick, (Option.some.inj h).symm⟩

/-! ## Retirement (R364) -/

section
variable {s : State} {blk id stack : Nat} {b : Block} {l : Launch}

theorem countRetired_counts (hl : s.work.launches.look id = some l) (hb : l.batch = none) (hmore : l.done + 1 < recBlocks l.record) :
    countRetired s id stack = { s with work := { s.work with launches := s.work.launches.put id { l with done := l.done + 1 } } } := by
  simp only [countRetired, hl, hb, hmore, Option.isSome_none, Bool.false_eq_true, if_false, if_true]
  rfl

/-- The last block of a launch ends it. -/
theorem countRetired_last (hl : s.work.launches.look id = some l) (hb : l.batch = none) (hlast : recBlocks l.record ≤ l.done + 1) :
    countRetired s id stack =
      let ended : State := { s with work := { s.work with launches := s.work.launches.del id } }
      if rd l.record 16 = 0 then ended
      else ended.post (.completionArrival l.ctx (rd l.record 16) l.recVa (arrivalSource 0 stack l.level)) := by
  simp only [countRetired, hl, hb, Nat.not_lt.2 hlast, Option.isSome_none, Bool.false_eq_true, if_false]

theorem arrivalSource_launch (stack : Nat) (level : Level) : arrivalSource 0 stack level = 4 * stack + if level = .user then 8 else 0 := by
  rw [arrivalSource, Nat.zero_add]

theorem blockRetire_retires (hdue : retireDue s blk = true) (hend : blkEnding s blk = false) (hb : s.block blk = some b) :
    Acts (.blockRetire blk) (.blockRetire blk) s fun s =>
      let s1 := leaveArrays { s with mem := releaseBytes s.mem b.core } b
      (countRetired (bumpGen { s1 with work := { s1.work with blocks := s1.work.blocks.del blk } } b.core) b.launch b.stack).posts
        (b.heldMsgs.map Ev.remoteMessage) := by
  have hb' : ∀ es, (withPending s es).block blk = some b := fun _ => hb
  have hend' : ∀ es, blkEnding (withPending s es) blk = false := fun _ => hend
  refine acts_of (show execBlockRetire blk s = _ from rfl) (by simp [hend, hdue]) ?_
  simp only [hend', Bool.false_eq_true, if_false, retireBlock, hb']

theorem blockRetire_stops (hb : s.block blk = some b) (hstop : stopDue s blk = true) :
    Acts (.blockRetire blk) (.blockRetire blk) s fun s => finishStop s b.ctx := by
  have hend : blkEnding s blk = true := (Bool.and_eq_true_iff.1 hstop).1
  have hend' : ∀ es, blkEnding (withPending s es) blk = true := fun _ => hend
  have hctx : ∀ es, blkCtx (withPending s es) blk = some b.ctx := fun _ => congrArg (Option.map Block.ctx) hb
  refine acts_of (show execBlockRetire blk s = _ from rfl) (by simp [hend, hstop]) ?_
  simp only [hend', if_true, hctx, Option.getD_some]

end

/-! ## Completion arrivals (13_raster R291) -/

section
variable {s : State} {ctx va record source : Nat}

/-- Whether an arrival finds A = 0 does not depend on what is in flight. -/
theorem updateObj_withPending_snd (s : State) (es : List Ev) (o : BarObj) (u : BarUpd) :
    (updateObj (withPending s es) o u).2 = (updateObj s o u).2 := by
  have hread : objRead (withPending s es) o = objRead s o := by cases o <;> rfl
  unfold updateObj
  rw [hread]
  cases objRead s o <;> rfl

/-- The level of what completed (R291). -/
def sourceLevel (source : Nat) : Level := if source / 8 % 2 = 1 then .user else .supervisor

/-- Event 16: an arrival that could not be made, with its reason (R291). -/
def tellArrival (ctx va record source : Nat) (s : State) (reason : Nat) : State :=
  postEvent s ctx (source / 4 % 2) 16
    [(8, va % 2 ^ 32), (12, va / 2 ^ 32), (0x10, record % 2 ^ 32), (0x14, record / 2 ^ 32), (0x18, reason + 256 * (source % 4))]

theorem completionArrival_eq (s : State) : exec (.completionArrival ctx va record source) s =
    runEvent s (.completionArrival ctx va record source)
      (s.pending.contains (.completionArrival ctx va record source) &&
        ((arrivalFault s ctx (sourceLevel source) va).isSome || arrivalFree s ctx va))
      (fun s => match arrivalFault s ctx (sourceLevel source) va with
        | some reason => tellArrival ctx va record source s reason
        | none => if (updateObj s (.dev ctx va) .arrive).2 then tellArrival ctx va record source (updateObj s (.dev ctx va) .arrive).1 0x20
            else (updateObj s (.dev ctx va) .arrive).1) := rfl

theorem completionArrival_acts (hp : Ev.completionArrival ctx va record source ∈ s.pending) (hfree : arrivalFree s ctx va = true)
    (hok : arrivalFault s ctx (sourceLevel source) va = none) :
    Acts (.completionArrival ctx va record source) (.completionArrival ctx va record source) s fun t =>
      if (updateObj s (.dev ctx va) .arrive).2 then tellArrival ctx va record source (updateObj t (.dev ctx va) .arrive).1 0x20
      else (updateObj t (.dev ctx va) .arrive).1 := by
  have hok' : ∀ es, arrivalFault (withPending s es) ctx (sourceLevel source) va = none := fun _ => hok
  refine acts_of (completionArrival_eq s) (by simp [hp, hfree]) ?_
  simp only [hok', updateObj_withPending_snd]

theorem completionArrival_fails (hp : Ev.completionArrival ctx va record source ∈ s.pending) {reason : Nat}
    (hbad : arrivalFault s ctx (sourceLevel source) va = some reason) :
    Acts (.completionArrival ctx va record source) (.completionArrival ctx va record source) s fun s =>
      tellArrival ctx va record source s reason := by
  have hbad' : ∀ es, arrivalFault (withPending s es) ctx (sourceLevel source) va = some reason := fun _ => hbad
  refine acts_of (completionArrival_eq s) (by simp [hp, hbad]) ?_
  simp only [hbad']

end

/-- Settles O41. -/
theorem launchSteps : Obligations.LaunchSteps := by
  unfold Obligations.LaunchSteps
  intro ctx q stack id blk va record source s left
  refine ⟨fun c p hc hq hp => launchDoorbell_acts hc hq hp,
    fun base w cons c rec tag hdue hdesc hopen hbase hw hcons hc hrec htag =>
      launchQueueEntry_acts hdue hdesc hopen hbase hw hcons hc hrec htag,
    fun j k s0 s1 => blockAdmit_next, fun b s0 s1 => relaunch_next, fun l _ hexp => admissionWaitExpiry_acts hexp,
    fun d hva hd => takeEntry_accepted hva hd, fun fs hva hfs => takeEntry_refused hva hfs, takeEntry_unaligned,
    fun c t => firstFit_some, fun l idx among t hl hdisp => ?dispatched,
    fun l hl hb => ⟨countRetired_counts hl hb, fun hlast => ?last⟩, fun b => blockRetire_retires, fun b => blockRetire_stops,
    fun hp => ⟨fun hfree hok hroom => ?made, fun hfree hok hover => ?overrun, fun reason => completionArrival_fails hp⟩⟩
  case dispatched =>
    intro new x quality
    obtain ⟨core, p, l1, hcore, rfl⟩ := dispatchOne_some hl hdisp
    obtain ⟨hblock, hothers, hnext, hstarted, hwaves, hmem, hbase, hpend⟩ := startBlock_frame s id l idx core (levelNow s l) p
      (launchFibres l.record (entryOf l.record (levelNow s l))) fun w => w
    refine ⟨core, p, _, hcore, hblock, rfl, rfl, rfl, rfl, rfl, rfl, hnext, hothers, fun n hn => ?_, hwaves, hmem, hbase, hpend⟩
    obtain ⟨uid, hw⟩ := hstarted n hn
    refine ⟨_, hw, rfl, rfl, rfl, rfl, rfl, ?_, fun f hf => ?_⟩
    · exact (List.length_map ..).trans List.length_range
    · obtain ⟨i, -, rfl⟩ := List.mem_map.1 hf
      exact ⟨rfl, rfl, rfl, rfl⟩
  case last =>
    refine ⟨fun hnone => ?_, fun hsome => ?_⟩
    · rw [countRetired_last hl hb hlast]
      exact if_pos hnone
    · rw [countRetired_last hl hb hlast, ← arrivalSource_launch]
      exact if_neg hsome
  case made =>
    have hacts := completionArrival_acts hp hfree hok
    rw [hroom] at hacts
    exact hacts
  case overrun =>
    have hacts := completionArrival_acts hp hfree hok
    rw [hover] at hacts
    exact hacts

end Sys2Proof.Launching
end

section
/-! PROOF. Steps of the active and pending sets, saves, moves, forwarding entries, pre-emption requests and pools (16_scheduling R370 to R378, 19_traps R432). -/

namespace Sys2Proof.Placement
open Machine MemorySteps

/-! ## The active and pending sets (16_scheduling R370, R371) -/

section
variable {s : State} {k core : Nat}

theorem waveToPending_acts {w : Wave} (hw : s.wave k = some w) (hdue : toPendingDue s k = true) :
    Acts (.waveToPending k) (.waveToPending k) s fun s =>
      let c := schedOf s (coreOf s w)
      setSched (s.setWave k { w with moved := if allParked w then [.parked] else w.holds }) (coreOf s w) (fillPlaces s.dev.cycles 8
        { c with active := c.active.filter (fun a => a.1 != k), pending := c.pending ++ [(k, none)] }) := by
  have hw' : ∀ es, (withPending s es).wave k = some w := fun _ => hw
  refine acts_of (show execWaveToPending k s = _ from rfl) hdue ?_
  simp only [toPending, hw']

theorem readyDue_of_unready {w : Wave} (hw : s.wave k = some w) (hover : ∀ d ∈ w.moved, d.over w = true)
    (hpend : (k, none) ∈ (schedOf s (coreOf s w)).pending) : readyDue s k = true := by
  simp only [readyDue, hw, Bool.and_eq_true, List.all_eq_true, List.any_eq_true]
  exact ⟨hover, (k, none), hpend, by simp⟩

theorem pendingWaveReady_acts {w : Wave} (hw : s.wave k = some w) (hdue : readyDue s k = true) :
    Acts (.pendingWaveReady k) (.pendingWaveReady k) s fun s =>
      let c := schedOf s (coreOf s w)
      setSched s (coreOf s w) (fillPlaces s.dev.cycles 8
        { c with pending := c.pending.map fun p => if p.1 = k then (p.1, some (p.2.getD s.dev.cycles)) else p }) := by
  have hw' : ∀ es, (withPending s es).wave k = some w := fun _ => hw
  refine acts_of (show execPendingWaveReady k s = _ from rfl) hdue ?_
  simp only [hw']

theorem forcedExchange_acts {p : Nat × Option Nat} {a : Nat × Nat × Nat} (hdue : forcedDue s core = some (p, a)) :
    Acts (.forcedExchange core) (.forcedExchange core) s fun s => setSched (s.mapWave a.1 fun w => { w with moved := [] }) core
      { active := (schedOf s core).active.filter (fun x => x.1 != a.1) ++ [(p.1, s.dev.cycles, s.dev.cycles)]
        pending := ((schedOf s core).pending.filter fun x => x.1 != p.1) ++ [(a.1, none)]
        lastForced := s.dev.cycles } := by
  have hdue' : ∀ es, forcedDue (withPending s es) core = some (p, a) := fun _ => hdue
  refine acts_of (show execForcedExchange core s = _ from rfl) (by rw [hdue]; rfl) ?_
  simp only [hdue']

end

/-! ## Saves on a wait and by a handler (16_scheduling R373, R374, 19_traps R434) -/

section
variable {s : State} {blk : Nat}

theorem saveOnWait_acts (hdue : saveDue s blk = true) (hco : coMembers s blk = [blk]) :
    Acts (.saveOnWait blk) (.saveOnWait blk) s fun s => (s.mapBlock blk fun b => { b with status := .saving }).post (.saveComplete blk) := by
  have hco' : ∀ es, coMembers (withPending s es) blk = [blk] := fun _ => hco
  refine acts_of (show execSaveOnWait blk s = _ from rfl) hdue ?_
  simp only [hco', List.foldl_cons, List.foldl_nil]

theorem saveComplete_byHandler {b : Block} (hb : s.block blk = some b) (hdue : completeDue s blk = true) (hh : handlerSaved s blk b = true) :
    Acts (.saveComplete blk) (.saveComplete blk) s fun s =>
      leaveSaved { s with mem := releaseBytes s.mem b.core } blk [.now] b.savedUids b.holdsSections := by
  have hb' : ∀ es, (withPending s es).block blk = some b := fun _ => hb
  have hh' : ∀ es, handlerSaved (withPending s es) blk b = true := fun _ => hh
  refine acts_of (show execSaveComplete blk s = _ from rfl) hdue ?_
  simp only [hb', hh', if_true]

/-- A save on a wait is completed, or given up because a fibre was released. -/
theorem saveComplete_onWait {b : Block} (hb : s.block blk = some b) (hdue : completeDue s blk = true) (hh : handlerSaved s blk b = false) :
    Acts (.saveComplete blk) (.saveComplete blk) s fun t =>
      if (savedWith s blk).all (blockWaits s) then (savedWith s blk).foldl saveBlock t
      else (savedWith s blk).foldl (fun t m => t.mapBlock m fun b => { b with status := .running }) t := by
  have hb' : ∀ es, (withPending s es).block blk = some b := fun _ => hb
  have hh' : ∀ es, handlerSaved (withPending s es) blk b = false := fun _ => hh
  have hwith : ∀ es, savedWith (withPending s es) blk = savedWith s blk := fun _ => rfl
  have hwaits : ∀ es, blockWaits (withPending s es) = blockWaits s := fun _ => rfl
  refine acts_of (show execSaveComplete blk s = _ from rfl) hdue ?_
  simp only [hb', hh', hwith, hwaits, Bool.false_eq_true, if_false]

end

/-! ## Migration (16_scheduling R377) -/

/-- A step that does not meet a condition may go without a change to whether one in flight does. -/
theorem any_erase {l : List Ev} {e : Ev} {p : Ev → Bool} (he : p e = false) : (l.erase e).any p = l.any p := by
  rw [Bool.eq_iff_iff, List.any_eq_true, List.any_eq_true]
  refine exists_congr fun x => and_congr_left fun hx => List.mem_erase_of_ne ?_
  rintro rfl
  exact Bool.false_ne_true (he.symm.trans hx)

section
variable {s : State} {blk core : Nat} {b : Block}

/-- A step that is no remote write keeps no core waiting with its next allocation (10_memory_instructions R213). -/
theorem staleWrite_erase {e : Ev} (he : ∀ m, e ≠ .remoteMessage m) (core : Nat) :
    staleWrite (withPending s (s.pending.erase e)) core = staleWrite s core := by
  unfold staleWrite
  refine congrArg₂ (· || ·) (any_erase ?_) rfl
  cases e with
  | remoteMessage m => exact absurd rfl (he m)
  | _ => rfl

theorem moveCores_erase {e : Ev} (he : ∀ m, e ≠ .remoteMessage m) (blk : Nat) (b : Block) :
    moveCores (withPending s (s.pending.erase e)) blk b = moveCores s blk b := by
  have hopen : ∀ ctx x, coreOpen (withPending s (s.pending.erase e)) ctx x = coreOpen s ctx x := fun ctx x => funext fun core => by
    simp only [coreOpen, staleWrite_erase he]
    rfl
  have hfit : ∀ ctx x, fitCores (withPending s (s.pending.erase e)) ctx x = fitCores s ctx x := fun ctx x => funext fun stack => by
    simp only [fitCores, hopen]
    rfl
  have hrec : recordOf (withPending s (s.pending.erase e)) b = recordOf s b := rfl
  simp only [moveCores, hrec, hfit]
  rfl

theorem moveCores_ne_nil (hb : s.block blk = some b) (hdue : moveDue s blk = true) : moveCores s blk b ≠ [] := by
  unfold moveDue at hdue
  rw [hb] at hdue
  split at hdue
  · rename_i b' l heq _
    obtain rfl := Option.some.inj heq
    intro hnil
    simp [hnil] at hdue
  · cases hdue

/-- A block that starts to move goes to one of the cores that can take it. -/
theorem migration_acts (hb : s.block blk = some b) (hdue : moveDue s blk = true) :
    ∃ c p, (c, p) ∈ moveCores (withPending s (s.pending.erase (.migration blk))) blk b ∧
      Acts (.migration blk) (.migration blk) s fun s => (s.setBlock blk { b with status := .migrating }).post (.migrationComplete blk c) := by
  have hb' : ∀ es, (withPending s es).block blk = some b := fun _ => hb
  have hcores := moveCores_erase (s := s) (e := .migration blk) (fun _ => Ev.noConfusion) blk b
  have hlt : Config.arrival s.tick blk % (moveCores s blk b).length < (moveCores s blk b).length :=
    Nat.mod_lt _ (List.length_pos_iff.2 (moveCores_ne_nil hb hdue))
  obtain ⟨⟨c, p⟩, hget⟩ : ∃ q, (moveCores s blk b)[Config.arrival s.tick blk % (moveCores s blk b).length]? = some q :=
    ⟨_, List.getElem?_eq_getElem hlt⟩
  refine ⟨c, p, hcores ▸ List.mem_of_getElem? hget, acts_of (show execMigration blk s = _ from rfl) hdue ?_⟩
  simp only [hb', hcores, hget]

/-- A moving block that has drained moves to its core, when that core can still take it. -/
theorem migrationComplete_moves {p : Place} (hb : s.block blk = some b) (hdue : movedDue s blk = true) (hstr : stranded s blk = false)
    (hcore : (moveCores s blk b).find? (fun p => p.1 == core) = some (core, p)) :
    Acts (.migrationComplete blk core) (.migrationComplete blk core) s fun s => moveBlock s blk core b p := by
  have hb' : ∀ es, (withPending s es).block blk = some b := fun _ => hb
  have hstr' : ∀ es, stranded (withPending s es) blk = false := fun _ => hstr
  have hcores := moveCores_erase (s := s) (e := .migrationComplete blk core) (fun _ => Ev.noConfusion) blk b
  refine acts_of (show execMigrationComplete blk core s = _ from rfl) hdue ?_
  simp only [hb', hcores, hcore, hstr', Bool.false_eq_true, if_false]

end

/-! ## Forwarding entries (16_scheduling R378) -/

theorem forwardIdle_erase {s : State} {blk : Nat} (f : Forward) :
    forwardIdle (withPending s (s.pending.erase (.forwardingEntryRelease blk))) f = forwardIdle s f := by
  unfold forwardIdle carriesGen
  exact congrArg Bool.not (congrArg₂ (· || ·) (any_erase rfl) rfl)

/-- A release takes the forwarding entries of its block whose members have all acknowledged its new place, and changes nothing else. -/
theorem forwardingEntryRelease_acts {s : State} {blk : Nat} {f : Forward} (hf : f ∈ s.work.forwards) (hblk : f.blk = blk)
    (hidle : forwardIdle s f = true) :
    Acts (.forwardingEntryRelease blk) (.forwardingEntryRelease blk) s fun t =>
      { t with work := { t.work with forwards := s.work.forwards.filter fun f => !(f.blk == blk && forwardIdle s f) } } := by
  refine acts_of (show execForwardingEntryRelease blk s = _ from rfl) ?_ ?_
  · exact List.any_eq_true.2 ⟨f, hf, by simp [hblk, hidle]⟩
  · simp only [forwardIdle_erase]

/-! ## Pre-emption requests (19_traps R432) -/

section
variable {s : State} {blk : Nat} {b : Block}

theorem preemptionRequest_eq (hb : s.block blk = some b) : exec (.preemptionRequest blk) s =
    runEvent s (.preemptionRequest blk)
      ((coMembers s blk).all (preemptable s) && (wantedByHigher s b (coMembers s blk) || overQuota s b.ctx))
      fun s => (coMembers s blk).foldl (fun s k => if untouched s k then unplace s k else requestPreempt s k) s := by
  show execPreemptionRequest blk s = _
  simp only [execPreemptionRequest, hb]

theorem preemptionRequest_acts (hb : s.block blk = some b) (hco : coMembers s blk = [blk]) (hpre : preemptable s blk = true)
    (hwant : (wantedByHigher s b [blk] || overQuota s b.ctx) = true) :
    Acts (.preemptionRequest blk) (.preemptionRequest blk) s fun t =>
      if untouched s blk then unplace t blk else requestPreempt t blk := by
  have hco' : ∀ es, coMembers (withPending s es) blk = [blk] := fun _ => hco
  have hunt : ∀ es, untouched (withPending s es) blk = untouched s blk := fun _ => rfl
  refine acts_of (preemptionRequest_eq hb) ?_ ?_
  · simp only [hco, List.all_cons, List.all_nil, hpre, hwant, Bool.and_self]
  · simp only [hco', List.foldl_cons, List.foldl_nil, hunt]

end

/-! ## Pools that start (15_execution_model R348) -/

section
variable {s : State} {blk : Nat} {b : Block}

theorem poolWaveStart_acts {p : Pool} {n : Nat} (hdue : poolReady s blk = true) (hb : s.block blk = some b) (hp : nextPool s blk b = some p)
    (hn : freeWave s blk = some n) : Acts (.poolWaveStart blk) (.poolWaveStart blk) s fun s => startPool s blk n b p := by
  have hb' : ∀ es, (withPending s es).block blk = some b := fun _ => hb
  have hp' : ∀ es, nextPool (withPending s es) blk b = some p := fun _ => hp
  have hn' : ∀ es, freeWave (withPending s es) blk = some n := fun _ => hn
  refine acts_of (show execPoolWaveStart blk s = _ from rfl) hdue ?_
  simp only [hb', hp', hn']

end

end Sys2Proof.Placement
end

section
/-! PROOF. What a saved block, a moved block and a started pool leave (16_scheduling R374, R377, 15_execution_model R348, R349, 19_traps R434). -/

namespace Sys2Proof.Placement
open Machine MemorySteps FibreEnds

/-! ## Tables with entries left out -/

theorem look_filter {α : Type} {m : Map α} {p : Nat × α → Bool} {k : Nat} {x : α} (h : m.look k = some x) (hp : p (k, x) = true) :
    Map.look (m.filter p) k = some x := by
  induction m with
  | nil => cases h
  | cons q m ih =>
    obtain ⟨a, y⟩ := q
    by_cases ha : a = k
    · subst ha
      obtain rfl : y = x := Option.some.inj ((if_pos rfl).symm.trans h)
      rw [List.filter_cons_of_pos hp]
      exact if_pos rfl
    · have hrest := ih ((if_neg ha).symm.trans h)
      rw [List.filter_cons]
      split
      · exact (if_neg ha).trans hrest
      · exact hrest

theorem exists_look_of_mem {α : Type} {m : Map α} {k : Nat} {x : α} (h : (k, x) ∈ m) : ∃ y, m.look k = some y := by
  induction m with
  | nil => cases h
  | cons q m ih =>
    obtain ⟨a, y⟩ := q
    by_cases ha : a = k
    · exact ⟨y, if_pos ha⟩
    · rcases List.mem_cons.1 h with heq | hm
      · exact absurd (Prod.mk.inj heq).1.symm ha
      · obtain ⟨z, hz⟩ := ih hm
        exact ⟨z, (if_neg ha).trans hz⟩

theorem mem_wavesOf {s : State} {k : Nat} {w : Wave} (h : s.wave k = some w) : k ∈ wavesOf s w.blk :=
  List.mem_map.2 ⟨(k, w), List.mem_filter.2 ⟨Map.mem_of_look _ _ _ h, beq_self_eq_true _⟩, rfl⟩

/-! ## What a block leaves behind (16_scheduling R374) -/

theorem leaveForward_frame (s : State) (blk : Nat) (b : Block) :
    leaveForward s blk b = { s with work := { s.work with forwards := (leaveForward s blk b).work.forwards } } := by
  unfold leaveForward
  split <;> rfl

/-- Without held messages nothing is applied at the save area. -/
theorem applyHeld_setBlock {b : Block} (hm : b.heldMsgs = []) (s : State) (blk : Nat) :
    applyHeld (s.setBlock blk b) blk = (s.setBlock blk b).setBlock blk { b with heldMsgs := [] } := by
  simp only [applyHeld, State.block_setBlock, if_true, hm, List.foldl_nil]

/-- A block as it stands once it has been saved. -/
def savedBlock (b : Block) (wakes : List Wake) (uids : Map (Nat × Option Frag)) (sections : Bool) : Block :=
  { b with
    status := .saved, spm := [], slabs := [], tiles := [], cbufs := List.replicate 16 Cbuf.empty,
    parkStart := none, preempt := false, liveAtPreempt := [], savedWaves := [], wakes := wakes, savedUids := uids,
    holdsSections := sections, heldMsgs := [] }

/-- What a saved block leaves: its entry, no wave of its own, and memory, base dies and steps in flight as they were. -/
structure SavedAway (s t : State) (blk : Nat) (c : Block) : Prop where
  block : t.block blk = some c
  waves : t.work.waves = s.work.waves.filter fun p => p.2.blk != blk
  mem : t.mem = s.mem
  base : t.base = s.base
  pending : t.pending = s.pending

theorem savedAway_leaveSaved {s : State} {blk : Nat} {b : Block} (hb : s.block blk = some b) (hm : b.heldMsgs = []) (wakes : List Wake)
    (uids : Map (Nat × Option Frag)) (sections : Bool) :
    SavedAway s (leaveSaved s blk wakes uids sections) blk (savedBlock b wakes uids sections) := by
  unfold leaveSaved
  rw [hb]
  dsimp only
  rw [applyHeld_setBlock (by exact hm), leaveForward_frame]
  exact ⟨Map.look_put_self .., rfl, rfl, rfl, rfl⟩

section
variable {s t : State} {blk : Nat} {c : Block} (h : SavedAway s t blk c)
include h

theorem SavedAway.wave_of {j : Nat} {w : Wave} (hw : t.wave j = some w) : w.blk ≠ blk ∧ ∃ v, s.wave j = some v := by
  have hmem : (j, w) ∈ s.work.waves.filter fun p => p.2.blk != blk := h.waves ▸ Map.mem_of_look _ _ _ hw
  obtain ⟨hold, hne⟩ := List.mem_filter.1 hmem
  exact ⟨by simpa using hne, exists_look_of_mem hold⟩

theorem SavedAway.wave_kept {j : Nat} {w : Wave} (hw : s.wave j = some w) (hne : w.blk ≠ blk) : t.wave j = some w := by
  rw [State.wave, h.waves]
  exact look_filter hw (by simpa using hne)

end

/-! ## Results that land (19_traps R436) -/

theorem landWord_frame (s : State) (o : MemOp) (lane : Nat) (w : Wave) (q : Nat × Word) :
    landWord s o lane w q = { w with vregs := (landWord s o lane w q).vregs } := by
  unfold landWord
  dsimp only
  split <;> rfl

theorem landOp_frame (s : State) (w : Wave) (o : MemOp) : landOp s w o = { w with vregs := (landOp s w o).vregs } := by
  refine foldl_keeps (P := fun v : Wave => v = { w with vregs := v.vregs }) (fun v x hv => ?_) o.subs w rfl
  refine foldl_keeps (P := fun v : Wave => v = { w with vregs := v.vregs }) (fun v q hv => ?_) _ v hv
  rw [landWord_frame, hv]

/-- Results that land change registers alone, and the operations are finished. -/
theorem landAll_frame (s : State) (w : Wave) : landAll s w = { w with vregs := (landAll s w).vregs, ops := [] } := by
  have h : w.ops.foldl (landOp s) w = { w with vregs := (w.ops.foldl (landOp s) w).vregs } := by
    refine foldl_keeps (P := fun v : Wave => v = { w with vregs := v.vregs }) (fun v o hv => ?_) w.ops w rfl
    rw [landOp_frame, hv]
  unfold landAll
  rw [h]

/-- Two states whose waves hold the same fibres for the same blocks. -/
def SameFibres (s t : State) : Prop := ∀ j, (t.wave j).map (fun w => (w.blk, w.fibres)) = (s.wave j).map fun w => (w.blk, w.fibres)

theorem SameFibres.trans {s t u : State} (h1 : SameFibres s t) (h2 : SameFibres t u) : SameFibres s u := fun j => (h2 j).trans (h1 j)

theorem SameFibres.exists {s t : State} (h : SameFibres s t) {j : Nat} {w : Wave} (hw : s.wave j = some w) :
    ∃ v, t.wave j = some v ∧ v.blk = w.blk ∧ v.fibres = w.fibres := by
  have hj := h j
  rw [hw] at hj
  obtain ⟨v, hv, heq⟩ := Option.map_eq_some_iff.1 hj
  obtain ⟨hblk, hfib⟩ := Prod.mk.inj heq
  exact ⟨v, hv, hblk, hfib⟩

theorem sameFibres_mapWave (s : State) (k : Nat) {f : Wave → Wave} (hf : ∀ w, (f w).blk = w.blk ∧ (f w).fibres = w.fibres) :
    SameFibres s (s.mapWave k f) := fun j => by
  rw [State.wave_mapWave]
  split
  · next hj =>
    subst hj
    cases s.wave j with
    | none => rfl
    | some w => exact congrArg some (Prod.ext (hf w).1 (hf w).2)
  · rfl

theorem landAll_keeps (s : State) (w : Wave) : (landAll s w).blk = w.blk ∧ (landAll s w).fibres = w.fibres := by
  rw [landAll_frame]
  exact ⟨rfl, rfl⟩

theorem sameFibres_landed (ks : List Nat) (s : State) : SameFibres s (ks.foldl (fun s j => s.mapWave j (landAll s)) s) :=
  foldl_keeps (P := SameFibres s) (fun t k ht => ht.trans (sameFibres_mapWave t k (landAll_keeps t))) ks s fun _ => rfl

theorem block_landed (ks : List Nat) (s : State) (blk : Nat) :
    (ks.foldl (fun s j => s.mapWave j (landAll s)) s).block blk = s.block blk :=
  foldl_keeps (P := fun t : State => t.block blk = s.block blk) (f := fun t j => t.mapWave j (landAll t)) (fun _ _ ht => ht) ks s rfl

/-! ## Waits that a saved block's fibres had (12_ordered_sections R271) -/

/-- The requests and waits of a wave's fibres withdrawn. -/
def withdrawWave (s : State) (k : Nat) : State :=
  match s.wave k with
  | some w => dropWaits (withdraw s k w) fun q => w.fibres.any fun p => p.2.uid == q.req.uid
  | none => s

theorem withdrawBlock_eq (s : State) (blk : Nat) : withdrawBlock s blk = (wavesOf s blk).foldl withdrawWave s := rfl

/-- What the withdrawal of requests leaves: the blocks and the fibres, and of the waits none that was not there. -/
structure Withdraws (s t : State) : Prop where
  block : ∀ j, t.block j = s.block j
  fibres : SameFibres s t
  waits : ∀ x ∈ t.base.waits, x ∈ s.base.waits

theorem Withdraws.refl (s : State) : Withdraws s s := ⟨fun _ => rfl, fun _ => rfl, fun _ hx => hx⟩

theorem Withdraws.trans {s t u : State} (h1 : Withdraws s t) (h2 : Withdraws t u) : Withdraws s u :=
  ⟨fun j => (h2.block j).trans (h1.block j), h1.fibres.trans h2.fibres, fun x hx => h1.waits x (h2.waits x hx)⟩

theorem withdraws_dropWaits (s : State) (p : WpWait → Bool) : Withdraws s (dropWaits s p) :=
  ⟨fun j => by rw [State.block, dropWaits_work]; rfl, fun j => by rw [State.wave, dropWaits_work]; rfl,
    fun x hx => ((mem_waits_dropWaits ..).1 hx).1⟩

theorem withdraws_withdraw {s : State} {k : Nat} {w : Wave} (hw : s.wave k = some w) : Withdraws s (withdraw s k w) := by
  have hdrop := withdraws_dropWaits { s with pending := s.pending.filter fun e => w.fibres.all fun p => !asksFor p.2.uid e } fun q =>
    reqParks q.req && w.fibres.any fun p => p.2.uid == q.req.uid
  refine ⟨hdrop.block, fun j => ?_, hdrop.waits⟩
  unfold withdraw
  rw [State.wave_setWave]
  split
  · next hj => rw [hj, hw]; rfl
  · exact hdrop.fibres j

theorem withdrawWave_some {s : State} {k : Nat} {w : Wave} (hw : s.wave k = some w) :
    Withdraws s (withdrawWave s k) ∧ ∀ f ∈ w.fibres, ∀ x ∈ (withdrawWave s k).base.waits, x.req.uid ≠ f.2.uid := by
  simp only [withdrawWave, hw]
  refine ⟨(withdraws_withdraw hw).trans (withdraws_dropWaits ..), fun f hf x hx heq => ?_⟩
  have hnone := ((mem_waits_dropWaits ..).1 hx).2
  rw [List.any_eq_false] at hnone
  exact hnone f hf (by simp [heq])

theorem withdraws_withdrawWave (s : State) (k : Nat) : Withdraws s (withdrawWave s k) := by
  cases hw : s.wave k with
  | none =>
    simp only [withdrawWave, hw]
    exact .refl s
  | some w => exact (withdrawWave_some hw).1

theorem withdraws_fold (ks : List Nat) (s : State) : Withdraws s (ks.foldl withdrawWave s) :=
  foldl_keeps (P := Withdraws s) (fun t k ht => ht.trans (withdraws_withdrawWave t k)) ks s (.refl s)

/-- No fibre of a wave whose requests have been withdrawn waits any more. -/
theorem no_wait_of_withdrawn {ks : List Nat} {s : State} {k : Nat} (hk : k ∈ ks) {w : Wave} (hw : s.wave k = some w) :
    ∀ f ∈ w.fibres, ∀ x ∈ (ks.foldl withdrawWave s).base.waits, x.req.uid ≠ f.2.uid := by
  induction ks generalizing s w with
  | nil => cases hk
  | cons j ks ih =>
    intro f hf x hx
    rcases List.mem_cons.1 hk with rfl | hk
    · exact (withdrawWave_some hw).2 f hf x ((withdraws_fold ks _).waits x hx)
    · obtain ⟨v, hv, -, hfib⟩ := (withdraws_withdrawWave s j).fibres.exists hw
      exact ih hk hv f (hfib ▸ hf) x hx

/-- The state whose block is written: the dirty bytes of its core are released, and its waves' results have landed. -/
def landedBlock (s : State) (blk core : Nat) : State :=
  (wavesOf s blk).foldl (fun s j => s.mapWave j (landAll s)) { s with mem := releaseBytes s.mem core }

/-- A block whose image has been written leaves its core; one whose image meets a fault is contained (R374, 19_traps R434). -/
def afterImage (s1 : State) (blk : Nat) : Option State → State
  | some s2 => leaveSaved (withdrawBlock s2 blk) blk (wakesOf s1 blk) (uidsOf s1 blk) (hasSections s1 blk)
  | none => containBlock s1 blk 0x103

theorem saveBlock_eq {s : State} {blk : Nat} {b : Block} (hb : s.block blk = some b) : saveBlock s blk =
    afterImage (landedBlock s blk b.core) blk
      (((landedBlock s blk b.core).block blk).bind fun c => writeImage (landedBlock s blk b.core) blk c) := by
  have hcore : ((s.block blk).map Block.core).getD 0 = b.core := by rw [hb]; rfl
  rw [← hcore]
  rfl

theorem saveBlock_written {s q : State} {blk : Nat} {b : Block} (hb : s.block blk = some b)
    (hq : ((landedBlock s blk b.core).block blk).bind (fun c => writeImage (landedBlock s blk b.core) blk c) = some q) :
    ∃ wakes uids sections, saveBlock s blk = leaveSaved (withdrawBlock q blk) blk wakes uids sections :=
  ⟨_, _, _, (saveBlock_eq hb).trans (congrArg (afterImage (landedBlock s blk b.core) blk) hq)⟩

/-- Once its image has been written, a block has no waves, and none of its fibres waits for a section. -/
theorem saveBlock_leaves {s q : State} {blk : Nat} {b : Block} (hb : s.block blk = some b) (hm : b.heldMsgs = [])
    (hq : ((landedBlock s blk b.core).block blk).bind (fun c => writeImage (landedBlock s blk b.core) blk c) = some q)
    (hwork : q.work = (landedBlock s blk b.core).work) :
    (∀ j w, (saveBlock s blk).wave j = some w → w.blk ≠ blk) ∧
      ∀ j w, s.wave j = some w → w.blk = blk → ∀ f ∈ w.fibres, ∀ x ∈ (saveBlock s blk).base.waits, x.req.uid ≠ f.2.uid := by
  obtain ⟨wakes, uids, sections, heq⟩ := saveBlock_written hb hq
  have hblock : q.block blk = some b := by
    rw [State.block, hwork]
    exact (block_landed ..).trans hb
  have hsame : SameFibres s q := fun j => by
    rw [State.wave, hwork]
    exact sameFibres_landed (wavesOf s blk) { s with mem := releaseBytes s.mem b.core } j
  have hkept := ((withdrawBlock_eq q blk) ▸ (withdraws_fold (wavesOf q blk) q).block blk).trans hblock
  have haway := savedAway_leaveSaved hkept hm wakes uids sections
  rw [heq]
  refine ⟨fun j w hw => (haway.wave_of hw).1, fun j w hw hblk f hf x hx => ?_⟩
  obtain ⟨v, hv, hvblk, hfib⟩ := hsame.exists hw
  rw [haway.base, withdrawBlock_eq] at hx
  exact no_wait_of_withdrawn (hblk ▸ hvblk ▸ mem_wavesOf hv) hv f (hfib ▸ hf) x hx

/-! ## A block on its new core (16_scheduling R377) -/

/-- A wave of a moved block takes its place on the new core, with its results in its registers. -/
def moveWave (core : Nat) (s : State) (k : Nat) : State := joinCore (s.mapWave k (landAll s)) core k

theorem wave_moveWave (core : Nat) (s : State) (k j : Nat) :
    (moveWave core s k).wave j = if j = k then (s.wave k).map (landAll s) else s.wave j := State.wave_mapWave ..

theorem moveWaves_frame (core : Nat) (ks : List Nat) (s : State) :
    (ks.foldl (moveWave core) s).work.blocks = s.work.blocks ∧ (ks.foldl (moveWave core) s).base = s.base :=
  foldl_keeps (P := fun t : State => t.work.blocks = s.work.blocks ∧ t.base = s.base) (f := moveWave core) (fun _ _ ht => ht) ks s ⟨rfl, rfl⟩

theorem wave_moveWaves_other (core : Nat) {ks : List Nat} {j : Nat} (hj : j ∉ ks) (s : State) :
    (ks.foldl (moveWave core) s).wave j = s.wave j := by
  induction ks generalizing s with
  | nil => rfl
  | cons k ks ih =>
    obtain ⟨hne, hrest⟩ := not_or.1 (mt List.mem_cons.2 hj)
    exact (ih hrest _).trans ((wave_moveWave ..).trans (if_neg hne))

/-- A wave that has landed stays so. -/
theorem landed_moveWaves (core : Nat) (ks : List Nat) {s : State} {j : Nat} (h : ∃ v, s.wave j = some v ∧ v.ops = []) :
    ∃ v, (ks.foldl (moveWave core) s).wave j = some v ∧ v.ops = [] := by
  refine foldl_keeps (P := fun t : State => ∃ v, t.wave j = some v ∧ v.ops = []) (fun t k ht => ?_) ks s h
  obtain ⟨v, hv, hops⟩ := ht
  rw [wave_moveWave]
  split
  · next hk => exact ⟨landAll t v, by rw [← hk, hv]; rfl, rfl⟩
  · exact ⟨v, hv, hops⟩

theorem ops_moveWaves (core : Nat) {ks : List Nat} {j : Nat} (hj : j ∈ ks) {s : State} {w : Wave} (hw : s.wave j = some w) :
    ∃ v, (ks.foldl (moveWave core) s).wave j = some v ∧ v.ops = [] := by
  induction ks generalizing s w with
  | nil => cases hj
  | cons k ks ih =>
    by_cases hk : j = k
    · subst hk
      exact landed_moveWaves core ks ⟨landAll s w, by rw [wave_moveWave, if_pos rfl, hw]; rfl, rfl⟩
    · exact ih ((List.mem_cons.1 hj).resolve_left hk) ((wave_moveWave ..).trans ((if_neg hk).trans hw))

/-- Subscriptions that a core drops change no wait and no work. -/
theorem dropSubs_fold (core : Nat) (qs : List WpWait) (s : State) :
    (qs.foldl (fun s q => dropSubs s core q.req.ctx q.req.key) s).work = s.work ∧
      (qs.foldl (fun s q => dropSubs s core q.req.ctx q.req.key) s).base.waits = s.base.waits := by
  refine foldl_keeps (P := fun t : State => t.work = s.work ∧ t.base.waits = s.base.waits) (fun t q ht => ?_) qs s ⟨rfl, rfl⟩
  rw [dropSubs_frame]
  exact ht

/-- One of some waves holds a fibre. -/
def holdsFibre (s : State) (ks : List Nat) (u : Nat) : Bool :=
  ks.any fun k => ((s.wave k).map fun w => w.fibres.any fun q => q.2.uid == u).getD false

theorem holdsFibre_of_mem {s : State} {ks : List Nat} {k : Nat} {w : Wave} (hk : k ∈ ks) (hw : s.wave k = some w) {f : Nat × Fibre}
    (hf : f ∈ w.fibres) : holdsFibre s ks f.2.uid = true :=
  List.any_eq_true.2 ⟨k, hk, by rw [hw]; exact List.any_eq_true.2 ⟨f, hf, beq_self_eq_true _⟩⟩

/-- What a move leaves: the block's entry on its new core, its waves landed there, and the waits of its fibres. -/
structure MovedTo (s t : State) (blk core : Nat) (c : Block) : Prop where
  block : t.block blk = some c
  landed : ∀ j w, s.wave j = some w → j ∈ wavesOf s blk → ∃ v, t.wave j = some v ∧ v.ops = []
  others : ∀ j, j ∉ wavesOf s blk → t.wave j = s.wave j
  waits : t.base.waits = s.base.waits.map fun q => if holdsFibre s (wavesOf s blk) q.req.uid then { q with core := core } else q

theorem movedTo_of_landing {s u : State} {blk core : Nat} {c : Block} (m : MemSys) (old : Nat) (qs : List WpWait) (hblock : u.block blk = some c)
    (hwaves : u.work.waves = s.work.waves)
    (hwaits : u.base.waits = s.base.waits.map fun q => if holdsFibre s (wavesOf s blk) q.req.uid then { q with core := core } else q) :
    MovedTo s { qs.foldl (fun s q => dropSubs s old q.req.ctx q.req.key) ((wavesOf s blk).foldl (moveWave core) u) with mem := m } blk core c := by
  obtain ⟨hwork, hkept⟩ := dropSubs_fold old qs ((wavesOf s blk).foldl (moveWave core) u)
  obtain ⟨hblocks, hbase⟩ := moveWaves_frame core (wavesOf s blk) u
  have hwave : ∀ j, s.wave j = u.wave j := fun j => congrArg (fun m : Map Wave => m.look j) hwaves.symm
  refine ⟨?_, fun j w hw hj => ?_, fun j hj => ?_, hkept.trans ((congrArg Base.waits hbase).trans hwaits)⟩
  · exact (congrArg (fun x : Work => x.blocks.look blk) hwork).trans ((congrArg (fun m : Map Block => m.look blk) hblocks).trans hblock)
  · obtain ⟨v, hv, hops⟩ := ops_moveWaves core hj ((hwave j).symm.trans hw)
    exact ⟨v, (congrArg (fun x : Work => x.waves.look j) hwork).trans hv, hops⟩
  · exact (congrArg (fun x : Work => x.waves.look j) hwork).trans ((wave_moveWaves_other core hj u).trans (hwave j).symm)

theorem moveBlock_moves (s : State) (blk core : Nat) (b : Block) (p : Place) :
    ∃ gen, MovedTo s (moveBlock s blk core b p) blk core
      { b with core := core, stack := stackOf core, gen := gen, status := .running, place := p } := by
  unfold moveBlock
  rw [leaveForward_frame]
  exact ⟨_, movedTo_of_landing _ b.core _ (Map.look_put_self ..) rfl rfl⟩

/-- Where waves are numbered within their blocks, those of another block are none of a block's. -/
theorem not_mem_wavesOf {s : State} (hkeys : ∀ q ∈ s.work.waves, q.2.blk = q.1 / 16) {blk j : Nat} {w : Wave} (hw : s.wave j = some w)
    (hne : w.blk ≠ blk) : j ∉ wavesOf s blk := by
  intro hj
  obtain ⟨⟨i, v⟩, hv, rfl⟩ := List.mem_map.1 hj
  obtain ⟨hmem, hblk⟩ := List.mem_filter.1 hv
  have hjw : w.blk = i / 16 := hkeys _ (Map.mem_of_look _ _ _ hw)
  exact hne (hjw.trans ((hkeys _ hmem).symm.trans (beq_iff_eq.1 hblk)))

theorem MovedTo.wait_core {s t : State} {blk core : Nat} {c : Block} (h : MovedTo s t blk core c) {j : Nat} {w : Wave} (hw : s.wave j = some w)
    (hblk : w.blk = blk) {f : Nat × Fibre} (hf : f ∈ w.fibres) {x : WpWait} (hx : x ∈ t.base.waits) (hu : x.req.uid = f.2.uid) :
    x.core = core := by
  rw [h.waits] at hx
  obtain ⟨q, -, rfl⟩ := List.mem_map.1 hx
  have hreq : q.req.uid = f.2.uid := by
    rw [← hu]
    split <;> rfl
  rw [hreq, if_pos (holdsFibre_of_mem (hblk ▸ mem_wavesOf hw) hw hf)]

/-! ## The wave that a pool starts (15_execution_model R348, R349) -/

/-- The members of a list under their numbers. -/
theorem mem_zip_range {α : Type} {xs : List α} {i : Nat} {x : α} (h : xs[i]? = some x) : (i, x) ∈ (List.range xs.length).zip xs := by
  obtain ⟨hi, hx⟩ := List.getElem?_eq_some_iff.1 h
  refine List.mem_of_getElem? (i := i) ?_
  rw [List.getElem?_zip_eq_some]
  exact ⟨List.getElem?_range hi, h⟩

theorem keys_zip_range {α : Type} (xs : List α) : ((List.range xs.length).zip xs).map Prod.fst = List.range xs.length :=
  List.map_fst_zip (Nat.le_of_eq List.length_range)

theorem look_zip_range {α : Type} {xs : List α} {i : Nat} {x : α} (h : xs[i]? = some x) :
    Map.look ((List.range xs.length).zip xs) i = some x :=
  UnitTiles.look_of_mem_nodup (by rw [keys_zip_range]; exact List.nodup_range) (mem_zip_range h)

/-- The register words that the members of a pool bring, in their lane slots. -/
def poolRegs (p : Pool) : List (Nat × Word) :=
  ((List.range p.members.length).zip p.members).flatMap fun m =>
    ((List.range m.2.regs.length).zip m.2.regs).map fun v => (physKey m.1 v.1, v.2)

/-- Registers written by members one after the other. -/
def writeMember (w : Wave) (m : Nat × PoolFibre) : Wave :=
  ((List.range m.2.regs.length).zip m.2.regs).foldl (fun w v => writePhys w m.1 v.1 v.2) w

/-- A wave without operations in flight has registers written alone. -/
theorem writeMember_frame {w : Wave} (hw : w.ops = []) (m : Nat × PoolFibre) :
    writeMember w m = { w with vregs := (writeMember w m).vregs, ops := [] } := by
  refine foldl_keeps (P := fun v : Wave => v = { w with vregs := v.vregs, ops := [] }) (fun v x hv => ?_) _ w (by rw [← hw])
  rw [hv]
  rfl

theorem writeMember_vregs (w : Wave) (m : Nat × PoolFibre) :
    (writeMember w m).vregs = (((List.range m.2.regs.length).zip m.2.regs).map fun v => (physKey m.1 v.1, v.2)).foldl
      (fun (r : Map Word) q => r.store q.1 q.2 0) w.vregs := by
  rw [List.foldl_map]
  exact (List.foldl_hom Wave.vregs fun _ _ => rfl).symm

theorem writeMembers_vregs (w : Wave) (ms : List (Nat × PoolFibre)) :
    (ms.foldl writeMember w).vregs =
      (ms.flatMap fun m => ((List.range m.2.regs.length).zip m.2.regs).map fun v => (physKey m.1 v.1, v.2)).foldl
        (fun (r : Map Word) q => r.store q.1 q.2 0) w.vregs := by
  induction ms generalizing w with
  | nil => rfl
  | cons m ms ih => rw [List.foldl_cons, ih, List.flatMap_cons, List.foldl_append, writeMember_vregs]

/-- A pool's wave is a fresh one whose lane slots hold the members and whose registers hold what they bring. -/
theorem poolWave_eq (blk num : Nat) (cfg : Word) (l : Launch) (base : DWord) (p : Pool) :
    poolWave blk num cfg l base p =
      { freshWave blk num cfg l.level base l.consts ((List.range p.members.length).zip (p.members.map PoolFibre.fibre)) with
        vregs := (poolRegs p).foldl (fun (r : Map Word) q => r.store q.1 q.2 0) [] } := by
  have hfresh : (freshWave blk num cfg l.level base l.consts ((List.range p.members.length).zip (p.members.map PoolFibre.fibre))).ops = [] := rfl
  have hframe : ∀ ms : List (Nat × PoolFibre), ∀ w : Wave, w.ops = [] →
      ms.foldl writeMember w = { w with vregs := (ms.foldl writeMember w).vregs, ops := [] } := fun ms w hw => by
    refine foldl_keeps (P := fun v : Wave => v = { w with vregs := v.vregs, ops := [] }) (fun v m hv => ?_) ms w (by rw [← hw])
    rw [writeMember_frame (by rw [hv]), hv]
  exact (hframe _ _ hfresh).trans (by rw [writeMembers_vregs]; rfl)

/-- Members with at most 4096 registers each write registers that differ. -/
theorem poolRegs_nodup {p : Pool} (hsmall : ∀ y ∈ p.members, y.regs.length ≤ 4096) : ((poolRegs p).map Prod.fst).Nodup := by
  have hmem : ∀ m ∈ (List.range p.members.length).zip p.members, m.2.regs.length ≤ 4096 := fun m hm => hsmall _ (List.of_mem_zip hm).2
  have hkeys : ∀ m : Nat × PoolFibre, (((List.range m.2.regs.length).zip m.2.regs).map fun v => (physKey m.1 v.1, v.2)).map Prod.fst =
      (List.range m.2.regs.length).map (physKey m.1) := fun m => by
    rw [List.map_map]
    exact (List.map_map (l := (List.range m.2.regs.length).zip m.2.regs) (f := Prod.fst) (g := physKey m.1)).symm.trans
      (congrArg (List.map (physKey m.1)) (keys_zip_range m.2.regs))
  rw [poolRegs, List.map_flatMap]
  simp only [hkeys]
  refine List.nodup_flatMap.2 ⟨fun m hm => ?_, ?_⟩
  · exact List.Nodup.map (fun i j h => Nat.add_left_cancel h) List.nodup_range
  · have hlanes : ((List.range p.members.length).zip p.members).Pairwise fun m n => m.1 ≠ n.1 :=
      List.pairwise_map.1 ((keys_zip_range p.members).symm.subst (motive := List.Pairwise (· ≠ ·)) List.nodup_range)
    refine hlanes.imp_of_mem fun hm hn hne => ?_
    intro q hq hq'
    obtain ⟨i, hi, rfl⟩ := List.mem_map.1 hq
    obtain ⟨j, hj, hij⟩ := List.mem_map.1 hq'
    have hi' := (List.mem_range.1 hi).trans_le (hmem _ hm)
    have hj' := (List.mem_range.1 hj).trans_le (hmem _ hn)
    exact hne ((FibreWords.physKey_inj hj' hi').1 hij).1.symm

theorem poolWave_reg {blk num : Nat} {cfg : Word} {l : Launch} {base : DWord} {p : Pool} (hsmall : ∀ y ∈ p.members, y.regs.length ≤ 4096)
    {j i : Nat} {m : PoolFibre} {x : Word} (hm : p.members[j]? = some m) (hx : m.regs[i]? = some x) :
    (poolWave blk num cfg l base p).vregs.get (physKey j i) 0 = x := by
  rw [poolWave_eq]
  refine (UnitTiles.get_foldl_store 0 (poolRegs p) [] (poolRegs_nodup hsmall)).1 (physKey j i, x) ?_
  exact List.mem_flatMap.2 ⟨(j, m), mem_zip_range hm, List.mem_map.2 ⟨(i, x), mem_zip_range hx, rfl⟩⟩

theorem poolWave_fibre {blk num : Nat} {cfg : Word} {l : Launch} {base : DWord} {p : Pool} {j : Nat} {m : PoolFibre}
    (hm : p.members[j]? = some m) : (poolWave blk num cfg l base p).fibres.look j = some m.fibre := by
  have hlook := look_zip_range (xs := p.members.map PoolFibre.fibre) (i := j) (x := m.fibre) (by rw [List.getElem?_map, hm]; rfl)
  rw [List.length_map] at hlook
  rw [poolWave_eq]
  exact hlook

/-- The state in which a pool's wave has started, before the fibres that wait for room enter the pools. -/
def poolStarted (s : State) (blk num : Nat) (b : Block) (p : Pool) (l : Launch) : State :=
  (joinCore ((s.setBlock blk { b with pools := b.pools.erase p }).setWave (waveKey blk num)
      ((poolWave blk num (nth l.record 3) l (BitVec.ofNat 64 (recDword s blk 0)) p).numbered s.tick)) b.core (waveKey blk num)).posts
    (((List.range p.members.length).zip p.members).flatMap fun m =>
      m.2.owed.map fun key => Ev.tableFullReport (waveKey blk num) (2 ^ m.1) key true)

theorem startPool_eq {s : State} {b : Block} {l : Launch} (hl : s.work.launches.look b.launch = some l) (blk num : Nat) (p : Pool) :
    startPool s blk num b p = admitRegroup (poolStarted s blk num b p l) blk p.members.length := by
  simp only [startPool, hl]
  rfl

theorem wave_poolStarted (s : State) (blk num : Nat) (b : Block) (p : Pool) (l : Launch) (j : Nat) :
    (poolStarted s blk num b p l).wave j = if j = waveKey blk num then
      some ((poolWave blk num (nth l.record 3) l (BitVec.ofNat 64 (recDword s blk 0)) p).numbered s.tick) else s.wave j :=
  State.wave_setWave ..

/-- Settles O42. -/
theorem placementSteps : Obligations.PlacementSteps := by
  unfold Obligations.PlacementSteps
  intro k core blk s
  refine ⟨fun w hw hdue => waveToPending_acts hw hdue,
    fun w hw hover hpend => pendingWaveReady_acts hw (readyDue_of_unready hw hover hpend),
    fun p a hdue => forcedExchange_acts hdue,
    fun hdue hco => saveOnWait_acts hdue hco,
    fun b hb hdue => ⟨fun hh => saveComplete_byHandler hb hdue hh, fun hh hall => ?written, fun hh hsome => ?givenUp⟩,
    fun b hb hdue => migration_acts hb hdue,
    fun b p hb hdue hstr hcore => migrationComplete_moves hb hdue hstr hcore,
    fun f hf hblk hidle => ⟨_, forwardingEntryRelease_acts hf hblk hidle, ?released, fun _ hf => (List.mem_filter.1 hf).1, rfl, rfl, rfl⟩,
    fun b hb hco hpre hwant => ⟨fun hunt => ?removed, fun hunt => ?requested⟩,
    fun b p n hdue hb hp hn => poolWaveStart_acts hdue hb hp hn,
    fun b wakes uids sections hb hm => ?away,
    fun b q hb hm => fun hq hwork _ => saveBlock_leaves hb hm hq hwork,
    fun b p hb hkeys => ?moved, fun b p n l hl => ?started⟩
  case written =>
    have hacts := saveComplete_onWait hb hdue hh
    rw [List.all_eq_true.2 hall] at hacts
    exact hacts
  case givenUp =>
    obtain ⟨m, hm, hw⟩ := hsome
    have hacts := saveComplete_onWait hb hdue hh
    rw [List.all_eq_false.2 ⟨m, hm, by simp [hw]⟩] at hacts
    exact hacts
  case released =>
    intro hin
    have := (List.mem_filter.1 hin).2
    simp [hblk, hidle] at this
  case removed =>
    have hacts := preemptionRequest_acts hb hco hpre hwant
    rw [hunt] at hacts
    exact hacts
  case requested =>
    have hacts := preemptionRequest_acts hb hco hpre hwant
    rw [hunt] at hacts
    exact hacts
  case away =>
    have haway := savedAway_leaveSaved hb hm wakes uids sections
    exact ⟨⟨_, haway.block, rfl, rfl, rfl, rfl, rfl, rfl, rfl⟩, fun j w => haway.wave_of, fun j w => haway.wave_kept, haway.mem, haway.base,
      haway.pending⟩
  case moved =>
    obtain ⟨gen, hmoved⟩ := moveBlock_moves s blk core b p
    refine ⟨⟨_, hmoved.block, rfl, rfl, rfl, rfl, rfl, rfl⟩, fun j w hw hblk => ⟨hmoved.landed j w hw (hblk ▸ mem_wavesOf hw), ?_⟩,
      fun j w hw hne => (hmoved.others j (not_mem_wavesOf hkeys hw hne)).trans hw⟩
    exact fun f hf x hx hu => hmoved.wait_core hw hblk hf hx hu
  case started =>
    refine ⟨poolStarted s blk n b p l, startPool_eq hl blk n p, rfl, rfl, fun j hj => (wave_poolStarted ..).trans (if_neg hj),
      Map.look_put_self .., _, (wave_poolStarted ..).trans (if_pos rfl), ?_⟩
    have hwave := poolWave_eq blk n (nth l.record 3) l (BitVec.ofNat 64 (recDword s blk 0)) p
    refine ⟨congrArg Wave.blk hwave, congrArg Wave.num hwave, congrArg Wave.level hwave, congrArg Wave.loops hwave, congrArg Wave.fstat hwave,
      congrArg Wave.ops hwave, congrArg (fun w => w.rep.active) hwave, fun j m hm => ⟨poolWave_fibre hm, fun hsmall i x hx => ?_⟩⟩
    exact poolWave_reg hsmall hm hx

end Sys2Proof.Placement
end
